-- ==== Sys2Proof/Word.lean ====
section
/-!
DEFINITION. Sys2Proof/Word.lean: the word types of the Eulopa E64 module, the
names of its parts (dies, blocks, device states, reset levels) and the two small containers the state is built from.
-/
namespace Sys2Proof

/-- One byte. -/
abbrev Byte := BitVec 8

/-- A 32-bit register word. -/
abbrev Word := BitVec 32

/-- A 64-bit operand word of the fabric. -/
abbrev Word64 := BitVec 64

/-- A value of TB_NOW, in ticks of 10 ns (R269). -/
abbrev Tick := BitVec 64

/-- The two sides, which are also the two logic dies, cores and store dies: A is LA, EA, SA; B is LB, EB, SB (R10). -/
inductive Side where
  | a | b
deriving DecidableEq, Repr, Inhabited

/-- One value for each side. -/
structure Two (α : Type) where
  a : α
  b : α
deriving DecidableEq, Repr, Inhabited

/-- The fourteen blocks, in the order of their block IDs 0x01 to 0x0E (R12). -/
inductive Block where
  | ib | ps | af | os | ev | sc | tb | hp | wq | pl | cv | ms | pcr | st
deriving DecidableEq, Repr, Inhabited

/-- The device states, in the order of their codes 0x0 to 0x6 (R25). -/
inductive DevState where
  | reset | start | idle | run | hold | recovery | halt
deriving DecidableEq, Repr, Inhabited

/-- The three reset levels, the deepest last (R416). -/
inductive ResetLevel where
  | core | system | powerOn
deriving DecidableEq, Repr, Inhabited

/-- The life-cycle states (R439). -/
inductive LifeCycle where
  | blank | develop | commission | safeRun | split | retired
deriving DecidableEq, Repr, Inhabited

/-- The classes of a fault, the most severe last (R250). -/
inductive FaultClass where
  | corrected | contained | fatal
deriving DecidableEq, Repr, Inhabited

end Sys2Proof
end

