-- ==== Sys2Proof/Facts.lean ====
section
/-!
DEFINITION. Sys2Proof/Facts.lean: the facts of the outside world that an event carries to the module: voltages, measured
samples, read-back, what arrived on a link or from a host. The module's rules decide what follows from them.
-/
namespace Sys2Proof

/-- Where an input terminal's voltage lies: below 5 V, in the band of R135, above it, or above V_ovf (R136). -/
inductive VoltZone where
  | below | band | high | over
deriving DecidableEq, Repr, Inhabited

/-- A clock domain whose blocks are released when its clock is steady (R421). -/
inductive ClockName where
  | tb
  | str (die : Side)
  | adc (q : Fin 4)
  | plk
  | hp (port : Side)
deriving DecidableEq, Repr

/-- A clock whose trip is a reset source (R412). -/
inductive MonClock where
  | refclk | tbMaster | tbChecking
deriving DecidableEq, Repr

/-- Read-back of one output (R202, R211): midpoint or AUXnn_H above 11 V; terminal above 11 V; terminal or AUXnn_L below 2 V;
I_L and I_H in mA. -/
structure OutSense where
  hi : Bool
  termHi : Bool
  lo : Bool
  current : Nat
  currentH : Nat
deriving DecidableEq, Repr, Inhabited

/-- What the front-end dies deliver on a sample edge (R37, R39, R505, R394). -/
structure Sample where
  /-- Quarters whose transfer over QLq fails its link check, a missing supply of ODq included (R39, R505). -/
  xferFail : BitVec 4
  /-- Read-back of the outputs, in ascending order; an output not listed reads as one with no voltage. -/
  outs : List OutSense
  /-- Source read-backs above 11 V (R167). -/
  psOut : BitVec 32
  /-- Sources whose read-back shows the switching-on of the first configured scan more than 1 µs late (R159, R163). -/
  psLate : BitVec 32
  /-- Junction temperatures of LA, LB, FE0 to FE3, OD0 to OD3, SA and SB in 0.1 °C (R394). -/
  temps : List (BitVec 16)
  /-- Words that a disturbance changes in the fill bank of EA and of EB on the way (R38). -/
  hitA : List (Nat × Word)
  hitB : List (Nat × Word)
deriving DecidableEq, Repr

/-- Sample of one sin/cos axis at a measurement instant (R172, R182): calibrated sin and cos in units of 10 µV, and whether
the signal frequency exceeds the part's f_freq0, which lies in 200 to 215 kHz, where the comparator count leaves it open. -/
structure AxisSample where
  s : Int
  c : Int
  overFreq : Bool
deriving DecidableEq, Repr, Inhabited

/-- A bit error found in operand or row memory (R34): a double-bit error or a corrected one, in row memory or operand
memory, at this address, by this access (0x1 operand read, 0x2 destination write, 0x3 row fetch). -/
structure MemErr where
  double : Bool
  addr : Nat
  acc : Nat
deriving DecidableEq, Repr

/-- What a scrubber finds in the word it reads (R383). -/
inductive ScrubFind where
  | clean | single | double
deriving DecidableEq, Repr

/-- What goes wrong with a store access (R386). -/
inductive StoreEvent where
  | noAnswer | readBack | uncorrectable | corrected
deriving DecidableEq, Repr

/-- What a reset, or a loss of power, on the tick of a journal write leaves of that record in one store (R330, R336). -/
inductive Tear where
  | whole | absent
  /-- Its RCRC does not hold. -/
  | broken
deriving DecidableEq, Repr

/-- What a cruise slice reports at its end (R431, R433, R435). -/
structure SliceResult where
  /-- Steps that ran, and the signature the engine on LA sends. -/
  steps : Nat
  sig : Word
  /-- Bit s - 1: step s read as expected (THR, PSL, ORB; bit 0 for REF and MARCH). -/
  readings : Nat
  /-- Counts of the clocks counted (CLK). -/
  counts : List Nat
  /-- Check values computed (KAT). -/
  values : List Word
  /-- The read-back of a marched block agrees with its shadow (MARCH). -/
  shadowOk : Bool
  /-- Word address of a failing march, or of a store word that differs. -/
  addr : Nat
  /-- A store word cannot be corrected (STORE), on this store. -/
  uncorr : Option Side
  /-- Logic supplies in mV at the slice's end (R436). -/
  vl : BitVec 16 × BitVec 16
deriving DecidableEq, Repr

/-- How a register write arrives on PCIe (R292, R303). -/
inductive WriteKind where
  /-- All byte enables set. -/
  | whole
  /-- Byte enables not all set. -/
  | partialBytes
  /-- A poisoned or malformed write TLP. -/
  | poisoned
deriving DecidableEq, Repr

/-- A register of a port's configuration space (R290): a double word of the type 0 header, the power management control, the
message control of MSI-X, or a half of the device serial number. Where the capabilities lie is not given. -/
inductive CfgReg where
  | header (dword : Fin 16)
  | power
  | msix
  | serial (hi : Bool)
deriving DecidableEq, Repr

/-- What a register write addresses: a BAR0 offset through a port, a debug register through TAP A (R446), or a register of a
port's configuration space (R290). -/
inductive Target where
  | bar0 (port : Side) (off : Nat)
  | debug (index : Nat)
  | config (port : Side) (r : CfgReg)
deriving DecidableEq, Repr

/-- What a read addresses: through a port, a BAR0 register, a word of the port's landing window in BAR2 (R294) or a register of
its configuration space (R290); through the TAPs, a debug register, with what ECC finds on a read of an operand word (R446,
R62), or the IDCODE of a TAP (R445). -/
inductive Space where
  | bar0 (off : Nat)
  | bar2 (off : Nat)
  | config (r : CfgReg)
  | debug (index : Nat) (err : Option Bool)
  | idcode (tap : Side)
deriving DecidableEq, Repr

end Sys2Proof
end

