-- ==== Sys2Proof/Syntax.lean ====
section
/-!
DEFINITION. Sys2Proof/Syntax.lean: the commands of the module, one constructor for each row of spec/opcode_table.json, in
the table's order. A command is a host's register write, read or ring operation, an event at a terminal, a supply, a
clock or a link, or an event inside the module; its operands say which part it concerns and what the outside shows.
-/
namespace Sys2Proof

inductive Instr where
  /-- VL_UNDERVOLTAGE (R404): VLA or VLB stays below V_uv for 2 µs; that side enters power-on reset, its switches open, and the other die records VL_LOSS and enters HOLD. -/
  | vlUndervoltage (side : Side) (mv : BitVec 16) (tearA : Tear) (tearB : Tear)
  /-- VL_OVERVOLTAGE (R404): VLA or VLB stays above V_ov for 2 µs; that side enters power-on reset, and the other die records VL_OVER and enters HOLD. -/
  | vlOvervoltage (side : Side) (mv : BitVec 16)
  /-- VL_RANGE (R404): VLA or VLB has been outside 4.75 to 5.25 V for 1 ms, still inside the monitor thresholds, and VL_RANGE is recorded as a corrected fault. -/
  | vlRange (side : Side) (mv : BitVec 16)
  /-- VL_RESTORE (R405): A logic supply returns above V_ok; a system or power-on reset may then be released, but a side that returns while the module is in HOLD stays in reset. -/
  | vlRestore (side : Side) (mv : BitVec 16)
  /-- VF_LOSS (R404): VFq stays below V_vfuv for 10 µs; VF_LOSS is recorded as a contained fault of quarter q, and the quarter's resource status line turns bad. -/
  | vfLoss (q : Fin 4) (mv : BitVec 16)
  /-- VF_OVER (R404): VFq stays above V_vfov for 10 µs, and VF_OVER is recorded as a contained fault of quarter q. -/
  | vfOver (q : Fin 4) (mv : BitVec 16)
  /-- VF_RESTORE (R427): VFq returns to between V_vfok and V_vfov, so the cause of VF_LOSS or VF_OVER becomes absent and its quiet period starts. -/
  | vfRestore (q : Fin 4) (mv : BitVec 16)
  /-- BAK_FAIL (R404): VBAK falls below V_bklow and BAK_FAIL is recorded as a corrected fault. -/
  | bakFail (mv : BitVec 16)
  /-- BAK_EDGE_TIMEOUT (R412): No BAK edge has arrived for 1 ms and BAK_FAIL is recorded as a corrected fault. -/
  | bakEdgeTimeout
  /-- POWER_ON_RESET (R417): VLA and VLB are both below V_uv, or both outside V_uv to V_ov together, and the module enters power-on reset. -/
  | powerOnReset
  /-- POR_RELEASE (R421): t_por after both logic supplies have passed V_ok, the power-on reset releases and the PLLs begin to lock. -/
  | porRelease (strap : Bool)
  /-- CLOCK_STEADY (R421): A clock has been reported steady for 512 SOSC periods and the blocks in its domain are released. -/
  | clockSteady (clk : ClockName)
  /-- IDENTITY_READ (R388): The identity area has been read, and the life cycle and the FR_QUIET values are restored, with differing life-cycle copies reconciled. -/
  | identityRead
  /-- JOURNAL_REPLAY (R329): Each die's journal read is complete, every ring is rebuilt, and replayed completions are queued. -/
  | journalReplay (bad : List (Side × Nat))
  /-- TABLE_SELECT (R93): Each die has selected and verified its highest-generation slot and the dies reconcile their selections, falling back or completing a commit where needed. -/
  | tableSelect
  /-- TABLE_LOAD (R89): Loading of the verified image into row and operand memory completes on both cores. -/
  | tableLoad
  /-- FIELD_STEP (R422): Reference comparison, first calibration passes, first threshold tests and input sink set-up complete for the quarters. -/
  | fieldStep (refOk : BitVec 4) (thrBad : List (Fin 128 × BitVec 5)) (calBad : List (Fin 4 × Fin 17))
  /-- START_LIMIT (R423): The start-limit count of 16,500,000 SOSC periods ends before the start is complete; START_FAIL is recorded and the module enters HOLD. -/
  | startLimit
  /-- FATAL_QUIET_EXPIRY (R259): The largest fatal quiet period FQ elapses in HOLD and the module performs a system reset with cause FATAL_AUTO. -/
  | fatalQuietExpiry
  /-- RESET_N_ASSERT (R418): RESET_N reads low on 4 consecutive SOSC samples and a system reset is asserted. -/
  | resetNAssert (tearA : Tear) (tearB : Tear)
  /-- RESET_N_RELEASE (R418): RESET_N reads high on a SOSC sample and release of the system reset begins. -/
  | resetNRelease
  /-- SOSC_WDOG (R414): The SOSC watchdog has received no heartbeat for 8,000 SOSC periods and asserts a system reset. -/
  | soscWdog (side : Side)
  /-- CLK_MON (R412): The REFCLK or TB clock monitor trips, giving a system reset, or ending the start during START. -/
  | clkMon (clk : MonClock)
  /-- PLK_LOCK (R365): The PLK PLL loses lock or its count leaves ±15%, PLK_LOCK is recorded, and every configured port is held in OFF. -/
  | plkLock
  /-- PORT_CLOCK (R303): An HPA or HPB clock loses lock or its count leaves ±15%, PORT_CLOCK is recorded, and the port is reset. -/
  | portClock (port : Side)
  /-- STR_CLOCK (R412): A store clock count leaves ±15% and STR_CLOCK is recorded, with the store treated as failed. -/
  | strClock (side : Side)
  /-- SOSC_FAIL (R412): One SOSC differs by more than 12% from both the other SOSC and TB, or stops, and SOSC_FAIL is recorded as a fatal fault. -/
  | soscFail (side : Side) (stops : Bool)
  /-- TB_FREQ_WINDOW (R413): A window of 1,024 BAK periods ends; the TB deviation is reported in PCR_FREQ, TB qualification is updated, and TB_FREQ is recorded beyond ±20,000 ppm. -/
  | tbFreqWindow
  /-- TB_CHECK (R270): Every 10 µs LB compares TB_NOW sent by LA with its checking count, and records CHECK on a difference, a broken pair or a missing pair. -/
  | tbCheck (drift : Int) (pair : Option (BitVec 64 × BitVec 64))
  /-- PCR_RST_ARM (R419): A write to PCR_RST with KEY 0x7A11 and ARM 1 arms the key-sequence reset for the writing port for 1 ms. -/
  | pcrRstArm (port : Side)
  /-- PCR_RST_RESET (R419): A second write to PCR_RST with KEY 0x9C04 inside the arming time asserts a core or system reset. -/
  | pcrRstReset (port : Side) (level : BitVec 2)
  /-- PCR_RST_ARM_TIMEOUT (R419): The 1 ms arming time of PCR_RST ends and the register is disarmed. -/
  | pcrRstArmTimeout
  /-- SAMPLE_EDGE (R37): On the third TB edge after a scan-close event the distributor captures a snapshot of inputs, read-back, axes, TB_NOW, cell flags, and host and link images, and seals it. -/
  | sampleEdge (smp : Sample)
  /-- SCAN_LAUNCH (R42): On the launch edge, 8 TB ticks after the sample edge, EA checks the snapshot, swaps its banks and issues rank 0. -/
  | scanLaunch (core : Side)
  /-- RANK_COMPLETE (R33): All 16 lanes of a core have written and raised done; the results are folded, a token is sent, and the next rank is issued subject to the lead or token gate. -/
  | rankComplete (core : Side) (errs : List MemErr)
  /-- RANK_TOKEN (R46): A rank or close token from EA reaches EB, which may then issue its next rank or launch. -/
  | rankToken (close : Bool) (ok : Bool)
  /-- COMPLETION_TOKEN (R47): A completion token from EB reaches EA, which may then issue a held rank or launch its next scan. -/
  | completionToken (ok : Bool)
  /-- LAG_OVERRUN (R47): EA has waited for EB for more than 16 consecutive TB ticks, and LAG_OVERRUN is recorded as a fatal fault. -/
  | lagOverrun
  /-- SCAN_CLOSE (R42): A core finishes its last rank, commits its command image, folds its signature, posts cell and payload commands, and raises its scan-close event. -/
  | scanClose (core : Side)
  /-- SCAN_OVER (R52): The count since the last close reaches SCAN_MAX + 1 ticks, and SCAN_OVER is recorded as a fatal fault. -/
  | scanOver (core : Side)
  /-- CELL_EXPIRY (R271): A running cell's count reaches 0, the cell becomes EXPIRED, and its flag turns true. -/
  | cellExpiry (die : Side) (cell : Fin 256)
  /-- KERF_SIGNATURE (R244): A kerf signature reaches a comparator half, which compares it once it holds both, and the halves exchange verdicts. -/
  | kerfSignature (half : Side) (core : Side) (hitT : BitVec 64) (hitC : BitVec 64)
  /-- KERF_LATE (R247): 2 × (SCAN_MAX + 1) ticks pass without the other core's signature for a kerf, and KERF_LATE is recorded. -/
  | kerfLate (half : Side)
  /-- COPY_CHECK_PASS (R253): Every 512 TB ticks a copy checker starts a pass over every true and complemented fault-record pair. -/
  | copyCheckPass (die : Side) (bad : List (Fin 14 × Fin 32))
  /-- PG_WRAP (R274): A period generator's count reaches RELOAD and returns to 0, applying any pending reload and pacing the strum frame, cruise batches, the tally or host events. -/
  | pgWrap (g : Fin 16)
  /-- PG_RELOAD_WRITE (R275): A write to PG_RELOAD places a value in the generator's pending register and sets PEND_V. -/
  | pgReloadWrite (port : Side) (g : Fin 16) (v : BitVec 32)
  /-- PG_NOW (R276): A write of 1 to PG_CTL.NOW applies any pending value and restarts the period on that tick. -/
  | pgNow (port : Side) (g : Fin 16)
  /-- PG_ENABLE (R277): A write of PG_CTL.EN stops a generator at its count or resumes it from that count. -/
  | pgEnable (port : Side) (g : Fin 16) (en : Bool)
  /-- PG_GO (R277): A write to PG_GO restarts every selected host generator at count 0 on one go tick. -/
  | pgGo (port : Side) (mask : BitVec 16)
  /-- CMP_LO_WRITE (R279): A write to CMP_LO places the low half of a compare value in the holding register. -/
  | cmpLoWrite (port : Side) (n : Fin 32) (v : BitVec 32)
  /-- CMP_HI_WRITE (R279): A write to CMP_HI loads both halves of the compare value on one tick. -/
  | cmpHiWrite (port : Side) (n : Fin 32) (v : BitVec 32)
  /-- CMP_ENABLE (R279): A write of CMP_CTL.EN arms a compare channel, which matches on the next tick, with LATE, if its value is already reached. -/
  | cmpEnable (port : Side) (n : Fin 32) (en : Bool)
  /-- CMP_MATCH (R279): TB_NOW reaches an armed compare value; the flag is set, an internal event is produced and EN clears. -/
  | cmpMatch (n : Fin 32)
  /-- CAPTURE_EVENT (R280): A selected source event is stamped with TB_NOW and its level into the capture queue, or is dropped with overflow when the queue is full. -/
  | captureEvent (c : Fin 16) (level : Bool)
  /-- CAP_LO_READ (R282): A read of CAP_LO returns and removes the oldest capture entry and latches its high half. -/
  | capLoRead (port : Side) (c : Fin 16)
  /-- CAP_CTL_WRITE (R284): A write to CAP_CTL empties the queue, clears OVF and takes effect on the next tick. -/
  | capCtlWrite (port : Side) (c : Fin 16) (v : BitVec 32)
  /-- INPUT_CHANGE (R125): An input terminal crosses a switching point and the live comparator changes, entering masking or bridging, the filter and the monitors. -/
  | inputChange (i : Fin 128) (high : Bool) (chk : Bool) (zone : VoltZone)
  /-- INPUT_FILTER_EXPIRY (R126): The presented value has differed from the filtered value on F consecutive edges, and the filtered value takes it. -/
  | inputFilterExpiry (i : Fin 128)
  /-- OSSD_BRIDGE_RELEASE (R129): An OSSD low lasts 40,000 consecutive edges, and the bridge releases and presents false. -/
  | ossdBridgeRelease (i : Fin 128)
  /-- OSSD_GAP_EXPIRY (R130): t_gap after the end of a bridged low ends, and the next low may be bridged again. -/
  | ossdGapExpiry (i : Fin 128)
  /-- TP_SEEN_EXPIRY (R133): 100 ms pass without the end of a bridged low, and TP_SEEN returns to 0. -/
  | tpSeenExpiry (i : Fin 128)
  /-- BAND (R135): An input voltage stays in the 5 to 11 V band for t_band, counted outside suspensions, and a BAND fault of the input is recorded. -/
  | band (i : Fin 128)
  /-- OVERVOLT (R136): An input exceeds V_ovf for 10 consecutive edges, and an OVERVOLT fault is recorded. -/
  | overvolt (i : Fin 128)
  /-- THR_HANDOVER (R137): After a passed threshold test, the check comparator has agreed with the live one on 100 consecutive edges and becomes the live comparator. -/
  | thrHandover (i : Fin 128)
  /-- THR_HANDOVER_TIMEOUT (R138): A threshold handover finds no 100 edges of agreement within 2,000 edges, and THR_FAIL is recorded. -/
  | thrHandoverTimeout (i : Fin 128)
  /-- COMPARATOR_DISAGREE (R138): Both connected comparators disagree on 100 consecutive edges outside the band, and THR_FAIL is recorded. -/
  | comparatorDisagree (i : Fin 128)
  /-- PG00_RELEASE (R163): 1 ms after the sources switch on, PG00 is released at count 0 and dip windows begin. -/
  | pg00Release
  /-- DIP_WINDOW_OPEN (R151): A scheduled dip window of a source opens; the source switches off with pull-down and its inputs are masked. -/
  | dipWindowOpen (src : Fin 32) (dip : Fin 8) (late : Bool)
  /-- DIP_OFF_END (R151): The off part of a dip ends and the source switches on again for the recovery part. -/
  | dipOffEnd (src : Fin 32) (high : Bool) (late : Bool)
  /-- DIP_WINDOW_END (R153): On the first tick after a dip window, masking ends and each pulsed input's dip is judged checked, missed or unchecked. -/
  | dipWindowEnd (src : Fin 32)
  /-- SRC_OVERLOAD (R159): A source delivers more than I_lim for t_ovl outside its off parts; it switches off and SRC_OVERLOAD is recorded. -/
  | srcOverload (src : Fin 32) (from_ : Tick)
  /-- SRC_RETRY (R159): t_retry after an overload the source switches on again, and switches off again if the overload persists. -/
  | srcRetry (src : Fin 32) (persists : Bool) (late : Bool)
  /-- MEASUREMENT_INSTANT (R171): On the TB edge where TB_NOW is a multiple of 320, every axis path is sampled and latched, and its position, speed and status are formed. -/
  | measurementInstant (done : BitVec 4) (samples : List AxisSample) (spares : List AxisSample)
  /-- AXIS_BUFFER_SWAP (R178): t_swap after a measurement instant, a quarter's AF result buffer is swapped for the distributor. -/
  | axisBufferSwap (q : Fin 4)
  /-- ENCODER_EDGE (R173): A filtered quadrature edge at an encoder path is counted up or down. -/
  | encoderEdge (a : Fin 64) (p : Fin 2) (quad : Fin 4)
  /-- LEVEL (R185): A common-mode or RS-422 differential violation lasts 1 µs, and LEVEL is recorded with a break on both paths. -/
  | level (a : Fin 64)
  /-- ADC_CLOCK (R198): No measurement instant of a quarter has completed for 3 intervals, and ADC_CLOCK is recorded. -/
  | adcClock (q : Fin 4)
  /-- CALIBRATION_PASS (R193): Every 20 ms the next converter pair of a quarter begins a calibration pass, with the spare taking its axis. -/
  | calibrationPass (q : Fin 4) (ofsS : Int) (ofsC : Int) (gainS : Int) (gainC : Int)
  /-- CAL_HANDOVER (R193): Two converter pairs have agreed on 8 consecutive measurements, and the axis is handed over to the other pair. -/
  | calHandover (q : Fin 4)
  /-- CAL_HANDOVER_TIMEOUT (R194): A calibration handover finds no 8 agreeing measurements within 64 instants, and CAL is recorded. -/
  | calHandoverTimeout (q : Fin 4)
  /-- BOW_STOP_STATE (R204): A bowing line stays in the stop state for more than 10 ns and the receiver opens its switch. -/
  | bowStopState (out : Fin 144) (side : Side)
  /-- BOW_HOLD_TIMEOUT (R204): No toggle arrives at a receiver for t_hold and it opens its switch. -/
  | bowHoldTimeout (out : Fin 144) (side : Side)
  /-- SWITCH_CLOSED (R209): t_son after the fourth consecutive valid toggle, a receiver's switch closes. -/
  | switchClosed (out : Fin 144) (side : Side)
  /-- BOW_MISMATCH (R210): A switch is sensed closed for longer than t_mis while its core commands it off or is inhibited, and BOW_MISMATCH is recorded. -/
  | bowMismatch (out : Fin 144) (side : Side)
  /-- DARK_TEST_DUE (R213): DARK_INT after energising, or after the last test, a dark test of an output falls due and waits for a slot, or is deferred. -/
  | darkTestDue (out : Fin 144)
  /-- DARK_WINDOW_START (R214): A free slot in the quarter opens the dark window of the next due test, and the dark gate opens one side. -/
  | darkWindowStart (q : Fin 4)
  /-- DARK_WINDOW_END (R213): On the last tick of a dark window the read-back is judged, SWITCH is recorded on failure, and the gate releases on the next tick. -/
  | darkWindowEnd (q : Fin 4) (hi : Bool) (lo : Bool) (hLow : Bool) (iL : Nat)
  /-- DARK_FORCE (R216): A dark test deferred for 60 s is forced at the next free slot, and OS_FORCED_CNT counts it. -/
  | darkForce (out : Fin 144)
  /-- STATIC_CHECK_START (R215): With every output of a quarter commanded off and both sides open for 50 µs, the continuous static checks begin. -/
  | staticCheckStart (q : Fin 4)
  /-- OVERLOAD (R225): An STO terminal has been at its current limit for 100 µs, and OVERLOAD is recorded. -/
  | overload (out : Fin 144) (from_ : Tick)
  /-- SHORT (R219): An auxiliary output's current exceeds I_MAX, or I_H and I_L differ by more than 50 mA, for 10 µs, and SHORT is recorded. -/
  | short (out : Fin 144) (iH : Nat) (iL : Nat) (from_ : Tick)
  /-- OPEN_LOAD (R219): An auxiliary output's current stays below I_MIN for its LOAD's time while on, and OPEN_LOAD is recorded. -/
  | openLoad (out : Fin 144) (iL : Nat) (from_ : Tick)
  /-- AUX_SUM (R220): The sum of I_H in a quarter exceeds I_q for 1 ms; AUX_SUM is recorded and all four auxiliary outputs open. -/
  | auxSum (q : Fin 4) (sum : Nat) (from_ : Tick)
  /-- NO_OUTPUT (R225): Both sides have been closed for 20 µs + t_rise without the terminal rising, below the current limit, and NO_OUTPUT is recorded. -/
  | noOutput (out : Fin 144) (hi : Bool) (limited : Bool)
  /-- OVERTEMP (R224): An OD die junction stays above 150 °C for 1 ms, and OVERTEMP opens its quarter. -/
  | overtemp (q : Fin 4) (from_ : Tick)
  /-- STORM_EXPIRY (R261): t_storm after a recording, the withheld interrupt is raised unless the fault has become consequential. -/
  | stormExpiry (b : Block)
  /-- QUIET_EXPIRY (R257): A contained fault's quiet timer reaches CQ; its flags clear and a recovery is counted. -/
  | quietExpiry (b : Block) (cause : Nat) (item : Nat)
  /-- FIRST_VALID_CLEAR (R255): Writing 1 to FR_STATUS.FIRST_VALID empties the block's first-error slot. -/
  | firstValidClear (port : Side) (b : Block)
  /-- FR_QUIET_WRITE (R252): An accepted write to FR_QUIET sets the quiet periods and stores them in both identity areas. -/
  | frQuietWrite (port : Side) (b : Block) (v : BitVec 32)
  /-- PEAK_CLR (R60): Writing EV_CLR.PEAK_CLR resets the scan-period extremes and LAG_PEAK at EA's next close. -/
  | peakClr (port : Side)
  /-- MALF_CLR (R60): Writing EV_CLR.MALF_CLR clears the malformed-value counters at EA's next close. -/
  | malfClr (port : Side)
  /-- REGISTER_WRITE (R9): A write to a register without a row of its own sets fields by access type, refusing, counting or recording undefined and reserved writes. -/
  | registerWrite (target : Target) (v : BitVec 32) (kind : WriteKind)
  /-- PORT_RESET (R299): A hot reset or FLR resets one host port's configuration and registers and stops its rings, leaving the rest of the module unaffected. -/
  | portReset (port : Side) (flr : Bool)
  /-- LINK_DOWN (R300): A port's link has left L0 and L1 and not returned within 24 ms; LINK_DOWN is recorded and a port reset follows. -/
  | linkDown (port : Side)
  /-- LINK_RETURN (R298): A port's link returns to L0, and pending MSI-X messages are sent. -/
  | linkReturn (port : Side) (rate : BitVec 2) (width : BitVec 2) (l1 : Bool)
  /-- POWER_STATE_WRITE (R289): The host moves a port function to D3hot or D0, stopping or resuming ring fetching without a port reset. -/
  | powerStateWrite (port : Side) (d3 : Bool)
  /-- ISOLATED_ACCESS (R301): A BAR0 access reaches a block held in reset; a read completes with Completer Abort and a write is discarded. -/
  | isolatedAccess (port : Side) (off : Nat) (write : Bool)
  /-- CFG_CLAIM (R295): A CFG_OWNER write with CLAIM and KEY claims configuration ownership when OWNER is none or already the writing port. -/
  | cfgClaim (port : Side) (key : BitVec 16)
  /-- CFG_RELEASE (R295): A CFG_OWNER write with RELEASE and KEY from the owning port sets OWNER to none. -/
  | cfgRelease (port : Side) (key : BitVec 16)
  /-- MSIX_UNMASK (R298): Clearing an MSI-X vector or function mask sends one message for each pending bit. -/
  | msixUnmask (port : Side) (vec : Option (Fin 32))
  /-- SQ_TAIL_DOORBELL (R305): The host writes an SQ tail doorbell to announce new submissions; out-of-range values are recorded as DB_RANGE. -/
  | sqTailDoorbell (port : Side) (n : Fin 8) (v : BitVec 32)
  /-- CQ_HEAD_DOORBELL (R305): The host writes a CQ head doorbell to free completion slots. -/
  | cqHeadDoorbell (port : Side) (n : Fin 8) (v : BitVec 32)
  /-- DESCRIPTOR_FETCH (R311): The port starts fetching a descriptor from the highest-priority, or starving, SQ while under the open-item limit. -/
  | descriptorFetch (port : Side)
  /-- DESCRIPTOR_ARRIVAL (R312): A fetched descriptor is judged by DCRC and SEQ, and is either accepted with an ACCEPT record or skipped with a SKIP record. -/
  | descriptorArrival (port : Side) (n : Fin 8) (bytes : Option (List Byte))
  /-- NOP (R318): A NOP item completes with RESULT 0, returning pages if it names a range with RETURN. -/
  | nop (port : Side) (n : Fin 8)
  /-- FENCE (R315): A FENCE item completes once every earlier-accepted item on the named rings has completed. -/
  | fence (port : Side) (n : Fin 8)
  /-- TABLE_STAGE (R90): A TABLE_STAGE item copies landing data into the staging slot of both stores and updates the staged end. -/
  | tableStage (port : Side) (n : Fin 8)
  /-- TABLE_VERIFY (R88): A TABLE_VERIFY item verifies the staging slot on both dies and reports the code and offset. -/
  | tableVerify (port : Side) (n : Fin 8)
  /-- TABLE_COMMIT (R92): A TABLE_COMMIT item re-verifies, awaits the acknowledgement, writes records and generation, swaps the slots and starts a core reset. -/
  | tableCommit (port : Side) (n : Fin 8)
  /-- MODE_REQ (R320): A MODE_REQ item requests IDLE or RUN and/or writes a host-image request word, completing on the sample edge that carries it. -/
  | modeReq (port : Side) (n : Fin 8)
  /-- RESET_REQ (R321): A RESET_REQ item makes HRESET true for ARG0 ms. -/
  | resetReq (port : Side) (n : Fin 8)
  /-- HRESET_EXPIRY (R321): The ARG0 ms of a RESET_REQ end; HRESET falls when no other request holds, and the item completes on the sample edge that carries it. -/
  | hresetExpiry (port : Side) (n : Fin 8)
  /-- SNAPSHOT (R318): A SNAPSHOT item writes the snapshot of EA's next closed scan to host memory. -/
  | snapshot (port : Side) (n : Fin 8)
  /-- TALLY_READ (R394): A TALLY_READ item writes the most recently published tally page to host memory. -/
  | tallyRead (port : Side) (n : Fin 8)
  /-- LOG_READ (R393): A LOG_READ item writes consecutive event-log entries or tally-history records to host memory. -/
  | logRead (port : Side) (n : Fin 8)
  /-- LINK_SEND (R361): A LINK_SEND item sends its data in the non-safety payload, 6 bytes per frame. -/
  | linkSend (port : Side) (n : Fin 8)
  /-- LINK_DETACH (R357): A LINK_DETACH item opens or restarts the detach window of a pendant port for DWIN seconds. -/
  | linkDetach (port : Side) (n : Fin 8)
  /-- CV_JOB (R376): A CV_JOB item feeds landing data into a write-fed channel and returns the check value. -/
  | cvJob (port : Side) (n : Fin 8)
  /-- FULL_TEST (R438): ST_REQ FULL_TEST runs one complete cruise round and reports the classes that failed. -/
  | fullTest (port : Side) (n : Fin 8)
  /-- LC_SET (R441): ST_REQ LC_SET changes the life-cycle state after any acknowledgement and writes both stores. -/
  | lcSet (port : Side) (n : Fin 8)
  /-- STORE_WRITE (R318): A STORE_WRITE item writes landing data into the user area of both stores. -/
  | storeWrite (port : Side) (n : Fin 8)
  /-- STORE_READ (R318): A STORE_READ item reads the user area into host memory. -/
  | storeRead (port : Side) (n : Fin 8)
  /-- ITEM_COMPLETE (R314): An item's effect ends; its DONE record is written, its pages are returned and its completion is queued for posting. -/
  | itemComplete (port : Side) (n : Fin 8) (xferOk : Bool)
  /-- COMPLETION_POST (R332): A queued completion, with its tag, is written into its CQ once the CQ has room and is enabled. -/
  | completionPost (port : Side) (n : Fin 8)
  /-- POSTED_TIMER (R326): 10 µs after an uncovered posting, a POSTED record is written for the CQ. -/
  | postedTimer (port : Side) (n : Fin 8)
  /-- CQ_COALESCE_TIMER (R339): COAL_T µs after the first unsignalled posting, the CQ interrupt is raised. -/
  | cqCoalesceTimer (port : Side) (n : Fin 8)
  /-- SQ_ENABLE (R331): A write of SQ_CTL.EN 1 resumes the ring with RESUME, or starts it fresh with RING_START when it has no open items. -/
  | sqEnable (port : Side) (n : Fin 8) (resume : Bool)
  /-- SQ_DISABLE (R339): A write of SQ_CTL.EN 0 stops fetching while open items still complete. -/
  | sqDisable (port : Side) (n : Fin 8)
  /-- SQ_ERR_CLEAR (R339): Clearing SQ_CTL.ERR resumes fetching after a HOST_XFER stop. -/
  | sqErrClear (port : Side) (n : Fin 8)
  /-- CQ_ENABLE (R332): A write of CQ_CTL.EN 1 starts posting from CQ_START with RESUME, or from slot 0 with PHASE 1 without it. -/
  | cqEnable (port : Side) (n : Fin 8) (resume : Bool)
  /-- ENTRY_WRITE (R323): A host write to a landing ownership entry is held, or, when it covers byte 7, starts the judgement of the flip. -/
  | entryWrite (port : Side) (off : Nat) (bytes : List Byte) (remBad : Bool)
  /-- FLIP_VERDICT (R323): The verdict on a flip becomes visible in page 0, and held writes to the page are dropped or applied. -/
  | flipVerdict (port : Side)
  /-- LANDING_WRITE (R324): A host write to landing data updates the page remainder, or is dropped as LANDING_DROP if the page is device-owned. -/
  | landingWrite (port : Side) (off : Nat) (bytes : List Byte) (poisoned : Bool) (remBad : Bool)
  /-- REMAINDER_REBUILD (R370): Rebuilding of an uncorrectable page remainder from landing SRAM completes. -/
  | remainderRebuild (port : Side) (page : Fin 512)
  /-- ACK_TIMEOUT (R442): 30 s of an acknowledgement wait end with no acknowledgement, and the item completes with STATE_REFUSED. -/
  | ackTimeout
  /-- ACK_TAP (R444): An Update-DR of the ACK instruction on TAP A gives or refuses an awaited acknowledgement. -/
  | ackTap (v : BitVec 32)
  /-- LINK_SIGNAL_PRESENT (R353): A receive signal appears on a port in DOWN and the port goes to ALIGN. -/
  | linkSignalPresent (n : Fin 4)
  /-- LINK_SIGNAL_LOSS (R342): Receive amplitude is lost for 0.5 µs, or 4 code violations occur in 16 characters, and the port goes to DOWN. -/
  | linkSignalLoss (n : Fin 4)
  /-- LINK_ALIGNED (R342): The receiver sees 8 consistent commas without violation and the port goes to TUNE. -/
  | linkAligned (n : Fin 4)
  /-- LINK_CYCLE (R347): At each CYCLE tick a port sends a tune frame or a safety frame carrying the latest agreed payload. -/
  | linkCycle (n : Fin 4)
  /-- FRAME_RECEIVED (R348): A received frame is judged in order and either accepted into the receive buffer or discarded as FRAME_BAD. -/
  | frameReceived (n : Fin 4) (framed : Bool) (bytes : List Byte)
  /-- TUNE_TIMEOUT (R350): Tuning has not completed within 200 cycles and the port goes to LOST. -/
  | tuneTimeout (n : Fin 4)
  /-- LINK_WATCHDOG (R349): No safety frame has been accepted for WDOG × CYCLE µs; the link is lost, with substitution inside a detach window and LINK_LOST outside it. -/
  | linkWatchdog (n : Fin 4)
  /-- LOST_EXPIRY (R353): After 1 ms in LOST the port goes to ALIGN, or to DOWN without signal. -/
  | lostExpiry (n : Fin 4)
  /-- DETACH_WINDOW_EXPIRY (R357): The DWIN seconds of a detach window end and the window closes. -/
  | detachWindowExpiry (n : Fin 4)
  /-- CVW_FEED (R372): A write to FEED8, FEED16 or FEED32 queues bytes into a write-fed channel, and is held while the queue is full. -/
  | cvwFeed (port : Side) (n : Fin 4) (width : Fin 3) (v : BitVec 32)
  /-- CVW_CTL_WRITE (R374): A write to CVWn_CTL sets MODE and, with INIT or a MODE change, loads the initial value. -/
  | cvwCtlWrite (port : Side) (n : Fin 4) (v : BitVec 32)
  /-- CVW_VAL_WRITE (R374): A write to CVWn_VAL replaces the channel's running state. -/
  | cvwValWrite (port : Side) (n : Fin 4) (v : BitVec 32)
  /-- SCRUB_STEP (R383): Every 9 TB ticks the scrubber reads the next SRAM word, corrects single errors and records double errors. -/
  | scrubStep (die : Side) (found : ScrubFind)
  /-- READ_SCRUB (R387): Every 24 h a read scrub of every non-reserved store area begins. -/
  | readScrub
  /-- STORE_TIMEOUT (R386): A store fails to answer within 2 µs, or fails a read-back, and STORE_FAIL is recorded. -/
  | storeTimeout (store : Side) (event : StoreEvent) (addr : Nat)
  /-- RESYNC_COMPLETE (R397): The copy that resynchronises a failed store completes and its quiet period starts. -/
  | resyncComplete (store : Side)
  /-- LOG_ENTRY_WRITE (R390): A buffered event-log entry is written to both stores, and a LOG_DROP entry follows when dropped entries are waiting to be reported. -/
  | logEntryWrite
  /-- TALLY_PUBLISH (R394): An assembled tally page is published whole, PUB increments, and every thousandth page is written to the history. -/
  | tallyPublish
  /-- WEAR_CHECKPOINT (R389): Each hour the wear counts are written to the identity area. -/
  | wearCheckpoint
  /-- CORRECTED_SUMMARY (R392): Each hour a corrected-fault summary entry is logged for every block with a non-zero delta. -/
  | correctedSummary
  /-- CRUISE_SLICE_START (R430): 5,000 ticks after the PG01 wrap or the previous slice, the next cruise slice starts, or is deferred when its precondition fails. -/
  | cruiseSliceStart
  /-- CRUISE_SLICE_END (R433): A slice ends; its verdicts and signature are judged and failures recorded, or it is interrupted and restarts. -/
  | cruiseSliceEnd (r : SliceResult)
  /-- CRUISE_LATE (R437): A round has not completed 600 s after it began, CRUISE_LATE is recorded and LATE is set. -/
  | cruiseLate
  /-- CRUISE_STALL (R437): A round's time not spent deferred reaches 4,200 s, and CRUISE_STALL is recorded as a fatal fault. -/
  | cruiseStall
  /-- DEBUG_HALT (R447): A DBG_CMD HALT halts EA before its next rank and EB at the same position, entering HALT. -/
  | debugHalt
  /-- DEBUG_RESUME (R447): A DBG_CMD RESUME continues both cores and the state becomes IDLE. -/
  | debugResume
  /-- DEBUG_STEP (R447): A DBG_CMD STEP issues one rank in EA and then in EB, and halts both again. -/
  | debugStep
  /-- DEBUG_SYSRESET (R449): A DBG_CMD SYSRESET asserts a system reset with cause DEBUG. -/
  | debugSysreset
  /-- DBG_OPDATA_WRITE (R448): A write to DBG_OPDATA while halted writes EA's operand word and queues the complemented write for EB at the same position. -/
  | dbgOpdataWrite (v : BitVec 32) (err : Option Bool)
  /-- EXTEST_LOAD (R445): EXTEST loaded into either TAP instruction register holds the module in system reset with cause DEBUG. -/
  | extestLoad (tap : Side) (trstN : Bool)
  /-- EXTEST_EXIT (R445): The EXTEST instruction changes and the system reset is released. -/
  | extestExit (tap : Side) (ir : BitVec 8) (trstN : Bool)
  /-- LOW_HALF_READ (R6): A read of the low half of a 64-bit register pair captures the high half into that port's holding register. -/
  | lowHalfRead (port : Side) (space : Space)
  /-- LINK_LEAVES_L0 (R300): A host port's link leaves L0 and L1 other than by a hot reset, so HLINK turns false, interrupts are held pending and the 24 ms loss timer starts. -/
  | linkLeavesL0 (port : Side)
  /-- RESIDUAL (R215): During the static checks a terminal or midpoint read-back changes, so TERM_LO clear records RESIDUAL or MID_HI set records SWITCH. -/
  | residual (out : Fin 144) (r : OutSense)
  /-- OVERTEMP_CLEAR (R224): The OD die junction falls below 135 °C, so the cause of OVERTEMP becomes absent and its quiet period starts. -/
  | overtempClear (q : Fin 4)
  /-- LEVEL_RESTORE (R185): The encoder signals return to within the common-mode and differential limits, so the cause of LEVEL becomes absent and its quiet period starts. -/
  | levelRestore (a : Fin 64)
  /-- STORE_RESYNC_START (R397): A failed store answers a full read scrub of its identity area without error, and the die begins copying every area from the survivor. -/
  | storeResyncStart (store : Side)
  /-- CALIBRATION_WRITE (R384): Each hour the converter corrections are written to the calibration area of the stores. -/
  | calibrationWrite
deriving DecidableEq, Repr

end Sys2Proof
end

