-- ==== Sys2Proof/Config.lean ====
section
/-!
DEFINITION. Sys2Proof/Config.lean: what an implementation fixes, and the free values: constants with no body, so that
nothing can be proved of a value the spec leaves open.
-/
namespace Sys2Proof.Config

/-- The free value of a place the spec leaves open, as a function of a plain counter the step reads and advances. -/
opaque freeWord : Nat → BitVec 64

/-- The free contents of operand memory no rule defines (R59, R72), by the epoch of the loss and the address. -/
opaque undefWord : Nat → Nat → BitVec 32

/-- The free operation code of a step of a cruise slice of a class, as the bytes folded (R433). -/
opaque stepCode : Nat → Nat → List (BitVec 8)

/-- The free number of steps of a cruise slice of the classes whose steps the spec does not count (R431, R433). -/
opaque stepCount : Nat → Nat

/-- Where the capability list of the configuration space begins (R290). -/
opaque capPointer : BitVec 8

end Sys2Proof.Config
end

