-- ==== Sys2Proof/Machine/Bits.lean ====
section
/-!
DEFINITION. Sys2Proof/Machine/Bits.lean: the bit-field, byte-order, counter and container helpers every other file of
the machine uses.
-/
namespace Sys2Proof

/-- The ticks that have passed from `t` to `now`, modulo the 64-bit count. -/
def elapsed (now t : Tick) : Nat := (now - t).toNat

/-- One more, staying at the largest value: the saturating counters of the spec (R252 and others). -/
def satInc {w : Nat} (x : BitVec w) : BitVec w := if x = BitVec.allOnes w then x else x + 1

/-- `n` more, staying at the largest value. -/
def satAdd {w : Nat} (x : BitVec w) (n : Nat) : BitVec w :=
  if 2 ^ w ≤ x.toNat + n then BitVec.allOnes w else BitVec.ofNat w (x.toNat + n)

/-- A Bool as a number, for packing a flag into a register. -/
def bit (b : Bool) : Nat := if b then 1 else 0

/-- A strict boolean word (R51). -/
def bw (b : Bool) : Word := if b then 0xFFFFFFFF else 0

/-- A register word from its fields: each is (value, lowest bit, width); bits no field names read 0 (R9). -/
def packFields : List (Nat × Nat × Nat) → Nat
  | [] => 0
  | (v, lo, w) :: fs => (v % 2 ^ w) * 2 ^ lo + packFields fs

/-- A 32-bit register word from its fields. -/
def regOf (fs : List (Nat × Nat × Nat)) : Word := BitVec.ofNat 32 (packFields fs)

/-- Bits [hi:lo] of a number. -/
def bitsOf (v hi lo : Nat) : Nat := v / 2 ^ lo % 2 ^ (hi + 1 - lo)

/-- Bit `i` of a number. -/
def bitOf (v i : Nat) : Bool := v / 2 ^ i % 2 == 1

/-- The low and high halves of a 64-bit word (R6). -/
def loHalf (x : BitVec 64) : Word := x.extractLsb' 0 32
def hiHalf (x : BitVec 64) : Word := x.extractLsb' 32 32

/-- A little-endian number from its bytes (R5). -/
def leNat : List Byte → Nat
  | [] => 0
  | b :: bs => b.toNat + 256 * leNat bs

/-- The `n` little-endian bytes of a number (R5). -/
def leBytes : Nat → Nat → List Byte
  | 0, _ => []
  | n + 1, v => BitVec.ofNat 8 v :: leBytes n (v / 256)

/-- A word as a number in two's complement. -/
def sext {w : Nat} (x : BitVec w) : Int := x.toInt

/-- The value of one side. -/
def Two.get {α : Type} (t : Two α) : Side → α
  | .a => t.a
  | .b => t.b

/-- The value of one side replaced. -/
def Two.set {α : Type} (t : Two α) (i : Side) (x : α) : Two α :=
  match i with
  | .a => { t with a := x }
  | .b => { t with b := x }

/-- One side's value changed by a function. -/
def Two.upd {α : Type} (t : Two α) (i : Side) (f : α → α) : Two α := t.set i (f (t.get i))

/-- Both sides' values changed by a function. -/
def Two.map {α β : Type} (f : α → β) (t : Two α) : Two β := ⟨f t.a, f t.b⟩

/-- The other side. -/
def Side.other : Side → Side
  | .a => .b
  | .b => .a

/-- The number of a side: A is 0, B is 1. -/
def Side.num : Side → Nat
  | .a => 0
  | .b => 1

/-- The side of a number. -/
def Side.of (n : Nat) : Side := if n % 2 = 0 then .a else .b

/-- One entry of a bank changed by a function. -/
def upd {α : Type} {n : Nat} (v : Vector α n) (i : Fin n) (f : α → α) : Vector α n := v.set i (f v[i])

/-- One entry of a bank replaced. -/
def vset {α : Type} {n : Nat} (v : Vector α n) (i : Fin n) (x : α) : Vector α n := v.set i x

/-- The numbers below `n`, each with its bound. -/
def fins (n : Nat) : List (Fin n) := List.finRange n

/-- A bank with every entry changed by a function of its number. -/
def vmapIdx {α : Type} {n : Nat} (v : Vector α n) (f : Fin n → α → α) : Vector α n :=
  Vector.ofFn (fun i => f i v[i])

/-- The block ID of a block (R12). -/
def Block.id : Block → Nat
  | .ib => 0x01 | .ps => 0x02 | .af => 0x03 | .os => 0x04 | .ev => 0x05 | .sc => 0x06 | .tb => 0x07
  | .hp => 0x08 | .wq => 0x09 | .pl => 0x0A | .cv => 0x0B | .ms => 0x0C | .pcr => 0x0D | .st => 0x0E

/-- The fourteen blocks in ascending block ID. -/
def Block.all : List Block := [.ib, .ps, .af, .os, .ev, .sc, .tb, .hp, .wq, .pl, .cv, .ms, .pcr, .st]

/-- The block of a block ID; IDs 0x00 and 0x0F to 0xFF are not assigned (R12). -/
def Block.ofId (n : Nat) : Option Block := Block.all.find? (fun b => b.id == n)

/-- The place of a block in a bank of fourteen. -/
def Block.idx (b : Block) : Fin 14 :=
  match b with
  | .ib => 0 | .ps => 1 | .af => 2 | .os => 3 | .ev => 4 | .sc => 5 | .tb => 6
  | .hp => 7 | .wq => 8 | .pl => 9 | .cv => 10 | .ms => 11 | .pcr => 12 | .st => 13

/-- The code of a device state (R25). -/
def DevState.code : DevState → Nat
  | .reset => 0x0 | .start => 0x1 | .idle => 0x2 | .run => 0x3 | .hold => 0x4 | .recovery => 0x5 | .halt => 0x6

/-- The code of a reset level (R428, PCR_RCAUSE.LEVEL). -/
def ResetLevel.code : ResetLevel → Nat
  | .core => 0b01 | .system => 0b10 | .powerOn => 0b11

/-- The code of a fault class (R250). -/
def FaultClass.code : FaultClass → Nat
  | .corrected => 0b01 | .contained => 0b10 | .fatal => 0b11

end Sys2Proof
end

