-- ==== Sys2Proof/Machine/Crc.lean ====
section
/-!
DEFINITION. Sys2Proof/Machine/Crc.lean: the check functions: CRC-32C and CRC-16/CCITT of R367 and R368, and the signature
fold of R242.
-/
namespace Sys2Proof.Machine

/-- One bit of the reflected CRC-32C register (polynomial 0x1EDC_6F41, reflected 0x82F6_3B78). -/
def crc32cBit (r : BitVec 32) : BitVec 32 :=
  if r.getLsbD 0 then (r >>> 1) ^^^ 0x82F63B78#32 else r >>> 1

/-- `n` bits of the reflected register. -/
def crc32cBits : Nat → BitVec 32 → BitVec 32
  | 0, r => r
  | n + 1, r => crc32cBits n (crc32cBit r)

/-- One byte taken into the CRC-32C state, least significant bit first (R368). -/
def crc32cByte (r : BitVec 32) (b : Byte) : BitVec 32 := crc32cBits 8 (r ^^^ b.setWidth 32)

/-- Bytes taken into the CRC-32C state in stream order. -/
def crc32cState (r : BitVec 32) (bs : List Byte) : BitVec 32 := bs.foldl crc32cByte r

/-- CRC-32C of a stream: initial value and final XOR 0xFFFF_FFFF (R367). -/
def crc32c (bs : List Byte) : BitVec 32 := crc32cState 0xFFFFFFFF#32 bs ^^^ 0xFFFFFFFF#32

/-- One bit of the CRC-16/CCITT register (polynomial 0x1021). -/
def crc16Bit (r : BitVec 16) : BitVec 16 := if r.getLsbD 15 then (r <<< 1) ^^^ 0x1021#16 else r <<< 1

/-- `n` bits of the CRC-16 register. -/
def crc16Bits : Nat → BitVec 16 → BitVec 16
  | 0, r => r
  | n + 1, r => crc16Bits n (crc16Bit r)

/-- One byte taken into the CRC-16 state, most significant bit first (R368). -/
def crc16Byte (r : BitVec 16) (b : Byte) : BitVec 16 := crc16Bits 8 (r ^^^ (b.setWidth 16 <<< 8))

/-- A byte taken into a write-fed channel's running state in its MODE: false CRC-32C, true CRC-16 (R367, R374). -/
def cvStep (mode : Bool) (v : BitVec 32) (b : Byte) : BitVec 32 :=
  if mode then (crc16Byte (v.setWidth 16) b).setWidth 32 else crc32cByte v b

/-- Initial value of a MODE (R367). -/
def cvInit (mode : Bool) : BitVec 32 := if mode then 0xFFFF#32 else 0xFFFFFFFF#32

/-- The check value of a running state: the final XOR applied (R374). -/
def cvRes (mode : Bool) (v : BitVec 32) : BitVec 32 := if mode then v.setWidth 16 |>.setWidth 32 else v ^^^ 0xFFFFFFFF#32

/-- The bytes of a stream's 8-byte virtual prefix, then its own. -/
def crcWithPrefix (p : List Byte) (bs : List Byte) : BitVec 32 := crc32c (p ++ bs)

/-- One step of the signature fold of R242. -/
def foldStep (s : BitVec 64) : BitVec 64 :=
  if s.getLsbD 63 then (s <<< 1) ^^^ 0x42F0E1EBA9EA3693#64 else s <<< 1

/-- `n` steps of the signature fold. -/
def foldSteps : Nat → BitVec 64 → BitVec 64
  | 0, s => s
  | n + 1, s => foldSteps n (foldStep s)

/-- A word folded into a signature accumulator (R242). -/
def sigFold (s x : BitVec 64) : BitVec 64 := foldSteps 64 (s ^^^ x)

end Sys2Proof.Machine
end

