-- ==== Sys2Proof/Machine/State.lean ====
section
/-!
DEFINITION. Sys2Proof/Machine/State.lean: the state of the module as plain data, block by block, its reset, and the
reasons a command can stop. Each field's comment gives its meaning, the rule that names it in brackets, and its value
in State.reset; INVENTORY.md lists them all.
-/
namespace Sys2Proof.Machine

/-- Why a command stops the module. No rule of the spec stops this module for good: every fault the spec describes is a
fault record and a class action, which are next states. -/
inductive Fault where
  /-- Raised by no command: kept so that the type has a member. Safe. -/
  | stuck
deriving DecidableEq, Repr

/-- Why a command has no meaning here. -/
inductive Refusal where
  /-- Raised by an arm of exec whose command is not modelled. Safe: a run stops there. -/
  | notModelled (mnemonic : String)
deriving DecidableEq, Repr

/-! ## Faults (chapter 10) -/

/-- A resource that several blocks share (R260): field supply, quarter link and references of a quarter, the time base
and the snapshot. -/
inductive Resource where
  | vf (q : Fin 4)
  | ql (q : Fin 4)
  | ref (q : Fin 4)
  | tb
  | snap
deriving DecidableEq, Repr

/-- Where an uncleared fault instance stands in its life (R257, R259). -/
inductive Life where
  /-- PRESENT: the cause is there. -/
  | present
  /-- QUIET: the cause is absent since this tick and the quiet timer runs. -/
  | quiet (since : Tick)
  /-- The cause is present until a system or power-on reset: a fatal fault, or a contained one its chapter says so of. -/
  | untilReset
deriving DecidableEq, Repr

/-- One uncleared fault instance: one cause of one block in one scope item (R257). -/
structure FaultInst where
  /-- Cause code. [R257] reset no instance -/
  cause : Nat
  /-- Scope code. [R251] reset no instance -/
  scope : Nat
  /-- Index of the scope item. [R251] reset no instance -/
  item : Nat
  /-- Class the instance was recorded in. [R250] reset no instance -/
  cls : FaultClass
  /-- Quarter whose shared resources the instance depends on. [R260] reset no instance -/
  quarter : Option (Fin 4)
  /-- PRESENT, QUIET or until reset. [R257] reset no instance -/
  life : Life
  /-- The resource that made the instance consequential, with its cause block and code. [R261] reset no instance -/
  conseq : Option (Resource × Block × Nat)
  /-- The interrupt is withheld for t_storm. [R261] reset no instance -/
  withheld : Bool
  /-- Recording tick. [R261] reset no instance -/
  at_ : Tick
  /-- Address, initiator and access as the instance was recorded. [R258] reset no instance -/
  addr : Word
  init : BitVec 8
  acc : BitVec 4
deriving DecidableEq, Repr

/-- The first-error slot of a fault record (R255). -/
structure Slot where
  /-- FIRST_CLASS, 2 bits. [R252] reset 0b00 -/
  cls : FaultClass
  /-- CONCURRENT, 1 bit. [R252] reset 0 -/
  concurrent : Bool
  /-- CONSEQ, 1 bit. [R252] reset 0 -/
  conseq : Bool
  /-- ESCALATED, 1 bit. [R252] reset 0 -/
  escalated : Bool
  /-- FIRST_CAUSE, 8 bits. [R252] reset 0x00 -/
  cause : BitVec 8
  /-- SCOPE, 4 bits. [R252] reset 0x0 -/
  scope : BitVec 4
  /-- FR_FIRST_ADDR, 32 bits. [R252] reset 0 -/
  addr : Word
  /-- FR_FIRST_INIT.INIT, 8 bits. [R252] reset 0 -/
  init : BitVec 8
  /-- FR_FIRST_ACC.ACC, 4 bits. [R252] reset 0 -/
  acc : BitVec 4
  /-- FR_FIRST_ACC.PORT, 1 bit. [R252] reset 0 -/
  port : Bool
  /-- FR_FIRST_TIME, 64 bits. [R252] reset 0 -/
  time : Tick
  /-- FR_CAUSEBLK.BLK, 8 bits. [R252] reset the block's own ID -/
  causeBlk : BitVec 8
  /-- FR_CAUSECODE.CODE, 8 bits. [R252] reset 0x00 -/
  causeCode : BitVec 8
  /-- Scope item of the fault in the slot, by which the instance is found again (R261). [R255] reset no fault -/
  item : Nat
deriving DecidableEq, Repr

/-- The fault record of one block (R252). -/
structure FaultRecord where
  /-- The first-error slot; FIRST_VALID is whether it holds a fault. [R255] reset empty -/
  slot : Option Slot
  /-- Tick of the last recording in the block. [R256] reset 0 -/
  lastTick : Tick
  /-- Faults recorded on that tick. [R256] reset 0 -/
  onTick : Nat
  /-- Whether one of them entered the slot. [R256] reset 0 -/
  entered : Bool
  /-- The one of them the slot would take if it were empty. [R264] reset none -/
  best : Option Slot
  /-- FR_CNT_CORR, 32 bits. [R252] reset 0 -/
  cntCorr : Word
  /-- FR_CNT_CONT, 32 bits. [R252] reset 0 -/
  cntCont : Word
  /-- FR_CNT_FATAL, 32 bits. [R252] reset 0 -/
  cntFatal : Word
  /-- FR_CNT_CONC, 32 bits. [R252] reset 0 -/
  cntConc : Word
  /-- FR_CNT_CONSEQ, 32 bits. [R252] reset 0 -/
  cntConseq : Word
  /-- FR_QUIET.CQ in ms, 16 bits. [R252] reset 0x01F4 -/
  cq : BitVec 16
  /-- FR_QUIET.FQ in ms, 16 bits. [R252] reset 0x07D0 -/
  fq : BitVec 16
  /-- FR_RECOV.TOTAL, 16 bits. [R252] reset 0 -/
  recovTotal : BitVec 16
  /-- Ticks of the recoveries in the window, from which FR_RECOV.HOUR is counted. [R258] reset none -/
  recovAt : List Tick
  /-- FR_IEN, 4 bits: CORR, CONT, FATAL, RECOV. [R252] reset CONT and FATAL 1 -/
  ien : BitVec 4
  /-- The uncleared instances, oldest first; FR_PEND, CONT_ACT, FATAL_ACT and QUIET are read from them. [R257] reset none -/
  insts : List FaultInst
  /-- Tick of the last update of the record, whose words the copy checker compares on the tick after. [R253] reset none -/
  wroteAt : Option Tick
deriving DecidableEq, Repr

/-- A fault record after a system or power-on reset (R252, R256). -/
def FaultRecord.reset : FaultRecord :=
  { slot := none, lastTick := 0, onTick := 0, entered := false, best := none, cntCorr := 0, cntCont := 0, cntFatal := 0,
    cntConc := 0, cntConseq := 0, cq := 0x01F4, fq := 0x07D0, recovTotal := 0, recovAt := [], ien := 0b0110, insts := [],
    wroteAt := none }

/-- The signature comparator SC (R267). One kerf signature held by a half waits for the other core's. -/
structure ScHalf where
  /-- Kerf signatures of EA held, with their kerf numbers and arrival ticks. [R244] reset none -/
  heldA : List (Nat × Word64 × Tick)
  /-- Kerf signatures of EB held, with their kerf numbers and arrival ticks. [R244] reset none -/
  heldB : List (Nat × Word64 × Tick)
  /-- MIS_A or MIS_B: the half has declared a mismatch. [R267] reset 0 -/
  mis : Bool
  /-- Verdicts of this half not yet exchanged, by kerf number. [R246] reset none -/
  verdicts : List (Nat × Bool)
deriving DecidableEq, Repr

structure Sc where
  /-- Kerf signatures on their way: receiving half, sending core, kerf number, signature. [R243] reset none -/
  flight : List (Side × Side × Nat × Word64)
  /-- The two comparator halves SC-A and SC-B. [R244] reset nothing held -/
  half : Two ScHalf
  /-- SC_STAT.KOK, 1 bit. [R267] reset 0 -/
  kok : Bool
  /-- SC_KNUM, 64 bits. [R267] reset 0 -/
  knum : Word64
  /-- SC_SIGA, 64 bits. [R267] reset 0 -/
  sigA : Word64
  /-- SC_SIGB, 64 bits. [R267] reset 0 -/
  sigB : Word64
  /-- The values are frozen at the mismatching kerf. [R267] reset 0 -/
  frozen : Bool
  /-- SC_SKEW.SKEW, 16 bits. [R267] reset 0 -/
  skew : BitVec 16
  /-- SC_SKEW.PEAK, 16 bits. [R267] reset 0 -/
  peak : BitVec 16
  /-- SC_CHK_CNT, 32 bits. [R267] reset 0 -/
  chkCnt : Word
  /-- A copy checker has begun a pass since the release of reset, by die; its first pass has ended, by die. [R253] reset 0 -/
  started : Two Bool
  done : Two Bool
  /-- Tick of the last pass each die's checker has started. [R253] reset none -/
  passAt : Two (Option Tick)
  /-- Bowing inhibited on both dies by a failed record pair, until a reset. [R253] reset 0 -/
  copyInhibit : Bool
deriving DecidableEq, Repr

def ScHalf.reset : ScHalf := { heldA := [], heldB := [], mis := false, verdicts := [] }

def Sc.reset : Sc :=
  { flight := [], half := ⟨ScHalf.reset, ScHalf.reset⟩, kok := false, knum := 0, sigA := 0, sigB := 0, frozen := false, skew := 0,
    peak := 0, chkCnt := 0, started := ⟨false, false⟩, done := ⟨false, false⟩, passAt := ⟨none, none⟩,
    copyInhibit := false }
/-! ## Power, clocks and reset (chapter 17) -/

/-- Where a logic supply stands against its monitor thresholds (R403, R404). -/
inductive VlLevel where
  /-- At or above V_ok and below V_ov. -/
  | good
  /-- It has fallen below V_uv and not returned above V_ok. -/
  | under
  /-- It has risen above V_ov and not returned. -/
  | over
deriving DecidableEq, Repr

/-- The steps of a start (R421, R422), in order. -/
inductive StartPhase where
  /-- A reset level is asserted and nothing is released. -/
  | held
  /-- The PLLs lock; the TB domain is not yet released. -/
  | pll
  /-- TB is released and the backup halves compared; the identity area is read next. -/
  | identity
  /-- The journal is replayed next. -/
  | replay
  /-- The slots are selected and verified next. -/
  | select
  /-- The selected image is loaded next. -/
  | load
  /-- References, calibration and threshold tests of START run. -/
  | field
  /-- The first configured scan runs. -/
  | firstScan
  /-- The start is complete, or has ended. -/
  | done
deriving DecidableEq, Repr

/-- One half of the backup domain (R407). -/
structure BackupHalf where
  /-- Validity flag, 1 bit. [R407] reset DESIGN CHOICE 1 (log 3) -/
  valid : Bool
  /-- PCR_RCOUNT.COUNT, 3 bits. [R407] reset DESIGN CHOICE 0 (log 3) -/
  rcount : BitVec 3
  /-- PCR_LIFE.COUNT, 32 bits. [R407] reset DESIGN CHOICE 1 (log 3) -/
  life : Word
  /-- Reset histogram, 9 counters of 32 bits, causes 0x01 to 0x09. [R407] reset DESIGN CHOICE POWER_ON 1, others 0 (log 3) -/
  hist : Vector Word 9
  /-- PCR_LASTST.LAST, 4 bits. [R407] reset DESIGN CHOICE 0x1, the state just entered (log 3) -/
  last : BitVec 4
  /-- PCR_LASTST.PREV, 4 bits. [R407] reset DESIGN CHOICE 0x0, RESET (log 3) -/
  prev : BitVec 4
deriving DecidableEq, Repr

/-- Which clocks have been released and run (R421). -/
structure Clocks where
  /-- TB domain released. [R421] reset 0 -/
  tb : Bool
  /-- STR domain of each die released. [R421] reset 0 -/
  str : Two Bool
  /-- ADC domain of each front-end die released. [R421] reset 0 -/
  adc : Vector Bool 4
  /-- PLK domain released. [R421] reset 0 -/
  plk : Bool
  /-- HPA and HPB released. [R421] reset 0 -/
  hp : Two Bool
deriving DecidableEq, Repr

structure Pcr where
  /-- Level of each logic supply against the monitors. [R404] reset good on both sides -/
  vl : Two VlLevel
  /-- The logic supply lies within 4.75 to 5.25 V: PCR_STAT.VLA_OK, VLB_OK. [R428] reset 0 -/
  vlOk : Two Bool
  /-- A side is in power-on reset by itself. [R404] reset 0 -/
  sideReset : Two Bool
  /-- PCR_VL, 16 bits each, in mV. [R428] reset 0 -/
  vlMv : Two (BitVec 16)
  /-- VFq lies between V_vfok and V_vfov: PCR_STAT.VF_OK. [R428] reset 0x0 -/
  vfOk : Vector Bool 4
  /-- PCR_VF01 and PCR_VF23, 16 bits each, in mV. [R428] reset 0 -/
  vfMv : Vector (BitVec 16) 4
  /-- PCR_STAT.VBAK_OK. [R428] reset 0 -/
  vbakOk : Bool
  /-- PCR_STAT.BAK_RUN. [R428] reset 0 -/
  bakRun : Bool
  /-- BAK_FAIL is uncleared: no window of R413 is measured. [R413] reset 0 -/
  bakFail : Bool
  /-- PCR_VBAK, 16 bits, in mV. [R428] reset 0 -/
  vbakMv : BitVec 16
  /-- PCR_STAT.SOSCA_OK, SOSCB_OK. [R428] reset 0 -/
  soscOk : Two Bool
  /-- PCR_STAT.REFCLK_OK. [R428] reset 0 -/
  refOk : Bool
  /-- STR of each die passes R412; PCR_STAT.STR_OK is both. [R428] reset 0 -/
  strOk : Two Bool
  /-- PCR_STAT.TBF_OK. [R428] reset 0 -/
  tbfOk : Bool
  /-- PCR_FREQ, 32 bits, signed ppm. [R428] reset 0x8000_0000 -/
  freq : Word
  /-- PCR_RCAUSE.CAUSE, 8 bits. [R428] reset 0x01 -/
  cause : BitVec 8
  /-- PCR_RCAUSE.LEVEL, 2 bits. [R428] reset 0b11 -/
  level : ResetLevel
  /-- PCR_RCAUSE.BAK_VALID. [R428] reset DESIGN CHOICE 0, the value is marked Backup (log 3) -/
  bakValid : Bool
  /-- PCR_RCAUSE.SINCE, 9 bits; bit c - 1 is cause c. [R428] reset 0x001 -/
  since : BitVec 9
  /-- Level asserted and not yet released. [R415] reset none: power-on reset has just been released -/
  asserted : Option ResetLevel
  /-- Reset sources of the present tick have been recorded. [R420] reset 0 -/
  fresh : Bool
  /-- Cause that was counted in the histogram for the reset being asserted. [R420] reset 0x01 -/
  counted : BitVec 8
  /-- RESET_N reads low. [R418] reset 0 -/
  resetNLow : Bool
  /-- EXTEST stands in the instruction register of TAP A, TAP B. [R445] reset 0 -/
  extest : Two Bool
  /-- TRST_N reads high. [R468] reset 0: its pull-down holds it low -/
  trstN : Bool
  /-- Instruction register of TAP A, TAP B, 8 bits. [R445] reset PRESUMED IDCODE, as IEEE 1149.1 has it in Test-Logic-Reset (log 150) -/
  ir : Two (BitVec 8)
  /-- DBG_ADDR of TAP A, 8 bits. [R446] reset DESIGN CHOICE 0 (log 150) -/
  dbgAddr : BitVec 8
  /-- What the last capture of a data register of 32 bits gave: DBG_DATA or IDCODE. [R446] reset none -/
  tdo : Option Word
  /-- Step of the start that comes next. [R422] reset the PLLs lock -/
  phase : StartPhase
  /-- Clocks released. [R421] reset none -/
  clk : Clocks
  /-- The start now running counts as a start to time: TB_NOW at its beginning. [R423] reset 0 -/
  startAt : Tick
  /-- PCR_TSTART, 32 bits, in µs. [R428] reset 0 -/
  tstart : Word
  /-- PCR_HIST_SEL.CAUSE, 4 bits. [R428] reset 0x1 -/
  histSel : BitVec 4
  /-- PCR_RST armed: the port that armed it and the tick. [R419] reset not armed -/
  armed : Option (Side × Tick)
  /-- A key sequence of the present tick whose reset is asserted on the next: the port and the level. [R419] reset none -/
  rstDue : Option (Side × ResetLevel)
  /-- VBAK was last reported below V_bklow. [R404] reset 0 -/
  vbakLow : Bool
  /-- SOSC-A, SOSC-B has stopped. [R415] reset 0 -/
  soscStop : Two Bool
  /-- Tick on which the window of 1,024 BAK periods began. [R413] reset 0 -/
  freqFrom : Tick
  /-- The two halves of the backup domain, BK-A and BK-B. [R407] reset DESIGN CHOICE (log 3) -/
  bk : Two BackupHalf
  /-- Tick of the most recent fatal fault, from which FQ runs. [R259] reset 0 -/
  fatalAt : Tick
  /-- The start now running has been counted as failed, 1 bit. [R424] reset 0 -/
  failCounted : Bool
deriving DecidableEq, Repr

/-- The backup half the model starts from: DESIGN CHOICE, log 3. -/
def BackupHalf.reset : BackupHalf :=
  { valid := true, rcount := 0, life := 1, hist := #v[1, 0, 0, 0, 0, 0, 0, 0, 0], last := 1, prev := 0 }

def Clocks.none : Clocks :=
  { tb := false, str := ⟨false, false⟩, adc := Vector.replicate 4 false, plk := false, hp := ⟨false, false⟩ }

def Pcr.reset : Pcr :=
  { vl := ⟨.good, .good⟩, vlOk := ⟨false, false⟩, sideReset := ⟨false, false⟩, vlMv := ⟨0, 0⟩,
    vfOk := Vector.replicate 4 false, vfMv := Vector.replicate 4 0, vbakOk := false, bakRun := false, bakFail := false,
    vbakMv := 0, soscOk := ⟨false, false⟩, refOk := false, strOk := ⟨false, false⟩, tbfOk := false, freq := 0x80000000,
    cause := 0x01, level := .powerOn, bakValid := false, since := 1, asserted := none, fresh := false, counted := 0x01,
    resetNLow := false, extest := ⟨false, false⟩, trstN := false, ir := ⟨1, 1⟩, dbgAddr := 0, tdo := none, phase := .pll, clk := Clocks.none, startAt := 0, tstart := 0,
    histSel := 1, armed := none, rstDue := none, vbakLow := false, soscStop := ⟨false, false⟩, freqFrom := 0, bk := ⟨BackupHalf.reset, BackupHalf.reset⟩, fatalAt := 0, failCounted := false }
/-! ## Time base and timers (chapter 11) -/

/-- A timer cell (R271). A running cell holds the tick on which its count reaches 0 and the duration of its next start. -/
inductive Cell where
  | idle
  | running (deadline : Tick) (next : Nat)
  | expired
deriving DecidableEq, Repr

/-- A period generator (R274 to R278). -/
structure Pg where
  /-- PG_CTL.EN. [R288] reset 0 -/
  en : Bool
  /-- PG_RELOAD, 32 bits. [R288] reset 0xFFFF_FFFF for PG03 to PG15; PG00 to PG02 as R274 gives them -/
  reload : Word
  /-- PG_PEND, 32 bits. [R288] reset 0 -/
  pend : Word
  /-- PG_CTL.PEND_V, with the tick of the write. [R275] reset 0 -/
  pendAt : Option Tick
  /-- Tick on which a running generator's count was 0. [R274] reset 0 -/
  base : Tick
  /-- Count of a stopped generator (PG_COUNT), 32 bits. [R277] reset 0 -/
  stopped : Word
deriving DecidableEq, Repr

/-- A compare channel (R279). -/
structure Cmp where
  /-- CMP_CTL.EN. [R288] reset 0 -/
  en : Bool
  /-- CMP_CTL.LATE. [R288] reset 0 -/
  late : Bool
  /-- Holding register of CMP_LO, 32 bits. [R288] reset 0 -/
  lo : Word
  /-- Compare value in effect, 64 bits; CMP_HI reads its high half. [R288] reset 0 -/
  value : Tick
  /-- Value in effect before the last load. [R279] reset 0 -/
  before : Tick
  /-- Tick of the last load. [R279] reset 0 -/
  loadedAt : Tick
  /-- Tick on which the value was found already reached: it matches on the next tick, late. [R279] reset none -/
  lateAt : Option Tick
deriving DecidableEq, Repr

/-- A capture channel (R280 to R284). -/
structure Cap where
  /-- CAP_CTL.SRC, 8 bits. [R288] reset 0x00 -/
  src : BitVec 8
  /-- CAP_CTL.EDGE, 2 bits. [R288] reset 0b00 -/
  edge : BitVec 2
  /-- CAP_CTL.TAP, 2 bits. [R288] reset 0b00 -/
  tap : BitVec 2
  /-- Tick of the last write of CAP_CTL, which takes effect on the next. [R284] reset none -/
  setAt : Option Tick
  /-- Queue of at most 4 entries, oldest first. [R281] reset empty -/
  queue : List Word64
  /-- Tick of the channel's last event. [R283] reset none -/
  lastAt : Option Tick
  /-- CAP_STAT.OVF. [R288] reset 0 -/
  ovf : Bool
  /-- CAP_STAT.OVF_CNT, 16 bits. [R288] reset 0 -/
  ovfCnt : BitVec 16
deriving DecidableEq, Repr

structure Tb where
  /-- TB_NOW, 64 bits. [R269] reset 0 -/
  now : Tick
  /-- Checking count on LB, 64 bits. [R270] reset 0 -/
  chk : Tick
  /-- Tick of the last TB_NOW from LA that LB has compared. [R270] reset none -/
  checkAt : Option Tick
  /-- TB_STAT.LOCK_A, LOCK_B. [R288] reset 0 -/
  lock : Two Bool
  /-- TB_STAT.CHK_OK. [R288] reset 0 -/
  chkOk : Bool
  /-- TB_CHK_DIFF, 32 bits, signed. [R288] reset 0 -/
  chkDiff : Word
  /-- The 256 master cells. [R271] reset IDLE -/
  master : Vector Cell 256
  /-- The 256 shadow cells. [R271] reset IDLE -/
  shadow : Vector Cell 256
  /-- Commands that are not idle a core has posted at its last scan close, with the scan, until the TB edge on which they take effect. [R271] reset none -/
  posts : Two (Option (Nat × List (Nat × Nat)))
  /-- Commands EA has posted, by scan, waiting for EB's. [R272] reset none -/
  postedA : List (Nat × List (Nat × Nat))
  /-- Cells whose flag differed from the shadow's in the last snapshot. [R272] reset none -/
  flagDiff : List Nat
  /-- The 16 period generators. [R274] reset as each field says -/
  pg : Vector Pg 16
  /-- The 32 compare channels. [R279] reset as each field says -/
  cmp : Vector Cmp 32
  /-- The 16 capture channels. [R280] reset as each field says -/
  cap : Vector Cap 16
  /-- TB_CMP_FLG, 32 bits. [R288] reset 0 -/
  cmpFlg : Word
  /-- TB_PG_FLG, 16 bits. [R288] reset 0 -/
  pgFlg : BitVec 16
  /-- TB_IEN_CMP, 32 bits. [R288] reset 0 -/
  ienCmp : Word
  /-- TB_IEN_PC, 32 bits. [R288] reset 0 -/
  ienPc : Word
  /-- TB_CELL_SEL.CELL, 8 bits. [R288] reset 0 -/
  cellSel : BitVec 8
  /-- Internal events of the present and of the next tick, by SRC code. [R280] reset none -/
  events : List (Nat × Tick)
  /-- FAULT_N was low at the end of the tick before. [R280] reset 1, as FAULT_N is low in RESET -/
  faultWas : Bool

deriving DecidableEq, Repr

/-- RELOAD of PG00 to PG02 (R274), and the reset value of the others (R288). -/
def Pg.reload0 (g : Nat) : Word :=
  match g with
  | 0 => 9999999
  | 1 => 4999999
  | 2 => 999999
  | _ => 0xFFFFFFFF

def Pg.reset (g : Nat) : Pg :=
  { en := false, reload := Pg.reload0 g, pend := 0, pendAt := none, base := 0, stopped := 0 }

def Cmp.reset : Cmp := { en := false, late := false, lo := 0, value := 0, before := 0, loadedAt := 0, lateAt := none }

def Cap.reset : Cap := { src := 0, edge := 0, tap := 0, setAt := none, queue := [], lastAt := none, ovf := false, ovfCnt := 0 }

def Tb.reset : Tb :=
  { now := 0, chk := 0, checkAt := none, lock := ⟨false, false⟩, chkOk := false, chkDiff := 0, master := Vector.replicate 256 .idle,
    shadow := Vector.replicate 256 .idle, posts := ⟨none, none⟩, postedA := [], flagDiff := [], pg := Vector.ofFn (fun g => Pg.reset g.val),
    cmp := Vector.replicate 32 Cmp.reset, cap := Vector.replicate 16 Cap.reset, cmpFlg := 0, pgFlg := 0, ienCmp := 0,
    ienPc := 0, cellSel := 0, events := [], faultWas := true }

/-! ## Self-test, life cycle, debug (chapter 18) -/

/-- The item an acknowledgement wait belongs to and what it awaits (R442 to R444). -/
structure AckWait where
  /-- Port and ring of the waiting item. [R442] reset no wait -/
  port : Side
  ring : Nat
  /-- Tick on which the wait began. [R442] reset no wait -/
  since : Tick
  /-- Awaited through TAP A: ST_STAT.ACKTAP. [R442] reset 0 -/
  tap : Bool
  /-- Value TAP A must give. [R444] reset no wait -/
  key : Word
  /-- Acknowledgement input a. [R442] reset no wait -/
  input : Nat
  /-- Progress of the press on each die: nothing yet, seen false, true since a tick. [R443] reset no wait -/
  press : Two Nat
  /-- Sample edge of the first true snapshot on each die. [R443] reset no wait -/
  pressAt : Two Tick
  /-- Tick on which each die has accepted. [R443] reset no wait -/
  accepted : Two (Option Tick)
deriving DecidableEq, Repr

/-- A breakpoint register DBG_BRKn and a watchpoint register DBG_WPn (R447). -/
structure Brk where
  /-- RANK, 9 bits. [R447] reset 0 -/
  rank : BitVec 9
  /-- EN. [R447] reset 0 -/
  en : Bool
deriving DecidableEq, Repr

structure Wp where
  /-- ADDR, 13 bits. [R447] reset 0 -/
  addr : BitVec 13
  /-- EN. [R447] reset 0 -/
  en : Bool
  /-- ON_READ. [R447] reset 0 -/
  onRead : Bool
deriving DecidableEq, Repr

structure Dbg where
  /-- DBG_STAT.HALT_A. [R446] reset 0 -/
  haltA : Bool
  /-- DBG_STAT.HALT_B. [R446] reset 0 -/
  haltB : Bool
  /-- A halt has been requested and EA has not reached its rank boundary. [R447] reset 0 -/
  pendHalt : Bool
  /-- DBG_STAT.RANK, 9 bits. [R446] reset 0 -/
  rank : BitVec 9
  /-- DBG_STAT.BRK. [R446] reset 0 -/
  brk : Bool
  /-- DBG_STAT.BRKN, 2 bits. [R446] reset 0 -/
  brkN : BitVec 2
  /-- DBG_STAT.WP. [R446] reset 0 -/
  wp : Bool
  /-- DBG_STAT.WPN. [R446] reset 0 -/
  wpN : Bool
  /-- Writes queued for EB: scan, rank, address, data; at most 16 (QCOUNT). [R448] reset none -/
  queue : List (Nat × Nat × BitVec 13 × Word)
  /-- DBG_BRK0 to 3. [R446] reset 0 -/
  brks : Vector Brk 4
  /-- DBG_WP0 and 1. [R446] reset 0 -/
  wps : Vector Wp 2
  /-- DBG_OPADDR, 13 bits. [R446] reset 0 -/
  opAddr : BitVec 13
  /-- DBG_REFUSED, 32 bits. [R446] reset 0 -/
  refused : Word
  /-- A breakpoint just left by RESUME or STEP does not hit again at the same position: EA's halt position. [R447] reset none -/
  skip : Option (Nat × Nat)
  /-- A STEP is under way: EA halts again after the rank it issues. [R447] reset 0 -/
  step : Bool
  /-- A fatal fault of HALT has resumed the cores: HOLD follows on the next tick. [R449] reset 0 -/
  holdNext : Bool
deriving DecidableEq, Repr

structure St where
  /-- Life cycle in effect on each die, ST_STAT.LC. [R458] reset DESIGN CHOICE BLANK: the value is marked From store and the module ships in BLANK (log 4) -/
  lc : LifeCycle
  /-- ST_STAT.STRAP. [R458] reset DESIGN CHOICE 0: the value is marked Sampled (log 4) -/
  strap : Bool
  /-- ST_STAT.FULLOK. [R458] reset 0 -/
  fullOk : Bool
  /-- ST_STAT.CRUISE. [R458] reset 0 -/
  cruise : Bool
  /-- FULL_TEST running: port and ring of its item and the tick it began; ST_STAT.FULLRUN. [R458] reset not running -/
  full : Option (Side × Nat × Tick)
  /-- Position of the FULL_TEST in its round, its failed classes, and the tick from which its slice spacing runs. [R438] reset not running -/
  fullPos : Nat
  fullFail : BitVec 8
  fullFrom : Tick
  /-- ST_STAT.LATE. [R458] reset 0 -/
  late : Bool
  /-- The acknowledgement awaited; ST_STAT.ACKWAIT. [R458] reset none -/
  ack : Option AckWait
  /-- ST_ROUNDS, 32 bits. [R458] reset 0 -/
  rounds : Word
  /-- ST_RTIME.S, 16 bits. [R458] reset 0 -/
  rtime : BitVec 16
  /-- ST_POS.POS, 16 bits. [R458] reset 0 -/
  pos : Nat
  /-- ST_DEFER_CNT, 32 bits. [R458] reset 0 -/
  deferCnt : Word
  /-- ST_INTR_CNT, 32 bits. [R458] reset 0 -/
  intrCnt : Word
  /-- ST_FAILMAP.CUR, 8 bits. [R458] reset 0 -/
  failCur : BitVec 8
  /-- ST_FAILMAP.LAST, 8 bits. [R458] reset 0 -/
  failLast : BitVec 8
  /-- Slices left in the open batch, and the tick of the wrap or last slice start. [R430] reset no batch -/
  batch : Option (Nat × Tick)
  /-- The slice now running: its position, its start tick, and whether it is one of the FULL_TEST. [R430] reset none -/
  slice : Option (Nat × Tick × Bool)
  /-- Tick on which the round began. [R437] reset 0 -/
  roundAt : Tick
  /-- Ticks of the round during which its slices were held back by R436. [R437] reset 0 -/
  heldFor : Nat
  /-- Tick since which a slice is held back. [R437] reset none -/
  heldSince : Option Tick
  /-- The round has recorded CRUISE_LATE, CRUISE_STALL. [R437] reset 0 -/
  lateRec : Bool
  stallRec : Bool
  /-- The debug logic. [R446] reset as each field says -/
  dbg : Dbg
deriving DecidableEq, Repr

def Dbg.reset : Dbg :=
  { haltA := false, haltB := false, pendHalt := false, rank := 0, brk := false, brkN := 0, wp := false, wpN := false,
    queue := [], brks := Vector.replicate 4 ⟨0, false⟩, wps := Vector.replicate 2 ⟨0, false, false⟩, opAddr := 0,
    refused := 0, skip := none, step := false, holdNext := false }

def St.reset : St :=
  { lc := .blank, strap := false, fullOk := false, cruise := false, full := none, fullPos := 0, fullFail := 0, fullFrom := 0, late := false, ack := none, rounds := 0,
    rtime := 0, pos := 0, deferCnt := 0, intrCnt := 0, failCur := 0, failLast := 0, batch := none, slice := none,
    roundAt := 0, heldFor := 0, heldSince := none, lateRec := false, stallRec := false,
    dbg := Dbg.reset }
/-! ## Memories -/

/-- An addressed memory of `w`-bit units as (address, value) pairs, in one canonical form: addresses strictly rising and
no entry equal to what an unlisted address reads as. With `w = 8` an entry is a `Host.Cell`. -/
abbrev Mem (w : Nat) := List (Nat × BitVec w)

/-! ## The table image as loaded (chapter 3) -/

/-- An input entry (R78). -/
structure InputCfg where
  /-- MODE, 2 bits: 0 disabled, 1 standard current, 2 low current, 3 OSSD. [R78] reset 0, no table -/
  mode : Nat
  /-- FILTER in µs, 12 bits. [R78] reset 0, no table -/
  filter : Nat
  /-- SOURCE, 6 bits. [R78] reset 0, no table -/
  source : Nat
  /-- PULSED. [R78] reset 0, no table -/
  pulsed : Bool
  /-- PARTNER, 7 bits. [R78] reset 0, no table -/
  partner : Nat
  /-- PAIRED. [R78] reset 0, no table -/
  paired : Bool
deriving DecidableEq, Repr, Inhabited

/-- A strum entry (R79). -/
structure StrumCfg where
  /-- ENABLE. [R79] reset 0, no table -/
  enable : Bool
  /-- PERIOD in µs, 17 bits. [R79] reset 0, no table -/
  period : Nat
  /-- PHASE in µs, 17 bits. [R79] reset 0, no table -/
  phase : Nat
  /-- The dips: START_k and WIDTH_k in µs, at most 8. [R79] reset none, no table -/
  dips : List (Nat × Nat)
deriving DecidableEq, Repr, Inhabited

/-- An output entry (R80). -/
structure OutputCfg where
  /-- ENABLE. [R80] reset 0, no table -/
  enable : Bool
  /-- DARK in µs, 9 bits. [R80] reset 0, no table -/
  dark : Nat
  /-- DARK_INT in ms, 14 bits. [R80] reset 0, no table -/
  darkInt : Nat
  /-- LOAD, 2 bits. [R80] reset 0, no table -/
  load : Nat
  /-- I_MIN in mA, 12 bits. [R80] reset 0, no table -/
  iMin : Nat
  /-- I_MAX in mA, 12 bits. [R80] reset 0, no table -/
  iMax : Nat
deriving DecidableEq, Repr, Inhabited

/-- An axis entry (R81). -/
structure AxisCfg where
  /-- MODE, 2 bits: 0 unused, 1 sin/cos, 2 RS-422. [R81] reset 0, no table -/
  mode : Nat
  /-- INVERT. [R81] reset 0, no table -/
  invert : Bool
  /-- PITCH_NM, 32 bits. [R81] reset 0, no table -/
  pitchNm : Nat
  /-- PER_REV, 32 bits. [R81] reset 0, no table -/
  perRev : Nat
  /-- VL_MIN in mVpp, 16 bits. [R81] reset 0, no table -/
  vlMin : Nat
  /-- VL_MAX in mVpp, 16 bits. [R81] reset 0, no table -/
  vlMax : Nat
deriving DecidableEq, Repr, Inhabited

/-- A zone entry (R85). -/
structure ZoneCfg where
  /-- AXES, 64 bits. [R85] reset no zone -/
  axes : BitVec 64
  /-- AUX, 16 bits. [R85] reset no zone -/
  aux : BitVec 16
  /-- STATE, address of the state word, 16 bits. [R85] reset no zone -/
  state : Nat
deriving DecidableEq, Repr, Inhabited

/-- A link partner entry (R87). -/
structure PartnerCfg where
  /-- TYPE, 8 bits. [R87] reset 0, none -/
  type : Nat
  /-- LOCAL_ADDR, 8 bits. [R87] reset 0, no table -/
  localAddr : Nat
  /-- PEER_ADDR, 8 bits. [R87] reset 0, no table -/
  peerAddr : Nat
  /-- DETACH. [R87] reset 0, no table -/
  detach : Bool
  /-- CYCLE in µs, 16 bits. [R87] reset 0, no table -/
  cycle : Nat
  /-- WDOG in cycles, 8 bits. [R87] reset 0, no table -/
  wdog : Nat
  /-- DWIN in s, 8 bits. [R87] reset 0, no table -/
  dwin : Nat
  /-- PEER_ID, 32 bits. [R87] reset 0, no table -/
  peerId : Nat
  /-- ACCEPT, 16 bits. [R87] reset 0, no table -/
  accept : Nat
  /-- SUBST, 16 bytes. [R87] reset none, no table -/
  subst : List Byte
deriving DecidableEq, Repr, Inhabited

/-- A table as it runs: an image loaded by R89, or the null table (R513). -/
structure Table where
  /-- An active image is loaded (EV_STAT.TABLE); false for the null table. [R513] reset no table -/
  real : Bool
  /-- The rows, 16 for each rank, 64 bits each. [R69] reset no table -/
  rows : List Word64
  /-- RANKS, 1 to 256. [R65] reset no table -/
  ranks : Nat
  /-- SCAN_MAX in ticks. [R65] reset no table -/
  scanMax : Nat
  /-- SCAN_MIN in ticks. [R65] reset no table -/
  scanMin : Nat
  /-- KERF, 1 to 64. [R65] reset no table -/
  kerf : Nat
  /-- SEED, 64 bits. [R65] reset no table -/
  seed : Word64
  /-- ACK_INPUT, 0 to 127. [R65] reset no table -/
  ackInput : Nat
  /-- BUILD, 32 bytes. [R65] reset no table -/
  build : List Byte
  /-- APP_ID and APP_VER, 32 bits each. [R65] reset no table -/
  appId : Word
  appVer : Word
  /-- CV_A and CV_B, 32 bits each. [R65] reset no table -/
  cvA : Word
  cvB : Word
  /-- Operand initial values: address and word. [R76] reset no table -/
  init : List (Nat × Word)
  /-- The 128 input entries. [R77] reset no table -/
  inputs : Vector InputCfg 128
  /-- The 32 strum entries. [R77] reset no table -/
  strums : Vector StrumCfg 32
  /-- The 144 output entries. [R77] reset no table -/
  outputs : Vector OutputCfg 144
  /-- The 64 axis entries. [R77] reset no table -/
  axes : Vector AxisCfg 64
  /-- The zone entries, at most 16. [R85] reset no table -/
  zones : List ZoneCfg
  /-- The mode entries: the input indices of the selector positions, at most 8 entries. [R85] reset no table -/
  modes : List (List Nat)
  /-- The four link partner entries. [R87] reset no table -/
  partners : Vector PartnerCfg 4
deriving DecidableEq, Repr, Inhabited

/-- The null table (R513): one rank of NOP rows, SCAN_MAX 14, SCAN_MIN 9, KERF 1, SEED 0. -/
def Table.null : Table :=
  { real := false, rows := List.replicate 16 0, ranks := 1, scanMax := 14, scanMin := 9, kerf := 1, seed := 0, ackInput := 0,
    build := [], appId := 0, appVer := 0, cvA := 0, cvB := 0, init := [], inputs := Vector.replicate 128 default,
    strums := Vector.replicate 32 default, outputs := Vector.replicate 144 default, axes := Vector.replicate 64 default,
    zones := [], modes := [], partners := Vector.replicate 4 default }
/-! ## The Abaelm fabric (chapter 2) -/

/-- The states of a sequencer, in the order of their codes 0x0 to 0x4 (R58). -/
inductive Seq where
  | stopped | wait | scan | close | halted
deriving DecidableEq, Repr, Inhabited

/-- One evaluation core with its sequencer. EB holds every operand word complemented (R48). -/
structure CoreSt where
  /-- Sequencer state, 3 bits (EV_STAT.SEQ_A, SEQ_B). [R58] reset STOPPED -/
  seq : Seq
  /-- The table the core runs. [R59] reset none -/
  table : Option Table
  /-- Rank next to complete in the present scan, 0 to 256. [R32] reset 0 -/
  rank : Nat
  /-- That rank has been issued. [R33] reset 0 -/
  issued : Bool
  /-- Command image and working words, 0x0400 to 0x07FF and 0x1000 to 0x1FFF, as stored. [R72] reset DESIGN CHOICE nothing listed, undefined until a START loads it (log 5) -/
  opMem : Mem 32
  /-- The contents of the operand memory are not defined, since the state of this counter. [R59] reset DESIGN CHOICE 0 (log 5) -/
  undef : Option Nat
  /-- Live bank of the snapshot regions, as stored. [R36] reset nothing listed -/
  live : Mem 32
  /-- Fill bank of the snapshot regions, as stored. [R36] reset nothing listed -/
  fill : Mem 32
  /-- Index of the live bank (EV_STAT.LIVE_A, LIVE_B). [R60] reset 0 -/
  liveIdx : Bool
  /-- Check value sealed with the live bank and with the fill bank. [R38] reset 0 -/
  liveCv : Word
  fillCv : Word
  /-- A sealed snapshot waits in the fill bank, with its scan number. [R38] reset none -/
  sealed : Option Nat
  /-- Scan number the core expects next. [R40] reset 0 -/
  expect : Nat
  /-- Scan number of the scan in progress or last closed. [R40] reset 0 -/
  scan : Nat
  /-- Scans closed since START. [R47] reset 0 -/
  closed : Nat
  /-- Signature accumulator, 64 bits. [R242] reset 0 -/
  sig : Word64
  /-- Scans closed in the present kerf. [R243] reset 0 -/
  kerfScans : Nat
  /-- Number of the present kerf. [R243] reset 0 -/
  kerf : Nat
  /-- Malformed-value counter, 32 bits. [R50] reset 0 -/
  malf : Word
  /-- Outputs whose OUT row defers dark tests in the scan in progress (policy 0b01). [R120] reset none -/
  defer : List Nat
  /-- Tick of the core's last scan-close event, from which the next sample edge is counted. [R42] reset none -/
  closeAt : Option Tick
  /-- Tick of the last scan-close event, or of the sample edge that times a first scan. [R52] reset none, not timed -/
  timed : Option Tick
  /-- The scan now timed is a first one, to which SCAN_MIN does not apply. [R54] reset 0 -/
  first : Bool
  /-- Last P measured, 16 bits. [R60] reset 0 -/
  per : BitVec 16
  /-- PMAX and PMIN, 16 bits each. [R60] reset 0x0000 and 0xFFFF -/
  pmax : BitVec 16
  pmin : BitVec 16
  /-- SCAN_OVER has been recorded for the scan in progress. [R52] reset 0 -/
  overRec : Bool
deriving DecidableEq, Repr

/-- Values that registers show as of the last close of EA (R60). -/
structure EvMirror where
  /-- EV_STAT.SEQ_A and SEQ_B, 3 bits each. [R60] reset 0x0, STOPPED -/
  seq : Two Seq
  /-- EV_STAT.LIVE_A and LIVE_B. [R60] reset 0 -/
  live : Two Bool
  /-- EV_SCAN, 64 bits. [R60] reset 0 -/
  scan : Word64
  /-- EV_PER.PER_B, 16 bits. [R60] reset 0 -/
  perB : BitVec 16
  /-- EV_PEAK_B, 32 bits. [R60] reset PMIN 0xFFFF, PMAX 0 -/
  peakB : Word
  /-- EV_MALF_A and EV_MALF_B, 32 bits each. [R60] reset 0 -/
  malfA : Word
  malfB : Word
  /-- EV_SNAPCV, 32 bits. [R60] reset 0 -/
  snapCv : Word
  /-- EV_QVALID.QV, 4 bits. [R60] reset 0 -/
  qv : BitVec 4
deriving DecidableEq, Repr

structure Ev where
  /-- The two cores EA and EB. [R29] reset as each field says -/
  core : Two CoreSt
  /-- Rank tokens EB holds. [R46] reset 0 -/
  tokens : Nat
  /-- Close tokens EB holds: that of the present scan, and any that belongs to the next. [R46] reset 0 -/
  closeTokens : Nat
  /-- Ranks EA has issued since START. [R47] reset 0 -/
  issuedA : Nat
  /-- Rank tokens that have reached EB since START. [R47] reset 0 -/
  tokensIn : Nat
  /-- Completion tokens EA holds: ranks EB has completed since START. [R47] reset 0 -/
  completedB : Nat
  /-- Tick since which EA has waited for EB. [R47] reset none -/
  waitSince : Option Tick
  /-- Launch edge of EA passed and held back until EB closes. [R47] reset 0 -/
  launchHeld : Bool
  /-- Sample edge of the last snapshot. [R37] reset none -/
  sampleAt : Option Tick
  /-- Scan number of the next snapshot. [R40] reset 0 -/
  nextSnap : Nat
  /-- Quarters whose last transfer over QLq failed its check. [R39] reset none -/
  xferBad : Vector Bool 4
  /-- Quarters whose quarter-valid word was true in the last snapshot. [R39] reset none -/
  qValid : BitVec 4
  /-- EV_LAG.LAG, 9 bits. [R60] reset 0 -/
  lag : BitVec 9
  /-- EV_LAG.LAG_PEAK, 9 bits. [R60] reset 0 -/
  lagPeak : BitVec 9
  /-- PEAK_CLR and MALF_CLR wait for the next close of EA. [R60] reset 0 -/
  peakClr : Bool
  malfClr : Bool
  /-- Values shown as of EA's last close. [R60] reset as each field says -/
  mir : EvMirror
  /-- Images selected and verified at START, by core, before they are loaded. [R93] reset none -/
  chosen : Two (Option Table)
  /-- Quarters whose field step the present START runs. [R422] reset none -/
  fieldQ : BitVec 4
deriving DecidableEq, Repr

def CoreSt.reset : CoreSt :=
  { seq := .stopped, table := none, rank := 0, issued := false, opMem := [], undef := some 0, live := [], fill := [],
    liveIdx := false, liveCv := 0, fillCv := 0, sealed := none, expect := 0, scan := 0, closed := 0, sig := 0,
    kerfScans := 0, kerf := 0, malf := 0, defer := [], closeAt := none, timed := none, first := true, per := 0, pmax := 0, pmin := 0xFFFF,
    overRec := false }

def Ev.reset : Ev :=
  { core := ⟨CoreSt.reset, CoreSt.reset⟩, tokens := 0, closeTokens := 0, issuedA := 0, tokensIn := 0, completedB := 0,
    waitSince := none, launchHeld := false, sampleAt := none, nextSnap := 0, xferBad := Vector.replicate 4 false, qValid := 0,
    lag := 0, lagPeak := 0, peakClr := false, malfClr := false,
    mir := { seq := ⟨.stopped, .stopped⟩, live := ⟨false, false⟩, scan := 0, perB := 0, peakB := 0xFFFF0000, malfA := 0, malfB := 0, snapCv := 0, qv := 0 },
    chosen := ⟨none, none⟩, fieldQ := 0 }
/-! ## Safety inputs (chapter 5) and pulse sources (chapter 6) -/

/-- One input terminal with its comparators, masking or bridge, filter and monitors. -/
structure Input where
  /-- The processing of R125 runs for the input. [R514] reset 0 -/
  on : Bool
  /-- Sample edge on which it started; on that edge every step presents false. [R514] reset none -/
  onAt : Option Tick
  /-- Live comparator (RAW, IB_RAW). [R125] reset 0 -/
  live : Bool
  /-- Tick of its last change. [R125] reset 0 -/
  liveAt : Tick
  /-- Index of the live comparator, CMP0 or CMP1 (IB_THR_RES.LIVE). [R146] reset 0 -/
  liveIdx : Bool
  /-- Check comparator. [R137] reset 0 -/
  chk : Bool
  /-- Tick on which the two comparators last began to agree or to differ. [R137, R138] reset 0 -/
  cmpAt : Tick
  /-- Tick on which the check comparator was last reconnected to the terminal. [R137] reset 0 -/
  joinAt : Tick
  /-- The present disagreement of the comparators has been recorded. [R138] reset 0 -/
  disDone : Bool
  /-- Terminal voltage against the band and V_ovf. [R135] reset below the band -/
  zone : VoltZone
  /-- Tick of the zone's last change. [R136] reset 0 -/
  zoneAt : Tick
  /-- Tick on which the voltage last left the band. [R138] reset 0 -/
  bandEnd : Tick
  /-- Ticks of t_band counted before `bandFrom`. [R135] reset 0 -/
  bandAcc : Nat
  /-- Tick from which t_band counts on, while the voltage is in the band. [R135] reset none -/
  bandFrom : Option Tick
  /-- End of the last suspension of the band monitor, 50 µs after the input's dip. [R135] reset none -/
  bandHold : Option Tick
  /-- Value step 2 of R125 holds inside the expected dip of the input's source; none outside. [R152] reset none -/
  held : Option Bool
  /-- Start of the bridged low in progress in OSSD mode. [R129] reset none -/
  bridge : Option Tick

  /-- End of the last bridged low while t_gap runs. [R130] reset none -/
  gapFrom : Option Tick
  /-- End of the last bridged low while TP_SEEN is 1. [R133] reset none -/
  tpSeen : Option Tick
  /-- TP_COINC. [R133] reset 0 -/
  tpCoinc : Bool
  /-- In the bridged low in progress, PARTNER has been low on 100 consecutive edges. [R133] reset 0 -/
  coincNow : Bool
  /-- What step 2 presented on the last edge looked at, and the edge of its last change. [R125] reset 0 -/
  c2 : Bool
  c2At : Tick
  /-- Filtered value. [R126] reset 0 -/
  filt : Bool
  /-- Edge of its last change. [R126] reset 0 -/
  filtAt : Tick
  /-- First edge of the present run of edges on which step 2 differs from the filtered value. [R126] reset none -/
  diffSince : Option Tick
  /-- CHANGES, 8 bits. [R134] reset 0 -/
  changes : BitVec 8
  /-- Start of the handover under way after a passed threshold test. [R137] reset none -/
  handover : Option Tick
  /-- IB_THR_RES.STEPS, 5 bits, and PASS. [R146] reset 0 -/
  steps : BitVec 5
  pass : Bool
  /-- Tick of the last threshold test, from which AGE is read. [R146] reset none, AGE 0xFF_FFFF -/
  testedAt : Option Tick
  /-- The dip in progress has been seen low on 10 consecutive ticks. [R153] reset 0 -/
  dipSeen : Bool
  /-- Consecutive missed dips, at most 2. [R154] reset 0 -/
  misses : Nat
  /-- Last foreign match to each source: the source and the number of its dip. [R155] reset none -/
  foreign : List (Fin 32 × Nat)
  /-- A foreign match has been recorded since the end of the last window of the input's own source. [R156] reset 0 -/
  foreignNew : Bool
deriving DecidableEq, Repr

structure Ib where
  /-- The 128 input terminals. [R125] reset as each field says -/
  inp : Vector Input 128
  /-- IB_QSTAT.REF_OK, 4 bits. [R146] reset 0x0 -/
  refOk : BitVec 4
  /-- IB_THR_SEL.INPUT, 7 bits. [R146] reset 0x00 -/
  thrSel : BitVec 7
  /-- IB_THR_CNT, 32 bits. [R146] reset 0 -/
  thrCnt : Word
deriving DecidableEq, Repr

/-- A dip window of a source: its dip, its first tick, the tick its off part ends and the first tick after it. -/
structure DipWin where
  /-- Dip number k. [R149] reset no window -/
  dip : Nat
  /-- First tick of the window. [R151] reset no window -/
  openAt : Tick
  /-- First tick of the recovery part. [R151] reset no window -/
  offEnd : Tick
  /-- First tick after the window. [R151] reset no window -/
  closeAt : Tick
deriving DecidableEq, Repr

/-- One pulse source. -/
structure Source where
  /-- The source has been switched on at the first configured scan. [R163] reset 0 -/
  on : Bool
  /-- Tick on which it was last switched on, at that scan or by a retry. [R159] reset 0 -/
  onAt : Tick
  /-- Dip window in progress. [R151] reset none -/
  win : Option DipWin
  /-- The source is in the off part of a dip. [R151] reset 0 -/
  inOff : Bool
  /-- Last window that ended. [R155] reset none -/
  lastWin : Option DipWin
  /-- Dips opened since START, by which consecutive dips are known. [R155] reset 0 -/
  dipNo : Nat
  /-- DIPS_DONE, 8 bits. [R167] reset 0 -/
  done : BitVec 8
  /-- Switched off by an overload since this tick, until the retry. [R159] reset none -/
  offSince : Option Tick
  /-- The read-back stayed above 11 V through the off part of the dip in progress. [R159] reset 0 -/
  highOff : Bool
  /-- Consecutive dips with the read-back above 11 V through the off part, at most 2. [R159] reset 0 -/
  stuck : Nat
deriving DecidableEq, Repr

structure Ps where
  /-- The 32 pulse sources. [R151] reset as each field says -/
  src : Vector Source 32
  /-- Tick on which PG00 was released; dip windows exist from then on. [R163] reset none -/
  frameAt : Option Tick
  /-- Sample edge of the first configured scan, from which 1 ms runs. [R163] reset none -/
  switchedAt : Option Tick
  /-- PS_MISS_CNT, PS_UNEXP_CNT, PS_NOCHK_CNT, 32 bits each. [R166] reset 0 -/
  missCnt : Word
  unexpCnt : Word
  nochkCnt : Word
deriving DecidableEq, Repr

def Input.reset : Input :=
  { on := false, onAt := none, live := false, liveAt := 0, liveIdx := false, chk := false, cmpAt := 0, joinAt := 0,
    disDone := false, zone := .below, zoneAt := 0, bandEnd := 0, bandAcc := 0, bandFrom := none, bandHold := none, held := none,
    bridge := none, gapFrom := none, tpSeen := none, tpCoinc := false, coincNow := false, c2 := false, c2At := 0, filt := false,
    filtAt := 0, diffSince := none, changes := 0, handover := none, steps := 0, pass := false, testedAt := none,
    dipSeen := false, misses := 0, foreign := [], foreignNew := false }

def Ib.reset : Ib := { inp := Vector.replicate 128 Input.reset, refOk := 0, thrSel := 0, thrCnt := 0 }

def Source.reset : Source :=
  { on := false, onAt := 0, win := none, inOff := false, lastWin := none, dipNo := 0, done := 0, offSince := none,
    highOff := false, stuck := 0 }

def Ps.reset : Ps :=
  { src := Vector.replicate 32 Source.reset, frameAt := none, switchedAt := none, missCnt := 0, unexpCnt := 0, nochkCnt := 0 }
/-! ## Axis feedback (chapter 7) -/

/-- One measurement path of one axis. -/
structure Path where
  /-- The path has started under R175. [R175] reset 0 -/
  started : Bool
  /-- Its first measurement instant has been. [R175] reset 0 -/
  begun : Bool
  /-- Filtered quadrature state of the path's comparators or receivers, quadrant 0 to 3. [R172] reset 0 -/
  quad : Fin 4
  /-- Count of quadrature edges since the quadrant 0 of the path's first period, 32 bits. [R173] reset 0 -/
  count : Word
  /-- Count as latched at the last measurement instant, 32 bits. [R182] reset 0 -/
  latched : Word
  /-- Position as latched at the last measurement instant, 32 bits. [R180] reset 0 -/
  pos : Word
  /-- Offset between position and count, set at a start, a resume or a re-seed. [R190] reset 0 -/
  base : Word
  /-- Positions of the last 33 measurement instants, newest first. [R176] reset none -/
  hist : List Word
  /-- Ticks of the edges counted in the last 102.4 µs, newest first. [R180] reset none -/
  edges : List Tick
  /-- ERRS, 32 bits. [R180] reset 0 -/
  errs : Word
  /-- SEQ, 32 bits. [R180] reset 0 -/
  seq : Word
  /-- SEEDED. [R181] reset 0 -/
  seeded : Bool
  /-- The uncleared FREQ fault of the axis names this path. [R181] reset 0 -/
  freqF : Bool
  /-- The uncleared QUAD fault of the axis names this path. [R181] reset 0 -/
  quadF : Bool
  /-- BREAKS, 8 bits. [R181] reset 0 -/
  breaks : BitVec 8
  /-- The path is broken since this tick. [R190] reset none -/
  brokenAt : Option Tick
  /-- Tick of the path's last break. [R191] reset none -/
  lastBreak : Option Tick
  /-- Counting is stopped and the position holds. [R190] reset 0 -/
  held : Bool
  /-- Fine phase of the last measurement (sin/cos path 0), 12 bits. [R172] reset 0 -/
  phi : Nat
  /-- The eight words formed at the last measurement instant. [R180] reset 0 -/
  words : Vector Word 8
  /-- The eight words in the buffer the distributor reads. [R178] reset 0 -/
  buf : Vector Word 8
  /-- The eight words of the buffer before the last swap. [R178] reset 0 -/
  prev : Vector Word 8
deriving DecidableEq, Repr

/-- Offset and gain corrections of a converter pair (R193). -/
structure Corr where
  /-- AF_CAL_RES.OFS_S, OFS_C, 8 bits signed, LSB. [R200] reset DESIGN CHOICE 0 (log 6) -/
  ofsS : BitVec 8
  ofsC : BitVec 8
  /-- AF_CAL_RES.GAIN_S, GAIN_C, 8 bits signed, 0.05%. [R200] reset DESIGN CHOICE 0 (log 6) -/
  gainS : BitVec 8
  gainC : BitVec 8
deriving DecidableEq, Repr, Inhabited

structure Axis where
  /-- Path 0 (interpolating) and path 1 (counting). [R168] reset as each field says -/
  path : Vector Path 2
  /-- Measurements with a vector length outside the window, newest in bit 0, 32 bits. [R184] reset 0 -/
  vecHist : BitVec 32
  /-- Vector length of the last measurement in mVpp. [R180] reset 0 -/
  ampl : Nat
  /-- The last measurement was bad. [R183] reset 0 -/
  degraded : Bool
  /-- The last measurement of path 0 exceeded f_freq0. [R182] reset 0 -/
  fast : Bool
  /-- Axis entry the axis was started under, by which R195 tells a changed one. [R195] reset none -/
  cfg : Option AxisCfg
deriving DecidableEq, Repr

/-- A calibration pass under way in a quarter (R193). -/
structure CalPass where
  /-- Converter pair, 0 to 15 of the axes, 16 the spare. [R193] reset no pass -/
  pair : Nat
  /-- The spare has taken over the axis. [R193] reset no pass -/
  taken : Bool
  /-- Corrections found. [R193] reset no pass -/
  corr : Corr
  /-- Offset and gain lie within R194. [R194] reset no pass -/
  good : Bool
  /-- Consecutive agreeing measurements of the handover under way, at most 8. [R193] reset no pass -/
  agree : Nat
  /-- Measurement instants of the handover under way, at most 64. [R194] reset no pass -/
  instants : Nat
deriving DecidableEq, Repr

structure AfQuarter where
  /-- AF_QSTAT.MEAS. [R200] reset 0 -/
  meas : Bool
  /-- Tick of the last measurement instant that completed. [R198] reset 0 -/
  measAt : Tick
  /-- A measurement waits for its buffer swap. [R178] reset 0 -/
  fresh : Bool
  /-- Tick of the last buffer swap. [R178] reset none -/
  swapAt : Option Tick
  /-- Next converter pair in rotation, 0 to 16. [R193] reset 0 -/
  next : Nat
  /-- Tick from which the 20 ms to the next pass run. [R193] reset 0 -/
  passAt : Tick
  /-- Calibration pass under way. [R193] reset none -/
  pass : Option CalPass
  /-- Corrections of the 17 converter pairs. [R193] reset DESIGN CHOICE 0 (log 6) -/
  corr : Vector Corr 17
deriving DecidableEq, Repr

structure Af where
  /-- The 64 axes. [R168] reset as each field says -/
  ax : Vector Axis 64
  /-- The four quarters. [R178] reset as each field says -/
  q : Vector AfQuarter 4
  /-- AF_SEL.AXIS, 6 bits. [R200] reset 0 -/
  sel : BitVec 6
  /-- AF_SEL.SPARE. [R200] reset 0 -/
  spare : Bool
  /-- AF_CAL_CNT, 32 bits. [R200] reset 0 -/
  calCnt : Word
deriving DecidableEq, Repr

def Path.reset : Path :=
  { started := false, begun := false, quad := 0, count := 0, latched := 0, pos := 0, base := 0, hist := [], edges := [], errs := 0, seq := 0,
    seeded := false, freqF := false, quadF := false, breaks := 0, brokenAt := none, lastBreak := none, held := false, phi := 0,
    words := Vector.replicate 8 0, buf := Vector.replicate 8 0, prev := Vector.replicate 8 0 }

def Axis.reset : Axis :=
  { path := Vector.replicate 2 Path.reset, vecHist := 0, ampl := 0, degraded := false, fast := false, cfg := none }

def AfQuarter.reset : AfQuarter :=
  { meas := false, measAt := 0, fresh := false, swapAt := none, next := 0, passAt := 0, pass := none,
    corr := Vector.replicate 17 ⟨0, 0, 0, 0⟩ }

def Af.reset : Af :=
  { ax := Vector.replicate 64 Axis.reset, q := Vector.replicate 4 AfQuarter.reset, sel := 0, spare := false, calCnt := 0 }

/-! ## Safe outputs and bowing (chapter 8) -/

/-- A bowing line and the switch receiver it drives. -/
structure Receiver where
  /-- The line is in the stop state, since this tick. [R204] reset stop since 0 -/
  stopSince : Option Tick
  /-- Tick of the last toggle. [R204] reset none -/
  toggledAt : Option Tick
  /-- Consecutive valid toggles since the last opening, at most 4. [R205] reset 0 -/
  toggles : Nat
  /-- The receiver holds its switch closed. [R205] reset 0 -/
  closed : Bool
  /-- Tick of the last opening. [R215] reset 0 -/
  openAt : Tick
  /-- Tick of the fourth valid toggle since that opening. [R207] reset none -/
  fourthAt : Option Tick
  /-- Its own core has commanded the switch off, or the driver has been inhibited, since this tick. [R210] reset since 0 -/
  offSince : Option Tick
deriving DecidableEq, Repr

structure Output where
  /-- Command of each core at its last scan close. [R203] reset 0 -/
  cmd : Two Bool
  /-- The OUT row of the output defers its dark tests in the last scan. [R120] reset 0 -/
  defer : Bool
  /-- Receivers of the A side and the B side. [R202] reset open -/
  recv : Two Receiver
  /-- REARM: 0 none; 1 opened by a fault, the command has not been false since; 2 it has been false. [R226] reset 0 -/
  rearm : Nat
  /-- A fault held the output open at its last scan close. [R223] reset 0 -/
  wasOpen : Bool
  /-- Tick on which the output was energised, while it is. [R213] reset none -/
  energisedAt : Option Tick
  /-- Tick from which the next DARK_INT runs. [R213] reset 0 -/
  darkFrom : Tick
  /-- Side of the next dark test. [R213] reset A -/
  darkSide : Side
  /-- A dark test is due since this tick. [R213] reset none -/
  due : Option Tick
  /-- The due test is deferred since this tick (DARK_DUE). [R216] reset none -/
  deferred : Option Tick
  /-- The due test is forced. [R216] reset 0 -/
  forced : Bool
  /-- DARK_DONE, 8 bits. [R211] reset 0 -/
  darkDone : BitVec 8
  /-- Midpoint or AUXnn_H above 11 V, as last sensed. [R211] reset 0 -/
  hi : Bool
  /-- Terminal above 11 V, as last sensed (OS_TERM). [R211] reset 0 -/
  termHi : Bool
  /-- Terminal, or AUXnn_L, below 2 V, as last sensed. [R211] reset 0 -/
  lo : Bool
  /-- I_L in mA, as last sensed. [R211] reset 0 -/
  current : Nat
  /-- I_H in mA, as last sensed. [R202] reset 0 -/
  currentH : Nat
deriving DecidableEq, Repr

/-- An open dark window (R213). -/
structure DarkWin where
  /-- Output under test. [R213] reset no window -/
  out : Fin 144
  /-- Side opened. [R213] reset no window -/
  side : Side
  /-- First tick of the window and its length in ticks. [R213] reset no window -/
  openAt : Tick
  len : Nat
  /-- What the check on its last tick has found. [R213] reset no window -/
  verdict : Option Bool
deriving DecidableEq, Repr

structure OsQuarter where
  /-- Dark window now open, or last opened. [R214] reset none -/
  win : Option DarkWin
  /-- First tick after the last window. [R214] reset none -/
  winEnd : Option Tick
  /-- Static checks run. [R215] reset 0 -/
  static : Bool
deriving DecidableEq, Repr

structure Os where
  /-- The 144 outputs: 128 STO terminals, then AUX00 to AUX15. [R201] reset as each field says -/
  out : Vector Output 144
  /-- The four quarters. [R214] reset as each field says -/
  q : Vector OsQuarter 4
  /-- OS_STAT.INHIB_A, INHIB_B. [R227] reset 1 -/
  inhib : Two Bool
  /-- Scan whose sample edge fell after the last inhibiting condition ended. [R206] reset none -/
  freeFrom : Two (Option Nat)
  /-- OS_STAT.PERMIT. [R227] reset 0 -/
  permit : Bool
  /-- OS_DARK_CNT and OS_FORCED_CNT, 32 bits each. [R227] reset 0 -/
  darkCnt : Word
  forcedCnt : Word
deriving DecidableEq, Repr

def Receiver.reset : Receiver :=
  { stopSince := some 0, toggledAt := none, toggles := 0, closed := false, openAt := 0, fourthAt := none, offSince := some 0 }

def Output.reset : Output :=
  { cmd := ⟨false, false⟩, defer := false, recv := ⟨Receiver.reset, Receiver.reset⟩, rearm := 0, wasOpen := false, energisedAt := none,
    darkFrom := 0, darkSide := .a, due := none, deferred := none, forced := false, darkDone := 0, hi := false,
    termHi := false, lo := false, current := 0, currentH := 0 }

def OsQuarter.reset : OsQuarter := { win := none, winEnd := none, static := false }

def Os.reset : Os :=
  { out := Vector.replicate 144 Output.reset, q := Vector.replicate 4 OsQuarter.reset, inhib := ⟨true, true⟩,
    freeFrom := ⟨none, none⟩, permit := false, darkCnt := 0, forcedCnt := 0 }
/-! ## Host ports (chapter 12) -/

/-- The link of a host port (R298, R300). -/
inductive HLink where
  /-- Not trained: after a reset or a port reset. -/
  | down
  | l0
  | l1
  /-- It has left L0 and L1 other than by a hot reset, at this tick, and the 24 ms run. -/
  | out (since : Tick)
deriving DecidableEq, Repr

/-- HP_VMAPb (chapter 12). -/
structure VMap where
  /-- FVEC, 5 bits. [R298] reset b -/
  fvec : BitVec 5
  /-- FEN. [R298] reset 0 -/
  fen : Bool
  /-- EVEC, 5 bits. [R298] reset b -/
  evec : BitVec 5
  /-- EEN. [R298] reset 0 -/
  een : Bool
deriving DecidableEq, Repr

/-- One entry of the MSI-X table (R291). -/
structure MsixEntry where
  /-- Message address, 64 bits. [R291] reset PRESUMED 0, PCI Express (log 7) -/
  addr : BitVec 64
  /-- Message data, 32 bits. [R291] reset PRESUMED 0, PCI Express (log 7) -/
  data : Word
  /-- Vector mask. [R298] reset PRESUMED 1, PCI Express (log 7) -/
  mask : Bool
deriving DecidableEq, Repr

structure HpPort where
  /-- The port is held in reset: RECOVERY for HP1, or its clock is not released. [R301] reset 1 until its clock is steady -/
  inReset : Bool
  /-- State of the link. [R298] reset down -/
  link : HLink
  /-- HP_LINK.RATE, 2 bits, and HP_LINK.WIDTH, 2 bits, as negotiated. [R289] reset 0b00 -/
  rate : BitVec 2
  width : BitVec 2
  /-- HP_LINK.D3. [R289] reset 0 -/
  d3 : Bool
  /-- HP_REFUSED_CNT, 32 bits. [R8] reset 0 -/
  refused : Word
  /-- HP_CA_CNT, 32 bits. [R301] reset 0 -/
  ca : Word
  /-- HP_DISC_CNT, 32 bits. [R292] reset 0 -/
  disc : Word
  /-- HP_LINKDN_CNT, 32 bits. [R300] reset 0 -/
  linkDn : Word
  /-- What is written in the configuration header: command, cache line size, BAR addresses and interrupt line. [R290] reset PRESUMED 0, PCI Express (log 7) -/
  cfg : Vector Word 16
  /-- Completer aborts recorded in the port's advanced error reporting. [R301] reset 0 -/
  aer : Nat
  /-- HP_VMAP01 to HP_VMAP0E. [R298] reset as each field says -/
  vmap : Vector VMap 14
  /-- The MSI-X table, 32 entries. [R291] reset as each field says -/
  msix : Vector MsixEntry 32
  /-- MSI-X enable and function mask of the capability. [R298] reset PRESUMED 0 and 0, PCI Express (log 7) -/
  msixEn : Bool
  fnMask : Bool
  /-- MSI-X pending bit array, 32 bits. [R298] reset 0 -/
  pend : BitVec 32
  /-- MSI-X messages sent, newest first: the port's output. [R298] reset none -/
  sent : List (BitVec 64 × Word)
  /-- Holding registers of the port: high halves captured, by BAR0 offset of the high register. [R6] reset none, each reads 0 -/
  holds : List (Nat × Word)
  /-- Data of the last read completed on the port: the port's output. [R292] reset none -/
  lastRead : Option Word
  /-- Host image words REQ04 to REQ63 in the source-side buffer, by word index. [R319] reset 0 -/
  image : Mem 32
  /-- The image before the last write, and the tick of that write. [R18] reset 0 -/
  imagePrev : Mem 32
  imageAt : Option Tick
  /-- HLINK as the last tick left it: what a snapshot on the tick of a change takes. [R18] reset 0 -/
  hlinkWas : Bool
  /-- RESET_REQ items holding HRESET: ring, tick on which each ends, and whether it has ended. [R321] reset none -/
  hreset : List (Fin 8 × Tick × Bool)
deriving DecidableEq, Repr

structure Hp where
  /-- The two ports HP0 and HP1. [R289] reset as each field says -/
  port : Two HpPort
  /-- CFG_OWNER.OWNER. [R295] reset 0b00, none -/
  owner : Option Side
  /-- Register writes of HP0 of the present tick that were applied ahead of one of HP1. [R293] reset none -/
  hoisted : List Instr
deriving DecidableEq, Repr

def HpPort.reset : HpPort :=
  { inReset := true, link := .down, rate := 0, width := 0, d3 := false, refused := 0, ca := 0, disc := 0, linkDn := 0, cfg := Vector.replicate 16 0, aer := 0,
    vmap := Vector.ofFn (fun b => ⟨BitVec.ofNat 5 (b.val + 1), false, BitVec.ofNat 5 (b.val + 1), false⟩),
    msix := Vector.replicate 32 ⟨0, 0, true⟩, msixEn := false, fnMask := false, pend := 0, sent := [], holds := [],
    lastRead := none, image := [], imagePrev := [], imageAt := none, hlinkWas := false, hreset := [] }

def Hp.reset : Hp := { port := ⟨HpPort.reset, HpPort.reset⟩, owner := none, hoisted := [] }

/-! ## Work rings, landing window and journal (chapter 13) -/

/-- A submission descriptor as read (R306). -/
structure Desc where
  /-- OPC, 8 bits. [R306] reset no item -/
  opc : Nat
  /-- FLAGS, 8 bits. [R306] reset no item -/
  flags : Nat
  /-- Some reserved byte is not 0. [R306] reset no item -/
  resv : Bool
  /-- SEQ, 32 bits. [R306] reset no item -/
  seq : Word
  /-- TAG, 64 bits. [R306] reset no item -/
  tag : BitVec 64
  /-- WIN_OFF and LEN, 32 bits each. [R306] reset no item -/
  winOff : Nat
  len : Nat
  /-- HOST_ADDR, 64 bits. [R306] reset no item -/
  hostAddr : Nat
  /-- ARG0 to ARG3, 32 bits each. [R306] reset no item -/
  arg0 : Nat
  arg1 : Nat
  arg2 : Nat
  arg3 : Nat
deriving DecidableEq, Repr

/-- How far an item has come (R313, R314, R326). -/
inductive Stage where
  /-- Accepted; its effect has not begun. -/
  | accepted
  /-- Its effect has begun and not ended. -/
  | begun
  /-- Its effect has ended with this status code and RESULT; the DONE record is not yet written. -/
  | ended (code : Nat) (result : Word)
  /-- Its DONE or SKIP record is written and its completion waits to be posted: code, RESULT, REPLAY. -/
  | ready (code : Nat) (result : Word) (replay : Bool)
  /-- Its completion was posted to this CQ, as that CQ's posting of this number; not yet covered. -/
  | posted (cq : Fin 8) (number : Nat)
deriving DecidableEq, Repr

/-- An open item, or a descriptor that was not accepted (`skip`), in its ring. -/
structure Item where
  /-- The descriptor. [R306] reset no item -/
  d : Desc
  /-- Not accepted: only a SKIP record stands for it. [R312] reset no item -/
  skip : Bool
  /-- SQHD, the consumer index after this item, 12 bits. [R308] reset no item -/
  sqhd : Nat
  /-- JSEQ of its ACCEPT or SKIP record. [R326] reset no item -/
  jseq : Word
  /-- The stage it has reached. [R314] reset no item -/
  stage : Stage
  /-- Tick of its effect and the state code it leaves, for an item that ends on a later sample edge. [R320] reset no item -/
  mark : Nat
  /-- Rebuilt from the journal by a replay. [R329] reset no item -/
  old : Bool
deriving DecidableEq, Repr

/-- A submission ring (R339). -/
structure Sq where
  /-- SQ_BASE, 64 bits. [R339] reset 0 -/
  base : BitVec 64
  /-- SQ_CFG.SIZE, 4 bits. [R339] reset 0x4 -/
  size : BitVec 4
  /-- SQ_CFG.CQ, 3 bits. [R339] reset 0b000 -/
  cq : Fin 8
  /-- SQ_CFG has been written since the last system or power-on reset. [R329] reset 0 -/
  cfgWritten : Bool
  /-- SQ_CTL.EN. [R339] reset 0 -/
  en : Bool
  /-- SQ_CTL.ERR. [R339] reset 0 -/
  err : Bool
  /-- SQ_SEQ0, 32 bits. [R339] reset 0 -/
  seq0 : Word
  /-- SQ_NEXTSEQ, 32 bits. [R339] reset DESIGN CHOICE 0: the value is marked Journal and the journal is blank (log 8) -/
  nextSeq : Word
  /-- SQ_HEAD, 12 bits. [R339] reset DESIGN CHOICE 0, as SQ_NEXTSEQ (log 8) -/
  head : Nat
  /-- Tail announced by the doorbell, 12 bits. [R305] reset 0 -/
  tail : Nat
  /-- A descriptor is being fetched from this slot. [R311] reset none -/
  fetching : Option Nat
  /-- Fetches from other SQs since this one's last fetch. [R311] reset 0 -/
  starve : Nat
  /-- Open items and skipped descriptors in slot order; SQ_OPEN counts the items. [R339] reset DESIGN CHOICE none, as SQ_NEXTSEQ (log 8) -/
  items : List Item
deriving DecidableEq, Repr

/-- A completion ring (R339). -/
structure Cq where
  /-- CQ_BASE and CQ_TAG, 64 bits each. [R339] reset 0 -/
  base : BitVec 64
  tag : BitVec 64
  /-- CQ_CFG.SIZE, 4 bits. [R339] reset 0x4 -/
  size : BitVec 4
  /-- CQ_CFG.VEC, 5 bits. [R339] reset 0x00 -/
  vec : BitVec 5
  /-- CQ_CFG.IEN. [R339] reset 0 -/
  ien : Bool
  /-- CQ_CFG.COAL_N, 8 bits. [R339] reset 0x01 -/
  coalN : BitVec 8
  /-- CQ_CFG.COAL_T in µs, 8 bits. [R339] reset 0x00 -/
  coalT : BitVec 8
  /-- CQ_CTL.EN. [R339] reset 0 -/
  en : Bool
  /-- CQ_START.INDEX, 12 bits, and PHASE. [R339] reset 0x000 and 1 -/
  startIdx : Nat
  startPhase : Bool
  /-- CQ_TAIL.TAIL, 12 bits, and PHASE. [R339] reset DESIGN CHOICE 0 and 1: the values are marked Journal and the journal is blank (log 8) -/
  tail : Nat
  phase : Bool
  /-- Host consumer index, from the head doorbell, 12 bits. [R305] reset 0 -/
  head : Nat
  /-- Postings made to the ring, by which coverage is known. [R327] reset 0 -/
  postings : Nat
  /-- Postings covered by the last POSTED record. [R327] reset 0 -/
  covered : Nat
  /-- Tick of the first posting not yet covered. [R326] reset none -/
  uncoveredAt : Option Tick
  /-- Postings not yet signalled and the tick of the first of them. [R339] reset 0, none -/
  unsignalled : Nat
  unsignalledAt : Option Tick
deriving DecidableEq, Repr

/-- A flip of a page whose verdict is not yet visible, with the host writes held meanwhile (R323). -/
structure Flip where
  /-- Port of the page. [R323] reset no flip -/
  page : Fin 512
  /-- The entry as formed from the write, 8 bytes. [R323] reset no flip -/
  entry : List Byte
  /-- The judgement: taken, or restored with PAGE_CHECK. [R323] reset no flip -/
  taken : Bool
  /-- Writes that arrived after the entry write: offset in the window and bytes, oldest first. [R323] reset no flip -/
  writes : List (Nat × List Byte)
deriving DecidableEq, Repr

/-- One port's rings, landing window and host memory. -/
structure WqPort where
  /-- SQ0 to SQ7. [R304] reset as each field says -/
  sq : Vector Sq 8
  /-- CQ0 to CQ7. [R304] reset as each field says -/
  cq : Vector Cq 8
  /-- Landing SRAM, 2 MiB of bytes, the ownership table in page 0. [R322] reset nothing listed, every byte 0 -/
  landing : Mem 8
  /-- Entry holding register: entry and bytes 0 to 3. [R323] reset empty -/
  entryHold : Option (Nat × List Byte)
  /-- Flips judged whose verdict is not yet visible. [R323] reset none -/
  flips : List Flip
  /-- Page remainders by page, 32 bits each: the CRC-32C state of a page's bytes from a state of 0, without prefix or final XOR. [R370] reset nothing listed, 0: a page of zeros -/
  rem : Mem 32
  /-- Pages whose remainder is invalid until rebuilt. [R370] reset none -/
  remBad : List Nat
  /-- Host accesses to the landing window held while a block is under test, oldest first: the offset, and of a write its bytes and whether it finds the page remainder uncorrectable; a read has none. [R435] reset none -/
  held : List (Nat × Option (List Byte × Bool))
  /-- Pages to be returned to the host once no open item touches them. [R325] reset none -/
  returns : List Nat
  /-- Host memory as the module has written it. [R304] reset DESIGN CHOICE nothing listed, a byte the module has not written reads 0 (log 9) -/
  host : Mem 8
deriving DecidableEq, Repr

structure Wq where
  /-- Rings and landing of HP0 and HP1. [R304] reset as each field says -/
  port : Two WqPort
  /-- Number of the next journal record. [R326] reset DESIGN CHOICE 0, blank journal (log 8) -/
  jseq : Word
  /-- Tick of the last journal record. [R336] reset none -/
  journalAt : Option Tick
  /-- The MODE_REQ, by port and ring, whose state change takes effect as the present tick ends unless an event that R28 puts before it falls on the tick. [R28] reset none -/
  modeReq : Option (Side × Fin 8)
  /-- WQ_JSTAT.REPLAYED. [R338] reset 0 -/
  replayed : Bool
  /-- WQ_ACC_CNT, WQ_REPLAY_CNT, WQ_DROP_CNT, 32 bits each. [R338] reset 0 -/
  accCnt : Word
  replayCnt : Word
  dropCnt : Word
  /-- WQ_DROP_LAST: PAGE, 9 bits, and PORT. [R338] reset 0 -/
  dropPage : BitVec 9
  dropPort : Bool
deriving DecidableEq, Repr

def Sq.reset : Sq :=
  { base := 0, size := 4, cq := 0, cfgWritten := false, en := false, err := false, seq0 := 0, nextSeq := 0, head := 0, tail := 0,
    fetching := none, starve := 0, items := [] }

def Cq.reset : Cq :=
  { base := 0, tag := 0, size := 4, vec := 0, ien := false, coalN := 1, coalT := 0, en := false, startIdx := 0,
    startPhase := true, tail := 0, phase := true, head := 0, postings := 0, covered := 0, uncoveredAt := none,
    unsignalled := 0, unsignalledAt := none }

def WqPort.reset : WqPort :=
  { sq := Vector.replicate 8 Sq.reset, cq := Vector.replicate 8 Cq.reset, landing := [], entryHold := none, flips := [],
    rem := [], remBad := [], held := [], returns := [], host := [] }

def Wq.reset : Wq :=
  { port := ⟨WqPort.reset, WqPort.reset⟩, jseq := 0, journalAt := none, modeReq := none, replayed := false, accCnt := 0, replayCnt := 0, dropCnt := 0,
    dropPage := 0, dropPort := false }
/-! ## Beytin links (chapter 14) -/

/-- The states of a peer-link port, in the order of their codes 0x0 to 0x8 (R353). -/
inductive PlState where
  | down | align | tune | check | waitAccept | up | lost | rejected | off
deriving DecidableEq, Repr, Inhabited

/-- What a tune frame says of its sender (R344). -/
structure Tune where
  /-- ADDR, PTYPE, DEST, 8 bits each. [R344] reset no frame -/
  addr : Nat
  ptype : Nat
  dest : Nat
  /-- IDENT, 32 bits. [R344] reset no frame -/
  ident : Word
  /-- CYCLE, 16 bits. [R344] reset no frame -/
  cycle : Nat
  /-- WDOG and VERSION, 8 bits each. [R344] reset no frame -/
  wdog : Nat
  version : Nat
  /-- START and ECHO_START, 32 bits each. [R344] reset no frame -/
  start : Word
  echo : Word
deriving DecidableEq, Repr

/-- What a port's transmitter puts on the line (R342, R353). -/
inductive LineOut where
  /-- Nothing: RECOVERY, or TYPE none. -/
  | nothing
  /-- Idle, K28.5 and D16.2. -/
  | idle
  /-- K28.5, SOF, these 32 bytes, EOF. -/
  | frame (bytes : List Byte)
deriving DecidableEq, Repr

/-- A LINK_SEND under way on a port (R361). -/
structure Send where
  /-- Host port and ring of the item. [R361] reset none active -/
  port : Side
  ring : Fin 8
  /-- Bytes still to send. [R361] reset none active -/
  rest : List Byte
  /-- LEN of the item. [R361] reset none active -/
  len : Nat
deriving DecidableEq, Repr

structure PlPort where
  /-- PLn_STATE.STATE, 4 bits. [R366] reset 0x8, OFF -/
  st : PlState
  /-- PLn_STATE.REASON, 4 bits. [R366] reset 0x0 -/
  reason : BitVec 4
  /-- Receive signal present. [R353] reset 0 -/
  signal : Bool
  /-- The receiver is aligned. [R342] reset 0 -/
  aligned : Bool
  /-- Tick on which the present state was entered. [R350] reset 0 -/
  since : Tick
  /-- START of the module on the port, 32 bits. [R346] reset 0 -/
  start : Word
  /-- Last tune frame accepted from the partner; PADDR, PTYPE and PLn_PEERID are read from it once tuned. [R350] reset none -/
  peer : Option Tune
  /-- Tuning has completed: PADDR, PTYPE and IDENT are shown. [R355] reset 0 -/
  tuned : Bool
  /-- PLn_TXSEQ, 32 bits. [R366] reset 0 -/
  txSeq : Word
  /-- A safety frame has been sent since tuning. [R348] reset 0 -/
  txAny : Bool
  /-- PLn_RXSEQ, 32 bits. [R366] reset 0 -/
  rxSeq : Word
  /-- A safety frame has been accepted since tuning. [R348] reset 0 -/
  rxAny : Bool
  /-- End of the last accepted safety frame since the port left OFF, DOWN or LOST: AGE. [R355] reset none, 0xFFFF_FFFF -/
  rxAt : Option Tick
  /-- SAFE bytes of the last accepted safety frame, 16 bytes. [R356] reset none -/
  safe : List Byte
  /-- PLn_NSRX, 48 bits. [R366] reset 0 -/
  nsrx : BitVec 48
  /-- PLn_NSTX, 48 bits. [R366] reset 0 -/
  nstx : BitVec 48
  /-- PLn_RXCNT, PLn_BADCNT, PLn_MISSCNT, PLn_LOSTCNT, 32 bits each. [R366] reset 0 -/
  rxCnt : Word
  badCnt : Word
  missCnt : Word
  lostCnt : Word
  /-- Reason, the failed step of R348, of the last frame counted in PLn_BADCNT. [R348] reset 0 -/
  badReason : Nat
  /-- LOSSES, 32 bits. [R355] reset 0 -/
  losses : Word
  /-- Detach window: tick on which it opened and its length in ticks. [R357] reset none -/
  win : Option (Tick × Nat)
  /-- Substitution. [R358] reset 0 -/
  subst : Bool
  /-- LINK_SEND items on the port, the one being sent first. [R361] reset none -/
  sends : List Send
  /-- Tick of the last CYCLE tick. [R347] reset none -/
  cycleAt : Option Tick
  /-- Last frame sent, 32 bytes: the port's output. [R343] reset none -/
  sent : List Byte
  /-- Tick on which it began: it stands on the line for 2.8 µs. [R342] reset none -/
  sentAt : Option Tick
  /-- Tick of the last loss: the port was in WAIT_ACCEPT or UP until then. [R363] reset none -/
  lossAt : Option Tick
  /-- That loss left UP. [R363] reset 0 -/
  lossUp : Bool
  /-- Link image before the last change, and the tick of that change. [R18] reset 0 -/
  imagePrev : List Word
  imageAt : Option Tick
deriving DecidableEq, Repr

structure Pl where
  /-- PL0 to PL3. [R341] reset as each field says -/
  port : Vector PlPort 4
  /-- Payload words EA and EB have posted, with their scans, 64 words each. [R347] reset none -/
  posted : Two (List (Nat × List Word))
  /-- Payload words last agreed, 64 words. [R347] reset none, SAFE is all 0x00 -/
  agreed : List Word
  /-- The words of the last scan compared differed. [R347] reset 0 -/
  differed : Bool
  /-- PL_STAT.LOCK. [R366] reset 0 -/
  lock : Bool
  /-- PL_IEN.SC, 4 bits. [R366] reset 0x0 -/
  ien : BitVec 4
  /-- PL_EVT.SC, 4 bits. [R366] reset 0x0 -/
  evt : BitVec 4
deriving DecidableEq, Repr

def PlPort.reset : PlPort :=
  { st := .off, reason := 0, signal := false, aligned := false, since := 0, start := 0, peer := none, tuned := false, txSeq := 0,
    txAny := false, rxSeq := 0, rxAny := false, rxAt := none, safe := [], nsrx := 0, nstx := 0, rxCnt := 0, badCnt := 0,
    missCnt := 0, lostCnt := 0, badReason := 0, losses := 0, win := none, subst := false, sends := [], cycleAt := none,
    sent := [], sentAt := none, lossAt := none, lossUp := false, imagePrev := [], imageAt := none }

def Pl.reset : Pl :=
  { port := Vector.replicate 4 PlPort.reset, posted := ⟨[], []⟩, agreed := [], differed := false, lock := false, ien := 0,
    evt := 0 }

/-! ## Check-value units (chapter 15) -/

/-- What waits in the queue of a write-fed channel (R372). -/
inductive Feed where
  | bytes (bs : List Byte)
  | ctl (mode init : Bool)
  | val (v : Word)
deriving DecidableEq, Repr

structure Cvw where
  /-- CVWn_CTL.MODE. [R381] reset 0 -/
  mode : Bool
  /-- CVWn_VAL, 32 bits. [R381] reset 0xFFFF_FFFF -/
  val : Word
  /-- Feeds and writes waiting, oldest first, each with the tick on which it is processed. [R372] reset none -/
  queue : List (Feed × Tick)
  /-- CV_STAT.HELD: the port and ring of the CV_JOB or TABLE_VERIFY that holds the channel. [R376] reset not held -/
  held : Option (Side × Fin 8)
  /-- CV_STAT.HELD: the channel's known-answer test runs. [R378] reset 0 -/
  kat : Bool
  /-- MODE and VAL as saved when the hold began, which reads return. [R375] reset none -/
  saved : Option (Bool × Word)
  /-- The last known-answer test failed (KAT_WRITE). [R380] reset 0 -/
  katBad : Bool
deriving DecidableEq, Repr

structure Cv where
  /-- CVW0 to CVW3. [R374] reset as each field says -/
  ch : Vector Cvw 4
  /-- CV_STAT.KAT_S, 12 bits. [R381] reset 0xC00 -/
  katS : BitVec 12
  /-- CV_STAT.KAT_W, 4 bits. [R381] reset 0x0 -/
  katW : BitVec 4
  /-- CV_KAT_CNT and CV_REBUILD_CNT, 32 bits each. [R381] reset 0 -/
  katCnt : Word
  rebuildCnt : Word
  /-- CVS_LAST00 to CVS_LAST11, 32 bits each. [R381] reset 0 -/
  last : Vector Word 12
deriving DecidableEq, Repr

def Cvw.reset : Cvw := { mode := false, val := 0xFFFFFFFF, queue := [], held := none, kat := false, saved := none, katBad := false }

def Cv.reset : Cv :=
  { ch := Vector.replicate 4 Cvw.reset, katS := 0xC00, katW := 0, katCnt := 0, rebuildCnt := 0, last := Vector.replicate 12 0 }
/-! ## Memory and store (chapter 16) -/

/-- The states of a staging slot (R91). -/
inductive SlotState where
  | empty | loaded | verified
deriving DecidableEq, Repr, Inhabited

/-- One table slot of a store (R90). -/
structure TableSlot where
  /-- Contents, 256 KiB of bytes. [R384] reset DESIGN CHOICE nothing listed, every byte 0 (log 10) -/
  bytes : Mem 8
  /-- Commit generation, 32 bits. [R92] reset DESIGN CHOICE 0, no commit (log 10) -/
  gen : Word
  /-- State as a staging slot. [R91] reset DESIGN CHOICE EMPTY (log 10) -/
  st : SlotState
  /-- Staged end. [R90] reset DESIGN CHOICE 0 (log 10) -/
  stagedEnd : Nat
deriving DecidableEq, Repr

/-- The types of a journal record (R326). -/
inductive JType where
  | accept | begin | done | posted | ringStart | skip
deriving DecidableEq, Repr

/-- A journal record (R326). -/
structure JRec where
  /-- TYPE, 4 bits. [R326] reset no record -/
  type : JType
  /-- PORT. [R326] reset no record -/
  port : Side
  /-- RING: SQ number, or CQ number for POSTED, 3 bits. [R326] reset no record -/
  ring : Fin 8
  /-- OPC, 8 bits. [R326] reset no record -/
  opc : Nat
  /-- STATUS, 16 bits. [R326] reset no record -/
  status : Nat
  /-- SEQ, 32 bits. [R326] reset no record -/
  seq : Word
  /-- TAG or RESULT with SQHD, 64 bits. [R326] reset no record -/
  data : BitVec 64
  /-- JSEQ, 32 bits. [R326] reset no record -/
  jseq : Word
  /-- RCRC as it stands in the store, 32 bits. [R326] reset no record -/
  rcrc : Word
  /-- POSTED: the completions at or before its CQ tail and not covered by an earlier record, as SQ, SEQ and SQHD. [R327] reset no record -/
  covers : List (Fin 8 × Word × Nat)
deriving DecidableEq, Repr

/-- A log entry but for its ECRC, which is computed when it is written (R391). -/
structure LogEntry where
  /-- ESEQ, 32 bits. [R391] reset no entry -/
  eseq : Word
  /-- TIME, 64 bits. [R391] reset no entry -/
  time : Tick
  /-- KIND, BLOCK, CAUSE, CLASS, INIT, ACC, 8 bits each. [R391] reset no entry -/
  kind : Nat
  block : Nat
  cause : Nat
  cls : Nat
  init : Nat
  acc : Nat
  /-- ADDR and DATA32, 32 bits each; DATA16, 16 bits. [R391] reset no entry -/
  addr : Word
  data16 : Nat
  data32 : Word
deriving DecidableEq, Repr

/-- One half of the life-cycle and identity area (R388). -/
structure Identity where
  /-- Generation, 32 bits. [R388] reset DESIGN CHOICE 0 (log 4) -/
  gen : Word
  /-- The CRC-32C over the half holds. [R388] reset DESIGN CHOICE 1 (log 4) -/
  crcOk : Bool
  /-- Life-cycle state. [R440] reset BLANK: the module ships in it -/
  lc : LifeCycle
  /-- Module serial, 64 bits. [R290] reset DESIGN CHOICE 0 (log 4) -/
  serial : BitVec 64
  /-- Stored FR_QUIET values (CQ, FQ) of the fourteen blocks. [R252] reset none stored -/
  quiet : Vector (Option (BitVec 16 × BitVec 16)) 14
  /-- WQ_JPASS, 64 bits. [R388] reset DESIGN CHOICE 0 (log 8) -/
  jpass : BitVec 64
  /-- Wear counts of the checkpoint: sector and writes. [R389] reset none -/
  wear : List (Nat × Nat)
deriving DecidableEq, Repr

/-- Whether a store is in service (R396, R397). -/
inductive StoreState where
  | sound
  | failed
  /-- Failed while STORE_FAIL of the other store was uncleared: STORE_BOTH (R398). -/
  | both
  /-- Being resynchronised from the survivor. -/
  | resync
  /-- The copy is complete and the quiet period runs. -/
  | quiet
deriving DecidableEq, Repr, Inhabited

/-- One store die. -/
structure Store where
  /-- In service or failed: MS_STAT.SA_OK, SB_OK. [R396] reset sound -/
  st : StoreState
  /-- The store can be read at START. [R398] reset 1 -/
  readable : Bool
  /-- Table slots 0 and 1. [R384] reset as each field says -/
  slot : Two TableSlot
  /-- Slot 1 is the active slot, slot 0 the staging slot. [R90] reset DESIGN CHOICE 0 (log 10) -/
  active1 : Bool
  /-- Journal ring, oldest record first. [R384] reset DESIGN CHOICE no record (log 8) -/
  journal : List JRec
  /-- Records written to the journal since manufacture, from which the passes are counted. [R334] reset DESIGN CHOICE 0 (log 8) -/
  jwritten : Nat
  /-- Event log, oldest entry first. [R384] reset DESIGN CHOICE no entry (log 11) -/
  log : List LogEntry
  /-- Tally history: HSEQ and the 128 bytes, oldest first. [R384] reset DESIGN CHOICE no record (log 11) -/
  history : List (Nat × List Byte)
  /-- Calibration area: the corrections of the 68 converter pairs as last written. [R384] reset DESIGN CHOICE none (log 6) -/
  cal : List Corr
  /-- The two halves of the identity area. [R388] reset as each field says -/
  ident : Two Identity
  /-- User area, 512 KiB of bytes. [R384] reset DESIGN CHOICE nothing listed, every byte 0 (log 10) -/
  user : Mem 8
  /-- Wear counts kept in SRAM: sector and writes. [R389] reset DESIGN CHOICE none (log 11) -/
  wear : List (Nat × Nat)
deriving DecidableEq, Repr

structure Ms where
  /-- SA and SB. [R384] reset as each field says -/
  store : Two Store
  /-- MS_SRAM_CORR, MS_SCRUB_PASS, MS_STORE_CORR, MS_LOG_DROP, 32 bits each. [R401] reset 0 -/
  sramCorr : Word
  scrubPass : Word
  storeCorr : Word
  logDrop : Word
  /-- Next word of each die's scrubber, below 540,672. [R383] reset 0 -/
  scrubPos : Two Nat
  /-- A double error has been found in the die's landing SRAM in the present pass. [R303] reset 0 -/
  scrubBad : Two Bool
  /-- Tick on which the scrubber of each die last read. [R383] reset none -/
  scrubAt : Two (Option Tick)
  /-- Tick of the last wear checkpoint. [R399] reset none -/
  wearAt : Option Tick
  /-- MS_STAT.SCRUB24: the read scrub runs until this tick. [R387] reset not running -/
  readScrub : Option Tick
  /-- MS_LOG_HEAD, 32 bits. [R401] reset DESIGN CHOICE 0: the value is marked From store (log 11) -/
  logHead : Word
  /-- Log entries buffered, oldest first, at most 256. [R390] reset the entries of this reset, none -/
  logBuf : List LogEntry
  /-- Entries dropped and not yet reported. [R390] reset 0 -/
  logLost : Nat
  /-- FR_CNT_CORR of each block at the last hourly summary. [R392] reset 0 -/
  corrAt : Vector Word 14
  /-- PUB, 64 bits. [R394] reset 0 -/
  pub : BitVec 64
  /-- A wrap of PG02 awaits the next sample edge. [R394] reset 0 -/
  tallyDue : Bool
  /-- The page assembled and not yet published, bytes 0x008 to 0xFFB. [R394] reset none -/
  tallyNew : Option (List Byte)
  /-- The page last published, 4,096 bytes. [R394] reset DESIGN CHOICE none, read as zeros (log 12) -/
  tally : List Byte
  /-- MS_WEAR_SEL.SECTOR, 11 bits, and STORE. [R401] reset 0 -/
  wearSel : BitVec 11
  wearStore : Side
deriving DecidableEq, Repr

def TableSlot.reset : TableSlot := { bytes := [], gen := 0, st := .empty, stagedEnd := 0 }

def Identity.reset : Identity :=
  { gen := 0, crcOk := true, lc := .blank, serial := 0, quiet := Vector.replicate 14 none, jpass := 0, wear := [] }

def Store.reset : Store :=
  { st := .sound, readable := true, slot := ⟨TableSlot.reset, TableSlot.reset⟩, active1 := false, journal := [], jwritten := 0,
    log := [], history := [], cal := [], ident := ⟨Identity.reset, Identity.reset⟩, user := [], wear := [] }

def Ms.reset : Ms :=
  { store := ⟨Store.reset, Store.reset⟩, sramCorr := 0, scrubPass := 0, storeCorr := 0, logDrop := 0, scrubPos := ⟨0, 0⟩,
    scrubBad := ⟨false, false⟩, scrubAt := ⟨none, none⟩, wearAt := none, readScrub := none, logHead := 0, logBuf := [], logLost := 0, corrAt := Vector.replicate 14 0, pub := 0,
    tallyDue := false, tallyNew := none, tally := [], wearSel := 0, wearStore := .a }
/-! ## The whole module -/

structure State where
  /-- Commands waiting, first in, first out. [the model's own] reset empty -/
  pending : List Instr
  /-- Device state, MOD_STAT.STATE, 4 bits. [R25] reset 0x1, START -/
  dev : DevState
  /-- Tick of the last change of the device state. [R28] reset none -/
  devAt : Option Tick
  /-- Resource status lines that are bad: resource, cause code in its cause block, tick since which. [R260] reset none -/
  bad : List (Resource × Nat × Tick)
  /-- Fault records of the fourteen blocks, in ascending block ID. [R252] reset as each field says -/
  fr : Vector FaultRecord 14
  /-- Signature comparator. [R267] -/
  sc : Sc
  /-- Power, clocks and reset. [R428] -/
  pcr : Pcr
  /-- Time base and timers. [R288] -/
  tb : Tb
  /-- Self-test, life cycle and debug. [R458] -/
  st : St
  /-- The fabric. [R60] -/
  ev : Ev
  /-- Input bank. [R146] -/
  ib : Ib
  /-- Pulse sources. [R166] -/
  ps : Ps
  /-- Axis feedback. [R200] -/
  af : Af
  /-- Output stage. [R227] -/
  os : Os
  /-- Host ports. [R291] -/
  hp : Hp
  /-- Work rings, landing and journal. [R338] -/
  wq : Wq
  /-- Peer links. [R366] -/
  pl : Pl
  /-- Check-value units. [R381] -/
  cv : Cv
  /-- Memory and store. [R401] -/
  ms : Ms
  /-- Counter of the free values taken so far: the model's own field. [the model's own] reset DESIGN CHOICE 0 (log 2) -/
  free : Nat
deriving DecidableEq, Repr

/-- The module right after a power-on reset has been released and the PLLs begin to lock: START (R421), every field at
the value its own reset gives, the queue empty. -/
def State.reset : State :=
  { pending := [], dev := .start, devAt := none, bad := [], fr := Vector.replicate 14 FaultRecord.reset, sc := Sc.reset,
    pcr := Pcr.reset, tb := Tb.reset, st := St.reset, ev := Ev.reset, ib := Ib.reset, ps := Ps.reset, af := Af.reset,
    os := Os.reset, hp := Hp.reset, wq := Wq.reset, pl := Pl.reset, cv := Cv.reset, ms := Ms.reset, free := 0 }

end Sys2Proof.Machine
end

