-- ==== Sys2Proof/Machine/Memory.lean ====
section
/-!
DEFINITION. Sys2Proof/Machine/Memory.lean: the addressed memories of the module (operand memory, landing SRAM, the stores'
byte areas, host memory as the module writes it), as lists in canonical form. `d` is what an unlisted address reads as.
-/
namespace Sys2Proof.Machine

/-- The unit at address `a`. -/
def mget {w : Nat} (d : BitVec w) : Mem w → Nat → BitVec w
  | [], _ => d
  | (k, v) :: m, a => if k = a then v else mget d m a

/-- The unit at address `a` replaced; writing what an unlisted address reads as removes the entry. -/
def mset {w : Nat} (d : BitVec w) : Mem w → Nat → BitVec w → Mem w
  | [], a, x => if x = d then [] else [(a, x)]
  | (k, v) :: m, a, x =>
    if a < k then (if x = d then (k, v) :: m else (a, x) :: (k, v) :: m)
    else if a = k then (if x = d then m else (a, x) :: m)
    else (k, v) :: mset d m a x

/-- Consecutive units from address `a` replaced. -/
def msetList {w : Nat} (d : BitVec w) (m : Mem w) (a : Nat) : List (BitVec w) → Mem w
  | [] => m
  | x :: xs => msetList d (mset d m a x) (a + 1) xs

/-- `n` consecutive units from address `a`, of a memory that lists nothing below `a`. -/
def msliceFrom {w : Nat} (d : BitVec w) : Mem w → Nat → Nat → List (BitVec w)
  | _, _, 0 => []
  | m, a, n + 1 =>
    match m with
    | (k, v) :: t => if k = a then v :: msliceFrom d t (a + 1) n else d :: msliceFrom d m (a + 1) n
    | [] => d :: msliceFrom d [] (a + 1) n

/-- `n` consecutive units from address `a`. -/
def mslice {w : Nat} (d : BitVec w) (m : Mem w) (a n : Nat) : List (BitVec w) :=
  msliceFrom d (m.dropWhile (fun e => decide (e.1 < a))) a n

/-- The canonical form: addresses strictly rising from `lo`, and no entry equal to what an unlisted address reads as. -/
def Memory.wfFrom {w : Nat} (d : BitVec w) : Nat → Mem w → Bool
  | _, [] => true
  | lo, (k, v) :: m => decide (lo ≤ k) && decide (v ≠ d) && Memory.wfFrom d (k + 1) m

/-- The canonical form of a memory. -/
def Memory.wf {w : Nat} (d : BitVec w) (m : Mem w) : Bool := Memory.wfFrom d 0 m

/-- A 32-bit little-endian word from four bytes of a byte memory (R5). -/
def mword (m : Mem 8) (a : Nat) : Word := BitVec.ofNat 32 (leNat (mslice 0 m a 4))

end Sys2Proof.Machine
end

