-- ==== Sys2Proof/Machine/Ops.lean ====
section
/-!
DEFINITION. Sys2Proof/Machine/Ops.lean: the operations every family shares: reading and changing one block of the state,
interrupts (R265, R298), the event log (R390), recording a fault and its class action (R250 to R266), the changes of the
device state (R25 to R28), the reset levels (R415 to R420) and the backup domain (R407, R408).
-/
namespace Sys2Proof.Machine

/-! ## Reading and changing one part of the state -/

/-- TB_NOW. -/
def State.now (s : State) : Tick := s.tb.now

/-- The fault record of a block. -/
def State.frOf (s : State) (b : Block) : FaultRecord := s.fr[b.idx]

/-- The fault record of a block changed, both copies on the same tick (R253). -/
def State.modRec (s : State) (b : Block) (f : FaultRecord → FaultRecord) : State :=
  { s with fr := upd s.fr b.idx (fun r => { f r with wroteAt := some s.tb.now }) }

def State.modSc (s : State) (f : Sc → Sc) : State := { s with sc := f s.sc }
def State.modPcr (s : State) (f : Pcr → Pcr) : State := { s with pcr := f s.pcr }
def State.modTb (s : State) (f : Tb → Tb) : State := { s with tb := f s.tb }
def State.modSt (s : State) (f : St → St) : State := { s with st := f s.st }
def State.modDbg (s : State) (f : Dbg → Dbg) : State := { s with st := { s.st with dbg := f s.st.dbg } }
def State.modEv (s : State) (f : Ev → Ev) : State := { s with ev := f s.ev }
def State.modIb (s : State) (f : Ib → Ib) : State := { s with ib := f s.ib }
def State.modPs (s : State) (f : Ps → Ps) : State := { s with ps := f s.ps }
def State.modAf (s : State) (f : Af → Af) : State := { s with af := f s.af }
def State.modOs (s : State) (f : Os → Os) : State := { s with os := f s.os }
def State.modHp (s : State) (f : Hp → Hp) : State := { s with hp := f s.hp }
def State.modWq (s : State) (f : Wq → Wq) : State := { s with wq := f s.wq }
def State.modPl (s : State) (f : Pl → Pl) : State := { s with pl := f s.pl }
def State.modCv (s : State) (f : Cv → Cv) : State := { s with cv := f s.cv }
def State.modMs (s : State) (f : Ms → Ms) : State := { s with ms := f s.ms }

/-- A core of the fabric. -/
def State.core (s : State) (c : Side) : CoreSt := s.ev.core.get c

/-- A core of the fabric changed. -/
def State.modCore (s : State) (c : Side) (f : CoreSt → CoreSt) : State :=
  { s with ev := { s.ev with core := s.ev.core.upd c f } }

/-- A host port. -/
def State.hport (s : State) (p : Side) : HpPort := s.hp.port.get p

/-- A host port changed. -/
def State.modHport (s : State) (p : Side) (f : HpPort → HpPort) : State :=
  { s with hp := { s.hp with port := s.hp.port.upd p f } }

/-- A port's rings and landing window. -/
def State.wport (s : State) (p : Side) : WqPort := s.wq.port.get p

/-- A port's rings and landing window changed. -/
def State.modWport (s : State) (p : Side) (f : WqPort → WqPort) : State :=
  { s with wq := { s.wq with port := s.wq.port.upd p f } }

/-- A submission ring. -/
def State.sq (s : State) (p : Side) (n : Fin 8) : Sq := (s.wport p).sq[n]

/-- A submission ring changed. -/
def State.modSq (s : State) (p : Side) (n : Fin 8) (f : Sq → Sq) : State :=
  s.modWport p (fun w => { w with sq := upd w.sq n f })

/-- A completion ring. -/
def State.cq (s : State) (p : Side) (n : Fin 8) : Cq := (s.wport p).cq[n]

/-- A completion ring changed. -/
def State.modCq (s : State) (p : Side) (n : Fin 8) (f : Cq → Cq) : State :=
  s.modWport p (fun w => { w with cq := upd w.cq n f })

/-- A peer-link port changed. -/
def State.modPlPort (s : State) (n : Fin 4) (f : PlPort → PlPort) : State :=
  { s with pl := { s.pl with port := upd s.pl.port n f } }

/-- A store die. -/
def State.store (s : State) (i : Side) : Store := s.ms.store.get i

/-- A store die changed. -/
def State.modStore (s : State) (i : Side) (f : Store → Store) : State :=
  { s with ms := { s.ms with store := s.ms.store.upd i f } }

/-- An input terminal changed. -/
def State.modInput (s : State) (i : Fin 128) (f : Input → Input) : State :=
  { s with ib := { s.ib with inp := upd s.ib.inp i f } }

/-- A pulse source changed. -/
def State.modSource (s : State) (i : Fin 32) (f : Source → Source) : State :=
  { s with ps := { s.ps with src := upd s.ps.src i f } }

/-- An output changed. -/
def State.modOut (s : State) (k : Fin 144) (f : Output → Output) : State :=
  { s with os := { s.os with out := upd s.os.out k f } }

/-- A free value (Config.freeWord) taken, and the counter advanced. -/
def State.takeFree (s : State) : Word64 × State := (Config.freeWord s.free, { s with free := s.free + 1 })

/-! ## Quarters and items (R13, Quarters) -/

/-- Quarter of an input terminal: IN(32q) to IN(32q + 31). -/
def quarterOfInput (i : Nat) : Fin 4 := ⟨i / 32 % 4, Nat.mod_lt _ (by decide)⟩

/-- Quarter of a pulse source: PS(8q) to PS(8q + 7). -/
def quarterOfSource (i : Nat) : Fin 4 := ⟨i / 8 % 4, Nat.mod_lt _ (by decide)⟩

/-- Quarter of an axis: AX(16q) to AX(16q + 15). -/
def quarterOfAxis (a : Nat) : Fin 4 := ⟨a / 16 % 4, Nat.mod_lt _ (by decide)⟩

/-- Quarter of an output: 32 STO terminals and four auxiliary outputs for each quarter. -/
def quarterOfOutput (k : Nat) : Fin 4 :=
  if k < 128 then ⟨k / 32 % 4, Nat.mod_lt _ (by decide)⟩ else ⟨(k - 128) / 4 % 4, Nat.mod_lt _ (by decide)⟩

/-! ## Split mode and the table that runs -/

/-- Split mode is in force: life cycle SPLIT (R450). -/
def State.split (s : State) : Bool := s.st.lc == .split

/-- The core whose table owns a quarter's terminals: EA, but EB for Q2 and Q3 in split mode (R453). -/
def State.ownerOf (s : State) (q : Fin 4) : Side := if s.split && decide (2 ≤ q.val) then .b else .a

/-- The table whose terminal configuration holds for a quarter. -/
def State.tableOf (s : State) (q : Fin 4) : Option Table := (s.core (s.ownerOf q)).table

/-- The configuration of the terminals is in force: from the first configured scan on (R26). -/
def State.configured (s : State) : Bool :=
  match s.pcr.phase with
  | .done => s.dev != .reset && s.dev != .recovery && s.ev.sampleAt.isSome
  | .firstScan => s.ev.sampleAt.isSome
  | _ => false

/-- The input entry in force; a disabled one where no table configures the terminals. -/
def State.inputCfg (s : State) (i : Fin 128) : InputCfg :=
  match s.tableOf (quarterOfInput i.val) with
  | some t => if s.configured then t.inputs[i] else default
  | none => default

/-- The strum entry in force. -/
def State.strumCfg (s : State) (i : Fin 32) : StrumCfg :=
  match s.tableOf (quarterOfSource i.val) with
  | some t => if s.configured then t.strums[i] else default
  | none => default

/-- The output entry in force. -/
def State.outputCfg (s : State) (k : Fin 144) : OutputCfg :=
  match s.tableOf (quarterOfOutput k.val) with
  | some t => if s.configured then t.outputs[k] else default
  | none => default

/-- The axis entry in force. -/
def State.axisCfg (s : State) (a : Fin 64) : AxisCfg :=
  match s.tableOf (quarterOfAxis a.val) with
  | some t => if s.configured then t.axes[a] else default
  | none => default

/-- The link partner entry in force: EB's table in split mode, where only it names link ports (R451). -/
def State.partner (s : State) (n : Fin 4) : PartnerCfg :=
  match (s.core (if s.split then .b else .a)).table with
  | some t => t.partners[n]
  | none => default

/-! ## Interrupts (R265, R298) -/

/-- A message of a vector sent, or its pending bit set while the vector, the function or the link holds it back. -/
def sendVector (p : Side) (v : Fin 32) (s : State) : State :=
  s.modHport p (fun h =>
    let e := h.msix[v]
    let up := h.link == .l0 || h.link == .l1
    if h.msixEn && !h.fnMask && !e.mask && up && !h.inReset then { h with sent := (e.addr, e.data) :: h.sent }
    else { h with pend := h.pend ||| BitVec.ofNat 32 (2 ^ v.val) })

/-- A block's fault or recovery interrupt, on each port whose FEN for the block is 1. -/
def raiseFaultIrq (b : Block) (s : State) : State :=
  [Side.a, Side.b].foldl (fun s p =>
    let m := (s.hport p).vmap[b.idx]
    if m.fen then sendVector p m.fvec.toFin s else s) s

/-- A block's event interrupt, on each port whose EEN for the block is 1. -/
def raiseEventIrq (b : Block) (s : State) : State :=
  [Side.a, Side.b].foldl (fun s p =>
    let m := (s.hport p).vmap[b.idx]
    if m.een then sendVector p m.evec.toFin s else s) s

/-! ## Recording without a class action -/

/-- What a block reports when it records a fault. -/
structure FaultRep where
  block : Block
  cause : Nat
  cls : FaultClass
  scope : Nat
  item : Nat
  addr : Nat
  init : Nat
  acc : Nat
  port : Side := .a
  quarter : Option (Fin 4) := none
  sticky : Bool := false
  escalated : Bool := false

/-- The slot entry a report makes (R255). -/
def slotOf (f : FaultRep) (cls : FaultClass) (cq : Option (Resource × Block × Nat)) (now : Tick) : Slot :=
  { cls := cls, concurrent := false, conseq := cq.isSome, escalated := f.escalated, cause := BitVec.ofNat 8 f.cause,
    scope := BitVec.ofNat 4 f.scope, addr := BitVec.ofNat 32 f.addr, init := BitVec.ofNat 8 f.init,
    acc := BitVec.ofNat 4 f.acc, port := decide (f.init = 4 ∧ f.port = .b), time := now,
    causeBlk := BitVec.ofNat 8 (match cq with | some (_, b, _) => b.id | none => f.block.id),
    causeCode := BitVec.ofNat 8 (match cq with | some (_, _, c) => c | none => f.cause), item := f.item }

/-- Among faults of one tick: more severe, or as severe with a lower cause code (R256). -/
def Slot.before (a b : Slot) : Bool :=
  decide (b.cls.code < a.cls.code) || (a.cls == b.cls && decide (a.cause.toNat < b.cause.toNat))

/-- FR_CNT_CONC owed by `n` faults of one tick, one of which entered the slot or not (R256). -/
def concOwed (n : Nat) (entered : Bool) : Nat := if n < 2 then 0 else n - (if entered then 1 else 0)

/-- A report recorded in a fault record: slot, class counter and concurrency (R252, R255, R256). -/
def recordIn (e : Slot) (now : Tick) (r : FaultRecord) : FaultRecord :=
  let same := decide (r.lastTick = now) && decide (0 < r.onTick)
  let n := if same then r.onTick + 1 else 1
  let takes := match r.slot with
    | none => true
    | some o => decide (o.cls.code < e.cls.code) ||
        (same && r.entered && decide (o.time = now) && e.before o)
  let entered := (same && r.entered) || takes
  let owed := concOwed n entered - (if same then concOwed r.onTick r.entered else 0)
  let best := match r.best with
    | some o => if same && !(e.before o) then o else e
    | none => e
  let slot' := if takes then some e else r.slot
  let slot'' := slot'.map (fun o => if decide (o.time = now) && entered && decide (2 ≤ n) then { o with concurrent := true } else o)
  { r with
    slot := slot'', lastTick := now, onTick := n, entered := entered, best := some best,
    cntCorr := if e.cls = .corrected then satInc r.cntCorr else r.cntCorr,
    cntCont := if e.cls = .contained then satInc r.cntCont else r.cntCont,
    cntFatal := if e.cls = .fatal then satInc r.cntFatal else r.cntFatal,
    cntConc := satAdd r.cntConc owed,
    cntConseq := if e.conseq then satInc r.cntConseq else r.cntConseq }

/-- A corrected fault: counted, recorded in the slot, its interrupt raised if FR_IEN.CORR is 1; nothing else (R250, R265). -/
def recordPlain (f : FaultRep) (s : State) : State :=
  let s := s.modRec f.block (recordIn (slotOf { f with cls := .corrected } .corrected none s.now) s.now)
  if (s.frOf f.block).ien.getLsbD 0 then raiseFaultIrq f.block s else s

/-- ACCESS of a block at a register offset, from a port (R9). The cause code is each block's own. -/
def accessCode : Block → Nat
  | .ib => 0x05 | .ps => 0x06 | .af => 0x08 | .os => 0x0A | .ev => 0x0C | .sc => 0x06 | .tb => 0x04
  | .hp => 0x05 | .wq => 0x07 | .pl => 0x06 | .cv => 0x05 | .ms => 0x07 | .pcr => 0x0A | .st => 0x0A


/-- A write without effect counted against the port that issued it (R8). -/
def countRefused (p : Side) (s : State) : State := s.modHport p (fun h => { h with refused := satInc h.refused })

/-- A register access from a host port reaches the module only while the port is not held in reset (R301). -/
def fromPort (p : Side) (f : State → State) (s : State) : State := if (s.hport p).inReset then s else f s

/-- A high half captured in a port's holding register, named by the BAR0 offset of the high register (R6). -/
def latchHigh (p : Side) (off : Nat) (v : Word) (s : State) : State :=
  s.modHport p (fun h => { h with holds := (off, v) :: h.holds.filter (fun e => e.1 != off) })

/-- A read completes on a port with this data. -/
def readData (p : Side) (v : Word) (s : State) : State := s.modHport p (fun h => { h with lastRead := some v })

/-- A step that comes every `n` ticks of TB time is due: on each multiple of `n` (DESIGN CHOICE, log 159: the spec names no first
tick). -/
def State.everyTicks (s : State) (n : Nat) : Bool := decide (s.now ≠ 0) && decide (s.now.toNat % n = 0)

/-! ## The event log (R390 to R392) -/

/-- An entry's place: behind every entry but those of the same tick and kind 0x01 with a higher block ID (R392). -/
def logInsert (e : LogEntry) : List LogEntry → List LogEntry
  | [] => [e]
  | x :: xs =>
    if e.kind = 1 ∧ x.kind = 1 ∧ x.time = e.time ∧ e.block < x.block then e :: x :: xs else x :: logInsert e xs

/-- An entry put into the buffer of 256, or dropped, counted and recorded (R390). -/
def logPush (e : LogEntry) (s : State) : State :=
  if s.ms.logBuf.length < 256 then s.modMs (fun m => { m with logBuf := logInsert e m.logBuf })
  else
    let s := s.modMs (fun m => { m with logDrop := satInc m.logDrop, logLost := m.logLost + 1 })
    recordPlain { block := .ms, cause := 6, cls := .corrected, scope := 7, item := 0, addr := s.ms.logLost, init := 4,
                  acc := 0xA } s

/-- A log entry that is no fault record: KIND, BLOCK, DATA16 and DATA32 (R392). -/
def logEvent (kind block data16 data32 : Nat) (s : State) : State :=
  logPush { eseq := 0, time := if s.pcr.clk.tb then s.now else 0, kind := kind, block := block, cause := 0, cls := 0, init := 0,
            acc := 0, addr := 0, data16 := data16, data32 := BitVec.ofNat 32 data32 } s

/-- The entry of a recorded fault, KIND 0x01, or of an escalation, KIND 0x03 (R391, R392). -/
def logFault (kind : Nat) (e : Slot) (b : Block) (s : State) : State :=
  logPush { eseq := 0, time := if s.pcr.clk.tb then s.now else 0, kind := kind, block := b.id, cause := e.cause.toNat,
            cls := e.cls.code + 4 * e.scope.toNat + 64 * bit e.conseq + 128 * bit (match (s.frOf b).slot with
              | some o => o.concurrent && decide (o.time = e.time) | none => false),
            init := e.init.toNat, acc := e.acc.toNat, addr := e.addr, data16 := 0,
            data32 := if kind = 1 then BitVec.ofNat 32 (e.causeBlk.toNat + 256 * e.causeCode.toNat) else 0 } s

/-! ## The backup domain (R407, R408, R424) -/

/-- Both halves updated alike (R408); an update makes a half valid. -/
def modBackup (f : BackupHalf → BackupHalf) (s : State) : State :=
  s.modPcr (fun p => { p with bk := p.bk.map (fun h => { f h with valid := true }) })

/-- PCR_LASTST at a change of the device state. -/
def backupState (new : DevState) (s : State) : State :=
  modBackup (fun h => { h with prev := h.last, last := BitVec.ofNat 4 new.code }) s

/-- A failed start counted once: PCR_RCOUNT increases by 1, saturating at 7 (R424). -/
def countFailedStart (s : State) : State :=
  if s.pcr.failCounted then s
  else
    let s := modBackup (fun h => { h with rcount := satInc h.rcount }) s
    s.modPcr (fun p => { p with failCounted := true })

/-! ## Items and their ends (R314, R328) -/

/-- The first item of a ring whose completion is not yet ready: the one that may begin or is running. -/
def curItem : List Item → Option Item
  | [] => none
  | i :: is =>
    match i.stage with
    | .accepted | .begun | .ended _ _ => some i
    | _ => curItem is

/-- That item changed. -/
def modCurItem (f : Item → Item) : List Item → List Item
  | [] => []
  | i :: is =>
    match i.stage with
    | .accepted | .begun | .ended _ _ => f i :: is
    | _ => i :: modCurItem f is

/-- The current item of a ring changed. -/
def State.modItem (s : State) (p : Side) (n : Fin 8) (f : Item → Item) : State :=
  s.modSq p n (fun q => { q with items := modCurItem f q.items })

/-- The current item of a ring ended with a status code and a RESULT. -/
def endItem (p : Side) (n : Fin 8) (code : Nat) (result : Word) (s : State) : State :=
  s.modItem p n (fun i => { i with stage := .ended code result })

/-- Every ring of both ports. -/
def allRings : List (Side × Fin 8) := (fins 8).map (fun n => (Side.a, n)) ++ (fins 8).map (fun n => (Side.b, n))

/-- Begun items whose opcode satisfies `f` ended with a code and RESULT 1 (R328). -/
def abortBegun (f : Nat → Bool) (code : Nat) (s : State) : State :=
  allRings.foldl (fun s r =>
    match curItem (s.sq r.1 r.2).items with
    | some i => if i.stage == .begun && f i.d.opc then endItem r.1 r.2 code 1 s else s
    | none => s) s

/-- LINK_SEND items of a peer-link port ended with ABORT_FAULT or ABORT_RESET, RESULT 1 (R328, R361). -/
def abortSends (n : Fin 4) (code : Nat) (s : State) : State :=
  let s := s.pl.port[n].sends.foldl (fun s x => endItem x.port x.ring code 1 s) s
  s.modPlPort n (fun p => { p with sends := [] })

/-! ## Drivers, switches and scopes (R206, R212) -/

/-- A fault now opens the outputs of this scope item (R250, R251): does it cover output `k`? -/
def scopeCovers (scope item : Nat) (k : Nat) : Bool :=
  (scope == 5 && item == k) || (scope == 1 && item == (quarterOfOutput k).val) ||
  (scope == 6 && decide (128 ≤ k) && item == (quarterOfOutput k).val)

/-- An uncleared contained fault holds output `k` open through its dark gates (R212, R250). -/
def State.openByFault (s : State) (k : Nat) : Bool :=
  s.fr.toList.any (fun r => r.insts.any (fun i => i.cls == .contained && scopeCovers i.scope i.item k))

/-- Quarter `q` is under a contained fault of quarter scope (R13, R39). -/
def State.quarterFaulted (s : State) (q : Fin 4) : Bool :=
  s.fr.toList.any (fun r => r.insts.any (fun i => i.cls == .contained && i.scope == 1 && i.item == q.val))

/-- An uncleared instance of a cause of a block in a scope item. -/
def State.uncleared (s : State) (b : Block) (cause item : Nat) : Bool :=
  (s.frOf b).insts.any (fun i => i.cause == cause && i.item == item)

/-- An uncleared instance of a cause of a block in an item of one scope: where one cause has several scopes. -/
def State.unclearedIn (s : State) (b : Block) (cause scope item : Nat) : Bool :=
  (s.frOf b).insts.any (fun i => i.cause == cause && i.scope == scope && i.item == item)

/-- An uncleared instance of a cause of a block in any item. -/
def State.unclearedAny (s : State) (b : Block) (cause : Nat) : Bool := (s.frOf b).insts.any (fun i => i.cause == cause)

/-- An uncleared fatal fault of any block. -/
def State.fatalUncleared (s : State) : Bool := s.fr.toList.any (fun r => r.insts.any (fun i => i.cls == .fatal))

/-- An uncleared contained or fatal fault of any block. -/
def State.anyUncleared (s : State) : Bool := s.fr.toList.any (fun r => !r.insts.isEmpty)

/-- FAULT_N is held low (R26, R266). -/
def State.faultLow (s : State) : Bool :=
  s.anyUncleared || (s.dev == .reset || s.dev == .start || s.dev == .hold || s.dev == .recovery)

/-- The RUN pin is high: RUN, and both cores bow (R26). -/
def State.runPin (s : State) : Bool := s.dev == .run && !s.os.inhib.a && !s.os.inhib.b

/-- The tick a condition began on, while it lasts. -/
def since (now : Tick) (o : Option Tick) : Option Tick := match o with | some t => some t | none => some now

/-- A line goes to the stop state, or stays there. -/
def stopLine (now : Tick) (r : Receiver) : Receiver := { r with stopSince := since now r.stopSince }

/-- Every line of a die goes to the stop state and its drivers are inhibited (R206, R415). -/
def inhibitSide (d : Side) (s : State) : State :=
  s.modOs (fun o => { o with
    out := o.out.map (fun x => { x with recv := x.recv.upd d (fun r =>
      { stopLine s.now r with offSince := since s.now r.offSince }) }),
    inhib := o.inhib.set d true, freeFrom := o.freeFrom.set d none })

/-- The drivers of both dies inhibited. -/
def inhibitBoth (s : State) : State := inhibitSide .b (inhibitSide .a s)

/-- The outputs a contained fault opens are not bowed again before their command has been false and then true (R226). -/
def markRearm (scope item : Nat) (s : State) : State :=
  s.modOs (fun o => { o with out := vmapIdx o.out (fun k x =>
    if scopeCovers scope item k.val then { x with rearm := 1, energisedAt := none, due := none, deferred := none, forced := false }
    else x) })

/-! ## The cores stop and the cells idle (R58, R59, R273) -/

/-- Both sequencers go to STOPPED: the rank in progress is abandoned and operand memory is no longer defined (R59). -/
def stopCores (s : State) : State :=
  let k := s.free
  let s := { s with free := s.free + 1 }
  s.modEv (fun e => { e with
    core := e.core.map (fun c => { c with seq := .stopped, issued := false, timed := none, undef := some k }),
    waitSince := none, launchHeld := false, tokens := 0, closeTokens := 0 })

/-- Every cell set to IDLE, with nothing posted (R273). -/
def idleCells (s : State) : State :=
  s.modTb (fun t => { t with master := Vector.replicate 256 .idle, shadow := Vector.replicate 256 .idle,
                             posts := ⟨none, none⟩, postedA := [], flagDiff := [] })

/-! ## The path of an input (R125, R126, R129, R152, R514) -/

/-- The input is processed on the present edge: from the one after the sample edge on which it starts (R514). -/
def Input.runs (now : Tick) (x : Input) : Bool := x.on && x.onAt != some now

/-- The OSSD bridge holds the value on the present edge (R129): 40,000 edges from the first low one. -/
def Input.bridging (x : Input) (now : Tick) : Bool :=
  match x.bridge with
  | some t => !x.live && decide (elapsed now t < 39999)
  | none => false

/-- What step 2 of R125 presents on the present edge. -/
def Input.step2 (x : Input) (now : Tick) : Bool :=
  match x.held with
  | some v => v
  | none => x.live || x.bridging now

/-- The filtered value changes on edge `t`. -/
def Input.flip (t : Tick) (x : Input) : Input :=
  { x with filt := !x.filt, filtAt := t, changes := x.changes + 1, diffSince := none }

/-- The filter on the present edge with a filter time of `f` ticks (R126); a run that ended on an earlier edge is applied
first. -/
def Input.settle (f : Nat) (now : Tick) (x : Input) : Input :=
  if !x.runs now then x
  else
    let x := match x.diffSince with
      | some t => if max 1 f ≤ elapsed now t then x.flip (t + BitVec.ofNat 64 (f - 1)) else x
      | none => x
    let c := x.step2 now
    let x := if c = x.c2 then x else { x with c2 := c, c2At := now }
    if c = x.filt then { x with diffSince := none }
    else
      let t := match x.diffSince with | some t => t | none => now
      if f ≤ elapsed now t + 1 then x.flip now else { x with diffSince := some t }

/-- Filter time of an input in ticks. -/
def State.filterTicks (s : State) (i : Fin 128) : Nat := 100 * (s.inputCfg i).filter

/-- The filter of one input brought to the present edge. -/
def settleInput (i : Fin 128) (s : State) : State := s.modInput i (Input.settle (s.filterTicks i) s.now)

/-- Tick `t` still lies ahead. -/
def ahead (now t : Tick) : Bool := decide (2 ^ 63 ≤ elapsed now t)

/-- Ticks of t_band counted before the present one: none within a suspension (R135). -/
def Input.bandRun (now : Tick) (x : Input) : Nat :=
  x.bandAcc + match x.bandFrom with
    | none => 0
    | some f => match x.bandHold with
      | some e => if ahead now e then 0 else min (elapsed now f) (elapsed now e)
      | none => elapsed now f

/-- The band monitor of an input is suspended up to tick `e` (R135). -/
def Input.suspendBand (now e : Tick) (x : Input) : Input :=
  { x with bandAcc := x.bandRun now, bandFrom := x.bandFrom.map (fun _ => now), bandHold := some e }

/-- The window in progress of its source is over for an input: what step 2 held ends, and the recovery of the wire is left to
the 50 µs of R135. -/
def Input.unmask (now : Tick) (x : Input) : Input :=
  if x.held.isSome then { x.suspendBand now (now + 5000) with held := none, dipSeen := false } else x

/-- Every pulse source off (R26), and with the windows their masking ends (R152). -/
def sourcesOff (s : State) : State :=
  let s := s.modPs (fun p => { p with
    src := p.src.map (fun x => { x with on := false, win := none, inOff := false, offSince := none }),
    frameAt := none, switchedAt := none })
  let now := s.now
  s.modIb (fun b => { b with inp := vmapIdx b.inp (fun i x =>
    if x.held.isSome then (x.unmask now).settle (s.filterTicks i) now else x) })

/-- What a START begins afresh at the terminals: no input runs and none has been tested (R146, R514), no dip has been
completed (R167), no dark test has passed (R211). -/
def startTerminals (s : State) : State :=
  let s := s.modIb (fun b => { b with inp := b.inp.map (fun x => { x with on := false, onAt := none, testedAt := none }) })
  let s := s.modOs (fun o => { o with out := o.out.map (fun x => { x with darkDone := 0 }) })
  s.modPs (fun p => { p with src := Vector.replicate 32 Source.reset })

/-- The input under a running threshold test: its check comparator is disconnected (R137, R432). -/
def State.thrUnder (s : State) : Option (Fin 128) :=
  match s.st.slice with
  | some (p, _, _) => if h : p % 8 = 0 ∧ p / 8 < 128 then some ⟨p / 8, h.2⟩ else none
  | none => none

/-- A running threshold test ends early: its check comparator is connected again. -/
def thrRejoin (s : State) : State :=
  match s.thrUnder with
  | some i => s.modInput i (fun x => { x with joinAt := s.now, disDone := false })
  | none => s

/-- PG00 to PG02 stopped at 0 (R274). -/
def stopModulePgs (s : State) : State :=
  s.modTb (fun t => { t with pg := vmapIdx t.pg (fun g x => if g.val < 3 then { x with en := false, stopped := 0 } else x) })

/-! ## What falls due on the present tick (R271, R275, R279)

The time base acts on these without a command of the host; a read of the tick already shows them. -/

/-- A cell on the present tick: a count that has reached 0 is EXPIRED. -/
def Cell.seen (now : Tick) : Cell → Cell
  | .running d n => if d.toNat ≤ now.toNat then .expired else .running d n
  | c => c

/-- The tick of a running generator's next wrap. -/
def Pg.wrapAt (x : Pg) : Tick := x.base + 1 + x.reload.zeroExtend 64

/-- A wrap has fallen due: the count has reached RELOAD and returns to 0. -/
def Pg.due (now : Tick) (x : Pg) : Bool := x.en && decide (x.reload.toNat + 1 ≤ elapsed now x.base)

/-- A generator after a wrap on tick `w`: count 0; a value written before that tick becomes the reload (R275). -/
def Pg.wrapped (w : Tick) (x : Pg) : Pg :=
  match x.pendAt with
  | some t => if t = w then { x with base := w } else { x with base := w, reload := x.pend, pendAt := none }
  | none => { x with base := w }

/-- A generator on the present tick. -/
def Pg.seen (now : Tick) (x : Pg) : Pg := if x.due now then x.wrapped x.wrapAt else x

/-- The value of a compare channel in effect before the present tick. -/
def Cmp.old (now : Tick) (x : Cmp) : Tick := if x.loadedAt = now then x.before else x.value

/-- The match of a value that was found already reached on an earlier tick (R279). -/
def Cmp.lateDue (now : Tick) (x : Cmp) : Bool := match x.lateAt with | some t => t != now | none => false

/-- The channel matches on the present tick: armed, with a value, as loaded before this tick, that is reached. -/
def Cmp.due (now : Tick) (x : Cmp) : Bool := x.en && (x.lateDue now || decide ((x.old now).toNat ≤ now.toNat))

/-- A channel after its match. -/
def Cmp.matched (now : Tick) (x : Cmp) : Cmp := { x with en := false, late := x.late || x.lateDue now, lateAt := none }

/-- A channel on the present tick. -/
def Cmp.seen (now : Tick) (x : Cmp) : Cmp := if x.due now then x.matched now else x

/-- An internal event that a capture channel can select comes on tick `t`, the present or the next (R280). -/
def tbEvent (src : Nat) (t : Tick) (s : State) : State :=
  s.modTb (fun b => { b with events := (src, t) :: b.events.filter (fun e => e.2 == b.now || e.2 == b.now + 1) })

/-! ## The link image (R355, R356, R358) -/

/-- The detach window is open on the present tick: its closing tick is outside (R357). -/
def PlPort.winOpen (now : Tick) (p : PlPort) : Bool :=
  match p.win with | some (t, n) => decide (elapsed now t < n) | none => false

/-- The remaining detach window in ms. -/
def PlPort.winRem (now : Tick) (p : PlPort) : Nat :=
  match p.win with | some (t, n) => (n - elapsed now t) / 100000 | none => 0

/-- AGE in µs, saturating. -/
def PlPort.age (now : Tick) (p : PlPort) : Word :=
  match p.rxAt with
  | some t => BitVec.ofNat 32 (min (elapsed now t / 100) 0xFFFFFFFF)
  | none => 0xFFFFFFFF

/-- The bytes behind the safety words: SAFE in UP, SUBST under substitution, else zeros. -/
def PlPort.shownSafe (c : PartnerCfg) (p : PlPort) : List Byte :=
  if p.st = .up then p.safe else if p.subst then c.subst else []

/-- The code of a link state (R353). -/
def PlState.code : PlState → Nat
  | .down => 0 | .align => 1 | .tune => 2 | .check => 3 | .waitAccept => 4 | .up => 5 | .lost => 6 | .rejected => 7 | .off => 8

/-- LSTAT. -/
def PlPort.lstat (now : Tick) (p : PlPort) : Word :=
  let peer := if p.tuned then p.peer else none
  regOf [(bit (p.st == .up), 0, 1), (bit (p.st == .up || p.st == .waitAccept), 1, 1), (bit p.subst, 2, 1),
         (bit (p.winOpen now), 3, 1), (p.st.code, 4, 4), ((peer.map (·.ptype)).getD 0, 8, 8), ((peer.map (·.addr)).getD 0, 16, 8)]

/-- The 128 words of a port's link image on the present tick. -/
def State.linkImage (s : State) (n : Fin 4) : List Word :=
  let p : PlPort := s.pl.port[n]
  let safe := p.shownSafe (s.partner n)
  let byte := fun k => (safe[k]?).getD 0
  let ident := if p.tuned then (match p.peer with | some t => t.ident | none => 0) else 0
  [p.lstat s.now, p.age s.now, bw (p.st == .up), bw (p.st == .up || p.st == .waitAccept)] ++
  (List.range 4).map (fun k => BitVec.ofNat 32 (leNat ((List.range 4).map (fun j => byte (4 * k + j))))) ++
  [ident, p.rxSeq, BitVec.ofNat 32 (p.winRem s.now), p.losses] ++ List.replicate 36 0 ++
  (List.range 16).map (fun k => bw (byte k == 0xFF)) ++
  (List.range 64).map (fun j => bw ((byte (j / 8)).getLsbD (j % 8)))

/-- The image before a change of the present tick is kept for a snapshot taken on it (R18, R363). -/
def keepImage (n : Fin 4) (s : State) : State :=
  let im := s.linkImage n
  s.modPlPort n (fun p => if p.imageAt = some s.now then p else { p with imagePrev := im, imageAt := some s.now })

/-! ## States of a peer link (R353) -/

/-- A port changes its state: what a snapshot of this tick takes is kept first (R18), a port that leaves OFF, DOWN or LOST has
accepted no frame since (AGE, R355), and the change is an event (R366). -/
def plState (n : Fin 4) (st : PlState) (s : State) : State :=
  if s.pl.port[n].st = st then s
  else
    let s := (keepImage n s).modPlPort n (fun p =>
      { p with st := st, since := s.now, rxAt := if p.st = .off ∨ p.st = .down ∨ p.st = .lost then none else p.rxAt })
    let s := s.modPl (fun p => { p with evt := p.evt ||| BitVec.ofNat 4 (2 ^ n.val) })
    if s.pl.ien.getLsbD n.val then raiseEventIrq .pl s else s

/-- A port goes to OFF: nothing of its tuning is left (R353). -/
def plOff (n : Fin 4) (s : State) : State :=
  let s := plState n .off (keepImage n s)
  s.modPlPort n (fun p => { p with rxAny := false, txAny := false, tuned := false, peer := none, cycleAt := none })

/-- Every port goes to OFF, on entry to RESET, HOLD, HALT and RECOVERY (R353). -/
def plAllOff (s : State) : State := (fins 4).foldl (fun s n => plOff n s) s

/-! ## Cruise stops (R429, R434) -/

/-- No known-answer test holds a channel (R378). -/
def katRelease (s : State) : State := s.modCv (fun x => { x with ch := x.ch.map (fun c => { c with kat := false }) })

/-- Cruise stops; a running slice is interrupted and its block restored, and the next IDLE begins a round again. -/
def cruiseStop (s : State) : State :=
  (katRelease (thrRejoin s)).modSt (fun c => { c with
    cruise := false, batch := none, slice := none, pos := 0, failCur := 0, heldSince := none, heldFor := 0, lateRec := false,
    stallRec := false,
    intrCnt := if c.slice.isSome then satInc c.intrCnt else c.intrCnt })

/-- A running slice is interrupted: the position stays, and it starts again first in the next batch (R434). -/
def cruiseInterrupt (s : State) : State :=
  (katRelease (thrRejoin s)).modSt (fun c =>
    if c.slice.isSome then { c with slice := none, intrCnt := satInc c.intrCnt, batch := none } else c)

/-! ## An acknowledgement wait ends (R442, R443) -/

/-- The wait ends without an acknowledgement: STATE_REFUSED, RESULT 0xFF, nothing written (R443). -/
def ackRefuse (s : State) : State :=
  match s.st.ack with
  | some w =>
    let s := endItem w.port (if h : w.ring < 8 then ⟨w.ring, h⟩ else 0) 0x0201 0xFF s
    s.modSt (fun c => { c with ack := none })
  | none => s

/-- The wait is dropped without an end of its item. -/
def ackDrop (s : State) : State := s.modSt (fun c => { c with ack := none })

/-- Ownership returns to none; a TABLE_COMMIT that awaits its acknowledgement ends with STATE_REFUSED (R296, R297). -/
def disown (s : State) : State :=
  let commit := match s.st.ack with
    | some w => (match curItem (s.sq w.port (if h : w.ring < 8 then ⟨w.ring, h⟩ else 0)).items with
        | some i => i.d.opc == 0x12
        | none => false)
    | none => false
  (if commit then ackRefuse s else s).modHp (fun h => { h with owner := none })

/-- An event that R28 puts first drops the MODE_REQ of the tick: STATE_REFUSED, and no word is written. -/
def modeDrop (s : State) : State :=
  match s.wq.modeReq with
  | some (p, n) => (endItem p n 0x0201 0 s).modWq (fun w => { w with modeReq := none })
  | none => s

/-- A wait at input a whose conditions cease to hold ends with a refusal (R442). -/
def ackCheck (s : State) : State :=
  match s.st.ack with
  | some w =>
    if !w.tap && !((s.dev == .idle || s.dev == .run) && (match (s.core .a).table with | some t => t.real | none => false))
    then ackRefuse s else s
  | none => s

/-! ## The device state (R25 to R28) -/

/-- The device state changes: logged (KIND 0x04), kept in PCR_LASTST, and with what every entry to the new state brings
(R26, R206, R222, R273, R353, R429). -/
def setDev (new : DevState) (s : State) : State :=
  let old := s.dev
  let s := modeDrop s
  let s := logEvent 4 Block.st.id old.code new.code s
  let s := backupState new { s with dev := new, devAt := some s.now }
  let s := cruiseInterrupt s
  let s := if new = .run then s else inhibitBoth s
  let s := match new with
    | .reset => stopModulePgs (plAllOff (sourcesOff (cruiseStop s)))
    | .start =>
      stopModulePgs (idleCells (startTerminals (cruiseStop (s.modPl (fun p => { p with
        port := p.port.map (fun x => { x with subst := false, losses := 0 }), posted := ⟨[], []⟩, agreed := [],
        differed := false })))))
    | .idle =>
      let s := s.modSc (fun c => { c with kok := false })
      if old = .start then s.modSt (fun c => { c with cruise := true, pos := 0, failCur := 0, roundAt := s.now }) else s
    | .run => if old = .start then s.modSt (fun c => { c with cruise := true, pos := 0, failCur := 0, roundAt := s.now }) else s
    | .hold => plAllOff (sourcesOff (idleCells (stopCores (cruiseStop s))))
    | .recovery =>
      let s := plAllOff (sourcesOff (idleCells (stopCores (cruiseStop s))))
      let s := s.modHport .b (fun h => { h with inReset := true, link := .down })
      s.modHp (fun h => { h with owner := some .a })
    | .halt => plAllOff s
  ackCheck s

/-- Opcodes whose begun items a fatal fault ends: MODE_REQ, RESET_REQ, TABLE_COMMIT, ST_REQ, LINK_SEND, LINK_DETACH (R328). -/
def holdAborts (opc : Nat) : Bool :=
  opc == 0x20 || opc == 0x21 || opc == 0x12 || opc == 0x60 || opc == 0x40 || opc == 0x41

/-- HOLD is entered: items R328 lists end, and a start under way has failed (R27, R424). -/
def enterHold (s : State) : State :=
  let s := modeDrop s
  let s := if s.dev = .start then countFailedStart s else s
  let s := abortBegun holdAborts 0x0302 s
  let s := ackDrop s
  let s := s.modSt (fun c => { c with full := none })
  let s := (fins 4).foldl (fun s n => s.modPlPort n (fun p => { p with sends := [] })) s
  let s := s.modHp (fun h => { h with port := h.port.map (fun p => { p with hreset := [] }) })
  let s := s.modPcr (fun p => { p with phase := .done })
  let s := s.modDbg (fun d => { d with haltA := false, haltB := false, pendHalt := false, step := false, skip := none, holdNext := false })
  setDev .hold s

/-- A fatal fault's class action: HOLD from START, IDLE and RUN; from HALT the cores resume and the state passes to IDLE,
and on the next tick to HOLD (R449); in HOLD the period of R259 restarts; RESET and RECOVERY keep the state (R425). -/
def fatalAction (s : State) : State :=
  let s := inhibitBoth (s.modPcr (fun p => { p with fatalAt := s.now }))
  match s.dev with
  | .start | .idle | .run => enterHold s
  | .halt =>
    let s := s.modEv (fun e => { e with core := e.core.map (fun c => if c.seq = .halted then { c with seq := .scan } else c) })
    setDev .idle (s.modDbg (fun d => { d with haltA := false, haltB := false, pendHalt := false, step := false, holdNext := true }))
  | .hold | .reset | .recovery => s

/-! ## Recording a fault (R250 to R266) -/

/-- Does a block depend on a resource, for an instance of this quarter (R260)? -/
def dependsOn (b : Block) (q : Option (Fin 4)) : Resource → Bool
  | .vf r | .ql r => (b == .ib || b == .ps || b == .af || b == .os) && q == some r
  | .ref r => (b == .ps || b == .af) && q == some r
  | .tb => b != .tb
  | .snap => b == .sc || b == .os

/-- The cause block of a resource (R260). -/
def causeBlockOf : Resource → Block
  | .vf _ => .pcr | .ql _ => .ev | .ref _ => .ib | .tb => .tb | .snap => .ev

/-- The resource whose fault a cause of a block is, if it is one (R260, R270). -/
def resourceOf (b : Block) (cause item : Nat) : Option Resource :=
  let q : Fin 4 := ⟨item % 4, Nat.mod_lt _ (by decide)⟩
  if b = .pcr ∧ (cause = 5 ∨ cause = 6) then some (.vf q)
  else if b = .ev ∧ cause = 0x0A then some (.ql q)
  else if b = .ib ∧ cause = 1 then some (.ref q)
  else if b = .tb ∧ cause = 1 then some .tb
  else if b = .ev ∧ cause = 3 then some .snap
  else none

/-- Turned bad first; on one tick, the lower block ID (R264). -/
def firstBad (now : Tick) (x y : Resource × Nat × Tick) : Bool :=
  decide (elapsed now y.2.2 < elapsed now x.2.2) ||
  (decide (x.2.2 = y.2.2) && decide ((causeBlockOf x.1).id ≤ (causeBlockOf y.1).id))

/-- The bad resource that makes a fault of a block consequential, and the tick on which it turned bad (R262, R264). -/
def badFor (b : Block) (q : Option (Fin 4)) (s : State) : Option ((Resource × Block × Nat) × Tick) :=
  let ds := s.bad.filter (fun x => dependsOn b q x.1)
  let best := ds.foldl (fun (o : Option (Resource × Nat × Tick)) x =>
    match o with
    | none => some x
    | some y => if firstBad s.now x y && !(firstBad s.now y x) then some x else some y) none
  best.map (fun x => ((x.1, causeBlockOf x.1, x.2.1), x.2.2))

/-- The slot of a consequential fault names, of the cause blocks of the record's consequential faults, the one whose status
turned bad first; on one tick, the lower block ID (R264). -/
def slotCause (bad : List (Resource × Nat × Tick)) (now : Tick) (r : FaultRecord) : FaultRecord :=
  let named := bad.filter (fun x => r.insts.any (fun i => match i.conseq with | some (y, _, _) => y == x.1 | none => false))
  match named with
  | [] => r
  | x :: xs =>
    let best := xs.foldl (fun (o : Resource × Nat × Tick) y => if firstBad now y o && !(firstBad now o y) then y else o) x
    { r with slot := r.slot.map (fun e =>
        if e.conseq then { e with causeBlk := BitVec.ofNat 8 (causeBlockOf best.1).id, causeCode := BitVec.ofNat 8 best.2.1 }
        else e) }

/-- An instance already uncleared whose cause is detected again (R257): PRESENT counts it, QUIET returns to PRESENT. -/
def redetect (f : FaultRep) (r : FaultRecord) : FaultRecord :=
  let hit := fun (i : FaultInst) => i.cause == f.cause && i.scope == f.scope && i.item == f.item && i.cls == .contained
  let present := r.insts.any (fun i => hit i && i.life == .present)
  { r with
    cntCont := if present then satInc r.cntCont else r.cntCont,
    insts := r.insts.map (fun i => if hit i then
      { i with life := match i.life with | .quiet _ => .present | l => l } else i) }

/-- Contained class of a link port, a host port or a store: what else the recording ends (R328). -/
def scopeAborts (scope item : Nat) (s : State) : State :=
  if scope = 8 then abortSends ⟨item % 4, Nat.mod_lt _ (by decide)⟩ 0x0302 s else s

/-- A contained or fatal fault recorded, with its class action and its log entry, and its interrupt withheld (R250, R255,
R257, R261); contained and consequential where a resource it depends on was bad before this tick (R262). -/
def recordCore (f : FaultRep) (s : State) : State :=
  let bad := badFor f.block f.quarter s
  let cq := bad.map (·.1)
  let already := match bad with | some (_, t) => t != s.now | none => false
  let cls : FaultClass := if already then .contained else f.cls
  let again := cls == .contained && (s.frOf f.block).insts.any (fun i =>
    i.cause == f.cause && i.scope == f.scope && i.item == f.item && i.cls == .contained)
  if again then s.modRec f.block (redetect f)
  else
    let e := slotOf f cls cq s.now
    let inst : FaultInst :=
      { cause := f.cause, scope := f.scope, item := f.item, cls := cls, quarter := f.quarter,
        life := if cls = .fatal || f.sticky then .untilReset else .present, conseq := cq, withheld := !cq.isSome,
        at_ := s.now, addr := e.addr, init := e.init, acc := e.acc }
    let s := s.modRec f.block (fun r =>
      let r := recordIn e s.now r
      slotCause s.bad s.now { r with insts := r.insts ++ [inst] })
    let s := logFault 1 e f.block s
    match cls with
    | .fatal => fatalAction s
    | _ => scopeAborts f.scope f.item (markRearm f.scope f.item s)

/-- An instance recorded within t_storm, 2,000 ticks, becomes consequential when a resource it depends on turns bad: its
class and action stay, CONSEQ, the cause fields and the withheld interrupt change (R261, R262). Of two resources that turn bad
on one tick it names the one of the lower block ID (R264). -/
def stormMark (bad : List (Resource × Nat × Tick)) (b : Block) (r : Resource) (code : Nat) (now : Tick) (fr : FaultRecord) :
    FaultRecord :=
  let c := causeBlockOf r
  let near := fun (i : FaultInst) => decide (elapsed now i.at_ ≤ 2000) && dependsOn b i.quarter r
  let hit := fun (i : FaultInst) => i.withheld && i.conseq.isNone && near i
  let moves := fun (i : FaultInst) => near i && (match i.conseq with
    | some (y, d, _) => decide (c.id < d.id) && bad.any (fun x => x.1 == y && x.2.2 == now)
    | none => false)
  let n := (fr.insts.filter hit).length
  slotCause bad now { fr with
    insts := fr.insts.map (fun i => if hit i || moves i then { i with conseq := some (r, c, code), withheld := false } else i),
    cntConseq := satAdd fr.cntConseq n,
    slot := fr.slot.map (fun e =>
      if fr.insts.any (fun i => hit i && BitVec.ofNat 8 i.cause == e.cause && i.item == e.item && i.at_ == e.time)
      then { e with conseq := true } else e) }

/-- A fault of the corrected class: in the contained class and consequential where a resource its block depends on was bad
before this tick (R262), its cause being over with the recording. -/
def recordCorrected (f : FaultRep) (s : State) : State :=
  match badFor f.block f.quarter s with
  | some (_, t) =>
    if t = s.now then recordPlain f s
    else
      let s := recordCore f s
      s.modRec f.block (fun r => { r with insts := r.insts.map (fun i =>
        if i.cause = f.cause ∧ i.scope = f.scope ∧ i.item = f.item ∧ i.life = .present then { i with life := .quiet s.now } else i) })
  | none => recordPlain f s

/-- An access error recorded in the owning block's fault record (R9). -/
def recordAccess (b : Block) (p : Side) (off : Nat) (s : State) : State :=
  recordCorrected { block := b, cause := accessCode b, cls := .corrected, scope := 7, item := off, addr := off, init := 4,
                    acc := 7, port := p } s

/-- Cause code of RESOURCE in a block that records it (R143, R165, R198, R225). -/
def resourceCode : Block → Nat
  | .ib => 0x06 | .ps => 0x07 | .af => 0x09 | _ => 0x0B

/-- The RESOURCE record of quarter `q` in a dependent block (R145). -/
def recordResource (b : Block) (q : Fin 4) (s : State) : State :=
  recordCore { block := b, cause := resourceCode b, cls := .contained, scope := 1, item := q.val, addr := q.val,
               init := (if b = .os then 0x20 else 0x10) + q.val, acc := 6, quarter := some q } s

/-- A resource status line turns bad (R260, R261): dependents within t_storm become consequential, and the blocks of a
quarter record RESOURCE (R145). -/
def turnBad (r : Resource) (code : Nat) (s : State) : State :=
  if s.bad.any (fun x => x.1 = r) then s
  else
    let s := { s with bad := s.bad ++ [(r, code, s.now)] }
    let s := { s with fr := vmapIdx s.fr (fun i x =>
      match Block.ofId (i.val + 1) with | some b => stormMark s.bad b r code s.now x | none => x) }
    match r with
    | .vf q | .ql q => [Block.ib, .ps, .af, .os].foldl (fun s b => recordResource b q s) s
    | .ref q => [Block.ps, .af].foldl (fun s b => recordResource b q s) s
    | _ => s

/-- Taking a fault into the record of the block that found it: the one operation every detector calls. -/
def recordFault (f : FaultRep) (s : State) : State :=
  if f.cls = .corrected then recordCorrected f s
  else
    let s := recordCore f s
    match resourceOf f.block f.cause f.item with
    | some r => turnBad r f.cause s
    | none => s

/-- The cause of a contained instance becomes absent: its quiet timer starts at CQ (R257). A cause present until reset
never does. -/
def causeAbsent (b : Block) (cause item : Nat) (s : State) : State :=
  s.modRec b (fun r => { r with insts := r.insts.map (fun i =>
    if i.cause = cause ∧ i.item = item ∧ i.life = .present ∧ i.cls = .contained then { i with life := .quiet s.now } else i) })

/-- The same for a cause that has several scopes. -/
def causeAbsentIn (b : Block) (cause scope item : Nat) (s : State) : State :=
  s.modRec b (fun r => { r with insts := r.insts.map (fun i =>
    if i.cause = cause ∧ i.scope = scope ∧ i.item = item ∧ i.life = .present ∧ i.cls = .contained then { i with life := .quiet s.now }
    else i) })

/-- A further sign of the fault restarts a quiet period that runs (R156). -/
def causeAgain (b : Block) (cause item : Nat) (s : State) : State :=
  s.modRec b (fun r => { r with insts := r.insts.map (fun i =>
    if i.cause = cause ∧ i.item = item ∧ i.cls = .contained then
      { i with life := match i.life with | .quiet _ => .quiet s.now | l => l } else i) })

/-- The cause of an uncleared instance is present. -/
def State.causePresent (s : State) (b : Block) (cause item : Nat) : Bool :=
  (s.frOf b).insts.any (fun i => i.cause == cause && i.item == item && i.life == .present)

/-- A fault whose cause is over as soon as it is recorded: recorded, and its quiet timer starts on the same tick. -/
def recordPulse (f : FaultRep) (s : State) : State := causeAbsent f.block f.cause f.item (recordFault f s)


/-- A fatal fault of PCR, recorded by side `d` (R427). -/
def pcrFatal (d : Side) (cause addr acc : Nat) (s : State) : State :=
  recordFault { block := .pcr, cause := cause, cls := .fatal, scope := 0, item := addr, addr := addr, init := 0x50 + d.num,
                acc := acc } s

/-- A corrected fault of PCR, recorded by side `d` (R427). -/
def pcrCorrected (d : Side) (cause addr : Nat) (s : State) : State :=
  recordFault { block := .pcr, cause := cause, cls := .corrected, scope := 7, item := 0, addr := addr, init := 0x50 + d.num,
                acc := 0xD } s

/-- A clock is lost during a start (R421): the start has failed, and its blocks return to reset. -/
def clockLostInStart (drop : Clocks → Clocks) (s : State) : State :=
  let s := pcrFatal .a 0x0B 1 6 s
  s.modPcr (fun p => { p with clk := drop p.clk })

end Sys2Proof.Machine
end

