-- ==== Sys2Proof/Machine/Inputs.lean ====
section
/-!
DEFINITION. Sys2Proof/Machine/Inputs.lean: the safety inputs (chapter 5) and the pulse sources (chapter 6): comparators,
masking and OSSD bridge, filter, threshold tests, dip windows and dip checks.
-/
namespace Sys2Proof.Machine

/-- Ticks of a low from `u` to before `now`, within a span that began at `t`. -/
def overlap (now t u : Tick) : Nat := min (elapsed now t) (elapsed now u)

/-! ## Faults of IB and PS (R143, R144, R165) -/

/-- A contained fault of IB with the scope of one input. -/
def ibFault (cause : Nat) (i : Fin 128) (s : State) : State :=
  let q := quarterOfInput i.val
  recordFault { block := .ib, cause := cause, cls := .contained, scope := 2, item := i.val, addr := i.val, init := 0x10 + q.val,
                acc := if cause = 2 then 6 else 4, quarter := some q } s

/-- A contained fault of PS with the scope of one input; DIP_UNEXPECTED also names the foreign source. Its initiator is the
quarter of the input, also where the source lies in another (log 131). -/
def dipFault (cause : Nat) (i : Fin 128) (foreign : Nat) (s : State) : State :=
  let q := quarterOfInput i.val
  recordFault { block := .ps, cause := cause, cls := .contained, scope := 2, item := i.val, addr := i.val + 65536 * foreign,
                init := 0x10 + q.val, acc := 6, quarter := some q } s

/-- A contained fault of PS with the scope of one source (R160), or of the quarter for SCHED. -/
def sourceFault (cause : Nat) (k : Fin 32) (s : State) : State :=
  let q := quarterOfSource k.val
  recordFault { block := .ps, cause := cause, cls := .contained, scope := if cause = 1 then 1 else 3,
                item := if cause = 1 then q.val else k.val, addr := k.val, init := 0x10 + q.val, acc := 6, quarter := some q } s

/-- DIP_MISSING of an input as its status word shows it: its own fault, or SRC_STUCK or SRC_OVERLOAD of its source (R160). -/
def State.dipMissing (s : State) (i : Fin 128) : Bool :=
  let c := s.inputCfg i
  s.uncleared .ps 5 i.val || (c.pulsed && (s.uncleared .ps 2 c.source || s.uncleared .ps 3 c.source))

/-! ## Threshold tests (R137) -/

/-- A threshold test of an input ends with these steps as expected: a handover begins, or THR_FAIL is recorded. -/
def thrTest (i : Fin 128) (steps : BitVec 5) (s : State) : State :=
  let ok := steps == 0b11111
  let s := s.modIb (fun b => { b with thrCnt := satInc b.thrCnt })
  let s := s.modInput i (fun x => { x with
    steps := steps, pass := false, testedAt := some s.now, joinAt := s.now, disDone := false,
    handover := if ok then some s.now else none })
  if ok then s else ibFault 2 i s

/-- The comparators have both read the terminal, and alike or unlike as now, on the last 100 edges (R137, R138). -/
def Input.sameFor100 (now : Tick) (x : Input) : Bool :=
  decide (99 ≤ elapsed now x.cmpAt) && decide (99 ≤ elapsed now x.joinAt)

/-- THR_HANDOVER (R137): after 100 edges of agreement the check comparator becomes the live one; a THR_FAIL is over with a
passed test. -/
def execThrHandover (i : Fin 128) (s : State) : Host.Outcome State Fault Refusal :=
  let x := s.ib.inp[i]
  .next (
    if x.handover.isSome && x.live == x.chk && x.sameFor100 s.now then
      causeAbsent .ib 2 i.val (s.modInput i (fun x => { x with handover := none, pass := true, liveIdx := !x.liveIdx }))
    else s)

/-- THR_HANDOVER_TIMEOUT (R138). -/
def execThrHandoverTimeout (i : Fin 128) (s : State) : Host.Outcome State Fault Refusal :=
  .next (
    match s.ib.inp[i].handover with
    | some t =>
      if 2000 ≤ elapsed s.now t then ibFault 2 i (s.modInput i (fun x => { x with handover := none })) else s
    | none => s)

/-- COMPARATOR_DISAGREE (R138): both comparators connected, unlike on 100 edges with the voltage outside the band, which is left
to R135. -/
def execComparatorDisagree (i : Fin 128) (s : State) : Host.Outcome State Fault Refusal :=
  let x := s.ib.inp[i]
  .next (
    if x.runs s.now && x.zone != .band && x.live != x.chk && x.sameFor100 s.now && decide (99 ≤ elapsed s.now x.bandEnd) &&
        s.thrUnder != some i && !x.disDone then
      ibFault 2 i (s.modInput i (fun x => { x with disDone := true }))
    else s)

/-! ## The terminal (R125, R129 to R136, R153, R155) -/

/-- A foreign match at an input (R155, R156): counted; matches in two consecutive dips of one source record
DIP_UNEXPECTED. -/
def foreignMatch (i : Fin 128) (k : Fin 32) (dipNo : Nat) (s : State) : State :=
  let twice := 0 < dipNo ∧ (k, dipNo - 1) ∈ (s.ib.inp[i] : Input).foreign
  let s := s.modPs (fun p => { p with unexpCnt := satInc p.unexpCnt })
  let s := s.modInput i (fun x => { x with foreign := (k, dipNo) :: x.foreign.filter (fun e => e.1 != k), foreignNew := true })
  let s := causeAgain .ps 5 i.val (causeAgain .ps 4 i.val s)
  if twice then dipFault 4 i k.val s else s

/-- The dip of source `k` that a low from `u` to before `now` matches: it began in the off part of the window and ends at
most 2 µs after its end. -/
def matchesDip (now u : Tick) (x : Source) : Option Nat :=
  let inWin := fun (w : DipWin) => decide (elapsed u w.openAt < elapsed w.offEnd w.openAt) &&
    decide (elapsed now w.openAt ≤ elapsed w.closeAt w.openAt + 200)
  match x.win, x.lastWin with
  | some w, l =>
    if inWin w then some x.dipNo
    else match l with | some v => if inWin v then some (x.dipNo - 1) else none | none => none
  | none, some v => if inWin v then some x.dipNo else none
  | none, none => none

/-- The end of a low of at least 10 ticks at a pulsed input, outside its own source's windows, is held against every other
enabled source's dips. -/
def lowEnds (i : Fin 128) (u : Tick) (s : State) : State :=
  let c := s.inputCfg i
  let x := s.ib.inp[i]
  if !c.pulsed || elapsed s.now u < 10 || x.held.isSome then s
  else
    (fins 32).foldl (fun s k =>
      if k.val = c.source ∨ !(s.strumCfg k).enable then s
      else match matchesDip s.now u s.ps.src[k] with
        | some n => foreignMatch i k n s
        | none => s) s

/-- The live comparator of an enabled input falls: in OSSD mode the bridge takes the low, but for one that begins within
t_gap after a bridged low (R129, R130), and for one that follows the low reading of the starting edge at once (R514). -/
def fallOf (ossd : Bool) (now : Tick) (x : Input) : Input :=
  let gap := match x.gapFrom with | some t => decide (elapsed now t < 100000) | none => false
  let first := x.onAt == some now || x.onAt == some (now - 1)
  { x with live := false, liveAt := now, bridge := if ossd && !gap && !first then some now else none, coincNow := false,
           gapFrom := if gap then x.gapFrom else none, diffSince := if x.onAt = some now then none else x.diffSince }

/-- The live comparator of an enabled input rises at the end of a low that began at `x.liveAt`: a bridged low starts t_gap
and sets TP_SEEN and TP_COINC (R129 to R133); a long enough low inside the expected dip is seen (R153). -/
def riseOf (partnerLow : Option Tick) (win : Option Tick) (now : Tick) (x : Input) : Input :=
  let bridged := match x.bridge with | some t => decide (elapsed now t < 40000) | none => false
  let coinc := x.coincNow || (match partnerLow with | some u => decide (100 ≤ overlap now x.liveAt u) | none => false)
  let seen := x.dipSeen || (match win with | some t => decide (10 ≤ overlap now x.liveAt t) | none => false)
  { x with live := true, liveAt := now, bridge := none, coincNow := false, dipSeen := seen,
           diffSince := if x.onAt = some now then some (now + 1) else x.diffSince,
           gapFrom := if bridged then some now else x.gapFrom, tpSeen := if bridged then some now else x.tpSeen,
           tpCoinc := if bridged then coinc else x.tpCoinc }

/-- The tick on which the partner of an input went low, while it is low. -/
def State.partnerLow (s : State) (c : InputCfg) : Option Tick :=
  if h : c.paired ∧ c.partner < 128 then
    let p := s.ib.inp[(⟨c.partner, h.2⟩ : Fin 128)]
    if p.live then none else some p.liveAt
  else none

/-- First tick of the window in progress of an input's own source. -/
def State.ownWindow (s : State) (c : InputCfg) : Option Tick :=
  if h : c.pulsed ∧ c.source < 32 then (s.ps.src[(⟨c.source, h.2⟩ : Fin 32)].win).map (·.openAt) else none

/-- When an input's low ends, a bridged low of its partner that it overlapped for 100 edges is marked (R133). -/
def markPartner (c : InputCfg) (u : Tick) (s : State) : State :=
  if h : c.paired ∧ c.partner < 128 then
    let j : Fin 128 := ⟨c.partner, h.2⟩
    let p := s.ib.inp[j]
    if !p.live && p.bridge.isSome && decide (100 ≤ overlap s.now u p.liveAt)
    then s.modInput j (fun x => { x with coincNow := true }) else s
  else s

/-- The zone of a terminal and the readings of its two comparators change (R135 to R138). Leaving the band within a suspension
holds the count of t_band, leaving it outside one restarts it. -/
def Input.sense (high chk : Bool) (zone : VoltZone) (now : Tick) (x : Input) : Input :=
  let suspended := match x.bandHold with | some e => ahead now e | none => false
  let enters := zone == .band && x.zone != .band
  let leaves := zone != .band && x.zone == .band
  let turns := (high == chk) != (x.live == x.chk)
  { x with
    zone := zone, chk := chk, zoneAt := if zone = x.zone then x.zoneAt else now,
    cmpAt := if turns then now else x.cmpAt, disDone := x.disDone && high != chk,
    bandEnd := if leaves then now else x.bandEnd,
    bandFrom := if enters then some now else if leaves then none else x.bandFrom,
    bandAcc := if leaves then (if suspended then x.bandRun now else 0) else x.bandAcc }

/-- INPUT_CHANGE (R125): the live and the check comparator and the voltage zone of a terminal. -/
def execInputChange (i : Fin 128) (high chk : Bool) (zone : VoltZone) (s : State) : Host.Outcome State Fault Refusal :=
  let x := s.ib.inp[i]
  let c := s.inputCfg i
  let s := s.modInput i (Input.sense high chk zone s.now)
  let s := if zone = .band then s else causeAbsent .ib 3 i.val s
  let s := if zone = .over then s else causeAbsent .ib 4 i.val s
  .next (
    if x.live = high then s
    else if !x.on then s.modInput i (fun x => { x with live := high, liveAt := s.now })
    else if high then
      let s := s.modInput i (riseOf (s.partnerLow c) (s.ownWindow c) s.now)
      settleInput i (lowEnds i x.liveAt (markPartner c x.liveAt s))
    else settleInput i (s.modInput i (fallOf (c.mode == 3) s.now)))

/-- INPUT_FILTER_EXPIRY (R126): the filtered value takes the value that has stood for F edges. -/
def execInputFilterExpiry (i : Fin 128) (s : State) : Host.Outcome State Fault Refusal := .next (settleInput i s)

/-- OSSD_BRIDGE_RELEASE (R129): on the 40,000th low edge the bridge presents false, and the low is no bridged low. -/
def execOssdBridgeRelease (i : Fin 128) (s : State) : Host.Outcome State Fault Refusal :=
  .next (
    match s.ib.inp[i].bridge with
    | some t =>
      if 39999 ≤ elapsed s.now t ∧ !s.ib.inp[i].live then settleInput i (s.modInput i (fun x => { x with bridge := none })) else s
    | none => s)

/-- OSSD_GAP_EXPIRY (R130). -/
def execOssdGapExpiry (i : Fin 128) (s : State) : Host.Outcome State Fault Refusal :=
  .next (
    match s.ib.inp[i].gapFrom with
    | some t => if 100000 ≤ elapsed s.now t then s.modInput i (fun x => { x with gapFrom := none }) else s
    | none => s)

/-- TP_SEEN_EXPIRY (R133). -/
def execTpSeenExpiry (i : Fin 128) (s : State) : Host.Outcome State Fault Refusal :=
  .next (
    match s.ib.inp[i].tpSeen with
    | some t => if 10000000 ≤ elapsed s.now t then s.modInput i (fun x => { x with tpSeen := none }) else s
    | none => s)

/-- BAND (R135): the voltage has been in the band for t_band, 100 µs and FILTER, counted outside suspensions (R124, R512). -/
def execBand (i : Fin 128) (s : State) : Host.Outcome State Fault Refusal :=
  let x := s.ib.inp[i]
  .next (
    if x.runs s.now && x.zone == .band && decide (10000 + s.filterTicks i ≤ x.bandRun s.now) && !s.causePresent .ib 3 i.val then
      ibFault 3 i s
    else s)

/-- The input has been processed for `n` edges, the present one included. -/
def Input.ranFor (n : Nat) (now : Tick) (x : Input) : Bool :=
  x.on && (match x.onAt with | some t => decide (n ≤ elapsed now t) | none => true)

/-- OVERVOLT (R136): above V_ovf on 10 consecutive edges. -/
def execOvervolt (i : Fin 128) (s : State) : Host.Outcome State Fault Refusal :=
  let x := s.ib.inp[i]
  .next (
    if x.ranFor 10 s.now && x.zone == .over && decide (9 ≤ elapsed s.now x.zoneAt) && !s.causePresent .ib 4 i.val then
      ibFault 4 i s
    else s)

/-! ## Words of an input and of a source (R128, R134, R167) -/

/-- Quarter `q` is valid: no contained fault of the quarter and its last transfer passed (R39). -/
def State.quarterValid (s : State) (q : Fin 4) : Bool := !s.quarterFaulted q && !s.ev.xferBad[q]

/-- VALID of an input (R134). -/
def State.inputValid (s : State) (i : Fin 128) : Bool :=
  (s.inputCfg i).mode != 0 && s.quarterValid (quarterOfInput i.val) && !s.uncleared .ib 3 i.val && !s.uncleared .ib 2 i.val &&
  !s.dipMissing i && !s.uncleared .ps 4 i.val && !s.uncleared .ib 4 i.val

/-- Status word of an input on the present edge (R134). -/
def State.inputStatus (s : State) (i : Fin 128) : Word :=
  let c := s.inputCfg i
  if c.mode = 0 then 0
  else
    let x := (s.ib.inp[i]).settle (s.filterTicks i) s.now
    let ossd := c.mode == 3
    let seen := match x.tpSeen with | some t => decide (elapsed s.now t < 10000000) | none => false
    regOf [(bit (s.inputValid i), 0, 1), (bit (x.runs s.now && x.live), 1, 1), (bit (x.held.isSome || x.bridging s.now), 2, 1),
           (bit (x.runs s.now && x.diffSince.isSome), 3, 1), (bit (s.uncleared .ib 3 i.val), 4, 1), (bit (s.uncleared .ib 2 i.val), 5, 1),
           (bit (s.dipMissing i), 6, 1), (bit (s.uncleared .ps 4 i.val), 7, 1), (bit (s.uncleared .ib 4 i.val), 8, 1),
           (bit (ossd && seen), 9, 1), (bit (ossd && x.tpCoinc), 10, 1), (c.mode, 12, 2), (x.changes.toNat, 16, 8)]

/-- Value word of an input on the present edge (R128). -/
def State.inputValue (s : State) (i : Fin 128) : Bool :=
  s.inputValid i && ((s.ib.inp[i]).settle (s.filterTicks i) s.now).filt

/-- The source is in the off part of a dip on the present tick (R151). -/
def Source.offPart (x : Source) (now : Tick) : Bool :=
  match x.win with | some w => decide (elapsed now w.openAt < elapsed w.offEnd w.openAt) | none => false

/-- The source drives by its schedule on the present tick: on, outside an off part, not switched off by a fault. That a source
switched off by SRC_OVERLOAD, or by the PSL_FAIL of R250, is not scheduled to drive is this model's reading (log 130). -/
def State.sourceOn (s : State) (k : Fin 32) : Bool :=
  let x := s.ps.src[k]
  x.on && !x.offPart s.now && x.offSince.isNone && !s.uncleared .st 7 k.val

/-- Status word of a source on the present edge (R167). -/
def State.sourceStatus (s : State) (k : Fin 32) (out : Bool) : Word :=
  if !(s.strumCfg k).enable then 0
  else
    let x := s.ps.src[k]
    let stuck := s.uncleared .ps 2 k.val
    let heavy := s.uncleared .ps 3 k.val
    let mine := (fins 128).filter (fun i => (s.inputCfg i).pulsed && (s.inputCfg i).source == k.val)
    regOf [(bit (s.quarterValid (quarterOfSource k.val) && !stuck && !heavy && !s.uncleared .st 7 k.val), 0, 1), (bit (s.sourceOn k), 1, 1), (bit out, 2, 1),
           (bit x.win.isSome, 3, 1), (bit stuck, 4, 1), (bit heavy, 5, 1), (bit (mine.any (fun i => s.dipMissing i)), 6, 1),
           (bit (mine.any (fun i => s.uncleared .ps 4 i.val)), 7, 1), (x.done.toNat, 16, 8)]

/-! ## Pulse sources (R149 to R163) -/

/-- Inputs pulsed from a source. -/
def State.inputsOf (s : State) (k : Fin 32) : List (Fin 128) :=
  (fins 128).filter (fun i => (s.inputCfg i).pulsed && (s.inputCfg i).source == k.val)

/-- PG00_RELEASE (R163): PG00 starts at count 0, and dip windows exist from now on. -/
def execPg00Release (s : State) : Host.Outcome State Fault Refusal :=
  .next (
    match s.ps.switchedAt, s.ps.frameAt with
    | some t, none =>
      if 100000 ≤ elapsed s.now t then
        let s := s.modPs (fun p => { p with frameAt := some s.now })
        s.modTb (fun b => { b with pg := upd b.pg 0 (fun g => { g with en := true, base := s.now }) })
      else s
    | _, _ => s)

/-- The strum-frame count on the present tick: the count of PG00. -/
def frameCount (s : State) : Option Nat := (s.ps.frameAt).map (fun t => elapsed s.now t % 10000000)

/-- The present tick is the first of a window of this dip (R149). -/
def windowDue (s : State) (c : StrumCfg) (dip : Nat) : Option (Nat × Nat) :=
  match frameCount s, c.dips[dip]? with
  | some f, some (a, w) =>
    let p := 100 * c.period
    if c.enable ∧ 0 < p ∧ (f + p - 100 * (c.phase + a) % p) % p = 0 then some (a, w) else none
  | _, _ => none

/-- The live comparator's reading on the tick before the present one. -/
def Input.before (x : Input) (now : Tick) : Bool := if x.liveAt = now then !x.live else x.live

/-- SCHED of a source's quarter (R159): its read-back shows a switching edge more than 1 µs from its scheduled tick, a fault
whose cause is over with the edge. -/
def judgeEdge (src : Fin 32) (late : Bool) (s : State) : State :=
  if late then recordPulse { block := .ps, cause := 1, cls := .contained, scope := 1, item := (quarterOfSource src.val).val,
                             addr := src.val, init := 0x10 + (quarterOfSource src.val).val, acc := 6,
                             quarter := some (quarterOfSource src.val) } s
  else s

/-- The switching-on of every enabled source on the first configured scan is judged like any other edge (R159, R163). -/
def judgeSwitchOn (late : BitVec 32) (s : State) : State :=
  (fins 32).foldl (fun s k => judgeEdge k (s.ps.src[k].on && late.getLsbD k.val) s) s

/-- DIP_WINDOW_OPEN (R151, R152): the source switches off and its inputs are masked. -/
def execDipWindowOpen (src : Fin 32) (dip : Fin 8) (late : Bool) (s : State) : Host.Outcome State Fault Refusal :=
  let x := s.ps.src[src]
  .next (
    match windowDue s (s.strumCfg src) dip.val with
    | some (_, w) =>
      if !x.on || x.win.isSome then s
      else
        let now := s.now
        let win : DipWin := { dip := dip.val, openAt := now, offEnd := now + BitVec.ofNat 64 ((100 * w + 1) / 2),
                              closeAt := now + BitVec.ofNat 64 (100 * w) }
        let s := s.modSource src (fun x => { x with win := some win, inOff := true, dipNo := x.dipNo + 1, highOff := false })
        let s := (s.inputsOf src).foldl (fun s i =>
          if s.ib.inp[i].on then
            settleInput i (s.modInput i (fun x =>
              { x.suspendBand now (win.closeAt + 5000) with held := some (x.before now), dipSeen := false }))
          else s) s
        judgeEdge src late s
    | none => s)

/-- DIP_OFF_END (R151): the source switches on for the recovery part; its read-back through the off part is kept. -/
def execDipOffEnd (src : Fin 32) (high : Bool) (late : Bool) (s : State) : Host.Outcome State Fault Refusal :=
  let x := s.ps.src[src]
  .next (
    match x.win with
    | some w =>
      if !x.inOff || decide (elapsed s.now w.openAt < elapsed w.offEnd w.openAt) then s
      else
        judgeEdge src late (s.modSource src (fun x => { x with inOff := false, highOff := high }))
    | none => s)

/-- The judgement of one input's dip on the first tick after the window (R153, R154, R156). -/
def judgeDip (w : DipWin) (i : Fin 128) (s : State) : State :=
  let x := s.ib.inp[i]
  match x.held with
  | none => s
  | some h =>
    let seen := x.dipSeen || (!x.live && decide (10 ≤ overlap s.now x.liveAt w.openAt))
    let s :=
      if !h then s.modPs (fun p => { p with nochkCnt := satInc p.nochkCnt })
      else if seen then
        let s := s.modInput i (fun x => { x with misses := 0 })
        if x.foreignNew then s else causeAbsent .ps 5 i.val (causeAbsent .ps 4 i.val s)
      else
        let s := s.modPs (fun p => { p with missCnt := satInc p.missCnt })
        let s := s.modInput i (fun x => { x with misses := min 2 (x.misses + 1) })
        let s := causeAgain .ps 5 i.val (causeAgain .ps 4 i.val s)
        if 1 ≤ x.misses then dipFault 5 i 0 s else s
    settleInput i (s.modInput i (fun x => { x with held := none, dipSeen := false, foreignNew := false }))

/-- DIP_WINDOW_END (R153, R159). -/
def execDipWindowEnd (src : Fin 32) (s : State) : Host.Outcome State Fault Refusal :=
  let x := s.ps.src[src]
  .next (
    match x.win with
    | some w =>
      if elapsed s.now w.openAt < elapsed w.closeAt w.openAt then s
      else
        let mine := s.inputsOf src
        let exempt := mine.any (fun i => s.ib.inp[i].foreignNew || s.uncleared .ps 4 i.val)
        let s := mine.foldl (fun s i => judgeDip w i s) s
        let s := s.modSource src (fun x => { x with
          win := none, inOff := false, lastWin := some w, done := x.done + 1,
          stuck := if exempt then x.stuck else if x.highOff then min 2 (x.stuck + 1) else 0 })
        if exempt then s
        else if !x.highOff then causeAbsent .ps 2 src.val s
        else if 1 ≤ x.stuck then sourceFault 2 src s else s
    | none => s)

/-- Ticks of a window's off part among the `n` ticks before the present one. -/
def offTicks (now : Tick) (n : Nat) (w : DipWin) : Nat :=
  if ahead now w.openAt then 0 else min n (elapsed now w.openAt) - min n (if ahead now w.offEnd then 0 else elapsed now w.offEnd)

/-- Ticks of t_ovl counted before the present one when the current has been above I_lim since tick `t`: the count pauses in
each off part, and no more than two lie within it (R150, R159). -/
def Source.overRun (now t : Tick) (x : Source) : Nat :=
  let n := elapsed now t
  let part := fun (w : Option DipWin) => match w with | some w => offTicks now n w | none => 0
  n - (part x.win + part x.lastWin)

/-- SRC_OVERLOAD (R159, R161): with its current above I_lim since tick `from_`, outside off parts, a source that has driven since
then is overloaded after 10,000 ticks, and switches off until the retry. -/
def execSrcOverload (src : Fin 32) (from_ : Tick) (s : State) : Host.Outcome State Fault Refusal :=
  let x := s.ps.src[src]
  .next (
    if x.on ∧ x.offSince = none ∧ !x.offPart s.now ∧ elapsed s.now from_ ≤ elapsed s.now x.onAt ∧
        10000 ≤ x.overRun s.now from_ then
      sourceFault 3 src (s.modSource src (fun x => { x with offSince := some s.now }))
    else s)

/-- SRC_RETRY (R159): after t_retry the source switches on again. A retry that fails leaves the cause present, and SRC_OVERLOAD
switches the source off again after t_ovl. -/
def execSrcRetry (src : Fin 32) (persists late : Bool) (s : State) : Host.Outcome State Fault Refusal :=
  .next (
    match s.ps.src[src].offSince with
    | some t =>
      if elapsed s.now t < 10000000 then s
      else
        let s := judgeEdge src late (s.modSource src (fun x => { x with offSince := none, onAt := s.now }))
        if persists then s else causeAbsent .ps 3 src.val s
    | none => s)

/-- The start of an enabled input's processing on the sample edge of scan 0 (R514): every step presents false; a terminal
that is already high is seen from the next edge. -/
def Input.begin (now : Tick) (x : Input) : Input :=
  { Input.reset with
    on := true, onAt := some now, live := x.live, liveAt := now, liveIdx := x.liveIdx, chk := x.chk, cmpAt := x.cmpAt,
    joinAt := x.joinAt, zone := x.zone, zoneAt := x.zoneAt, bandEnd := x.bandEnd,
    bandFrom := if x.zone = .band then some now else none, steps := x.steps, pass := x.pass, testedAt := x.testedAt,
    handover := x.handover, diffSince := if x.live then some (now + 1) else none }

end Sys2Proof.Machine
end

