-- ==== Sys2Proof/Machine/StoreOps.lean ====
section
/-!
DEFINITION. Sys2Proof/Machine/StoreOps.lean: the operations over the two stores: which store serves, the identity area
(R388, R440), wear counts (R389), the journal's records (R326, R327) and the user area.
-/
namespace Sys2Proof.Machine

/-- A store that is written: in service, or complete again after its copy and waiting for its quiet period (R396, R397). -/
def Store.written (x : Store) : Bool := (x.st == .sound || x.st == .quiet) && x.readable

/-- The store that serves reads: SA, unless only SB is in service (R396). -/
def State.survivor (s : State) : Side :=
  if (s.store .a).st = .sound ∧ (s.store .a).readable then .a
  else if (s.store .b).st = .sound ∧ (s.store .b).readable then .b else .a

/-- Both stores are in service. -/
def State.bothStores (s : State) : Bool :=
  (s.store .a).st == .sound && (s.store .b).st == .sound && (s.store .a).readable && (s.store .b).readable

/-- Every store that is written changed alike. -/
def modStores (f : Side → Store → Store) (s : State) : State :=
  [Side.a, Side.b].foldl (fun s i => s.modStore i (fun x => if x.written then f i x else x)) s

/-! ## Wear (R389) -/

/-- One write more in a 4 KiB sector. -/
def wearInc (sector : Nat) : List (Nat × Nat) → List (Nat × Nat)
  | [] => [(sector, 1)]
  | (k, n) :: t => if k = sector then (k, n + 1) :: t else if sector < k then (sector, 1) :: (k, n) :: t else (k, n) :: wearInc sector t

/-- The writes counted in a sector. -/
def wearOf (sector : Nat) : List (Nat × Nat) → Nat
  | [] => 0
  | (k, n) :: t => if k = sector then n else wearOf sector t

/-- One write more in each sector that `n` bytes from store address `a` touch. -/
def wearRange (a n : Nat) (x : Store) : Store :=
  if n = 0 then x
  else { x with wear := ((List.range ((a + n - 1) / 4096 - a / 4096 + 1)).map (fun k => a / 4096 + k)).foldl
                          (fun w k => wearInc k w) x.wear }

/-! ## A store fails (R386, R396, R398) -/

/-- STORE_FAIL of a store, its log entry and its end of service; while the other store's is uncleared STORE_BOTH, which is
fatal. A store that fails again while its fault is uncleared is only counted. -/
def storeFail (i : Side) (addr : Nat) (s : State) : State :=
  let again := s.uncleared .ms 3 i.num
  let both := (s.uncleared .ms 3 i.other.num || s.uncleared .pcr 7 i.other.num) && !again
  let s := s.modStore i (fun x => { x with st := if both then .both else .failed })
  let s := recordFault { block := .ms, cause := if both then 1 else 3, cls := if both then .fatal else .contained,
                         scope := if both then 0 else 0xA, item := i.num, addr := addr, init := 0x30 + i.num, acc := 0xA } s
  if both || again then s else logEvent 8 Block.ms.id 0 i.num s

/-! ## Identity area (R388, R440) -/

/-- The half that counts: the higher generation whose CRC holds. -/
def Store.identIdx (x : Store) : Side :=
  if !x.ident.a.crcOk then .b
  else if !x.ident.b.crcOk then .a
  else if x.ident.a.gen.toNat < x.ident.b.gen.toNat then .b else .a

/-- The identity area as a die reads it. -/
def Store.identity (x : Store) : Identity := x.ident.get x.identIdx

/-- The identity area rewritten into the other half with the next generation; an equal value writes nothing (R388). -/
def Store.setIdentity (f : Identity → Identity) (x : Store) : Store :=
  let cur := x.identity
  let new := f cur
  if new = cur then x
  else
    let x := wearRange 0x490000 1 x
    { x with ident := x.ident.set x.identIdx.other { new with gen := cur.gen + 1, crcOk := true } }

/-- The identity area of both stores rewritten. -/
def setIdentities (f : Identity → Identity) (s : State) : State := modStores (fun _ x => x.setIdentity f) s

/-- The hourly wear checkpoint (R389): the counts kept in SRAM into the identity area; on the tick of a system reset one is
written (R399). -/
def checkpointWear (s : State) : State :=
  if s.ms.wearAt = some s.now then s
  else
    (modStores (fun _ x =>
      let w := x.wear
      x.setIdentity (fun i => { i with wear := w, jpass := BitVec.ofNat 64 (x.jwritten * 3 / 131072) })) s).modMs
      (fun m => { m with wearAt := some s.now })

/-- Rank of a life cycle in the order of R440: BLANK, DEVELOP, SPLIT, COMMISSION, SAFE_RUN, RETIRED. -/
def lcRank : LifeCycle → Nat
  | .blank => 0 | .develop => 1 | .split => 2 | .commission => 3 | .safeRun => 4 | .retired => 5

/-- The code of a life cycle (R439). -/
def LifeCycle.code : LifeCycle → Nat
  | .blank => 0 | .develop => 1 | .commission => 2 | .safeRun => 3 | .split => 4 | .retired => 5

/-- The life cycle of a code (R439). -/
def lcOf (n : Nat) : Option LifeCycle :=
  match n with
  | 0 => some .blank | 1 => some .develop | 2 => some .commission | 3 => some .safeRun | 4 => some .split
  | 5 => some .retired | _ => none

/-- A life-cycle change: SA, then SB, logged as KIND 0x09 (R440). -/
def changeLc (new : LifeCycle) (s : State) : State :=
  let old := s.st.lc
  let s := setIdentities (fun i => { i with lc := new }) s
  let s := s.modSt (fun c => { c with lc := new })
  logEvent 9 Block.st.id (LifeCycle.code old) (LifeCycle.code new) s

/-! ## The journal (R326, R327) -/

/-- Code of a record type (R326). -/
def JType.code : JType → Nat
  | .accept => 1 | .begin => 2 | .done => 3 | .posted => 4 | .ringStart => 5 | .skip => 6

/-- A record as its writer forms it; JSEQ is given when it is written. -/
def jrec (t : JType) (p : Side) (n : Fin 8) (opc status : Nat) (seq : Word) (data : BitVec 64) : JRec :=
  { type := t, port := p, ring := n, opc := opc, status := status, seq := seq, data := data, jseq := 0, rcrc := 0, covers := [] }

/-- Bytes 0 to 19 of a record (R326). -/
def JRec.body (r : JRec) : List Byte :=
  [BitVec.ofNat 8 (r.type.code + 16 * r.port.num + 32 * r.ring.val), BitVec.ofNat 8 r.opc] ++ leBytes 2 r.status ++
  leBytes 4 r.seq.toNat ++ leBytes 8 r.data.toNat ++ leBytes 4 r.jseq.toNat

/-- The RCRC of a record in a store. -/
def JRec.crc (i : Side) (r : JRec) : Word := crcWithPrefix (BitVec.ofNat 8 i.num :: List.replicate 7 0) r.body

/-- The 24 bytes of a record as they stand in a store. -/
def JRec.bytes (r : JRec) : List Byte := r.body ++ leBytes 4 r.rcrc.toNat

/-- The record's RCRC holds: the record exists (R326). -/
def JRec.sound (i : Side) (r : JRec) : Bool := r.rcrc == r.crc i

/-- The record sealed for a store. -/
def JRec.seal (i : Side) (r : JRec) : JRec := { r with rcrc := r.crc i }

/-- Records the ring of 131,072 words holds. -/
def journalSize : Nat := 43690

/-- An open item of the record's ring carries this SEQ: the record is kept when the writer overwrites it (R327). -/
def recordLive (s : State) (r : JRec) : Bool :=
  (r.type == .accept || r.type == .begin || r.type == .done || r.type == .skip) &&
  (s.sq r.port r.ring).items.any (fun i => i.d.seq == r.seq)

/-- A record appended to one journal, the oldest given up when the ring is full. -/
def journalPut (r : JRec) (x : Store) : Store :=
  { x with journal := (if x.journal.length < journalSize then x.journal else x.journal.drop 1) ++ [r], jwritten := x.jwritten + 1 }

/-- A record written to the journals of both stores with the next JSEQ (R326). -/
def journalRaw (r : JRec) (s : State) : State :=
  let r := { r with jseq := s.wq.jseq }
  (modStores (fun i => journalPut (r.seal i)) s).modWq (fun w => { w with jseq := w.jseq + 1, journalAt := some s.now })

/-- The records of open items at the place of the next write are copied forward, each with a new JSEQ (R327). -/
def copyForward : Nat → State → State
  | 0, s => s
  | n + 1, s =>
    let x := s.store s.survivor
    match x.journal with
    | o :: _ =>
      if journalSize ≤ x.journal.length && o.sound s.survivor && recordLive s o then copyForward n (journalRaw o s) else s
    | [] => s

/-- What stays of the newest record of a journal whose writing a reset or a loss of power cut short (R336). -/
def Store.tear (t : Tear) (x : Store) : Store :=
  match t with
  | .whole => x
  | .absent => { x with journal := x.journal.dropLast, jwritten := x.jwritten - 1 }
  | .broken => { x with journal := x.journal.dropLast ++ (x.journal.drop (x.journal.length - 1)).map (fun r =>
      { r with rcrc := r.rcrc ^^^ 1 }) }

/-- A reset, or a loss of power, on the tick of a journal write. -/
def tearJournals (a b : Tear) (s : State) : State :=
  if s.wq.journalAt = some s.now then
    modStores (fun i x => if x.journal.isEmpty then x else x.tear (match i with | .a => a | .b => b)) s
  else s

/-- A newest record whose RCRC does not hold does not exist: the next one takes its place (R326). -/
def Store.dropBroken (i : Side) (x : Store) : Store :=
  match x.journal.getLast? with
  | some r => if r.sound i then x else { x with journal := x.journal.dropLast, jwritten := x.jwritten - 1 }
  | none => x

/-- A record written to the journals; records of open items about to be overwritten are copied forward first (R327). -/
def journalWrite (r : JRec) (s : State) : State :=
  journalRaw r (copyForward (s.store s.survivor).journal.length s)

end Sys2Proof.Machine
end

