-- ==== Sys2Proof/Machine/Axes.lean ====
section
/-!
DEFINITION. Sys2Proof/Machine/Axes.lean: axis feedback (chapter 7): the fine phase, the two paths' positions and words at a
measurement instant, encoder edges, breaks and re-seeding, calibration passes.
-/
namespace Sys2Proof.Machine

/-! ## Fine phase and vector length (R172, R180) -/

/-- cos and sin of π/2^k for k = 1 to 11, in units of 2^-100. -/
def halfTurns : List (Int × Int) :=
  [(0, 1267650600228229401496703205376), (896364335596578238699711011639, 896364335596578238699711011639),
   (1171156443926508635938050024219, 485108882735005078916833875245),
   (1243293049398167358316279903776, 247306363802463555846379077689),
   (1261546516103976800713454972892, 124251486771422088128137189651),
   (1266123659563714995915648986539, 62200666812954728165683991883),
   (1267268807567695160420278293046, 31109703067407905568579188454),
   (1267555148469424897028567089018, 15556022873616561564911268891),
   (1267626737063919613192537442170, 7778157858431849463462493803),
   (1267644634423113846968036898776, 3889097232048075534265022357),
   (1267649108776073130116464699229, 1944550903882094279119722421)]

/-- The bits of the phase below half a turn, from the direction (x, y) reached so far: a bit is 1 when the sample lies at or
beyond the direction turned on by its angle. -/
def phaseBits (s c : Int) : List (Int × Int) → Int → Int → Nat → Nat → Nat
  | [], _, _, _, acc => acc
  | (cs, sn) :: t, x, y, weight, acc =>
    let x' := x * cs - y * sn
    let y' := x * sn + y * cs
    let u := 1267650600228229401496703205376
    if 0 ≤ x' * s - y' * c then phaseBits s c t x' y' (weight / 2) (acc + weight)
    else phaseBits s c t (x * u) (y * u) (weight / 2) acc

/-- The fine phase ⌊4,096 × atan2(S, C) / 2π⌋ mod 4,096 (R172); none for S = C = 0, whose angle no rule states. -/
def finePhase (s c : Int) : Option Nat :=
  if s = 0 ∧ c = 0 then none
  else if s < 0 ∨ (s = 0 ∧ c < 0) then some (phaseBits s c halfTurns (-1) 0 1024 2048)
  else some (phaseBits s c halfTurns 1 0 1024 0)

/-- The largest number below 2^n whose square is at most `x`, by its bits. -/
def isqrtBits (x : Nat) : Nat → Nat → Nat
  | 0, acc => acc
  | n + 1, acc =>
    let t := acc + 2 ^ n
    if t * t ≤ x then isqrtBits x n t else isqrtBits x n acc

/-- The square of the vector length in units of 10 µV: S² + C². -/
def lenSq (m : AxisSample) : Nat := m.s.natAbs * m.s.natAbs + m.c.natAbs * m.c.natAbs

/-- The vector length as 2 × √(S² + C²) in mVpp, saturating at 0xFFFF (R180); a fraction of a mVpp is cut off, which the rule
leaves open (log 137). -/
def vectorLen (m : AxisSample) : Nat := isqrtBits (lenSq m / 2500) 16 0

/-- The vector length lies outside VL_MIN to VL_MAX. -/
def vectorOutside (c : AxisCfg) (m : AxisSample) : Bool :=
  decide (lenSq m < 2500 * (c.vlMin * c.vlMin)) || decide (2500 * (c.vlMax * c.vlMax) < lenSq m)

/-- The value nearest to `h` whose remainder modulo `n` is that of `r`; in a tie the lower (R172, R190). -/
def nearestTo (h : Word) (r n : Nat) : Word :=
  let d := (r + (n - h.toNat % n)) % n
  if d < n - d then h + BitVec.ofNat 32 d else h - BitVec.ofNat 32 (n - d)

/-- The quadrant as counted: with INVERT 1 the sequence is taken in reverse (R174). -/
def quadOf (inv : Bool) (q : Fin 4) : Nat := if inv then 3 - q.val else q.val

/-- Counts per signal period of a path (R168). -/
def countsPer (mode : Nat) (p : Fin 2) : Nat := if mode = 1 ∧ p.val = 0 then 4096 else 4

/-! ## Faults, breaks and validity (R181, R189, R190, R198, R199) -/

/-- A path of an axis. -/
def State.path (s : State) (a : Fin 64) (p : Fin 2) : Path := s.af.ax[a].path[p]

/-- An axis changed. -/
def State.modAxis (s : State) (a : Fin 64) (f : Axis → Axis) : State :=
  { s with af := { s.af with ax := upd s.af.ax a f } }

/-- A path changed. -/
def State.modPath (s : State) (a : Fin 64) (p : Fin 2) (f : Path → Path) : State :=
  s.modAxis a (fun x => { x with path := upd x.path p f })

/-- The entry an axis is measured under; a mode of 0 where it is unused. -/
def Axis.entry (x : Axis) : AxisCfg := x.cfg.getD default

/-- A contained fault of AF with the scope of one axis; `path` is 0, 1 or 2 for both. -/
def axisFault (cause : Nat) (a : Fin 64) (path : Nat) (s : State) : State :=
  let q := quarterOfAxis a.val
  recordFault { block := .af, cause := cause, cls := .contained, scope := 4, item := a.val, addr := a.val + 256 * path,
                init := 0x10 + q.val, acc := if cause = 7 then 6 else 4, quarter := some q } s

/-- A contained fault of AF with the scope of one quarter: ADC_CLOCK, or CAL of the spare. -/
def afQuarterFault (cause : Nat) (q : Fin 4) (s : State) : State :=
  recordFault { block := .af, cause := cause, cls := .contained, scope := 1, item := q.val, addr := q.val,
                init := 0x10 + q.val, acc := 6, quarter := some q } s

/-- An uncleared instance of an AF cause with this scope and item. -/
def State.afFault (s : State) (cause scope item : Nat) : Bool :=
  (s.frOf .af).insts.any (fun i => i.cause == cause && i.scope == scope && i.item == item)

/-- An AF cause with this scope and item is present. -/
def State.afPresent (s : State) (cause scope item : Nat) : Bool :=
  (s.frOf .af).insts.any (fun i => i.cause == cause && i.scope == scope && i.item == item && i.life == .present)

/-- An AF cause of this scope and item becomes absent (R257). -/
def afAbsent (cause scope item : Nat) (s : State) : State :=
  s.modRec .af (fun r => { r with insts := r.insts.map (fun i =>
    if i.cause = cause ∧ i.scope = scope ∧ i.item = item ∧ i.life = .present then { i with life := .quiet s.now } else i) })

/-- A break of a path (R190). -/
def Path.brk (now : Tick) (p : Path) : Path :=
  { p with breaks := p.breaks + 1, lastBreak := some now,
           brokenAt := match p.brokenAt with | some t => some t | none => some now }

/-- The faults of a path, as STATUS shows them: VECTOR, LEVEL, FREQ, QUAD, SYNC, CAL. -/
def State.pathFaults (s : State) (a : Fin 64) (p : Fin 2) : List Bool :=
  let x := s.path a p
  let sin0 := s.af.ax[a].entry.mode == 1 && p.val == 0
  [sin0 && s.afFault 6 4 a.val, s.afFault 2 4 a.val, x.freqF && s.afFault 5 4 a.val, x.quadF && s.afFault 4 4 a.val,
   sin0 && s.afFault 3 4 a.val, sin0 && s.afFault 7 4 a.val]

/-- VALID of a path (R176, R181). -/
def State.pathIsValid (s : State) (a : Fin 64) (p : Fin 2) : Bool :=
  s.af.ax[a].entry.mode != 0 && s.quarterValid (quarterOfAxis a.val) && decide (33 ≤ (s.path a p).hist.length) &&
  (s.pathFaults a p).all (!·)

/-! ## Encoder edges (R173, R174, R182, R187) -/

/-- The shortest interval between two neighbours of a list of ticks, newest first. -/
def shortest : List Tick → Option Nat
  | [] => none
  | t :: ts =>
    match ts with
    | [] => none
    | u :: _ =>
      match shortest ts with
      | none => some (elapsed t u)
      | some m => some (min m (elapsed t u))

/-- A change of a path's quadrant by `d` steps, 1 or 3, counted, backwards under INVERT. -/
def Path.countEdge (inv : Bool) (d : Nat) (quad : Fin 4) (now : Tick) (p : Path) : Path :=
  let up := (d == 1) != inv
  { p with quad := quad, count := if up then p.count + 1 else p.count - 1,
           edges := now :: p.edges.filter (fun t => decide (elapsed now t ≤ 10240)) }

/-- Both signals have changed (R187): nothing is counted; the interpolating path keeps its period count in its new
quadrant. -/
def Path.illegal (sin0 inv : Bool) (quad : Fin 4) (p : Path) : Path :=
  { p with quad := quad, errs := satInc p.errs, quadF := true,
           count := if sin0 then p.count - BitVec.ofNat 32 (p.count.toNat % 4) + BitVec.ofNat 32 (quadOf inv quad) else p.count }

/-- ENCODER_EDGE: the filtered quadrature state of a path. -/
def execEncoderEdge (a : Fin 64) (p : Fin 2) (quad : Fin 4) (s : State) : Host.Outcome State Fault Refusal :=
  let c := s.af.ax[a].entry
  let x := s.path a p
  let sin0 := c.mode == 1 && p.val == 0
  let d := (quad.val + 4 - x.quad.val) % 4
  .next (
    if c.mode = 0 ∨ !x.started ∨ x.held then s.modPath a p (fun x => { x with quad := quad })
    else if d = 0 then s
    else if d = 2 then
      let s := s.modPath a p (fun x => (x.illegal sin0 c.invert quad).brk s.now)
      afAbsent 4 4 a.val (axisFault 4 a p.val s)
    else
      let close := !sin0 && (match x.edges with | t :: _ => decide (elapsed s.now t < 10) | [] => false)
      let s := s.modPath a p (Path.countEdge c.invert d quad s.now)
      if close then
        let s := s.modPath a p (fun x => { x with freqF := true }.brk s.now)
        let s := axisFault 5 a p.val s
        if s.af.ax[a].fast then s else afAbsent 5 4 a.val s
      else s)

/-! ## The measurement instant (R171 to R184) -/

/-- The signed speed word: the difference over 32 instants divided by 10, halves away from zero (R176); `hist` begins with the
present position. -/
def speedOf (pos : Word) (hist : List Word) : Word :=
  match hist[32]? with
  | some old =>
    let d := (pos - old).toInt
    let m := (d.natAbs + 5) / 10
    if d < 0 then BitVec.ofInt 32 (-(m : Int)) else BitVec.ofNat 32 m
  | none => 0

/-- Counting of a path stays stopped: LEVEL of the axis is present, or, on path 0, ADC_CLOCK of the quarter. -/
def State.countStopped (s : State) (a : Fin 64) (p : Fin 2) : Bool :=
  s.afPresent 2 4 a.val || (p.val == 0 && s.afPresent 1 1 (quarterOfAxis a.val).val)

/-- A counter's position at an instant: its quadrant at the first, the held value while counting is stopped, and, where
it resumes, the nearest value of its own phase (R175, R190). -/
def Path.latchCounter (q : Nat) (stopped : Bool) (p : Path) : Path :=
  if !p.begun then { p with begun := true, count := BitVec.ofNat 32 q, pos := BitVec.ofNat 32 q, held := stopped }
  else if stopped then p
  else if p.held then (let v := nearestTo p.pos q 4; { p with count := v, pos := v, held := false })
  else { p with pos := p.count }

/-- The centre of the quadrant the comparators stand in: 4,096 × periods + 1,024 × q0 + 512 (R183). -/
def centreOf (count : Word) : Word := count * 1024 + 512

/-- Position of path 0 of a sin/cos axis at an instant: `phi` the fine phase, `q` the quadrant, `apart` for SYNC, on which the
position counts on with the comparators from its present value (R190). -/
def Path.latchSinCos (phi q : Nat) (stopped bad apart : Bool) (p : Path) : Path :=
  let p := { p with phi := phi }
  let near := fun (c : Word) => nearestTo (centreOf c) phi 4096
  let out := fun (p : Path) =>
    { p with latched := p.count, pos := if bad then centreOf p.count + p.base else near p.count + p.base }
  if !p.begun then
    let c := BitVec.ofNat 32 q
    out { p with begun := true, count := c, base := if bad then 0 else BitVec.ofNat 32 phi - near c, held := stopped }
  else if stopped then p
  else if p.held then
    let c := BitVec.ofNat 32 q
    out { p with count := c, base := nearestTo p.pos phi 4096 - near c, held := false }
  else if apart then { p with latched := p.count, pos := p.pos + (p.count - p.latched) * 1024 }
  else out p

/-- The frequency of path 0 exceeds f_freq0 by the change of its comparator count over the interval that ends now (R170, R182):
four quadrature edges in 3.2 µs are more than 215 kHz, one is less than 200 kHz; between them `near` decides. -/
def Path.overFreq (near : Bool) (p : Path) : Bool :=
  let n := (p.count - p.latched).toInt.natAbs
  p.begun && !p.held && (decide (4 ≤ n) || (decide (2 ≤ n) && near))

/-- The words of a path as formed at an instant, its window and SEQ moved on (R176, R180, R181). AMPL of a counter with one
counted edge, which makes no interval, reads as with none (log 138). -/
def formWords (a : Fin 64) (p : Fin 2) (s : State) : State :=
  let s := s.modPath a p (fun y => { y with seq := y.seq + 1, hist := (y.pos :: y.hist).take 33 })
  let x := s.af.ax[a]
  let c := x.entry
  let y := s.path a p
  let sin0 := c.mode == 1 && p.val == 0
  let fs := s.pathFaults a p
  let status := regOf ([(bit (s.pathIsValid a p), 0, 1), (bit (sin0 && x.degraded), 7, 1), (bit y.seeded, 8, 1), (c.mode, 10, 2),
                        (y.breaks.toNat, 16, 8)] ++ (fs.zip [1, 2, 3, 4, 5, 6]).map (fun e => (bit e.1, e.2, 1)))
  let ampl : Word :=
    if sin0 then BitVec.ofNat 32 x.ampl
    else match shortest (y.edges.filter (fun t => decide (elapsed s.now t ≤ 10240))) with
      | some n => BitVec.ofNat 32 n | none => 0xFFFFFFFF
  s.modPath a p (fun y =>
    { y with words := #v[y.pos, speedOf y.pos y.hist, ampl, status, loHalf s.now, y.errs, y.seq, ~~~y.pos] })

/-- FREQ of path 0 of a sin/cos axis (R182, R186): recorded on the instant its frequency has risen above the limit. -/
def judgeFreq (a : Fin 64) (hi : Bool) (s : State) : State :=
  let was := s.af.ax[a].fast
  let s := s.modAxis a (fun x => { x with fast := hi })
  if hi && !was then axisFault 5 a 0 (s.modPath a 0 (fun y => { y with freqF := true }))
  else if hi then s else afAbsent 5 4 a.val s

/-- VECTOR (R184): four consecutive measurements, or 8 of 32, outside the window; none count while LEVEL is uncleared. -/
def judgeVector (a : Fin 64) (outside level : Bool) (s : State) : State :=
  let x : Axis := s.af.ax[a]
  let h : BitVec 32 := if level then 0 else (x.vecHist <<< 1) ||| (if outside then 1 else 0)
  let s := s.modAxis a (fun x => { x with vecHist := h })
  let many := ((List.range 32).filter (fun k => h.getLsbD k)).length
  let hit := h &&& 0xF == 0xF || decide (8 ≤ many)
  if !hit then afAbsent 6 4 a.val s
  else if s.afPresent 6 4 a.val then s else axisFault 6 a 0 s

/-- SYNC (R188): phase and quadrant two apart in a good measurement. -/
def judgeSync (a : Fin 64) (bad apart : Bool) (s : State) : State :=
  if bad then s
  else if !apart then afAbsent 3 4 a.val s
  else if s.afPresent 3 4 a.val then s
  else axisFault 3 a 0 (s.modPath a 0 (Path.brk s.now))

/-- Two converter pairs agree on a measurement (R193): φ within 8 counts, the vector length within 2% of the serving pair's. -/
def pairsAgree (m spare : AxisSample) : Bool :=
  match finePhase m.s m.c, finePhase spare.s spare.c with
  | some x, some y =>
    let d := (x + 4096 - y) % 4096
    (decide (d ≤ 8) || decide (4088 ≤ d)) && decide (9604 * lenSq m ≤ 10000 * lenSq spare) &&
    decide (10000 * lenSq spare ≤ 10404 * lenSq m)
  | _, _ => false

/-- A measurement within a handover of the axis's pair: a bad one restarts the count of agreements (R193, R194). -/
def CalPass.count (agree bad : Bool) (p : CalPass) : CalPass :=
  { p with agree := if bad || !agree then 0 else min 8 (p.agree + 1), instants := min 64 (p.instants + 1) }

/-- The handover under way on an axis, if it is this axis's, sees the instant's measurement. -/
def agreePair (a : Fin 64) (m spare : AxisSample) (bad : Bool) (s : State) : State :=
  s.modAf (fun f => { f with q := upd f.q (quarterOfAxis a.val) (fun x => { x with
    pass := x.pass.map (fun p => if p.pair = a.val % 16 then p.count (pairsAgree m spare) bad else p) }) })

/-- Path 0 of a sin/cos axis at a measurement instant; `spare` is the sample of the pair that does not serve the axis. -/
def measureSinCos (a : Fin 64) (m spare : AxisSample) (s : State) : State :=
  let c := s.af.ax[a].entry
  let y := s.path a 0
  let level := s.afFault 2 4 a.val
  let outside := vectorOutside c m
  let fast := y.overFreq m.overFreq
  let s := judgeFreq a fast s
  let bad := outside || fast || level || (y.freqF && s.afFault 5 4 a.val)
  let (f, s) := s.takeFree
  let raw := match finePhase m.s m.c with | some k => k | none => f.toNat % 4096
  let phi := if c.invert then (4096 - raw) % 4096 else raw
  let q := quadOf c.invert y.quad
  let stopped := s.countStopped a 0
  let apart := !bad && !stopped && decide ((phi / 1024 + 4 - q) % 4 = 2)
  let s := judgeVector a outside level s
  let s := agreePair a m spare bad (judgeSync a (bad || stopped) apart s)
  let s := s.modAxis a (fun x => { x with ampl := vectorLen m, degraded := bad })
  s.modPath a 0 (fun y =>
    { y.latchSinCos phi q stopped bad apart with errs := if bad then satInc y.errs else y.errs })

/-- One axis at a completed measurement instant. -/
def measureAxis (m spare : AxisSample) (a : Fin 64) (s : State) : State :=
  let c := s.af.ax[a].entry
  if c.mode = 0 then s
  else
    let counter := fun (p : Fin 2) (s : State) =>
      let stopped := s.countStopped a p
      s.modPath a p (fun y => y.latchCounter (quadOf c.invert y.quad) stopped)
    let s := if c.mode = 1 then measureSinCos a m spare s else counter 0 s
    formWords a 1 (formWords a 0 (counter 1 s))

/-- The axes of a quarter. -/
def axesOf (q : Fin 4) : List (Fin 64) := (fins 64).filter (fun a => quarterOfAxis a.val == q)

/-- MEASUREMENT_INSTANT (R171): `done` names the quarters whose instant completes; `samples` are by axis number, and `spares`,
by quarter, those of the pair that samples beside the serving one in a calibration pass. -/
def execMeasurementInstant (done : BitVec 4) (samples spares : List AxisSample) (s : State) :
    Host.Outcome State Fault Refusal :=
  .next (
    if !s.pcr.clk.tb || s.now.toNat % 320 != 0 then s
    else
      (fins 4).foldl (fun s q =>
        if !done.getLsbD q.val then s
        else
          let s := afAbsent 1 1 q.val s
          let s := s.modAf (fun f => { f with q := upd f.q q (fun x => { x with meas := true, measAt := s.now, fresh := true }) })
          (axesOf q).foldl (fun s a => measureAxis ((samples[a.val]?).getD default) ((spares[q.val]?).getD default) a s) s) s)

/-- AXIS_BUFFER_SWAP (R178): 290 ticks after the instant the quarter's words go to the distributor's side. -/
def execAxisBufferSwap (q : Fin 4) (s : State) : Host.Outcome State Fault Refusal :=
  let x := s.af.q[q]
  .next (
    if x.fresh ∧ 290 ≤ elapsed s.now x.measAt then
      let s := s.modAf (fun f => { f with q := upd f.q q (fun x => { x with fresh := false, swapAt := some s.now }) })
      (axesOf q).foldl (fun s a => s.modAxis a (fun x => { x with
        path := x.path.map (fun p => { p with prev := p.buf, buf := p.words }) })) s
    else s)

/-- The words of a path as a snapshot taken on the present tick carries them (R18, R178). -/
def State.pathWords (s : State) (a : Fin 64) (p : Fin 2) : Vector Word 8 :=
  if s.af.ax[a].entry.mode = 0 then Vector.replicate 8 0
  else if s.af.q[quarterOfAxis a.val].swapAt = some s.now then (s.path a p).prev else (s.path a p).buf

/-! ## LEVEL and ADC_CLOCK (R185, R190, R197, R198) -/

/-- A calibration pass on this axis is abandoned (R197). -/
def abandonPass (a : Fin 64) (s : State) : State :=
  s.modAf (fun f => { f with q := upd f.q (quarterOfAxis a.val) (fun x =>
    match x.pass with
    | some p => if p.pair = a.val % 16 then { x with pass := none } else x
    | none => x) })

/-- LEVEL: recorded, a break on both paths, whose positions hold. -/
def execLevel (a : Fin 64) (s : State) : Host.Outcome State Fault Refusal :=
  .next (
    if s.af.ax[a].entry.mode = 0 ∨ s.afPresent 2 4 a.val then s
    else
      let s := s.modAxis a (fun x => { x with path := x.path.map (fun p => { p.brk s.now with held := true }) })
      abandonPass a (axisFault 2 a 2 s))

/-- LEVEL_RESTORE: the cause is absent; a counter counts on from the value nearest to the one held with its own phase. -/
def execLevelRestore (a : Fin 64) (s : State) : Host.Outcome State Fault Refusal :=
  let c := s.af.ax[a].entry
  .next (
    if !s.afPresent 2 4 a.val then s
    else
      let s := afAbsent 2 4 a.val s
      (fins 2).foldl (fun s p =>
        if (c.mode = 1 ∧ p.val = 0) ∨ s.countStopped a p then s
        else s.modPath a p (fun y =>
          if y.held then (let v := nearestTo y.pos (quadOf c.invert y.quad) 4; { y with count := v, pos := v, held := false })
          else y)) s)

/-- ADC_CLOCK: three intervals without a completed instant; path 0, which the ADC clock serves, stops counting, and both
paths of every axis show a break. In START the loss of the clock, once released, fails the start (R421). -/
def execAdcClock (q : Fin 4) (s : State) : Host.Outcome State Fault Refusal :=
  let x := s.af.q[q]
  .next (
    if s.dev = .start then
      (if s.pcr.clk.adc[q] then clockLostInStart (fun c => { c with adc := vset c.adc q false }) s else s)
    else if !s.configured ∨ elapsed s.now x.measAt < 960 ∨ s.afPresent 1 1 q.val then s
    else
      let s := s.modAf (fun f => { f with q := upd f.q q (fun x => { x with meas := false }) })
      let s := (axesOf q).foldl (fun s a =>
        if s.af.ax[a].entry.mode = 0 then s
        else s.modAxis a (fun x => { x with
          path := vmapIdx x.path (fun p y => { y.brk s.now with held := y.held || p.val == 0 }) })) s
      afQuarterFault 1 q s)

/-! ## Re-seeding (R191) -/

/-- The value nearest to the other path's position with the path's own phase `r` modulo `n`: |target − scale × p| least; in a
tie the lower. -/
def reseedValue (target : Int) (scale : Int) (r n : Nat) : Int :=
  let p0 := target.fdiv scale
  let c := p0 - (p0 - (r : Int)).fmod (n : Int)
  if (target - scale * (c + (n : Int))).natAbs < (target - scale * c).natAbs then c + (n : Int) else c

/-- The position a path is re-seeded to. Modulo 2^32 the multiples of 2^32 / K apart are as near for path 1; the lowest of them
is taken. -/
def State.reseedPos (s : State) (a : Fin 64) (p : Fin 2) : Word :=
  let c := s.af.ax[a].entry
  let y := s.path a p
  let k : Int := if c.mode = 1 then 1024 else 1
  let r := if c.mode = 1 ∧ p.val = 0 then y.phi else quadOf c.invert y.quad
  if p.val = 0 then BitVec.ofInt 32 (reseedValue (BitVec.ofInt 32 (k * (s.path a 1).pos.toInt)).toInt 1 r (countsPer c.mode p))
  else BitVec.ofInt 32 ((reseedValue (s.path a 0).pos.toNat k r 4).emod (4294967296 / k))

/-- A broken path whose last fault has cleared is re-seeded if the other path allows it; else it counts on (R191, R197). -/
def mendPath (a : Fin 64) (p : Fin 2) (s : State) : State :=
  let y := s.path a p
  let o : Fin 2 := if p.val = 0 then 1 else 0
  match y.brokenAt with
  | none => s
  | some t =>
    if (s.pathFaults a p).any id || s.afFault 1 1 (quarterOfAxis a.val).val then s
    else
      let otherWhole := match (s.path a o).lastBreak with
        | none => true
        | some u => decide (elapsed s.now t < elapsed s.now u)
      let s := s.modPath a p (fun y => { y with brokenAt := none })
      if otherWhole && s.pathIsValid a o then
        let v := s.reseedPos a p
        s.modPath a p (fun y => { y with
          pos := v, hist := [], seeded := true, held := false,
          count := if s.af.ax[a].entry.mode = 1 ∧ p.val = 0 then y.count else v,
          base := if s.af.ax[a].entry.mode = 1 ∧ p.val = 0 then v - nearestTo (centreOf y.count) y.phi 4096 else y.base })
      else s

/-- What follows in AF when one of its instances clears: the path flags fall, VECTOR counts again, broken paths mend. -/
def afCleared (cause scope item : Nat) (s : State) : State :=
  let as := (fins 64).filter (fun a => (scope == 4 && a.val == item) || (scope == 1 && (quarterOfAxis a.val).val == item))
  let s := as.foldl (fun s a => s.modAxis a (fun x => { x with
    vecHist := if cause = 2 then 0 else x.vecHist,
    path := x.path.map (fun y => { y with freqF := y.freqF && cause != 5, quadF := y.quadF && cause != 4 }) })) s
  as.foldl (fun s a => mendPath a 1 (mendPath a 0 s)) s

/-! ## Start of the axes (R175, R195) -/

/-- The axes as the first configured scan configures them: an axis whose entry is unchanged keeps its positions and breaks,
one whose entry changed starts again, an unused one presents zeros. Which path an uncleared FREQ or QUAD names is kept in each
(R189). The 20 ms of the calibration passes run from the first of these scans (log 139). -/
def configureAxes (s : State) : State :=
  s.modAf (fun f => { f with
    ax := vmapIdx f.ax (fun a x =>
      let c := s.axisCfg a
      let anew := fun (p : Path) => { Path.reset with quad := p.quad, freqF := p.freqF, quadF := p.quadF }
      if c.mode = 0 then { Axis.reset with path := x.path.map anew }
      else if x.cfg = some c then x
      else { Axis.reset with cfg := some c, path := x.path.map (fun p => { anew p with started := true }) })
    q := f.q.map (fun x => { x with measAt := if x.meas then x.measAt else s.now,
                                    passAt := if x.passAt = 0 then s.now else x.passAt }) })

/-! ## Calibration (R193, R194) -/

/-- The axis a converter pair of a quarter serves; the spare, pair 16, serves none. -/
def pairAxis (q : Fin 4) (pair : Nat) : Option (Fin 64) :=
  if h : pair < 16 then some ⟨16 * q.val + pair, by omega⟩ else none

/-- The pair serves a sin/cos axis, so that handovers are checked. -/
def State.pairChecked (s : State) (q : Fin 4) (pair : Nat) : Bool :=
  match pairAxis q pair with | some a => s.af.ax[a].entry.mode == 1 | none => false

/-- A pass fails (R194): CAL of the axis the pair serves, or of the quarter for the spare. -/
def calFail (q : Fin 4) (pair : Nat) (s : State) : State :=
  match pairAxis q pair with
  | some a => if s.af.ax[a].entry.mode = 0 then s else axisFault 7 a 0 s
  | none => afQuarterFault 7 q s

/-- A pass ends with its pair back in service: good corrections take effect and a CAL of the pair is over. -/
def calEnd (q : Fin 4) (p : CalPass) (s : State) : State :=
  let s := s.modAf (fun f => { f with
    calCnt := if p.good then satInc f.calCnt else f.calCnt,
    q := upd f.q q (fun x => { x with
      pass := none
      corr := vmapIdx x.corr (fun k c => if k.val = p.pair ∧ p.good then p.corr else c) }) })
  if !p.good then s
  else match pairAxis q p.pair with
    | some a => afAbsent 7 4 a.val s
    | none => afAbsent 7 1 q.val s

/-- CALIBRATION_PASS: every 20 ms the next pair of the quarter in rotation; a pair whose handovers are not checked runs its
pass at once. The operands are the corrections the conversions give, offsets in LSB and gains in steps of 0.05%. -/
def execCalibrationPass (q : Fin 4) (ofsS ofsC gainS gainC : Int) (s : State) : Host.Outcome State Fault Refusal :=
  let pair := s.af.q[q].next % 17
  let good := decide (ofsS.natAbs ≤ 100) && decide (ofsC.natAbs ≤ 100) && decide (gainS.natAbs ≤ 60) && decide (gainC.natAbs ≤ 60)
  let p : CalPass := { pair := pair, taken := false, good := good, agree := 0, instants := 0,
                       corr := ⟨BitVec.ofInt 8 ofsS, BitVec.ofInt 8 ofsC, BitVec.ofInt 8 gainS, BitVec.ofInt 8 gainC⟩ }
  .next (
    if !s.configured || s.af.q[q].pass.isSome || decide (elapsed s.now s.af.q[q].passAt < 2000000) then s
    else
      let s := s.modAf (fun f => { f with
        q := upd f.q q (fun x => { x with next := (pair + 1) % 17, passAt := s.now, pass := some p }) })
      if s.pairChecked q pair then s
      else calEnd q p (if good then s else calFail q pair s))

/-- CAL_HANDOVER: after 8 agreeing measurements the spare takes over and the pair converts the references; after 8 more the pair
takes its axis back. -/
def execCalHandover (q : Fin 4) (s : State) : Host.Outcome State Fault Refusal :=
  .next (
    match s.af.q[q].pass with
    | none => s
    | some p =>
      if p.agree < 8 then s
      else if p.taken then calEnd q p s
      else
        let s := s.modAf (fun f => { f with
          q := upd f.q q (fun x => { x with pass := some { p with taken := true, agree := 0, instants := 0 } }) })
        if p.good then s else calFail q p.pair s)

/-- CAL_HANDOVER_TIMEOUT: 64 instants without 8 agreeing measurements; the pass has failed, and the pair keeps its
corrections. -/
def execCalHandoverTimeout (q : Fin 4) (s : State) : Host.Outcome State Fault Refusal :=
  .next (
    match s.af.q[q].pass with
    | none => s
    | some p =>
      if p.instants < 64 ∨ 8 ≤ p.agree then s
      else calFail q p.pair (s.modAf (fun f => { f with q := upd f.q q (fun x => { x with pass := none }) })))

/-- CALIBRATION_WRITE (R384): the corrections of the 68 converter pairs into the calibration area of both stores. -/
def execCalibrationWrite (s : State) : Host.Outcome State Fault Refusal :=
  let cs := (s.af.q.toList.map (fun x => x.corr.toList)).flatten
  .next (if s.pcr.clk.tb ∧ s.everyTicks 360000000000 then modStores (fun _ x => wearRange 0x480000 (4 * cs.length) { x with cal := cs }) s else s)

end Sys2Proof.Machine
end

