-- ==== Sys2Proof/Machine/Compare.lean ====
section
/-!
DEFINITION. Sys2Proof/Machine/Compare.lean: the comparison of kerf signatures (R243 to R248) and of the fault records'
copies (R253).
-/
namespace Sys2Proof.Machine

/-- FR_FIRST_INIT of a core, and of a comparator half or checking die. -/
def coreInit (c : Side) : Nat := 1 + c.num
def dieInit (d : Side) : Nat := 6 + d.num

/-- A fatal fault of SC about a kerf (R268). -/
def scFatal (cause init acc kerf : Nat) (s : State) : State :=
  recordFault { block := .sc, cause := cause, cls := .fatal, scope := 0, item := 0, addr := kerf % 2 ^ 32, init := init, acc := acc } s

/-- A kerf signature on its way to both halves (R243). -/
def sendKerf (c : Side) (m : Nat) (sig : Word64) (s : State) : State :=
  if s.split then s
  else s.modSc (fun x => { x with flight := x.flight ++ [(.a, c, m, sig), (.b, c, m, sig)] })

/-- Comparison runs (R248). -/
def State.comparesNow (s : State) : Bool := !s.split && (s.dev == .start || s.dev == .idle || s.dev == .run || s.dev == .halt)

/-- A signature on its way is still compared when the first half's mismatch, or another fault, has led to HOLD (R244 to R246). -/
def State.comparesSent (s : State) : Bool := s.comparesNow || (!s.split && s.dev == .hold)

/-- SC's registers show the last kerf compared by SC-A, until a mismatch freezes them (R267). -/
def scShow (a b : Word64) (skew : Nat) (matched : Bool) (x : Sc) : Sc :=
  if x.frozen then x
  else
    let k := BitVec.ofNat 16 (min skew 0xFFFF)
    { x with kok := x.kok || matched, knum := x.knum + 1, sigA := a, sigB := b, skew := k,
             peak := if x.peak.toNat < k.toNat then k else x.peak, frozen := !matched }

/-- The halves exchange their verdicts on a kerf; a difference is recorded by each (R246). -/
def exchangeVerdict (m : Nat) (s : State) : State :=
  let get := fun h => (((s.sc.half.get h).verdicts).find? (fun v => v.1 == m)).map (·.2)
  match get .a, get .b with
  | some x, some y =>
    let s := s.modSc (fun c => { c with half := c.half.map (fun h => { h with verdicts := h.verdicts.filter (fun v => v.1 != m) }) })
    if x == y then s else scFatal 2 (dieInit .b) 8 m (scFatal 2 (dieInit .a) 8 m s)
  | _, _ => s

/-- A half holds both signatures of a kerf: its verdict and, on a mismatch, its own die's inhibit (R244, R245). -/
def judgeKerf (h : Side) (m : Nat) (a b : Word64) (ta tb : Tick) (s : State) : State :=
  let matched := a == b
  let s := s.modSc (fun c => { c with half := c.half.upd h (fun x =>
    { x with heldA := x.heldA.filter (fun e => e.1 != m), heldB := x.heldB.filter (fun e => e.1 != m),
             mis := x.mis || !matched, verdicts := x.verdicts ++ [(m, matched)] }) })
  let s := if h = .a then tbEvent 0xB1 s.now (s.modSc (scShow a b (min (elapsed ta tb) (elapsed tb ta)) matched)) else s
  let s := if matched then s else scFatal 4 (dieInit h) 8 m (inhibitSide h s)
  exchangeVerdict m s

/-- KERF_SIGNATURE: a signature reaches a half, with what a disturbance changed in its true and complemented words. -/
def execKerfSignature (half core : Side) (hitT hitC : BitVec 64) (s : State) : Host.Outcome State Fault Refusal :=
  .next (
    match s.sc.flight.find? (fun f => f.1 == half && f.2.1 == core) with
    | none => s
    | some (_, _, m, sig) =>
      let s := s.modSc (fun x => { x with flight := x.flight.eraseP (fun f => f.1 == half && f.2.1 == core) })
      if !s.comparesSent then s
      else if sig ^^^ hitT ≠ ~~~(~~~sig ^^^ hitC) then scFatal 3 (coreInit core) 8 m s
      else
        let v := sig ^^^ hitT
        let s := s.modSc (fun c => { c with half := c.half.upd half (fun x =>
          match core with
          | .a => { x with heldA := x.heldA ++ [(m, v, s.now)] }
          | .b => { x with heldB := x.heldB ++ [(m, v, s.now)] }) })
        let x := s.sc.half.get half
        match x.heldA.find? (fun e => e.1 == m), x.heldB.find? (fun e => e.1 == m) with
        | some (_, a, ta), some (_, b, tb) => judgeKerf half m a b ta tb s
        | _, _ => s)

/-- The limit of KERF_LATE in ticks (R247). -/
def State.kerfLimit (s : State) : Nat := match (s.core .a).table with | some t => 2 * (t.scanMax + 1) | none => 0

/-- KERF_LATE: a half has held one core's signature too long without the other's. -/
def execKerfLate (half : Side) (s : State) : Host.Outcome State Fault Refusal :=
  let late := fun (l : List (Nat × Word64 × Tick)) => l.find? (fun e => decide (s.kerfLimit ≤ elapsed s.now e.2.2))
  .next (
    if !s.comparesNow then s
    else
      let x := s.sc.half.get half
      match late x.heldA, late x.heldB with
      | some (m, _), _ => scFatal 5 (coreInit .b) 6 m s
      | none, some (m, _) => scFatal 5 (coreInit .a) 6 m s
      | none, none => s)

/-- A pair of record words that is not complementary (R253): the drivers of both dies are inhibited directly, and SC records
RECORD_COPY; a pair of SC's own record leads to HOLD without a record. -/
def recordCopy (die : Side) (b : Fin 14) (w : Nat) (s : State) : State :=
  let s := inhibitBoth (s.modSc (fun x => { x with copyInhibit := true }))
  if b = Block.sc.idx then fatalAction s
  else recordFault { block := .sc, cause := 1, cls := .fatal, scope := 0, item := 0, addr := b.val + 1 + 256 * w,
                     init := dieInit die, acc := 9 } s

/-- The die may carry the register interface of the block (R12): LA that of the time base, LB that of the peer links; of the others
the spec does not say which logic die carries them (log 148). -/
def carries (die : Side) (b : Fin 14) : Bool :=
  if b = Block.pl.idx then die == .b else if b = Block.tb.idx then die == .a else true

/-- The die's checker compares the words of a record on the present tick: every word in the pass it starts, and what was written
on the tick before. -/
def State.checksCopy (s : State) (die : Side) (b : Fin 14) : Bool :=
  carries die b && (decide (s.now.toNat % 512 = 0) || (s.fr[b] : FaultRecord).wroteAt == some (s.now - 1))

/-- COPY_CHECK_PASS: on every tick at which TB_NOW is a multiple of 512, from 0 at the release of TB on, a die's checker starts a
pass, the pass before it having ended; both having ended counts one. `bad` are the words it finds not complementary; on another
tick only words written on the tick before are compared. -/
def execCopyCheckPass (die : Side) (bad : List (Fin 14 × Fin 32)) (s : State) : Host.Outcome State Fault Refusal :=
  .next (
    if !s.pcr.clk.tb || (s.sc.passAt.get die) == some s.now then s
    else
      let pass := decide (s.now.toNat % 512 = 0)
      let s := (bad.filter (fun e => s.checksCopy die e.1)).foldl (fun s e => recordCopy die e.1 e.2.val s) s
      if !pass then s
      else
      let s := s.modSc (fun x => { x with
        started := x.started.set die true, done := x.done.set die (x.started.get die), passAt := x.passAt.set die (some s.now) })
      if s.sc.done.a && s.sc.done.b then s.modSc (fun x => { x with done := ⟨false, false⟩, chkCnt := satInc x.chkCnt })
      else s)

end Sys2Proof.Machine
end

