-- ==== Sys2Proof/Machine/Reset.lean ====
section
/-!
DEFINITION. Sys2Proof/Machine/Reset.lean: the three reset levels (R415 to R420), their release (R405, R421) and the reset of
one host port (R299).
-/
namespace Sys2Proof.Machine

/-! ## Port reset (R299, R328) -/

/-- Opcodes that write host memory (R318): SNAPSHOT, TALLY_READ, LOG_READ, STORE_READ. -/
def isOut (opc : Nat) : Bool := opc == 0x30 || opc == 0x31 || opc == 0x32 || opc == 0x71

/-- A ring's items at a reset of its port: one not begun ends with ABORT_RESET 0, a begun out item with ABORT_RESET 1. -/
def portResetItem (i : Item) : Item :=
  match i.stage with
  | .accepted => { i with stage := .ended 0x0301 0 }
  | .begun => if isOut i.d.opc then { i with stage := .ended 0x0301 1 } else i
  | _ => i

/-- A submission ring after a reset of its port: RW fields at their reset values, items kept (R299, R339). -/
def Sq.portReset (q : Sq) : Sq :=
  { q with base := 0, size := 4, cq := 0, en := false, err := false, seq0 := 0, tail := q.head, fetching := none,
           items := q.items.map portResetItem }

/-- A completion ring after a reset of its port. -/
def Cq.portReset (q : Cq) : Cq :=
  { q with base := 0, tag := 0, size := 4, vec := 0, ien := false, coalN := 1, coalT := 0, en := false, startIdx := 0,
           startPhase := true, unsignalled := 0, unsignalledAt := none }

/-- A host port's registers after a reset of it: all at reset but the counters (R299). -/
def HpPort.portReset (now : Tick) (h : HpPort) : HpPort :=
  { HpPort.reset with inReset := h.inReset, refused := h.refused, ca := h.ca, disc := h.disc, linkDn := h.linkDn, aer := 0,
                      sent := h.sent, hlinkWas := h.hlinkWas,
                      imagePrev := if h.imageAt = some now then h.imagePrev else h.image, imageAt := some now }

/-- A port reset (R299): the port's own registers, ownership, rings and host image, and nothing else. -/
def portReset (p : Side) (s : State) : State :=
  let s := s.modHport p (HpPort.portReset s.now)
  let s := if s.hp.owner = some p ∧ s.dev ≠ .recovery then disown s else s
  s.modWport p (fun w => { w with sq := w.sq.map Sq.portReset, cq := w.cq.map Cq.portReset })

/-! ## What each level resets (R416) -/

/-- Staging slots under a reset of any level: VERIFIED becomes LOADED (R91). -/
def demoteSlots (s : State) : State :=
  let f := fun (x : TableSlot) => if x.st = .verified then { x with st := .loaded } else x
  s.modMs (fun m => { m with store := m.store.map (fun x => { x with slot := x.slot.map f }) })

/-- The debug logic through a reset: registers kept, the cores no longer halted (R416). -/
def Dbg.kept (d : Dbg) : Dbg := { d with haltA := false, haltB := false, pendHalt := false, brk := false, wp := false, queue := [], skip := none, step := false, holdNext := false }

/-- A begun SNAPSHOT, MODE_REQ or RESET_REQ waits through a core reset and is judged again when START has ended (R328). -/
def coreResetItem (i : Item) : Item :=
  if i.stage = .begun ∧ (i.d.opc = 0x30 ∨ i.d.opc = 0x20 ∨ i.d.opc = 0x21) then { i with stage := .accepted } else i

/-- Items under a core reset (R328): FULL_TEST and LINK_SEND end with RESULT 1, an LC_SET or TABLE_COMMIT that awaits its
acknowledgement ends with RESULT 0. -/
def coreResetItems (s : State) : State :=
  let s := match s.st.full with
    | some (p, n, _) => endItem p (if h : n < 8 then ⟨n, h⟩ else 0) 0x0301 1 s
    | none => s
  let s := match s.st.ack with
    | some w => endItem w.port (if h : w.ring < 8 then ⟨w.ring, h⟩ else 0) 0x0301 0 { s with st := { s.st with ack := none } }
    | none => s
  let s := (fins 4).foldl (fun s n => abortSends n 0x0301 s) (modeDrop s)
  s.modWq (fun w => { w with port := w.port.map (fun p => { p with
    sq := p.sq.map (fun q => { q with items := q.items.map coreResetItem }) }) })

/-- The state RESET, unless it is already there. -/
def toReset (s : State) : State := if s.dev = .reset then s else setDev .reset s

/-- An output through a core reset: its commands off, its switches opening, its timings at rest (R203, R213). -/
def Output.coreReset (o : Output) : Output :=
  { o with cmd := ⟨false, false⟩, defer := false, energisedAt := none, due := none, deferred := none, forced := false }

/-- What a core reset does (R416): EV, SC, ST and the cells reset, sources off, drivers stopped; the rest is kept. -/
def applyCore (s : State) : State :=
  let s := coreResetItems s
  let s := idleCells (stopCores (toReset s))
  let tab := fun c => { CoreSt.reset with table := (s.core c).table, undef := (s.core c).undef }
  { s with
    ev := { Ev.reset with core := ⟨tab .a, tab .b⟩ },
    sc := { Sc.reset with chkCnt := s.sc.chkCnt, started := s.sc.started, done := s.sc.done },
    st := { St.reset with lc := s.st.lc, strap := s.st.strap, rounds := s.st.rounds, deferCnt := s.st.deferCnt,
                          intrCnt := s.st.intrCnt, dbg := s.st.dbg.kept },
    os := { s.os with out := s.os.out.map Output.coreReset, q := Vector.replicate 4 OsQuarter.reset,
                      permit := false },
    ms := { s.ms with tallyDue := false } }

/-- A host port under a system reset: everything at reset, what it sent stays outside. -/
def HpPort.systemReset (h : HpPort) : HpPort := { HpPort.reset with sent := h.sent }

/-- A port's rings under a system reset: everything at reset, host memory stays outside. -/
def WqPort.systemReset (w : WqPort) : WqPort := { WqPort.reset with host := w.host }

/-- A peer-link port under a system reset: its counters count since power-on, its receive signal and output are outside. -/
def PlPort.systemReset (p : PlPort) : PlPort :=
  { PlPort.reset with signal := p.signal, sent := p.sent, rxCnt := p.rxCnt, badCnt := p.badCnt, missCnt := p.missCnt,
                      lostCnt := p.lostCnt }

/-- An input under a system reset: reset but for what stands at its terminal. -/
def Input.systemReset (i : Input) : Input := { Input.reset with live := i.live, zone := i.zone }

/-- An axis path under a system reset: reset but for the quadrant its signals stand in. -/
def Path.systemReset (p : Path) : Path := { Path.reset with quad := p.quad }

/-- The time base under a system reset: TB_NOW 0 and every channel at reset; the overflow counts count since power-on. -/
def Tb.systemReset (t : Tb) : Tb :=
  { Tb.reset with cap := t.cap.map (fun c => { Cap.reset with ovfCnt := c.ovfCnt }) }

/-- PCR under a system reset: the supplies' measured facts, the monitors of SOSC, the cause and the backup domain stay. -/
def Pcr.systemReset (p : Pcr) : Pcr :=
  { Pcr.reset with vl := p.vl, vlMv := p.vlMv, vfMv := p.vfMv, vbakMv := p.vbakMv, sideReset := p.sideReset,
                   cause := p.cause, level := p.level, bakValid := p.bakValid, since := p.since, asserted := p.asserted,
                   fresh := p.fresh, counted := p.counted, resetNLow := p.resetNLow, extest := p.extest, trstN := p.trstN,
                   ir := p.ir, dbgAddr := p.dbgAddr, tdo := p.tdo, vbakLow := p.vbakLow,
                   soscStop := p.soscStop, phase := .held, bk := p.bk }

/-- A store through a reset: the cause of STORE_FAIL ends with a resynchronisation alone, which a reset breaks off (R397); the
second of two failed stores, whose fault is STORE_BOTH, is tried again. -/
def StoreState.reset : StoreState → StoreState
  | .sound | .quiet | .both => .sound
  | .failed | .resync => .failed

/-- The stores and MS under a system reset: counters since power-on, contents and buffered log entries stay. -/
def Ms.systemReset (m : Ms) : Ms :=
  { Ms.reset with
    store := m.store.map (fun x => { x with st := x.st.reset, readable := true }),
    sramCorr := m.sramCorr, scrubPass := m.scrubPass, storeCorr := m.storeCorr, logDrop := m.logDrop, logHead := m.logHead,
    logBuf := m.logBuf, logLost := m.logLost, pub := m.pub }

/-- What a system reset does (R416): the wear checkpoint, then every block at reset but what the level keeps. -/
def applySystem (s : State) : State :=
  let s := if s.dev = .reset then s else checkpointWear s
  let s := demoteSlots (toReset s)
  { State.reset with
    pending := s.pending, free := s.free, dev := .reset,
    sc := { Sc.reset with chkCnt := s.sc.chkCnt },
    pcr := s.pcr.systemReset, tb := s.tb.systemReset,
    st := { St.reset with lc := s.st.lc, strap := s.st.strap, rounds := s.st.rounds, deferCnt := s.st.deferCnt,
                          intrCnt := s.st.intrCnt, dbg := s.st.dbg.kept },
    ev := { Ev.reset with core := Ev.reset.core.map (fun c => { c with undef := some s.free }) },
    ib := { Ib.reset with inp := s.ib.inp.map Input.systemReset, thrCnt := s.ib.thrCnt },
    ps := { Ps.reset with missCnt := s.ps.missCnt, unexpCnt := s.ps.unexpCnt, nochkCnt := s.ps.nochkCnt },
    af := { Af.reset with ax := s.af.ax.map (fun x => { Axis.reset with path := x.path.map Path.systemReset }),
                          calCnt := s.af.calCnt },
    os := { Os.reset with darkCnt := s.os.darkCnt, forcedCnt := s.os.forcedCnt },
    hp := { Hp.reset with port := s.hp.port.map HpPort.systemReset },
    wq := { Wq.reset with port := s.wq.port.map WqPort.systemReset, accCnt := s.wq.accCnt, replayCnt := s.wq.replayCnt,
                          dropCnt := s.wq.dropCnt },
    pl := { Pl.reset with port := s.pl.port.map PlPort.systemReset },
    cv := { Cv.reset with katCnt := s.cv.katCnt, rebuildCnt := s.cv.rebuildCnt },
    ms := s.ms.systemReset }

/-- What a power-on reset clears beyond a system reset (R416): the debug logic, every counter kept since power-on and the
SRAM contents; the backup domain and the stores stay. -/
def applyPowerOn (s : State) : State :=
  let s := applySystem s
  { s with
    pcr := { s.pcr with soscStop := ⟨false, false⟩, dbgAddr := 0, tdo := none },
    sc := Sc.reset, tb := Tb.reset, st := { St.reset with lc := s.st.lc, strap := s.st.strap }, ib := Ib.reset, ps := Ps.reset,
    af := Af.reset, os := Os.reset, cv := Cv.reset,
    wq := { Wq.reset with port := s.wq.port },
    pl := { Pl.reset with port := s.pl.port.map (fun p => { PlPort.reset with signal := p.signal, sent := p.sent }) },
    ms := { Ms.reset with
      logHead := s.ms.logHead, store := s.ms.store.map (fun x => { x with wear := x.identity.wear }) } }

/-- The effect of a level, deeper ones included. -/
def applyLevel (l : ResetLevel) (s : State) : State :=
  match l with
  | .core => demoteSlots (applyCore s)
  | .system => applySystem s
  | .powerOn => applyPowerOn s

/-! ## Sources (R417, R420) -/

/-- One reset more, or one less, in the histogram of both backup halves, for a cause from 1 to 9. -/
def histStep (cause : Nat) (f : Word → Word) (s : State) : State :=
  modBackup (fun h => { h with hist := vmapIdx h.hist (fun i x => if i.val + 1 = cause then f x else x) }) s

/-- PCR_RCAUSE as it reads (R428). -/
def rcauseWord (p : Pcr) : Word :=
  regOf [(p.cause.toNat, 0, 8), (p.level.code, 8, 2), (bit p.bakValid, 10, 1), (p.since.toNat, 17, 9)]

/-- The deeper of two levels. -/
def deeper (a b : ResetLevel) : ResetLevel := if a.code < b.code then b else a

/-- A reset source asserts its level (R415, R417, R420): on the tick of another source the deepest level and its lowest cause
hold and one reset is counted; during a release, the release restarts at the deeper level; SINCE records every source. -/
def assertReset (level : ResetLevel) (cause : Nat) (s : State) : State :=
  let p := s.pcr
  let releasing := p.asserted.isSome || p.phase == .pll
  let same := p.asserted.isSome && p.fresh
  let lvl := if releasing then deeper p.level level else level
  let code := if same then
      (if level.code < p.level.code then p.cause.toNat
       else if level = p.level then min p.cause.toNat cause else cause)
    else cause
  let s :=
    if same then
      if code = p.counted.toNat then s
      else histStep code satInc (histStep p.counted.toNat (fun x => if x = BitVec.allOnes 32 then x else x - 1) s)
    else histStep code satInc (modBackup (fun h => { h with life := satInc h.life }) s)
  let since := if level = .powerOn then 1 else p.since ||| BitVec.ofNat 9 (2 ^ (cause - 1))
  let s := s.modPcr (fun p => { p with
    cause := BitVec.ofNat 8 code, level := lvl, since := since, counted := BitVec.ofNat 8 code, armed := none, phase := .held,
    failCounted := false })
  let s := if same && decide (lvl.code ≤ p.level.code) then s else applyLevel lvl s
  let s := s.modPcr (fun p => { p with asserted := some lvl, fresh := true })
  if same then s else logEvent 5 Block.pcr.id (rcauseWord s.pcr).toNat s.pcr.bk.a.life.toNat s

/-! ## Release (R405, R421) -/

/-- Nothing holds the asserted level: no RESET_N low, no EXTEST, no stopped SOSC, whose die completes no reset but a power-on
reset (R415), and, for a system or power-on reset, both logic supplies within V_ok to V_ov. -/
def canRelease (s : State) : Bool :=
  let p := s.pcr
  !p.resetNLow && !p.extest.a && !p.extest.b && !p.soscStop.a && !p.soscStop.b && (p.asserted == some .core || (p.vl.a == .good && p.vl.b == .good))

/-- The asserted level is released: START begins, with the PLLs after a system or power-on reset, with the slot selection
after a core reset (R421, R422). -/
def releaseReset (s : State) : State :=
  match s.pcr.asserted with
  | none => s
  | some l =>
    if canRelease s then
      let s := s.modPcr (fun p => { p with
        asserted := none, fresh := false, startAt := s.now, failCounted := false,
        phase := if l = .core then .select else .pll,
        sideReset := if l = .core then p.sideReset else ⟨false, false⟩ })
      setDev .start s
    else s

end Sys2Proof.Machine
end

