-- ==== Sys2Proof/Machine/Power.lean ====
section
/-!
DEFINITION. Sys2Proof/Machine/Power.lean: supplies, clocks, reset sources and the first steps of a start (chapter 17).
-/
namespace Sys2Proof.Machine

/-- A measured voltage in mV lies in a range; 0 stands for a supply no event has reported, taken as good (log 13). -/
def inRange (lo hi : Nat) (mv : BitVec 16) : Bool := mv == 0 || (decide (lo ≤ mv.toNat) && decide (mv.toNat ≤ hi))

/-- Faults are recorded: no system or power-on reset is asserted. -/
def State.records (s : State) : Bool := s.pcr.asserted == none || s.pcr.asserted == some .core

/-- A logic supply outside its thresholds (R404): the module's power-on reset when the other is outside too, else this
side's own power-on reset, its port included (R296, R299), with VL_LOSS or VL_OVER recorded by the other die. -/
def vlOutside (side : Side) (lv : VlLevel) (cause : Nat) (mv : BitVec 16) (s : State) : State :=
  let s := s.modPcr (fun p => { p with vl := p.vl.set side lv, vlMv := p.vlMv.set side mv, vlOk := p.vlOk.set side false })
  if s.pcr.vl.get side.other ≠ .good then
    (if s.pcr.asserted = some .powerOn then s else assertReset .powerOn 1 s)
  else
    let s := s.modPcr (fun p => { p with sideReset := p.sideReset.set side true })
    let s := portReset side (inhibitSide side s)
    let s := (s.modHport side (fun h => { h with inReset := true, link := .down })).modPcr (fun p => { p with
      clk := { p.clk with hp := p.clk.hp.set side false } })
    if s.records then pcrFatal side.other cause side.num 0xD s else s

/-- A half of the backup domain loses its contents once VBAK and its own VL have both been reported below V_bkret, 1.8 V (R407). -/
def loseBackup (s : State) : State :=
  let p := s.pcr
  let gone := fun (i : Side) =>
    p.vbakLow && decide (p.vbakMv.toNat < 1800) && (p.vl.get i == .under) && decide ((p.vlMv.get i).toNat < 1800)
  let f := fun (i : Side) (h : BackupHalf) =>
    if gone i then { h with valid := false, rcount := 0, life := 0, hist := Vector.replicate 9 0, last := 0, prev := 0 } else h
  s.modPcr (fun p => { p with bk := ⟨f .a p.bk.a, f .b p.bk.b⟩ })

/-- VL_UNDERVOLTAGE; with the other supply outside too, power is lost, and with it what a journal write of the tick has not
finished. -/
def execVlUndervoltage (side : Side) (mv : BitVec 16) (tearA tearB : Tear) (s : State) : Host.Outcome State Fault Refusal :=
  .next (loseBackup (vlOutside side .under 1 mv (if s.pcr.vl.get side.other = .good then s else tearJournals tearA tearB s)))

/-- VL_OVERVOLTAGE. -/
def execVlOvervoltage (side : Side) (mv : BitVec 16) (s : State) : Host.Outcome State Fault Refusal :=
  .next (vlOutside side .over 2 mv s)

/-- VL_RANGE (R404): a corrected fault whose address carries side and voltage. -/
def execVlRange (side : Side) (mv : BitVec 16) (s : State) : Host.Outcome State Fault Refusal :=
  let t := s.modPcr (fun p => { p with vlMv := p.vlMv.set side mv, vlOk := p.vlOk.set side false })
  .next (if s.pcr.clk.tb && s.pcr.vl.get side == .good then pcrCorrected side 8 (side.num + mv.toNat * 65536) t else t)

/-- VL_RESTORE (R405): the supply is good again; a system reset that only the supply held is released, a side that returns
in HOLD stays in reset, and a power-on reset waits for t_por. -/
def execVlRestore (side : Side) (mv : BitVec 16) (s : State) : Host.Outcome State Fault Refusal :=
  let t := s.modPcr (fun p => { p with
    vl := p.vl.set side .good, vlMv := p.vlMv.set side mv,
    vlOk := p.vlOk.set side (p.clk.tb && inRange 4750 5250 mv) })
  .next (if t.pcr.asserted = some .system then releaseReset t else t)

/-- A contained fault of a quarter's field supply (R404, R427). -/
def vfFault (q : Fin 4) (cause : Nat) (s : State) : State :=
  recordFault { block := .pcr, cause := cause, cls := .contained, scope := 1, item := q.val, addr := q.val, init := 0x50,
                acc := 0xD } s

/-- A field supply outside its thresholds: reported, and recorded while the TB domain runs. -/
def vfOutside (q : Fin 4) (cause : Nat) (mv : BitVec 16) (s : State) : State :=
  let s := s.modPcr (fun p => { p with vfOk := vset p.vfOk q false, vfMv := vset p.vfMv q mv })
  if s.pcr.clk.tb then vfFault q cause s else s

/-- VF_LOSS (R404). -/
def execVfLoss (q : Fin 4) (mv : BitVec 16) (s : State) : Host.Outcome State Fault Refusal := .next (vfOutside q 5 mv s)

/-- VF_OVER (R404). -/
def execVfOver (q : Fin 4) (mv : BitVec 16) (s : State) : Host.Outcome State Fault Refusal := .next (vfOutside q 6 mv s)

/-- VF_RESTORE (R427): the causes of VF_LOSS and VF_OVER are absent and their quiet period starts. -/
def execVfRestore (q : Fin 4) (mv : BitVec 16) (s : State) : Host.Outcome State Fault Refusal :=
  let s := s.modPcr (fun p => { p with vfOk := vset p.vfOk q p.clk.tb, vfMv := vset p.vfMv q mv })
  .next (causeAbsent .pcr 6 q.val (causeAbsent .pcr 5 q.val s))

/-- A failing backup supply or oscillator (R404, R412, R413): recorded, and TB is no longer measured or qualified. -/
def bakFault (addr : Nat) (s : State) : State :=
  let s := s.modPcr (fun p => { p with bakFail := true, freq := 0x80000000, tbfOk := false })
  pcrCorrected .a 9 addr s

/-- BAK_FAIL. -/
def execBakFail (mv : BitVec 16) (s : State) : Host.Outcome State Fault Refusal :=
  let s := loseBackup (s.modPcr (fun p => { p with vbakOk := false, vbakMv := mv, vbakLow := true }))
  .next (if s.pcr.clk.tb then bakFault 0 s else s)

/-- BAK_EDGE_TIMEOUT. -/
def execBakEdgeTimeout (s : State) : Host.Outcome State Fault Refusal :=
  .next (if s.pcr.clk.tb then bakFault 1 (s.modPcr (fun p => { p with bakRun := false })) else s)

/-- POWER_ON_RESET (R404, R417): both logic supplies are outside. -/
def execPowerOnReset (s : State) : Host.Outcome State Fault Refusal :=
  let out := fun (v : VlLevel) => if v = .good then .under else v
  let s := s.modPcr (fun p => { p with vl := p.vl.map out, vlOk := ⟨false, false⟩ })
  .next (if s.pcr.asserted = some .powerOn then s else assertReset .powerOn 1 s)

/-- POR_RELEASE (R421): t_por is over. The SPLIT strap is sampled (R450); a RESET_N or EXTEST that still holds keeps the
module in a system reset. -/
def execPorRelease (strap : Bool) (s : State) : Host.Outcome State Fault Refusal :=
  .next (
    if s.pcr.asserted = some .powerOn ∧ s.pcr.vl.a = .good ∧ s.pcr.vl.b = .good then
      let s := s.modSt (fun c => { c with strap := strap })
      if canRelease s then releaseReset s else s.modPcr (fun p => { p with asserted := some .system })
    else s)

/-! ## Clocks -/

/-- The two halves compared at the release of a system or power-on reset (R408): a half that lost its contents takes the
other's; two halves that differ take the larger of each counter. -/
def compareBackup (s : State) : State :=
  let b := s.pcr.bk
  let big : Word → Word → Word := fun x y => if x.toNat < y.toNat then y else x
  let m : BackupHalf :=
    if !b.a.valid then { b.b with valid := true }
    else if !b.b.valid then b.a
    else { b.a with rcount := if b.a.rcount.toNat < b.b.rcount.toNat then b.b.rcount else b.a.rcount,
                    life := big b.a.life b.b.life, hist := vmapIdx b.a.hist (fun i x => big x b.b.hist[i]) }
  s.modPcr (fun p => { p with bk := ⟨m, m⟩, bakValid := b.a.valid || b.b.valid })

/-- The TB domain is released (R421): monitors report, TB_NOW counts from 0, field supplies already outside are recorded,
and the start goes on with the backup domain (t_bk): RECOVERY at a count of 4 or more (R424). -/
def tbReleased (s : State) : State :=
  let s := s.modPcr (fun p => { p with
    clk := { p.clk with tb := true }, refOk := true, soscOk := ⟨true, true⟩, bakRun := true,
    vbakOk := !p.vbakLow, freqFrom := s.now,
    vlOk := ⟨inRange 4750 5250 p.vlMv.a, inRange 4750 5250 p.vlMv.b⟩,
    vfOk := vmapIdx p.vfOk (fun q _ => inRange 18900 31300 p.vfMv[q]) })
  let s := s.modTb (fun t => { t with lock := ⟨true, true⟩ })
  let s := compareBackup s
  let s := (fins 4).foldl (fun s q =>
    let mv := s.pcr.vfMv[q]
    if inRange 18900 31300 mv then s else vfFault q (if mv.toNat < 18900 then 5 else 6) s) s
  if 4 ≤ s.pcr.bk.a.rcount.toNat then setDev .recovery (s.modPcr (fun p => { p with phase := .done }))
  else s.modPcr (fun p => { p with phase := .identity })

/-- In a start the STR domains are released before ADC and PLK (R421). -/
def strFirst (s : State) : Bool := s.dev != .start || (s.pcr.clk.str.a && s.pcr.clk.str.b)

/-- CLOCK_STEADY (R421): a clock has been steady for t_steady and its blocks are released. -/
def execClockSteady (clk : ClockName) (s : State) : Host.Outcome State Fault Refusal :=
  let s := if s.pcr.asserted = some .system then releaseReset s else s
  .next (
    match clk with
    | .tb => if s.dev = .start ∧ s.pcr.phase = .pll ∧ s.pcr.asserted = none ∧ !s.pcr.clk.tb then tbReleased s else s
    | .str d =>
      if s.pcr.clk.tb then
        causeAbsent .pcr 7 d.num (s.modPcr (fun p => { p with
          clk := { p.clk with str := p.clk.str.set d true }, strOk := p.strOk.set d true }))
      else s
    | .adc q =>
      if s.pcr.clk.tb && strFirst s then s.modPcr (fun p => { p with clk := { p.clk with adc := vset p.clk.adc q true } }) else s
    | .plk =>
      if s.pcr.clk.tb && strFirst s then
        let s := s.modPcr (fun p => { p with clk := { p.clk with plk := true } })
        let s := s.modPl (fun p => { p with lock := true })
        (fins 4).foldl (fun s n => causeAbsent .pl 2 n.val s) s
      else s
    | .hp p =>
      if s.pcr.asserted = some .system ∨ s.pcr.asserted = some .powerOn ∨ s.pcr.sideReset.get p ∨
         (p = .b ∧ s.dev = .recovery) then s
      else
        let s := s.modPcr (fun x => { x with clk := { x.clk with hp := x.clk.hp.set p true } })
        causeAbsent .hp 2 p.num (if s.unclearedIn .st 5 9 p.num then s else s.modHport p (fun h => { h with inReset := false })))

/-- CLK_MON (R412, R421): a reset source, but the end of the start in START. -/
def execClkMon (clk : MonClock) (s : State) : Host.Outcome State Fault Refusal :=
  let lost := fun (s : State) =>
    match clk with
    | .refclk => (s.modPcr (fun p => { p with refOk := false })).modTb (fun t => { t with lock := ⟨false, false⟩ })
    | .tbMaster => s.modTb (fun t => { t with lock := { t.lock with a := false } })
    | .tbChecking => s.modTb (fun t => { t with lock := { t.lock with b := false } })
  .next (
    match s.dev with
    | .start => clockLostInStart (fun _ => Clocks.none) (lost s)
    | .reset => if s.pcr.asserted = some .core then assertReset .system 4 (lost s) else s
    | _ => assertReset .system 4 (lost s))

/-- PLK_LOCK (R365, R412): every configured port records it and is held in OFF. -/
def execPlkLock (s : State) : Host.Outcome State Fault Refusal :=
  .next (
    if !s.pcr.clk.tb then s
    else
      let s := s.modPl (fun p => { p with lock := false })
      if s.dev = .start then clockLostInStart (fun c => { c with plk := false }) s
      else
        (fins 4).foldl (fun s n =>
          if (s.partner n).type = 0 then s
          else
            plOff n (recordFault { block := .pl, cause := 2, cls := .contained, scope := 8, item := n.val, addr := n.val,
                                   init := 0x51, acc := 0xD } s)) s)

/-- PORT_CLOCK (R303, R412): the clock of a released port is lost; recorded, and the port is reset. -/
def execPortClock (port : Side) (s : State) : Host.Outcome State Fault Refusal :=
  .next (
    if !s.pcr.clk.hp.get port || (port == .b && s.dev == .recovery) then s
    else
      let s := s.modPcr (fun p => { p with clk := { p.clk with hp := p.clk.hp.set port false } })
      let s := recordFault { block := .hp, cause := 2, cls := .contained, scope := 9, item := port.num, addr := port.num,
                             init := 0x50 + port.num, acc := 0xD } s
      portReset port (s.modHport port (fun h => { h with inReset := true, link := .down })))

/-- STR_CLOCK (R412): recorded with the scope of the die's store, which MS no longer uses. -/
def execStrClock (side : Side) (s : State) : Host.Outcome State Fault Refusal :=
  .next (
    if !s.pcr.clk.tb then s
    else
      let s := s.modPcr (fun p => { p with strOk := p.strOk.set side false })
      if s.dev = .start then clockLostInStart (fun c => { c with str := c.str.set side false }) s
      else
        let s := s.modPcr (fun p => { p with clk := { p.clk with str := p.clk.str.set side false } })
        let s := recordFault { block := .pcr, cause := 7, cls := .contained, scope := 0xA, item := side.num, addr := side.num,
                               init := 0x50 + side.num, acc := 0xD } s
        s.modStore side (fun x => { x with st := .failed }))

/-- SOSC_FAIL (R412): fatal, recorded by the die whose oscillator is sound; one that has stopped keeps its die from completing a
reset until the next power-on reset (R415). -/
def execSoscFail (side : Side) (stops : Bool) (s : State) : Host.Outcome State Fault Refusal :=
  let s := if stops then s.modPcr (fun p => { p with soscStop := p.soscStop.set side true }) else s
  .next (
    if s.records then
      pcrFatal side.other 3 side.num 0xD (s.modPcr (fun p => { p with soscOk := p.soscOk.set side false }))
    else s)

/-- TB_FREQ_WINDOW (R413): deviation of the window's ticks from 3,125,000, in ppm; the next window begins. -/
def execTbFreqWindow (s : State) : Host.Outcome State Fault Refusal :=
  let d : Int := (elapsed s.now s.pcr.freqFrom : Int) - 3125000
  let ppm : Int := (d * 8).tdiv 25
  .next (
    if !s.pcr.clk.tb || s.pcr.bakFail then s
    else
      let s := s.modPcr (fun p => { p with freqFrom := s.now, freq := BitVec.ofInt 32 ppm, tbfOk := decide ((d * 8).natAbs ≤ 5000 * 25) })
      if 20000 * 25 < (d * 8).natAbs then pcrFatal .a 4 (BitVec.ofInt 32 ppm).toNat 0xD s else s)

/-- A comparison that fails (R270, R287). -/
def tbCheckBad (addr : Nat) (s : State) : State :=
  recordFault { block := .tb, cause := 1, cls := .fatal, scope := 0, item := 0, addr := addr, init := 0x50, acc := 0xD }
    (s.modTb (fun t => { t with chkOk := false }))

/-- TB_CHECK (R270). TB_NOW of a tick that is a multiple of 1,000 reaches LB, whose own clock has gained `drift` ticks on LA's
since the comparison before; `pair` is what a disturbance has changed in the true and in the complemented word. Without a pair,
the 20 ticks of one that has not arrived have passed. -/
def execTbCheck (drift : Int) (pair : Option (BitVec 64 × BitVec 64)) (s : State) : Host.Outcome State Fault Refusal :=
  .next (
    if !s.pcr.clk.tb then s
    else
      match pair with
      | none =>
        if s.now.toNat % 1000 = 20 ∧ s.tb.checkAt ≠ some (s.now - 20) then
          tbCheckBad 0x7FFFFFFF (s.modTb (fun b => { b with checkAt := some (s.now - 20), chk := b.chk + BitVec.ofInt 64 drift }))
        else s
      | some (hitT, hitC) =>
        if s.now.toNat % 1000 ≠ 0 ∨ s.tb.checkAt = some s.now then s
        else
          let s := s.modTb (fun b => { b with checkAt := some s.now, chk := b.chk + BitVec.ofInt 64 drift })
          let v := s.now ^^^ hitT
          if ~~~s.now ^^^ hitC ≠ ~~~v then tbCheckBad 0x7FFFFFFF s
          else
            let d : Int := (s.tb.chk - v).toInt
            let s := s.modTb (fun b => { b with chkDiff := BitVec.ofInt 32 d })
            if 2 < d.natAbs then tbCheckBad (BitVec.ofInt 32 d).toNat s
            else s.modTb (fun b => { b with chkOk := true }))

/-! ## Reset sources -/

/-- FQ of the blocks that hold an uncleared fatal fault, in ms (R259). -/
def State.fatalQuiets (s : State) : List Nat :=
  (s.fr.toList.filter (fun r => r.insts.any (fun i => i.cls == .fatal))).map (fun r => r.fq.toNat)

/-- The largest FQ has elapsed since the most recent fatal fault. The period runs on SOSC (R411), which may be 3% fast, and ends
even without TB (R421). -/
def State.fatalQuietOver (s : State) : Bool :=
  !s.pcr.clk.tb || decide (800 * 100000 * s.fatalQuiets.foldl max 0 ≤ 824 * elapsed s.now s.pcr.fatalAt)

/-- FATAL_QUIET_EXPIRY (R259): a system reset when the largest FQ has elapsed since the most recent fatal fault, unless
some block with an uncleared fatal fault has FQ 0. -/
def execFatalQuietExpiry (s : State) : Host.Outcome State Fault Refusal :=
  let qs := s.fatalQuiets
  .next (
    if s.dev = .hold ∧ qs.all (fun q => q != 0) ∧ s.fatalQuietOver then
      assertReset .system 5 s
    else s)

/-- RESET_N_ASSERT (R418), on a tick that may see a journal write (R336); a low that goes on is one assertion. -/
def execResetNAssert (tearA tearB : Tear) (s : State) : Host.Outcome State Fault Refusal :=
  .next (if s.pcr.resetNLow then s else assertReset .system 2 ((tearJournals tearA tearB s).modPcr (fun p => { p with resetNLow := true })))

/-- RESET_N_RELEASE (R418): release begins, unless a power-on reset still runs. -/
def execResetNRelease (s : State) : Host.Outcome State Fault Refusal :=
  let s := s.modPcr (fun p => { p with resetNLow := false })
  .next (if s.pcr.asserted = some .powerOn then s else releaseReset s)

/-- SOSC_WDOG (R414): idle while a system or power-on reset is asserted and until TB is released. -/
def execSoscWdog (_side : Side) (s : State) : Host.Outcome State Fault Refusal :=
  .next (if s.pcr.clk.tb && s.records then assertReset .system 3 s else s)

/-- The start limit of 16,500,000 SOSC periods can have ended, which it does no sooner than 2.00 s after the release; TB is
released, and TB_NOW counts, up to 1 ms after it (R422, R423). -/
def State.startLimitOver (s : State) : Bool :=
  !s.pcr.clk.tb || decide ((if s.pcr.level = .core then 200000000 else 199900000) ≤ elapsed s.now s.pcr.startAt)

/-- START_LIMIT (R423): the start has failed with START_FAIL. -/
def execStartLimit (s : State) : Host.Outcome State Fault Refusal :=
  .next (if s.dev = .start ∧ s.startLimitOver then pcrFatal .a 0x0B 0 6 s else s)

/-- A refused write to PCR_RST: disarmed and counted (R419). -/
def rstRefuse (port : Side) (s : State) : State := countRefused port (s.modPcr (fun p => { p with armed := none }))

/-- PCR_RST is armed for a port and its 1 ms runs (R419). -/
def rstArmed (port : Side) (s : State) : Bool :=
  match s.pcr.armed with
  | some (p, t) => p == port && decide (elapsed s.now t ≤ 100000)
  | none => false

/-- PCR_RST_ARM (R419): the first write of the sequence, from the owning port while the register is not armed. -/
def pcrRstArm (port : Side) (s : State) : State :=
  if s.hp.owner = some port ∧ s.pcr.armed = none then s.modPcr (fun p => { p with armed := some (port, s.now) })
  else rstRefuse port s


/-- The reset of a key sequence is asserted on the tick after its second write (R419); a core reset finds the module in HOLD or
RECOVERY as a request there does (R259). -/
def assertDue (s : State) : State :=
  match s.pcr.rstDue with
  | none => s
  | some (p, lv) =>
    let s := s.modPcr (fun p => { p with rstDue := none })
    if lv = .core then (if s.dev = .hold ∨ s.dev = .recovery then rstRefuse p s else assertReset .core 6 s)
    else assertReset .system 7 s

/-- PCR_RST_RESET (R419, R259, R425): the second write. -/
def pcrRstReset (port : Side) (level : BitVec 2) (s : State) : State :=
  let off := s.modPcr (fun p => { p with armed := none })
  if !(rstArmed port s && s.hp.owner == some port) then rstRefuse port s
  else if level = 0b01 then
    if s.dev = .hold ∨ s.dev = .recovery then rstRefuse port s
    else off.modPcr (fun p => { p with rstDue := some (port, .core) })
  else if level = 0b10 then
    (if s.dev = .recovery then modBackup (fun h => { h with rcount := 0 }) off else off).modPcr
      (fun p => { p with rstDue := some (port, .system) })
  else recordAccess .pcr port 0x020 off


/-- PCR_RST_ARM_TIMEOUT (R419): disarmed, and counted for the port that armed it. -/
def execPcrRstArmTimeout (s : State) : Host.Outcome State Fault Refusal :=
  .next (
    match s.pcr.armed with
    | some (p, t) => if 100000 ≤ elapsed s.now t then rstRefuse p s else s
    | none => s)

/-! ## The identity step of a start (R388, R440, R450) -/

/-- A store that cannot be read at START (R93, R398), or whose STORE_FAIL is still present for want of a resynchronisation
(R397). -/
def Store.absent (x : Store) : Bool := !x.readable || x.st == .failed

/-- A store that cannot be read at START (R93, R398). -/
def storeUnreadable (i : Side) (s : State) : State := storeFail i 0x490000 s

/-- IDENTITY_READ: the life cycle and the FR_QUIET values come back; differing life cycles take the later (R440), and after
a power-on reset the strap moves DEVELOP and SPLIT (R450). -/
def execIdentityRead (s : State) : Host.Outcome State Fault Refusal :=
  .next (
    if s.dev = .start ∧ s.pcr.phase = .identity ∧ s.pcr.asserted = none ∧ strFirst s then
      let s := if (s.store .a).absent then storeUnreadable .a s else s
      let s := if (s.store .b).absent then storeUnreadable .b s else s
      if s.dev ≠ .start then s
      else
        let x := (s.store s.survivor).identity
        let y := (s.store .b).identity
        let s := s.modSt (fun c => { c with lc := x.lc })
        let s := if s.bothStores && x.lc != y.lc then
            (let new := if lcRank x.lc < lcRank y.lc then y.lc else x.lc
             let old := if lcRank x.lc < lcRank y.lc then x.lc else y.lc
             changeLc new (s.modSt (fun c => { c with lc := old })))
          else s
        let s := if s.pcr.level = .powerOn then
            (if s.st.lc = .develop ∧ s.st.strap then changeLc .split s
             else if s.st.lc = .split ∧ !s.st.strap then changeLc .develop s else s)
          else s
        let s := { s with fr := vmapIdx s.fr (fun i r =>
          match x.quiet[i] with | some (c, f) => { r with cq := c, fq := f } | none => r) }
        s.modPcr (fun p => { p with phase := .replay })
    else s)

end Sys2Proof.Machine
end

