-- ==== Sys2Proof/Machine/CheckUnits.lean ====
section
/-!
DEFINITION. Sys2Proof/Machine/CheckUnits.lean: the write-fed check-value channels (chapter 15).
-/
namespace Sys2Proof.Machine

/-- A waiting feed or register write takes effect (R367, R374). -/
def Cvw.apply (f : Feed) (x : Cvw) : Cvw :=
  match f with
  | .bytes bs => { x with val := bs.foldl (cvStep x.mode) x.val }
  | .ctl mode init => { x with mode := mode, val := if init || mode != x.mode then cvInit mode else x.val }
  | .val v => { x with val := if x.mode then (v.setWidth 16).setWidth 32 else v }

/-- Everything a list of waiting feeds does, in order. -/
def Cvw.applyAll (q : List (Feed × Tick)) (x : Cvw) : Cvw := q.foldl (fun x f => x.apply f.1) x

/-- An entry of the queue has been processed by the present tick. -/
def feedDone (now : Tick) (e : Feed × Tick) : Bool := decide (e.2.toNat ≤ now.toNat)

/-- The channel on the present tick: what has been processed is applied. -/
def Cvw.settle (now : Tick) (x : Cvw) : Cvw :=
  let done := x.queue.takeWhile (feedDone now)
  { (x.applyAll done) with queue := x.queue.drop done.length }

/-- A feed or a write of `ticks` ticks behind everything queued (R372). -/
def Cvw.push (now : Tick) (f : Feed) (ticks : Nat) (x : Cvw) : Cvw :=
  let x := x.settle now
  let from_ := match x.queue.getLast? with | some e => e.2 | none => now
  { x with queue := x.queue ++ [(f, from_ + BitVec.ofNat 64 ticks)] }.settle now

/-- The channel a register access finds. -/
def State.chan (s : State) (n : Fin 4) : Cvw := (s.cv.ch[n] : Cvw).settle s.now

/-- CV_STAT.HELD: a channel is held by an item or by its known-answer test (R375, R376, R378), CVW3 also by the verification of
a START once its queue is empty. -/
def State.chanHeld (s : State) (n : Fin 4) : Bool :=
  let c := s.chan n
  c.held.isSome || c.kat || (n.val == 3 && s.dev == .start && s.pcr.phase == .select && c.queue.isEmpty)

/-- A channel changed. -/
def State.modChan (s : State) (n : Fin 4) (f : Cvw → Cvw) : State := s.modCv (fun x => { x with ch := upd x.ch n f })

/-- An uncorrectable remainder of a page (R370, R380). -/
def remUncorr (p : Side) (page : Nat) (s : State) : State :=
  let s := s.modWport p (fun w => { w with remBad := if w.remBad.contains page then w.remBad else w.remBad ++ [page] })
  recordFault { block := .cv, cause := 4, cls := .corrected, scope := 7, item := 0, addr := page + 2147483648 * p.num, init := 4,
                acc := 0xC } s

end Sys2Proof.Machine
end

