-- ==== Sys2Proof/Machine/Rows.lean ====
section
/-!
DEFINITION. Sys2Proof/Machine/Rows.lean: the rows of a table (chapter 4): the fields of a row word (R69), the opcode map
(R97), what a row reads and writes (R98), and what each row computes.
-/
namespace Sys2Proof.Machine

/-! ## Fields (R69) -/

def rowOpc (r : Word64) : Nat := bitsOf r.toNat 63 56
def rowDst (r : Word64) : Nat := bitsOf r.toNat 55 43
def rowA (r : Word64) : Nat := bitsOf r.toNat 42 30
def rowB (r : Word64) : Nat := bitsOf r.toNat 29 17
def rowC (r : Word64) : Nat := bitsOf r.toNat 16 4
def rowFlags (r : Word64) : Nat := bitsOf r.toNat 3 0
def rowImm (r : Word64) : Nat := bitsOf r.toNat 16 0

/-! ## The opcode map (R95, R97) -/

/-- Operand roles (R95); `X` is an OSSD input value with its status word (R98, R105), `base` the table of PICK. -/
inductive Role where
  | none | B | N | W | S | D | P | C | Q | X | base
deriving DecidableEq, Repr

/-- What DST names (R97): nothing, one word, a state pair (R99), an output command word. -/
inductive DstKind where
  | none | one | pair | out
deriving DecidableEq, Repr

/-- What FLAGS or IMM hold. -/
inductive Extra where
  | none | preset | shift | capo | dir | policy | pick | mode1n | fresh
deriving DecidableEq, Repr

/-- One line of the opcode map. -/
structure OpSpec where
  dst : DstKind
  a : Role
  b : Role
  c : Role
  extra : Extra
deriving DecidableEq, Repr

/-- The opcode map of R97. -/
def opSpec (code : Nat) : Option OpSpec :=
  match code with
  | 0x00 => some ⟨.none, .none, .none, .none, .none⟩
  | 0x01 => some ⟨.none, .B, .none, .none, .none⟩
  | 0x10 | 0x11 | 0x12 => some ⟨.one, .B, .B, .none, .none⟩
  | 0x13 | 0x14 => some ⟨.one, .B, .N, .none, .none⟩
  | 0x15 => some ⟨.one, .B, .B, .B, .none⟩
  | 0x18 => some ⟨.one, .B, .W, .W, .none⟩
  | 0x19 => some ⟨.one, .S, .base, .none, .pick⟩
  | 0x20 => some ⟨.pair, .B, .B, .C, .preset⟩
  | 0x21 => some ⟨.pair, .B, .N, .C, .preset⟩
  | 0x22 => some ⟨.pair, .X, .X, .C, .preset⟩
  | 0x28 | 0x29 | 0x2A => some ⟨.one, .B, .D, .C, .none⟩
  | 0x30 | 0x31 => some ⟨.one, .B, .B, .none, .none⟩
  | 0x32 => some ⟨.pair, .B, .B, .Q, .capo⟩
  | 0x38 => some ⟨.pair, .B, .none, .none, .none⟩
  | 0x39 => some ⟨.pair, .N, .none, .none, .none⟩
  | 0x40 | 0x41 | 0x43 | 0x44 => some ⟨.one, .S, .S, .none, .none⟩
  | 0x42 => some ⟨.one, .S, .none, .none, .none⟩
  | 0x45 => some ⟨.one, .S, .S, .none, .shift⟩
  | 0x48 | 0x49 => some ⟨.one, .S, .S, .none, .none⟩
  | 0x4A => some ⟨.one, .W, .W, .none, .none⟩
  | 0x4B => some ⟨.one, .S, .S, .S, .none⟩
  | 0x50 => some ⟨.one, .P, .W, .none, .none⟩
  | 0x51 | 0x52 => some ⟨.one, .P, .S, .S, .none⟩
  | 0x53 => some ⟨.one, .P, .S, .none, .dir⟩
  | 0x54 | 0x55 => some ⟨.one, .P, .S, .C, .preset⟩
  | 0x58 => some ⟨.pair, .none, .none, .none, .mode1n⟩
  | 0x5C => some ⟨.one, .none, .none, .none, .fresh⟩
  | 0x60 => some ⟨.out, .B, .B, .none, .policy⟩
  | _ => none

/-- Preset times in µs (R103). -/
def presetUs (f : Nat) : Nat :=
  match f with
  | 0 => 1000 | 1 => 2000 | 2 => 5000 | 3 => 10000 | 4 => 20000 | 5 => 50000 | 6 => 100000 | 7 => 200000
  | 8 => 300000 | 9 => 500000 | 0xA => 750000 | 0xB => 1000000 | 0xC => 1500000 | 0xD => 2000000 | 0xE => 3000000
  | _ => 5000000

/-- The row has a state pair or an operand C, Q in OPC3: format T with OPC3 in use. -/
def OpSpec.cell (o : OpSpec) : Bool := o.c == .C

/-- Addresses a row writes (R98): DST, DST + 1 of a state pair, and its cell's command word. -/
def rowWrites (r : Word64) : List Nat :=
  match opSpec (rowOpc r) with
  | none => []
  | some o =>
    (match o.dst with | .none => [] | .one | .out => [rowDst r] | .pair => [rowDst r, rowDst r + 1]) ++
    (if o.cell then [rowC r] else [])

/-- Addresses one operand reads by its role. -/
def roleReads (ro : Role) (a : Nat) (imm : Nat) : List Nat :=
  match ro with
  | .none => []
  | .P => [a, a + 1, a + 3]
  | .C => [a, a - 0x0500 + 0x0200]
  | .Q => [a, a + 1]
  | .X => [a, a + 0x80]
  | .base => (List.range (imm % 64 + 1)).map (fun k => a + k)
  | _ => [a]

/-- Addresses a row reads (R98), the implicit words its description names included; `modes` are the mode entries. -/
def rowReads (modes : List (List Nat)) (r : Word64) : List Nat :=
  match opSpec (rowOpc r) with
  | none => []
  | some o =>
    let usesC := !(o.extra == .capo && rowFlags r / 2 % 2 == 1)
    let usesB := !(o.extra == .policy && rowFlags r % 4 == 0)
    roleReads o.a (rowA r) (rowImm r) ++ (if usesB then roleReads o.b (rowB r) (rowImm r) else []) ++
    (if usesC then roleReads o.c (rowC r) (rowImm r) else []) ++
    (match o.dst with | .pair => [rowDst r, rowDst r + 1] | _ => []) ++
    (match o.extra with
     | .capo => [0x0300]
     | .mode1n => (modes[rowImm r % 8]?).getD []
     | .fresh => [0x0E00 + 128 * (rowImm r % 4), 0x0E01 + 128 * (rowImm r % 4)]
     | _ => if rowOpc r = 0x55 then [rowA r + 8, rowA r + 9, rowA r + 11] else [])

/-! ## Reading an operand (R50, R95) -/

/-- A word in the boolean role: only 0xFFFF_FFFF is true. -/
def tru (w : Word) : Bool := w == 0xFFFFFFFF

/-- A word in the inverted role: only 0x0000_0000 gives true. -/
def inv (w : Word) : Bool := w == 0

/-- Reads of one word in a boolean or inverted role that are counted as malformed: one, or none. -/
def mal (w : Word) : Nat := if w = 0 ∨ w = 0xFFFFFFFF then 0 else 1

/-- A result that fits 32 bits, saturated (R114). -/
def sat32 (x : Int) : Word :=
  if x < -2147483648 then 0x80000000 else if 2147483647 < x then 0x7FFFFFFF else BitVec.ofInt 32 x

/-- |v| with saturation (R116). -/
def absSat (v : Int) : Int := if v < 0 then min (-v) 2147483647 else v

/-- What a row's execution yields: the words it writes, the word it presents (R97), its malformed reads, whether TRAP
fires, and whether OUT defers the dark tests of its output. -/
structure RowOut where
  writes : List (Nat × Word)
  word : Word
  malf : Nat
  trap : Bool := false
  defers : Bool := false
deriving DecidableEq, Repr

/-- One destination word. -/
def out1 (d : Nat) (w : Word) (m : Nat) : RowOut := { writes := [(d, w)], word := w, malf := m }

/-- A state pair. -/
def out2 (d : Nat) (w st : Word) (m : Nat) : RowOut := { writes := [(d, w), (d + 1, st)], word := w ^^^ st, malf := m }

/-- A destination word and a cell command. -/
def outC (d c : Nat) (w cmd : Word) (m : Nat) : RowOut := { writes := [(d, w), (c, cmd)], word := w ^^^ cmd, malf := m }

/-- A state pair and a cell command. -/
def out2C (d c : Nat) (w st cmd : Word) (m : Nat) : RowOut :=
  { writes := [(d, w), (d + 1, st), (c, cmd)], word := w ^^^ st ^^^ cmd, malf := m }

/-! ## Two-channel rows (R105 to R107) -/

/-- New state of R107 from the previous state, the channel truths and the cell's flag. -/
def twoChannel (st : Nat) (x y f : Bool) : Nat :=
  let off := !x && !y
  let on := x && y
  match st with
  | 1 => if off then 1 else if on then 2 else if f then 4 else 1
  | 2 => if off then 1 else if on then 2 else 3
  | 3 => if off then 1 else if on then (if f then 4 else 3) else if f then 4 else 3
  | 4 => if off then 1 else 4
  | _ => if off then 1 else 0

/-- EQV, ANTV and OSSDP from their channel truths (R106). -/
def twoChannelRow (rd : Nat → Word) (r : Word64) (x y : Bool) (m : Nat) : RowOut :=
  let d := rowDst r
  let sw := rd (d + 1)
  let fw := rd (rowC r - 0x0500 + 0x0200)
  let bad := if sw.toNat ≤ 4 then 0 else 1
  let st := twoChannel (if sw.toNat ≤ 4 then sw.toNat else 0) x y (tru fw)
  let pre : Word := BitVec.ofNat 32 (presetUs (rowFlags r))
  let cmd : Word := if st = 3 ∨ (st = 1 ∧ x ≠ y) then pre else 0
  out2C d (rowC r) (bw (st == 2)) (BitVec.ofNat 32 st) cmd (m + bad + mal fw)

/-! ## Timer rows (R109) -/

/-- A duration in µs lies in 1 to 100,000,000 (R95). -/
def durOk (w : Word) : Bool := decide (1 ≤ w.toNat) && decide (w.toNat ≤ 100000000)

/-- TON (0), TOF (1) and TP (2). -/
def timerRow (kind : Nat) (rd : Nat → Word) (r : Word64) : RowOut :=
  let aw := rd (rowA r)
  let dw := rd (rowB r)
  let fw := rd (rowC r - 0x0500 + 0x0200)
  let prev := rd (rowDst r)
  let cmdPrev := rd (rowC r)
  let a := tru aw
  let f := tru fw
  let m := mal aw + mal fw + (if kind = 1 then mal prev else 0)
  let go := outC (rowDst r) (rowC r)
  if !durOk dw then go 0 0 (m + 1)
  else
    match kind with
    | 0 => if a then go (bw f) dw m else go 0 0 m
    | 1 => if a then go (bw true) 0 m else go (bw (tru prev && !f)) dw m
    | _ =>
      if cmdPrev = 0 then (if a then go (bw true) dw m else go 0 0 m)
      else if f then go 0 (if a then cmdPrev else 0) m
      else go (bw true) cmdPrev m

/-! ## CAPO (R110 to R112) -/

/-- CAPO's state word (R111). -/
def capoState (pressed waitrel : Bool) (start : Nat) : Word := regOf [(start, 0, 30), (bit waitrel, 30, 1), (bit pressed, 31, 1)]

/-- The restart interlock. -/
def capoRow (rd : Nat → Word) (r : Word64) : RowOut :=
  let pw := rd (rowA r)
  let rw := rd (rowB r)
  let dw := rd (rowDst r)
  let sw := (rd (rowDst r + 1)).toNat
  let t := (rd 0x0300).toNat % 2 ^ 30
  let f0 := rowFlags r % 2 == 1
  let dflt := rowFlags r / 2 % 2 == 1
  let lo := if dflt then 50000 else (rd (rowC r)).toNat
  let hi := if dflt then 3000000 else (rd (rowC r + 1)).toNat
  let okB := decide (lo ≤ 9999999) && decide (lo < hi) && decide (hi ≤ 10000000)
  let m := mal pw + mal rw + mal dw + (if okB then 0 else 1)
  let p := tru pw
  let rin := tru rw
  let pressed := bitOf sw 31
  let waitrel := bitOf sw 30
  let start := sw % 2 ^ 30
  let d := (t + 2 ^ 30 - start) % 2 ^ 30
  let (accept, st) : Bool × Word :=
    if mal rw = 1 then (false, capoState false true 0)
    else if !p then (false, capoState false rin 0)
    else if waitrel then (false, capoState pressed rin start)
    else if !pressed then (false, if rin then capoState true waitrel t else capoState pressed waitrel start)
    else if !f0 then
      (if !rin then (false, capoState false waitrel 0)
       else if 100 * lo ≤ d then (true, capoState false true 0)
       else (false, capoState pressed waitrel start))
    else if rin && decide (100 * hi < d) then (false, capoState false true 0)
    else if !rin then (decide (100 * lo ≤ d) && decide (d ≤ 100 * hi), capoState false waitrel 0)
    else (false, capoState pressed waitrel start)
  out2 (rowDst r) (bw (p && (tru dw || (accept && okB)))) st m

/-! ## Motion rows (R115 to R117) -/

/-- Position, speed and VALID of the path at an address (R115). -/
def pathPos (rd : Nat → Word) (a : Nat) : Int := (rd a).toInt
def pathSpeed (rd : Nat → Word) (a : Nat) : Int := (rd (a + 1)).toInt
def pathValid (rd : Nat → Word) (a : Nat) : Bool := (rd (a + 3)).getLsbD 0

/-- LIMS. An execution with both L and H outside their ranges counts one (DESIGN CHOICE, log 126: R96 does not say whether
two such words count as two). -/
def limsRow (rd : Nat → Word) (r : Word64) : RowOut :=
  let l := (rd (rowB r)).toInt
  let h := (rd (rowC r)).toInt
  let prev := rd (rowDst r)
  let ok := decide (0 ≤ l) && decide (0 ≤ h) && decide (h ≤ l)
  let v := absSat (pathSpeed rd (rowA r))
  let res := ok && pathValid rd (rowA r) && (if tru prev then decide (v ≤ l) else decide (v ≤ l - h))
  out1 (rowDst r) (bw res) (mal prev + if ok then 0 else 1)

/-- LIMP. -/
def limpRow (rd : Nat → Word) (r : Word64) : RowOut :=
  let lo := (rd (rowB r)).toInt
  let hi := (rd (rowC r)).toInt
  let pos := pathPos rd (rowA r)
  let ok := decide (lo ≤ hi)
  out1 (rowDst r) (bw (ok && pathValid rd (rowA r) && decide (lo ≤ pos) && decide (pos ≤ hi))) (if ok then 0 else 1)

/-- DIR. -/
def dirRow (rd : Nat → Word) (r : Word64) : RowOut :=
  let tol := (rd (rowB r)).toInt
  let v := pathSpeed rd (rowA r)
  let ok := decide (0 ≤ tol)
  let dir := if rowFlags r % 2 = 0 then decide (-tol ≤ v) else decide (v ≤ tol)
  out1 (rowDst r) (bw (ok && pathValid rd (rowA r) && dir)) (if ok then 0 else 1)

/-- STILL. -/
def stillRow (rd : Nat → Word) (r : Word64) : RowOut :=
  let tol := (rd (rowB r)).toInt
  let fw := rd (rowC r - 0x0500 + 0x0200)
  let ok := decide (0 ≤ tol)
  let q := ok && pathValid rd (rowA r) && decide (absSat (pathSpeed rd (rowA r)) ≤ tol)
  let m := mal fw + if ok then 0 else 1
  if q then outC (rowDst r) (rowC r) (bw (tru fw)) (BitVec.ofNat 32 (presetUs (rowFlags r))) m
  else outC (rowDst r) (rowC r) 0 0 m

/-- XCHK, with the scale factor K of the axis (R117). -/
def xchkRow (rd : Nat → Word) (t : Table) (r : Word64) : RowOut :=
  let a := rowA r
  let tol := (rd (rowB r)).toInt
  let fw := rd (rowC r - 0x0500 + 0x0200)
  let ok := decide (0 ≤ tol)
  let m := mal fw + if ok then 0 else 1
  let k : Word := if (t.axes[(a - 0x0800) / 16]?.getD default).mode = 1 then 1024 else 1
  let d : Int := ((rd a - k * rd (a + 8)).toInt.natAbs : Nat)
  if !(ok && pathValid rd a && pathValid rd (a + 8)) then outC (rowDst r) (rowC r) 0 0 m
  else if tol < d then outC (rowDst r) (rowC r) (bw (!tru fw)) (BitVec.ofNat 32 (presetUs (rowFlags r))) m
  else outC (rowDst r) (rowC r) (bw true) 0 m

/-! ## MODE1N and FRESH (R118, R119) -/

/-- Indices of the positions that read true. -/
def truePositions (rd : Nat → Word) : Nat → List Nat → List Nat
  | _, [] => []
  | k, p :: ps => (if tru (rd p) then [k] else []) ++ truePositions rd (k + 1) ps

/-- MODE1N. A malformed value at a position counts as a malformed read (DESIGN CHOICE, log 128: the list of R50 does not
name these words). -/
def mode1nRow (rd : Nat → Word) (t : Table) (r : Word64) : RowOut :=
  let ps := (t.modes[rowImm r % 8]?).getD []
  let m := (ps.map (fun p => mal (rd p))).sum
  match truePositions rd 0 ps with
  | [k] => out2 (rowDst r) (bw true) (BitVec.ofNat 32 k) m
  | _ => out2 (rowDst r) 0 0xFF m

/-- FRESH. -/
def freshRow (rd : Nat → Word) (r : Word64) : RowOut :=
  let b := 0x0E00 + 128 * (rowImm r % 4)
  let age := rowImm r / 4
  out1 (rowDst r) (bw ((rd b).getLsbD 0 && decide ((rd (b + 1)).toNat ≤ age))) 0

/-! ## Every row (R104, R114, R120, R121) -/

/-- RISE and FALL (R104): s is the truth held in DST + 1. A malformed previous DST, which no result depends on, is not counted
here, nor in EQV, ANTV, OSSDP and MODE1N (DESIGN CHOICE, log 127: R50 and R99 leave it open). -/
def edgeRow (rd : Nat → Word) (r : Word64) (fall : Bool) : RowOut :=
  let aw := rd (rowA r)
  let sw := rd (rowDst r + 1)
  let s := tru sw
  let m := mal aw + mal sw
  if fall then (let n := inv aw; out2 (rowDst r) (bw (n && s)) (bw (!n)) m)
  else (let a := tru aw; out2 (rowDst r) (bw (a && !s)) (bw a) m)

/-- PICK (R104). -/
def pickRow (rd : Nat → Word) (r : Word64) : RowOut :=
  let i := (rd (rowA r)).toInt
  let n := rowImm r % 64
  if 0 ≤ i ∧ i < (n : Int) then out1 (rowDst r) (rd (rowB r + i.toNat)) 0
  else out1 (rowDst r) (rd (rowB r + n)) 1

/-- What a row does, from the operand words as they stand before its rank (R31); none for an unassigned opcode. -/
def rowEval (rd : Nat → Word) (t : Table) (r : Word64) : Option RowOut :=
  let d := rowDst r
  let aw := rd (rowA r)
  let bwd := rd (rowB r)
  let cw := rd (rowC r)
  let a := tru aw
  let b := tru bwd
  let s := aw.toInt
  let u := bwd.toInt
  let m2 := mal aw + mal bwd
  match rowOpc r with
  | 0x00 => some { writes := [], word := 0xA5A55A5A, malf := 0 }
  | 0x01 => some { writes := [], word := bw a, malf := mal aw, trap := a }
  | 0x10 => some (out1 d (bw (a && b)) m2)
  | 0x11 => some (out1 d (bw (a || b)) m2)
  | 0x12 => some (out1 d (bw (a != b)) m2)
  | 0x13 => some (out1 d (bw (a && inv bwd)) m2)
  | 0x14 => some (out1 d (bw (a || inv bwd)) m2)
  | 0x15 => let c := tru cw; some (out1 d (bw ((a && b) || (a && c) || (b && c))) (m2 + mal cw))
  | 0x18 => some (out1 d (if a then bwd else cw) (mal aw))
  | 0x19 => some (pickRow rd r)
  | 0x20 => some (twoChannelRow rd r a b m2)
  | 0x21 => some (twoChannelRow rd r a (inv bwd) m2)
  | 0x22 => some (twoChannelRow rd r (a && (rd (rowA r + 0x80)).getLsbD 0) (b && (rd (rowB r + 0x80)).getLsbD 0) m2)
  | 0x28 => some (timerRow 0 rd r)
  | 0x29 => some (timerRow 1 rd r)
  | 0x2A => some (timerRow 2 rd r)
  | 0x30 => let p := rd d; some (out1 d (bw (a || (!b && tru p))) (m2 + mal p))
  | 0x31 => let p := rd d; some (out1 d (bw (!b && (a || tru p))) (m2 + mal p))
  | 0x32 => some (capoRow rd r)
  | 0x38 => some (edgeRow rd r false)
  | 0x39 => some (edgeRow rd r true)
  | 0x40 => some (out1 d (sat32 (s + u)) 0)
  | 0x41 => some (out1 d (sat32 (s - u)) 0)
  | 0x42 => some (out1 d (sat32 (if s < 0 then -s else s)) 0)
  | 0x43 => some (out1 d (if s ≤ u then aw else bwd) 0)
  | 0x44 => some (out1 d (if u ≤ s then aw else bwd) 0)
  | 0x45 => some (out1 d (sat32 ((s * (bwd.extractLsb' 0 16).toInt) / 2 ^ rowFlags r)) 0)
  | 0x48 => some (out1 d (bw (decide (s < u))) 0)
  | 0x49 => some (out1 d (bw (decide (s ≤ u))) 0)
  | 0x4A => some (out1 d (bw (aw == bwd)) 0)
  | 0x4B =>
    let hi := cw.toInt
    some (out1 d (bw (decide (u ≤ s) && decide (s ≤ hi))) (if u ≤ hi then 0 else 1))
  | 0x50 => some (out1 d (if pathValid rd (rowA r) then aw - bwd else 0x7FFFFFFF) 0)
  | 0x51 => some (limsRow rd r)
  | 0x52 => some (limpRow rd r)
  | 0x53 => some (dirRow rd r)
  | 0x54 => some (stillRow rd r)
  | 0x55 => some (xchkRow rd t r)
  | 0x58 => some (mode1nRow rd t r)
  | 0x5C => some (freshRow rd r)
  | 0x60 =>
    let pol := rowFlags r % 4
    some { writes := [(d, bw a)], word := bw a, malf := mal aw + (if pol = 1 then mal bwd else 0),
           defers := pol == 1 && b }
  | _ => none

end Sys2Proof.Machine
end

