-- ==== Sys2Proof/Machine/Image.lean ====
section
/-!
DEFINITION. Sys2Proof/Machine/Image.lean: the table image (chapter 3): its header and sections as read from a slot, the
check values of R67, and verification in the order of R88.
-/
namespace Sys2Proof.Machine

/-- An image as the bytes of a slot by offset. -/
abbrev Bytes := Nat → Nat

/-- The bytes of a slot as an image. -/
def imageOf (m : Mem 8) : Bytes := fun a => (mget 0 m a).toNat

def u16 (b : Bytes) (a : Nat) : Nat := b a + 256 * b (a + 1)
def u32 (b : Bytes) (a : Nat) : Nat := u16 b a + 65536 * u16 b (a + 2)
def u64 (b : Bytes) (a : Nat) : Nat := u32 b a + 4294967296 * u32 b (a + 4)

/-- `n` bytes of an image. -/
def bytesAt (b : Bytes) (a n : Nat) : List Nat := (List.range n).map (fun k => b (a + k))

/-! ## Header and sections (R64, R65) -/

def imageLen (b : Bytes) : Nat := u32 b 0x008
def hdrRanks (b : Bytes) : Nat := u16 b 0x00E
def hdrRows (b : Bytes) : Nat := u16 b 0x00C
def offTerm (b : Bytes) : Nat := u32 b 0x02C
def offZone (b : Bytes) : Nat := u32 b 0x034
def offLink (b : Bytes) : Nat := u32 b 0x03C

/-- Row i of the image (R69). -/
def imgRow (b : Bytes) (i : Nat) : Word64 := BitVec.ofNat 64 (u64 b (0x100 + 8 * i))

/-- Every row, with its index. -/
def imgRows (b : Bytes) : List (Nat × Word64) := (List.range (hdrRows b)).map (fun i => (i, imgRow b i))

/-! ## Entries (R78 to R81, R85, R87) -/

def inputEntry (w : Nat) : InputCfg :=
  { mode := bitsOf w 1 0, filter := bitsOf w 15 4, source := bitsOf w 21 16, pulsed := bitOf w 22, partner := bitsOf w 29 23,
    paired := bitOf w 30 }

/-- Offset of the entry of source s, of output k, of axis a in the image. -/
def strumOff (b : Bytes) (s : Nat) : Nat := offTerm b + 0x200 + 40 * s
def outputOff (b : Bytes) (k : Nat) : Nat := offTerm b + 0x700 + 8 * k
def axisOff (b : Bytes) (a : Nat) : Nat := offTerm b + 0xB80 + 16 * a

def strumEntry (b : Bytes) (o : Nat) : StrumCfg :=
  { enable := bitOf (u32 b o) 21, period := bitsOf (u32 b o) 16 0, phase := bitsOf (u32 b (o + 4)) 16 0,
    dips := (List.range (min 8 (bitsOf (u32 b o) 20 17))).map (fun k =>
      let w := u32 b (o + 8 + 4 * k)
      (bitsOf w 16 0, bitsOf w 25 17)) }

def outputEntry (b : Bytes) (o : Nat) : OutputCfg :=
  let w := u32 b o
  let x := u32 b (o + 4)
  { enable := bitOf w 0, dark := bitsOf w 9 1, darkInt := bitsOf w 23 10, load := bitsOf w 25 24, iMin := bitsOf x 11 0,
    iMax := bitsOf x 27 16 }

def axisEntry (b : Bytes) (o : Nat) : AxisCfg :=
  { mode := bitsOf (u32 b o) 1 0, invert := bitOf (u32 b o) 2, pitchNm := u32 b (o + 4), perRev := u32 b (o + 8),
    vlMin := u16 b (o + 12), vlMax := u16 b (o + 14) }

def imgInput (b : Bytes) (i : Nat) : InputCfg := inputEntry (u32 b (offTerm b + 4 * i))
def imgStrum (b : Bytes) (s : Nat) : StrumCfg := strumEntry b (strumOff b s)
def imgOutput (b : Bytes) (k : Nat) : OutputCfg := outputEntry b (outputOff b k)
def imgAxis (b : Bytes) (a : Nat) : AxisCfg := axisEntry b (axisOff b a)

def nZones (b : Bytes) : Nat := u16 b (offZone b)
def nModes (b : Bytes) : Nat := u16 b (offZone b + 2)
def zoneOff (b : Bytes) (z : Nat) : Nat := offZone b + 4 + 16 * z
def modeOff (b : Bytes) (m : Nat) : Nat := offZone b + 4 + 16 * (nZones b + m)

def imgZone (b : Bytes) (z : Nat) : ZoneCfg :=
  let o := zoneOff b z
  { axes := BitVec.ofNat 64 (u64 b o), aux := BitVec.ofNat 16 (u16 b (o + 8)), state := u16 b (o + 10) }

def imgMode (b : Bytes) (m : Nat) : List Nat := bytesAt b (modeOff b m + 2) (min 8 (b (modeOff b m)))

def imgModes (b : Bytes) : List (List Nat) := (List.range (nModes b)).map (imgMode b)

def partnerOff (b : Bytes) (n : Nat) : Nat := offLink b + 32 * n

def imgPartner (b : Bytes) (n : Nat) : PartnerCfg :=
  let o := partnerOff b n
  { type := b o, localAddr := b (o + 1), peerAddr := b (o + 2), detach := bitOf (b (o + 3)) 0, cycle := u16 b (o + 4),
    wdog := b (o + 6), dwin := b (o + 7), peerId := u32 b (o + 8), accept := u16 b (o + 12),
    subst := (bytesAt b (o + 16) 16).map (fun x => BitVec.ofNat 8 x) }

/-! ## Check values (R67) -/

/-- The covered bytes of a slot, in ascending order: a LEN beyond the slot's 256 KiB covers the slot. -/
def covered (m : Mem 8) : List Byte :=
  let n := min (imageLen (imageOf m)) 0x40000
  mslice 0 m 0 0x70 ++ mslice 0 m 0x100 (n - 0x100)

/-- CV_A and CV_B computed over a slot. -/
def cvA (m : Mem 8) : Word := crc32c (covered m)
def cvB (m : Mem 8) : Word := crc32c ((covered m).reverse.map (fun x => ~~~x))

/-! ## Verification (R88) -/

/-- The first failing one of a list of checks: each gives the offset at fault. -/
def firstBad' : List (Bool × Nat) → Option Nat
  | [] => none
  | (bad, off) :: t => if bad then some off else firstBad' t

/-- The first `some` of a function over a list. -/
def firstOf {α : Type} (f : α → Option Nat) : List α → Option Nat
  | [] => none
  | x :: xs => match f x with | some o => some o | none => firstOf f xs

/-- A word of operand memory that is defined (R35, R71, R73, R319, R355). -/
def definedWord (a : Nat) : Bool :=
  decide (a < 0x1B0) || (decide (0x200 ≤ a) && decide (a < 0x305)) || (decide (0x308 ≤ a) && decide (a < 0x30C)) ||
  (decide (0x400 ≤ a) && decide (a < 0x490)) || (decide (0x500 ≤ a) && decide (a < 0x640)) ||
  (decide (0x800 ≤ a) && decide (a < 0xC00)) ||
  (decide (0xC00 ≤ a) && decide (a < 0xE00) && (decide (a % 256 < 2) || (decide (4 ≤ a % 256) && decide (a % 256 < 0x40)))) ||
  (decide (0xE00 ≤ a) && decide (a < 0x1000) && (decide (a % 128 < 0xC) || decide (0x30 ≤ a % 128))) ||
  (decide (0x1000 ≤ a) && decide (a < 0x2000))

/-- A word a row may write: a defined word of the command image or a working word (R71). -/
def writableWord (a : Nat) : Bool := definedWord a && ((decide (0x400 ≤ a) && decide (a < 0x800)) || decide (0x1000 ≤ a))

/-- Fields an opcode uses, and its unused ones at 0 (R70), its FLAGS and IMM within their values (R98). -/
def fieldsBad (o : OpSpec) (r : Word64) : Bool :=
  let formatI := o.extra == .pick || o.extra == .mode1n || o.extra == .fresh
  let f := rowFlags r
  (o.dst == .none && rowDst r != 0) || (o.a == .none && rowA r != 0) || (o.b == .none && rowB r != 0) ||
  (!formatI && o.c == .none && rowC r != 0) ||
  (match o.extra with
   | .none => f != 0
   | .preset | .shift => false
   | .capo => decide (4 ≤ f) || (f / 2 % 2 == 1 && rowC r != 0)
   | .dir => decide (2 ≤ f)
   | .policy => decide (2 ≤ f) || (f == 0 && rowB r != 0)
   | .pick => decide (64 ≤ rowImm r) || rowImm r == 0 || decide (32 < rowImm r)
   | .mode1n => decide (8 ≤ rowImm r)
   | .fresh => rowImm r / 4 == 0)

/-- The operands of a row lie where their roles need them (R71, R98); a mode entry's positions are judged under R86. -/
def operandsBad (b : Bytes) (o : OpSpec) (r : Word64) : Bool :=
  let pathBad := o.a == .P && (!(decide (0x800 ≤ rowA r) && decide (rowA r ≤ 0xBF8)) ||
    rowA r % (if rowOpc r = 0x55 then 16 else 8) != 0)
  let cellBad := o.c == .C && !(decide (0x500 ≤ rowC r) && decide (rowC r ≤ 0x5FF))
  let x := imgInput b (rowA r)
  let y := imgInput b (rowB r)
  let ossdBad := o.a == .X && !(decide (rowA r ≤ 0x7F) && decide (rowB r ≤ 0x7F) && x.mode == 3 && y.mode == 3 &&
    x.paired && y.paired && x.partner == rowB r && y.partner == rowA r)
  let dstBad := match o.dst with
    | .none => false
    | .one => !writableWord (rowDst r) || (decide (0x400 ≤ rowDst r) && decide (rowDst r ≤ 0x48F))
    | .pair => !(decide (0x1000 ≤ rowDst r) && decide (rowDst r ≤ 0x1FFE))
    | .out => !(decide (0x400 ≤ rowDst r) && decide (rowDst r ≤ 0x48F))
  pathBad || cellBad || ossdBad || dstBad || ((rowReads [] r).any (fun a => !definedWord a))

/-- OPERAND (R70, R71, R98): the first row at fault, or the later of two OUT rows of one word. -/
def operandCheck (b : Bytes) : Option Nat :=
  let rows := imgRows b
  firstOf (fun (ir : Nat × Word64) =>
    match opSpec (rowOpc ir.2) with
    | none => none
    | some o =>
      let twice := o.dst == .out && (rows.take ir.1).any (fun x => rowOpc x.2 == 0x60 && rowDst x.2 == rowDst ir.2)
      if fieldsBad o ir.2 || operandsBad b o ir.2 || twice then some (0x100 + 8 * ir.1) else none) rows

/-- RANK_DEP (R30): the later of two rows of one rank of which one touches a word the other writes. -/
def rankDepCheck (b : Bytes) : Option Nat :=
  let modes := imgModes b
  let rows := imgRows b
  firstOf (fun (ir : Nat × Word64) =>
    let w := rowWrites ir.2
    let rd := rowReads modes ir.2
    let mates := (rows.take ir.1).drop (ir.1 / 16 * 16)
    if mates.any (fun x =>
        let xw := rowWrites x.2
        xw.any (fun a => w.contains a || rd.contains a) || (rowReads modes x.2).any (fun a => w.contains a))
    then some (0x100 + 8 * ir.1) else none) rows

/-- TIMER_CELL (R74). -/
def timerCellCheck (b : Bytes) : Option Nat :=
  let rows := imgRows b
  let names := fun (r : Word64) => match opSpec (rowOpc r) with | some o => if o.cell then some (rowC r) else none | none => none
  firstOf (fun (ir : Nat × Word64) =>
    let dstCell := match opSpec (rowOpc ir.2) with
      | some o => o.dst == .one && decide (0x500 ≤ rowDst ir.2) && decide (rowDst ir.2 ≤ 0x5FF)
      | none => false
    let twice := match names ir.2 with
      | some c => (rows.take ir.1).any (fun x => names x.2 == some c)
      | none => false
    if dstCell || twice then some (0x100 + 8 * ir.1) else none) rows

/-- Words of state pairs (R99). -/
def pairWords (b : Bytes) : List Nat :=
  (imgRows b).foldr (fun ir l => match opSpec (rowOpc ir.2) with
    | some o => if o.dst == .pair then rowDst ir.2 :: (rowDst ir.2 + 1) :: l else l
    | none => l) []

/-- INIT (R76, R99): the offset at fault, or the words given; `fuel` bounds the records. A word given by two records, and a
word of a state pair given a value that is not 0, are at fault by the offset of the word itself in the later record (DESIGN
CHOICE, log 124: R88 speaks of rows, fields and entries only). -/
def initScan (b : Bytes) (pairs : List Nat) (stop : Nat) : Nat → Nat → List (Nat × Word) → Nat ⊕ List (Nat × Word)
  | 0, p, _ => .inl p
  | fuel + 1, p, acc =>
    if stop < p + 4 then .inl p
    else
      let start := u16 b p
      let count := u16 b (p + 2)
      if count = 0 then (if p + 4 = stop then .inr acc else .inl (p + 4))
      else if start < 0x1000 ∨ 0x2000 < start + count ∨ stop < p + 4 + 4 * count then .inl p
      else
        let ws := (List.range count).map (fun k => (start + k, BitVec.ofNat 32 (u32 b (p + 4 + 4 * k)), p + 4 + 4 * k))
        match ws.find? (fun x => acc.any (fun y => y.1 == x.1) || (pairs.contains x.1 && x.2.1 != 0)) with
        | some x => .inl x.2.2
        | none => initScan b pairs stop fuel (p + 4 + 4 * count) (acc ++ ws.map (fun x => (x.1, x.2.1)))

/-- The initial values section scanned. -/
def initOf (b : Bytes) : Nat ⊕ List (Nat × Word) :=
  initScan b (pairWords b) (u32 b 0x024 + u32 b 0x028) (u32 b 0x028 + 1) (u32 b 0x024) []

/-- Strum periods in µs (R148). -/
def strumPeriods : List Nat := [1000, 2000, 4000, 5000, 10000, 20000, 25000, 50000, 100000]

/-- Two dip windows, each widened by 2 µs on both sides, that recur with their periods overlap somewhere (R83, R150). -/
def winClash (g x lx y ly : Nat) : Bool :=
  let d := (y + g - x % g) % g
  decide (d < lx + 4) || decide (g - d < ly + 4)

/-- Some dips of two sources overlap. -/
def dipsClash (s t : StrumCfg) : Bool :=
  let g := Nat.gcd s.period t.period
  s.dips.any (fun x => t.dips.any (fun y => winClash g (s.phase + x.1) x.2 (t.phase + y.1) y.2))

/-- Every dip keeps 100 µs from the one before it, and starts after it (R150). -/
def dipsOrdered : List (Nat × Nat) → Bool
  | (a, w) :: (b, v) :: t => decide (a < b) && decide (a + w + 100 ≤ b) && dipsOrdered ((b, v) :: t)
  | _ => true

/-- The offset at fault in an input entry on its own: its first byte if it is not in use, else that of the field (R78, R82,
R88). -/
def inputBad (b : Bytes) (i : Nat) : Option Nat :=
  let o := offTerm b + 4 * i
  let w := u32 b o
  let c := inputEntry w
  firstBad' [((c.mode == 0 && w != 0) || bitsOf w 3 2 != 0 || decide (2000 < c.filter), o),
             (decide (31 < c.source) || (c.pulsed && c.mode == 3), o + 2), (bitOf w 31, o + 3)]

/-- A pulsed input names the source of this strum entry, which is not enabled or has no dips: the later of the two entries
(R82, R88, R150). -/
def strumUnfit (b : Bytes) (s : Nat) : Bool :=
  let c := imgStrum b s
  (!c.enable || c.dips.isEmpty) &&
  (List.range 128).any (fun i => let x := imgInput b i; x.mode != 0 && x.pulsed && x.source == s)

/-- The offset at fault in a strum entry (R79, R148, R150): that of the field, in image order. -/
def strumBad (b : Bytes) (s : Nat) : Option Nat :=
  let o := strumOff b s
  let c := strumEntry b o
  let w0 := u32 b o
  let n := bitsOf w0 20 17
  if !c.enable then (if (bytesAt b o 40).any (· != 0) then some o else none)
  else
    let dip := fun (k : Nat) =>
      let w := u32 b (o + 8 + 4 * k)
      let p := o + 8 + 4 * k
      if k < n then
        [(!dipsOrdered (c.dips.take (k + 1)) || decide (c.period < bitsOf w 16 0 + bitsOf w 25 17), p),
         (bitsOf w 25 17 == 0 || decide (500 < bitsOf w 25 17), p + 2), (bitsOf w 31 26 != 0, p + 3)]
      else [(w != 0, p)]
    let lastEnd := (c.dips.getLast?.map (fun d => d.1 + d.2)).getD 0
    let firstStart := (c.dips.head?.map (fun d => d.1)).getD 0
    firstBad' ([(!strumPeriods.contains c.period, o), (decide (8 < n) || bitsOf w0 31 22 != 0, o + 2),
                (decide (c.period ≤ c.phase), o + 4), (bitsOf (u32 b (o + 4)) 31 17 != 0, o + 6)] ++
               (List.range 8).flatMap dip ++
               [(!c.dips.isEmpty && decide (firstStart + c.period < lastEnd + 100), o + 4 + 4 * n)])

/-- The offset at fault in an output entry on its own (R80): that of the field, in image order. -/
def outputBad (b : Bytes) (k : Nat) : Option Nat :=
  let o := outputOff b k
  let c := outputEntry b o
  let w := u32 b o
  let x := u32 b (o + 4)
  if !c.enable then (if w != 0 || x != 0 then some o else none)
  else
    let aux := decide (128 ≤ k)
    firstBad' [(c.dark == 1 || decide (500 < c.dark), o),
               (if c.dark = 0 then c.darkInt != 0 else decide (c.darkInt < 10) || decide (10000 < c.darkInt), o + 1),
               (bitsOf w 31 26 != 0 || (if aux then c.load == 3 else c.load != 0), o + 3),
               (if aux then decide (800 < c.iMin) else c.iMin != 0, o + 4), (bitsOf x 15 12 != 0, o + 5),
               (if aux then decide (c.iMax ≤ c.iMin) || decide (800 < c.iMax) else c.iMax != 0, o + 6),
               (bitsOf x 31 28 != 0, o + 7)]

/-- Quarter of an output by its number. -/
def quarterOf (k : Nat) : Nat := if k < 128 then k / 32 else (k - 128) / 4

/-- The sum of dark-test shares of quarter `q` up to output `k`, as a fraction (R214): numerator and denominator. -/
def darkShare (b : Bytes) (q : Nat) : List Nat → Nat × Nat → Nat × Nat
  | [], f => f
  | k :: ks, f =>
    let c := imgOutput b k
    if quarterOf k = q ∧ c.enable ∧ c.dark ≠ 0 then
      darkShare b q ks (f.1 * (1000 * c.darkInt) + (c.dark + 50) * f.2, f.2 * (1000 * c.darkInt))
    else darkShare b q ks f

/-- The dark-test budget of an output's quarter is exceeded by the outputs up to it. -/
def darkOver (b : Bytes) (k : Nat) : Bool :=
  let c := imgOutput b k
  c.enable && c.dark != 0 &&
  (let f := darkShare b (quarterOf k) (List.range (k + 1)) (0, 1)
   decide (f.2 < 2 * f.1))

/-- The offset at fault in an axis entry (R81, R82): that of the field, in image order. PITCH_NM and PER_REV both 0, or both
not 0, are at fault by the first byte of the former (DESIGN CHOICE, log 125: R88 does not say which of the two). -/
def axisBad (b : Bytes) (a : Nat) : Option Nat :=
  let o := axisOff b a
  let c := axisEntry b o
  let w := u32 b o
  if c.mode = 0 then (if (bytesAt b o 16).any (· != 0) then some o else none)
  else
    firstBad' [(c.mode == 3 || bitsOf w 31 3 != 0, o),
               ((c.pitchNm == 0) == (c.perRev == 0), o + 4),
               (if c.mode = 2 then c.vlMin != 0 else decide (c.vlMin < 300) || decide (c.vlMax ≤ c.vlMin), o + 12),
               (if c.mode = 2 then c.vlMax != 0 else decide (1400 < c.vlMax), o + 14)]

/-- TERMINAL (R82, R148, R150, R214), in image order. -/
def terminalCheck (b : Bytes) : Option Nat :=
  (firstOf (inputBad b) (List.range 128)) <|>
  (firstOf (fun s => (if strumUnfit b s then some (strumOff b s) else none) <|> strumBad b s <|>
    (if (imgStrum b s).enable && (List.range s).any (fun t => (imgStrum b t).enable && dipsClash (imgStrum b t) (imgStrum b s))
     then some (strumOff b s) else none)) (List.range 32)) <|>
  (firstOf (fun k => outputBad b k <|> (if darkOver b k then some (outputOff b k) else none)) (List.range 144)) <|>
  (firstOf (fun a => axisBad b a) (List.range 64))

/-- Input `i` breaks R83 with the partner it names. -/
def pairBad (b : Bytes) (i : Nat) : Bool :=
  let c := imgInput b i
  let p := imgInput b c.partner
  c.paired &&
  (c.partner == i || !(p.paired && p.partner == i) ||
   (c.pulsed && p.pulsed && (c.source == p.source || (imgStrum b c.source).period != (imgStrum b p.source).period ||
     dipsClash (imgStrum b c.source) (imgStrum b p.source))))

/-- PAIRING (R83, R88): the first entry in image order that completes a pair at fault, as its later one. -/
def pairingCheck (b : Bytes) : Option Nat :=
  firstOf (fun j =>
    if (List.range (j + 1)).any (fun i => pairBad b i && max i (imgInput b i).partner == j) then some (offTerm b + 4 * j)
    else none)
    (List.range 128)

/-- A row reads or writes a word of a terminal or link that is not in use (R84). -/
def refBad (b : Bytes) (modes : List (List Nat)) (r : Word64) : Bool :=
  let outWord := fun (a : Nat) =>
    (decide (0x100 ≤ a) && decide (a < 0x190) && !(imgOutput b (a - 0x100)).enable) ||
    (decide (0x400 ≤ a) && decide (a < 0x490) && !(imgOutput b (a - 0x400)).enable)
  (rowReads modes r).any (fun a =>
    outWord a || (decide (a < 0x100) && (imgInput b (a % 128)).mode == 0) ||
    (decide (0x800 ≤ a) && decide (a < 0xC00) && (imgAxis b ((a - 0x800) / 16)).mode == 0) ||
    (decide (0xE00 ≤ a) && decide (a < 0x1000) && (imgPartner b ((a - 0xE00) / 128)).type == 0)) ||
  (rowWrites r).any (fun a =>
    outWord a || (decide (0x600 ≤ a) && decide (a < 0x640) && (imgPartner b ((a - 0x600) / 16)).type == 0))

/-- TERMINAL_REF (R84). -/
def terminalRefCheck (b : Bytes) : Option Nat :=
  let modes := imgModes b
  firstOf (fun (ir : Nat × Word64) => if refBad b modes ir.2 then some (0x100 + 8 * ir.1) else none) (imgRows b)

/-- The offset at fault in a zone entry (R86). -/
def zoneBad (b : Bytes) (z : Nat) : Option Nat :=
  let o := zoneOff b z
  let c := imgZone b z
  firstBad' [((List.range 64).any (fun a => c.axes.getLsbD a && (imgAxis b a).mode == 0), o),
             ((List.range 16).any (fun n => c.aux.getLsbD n && !(imgOutput b (128 + n)).enable), o + 8),
             (!(decide (0x1000 ≤ c.state) && decide (c.state ≤ 0x1FFF)), o + 10),
             (u32 b (o + 12) != 0, o + 12)]

/-- A list names something twice. -/
def hasTwice : List Nat → Bool
  | [] => false
  | x :: xs => xs.contains x || hasTwice xs

/-- The offset at fault in a mode entry (R86). -/
def modeBad (b : Bytes) (m : Nat) : Option Nat :=
  let o := modeOff b m
  let n := b o
  let pos := imgMode b m
  firstBad' [(decide (n < 2) || decide (8 < n), o), (b (o + 1) != 0, o + 1),
             ((bytesAt b (o + 2 + n) (8 - n)).any (· != 0) || hasTwice pos ||
              pos.any (fun i => decide (127 < i) || (imgInput b i).mode == 0), o + 2),
             ((bytesAt b (o + 10) 6).any (· != 0), o + 10)]

/-- ZONE_MODE (R86), in image order. -/
def zoneModeCheck (b : Bytes) : Option Nat :=
  (firstOf (fun (ir : Nat × Word64) =>
    if rowOpc ir.2 = 0x58 ∧ nModes b ≤ rowImm ir.2 % 8 then some (0x100 + 8 * ir.1) else none) (imgRows b)) <|>
  firstBad' [(decide (16 < nZones b), offZone b), (decide (8 < nModes b), offZone b + 2)] <|>
  (firstOf (zoneBad b) (List.range (nZones b))) <|> (firstOf (modeBad b) (List.range (nModes b)))

/-- LINK (R87). -/
def linkCheck (b : Bytes) : Option Nat :=
  firstOf (fun n =>
    let o := partnerOff b n
    let c := imgPartner b n
    if c.type = 0 then (if (bytesAt b o 32).any (· != 0) then some o else none)
    else
      let addrBad := fun (x : Nat) => x == 0 || x == 255
      firstBad' [(decide (4 < c.type), o), (addrBad c.localAddr, o + 1),
                 (addrBad c.peerAddr || c.peerAddr == c.localAddr, o + 2),
                 (decide (2 ≤ b (o + 3)) || (c.detach && c.type != 1), o + 3),
                 (decide (c.cycle < 10) || decide (1000 < c.cycle), o + 4),
                 (decide (c.wdog < 2) || decide (16 < c.wdog), o + 6),
                 (if c.detach then c.dwin == 0 || decide (60 < c.dwin) else c.dwin != 0, o + 7),
                 (c.accept != 0 && !(decide (0x1000 ≤ c.accept) && decide (c.accept ≤ 0x1FFF)), o + 12),
                 (u16 b (o + 14) != 0, o + 14)]) (List.range 4)

/-- ACK_INPUT (R88). -/
def ackInputBad (b : Bytes) : Bool :=
  let c := imgInput b (b 0x044)
  decide (127 < b 0x044) || c.mode != 1 || !c.pulsed || c.paired

/-- The quarter a snapshot or command word belongs to, for a word of a terminal. -/
def wordQuarter (a : Nat) : Option Nat :=
  if a < 0x100 then some (a % 128 / 32)
  else if a < 0x190 then some (quarterOf (a - 0x100))
  else if a < 0x1B0 then some ((a - 0x190) / 8)
  else if 0x400 ≤ a ∧ a < 0x490 then some (quarterOf (a - 0x400))
  else if 0x800 ≤ a ∧ a < 0xC00 then some ((a - 0x800) / 256)
  else none

/-- A word of the link images or the outgoing payloads. -/
def linkWord (a : Nat) : Bool := (decide (0xE00 ≤ a) && decide (a < 0x1000)) || (decide (0x600 ≤ a) && decide (a < 0x640))

/-- SPLIT: flags against the module and the core (R88), and what an image of one core may enable and name (R451). -/
def splitCheck (split coreB : Bool) (b : Bytes) : Option Nat :=
  let f := u16 b 0x006
  if bitOf f 0 != split || bitOf f 1 != (split && coreB) then some 0x006
  else if !split then none
  else
    let foreign := fun (q : Nat) => decide (2 ≤ q) != coreB
    let bad := fun (a : Nat) => (match wordQuarter a with | some q => foreign q | none => false) || (!coreB && linkWord a)
    (firstOf (fun (ir : Nat × Word64) =>
      if ((rowReads (imgModes b) ir.2) ++ rowWrites ir.2).any bad then some (0x100 + 8 * ir.1) else none) (imgRows b)) <|>
    (firstOf (fun i => if foreign (i / 32) && (imgInput b i).mode != 0 then some (offTerm b + 4 * i) else none) (List.range 128)) <|>
    (firstOf (fun s => if foreign (s / 8) && (imgStrum b s).enable then some (strumOff b s) else none) (List.range 32)) <|>
    (firstOf (fun k => if foreign (quarterOf k) && (imgOutput b k).enable then some (outputOff b k) else none) (List.range 144)) <|>
    (firstOf (fun a => if foreign (a / 16) && (imgAxis b a).mode != 0 then some (axisOff b a) else none) (List.range 64)) <|>
    (firstOf (fun n => if !coreB && (imgPartner b n).type != 0 then some (partnerOff b n) else none) (List.range 4))

/-- The first multiple of 8 at or above. -/
def align8 (n : Nat) : Nat := (n + 7) / 8 * 8

/-- SECTION (R64): from the end of the section before and the field that gave its length, each later section in turn. -/
def sectionScan (b : Bytes) : List (Nat × Nat × Option Nat) → Nat → Nat → Option Nat
  | [], _, _ => none
  | (offF, lenF, want) :: t, prev, prevF =>
    let off := u32 b offF
    let len := u32 b lenF
    if off < prev then some prevF
    else if off ≠ align8 prev then some offF
    else if decide (imageLen b < off + len) || (match want with | some w => len != w | none => false) then some lenF
    else
      match (List.range (off - prev)).find? (fun k => b (prev + k) != 0) with
      | some k => some (prev + k)
      | none => sectionScan b t (off + len) lenF

/-- SECTION. -/
def sectionCheck (b : Bytes) : Option Nat :=
  if u32 b 0x020 ≠ 0x100 then some 0x020
  else if imageLen b < 0x100 + 8 * hdrRows b then some 0x00C
  else sectionScan b [(0x024, 0x028, none), (0x02C, 0x030, some 3968),
                      (0x034, 0x038, some (4 + 16 * (nZones b + nModes b))), (0x03C, 0x040, some 128)]
         (0x100 + 8 * hdrRows b) 0x00C

/-- What a die is told for the verification of its copy: the staged end, split mode and its core, and the check values it
judges as they have been computed; `none` where the other die judges that one (R68, R89). -/
structure VerifyArgs where
  staged : Nat
  split : Bool
  coreB : Bool
  cvA : Option Word
  cvB : Option Word

/-- A check value differs from its header field. -/
def cvBad (v : Option Word) (field : Nat) : Bool := match v with | some x => BitVec.ofNat 32 field != x | none => false

/-- Verification of one die's copy in the order of R88: code and offset. -/
def verifyCopy (v : VerifyArgs) (b : Bytes) : Nat × Nat :=
  let n := hdrRanks b
  let step : Nat → Option Nat → (Unit → Nat × Nat) → Nat × Nat := fun code o k => match o with | some x => (code, x) | none => k ()
  let one : Bool → Nat → Option Nat := fun bad off => if bad then some off else none
  step 0x01 (one (u32 b 0 != 0x42545545) 0) fun _ =>
  step 0x02 (one (u16 b 4 != 1) 4) fun _ =>
  step 0x03 (one (decide (imageLen b < 0x100) || decide (0x40000 < imageLen b) || decide (v.staged < imageLen b)) 8) fun _ =>
  step 0x04 (one (cvBad v.cvA (u32 b 0x0F0)) 0) fun _ =>
  step 0x05 (one (cvBad v.cvB (u32 b 0x0F4)) 0) fun _ =>
  step 0x06 (firstBad' [(decide (4 ≤ u16 b 6), 6), (u16 b 0x016 != 0, 0x016), ((bytesAt b 0x045 3).any (· != 0), 0x045),
                        ((bytesAt b 0x0F8 8).any (· != 0), 0x0F8)]) fun _ =>
  step 0x07 (splitCheck v.split v.coreB b) fun _ =>
  step 0x08 (firstBad' [(n == 0 || decide (256 < n), 0x00E), (hdrRows b != 16 * n, 0x00C)]) fun _ =>
  step 0x09 (firstBad' [(decide (u16 b 0x010 < (1200 + 22 * n + 99) / 100 + 1) || decide (300 < u16 b 0x010), 0x010),
                        (u16 b 0x012 == 0 || decide ((1040 + 7 * n) / 100 - 1 < u16 b 0x012), 0x012)]) fun _ =>
  step 0x0A (one (u16 b 0x014 == 0 || decide (64 < u16 b 0x014)) 0x014) fun _ =>
  step 0x0B (sectionCheck b) fun _ =>
  step 0x0C (firstOf (fun (ir : Nat × Word64) => if (opSpec (rowOpc ir.2)).isNone then some (0x100 + 8 * ir.1) else none)
                     (imgRows b)) fun _ =>
  step 0x0D (operandCheck b) fun _ =>
  step 0x0E (rankDepCheck b) fun _ =>
  step 0x0F (timerCellCheck b) fun _ =>
  step 0x10 (match initOf b with | .inl o => some o | .inr _ => none) fun _ =>
  step 0x11 (terminalCheck b) fun _ =>
  step 0x12 (pairingCheck b) fun _ =>
  step 0x13 (terminalRefCheck b) fun _ =>
  step 0x14 (zoneModeCheck b) fun _ =>
  step 0x15 (linkCheck b) fun _ =>
  step 0x16 (one (ackInputBad b) 0x044) fun _ => (0, 0)

/-- The table an image loads as (R89): its rows, header fields, initial values and entries. -/
def tableOf (b : Bytes) : Table :=
  { real := true, rows := (imgRows b).map (·.2), ranks := hdrRanks b, scanMax := u16 b 0x010, scanMin := u16 b 0x012,
    kerf := u16 b 0x014, seed := BitVec.ofNat 64 (u64 b 0x018), ackInput := b 0x044,
    build := (bytesAt b 0x048 32).map (fun x => BitVec.ofNat 8 x), appId := BitVec.ofNat 32 (u32 b 0x068),
    appVer := BitVec.ofNat 32 (u32 b 0x06C), cvA := BitVec.ofNat 32 (u32 b 0x0F0), cvB := BitVec.ofNat 32 (u32 b 0x0F4),
    init := match initOf b with | .inr l => l | .inl _ => [],
    inputs := Vector.ofFn (fun i => imgInput b i.val), strums := Vector.ofFn (fun i => imgStrum b i.val),
    outputs := Vector.ofFn (fun i => imgOutput b i.val), axes := Vector.ofFn (fun i => imgAxis b i.val),
    zones := (List.range (nZones b)).map (imgZone b), modes := imgModes b,
    partners := Vector.ofFn (fun i => imgPartner b i.val) }

end Sys2Proof.Machine
end

