-- ==== Sys2Proof/Machine/Outputs.lean ====
section
/-!
DEFINITION. Sys2Proof/Machine/Outputs.lean: the operand memory of a core as rows read it, and the output stage (chapter 8):
bowing, receivers, dark tests, static checks, read-back words and the faults of loads.
-/
namespace Sys2Proof.Machine

/-! ## Operand memory (R34 to R36, R48, R59) -/

/-- What a core's cells hold for a word of value 0: EB holds every word complemented (R48). -/
def maskOf (c : Side) : Word := match c with | .a => 0 | .b => 0xFFFFFFFF

/-- The address lies in a snapshot region (R35). -/
def snapAddr (a : Nat) : Bool := decide (a < 0x400) || (decide (0x800 ≤ a) && decide (a < 0x1000))

/-- The value of an operand word of a core, as its rows read it; free where no rule defines the contents. -/
def CoreSt.peek (c : Side) (x : CoreSt) (a : Nat) : Word :=
  if snapAddr a then mget (maskOf c) x.live a ^^^ maskOf c
  else match x.undef with
    | some u => Config.undefWord u a
    | none => mget (maskOf c) x.opMem a ^^^ maskOf c

/-- A word of the command image or a working word of a core written. -/
def CoreSt.poke (c : Side) (a : Nat) (v : Word) (x : CoreSt) : CoreSt :=
  { x with opMem := mset (maskOf c) x.opMem a (v ^^^ maskOf c) }

/-! ## Switches and receivers (R204, R205, R212) -/

/-- Index 128 + n is auxiliary output n (R225). -/
def isAux (k : Nat) : Bool := decide (128 ≤ k)

/-- The window is open on the present tick: the gate releases on the tick after its last (R213). -/
def DarkWin.isOpen (now : Tick) (w : DarkWin) : Bool := decide (elapsed now w.openAt < w.len)

/-- The dark window of the output's quarter, if it is open on this output. -/
def State.darkWin (s : State) (k : Fin 144) : Option DarkWin :=
  let w : Option DarkWin := s.os.q[quarterOfOutput k.val].win
  match w with
  | some w => if w.out = k ∧ w.isOpen s.now then some w else none
  | none => none

/-- A switch is closed: its receiver holds it and no dark gate opens it (R212). -/
def State.switchOn (s : State) (k : Fin 144) (d : Side) : Bool :=
  let x : Output := s.os.out[k]
  (x.recv.get d).closed && !s.openByFault k.val &&
  (match s.darkWin k with | some w => w.side != d | none => true)

/-- The active discharge sink of an STO terminal is enabled (R201): whenever switch A or B is open, in every state in which VFq
is present (R222). -/
def State.discharging (s : State) (k : Fin 144) : Bool :=
  !isAux k.val && s.pcr.vfOk[quarterOfOutput k.val] && !(s.switchOn k .a && s.switchOn k .b)

/-- The path that takes the load current of an auxiliary output when its switches open (R219). -/
inductive OffPath where
  /-- The clamps of the two switches, at V_cl each. -/
  | switchClamps
  /-- The freewheel from AUXnn_L to AUXnn_H, at V_fw. -/
  | freewheel
deriving DecidableEq, Repr

/-- LOAD 0b01 selects the freewheel. -/
def OutputCfg.offPath (c : OutputCfg) : OffPath := if c.load = 1 then .freewheel else .switchClamps

/-- A receiver opens its switch: the count of four restarts (R204, R205). -/
def Receiver.opens (now : Tick) (r : Receiver) : Receiver :=
  { r with toggles := 0, fourthAt := none, closed := false, openAt := if r.closed then now else r.openAt }

/-- The output is no longer energised: a due test is dropped (R223). -/
def Output.off (o : Output) : Output := { o with energisedAt := none, due := none, deferred := none, forced := false }

/-- The dark window open on an output, if any, is abandoned (R223). -/
def abandonDark (k : Fin 144) (s : State) : State :=
  s.modOs (fun o => { o with q := upd o.q (quarterOfOutput k.val) (fun x =>
    match x.win with
    | some w => if w.out = k ∧ w.isOpen s.now then { x with win := none, winEnd := some s.now } else x
    | none => x) })

/-- A receiver of an output opens. -/
def openReceiver (k : Fin 144) (d : Side) (s : State) : State :=
  let s := s.modOut k (fun o => { o.off with recv := o.recv.upd d (Receiver.opens s.now) })
  abandonDark k s

/-- A toggle at a receiver (R204, R205, R207): one that follows the last too closely opens the switch; between the limits of
t_emin, 50 and 70 ns, the free bit decides. -/
def Receiver.toggle (now : Tick) (free : Bool) (r : Receiver) : Receiver :=
  let early := match r.toggledAt with
    | some t => decide (elapsed now t < 5) || (decide (elapsed now t < 7) && free)
    | none => false
  let r := { r with stopSince := none, toggledAt := some now }
  if early then r.opens now
  else { r with toggles := min 4 (r.toggles + 1), fourthAt := if r.toggles = 3 then some now else r.fourthAt }

/-- BOW_STOP_STATE: the stop state has lasted more than 10 ns; a switch of an auxiliary output opens t_auxoff after it, 0.5 µs
at least (R207). -/
def execBowStopState (out : Fin 144) (side : Side) (s : State) : Host.Outcome State Fault Refusal :=
  let x : Output := s.os.out[out]
  .next (
    match (x.recv.get side).stopSince with
    | some t => if (if isAux out.val then 50 else 1) ≤ elapsed s.now t then openReceiver out side s else s
    | none => s)

/-- BOW_HOLD_TIMEOUT: no toggle for t_hold, 3.4 µs at least. -/
def execBowHoldTimeout (out : Fin 144) (side : Side) (s : State) : Host.Outcome State Fault Refusal :=
  let x : Output := s.os.out[out]
  .next (
    match (x.recv.get side).toggledAt with
    | some t => if 340 ≤ elapsed s.now t then openReceiver out side s else s
    | none => s)

/-- SWITCH_CLOSED: t_son after the fourth valid toggle, 0.3 µs at least, the switch closes; with both closed the output is
energised, and its first dark test opens the A side (R207, R209, R213). -/
def execSwitchClosed (out : Fin 144) (side : Side) (s : State) : Host.Outcome State Fault Refusal :=
  let x : Output := s.os.out[out]
  let r := x.recv.get side
  .next (
    if r.toggles < 4 ∨ r.closed ∨ r.stopSince.isSome ∨
        (match r.fourthAt with | some t => decide (elapsed s.now t < 30) | none => true) = true then s
    else
      let s := s.modOut out (fun o => { o with recv := o.recv.upd side (fun r => { r with closed := true }) })
      if (x.recv.get side.other).closed ∧ !s.openByFault out.val then
        s.modOut out (fun o => { o.off with energisedAt := some s.now, darkFrom := s.now, darkSide := .a })
      else s)

/-! ## Faults of outputs (R225) -/

/-- A contained fault of OS with the scope of one output; present until reset for SWITCH (R218). -/
def outputFault (cause : Nat) (k : Fin 144) (d : Side) (s : State) : State :=
  let q := quarterOfOutput k.val
  recordFault { block := .os, cause := cause, cls := .contained, scope := 5, item := k.val, addr := k.val + 256 * d.num,
                init := 0x20 + q.val, acc := if cause = 3 then 6 else 4, quarter := some q, sticky := cause == 3 } s

/-- A fault whose cause its own opening ends: its quiet period starts at once. -/
def outputPulse (cause : Nat) (k : Fin 144) (s : State) : State := causeAbsent .os cause k.val (outputFault cause k .a s)

/-- The output is energised: both switches closed. -/
def State.outputOn (s : State) (k : Fin 144) : Bool := s.switchOn k .a && s.switchOn k .b

/-- A switch has been sensed closed for longer than t_mis, 100 ticks, while its own core has commanded it off or its driver has
been inhibited (R210). -/
def State.bowMismatch (s : State) (k : Fin 144) (d : Side) : Bool :=
  let x : Output := s.os.out[k]
  s.switchOn k d && (match (x.recv.get d).offSince with | some t => decide (100 < elapsed s.now t) | none => false)

/-- BOW_MISMATCH (R210): fatal; where VFq or QLq of the output's quarter is bad already, contained with the scope of the output
(R262). -/
def execBowMismatch (out : Fin 144) (side : Side) (s : State) : Host.Outcome State Fault Refusal :=
  let q := quarterOfOutput out.val
  let already := match badFor .os (some q) s with | some (_, t) => t != s.now | none => false
  .next (
    if s.bowMismatch out side then
      recordFault { block := .os, cause := 1, cls := .fatal, scope := if already then 5 else 0, item := out.val,
                    addr := out.val + 256 * side.num, init := 1 + side.num, acc := 6, quarter := some q } s
    else s)

/-- A condition of a load has lasted `n` ticks, all of them since the output was energised. -/
def State.lasted (s : State) (k : Fin 144) (n : Nat) (from_ : Tick) : Bool :=
  match (s.os.out[k] : Output).energisedAt with
  | some e => decide (n ≤ elapsed s.now from_) && decide (elapsed s.now from_ ≤ elapsed s.now e)
  | none => false

/-- OVERLOAD (R225): an STO terminal at its current limit since tick `from_`, for 100 µs. -/
def execOverload (out : Fin 144) (from_ : Tick) (s : State) : Host.Outcome State Fault Refusal :=
  .next (if !isAux out.val && s.outputOn out && s.lasted out 10000 from_ then outputPulse 5 out s else s)

/-- The currents of an auxiliary output, as they have been since tick `from_`, are a short (R219): I_L above I_MAX for 10 µs, of
a lamp counted from 20 ms after switch-on, or I_H and I_L more than 50 mA apart for 10 µs. -/
def State.isShort (s : State) (k : Fin 144) (iH iL : Nat) (from_ : Tick) : Bool :=
  let c := s.outputCfg k
  let n := elapsed s.now from_
  let lamp := c.load != 2 ||
    (match (s.os.out[k] : Output).energisedAt with | some e => decide (2001000 ≤ elapsed s.now e) | none => false)
  decide (1000 ≤ n) && ((decide (c.iMax < iL) && lamp) || decide (iL + 50 < iH) || decide (iH + 50 < iL))

/-- SHORT (R219): an auxiliary output; its dark gates open both switches. -/
def execShort (out : Fin 144) (iH iL : Nat) (from_ : Tick) (s : State) : Host.Outcome State Fault Refusal :=
  .next (if isAux out.val && (s.outputCfg out).enable && s.isShort out iH iL from_ then outputPulse 6 out s else s)

/-- Ticks for which I_L lies below I_MIN until OPEN_LOAD, by LOAD (R219): 1, 10 or 50 ms. -/
def openLoadTicks (load : Nat) : Nat := if load = 0 then 100000 else if load = 1 then 1000000 else 5000000

/-- OPEN_LOAD (R219): an auxiliary output while on, its current I_L since tick `from_`. -/
def execOpenLoad (out : Fin 144) (iL : Nat) (from_ : Tick) (s : State) : Host.Outcome State Fault Refusal :=
  let c := s.outputCfg out
  .next (
    if isAux out.val && s.outputOn out && decide (iL < c.iMin) && s.lasted out (openLoadTicks c.load) from_ then
      outputPulse 8 out s
    else s)

/-- AUX_SUM (R220): the sum of I_H in mA has exceeded I_q, 2.0 A, since tick `from_`, for 1 ms; the four auxiliary outputs of the
quarter open. -/
def execAuxSum (q : Fin 4) (sum : Nat) (from_ : Tick) (s : State) : Host.Outcome State Fault Refusal :=
  .next (
    if s.configured && decide (2000 < sum) && decide (100000 ≤ elapsed s.now from_) then
      recordPulse { block := .os, cause := 7, cls := .contained, scope := 6, item := q.val, addr := q.val, init := 0x20 + q.val,
                    acc := 4, quarter := some q } s
    else s)

/-- NO_OUTPUT (R225): both sides closed for 20 µs and t_rise, of which 0.5 µs are sure, TERM_HI or H_HI still false, and the
output not at its current limit. -/
def execNoOutput (out : Fin 144) (hi limited : Bool) (s : State) : Host.Outcome State Fault Refusal :=
  let late := match (s.os.out[out] : Output).energisedAt with | some e => decide (2050 ≤ elapsed s.now e) | none => false
  .next (if s.outputOn out && late && !hi && !limited then outputPulse 9 out s else s)

/-- OVERTEMP (R224): the OD die has been above 150 °C since tick `from_`, for 1 ms; quarter scope. -/
def execOvertemp (q : Fin 4) (from_ : Tick) (s : State) : Host.Outcome State Fault Refusal :=
  .next (
    if s.pcr.clk.tb && decide (100000 ≤ elapsed s.now from_) then
      recordFault { block := .os, cause := 2, cls := .contained, scope := 1, item := q.val, addr := q.val, init := 0x20 + q.val,
                    acc := 4, quarter := some q } s
    else s)

/-- OVERTEMP_CLEAR (R224). -/
def execOvertempClear (q : Fin 4) (s : State) : Host.Outcome State Fault Refusal := .next (causeAbsent .os 2 q.val s)

/-! ## Read-back words (R211) -/

/-- The verdict of the dark test of an output, on the last tick of its window: it appears in the next snapshot (R223). -/
def State.freshVerdict (s : State) (k : Fin 144) : Option Bool :=
  match s.darkWin k with | some w => w.verdict | none => none

/-- A fault of this output is uncleared: one of the output, or of the auxiliary outputs of its quarter. -/
def State.outputFaulted (s : State) (k : Fin 144) : Bool :=
  let fresh := s.freshVerdict k == some false
  (s.frOf .os).insts.any (fun i => (i.scope == 5 && i.item == k.val && !(fresh && i.cause == 3 && i.at_ == s.now)) ||
    (i.scope == 6 && isAux k.val && i.item == (quarterOfOutput k.val).val))

/-- An uncleared OS instance with the scope of this output. -/
def State.outFault (s : State) (cause : Nat) (k : Fin 144) : Bool :=
  (s.frOf .os).insts.any (fun i => i.cause == cause && i.scope == 5 && i.item == k.val)

/-- The read-back word of an output; none is delivered in START (R222). -/
def State.outputWord (s : State) (k : Fin 144) : Word :=
  if !(s.outputCfg k).enable || s.dev == .start then 0
  else
    let x : Output := s.os.out[k]
    let q := quarterOfOutput k.val
    let f := fun c => bit (if c = 3 ∧ s.freshVerdict k = some false then
        (s.frOf .os).insts.any (fun i => i.cause == 3 && i.scope == 5 && i.item == k.val && i.at_ != s.now)
      else s.outFault c k)
    let done := if s.freshVerdict k = some true then x.darkDone - 1 else x.darkDone
    let common := [(bit (s.quarterValid q && !s.outputFaulted k && x.rearm == 0), 0, 1), (bit (s.switchOn k .a), 1, 1),
                   (bit (s.switchOn k .b), 2, 1), (bit x.hi, 3, 1), (bit (x.rearm != 0), 12, 1)]
    let dark := bit (s.darkWin k).isSome
    let due := bit (x.due.isSome && x.deferred.isSome)
    if isAux k.val then
      let sum := (s.frOf .os).insts.any (fun i => i.cause == 7 && i.item == q.val)
      regOf (common ++ [(bit x.lo, 4, 1), (dark, 5, 1), (due, 6, 1), (f 3, 7, 1), (f 6, 8, 1), (f 8, 9, 1), (bit sum, 10, 1),
                        (f 9, 11, 1), (min x.current 4095, 16, 12)])
    else
      regOf (common ++ [(bit x.termHi, 4, 1), (bit x.lo, 5, 1), (dark, 6, 1), (due, 7, 1), (f 3, 8, 1), (f 4, 9, 1), (f 5, 10, 1),
                        (f 9, 11, 1), (done.toNat, 16, 8)])

/-! ## Static checks (R215) -/

/-- The outputs of a quarter. -/
def outputsOf (q : Fin 4) : List (Fin 144) := (fins 144).filter (fun k => quarterOfOutput k.val == q)

/-- An output counts as commanded off: by both cores, or with its lines of both sides in the stop state. -/
def State.commandedOff (s : State) (k : Fin 144) : Bool :=
  let x : Output := s.os.out[k]
  (!x.cmd.a && !x.cmd.b) || (x.recv.a.stopSince.isSome && x.recv.b.stopSince.isSome)

/-- Every output of the quarter is commanded off with both sides open, for at least `n` ticks. -/
def State.quarterOff (s : State) (q : Fin 4) (n : Nat) : Bool :=
  (s.dev == .idle || s.dev == .run || s.dev == .hold || s.dev == .halt) &&
  (outputsOf q).all (fun k =>
    let x : Output := s.os.out[k]
    s.commandedOff k && [x.recv.a, x.recv.b].all (fun r =>
      !r.closed && decide (n ≤ elapsed s.now r.openAt) &&
      (match r.stopSince with | some t => decide (n ≤ elapsed s.now t) | none => false)))

/-- The read-back of an output under the static checks: SWITCH, RESIDUAL, and SHORT of an auxiliary output; a cause that
is gone becomes absent. -/
def judgeStatic (k : Fin 144) (s : State) : State :=
  let x : Output := s.os.out[k]
  let s := if x.hi && !s.outFault 3 k then outputFault 3 k .a s else s
  if isAux k.val then
    (if x.current ≤ 20 ∧ x.currentH ≤ 20 then causeAbsent .os 6 k.val s
     else if s.causePresent .os 6 k.val then s else outputFault 6 k .a s)
  else if x.lo then causeAbsent .os 4 k.val s
  else if s.causePresent .os 4 k.val then s
  else outputFault 4 k .a s

/-- STATIC_CHECK_START: the checks of the quarter begin; a read-back sampled since it is off is judged at once. -/
def execStaticCheckStart (q : Fin 4) (s : State) : Host.Outcome State Fault Refusal :=
  .next (
    if s.quarterOff q 5000 then
      let s := s.modOs (fun o => { o with q := upd o.q q (fun x => { x with static := true }) })
      match s.ev.sampleAt with
      | some t =>
        if (outputsOf q).all (fun k => let x : Output := s.os.out[k]; decide (elapsed s.now t ≤ elapsed s.now x.recv.a.openAt) &&
            decide (elapsed s.now t ≤ elapsed s.now x.recv.b.openAt))
        then (outputsOf q).foldl (fun s k => judgeStatic k s) s else s
      | none => s
    else s)

/-- The static checks run on the output's quarter. -/
def State.staticOn (s : State) (k : Fin 144) : Bool :=
  let x : OsQuarter := s.os.q[quarterOfOutput k.val]
  x.static && s.quarterOff (quarterOfOutput k.val) 0

/-- The read-back of an output as now sensed. -/
def Output.sense (r : OutSense) (x : Output) : Output :=
  { x with hi := r.hi, termHi := r.termHi, lo := r.lo, current := r.current, currentH := r.currentH }

/-- RESIDUAL: a read-back changes; it is judged while the static checks run. -/
def execResidual (out : Fin 144) (r : OutSense) (s : State) : Host.Outcome State Fault Refusal :=
  let s := s.modOut out (Output.sense r)
  .next (
    if s.staticOn out then judgeStatic out s
    else if r.lo && !isAux out.val then causeAbsent .os 4 out.val s else s)

/-- The read-back a sample edge brings (R211), and its judgement where the static checks run. -/
def sampleOutputs (outs : List OutSense) (s : State) : State :=
  let s := s.modOs (fun o => { o with out := vmapIdx o.out (fun k x =>
    x.sense ((outs[k.val]?).getD ⟨false, false, true, 0, 0⟩)) })
  (fins 4).foldl (fun s q =>
    let x : OsQuarter := s.os.q[q]
    if x.static && s.quarterOff q 0 then (outputsOf q).foldl (fun s k => judgeStatic k s) s else s) s

/-! ## Dark tests (R213 to R216) -/

/-- DARK_TEST_DUE: DARK_INT ms after energising or the last due time. -/
def execDarkTestDue (out : Fin 144) (s : State) : Host.Outcome State Fault Refusal :=
  let x : Output := s.os.out[out]
  let c := s.outputCfg out
  .next (
    if c.enable && c.dark != 0 && x.energisedAt.isSome && s.dev == .run && decide (100000 * c.darkInt ≤ elapsed s.now x.darkFrom) then
      s.modOut out (fun o => { o with
        due := match o.due with | some t => some t | none => some s.now
        darkFrom := s.now
        deferred := if o.defer then (match o.deferred with | some t => some t | none => some s.now) else none })
    else s)

/-- DARK_FORCE: deferred for 60 s. -/
def execDarkForce (out : Fin 144) (s : State) : Host.Outcome State Fault Refusal :=
  let x : Output := s.os.out[out]
  .next (
    match x.due, x.deferred with
    | some _, some t =>
      if 6000000000 ≤ elapsed s.now t ∧ !x.forced then
        (s.modOut out (fun o => { o with forced := true })).modOs (fun o => { o with forcedCnt := satInc o.forcedCnt })
      else s
    | _, _ => s)

/-- The due test that runs next in a quarter: the earliest due one that is not deferred, or is forced. -/
def State.nextDark (s : State) (q : Fin 4) : Option (Fin 144) :=
  (outputsOf q).foldl (fun (best : Option (Fin 144)) k =>
    let x : Output := s.os.out[k]
    match x.due with
    | none => best
    | some t =>
      if x.deferred.isSome && !x.forced then best
      else match best with
        | none => some k
        | some b =>
          let y : Output := s.os.out[b]
          match y.due with
          | some u => if elapsed s.now u < elapsed s.now t then some k else best
          | none => some k) none

/-- DARK_WINDOW_START: a free slot, 50 µs after the quarter's last window. -/
def execDarkWindowStart (q : Fin 4) (s : State) : Host.Outcome State Fault Refusal :=
  let y : OsQuarter := s.os.q[q]
  .next (
    let busy := match y.win with | some w => w.verdict.isNone || w.isOpen s.now | none => false
    if busy || (match y.winEnd with | some t => decide (elapsed s.now t < 5000) | none => false) || s.dev != .run then s
    else match s.nextDark q with
      | none => s
      | some k =>
        let x : Output := s.os.out[k]
        let w : DarkWin := { out := k, side := x.darkSide, openAt := s.now, len := 100 * (s.outputCfg k).dark, verdict := none }
        let s := s.modOut k (fun o => { o with due := none, deferred := none, forced := false, darkSide := o.darkSide.other })
        s.modOs (fun o => { o with q := upd o.q q (fun x => { x with win := some w }) }))

/-- A dark test passes on these readings (R213). -/
def darkPasses (aux : Bool) (d : Side) (hi lo hLow : Bool) (iL : Nat) : Bool :=
  match aux, d with
  | false, .a => lo && !hi
  | false, .b => lo && hi
  | true, .a => hLow
  | true, .b => !lo && decide (iL < 20)

/-- DARK_WINDOW_END: the judgement on the last tick of the window; the gate releases on the tick after it. -/
def execDarkWindowEnd (q : Fin 4) (hi : Bool) (lo : Bool) (hLow : Bool) (iL : Nat) (s : State) : Host.Outcome State Fault Refusal :=
  let y : OsQuarter := s.os.q[q]
  .next (
    match y.win with
    | none => s
    | some w =>
      if elapsed s.now w.openAt + 1 < w.len ∨ w.verdict.isSome then s
      else
        let ok := darkPasses (isAux w.out.val) w.side hi lo hLow iL
        let s := s.modOs (fun o => { o with q := upd o.q q (fun x => { x with
          win := some { w with verdict := some ok }, winEnd := some (w.openAt + BitVec.ofNat 64 w.len) }) })
        if ok then
          (s.modOut w.out (fun o => { o with darkDone := o.darkDone + 1 })).modOs (fun o => { o with darkCnt := satInc o.darkCnt })
        else outputFault 3 w.out w.side s)

/-! ## Bowing (R203, R206, R226, R453) -/

/-- A condition of R206 holds for the drivers that serve a core. -/
def State.inhibits (s : State) (c : Side) : Bool :=
  s.dev != .run || s.fatalUncleared || (s.sc.half.get c).mis || s.sc.copyInhibit ||
  (s.core c).seq == .stopped || (s.core c).seq == .halted || s.pcr.sideReset.get c

/-- A sample edge of snapshot `n`: the first one after the last inhibiting condition has ended names the further scan. -/
def freeDrivers (n : Nat) (s : State) : State :=
  [Side.a, Side.b].foldl (fun s c =>
    let held := s.inhibits c || s.devAt == some s.now
    s.modOs (fun o => { o with freeFrom := o.freeFrom.upd c (fun f =>
      if held then none else match f with | some m => some m | none => some n) })) s

/-- REARM of an output at a scan close of the core that owns it (R226); `faulted` also in the scan in which its fault has cleared
(R223). -/
def rearmStep (rearm : Nat) (cmd faulted : Bool) : Nat :=
  match rearm with
  | 0 => 0
  | 1 => if cmd then 1 else 2
  | _ => if !cmd then 2 else if faulted then 1 else 0

/-- One output at a scan close of core `c`, whose image commands it on or off. -/
def bowOutput (c : Side) (go : Bool) (free : Word64) (s : State) (k : Fin 144) (o : Output) : Output :=
  let q := quarterOfOutput k.val
  let owner := s.ownerOf q
  let cmd := (s.outputCfg k).enable && tru ((s.core c).peek c (0x400 + k.val))
  if s.split && owner != c then o
  else
    let o := { o with cmd := if s.split then ⟨cmd, cmd⟩ else o.cmd.set c cmd }
    let o := if owner = c then
        (let defers := (s.core c).defer.contains k.val
         { o with rearm := rearmStep o.rearm cmd (s.openByFault k.val || o.wasOpen), wasOpen := s.openByFault k.val,
                  defer := defers,
                  deferred := if o.due.isSome && defers then (match o.deferred with | some t => some t | none => some s.now)
                              else none })
      else o
    let drive := go && cmd && o.rearm == 0
    let off := !cmd || s.os.inhib.get c || s.inhibits c
    let f := fun (r : Receiver) =>
      let r := { r with offSince := if off then since s.now r.offSince else none }
      if drive then r.toggle s.now (free.getLsbD (k.val % 64)) else stopLine s.now r
    { o with recv := if s.split then o.recv.map f else o.recv.upd c f }

/-- The drivers at a scan close of core `c`: released if their further scan closes, then every line toggles or stops. -/
def bowClose (c : Side) (s : State) : State :=
  let x := s.core c
  let freed := match s.os.freeFrom.get c with | some m => decide (m ≤ x.scan) && !s.inhibits c | none => false
  let s := if freed then s.modOs (fun o => { o with inhib := o.inhib.set c false }) else s
  let go := tru ((s.core c).peek c 0x304) && !s.os.inhib.get c && !s.inhibits c
  let (free, s) := s.takeFree
  let s := s.modOs (fun o => { o with out := vmapIdx o.out (bowOutput c go free s) })
  let s := (fins 4).foldl (fun s q =>
    let y : OsQuarter := s.os.q[q]
    match y.win with
    | some w =>
      let o : Output := s.os.out[w.out]
      if (o.cmd.a && o.cmd.b) || w.verdict.isSome then s else abandonDark w.out s
    | none => s) s
  s.modOs (fun o => { o with q := vmapIdx o.q (fun q y => { y with static := y.static && s.quarterOff q 0 }) })

end Sys2Proof.Machine
end

