-- ==== Sys2Proof/Machine/Links.lean ====
section
/-!
DEFINITION. Sys2Proof/Machine/Links.lean: the Beytin links (chapter 14): frames, the states of a port, losses and
substitution, the link image, and the payload the cores post.
-/
namespace Sys2Proof.Machine

/-! ## Frames (R343 to R346) -/

/-- Byte `k` of a frame. -/
def frameByte (bs : List Byte) (k : Nat) : Nat := ((bs[k]?).getD 0).toNat

/-- A little-endian field of `n` bytes at byte `k` of a frame. -/
def frameField (bs : List Byte) (k n : Nat) : Nat := leNat ((bs.drop k).take n)

/-- The check value of a frame over its virtual prefix (R345). -/
def frameCrc (sender receiver : Nat) (seqx : Word) (bs : List Byte) : Word :=
  crcWithPrefix ([BitVec.ofNat 8 sender, BitVec.ofNat 8 receiver, 0, 0] ++ leBytes 4 seqx.toNat) (bs.take 28)

/-- Bytes 0 to 27 closed with their check value. -/
def sealFrame (sender receiver : Nat) (seqx : Word) (bs : List Byte) : List Byte :=
  bs ++ leBytes 4 (frameCrc sender receiver seqx bs).toNat

/-- The identity the module sends: APP_ID of its active image. -/
def State.ownIdent (s : State) : Word :=
  match (s.core (if s.split then .b else .a)).table with | some t => t.appId | none => 0

/-- The tune frame of a port (R344). -/
def tuneFrame (c : PartnerCfg) (ident : Word) (p : PlPort) : List Byte :=
  let echo := match p.peer with | some t => t.start | none => 0
  sealFrame c.localAddr 0xFF 0
    ([0xC3, BitVec.ofNat 8 c.localAddr, 0, 0, 3, BitVec.ofNat 8 c.peerAddr] ++ leBytes 4 ident.toNat ++ leBytes 2 c.cycle ++
     [BitVec.ofNat 8 c.wdog, 1] ++ leBytes 4 p.start.toNat ++ leBytes 4 echo.toNat ++ List.replicate 6 0)

/-- What a tune frame says. -/
def readTune (bs : List Byte) : Tune :=
  { addr := frameByte bs 1, ptype := frameByte bs 4, dest := frameByte bs 5, ident := BitVec.ofNat 32 (frameField bs 6 4),
    cycle := frameField bs 10 2, wdog := frameByte bs 12, version := frameByte bs 13,
    start := BitVec.ofNat 32 (frameField bs 14 4), echo := BitVec.ofNat 32 (frameField bs 18 4) }

/-- The SAFE bytes port `n` sends: bits [7:0] of its sixteen outgoing words, 0 before the cores have agreed (R347). -/
def State.outSafe (s : State) (n : Fin 4) : List Byte :=
  (List.range 16).map (fun k => (((s.pl.agreed)[16 * n.val + k]?).getD 0).setWidth 8)

/-- The safety frame of a port with its SEQX (R343, R346, R361). -/
def safetyFrame (c : PartnerCfg) (safe : List Byte) (now : Tick) (p : PlPort) : Word × List Byte :=
  let seqx := if p.txAny then p.txSeq + 1 else p.start + 1
  let (flags, ns) : Nat × List Byte := match p.sends with
    | x :: _ => (1 + (if x.rest.length ≤ 6 then 2 else 0), x.rest.take 6 ++ List.replicate (6 - min 6 x.rest.length) 0)
    | [] => (0, leBytes 6 p.nstx.toNat)
  let flags := flags + (if p.winOpen now then 4 else 0)
  let echo := if p.rxAny then p.rxSeq else match p.peer with | some t => t.start | none => 0
  (seqx, sealFrame c.localAddr c.peerAddr seqx
    ([0x3C, BitVec.ofNat 8 c.localAddr] ++ leBytes 2 seqx.toNat ++ [BitVec.ofNat 8 flags, echo.setWidth 8] ++ safe ++ ns))

/-! ## The link image a snapshot takes (R18, R355) -/

/-- The link image a snapshot of the present tick carries. -/
def State.linkSnap (s : State) (n : Fin 4) : List Word :=
  let p : PlPort := s.pl.port[n]
  if p.imageAt = some s.now then p.imagePrev else s.linkImage n

/-! ## Faults of PL (R365) -/

/-- A corrected fault of a link port. -/
def linkCorrected (cause : Nat) (n : Fin 4) (reason : Nat) (s : State) : State :=
  recordFault { block := .pl, cause := cause, cls := .corrected, scope := 7, item := 0, addr := n.val + 256 * reason,
                init := 0x40 + n.val, acc := 0xB } s

/-! ## States of a port (R350 to R353) -/

/-- TUNE is entered: START is taken from TB_NOW, and nothing is known of the partner. -/
def plTune (n : Fin 4) (s : State) : State :=
  let s := plState n .tune s
  s.modPlPort n (fun p => { p with start := loHalf s.now, peer := none, tuned := false, txAny := false, rxAny := false })

/-- ALIGN is entered, and left for TUNE at once when the receiver is aligned. -/
def plAlign (n : Fin 4) (s : State) : State :=
  let s := plState n .align s
  let p : PlPort := s.pl.port[n]
  if p.aligned then plTune n s else s

/-- DOWN is entered, and left for ALIGN at once while a signal is present (R353). -/
def plDown (n : Fin 4) (s : State) : State :=
  let s := plState n .down s
  let p : PlPort := s.pl.port[n]
  if p.signal then plAlign n s else s

/-- A port leaves OFF: to ALIGN if aligned, else to DOWN; it stays while TYPE is none or PLK_LOCK, KAT_LINK or CLK_CHECK
holds it (R353, R365, R380, R457). -/
def plRelease (n : Fin 4) (s : State) : State :=
  let p : PlPort := s.pl.port[n]
  if p.st ≠ .off ∨ (s.partner n).type = 0 ∨ s.uncleared .pl 2 n.val ∨ s.uncleared .cv 1 n.val ∨ s.unclearedIn .st 5 8 n.val then s
  else if p.aligned then plAlign n s else plDown n s

/-- UP is entered: substitution ends (R358). -/
def plUp (n : Fin 4) (s : State) : State := (plState n .up s).modPlPort n (fun p => { p with subst := false })

/-- The first mismatch of R351. -/
def tuneMismatch (c : PartnerCfg) (t : Tune) : Option Nat :=
  if t.version ≠ 1 then some 1
  else if t.ptype ≠ c.type then some 2
  else if t.addr ≠ c.peerAddr ∨ t.dest ≠ c.localAddr then some 3
  else if c.peerId ≠ 0 ∧ t.ident.toNat ≠ c.peerId then some 4
  else if t.cycle ≠ c.cycle ∨ t.wdog ≠ c.wdog then some 5
  else none

/-- Tuning is complete: CHECK compares, and the port goes on (R351, R352). -/
def tuneDone (n : Fin 4) (s : State) : State :=
  let c := s.partner n
  let s := (plState n .check s).modPlPort n (fun p => { p with tuned := true })
  let p : PlPort := s.pl.port[n]
  match tuneMismatch c (p.peer.getD ⟨0, 0, 0, 0, 0, 0, 0, 0, 0⟩) with
  | some r => linkCorrected 3 n r ((plState n .rejected s).modPlPort n (fun p => { p with reason := BitVec.ofNat 4 r }))
  | none => if c.accept = 0 then plUp n s else plState n .waitAccept s

/-! ## Events of one tick (R363): the queue holds what else the tick brings (log 17) -/

/-- Signal loss on port `n` comes on the present tick as well. -/
def State.signalLossDue (s : State) (n : Fin 4) : Bool :=
  s.pending.any (fun c => match c with | .linkSignalLoss m => m == n | _ => false)

/-- A LINK_DETACH item for port `n` begins on the present tick as well. -/
def State.detachDue (s : State) (n : Fin 4) : Bool :=
  s.pending.any (fun c => match c with
    | .linkDetach p r =>
      (match (s.sq p r).items.find? (fun i => match i.stage with | .posted _ _ => false | _ => true) with
       | some i => i.stage == .accepted && !i.skip && i.d.opc == 0x41 && i.d.arg0 == n.val && (s.partner n).type == 1 &&
                             (s.partner n).detach
       | none => false)
    | _ => false)

/-- A loss in WAIT_ACCEPT or UP (R349, R358, R359, R361): substitution inside the detach window, one that a LINK_DETACH of this
tick opens included (R363), LINK_LOST outside it. -/
def linkLoss (n : Fin 4) (next : PlState) (s : State) : State :=
  let p : PlPort := s.pl.port[n]
  let inside := p.winOpen s.now || (p.st == .up && s.detachDue n)
  let s := abortSends n 0x0302 s
  let s := (keepImage n s).modPlPort n (fun p =>
    { p with losses := satInc p.losses, lostCnt := satInc p.lostCnt, subst := p.subst || inside, lossAt := some s.now,
             lossUp := p.st == .up })
  let s := plState n next s
  if inside then s else linkCorrected 4 n 0 s

/-- LINK_SIGNAL_PRESENT. -/
def execLinkSignalPresent (n : Fin 4) (s : State) : Host.Outcome State Fault Refusal :=
  let s := (keepImage n s).modPlPort n (fun p => { p with signal := true })
  let p : PlPort := s.pl.port[n]
  .next (if p.st = .down then plAlign n s else s)

/-- LINK_SIGNAL_LOSS; a port that a loss of this tick has taken to LOST goes to DOWN (R363). -/
def execLinkSignalLoss (n : Fin 4) (s : State) : Host.Outcome State Fault Refusal :=
  let s := (keepImage n s).modPlPort n (fun p => { p with signal := false, aligned := false })
  let p : PlPort := s.pl.port[n]
  .next (
    match p.st with
    | .align | .tune | .check | .rejected => plState n .down s
    | .waitAccept | .up => linkLoss n .down s
    | .lost => if p.lossAt = some s.now then plState n .down s else s
    | .down | .off => s)

/-- LINK_ALIGNED. -/
def execLinkAligned (n : Fin 4) (s : State) : Host.Outcome State Fault Refusal :=
  let s := (keepImage n s).modPlPort n (fun p => { p with aligned := true })
  let p : PlPort := s.pl.port[n]
  .next (if p.st = .align then plTune n s else s)

/-- TUNE_TIMEOUT: 200 cycles in TUNE. -/
def execTuneTimeout (n : Fin 4) (s : State) : Host.Outcome State Fault Refusal :=
  let s := keepImage n s
  let p : PlPort := s.pl.port[n]
  .next (if p.st = .tune ∧ 200 * 100 * (s.partner n).cycle ≤ elapsed s.now p.since then plState n .lost s else s)

/-- LOST_EXPIRY: after 1 ms. -/
def execLostExpiry (n : Fin 4) (s : State) : Host.Outcome State Fault Refusal :=
  let s := keepImage n s
  let p : PlPort := s.pl.port[n]
  .next (
    if p.st = .lost ∧ 100000 ≤ elapsed s.now p.since then (if p.signal then plAlign n s else plDown n s) else s)

/-- DETACH_WINDOW_EXPIRY (R357). -/
def execDetachWindowExpiry (n : Fin 4) (s : State) : Host.Outcome State Fault Refusal :=
  let p : PlPort := s.pl.port[n]
  .next (
    match p.win with
    | some (t, k) => if k ≤ elapsed s.now t then (keepImage n s).modPlPort n (fun p => { p with win := none }) else s
    | none => s)

/-- The last check a snoop channel computed (R381). -/
def snoop (k : Nat) (v : Word) (s : State) : State :=
  s.modCv (fun x => { x with last := vmapIdx x.last (fun i w => if i.val = k then v else w) })

/-! ## Sending (R347, R361) -/

/-- What the transmitter of port `n` puts on the line: a frame for 2.8 µs from its start, idle otherwise; nothing in RECOVERY
and while TYPE is none (R342, R353). -/
def State.lineOut (s : State) (n : Fin 4) : LineOut :=
  let p : PlPort := s.pl.port[n]
  if s.dev = .recovery ∨ (s.partner n).type = 0 then .nothing
  else if p.st = .off ∨ p.st = .lost ∨ p.st = .rejected then .idle
  else match p.sentAt with
    | some t => if elapsed s.now t < 280 then .frame p.sent else .idle
    | none => .idle

/-- The LINK_SEND being sent has given its next six bytes to a frame; its item ends with the last. -/
def sendStep (n : Fin 4) (s : State) : State :=
  let p : PlPort := s.pl.port[n]
  match p.sends with
  | [] => s
  | x :: xs =>
    if x.rest.length ≤ 6 then
      endItem x.port x.ring 0 (BitVec.ofNat 32 x.len) (s.modPlPort n (fun p => { p with sends := xs }))
    else s.modPlPort n (fun p => { p with sends := { x with rest := x.rest.drop 6 } :: xs })

/-- LINK_CYCLE: a CYCLE tick. -/
def execLinkCycle (n : Fin 4) (s : State) : Host.Outcome State Fault Refusal :=
  let p : PlPort := s.pl.port[n]
  let c := s.partner n
  let early : Bool := match p.cycleAt with | some t => decide (elapsed s.now t < 100 * c.cycle) | none => false
  .next (
    if c.type = 0 ∨ p.st = .off ∨ early then s
    else
      let s := s.modPlPort n (fun p => { p with cycleAt := some s.now })
      match p.st with
      | .down | .align | .tune =>
        let bs := tuneFrame c s.ownIdent p
        snoop (2 + 2 * n.val) (BitVec.ofNat 32 (frameField bs 28 4)) (s.modPlPort n (fun p => { p with sent := bs, sentAt := some s.now }))
      | .check | .waitAccept | .up =>
        let (seqx, bs) := safetyFrame c (s.outSafe n) s.now p
        let s := snoop (2 + 2 * n.val) (BitVec.ofNat 32 (frameField bs 28 4)) s
        let s := s.modPlPort n (fun p => { p with sent := bs, sentAt := some s.now, txSeq := seqx, txAny := true })
        if s.signalLossDue n then s else sendStep n s
      | .lost | .rejected | .off => s)

/-! ## Receiving (R348, R350) -/

/-- The outcome of the judgement of a frame. -/
inductive Judged where
  /-- Discarded at a step. -/
  | bad (step : Nat)
  /-- A late tune frame of the same partner: neither bad nor accepted. -/
  | late
  | tune (t : Tune)
  | safety (seqx : Word)
deriving DecidableEq, Repr

/-- The partner's START, 0 before any. -/
def PlPort.peerStart (p : PlPort) : Word := match p.peer with | some t => t.start | none => 0

/-- Steps 3 and 5 of a tune frame. -/
def judgeTune (c : PartnerCfg) (p : PlPort) (bs : List Byte) : Judged :=
  let t := readTune bs
  let held := p.st == .waitAccept || p.st == .up
  if held && t.start == p.peerStart then .late
  else if held && t.addr != c.peerAddr then .bad 3
  else if BitVec.ofNat 32 (frameField bs 28 4) ≠ frameCrc t.addr 0xFF 0 bs then .bad 5
  else .tune t

/-- Steps 3 to 6 of a safety frame. -/
def judgeSafety (c : PartnerCfg) (p : PlPort) (bs : List Byte) : Judged :=
  let last := if p.rxAny then p.rxSeq else p.peerStart
  let d := (frameField bs 2 2 + 65536 - last.toNat % 65536) % 65536
  let seqx := last + BitVec.ofNat 32 d
  let t := (if p.txAny then p.txSeq else p.start).toNat % 256
  if frameByte bs 1 ≠ c.peerAddr then .bad 3
  else if d = 0 ∨ c.wdog < d then .bad 4
  else if BitVec.ofNat 32 (frameField bs 28 4) ≠ frameCrc c.peerAddr c.localAddr seqx bs then .bad 5
  else if 2 * c.wdog < (t + 256 - frameByte bs 5) % 256 then .bad 6
  else .safety seqx

/-- A received frame judged in the order of R348. -/
def judgeFrame (c : PartnerCfg) (p : PlPort) (framed : Bool) (bs : List Byte) : Judged :=
  let tuned := p.st == .check || p.st == .waitAccept || p.st == .up
  if !framed || bs.length != 32 then .bad 1
  else if frameByte bs 0 = 0xC3 then
    (if tuned || p.st == .tune || p.st == .rejected then judgeTune c p bs else .bad 2)
  else if frameByte bs 0 = 0x3C then
    (if tuned || (p.st == .tune && p.peer.isSome) then judgeSafety c p bs else .bad 2)
  else .bad 2

/-- The check the receive channel computes over a frame whose SEQX is known (R369). -/
def rxCheck (c : PartnerCfg) (p : PlPort) (framed : Bool) (bs : List Byte) : Option Word :=
  let last := if p.rxAny then p.rxSeq else p.peerStart
  let d := (frameField bs 2 2 + 65536 - last.toNat % 65536) % 65536
  if !framed || bs.length != 32 then none
  else if frameByte bs 0 = 0xC3 then some (frameCrc (frameByte bs 1) 0xFF 0 bs)
  else if d = 0 ∨ c.wdog < d then none
  else some (frameCrc c.peerAddr c.localAddr (last + BitVec.ofNat 32 d) bs)

/-- A safety frame that port `n` accepts comes on the present tick as well. -/
def State.frameDue (s : State) (n : Fin 4) : Bool :=
  s.pending.any (fun c => match c with
    | .frameReceived m framed bs =>
      m == n && (match judgeFrame (s.partner n) s.pl.port[n] framed bs with | .safety _ => true | _ => false)
    | _ => false)

/-- LINK_WATCHDOG (R349): a frame accepted on the same tick wins (R363). -/
def execLinkWatchdog (n : Fin 4) (s : State) : Host.Outcome State Fault Refusal :=
  let s := keepImage n s
  let p : PlPort := s.pl.port[n]
  let c := s.partner n
  let from_ := match p.rxAt with | some t => t | none => p.since
  .next (
    if (p.st = .up ∨ p.st = .waitAccept) ∧ 100 * c.wdog * c.cycle ≤ elapsed s.now from_ ∧ !s.frameDue n then linkLoss n .lost s
    else s)

/-- An accepted safety frame enters the receive buffer. -/
def takeSafety (n : Fin 4) (seqx : Word) (bs : List Byte) (s : State) : State :=
  (tbEvent (0xB2 + n.val) s.now s).modPlPort n (fun p =>
    let last := if p.rxAny then p.rxSeq else p.peerStart
    { p with safe := (bs.drop 6).take 16, nsrx := BitVec.ofNat 48 (frameField bs 22 6), rxAt := some s.now, rxSeq := seqx,
             rxAny := true, missCnt := satAdd p.missCnt ((seqx - last).toNat - 1) })

/-- FRAME_RECEIVED: the end of a frame at the port, with its framing and bytes. -/
def execFrameReceived (n : Fin 4) (framed : Bool) (bytes : List Byte) (s : State) : Host.Outcome State Fault Refusal :=
  let c := s.partner n
  let p : PlPort := s.pl.port[n]
  let count := fun (s : State) => s.modPlPort n (fun p => { p with rxCnt := satInc p.rxCnt })
  .next (
    if c.type = 0 then s
    else
      let s := keepImage n s
      let s := match rxCheck c p framed bytes with | some v => snoop (3 + 2 * n.val) v s | none => s
      match judgeFrame c p framed bytes with
      | .late => s
      | .bad step =>
        linkCorrected 5 n step (s.modPlPort n (fun p => { p with badCnt := satInc p.badCnt, badReason := step }))
      | .tune t =>
        if s.signalLossDue n then s
        else
        let s := count s
        match p.st with
        | .tune =>
          let s := s.modPlPort n (fun p => { p with peer := some t })
          if p.peer.isSome ∧ t.echo = p.start then tuneDone n s else s
        | .waitAccept | .up => linkLoss n .lost s
        | _ => s
      | .safety seqx =>
        let s := takeSafety n seqx bytes (count s)
        if p.st = .tune ∧ !s.signalLossDue n then tuneDone n s else s)

/-! ## The payload the cores post (R347, R352, R454) -/

/-- The words a core posts at a scan close: 64 payload words, then the word ACCEPT of each port names. -/
def State.postWords (s : State) (c : Side) : List Word :=
  let x := s.core c
  (List.range 64).map (fun k => x.peek c (0x600 + k)) ++ (fins 4).map (fun n => x.peek c (s.partner n).accept)

/-- The first word in which two payloads differ. -/
def firstDiff (xs ys : List Word) : Option Nat :=
  (List.range 64).find? (fun k => xs[k]? != ys[k]?)

/-- Ports in WAIT_ACCEPT whose word reads true in the words of a scan both cores have closed go to UP (R352). -/
def acceptPorts (xs ys : List Word) (s : State) : State :=
  (fins 4).foldl (fun s n =>
    let p : PlPort := s.pl.port[n]
    if p.st = .waitAccept ∧ xs[64 + n.val]? = some 0xFFFFFFFF ∧ ys[64 + n.val]? = some 0xFFFFFFFF then plUp n (keepImage n s) else s) s

/-- Payload words of a scan that both cores have posted: agreed, or PAY_CMP when they differ in two consecutive scans. -/
def comparePayload (xs ys : List Word) (s : State) : State :=
  match firstDiff xs ys with
  | none => s.modPl (fun p => { p with agreed := xs.take 64, differed := false })
  | some k =>
    if s.pl.differed then
      recordFault { block := .pl, cause := 1, cls := .fatal, scope := 0, item := k, addr := k / 16 + 256 * (k % 16), init := 2,
                    acc := 0xB } s
    else s.modPl (fun p => { p with differed := true })

/-- A core's payload and acceptance words at a scan close. -/
def postPayload (c : Side) (s : State) : State :=
  let xs := s.postWords c
  if s.split then
    (if c = .b then acceptPorts xs xs (s.modPl (fun p => { p with agreed := xs.take 64 })) else s)
  else
    let scan := (s.core c).scan
    match (s.pl.posted.get c.other).find? (fun e => e.1 == scan) with
    | some e =>
      let (a, b) := if c = .a then (xs, e.2) else (e.2, xs)
      let s := s.modPl (fun p => { p with posted := p.posted.upd c.other (fun l => l.filter (fun e => scan < e.1)) })
      acceptPorts a b (comparePayload a b s)
    | none => s.modPl (fun p => { p with posted := p.posted.upd c (fun l => l ++ [(scan, xs)]) })

end Sys2Proof.Machine
end

