-- ==== Sys2Proof/Machine/Registers.lean ====
section
/-!
DEFINITION. Sys2Proof/Machine/Registers.lean: what every register of the BAR0 map reads (R6, R9, R291), block by block. A
reserved offset has no register and reads 0 (R292).
-/
namespace Sys2Proof.Machine

/-- The number of the register at offset `o` in a bank of `n` words from offset `base`, `stride` bytes apart. -/
def regIdx (base stride n o : Nat) : Option Nat :=
  if base ≤ o ∧ (o - base) % stride = 0 ∧ (o - base) / stride < n then some ((o - base) / stride) else none

/-- Bits `f 0` to `f (n - 1)` packed into a word. -/
def bitmap (n : Nat) (f : Nat → Bool) : Nat := (List.range n).foldr (fun k a => bit (f k) + 2 * a) 0

/-- Block identity (VERSION 0x01). -/
def blockId (b : Block) : Nat := b.id + 0x100

/-- A word of the snapshot most recently sealed, as EA holds it. -/
def State.lastSnap (s : State) (a : Nat) : Word :=
  let x := s.core .a
  if x.sealed.isSome then mget 0 x.fill a else mget 0 x.live a

/-! ## Fault records (R252, R253) -/

/-- Recoveries within the last 3,600 s. -/
def FaultRecord.hour (r : FaultRecord) (now : Tick) : Nat :=
  min 8 (r.recovAt.filter (fun t => decide (elapsed now t < 360000000000))).length

/-- Some uncleared fault of the record is of this class. -/
def FaultRecord.active (r : FaultRecord) (c : FaultClass) : Bool := r.insts.any (fun i => i.cls == c)

/-- The true copy of a record at offset `x` below 0x80. -/
def frWord (b : Block) (r : FaultRecord) (now : Tick) (x : Nat) : Nat :=
  match x with
  | 0x00 =>
    let quiet := r.insts.any (fun i => i.cls == .contained && (match i.life with | .quiet _ => true | _ => false))
    let act := [(bit (r.active .contained), 6, 1), (bit (r.active .fatal), 7, 1), (bit quiet, 20, 1)]
    packFields (match r.slot with
      | some e => [(1, 0, 1), (e.cls.code, 1, 2), (bit e.concurrent, 3, 1), (bit e.conseq, 4, 1), (bit e.escalated, 5, 1),
                   (e.cause.toNat, 8, 8), (e.scope.toNat, 16, 4)] ++ act
      | none => act)
  | 0x04 => match r.slot with | some e => e.addr.toNat | none => 0
  | 0x08 => match r.slot with | some e => e.init.toNat | none => 0
  | 0x0C => match r.slot with | some e => e.acc.toNat + 256 * bit e.port | none => 0
  | 0x10 => match r.slot with | some e => (loHalf e.time).toNat | none => 0
  | 0x14 => match r.slot with | some e => (hiHalf e.time).toNat | none => 0
  | 0x18 => r.cntCorr.toNat
  | 0x1C => r.cntCont.toNat
  | 0x20 => r.cntFatal.toNat
  | 0x24 => r.cntConc.toNat
  | 0x28 => r.cntConseq.toNat
  | 0x2C => r.cq.toNat + 65536 * r.fq.toNat
  | 0x30 => r.recovTotal.toNat + 65536 * r.hour now
  | 0x34 => bitmap 32 (fun c => r.insts.any (fun i => i.cause == c))
  | 0x38 => match r.slot with | some e => e.causeBlk.toNat | none => b.id
  | 0x3C => match r.slot with | some e => e.causeCode.toNat | none => 0
  | 0x40 => r.ien.toNat
  | _ => 0

/-- A register of a fault record: none at the reserved offsets of the true copy. -/
def frReg (b : Block) (s : State) (o : Nat) : Option Nat :=
  if o % 4 ≠ 0 then none
  else if 0x100 ≤ o ∧ o ≤ 0x140 then some (frWord b (s.frOf b) s.now (o - 0x100))
  else if 0x180 ≤ o ∧ o < 0x200 then some (0xFFFFFFFF - frWord b (s.frOf b) s.now (o - 0x180))
  else none

/-! ## Entries as loaded -/

def InputCfg.raw (c : InputCfg) : Nat :=
  packFields [(c.mode, 0, 2), (c.filter, 4, 12), (c.source, 16, 6), (bit c.pulsed, 22, 1), (c.partner, 23, 7), (bit c.paired, 30, 1)]

def StrumCfg.raw (c : StrumCfg) (w : Nat) : Nat :=
  match w with
  | 0 => packFields [(c.period, 0, 17), (c.dips.length, 17, 4), (bit c.enable, 21, 1)]
  | 1 => c.phase
  | n + 2 => match c.dips[n]? with | some (a, b) => packFields [(a, 0, 17), (b, 17, 9)] | none => 0

def OutputCfg.raw (c : OutputCfg) (w : Nat) : Nat :=
  if w = 0 then packFields [(bit c.enable, 0, 1), (c.dark, 1, 9), (c.darkInt, 10, 14), (c.load, 24, 2)]
  else packFields [(c.iMin, 0, 12), (c.iMax, 16, 12)]

def AxisCfg.raw (c : AxisCfg) (w : Nat) : Nat :=
  match w with
  | 0 => packFields [(c.mode, 0, 2), (bit c.invert, 2, 1)]
  | 1 => c.pitchNm
  | 2 => c.perRev
  | _ => c.vlMin + 65536 * c.vlMax

/-! ## Block by block -/

/-- Count of a generator on the present tick: on a wrap tick it is 0 again. -/
def Pg.count (g : Pg) (now : Tick) : Nat := if g.en then elapsed now (g.seen now).base else g.stopped.toNat

/-- IB (R146). VF_OK shows the monitors' status of PCR_STAT.VF_OK for the operating range (log 129). -/
def regIb (s : State) (o : Nat) : Option Nat :=
  let inp : Nat → Fin 128 := fun i => ⟨i % 128, Nat.mod_lt _ (by decide)⟩
  match o with
  | 0x004 =>
    let ref := if s.dev = .reset then 0 else (bitmap 4 (fun q => s.ib.refOk.getLsbD q && (s.pcr.vfOk[q]?).getD false))
    some (packFields [(ref, 0, 4), (bitmap 4 (fun q => (s.pcr.vfOk[q]?).getD false), 4, 4),
                      (bitmap 4 (fun q => s.quarterFaulted ⟨q % 4, Nat.mod_lt _ (by decide)⟩), 8, 4)])
  | 0x040 => some s.ib.thrSel.toNat
  | 0x044 =>
    let x : Input := s.ib.inp[inp s.ib.thrSel.toNat]
    let age := match x.testedAt with | some t => min 0xFFFFFF (elapsed s.now t / 100000000) | none => 0xFFFFFF
    some (packFields [(x.steps.toNat, 0, 5), (bit x.pass, 5, 1), (bit x.liveIdx, 6, 1), (age, 8, 24)])
  | 0x048 => some s.ib.thrCnt.toNat
  | _ =>
    (regIdx 0x010 4 4 o).map (fun q => bitmap 32 (fun n => tru (s.lastSnap (32 * q + n)))) <|>
    (regIdx 0x020 4 4 o).map (fun q => bitmap 32 (fun n => (s.lastSnap (0x80 + 32 * q + n)).getLsbD 0)) <|>
    (regIdx 0x030 4 4 o).map (fun q => bitmap 32 (fun n =>
      let i := inp (32 * q + n)
      let x : Input := s.ib.inp[i]
      (s.inputCfg i).mode != 0 && x.runs s.now && x.live)) <|>
    (regIdx 0x200 4 128 o).map (fun i => (s.inputCfg (inp i)).raw) <|>
    (regIdx 0x400 4 128 o).map (fun i => (s.lastSnap (0x80 + i)).toNat)

/-- PS (R166). -/
def regPs (s : State) (o : Nat) : Option Nat :=
  let src : Nat → Fin 32 := fun k => ⟨k % 32, Nat.mod_lt _ (by decide)⟩
  match o with
  | 0x004 => some (bitmap 32 (fun k => (s.strumCfg (src k)).enable))
  | 0x008 => some (bitmap 32 (fun k => s.sourceOn (src k)))
  | 0x00C => some (bitmap 32 (fun k => s.uncleared .ps 2 k || s.uncleared .ps 3 k))
  | 0x010 => some (Pg.count s.tb.pg[0] s.now / 100)
  | 0x014 => some s.ps.missCnt.toNat
  | 0x018 => some s.ps.unexpCnt.toNat
  | 0x01C => some s.ps.nochkCnt.toNat
  | _ =>
    (regIdx 0x200 4 320 o).map (fun w => (s.strumCfg (src (w / 10))).raw (w % 10)) <|>
    (regIdx 0x700 4 32 o).map (fun k => (s.lastSnap (0x190 + k)).toNat)

/-- The reported speed of path 0 of an axis from the words of the last snapshot (R177): signed and saturating. -/
def State.physSpeed (s : State) (a : Fin 64) : Word :=
  let c := s.axisCfg a
  let base := 0x800 + 16 * a.val
  if c.mode = 0 ∨ !(s.lastSnap (base + 3)).getLsbD 0 then 0
  else
    let v := (s.lastSnap (base + 1)).toInt
    let n0 : Int := if c.mode = 1 then 4096 else 4
    sat32 (if c.pitchNm ≠ 0 then (v * c.pitchNm * 100000).tdiv (n0 * 1024) else (v * 5859375).tdiv (n0 * c.perRev))

/-- AF (R200). -/
def regAf (s : State) (o : Nat) : Option Nat :=
  let ax : Nat → Fin 64 := fun a => ⟨a % 64, Nat.mod_lt _ (by decide)⟩
  let vld : Nat → Nat → Nat := fun p h => bitmap 32 (fun n => (s.lastSnap (0x800 + 16 * (32 * h + n) + 8 * p + 3)).getLsbD 0)
  match o with
  | 0x004 => some (packFields [(bitmap 4 (fun q => ((s.af.q.toList[q]?).map (·.meas)).getD false), 0, 4),
                               (bitmap 4 (fun q => s.afFault 1 1 q || s.afFault 7 1 q), 4, 4)])
  | 0x008 => some (vld 0 0)
  | 0x00C => some (vld 0 1)
  | 0x010 => some (vld 1 0)
  | 0x014 => some (vld 1 1)
  | 0x018 => some (s.af.sel.toNat + 64 * bit s.af.spare)
  | 0x01C =>
    let a := s.af.sel.toNat
    let c : Corr := ((s.af.q[quarterOfAxis a] : AfQuarter).corr.toList[if s.af.spare then 16 else a % 16]?).getD ⟨0, 0, 0, 0⟩
    some (packFields [(c.ofsS.toNat, 0, 8), (c.ofsC.toNat, 8, 8), (c.gainS.toNat, 16, 8), (c.gainC.toNat, 24, 8)])
  | 0x020 => some s.af.calCnt.toNat
  | 0x024 => some (s.physSpeed (ax s.af.sel.toNat)).toNat
  | _ =>
    (regIdx 0x200 4 256 o).map (fun w => (s.axisCfg (ax (w / 4))).raw (w % 4)) <|>
    (regIdx 0x600 4 128 o).map (fun w => (s.lastSnap (0x800 + 8 * w + 3)).toNat)

/-- OS (R227). -/
def regOs (s : State) (o : Nat) : Option Nat :=
  let out : Nat → Fin 144 := fun k => ⟨k % 144, Nat.mod_lt _ (by decide)⟩
  let quarter : (Fin 144 → Bool) → Nat → Nat := fun f q => bitmap 32 (fun n => f (out (32 * q + n)))
  match o with
  | 0x004 =>
    some (packFields [(bit s.os.permit, 0, 1), (bit s.os.inhib.a, 1, 1), (bit s.os.inhib.b, 2, 1), (bit s.runPin, 3, 1),
                      (bitmap 4 (fun q => s.quarterFaulted ⟨q % 4, Nat.mod_lt _ (by decide)⟩), 4, 4)])
  | 0x040 => some (bitmap 32 (fun n => s.switchOn (out (128 + n % 16)) (if n < 16 then .a else .b)))
  | 0x044 => some s.os.darkCnt.toNat
  | 0x048 => some s.os.forcedCnt.toNat
  | _ =>
    (regIdx 0x010 4 4 o).map (quarter (fun k => s.switchOn k .a)) <|>
    (regIdx 0x020 4 4 o).map (quarter (fun k => s.switchOn k .b)) <|>
    (regIdx 0x030 4 4 o).map (quarter (fun k => let x : Output := s.os.out[k]; x.termHi)) <|>
    (regIdx 0x200 4 288 o).map (fun w => (s.outputCfg (out (w / 2))).raw (w % 2)) <|>
    (regIdx 0x680 4 144 o).map (fun k =>
      if s.dev = .hold then (s.outputWord (out k)).toNat
      else (s.lastSnap (if k < 128 then 0x100 + k else 0x180 + (k - 128))).toNat)

/-- The code of a sequencer state (R58). -/
def Seq.code : Seq → Nat
  | .stopped => 0 | .wait => 1 | .scan => 2 | .close => 3 | .halted => 4

/-- The table that runs on EA: none in RESET, in RECOVERY and in START before the first configured scan (R513). -/
def State.running (s : State) : Option Table :=
  if s.configured && s.dev != .recovery then (s.core .a).table else none

/-- PMAX and PMIN of a core packed. -/
def CoreSt.peak (x : CoreSt) : Word := regOf [(x.pmax.toNat, 0, 16), (x.pmin.toNat, 16, 16)]

/-- EV (R60). -/
def regEv (s : State) (o : Nat) : Option Nat :=
  let a := s.core .a
  match o with
  | 0x004 =>
    some (packFields [(s.ev.mir.seq.a.code, 0, 3), (s.ev.mir.seq.b.code, 3, 3), (bit s.ev.mir.live.a, 6, 1), (bit s.ev.mir.live.b, 7, 1),
                      (bit ((s.running.map (·.real)).getD false), 8, 1), (bit s.split, 9, 1),
                      (if s.dev = .halt then s.st.dbg.rank.toNat else 0, 16, 9)])
  | 0x008 => some (match s.running with | some t => packFields [(t.ranks, 0, 9), (16 * t.ranks, 16, 13)] | none => 0)
  | 0x00C => some (match s.running with | some t => packFields [(t.scanMax, 0, 16), (t.scanMin, 16, 16)] | none => 0)
  | 0x010 => some (loHalf s.ev.mir.scan).toNat
  | 0x014 => some (hiHalf s.ev.mir.scan).toNat
  | 0x018 => some (packFields [(a.per.toNat, 0, 16), (s.ev.mir.perB.toNat, 16, 16)])
  | 0x01C => some a.peak.toNat
  | 0x020 => some s.ev.mir.peakB.toNat
  | 0x024 => some (packFields [(s.ev.lag.toNat, 0, 9), (s.ev.lagPeak.toNat, 16, 9)])
  | 0x028 => some s.ev.mir.malfA.toNat
  | 0x02C => some s.ev.mir.malfB.toNat
  | 0x030 => some 0
  | 0x034 => some s.ev.mir.snapCv.toNat
  | 0x038 => some s.ev.mir.qv.toNat
  | _ => none

/-- Kerfs are compared (R248, SC_STAT.CMP). -/
def State.comparing (s : State) : Bool := !s.split && s.dev != .reset && s.dev != .recovery

/-- SC (R267). -/
def regSc (s : State) (o : Nat) : Option Nat :=
  match o with
  | 0x004 =>
    some (packFields [(bit s.comparing, 0, 1), (bit s.sc.kok, 1, 1), (bit s.sc.half.a.mis, 2, 1), (bit s.sc.half.b.mis, 3, 1),
                      ((s.running.map (·.kerf)).getD 0, 8, 7)])
  | 0x008 => some (loHalf s.sc.knum).toNat
  | 0x00C => some (hiHalf s.sc.knum).toNat
  | 0x010 => some (loHalf s.sc.sigA).toNat
  | 0x014 => some (hiHalf s.sc.sigA).toNat
  | 0x018 => some (loHalf s.sc.sigB).toNat
  | 0x01C => some (hiHalf s.sc.sigB).toNat
  | 0x020 => some (packFields [(s.sc.skew.toNat, 0, 16), (s.sc.peak.toNat, 16, 16)])
  | 0x024 => some s.sc.chkCnt.toNat
  | _ => none

/-- STATE of a timer cell. -/
def Cell.code : Cell → Nat
  | .idle => 0 | .running _ _ => 1 | .expired => 2

/-- TB (R288): cells, generators and compare channels as they are on the present tick. A read of CAP_LO is a command of its
own. -/
def regTb (s : State) (o : Nat) : Option Nat :=
  let pg : Nat → Pg := fun g => ((s.tb.pg.toList[g]?).getD (Pg.reset 3)).seen s.now
  let cmp : Nat → Cmp := fun n => ((s.tb.cmp.toList[n]?).getD Cmp.reset).seen s.now
  let cap : Nat → Cap := fun c => (s.tb.cap.toList[c]?).getD Cap.reset
  let cell : Cell := (s.tb.master[s.tb.cellSel.toFin] : Cell).seen s.now
  match o with
  | 0x004 =>
    some (packFields [(bit s.tb.lock.a, 0, 1), (bit s.tb.lock.b, 1, 1), (bit s.tb.chkOk, 2, 1),
                      ((s.tb.master.toList.filter (fun c => (c.seen s.now).code == 1)).length, 8, 9)])
  | 0x008 => some (loHalf s.tb.now).toNat
  | 0x00C => some (hiHalf s.tb.now).toNat
  | 0x010 => some s.tb.chkDiff.toNat
  | 0x014 => some (s.tb.cmpFlg.toNat ||| bitmap 32 (fun n => ((s.tb.cmp.toList[n]?).getD Cmp.reset).due s.now))
  | 0x018 => some (s.tb.pgFlg.toNat ||| bitmap 16 (fun g => decide (3 ≤ g) && ((s.tb.pg.toList[g]?).getD (Pg.reset 3)).due s.now))
  | 0x01C => some (bitmap 16 (fun c => !(cap c).queue.isEmpty))
  | 0x020 => some s.tb.ienCmp.toNat
  | 0x024 => some s.tb.ienPc.toNat
  | 0x028 => some 0
  | 0x02C => some s.tb.cellSel.toNat
  | 0x030 => some (cell.code + 4 * ((s.tb.shadow[s.tb.cellSel.toFin] : Cell).seen s.now).code)
  | 0x034 => some (match cell with | .running d _ => (elapsed d s.now + 99) / 100 % 2 ^ 27 | _ => 0)
  | _ =>
    (regIdx 0x200 16 32 o).map (fun n => (cmp n).lo.toNat) <|>
    (regIdx 0x204 16 32 o).map (fun n => (hiHalf (cmp n).value).toNat) <|>
    (regIdx 0x208 16 32 o).map (fun n => bit (cmp n).en + 2 * bit (cmp n).late) <|>
    (regIdx 0x400 16 16 o).map (fun g => bit (pg g).en + 4 * bit (pg g).pendAt.isSome) <|>
    (regIdx 0x404 16 16 o).map (fun g => (pg g).reload.toNat) <|>
    (regIdx 0x408 16 16 o).map (fun g => (pg g).pend.toNat) <|>
    (regIdx 0x40C 16 16 o).map (fun g => (pg g).count s.now % 2 ^ 32) <|>
    (regIdx 0x500 16 16 o).map (fun c => packFields [((cap c).src.toNat, 0, 8), ((cap c).edge.toNat, 8, 2), ((cap c).tap.toNat, 10, 2)]) <|>
    (regIdx 0x504 16 16 o).map (fun c => packFields [((cap c).queue.length, 0, 3), (bit (cap c).ovf, 3, 1), ((cap c).ovfCnt.toNat, 16, 16)]) <|>
    (regIdx 0x508 16 16 o).map (fun c => match (cap c).queue with | e :: _ => (loHalf e).toNat | [] => 0) <|>
    (regIdx 0x50C 16 16 o).map (fun _ => 0)

/-- The link is in L0 or L1. -/
def HpPort.linkUp (h : HpPort) : Bool := h.link == .l0 || h.link == .l1

/-- HP, each port its own (R289, R298). -/
def regHp (p : Side) (s : State) (o : Nat) : Option Nat :=
  let h := s.hport p
  match o with
  | 0x000 => some (blockId .hp + 65536 * p.num)
  | 0x004 => some (packFields (if h.linkUp then [(h.rate.toNat, 0, 2), (h.width.toNat, 2, 2), (bit (h.link == .l1), 4, 1),
                                                 (bit h.d3, 5, 1)] else [(bit h.d3, 5, 1)]))
  | 0x008 => some h.refused.toNat
  | 0x00C => some h.ca.toNat
  | 0x010 => some h.disc.toNat
  | 0x014 => some h.linkDn.toNat
  | _ => (regIdx 0x040 4 14 o).map (fun b =>
      let m : VMap := (h.vmap.toList[b]?).getD ⟨0, false, 0, false⟩
      packFields [(m.fvec.toNat, 0, 5), (bit m.fen, 7, 1), (m.evec.toNat, 8, 5), (bit m.een, 15, 1)])

/-- WQ_JPASS (R334): passes of the ring of 131,072 words by records of three words. -/
def State.jpass (s : State) : BitVec 64 := BitVec.ofNat 64 ((s.store s.survivor).jwritten * 3 / 131072)

/-- The journal of a store is in use (R338). -/
def State.journalUsed (s : State) (i : Side) : Bool := s.wq.replayed && (s.store i).st == .sound && (s.store i).readable && !s.uncleared .wq 1 i.num

/-- WQ (R338). -/
def regWq (s : State) (o : Nat) : Option Nat :=
  let a := s.journalUsed .a
  let b := s.journalUsed .b
  match o with
  | 0x004 => some (packFields [(bit a, 0, 1), (bit b, 1, 1), (bit (a != b), 2, 1), (bit s.wq.replayed, 3, 1)])
  | 0x008 => some s.wq.accCnt.toNat
  | 0x00C => some s.wq.replayCnt.toNat
  | 0x010 => some s.wq.dropCnt.toNat
  | 0x014 => some (s.wq.dropPage.toNat + 65536 * bit s.wq.dropPort)
  | 0x018 => some (loHalf s.jpass).toNat
  | 0x01C => some (hiHalf s.jpass).toNat
  | _ => none

/-- PL (R366). -/
def regPl (s : State) (o : Nat) : Option Nat :=
  let port : Nat → PlPort := fun n => (s.pl.port.toList[n]?).getD PlPort.reset
  let of_ : Nat → (PlPort → Nat) → Option Nat := fun x f => (regIdx (0x200 + x) 0x40 4 o).map (fun n => f (port n))
  match o with
  | 0x004 => some (packFields [(bitmap 4 (fun n => (port n).st == .up), 0, 4), (bitmap 4 (fun n => (port n).subst), 4, 4),
                               (bitmap 4 (fun n => (port n).winOpen s.now), 8, 4), (bit s.pl.lock, 12, 1)])
  | 0x008 => some s.pl.ien.toNat
  | 0x00C => some s.pl.evt.toNat
  | _ =>
    of_ 0x00 (fun p =>
      let t := if p.tuned then p.peer else none
      packFields [(p.st.code, 0, 4), (p.reason.toNat, 4, 4), ((t.map (·.addr)).getD 0, 8, 8), ((t.map (·.ptype)).getD 0, 16, 8)]) <|>
    of_ 0x04 (fun p => if p.tuned then ((p.peer.map (·.ident.toNat)).getD 0) else 0) <|>
    of_ 0x08 (fun p => p.winRem s.now % 65536) <|>
    of_ 0x0C (fun p => p.txSeq.toNat) <|> of_ 0x10 (fun p => p.rxSeq.toNat) <|>
    of_ 0x14 (fun p => p.rxCnt.toNat) <|> of_ 0x18 (fun p => p.badCnt.toNat) <|>
    of_ 0x1C (fun p => p.missCnt.toNat) <|> of_ 0x20 (fun p => p.lostCnt.toNat) <|>
    of_ 0x24 (fun p => p.nsrx.toNat % 2 ^ 32) <|> of_ 0x28 (fun p => p.nsrx.toNat / 2 ^ 32) <|>
    of_ 0x2C (fun p => p.nstx.toNat % 2 ^ 32) <|> of_ 0x30 (fun p => p.nstx.toNat / 2 ^ 32) <|>
    of_ 0x34 (fun p => (p.age s.now).toNat)

/-- A channel as its registers show it: while it is held by an item, the saved values (R375, R376). -/
def Cvw.shown (x : Cvw) : Cvw :=
  match x.saved with | some (m, v) => { x with mode := m, val := v } | none => x

/-- A channel as a read of VAL or RES finds it: that read waits for every feed queued before it (R372). -/
def Cvw.fed (x : Cvw) : Cvw := (x.applyAll x.queue).shown

/-- CV (R381). -/
def regCv (s : State) (o : Nat) : Option Nat :=
  let fin4 : Nat → Fin 4 := fun n => ⟨n % 4, Nat.mod_lt _ (by decide)⟩
  let of_ : Nat → (Cvw → Nat) → Option Nat := fun x f => (regIdx (0x200 + x) 0x20 4 o).map (fun n => f (s.chan (fin4 n)))
  match o with
  | 0x004 =>
    some (packFields [(bitmap 4 (fun n => !(s.chan (fin4 n)).queue.isEmpty), 0, 4),
                      (bitmap 4 (fun n => s.chanHeld (fin4 n)), 4, 4),
                      (s.cv.katS.toNat, 8, 12), (s.cv.katW.toNat, 20, 4)])
  | 0x008 => some s.cv.katCnt.toNat
  | 0x00C => some s.cv.rebuildCnt.toNat
  | _ =>
    of_ 0x00 (fun x => bit x.shown.mode) <|> of_ 0x04 (fun x => x.fed.val.toNat) <|>
    of_ 0x08 (fun x => (cvRes x.fed.mode x.fed.val).toNat) <|>
    of_ 0x0C (fun _ => 0) <|> of_ 0x10 (fun _ => 0) <|> of_ 0x14 (fun _ => 0) <|>
    (regIdx 0x300 4 12 o).map (fun c => ((s.cv.last.toList[c]?).getD 0).toNat)

/-- A sector of an area that is never written (R384). -/
def reservedSector (k : Nat) : Bool := (decide (0x491 ≤ k) && decide (k < 0x4A0)) || decide (0x520 ≤ k)

/-- Writes counted in a sector (R389): one pass count for each cyclic area, else the sector's own. -/
def Store.wearAt (x : Store) (k : Nat) : Nat :=
  if reservedSector k then 0
  else if 0x080 ≤ k ∧ k < 0x180 then x.jwritten * 3 / 131072
  else wearOf (if 0x180 ≤ k ∧ k < 0x380 then 0x180 else if 0x380 ≤ k ∧ k < 0x480 then 0x380 else k) x.wear

/-- A user-area sector is above 9 × 10^8 writes (R389). -/
def Store.worn (x : Store) : Bool := (List.range 128).any (fun k => decide (900000000 < x.wearAt (0x4A0 + k)))

/-- MS (R401). -/
def regMs (s : State) (o : Nat) : Option Nat :=
  let inService := fun (i : Side) => (s.store i).st == .sound && (s.store i).readable && s.wq.replayed
  match o with
  | 0x004 =>
    some (packFields [(bit (inService .a), 0, 1), (bit (inService .b), 1, 1),
                      (bit ((s.store .a).st == .resync || (s.store .b).st == .resync), 2, 1),
                      (bit ((s.store .a).worn || (s.store .b).worn), 3, 1),
                      (bit (match s.ms.readScrub with | some t => decide (s.now.toNat < t.toNat) | none => false), 4, 1)])
  | 0x008 => some s.ms.sramCorr.toNat
  | 0x00C => some s.ms.scrubPass.toNat
  | 0x010 => some s.ms.storeCorr.toNat
  | 0x014 => some s.ms.logHead.toNat
  | 0x018 => some s.ms.logDrop.toNat
  | 0x01C => some (loHalf s.ms.pub).toNat
  | 0x020 => some (hiHalf s.ms.pub).toNat
  | 0x024 => some (s.ms.wearSel.toNat + 2048 * s.ms.wearStore.num)
  | 0x028 => some (min 0xFFFFFFFF ((s.store s.ms.wearStore).wearAt s.ms.wearSel.toNat / 256))
  | _ => none

/-- PCR (R428). -/
def regPcr (s : State) (o : Nat) : Option Nat :=
  let p := s.pcr
  let k := p.bk.a
  match o with
  | 0x004 =>
    some (packFields [(bit p.vlOk.a, 0, 1), (bit p.vlOk.b, 1, 1), (bitmap 4 (fun q => (p.vfOk[q]?).getD false), 2, 4),
                      (bit p.vbakOk, 6, 1), (bit p.bakRun, 7, 1), (bit p.soscOk.a, 8, 1), (bit p.soscOk.b, 9, 1),
                      (bit p.refOk, 10, 1), (bit (p.strOk.a && p.strOk.b), 11, 1), (bit p.tbfOk, 12, 1)])
  | 0x008 => some (packFields [(p.cause.toNat, 0, 8), (p.level.code, 8, 2), (bit p.bakValid, 10, 1), (p.since.toNat, 17, 9)])
  | 0x00C => some (k.rcount.toNat + 8 * bit (s.dev == .recovery))
  | 0x010 => some k.life.toNat
  | 0x014 => some p.histSel.toNat
  | 0x018 => some ((k.hist.toList[p.histSel.toNat - 1]?).getD 0).toNat
  | 0x01C => some (k.last.toNat + 16 * k.prev.toNat)
  | 0x020 => some 0
  | 0x024 => some (p.vlMv.a.toNat + 65536 * p.vlMv.b.toNat)
  | 0x028 => some (p.vfMv[0].toNat + 65536 * p.vfMv[1].toNat)
  | 0x02C => some (p.vfMv[2].toNat + 65536 * p.vfMv[3].toNat)
  | 0x030 => some p.vbakMv.toNat
  | 0x034 => some p.tstart.toNat
  | 0x038 => some p.freq.toNat
  | _ => none

/-- Debug is available by life cycle (R439). -/
def State.dbgAvail (s : State) : Bool := s.st.lc == .develop || s.st.lc == .commission

/-- Words of operand memory that a row of the table reads or writes, or that have an initial value. -/
def Table.usedWords (t : Table) : List Nat :=
  t.rows.flatMap (fun r => rowReads t.modes r ++ rowWrites r) ++ t.init.map (·.1)

/-- Idle 32-word blocks of operand memory, in ascending address (R431). -/
def Table.idleBlocks (t : Table) : List Nat :=
  let used := t.usedWords.map (fun a => a / 32)
  (List.range 256).filter (fun k => !snapAddr (32 * k) && !used.contains k)

/-- Idle blocks of a core's row memory and of its operand memory. A rank of rows is one block. -/
def State.rowBlocks (s : State) (c : Side) : Nat := match (s.core c).table with | some t => 256 - t.ranks | none => 0
def State.opBlocks (s : State) (c : Side) : List Nat := match (s.core c).table with | some t => t.idleBlocks | none => []

/-- MARCH slices of a round (R431). -/
def State.marchSlices (s : State) : Nat :=
  32768 + s.rowBlocks .a + s.rowBlocks .b + (s.opBlocks .a).length + (s.opBlocks .b).length

/-- Slices of a round by class bit: THR, REF, PSL, ORB, CLK, KAT, MARCH, STORE (R431). -/
def State.sliceCounts (s : State) : List Nat := [128, 4, 32, 144, 8, 14, s.marchSlices, 4128]

/-- Class and index within it of the k-th of the 330 slices of classes 0 to 5. -/
def fixedSlice (k : Nat) : Nat × Nat :=
  if k < 128 then (0, k)
  else if k < 132 then (1, k - 128)
  else if k < 164 then (2, k - 132)
  else if k < 308 then (3, k - 164)
  else if k < 316 then (4, k - 308)
  else (5, k - 316)

/-- Class and index of the slice at a position of the round, which holds `march` MARCH slices (R432). -/
def sliceAt (march p : Nat) : Nat × Nat :=
  if p % 8 = 0 ∧ p / 8 < 330 then fixedSlice (p / 8)
  else
    let m := p - min 330 ((p + 7) / 8)
    if m < march then (6, m) else (7, m - march)

/-- The memory, the die and the first word of the block of a MARCH slice (R432): true for landing SRAM. -/
def State.marchBlock (s : State) (m : Nat) : Bool × Side × Nat :=
  let ra := s.rowBlocks .a
  let rb := s.rowBlocks .b
  let oa := s.opBlocks .a
  let ranks := fun (c : Side) => match (s.core c).table with | some t => t.ranks | none => 0
  if m < 16384 then (true, .a, 32 * m)
  else if m < 32768 then (true, .b, 32 * (m - 16384))
  else if m < 32768 + ra then (false, .a, 32 * (ranks .a + (m - 32768)))
  else if m < 32768 + ra + rb then (false, .b, 32 * (ranks .b + (m - 32768 - ra)))
  else
    let k := m - 32768 - ra - rb
    if k < oa.length then (false, .a, 32 * oa.getD k 0) else (false, .b, 32 * (s.opBlocks .b).getD (k - oa.length) 0)

/-- The block whose MARCH slice runs. -/
def State.marching (s : State) : Option (Bool × Side × Nat) :=
  match s.st.slice with
  | some (pos, _, _) => let (c, k) := sliceAt s.marchSlices pos; if c = 6 then some (s.marchBlock k) else none
  | none => none

/-- Bytes [a, a + n) of a port's landing SRAM meet the block under test (R435). -/
def State.marchMeets (s : State) (p : Side) (a n : Nat) : Bool :=
  match s.marching with
  | some (true, d, w) => d == p && decide (a < 4 * w + 128) && decide (4 * w < a + n)
  | _ => false

/-- A debug halt arrives: it interrupts a MARCH slice of EA's memories (R434, R456). -/
def marchYield (s : State) : State :=
  match s.marching with | some (false, .a, _) => cruiseInterrupt s | _ => s

/-- ST (R458). -/
def regSt (s : State) (o : Nat) : Option Nat :=
  let x := s.st
  match o with
  | 0x004 =>
    some (packFields [(LifeCycle.code x.lc, 0, 4), (bit x.strap, 4, 1), (bit x.fullOk, 5, 1), (bit x.cruise, 6, 1), (bit x.full.isSome, 7, 1),
                      (bit x.ack.isSome, 8, 1), (bit ((x.ack.map (·.tap)).getD false), 9, 1), (bit s.dbgAvail, 10, 1),
                      (bit (x.dbg.haltA && x.dbg.haltB), 11, 1), (bit x.late, 12, 1)])
  | 0x008 => some x.rounds.toNat
  | 0x00C => some x.rtime.toNat
  | 0x010 => some (x.pos % 65536 + 65536 * (if s.running.isSome then s.sliceCounts.sum % 65536 else 0))
  | 0x014 => some x.deferCnt.toNat
  | 0x018 => some x.intrCnt.toNat
  | 0x01C => some (x.failCur.toNat + 256 * x.failLast.toNat)
  | _ => none

/-- A register of a block. -/
def blockReg (b : Block) (p : Side) (s : State) (o : Nat) : Option Nat :=
  if 0x100 ≤ o ∧ o < 0x200 then frReg b s o
  else if o = 0 ∧ b ≠ .hp then some (blockId b)
  else match b with
    | .ib => regIb s o | .ps => regPs s o | .af => regAf s o | .os => regOs s o | .ev => regEv s o | .sc => regSc s o
    | .tb => regTb s o | .hp => regHp p s o | .wq => regWq s o | .pl => regPl s o | .cv => regCv s o | .ms => regMs s o
    | .pcr => regPcr s o | .st => regSt s o

/-- MOD_STAT as read through a port (R25, R289). -/
def modStat (p : Side) (s : State) : Nat :=
  packFields [(s.dev.code, 0, 4), (LifeCycle.code s.st.lc, 4, 4), (bit s.split, 8, 1), (bit s.faultLow, 9, 1), (bit s.runPin, 10, 1),
              (bit (s.hport p.other).linkUp, 11, 1)]

/-- Module serial (R290). -/
def State.serial (s : State) : BitVec 64 := (s.store s.survivor).identity.serial

/-- The module page. -/
def moduleReg (p : Side) (s : State) (o : Nat) : Option Nat :=
  match o with
  | 0x000 => some 0x0001E064
  | 0x004 => some (modStat p s)
  | 0x008 => some (packFields [(match s.hp.owner with | none => 0 | some .a => 1 | some .b => 2, 0, 2),
                               (bit (s.hp.owner == some p), 8, 1)])
  | 0x010 => some (loHalf s.serial).toNat
  | 0x014 => some (hiHalf s.serial).toNat
  | _ => none

/-- Open items of a ring: accepted, and their completions not yet covered; skipped descriptors count for the fetch limit
only (R311, R327). -/
def Sq.open_ (q : Sq) : Nat := (q.items.filter (fun i => !i.skip)).length

/-- A replayed completion of the ring waits for its CQ (R329, R339). -/
def Sq.replayWaits (q : Sq) : Bool :=
  q.items.any (fun i => i.old && (match i.stage with | .ready _ _ _ => true | _ => false))

/-- Ring set-up of a port (R339). -/
def ringReg (p : Side) (s : State) (o : Nat) : Option Nat :=
  let w := s.wport p
  let sq : Nat → Sq := fun n => (w.sq.toList[n]?).getD Sq.reset
  let cq : Nat → Cq := fun n => (w.cq.toList[n]?).getD Cq.reset
  let sqr : Nat → (Sq → Nat) → Option Nat := fun x f => (regIdx x 0x40 8 o).map (fun n => f (sq n))
  let cqr : Nat → (Cq → Nat) → Option Nat := fun x f => (regIdx (0x200 + x) 0x40 8 o).map (fun n => f (cq n))
  match o with
  | 0x400 => some (packFields [(bitmap 8 (fun n => (sq n).en), 0, 8), (bitmap 8 (fun n => (cq n).en), 8, 8),
                               (bitmap 8 (fun n => (sq n).replayWaits), 16, 8)])
  | 0x404 => some ((w.sq.toList.map Sq.open_).sum % 4096)
  | _ =>
    sqr 0x00 (fun q => (loHalf q.base).toNat) <|> sqr 0x04 (fun q => (hiHalf q.base).toNat) <|>
    sqr 0x08 (fun q => q.size.toNat + 16 * q.cq.val) <|> sqr 0x0C (fun q => bit q.en + 4 * bit q.err) <|>
    sqr 0x10 (fun q => q.seq0.toNat) <|> sqr 0x14 (fun q => q.nextSeq.toNat) <|> sqr 0x18 (fun q => q.head) <|>
    sqr 0x1C (fun q => q.open_ % 4096) <|>
    cqr 0x00 (fun q => (loHalf q.base).toNat) <|> cqr 0x04 (fun q => (hiHalf q.base).toNat) <|>
    cqr 0x08 (fun q => (loHalf q.tag).toNat) <|> cqr 0x0C (fun q => (hiHalf q.tag).toNat) <|>
    cqr 0x10 (fun q => packFields [(q.size.toNat, 0, 4), (q.vec.toNat, 4, 5), (bit q.ien, 9, 1), (q.coalN.toNat, 16, 8),
                                   (q.coalT.toNat, 24, 8)]) <|>
    cqr 0x14 (fun q => bit q.en) <|> cqr 0x18 (fun q => q.startIdx + 4096 * bit q.startPhase) <|>
    cqr 0x1C (fun q => q.tail + 4096 * bit q.phase)

/-- A word of the MSI-X table and pending bits (R291). -/
def msixReg (p : Side) (s : State) (o : Nat) : Option Nat :=
  let h := s.hport p
  if o = 0x1000 then some h.pend.toNat
  else if o < 0x200 ∧ o % 4 = 0 then
    let e : MsixEntry := (h.msix.toList[o / 16]?).getD ⟨0, 0, true⟩
    some (match o % 16 with
      | 0 => (loHalf e.addr).toNat | 4 => (hiHalf e.addr).toNat | 8 => e.data.toNat | _ => bit e.mask)
  else none

/-- The register at a BAR0 offset, as a port reads it (R291). -/
def bar0Reg (p : Side) (s : State) (off : Nat) : Option Nat :=
  if off % 4 ≠ 0 then none
  else if off < 0x1000 then moduleReg p s off
  else if off < 0xF000 then (Block.ofId (off / 0x1000)).bind (fun b => blockReg b p s (off % 0x1000))
  else if 0x10000 ≤ off ∧ off < 0x12000 then ringReg p s (off - 0x10000)
  else if 0x12000 ≤ off ∧ off < 0x12040 then some 0
  else if 0x3E000 ≤ off ∧ off < 0x3F004 then msixReg p s (off - 0x3E000)
  else none

end Sys2Proof.Machine
end

