-- ==== Sys2Proof/Machine/Items.lean ====
section
/-!
DEFINITION. Sys2Proof/Machine/Items.lean: work items (chapter 13): when an item begins and how it is checked (R314, R316,
R317), the acknowledgement (R442 to R444), a table commit (R92), and the effect of each opcode (R318).
-/
namespace Sys2Proof.Machine

/-! ## The landing window and host memory as items see them (R317, R322, R324) -/

/-- OWNER of a page's entry is DEVICE. -/
def WqPort.owned (w : WqPort) (page : Nat) : Bool := mget 0 w.landing (8 * page) == 0xD5

/-- The pages a range of the landing window touches. -/
def pagesOf (off len : Nat) : List Nat :=
  if len = 0 then [] else (List.range ((off + len - 1) / 4096 - off / 4096 + 1)).map (fun k => off / 4096 + k)

/-- The range touches a page the module does not own, or page 0 (R310, WIN_OWNER). -/
def WqPort.winBad (w : WqPort) (off len : Nat) : Bool := (pagesOf off len).any (fun k => k == 0 || !w.owned k)

/-- The data an in item takes from the landing window. -/
def WqPort.data (w : WqPort) (d : Desc) : List Byte := mslice 0 w.landing d.winOff d.len

/-- Bytes written to host memory. -/
def hostWrite (p : Side) (addr : Nat) (bytes : List Byte) (s : State) : State :=
  s.modWport p (fun w => { w with host := msetList 0 w.host addr bytes })

/-! ## Beginning an item (R314, R316, R317) -/

/-- The item of a ring that may begin, or has begun: the first whose completion is not posted. -/
def frontItem : List Item → Option Item
  | [] => none
  | i :: is => match i.stage with | .posted _ _ => frontItem is | _ => some i

/-- Items begin outside RESET, and after a core reset only once START has ended (R328). -/
def State.itemsRun (s : State) : Bool := s.dev != .reset && !(s.dev == .start && s.pcr.level == .core)

/-- The descriptor of the ring's front item, if it waits to begin and carries this opcode. -/
def State.waiting (s : State) (p : Side) (n : Fin 8) (opc : Nat) : Option Desc :=
  match frontItem (s.sq p n).items with
  | some i => if i.stage = .accepted ∧ i.skip = false ∧ i.d.opc = opc then some i.d else none
  | none => none

/-- The same, in a state in which items begin. -/
def State.beginning (s : State) (p : Side) (n : Fin 8) (opc : Nat) : Option Desc :=
  if s.itemsRun then s.waiting p n opc else none

/-- How an opcode uses LEN, WIN_OFF and HOST_ADDR (R317). -/
inductive DataUse where
  /-- No data: all three 0. -/
  | none
  /-- NOP: none, or a range with RETURN. -/
  | range
  | in_
  /-- Out, of this many bytes. -/
  | out (size : Nat)

/-- The length rules of R317 hold. -/
def lenOk (u : DataUse) (d : Desc) : Bool :=
  let empty := d.len == 0 && d.winOff == 0 && d.hostAddr == 0
  let inside := decide (d.winOff + d.len ≤ 0x200000) && d.hostAddr == 0
  match u with
  | .none => empty
  | .range => empty || (decide (1 ≤ d.len) && inside && bitOf d.flags 1)
  | .in_ => decide (1 ≤ d.len) && inside
  | .out size => decide (size ≤ d.len) && decide (d.hostAddr + d.len ≤ 2 ^ 64) && d.winOff == 0

/-- The landing range an opcode touches. -/
def rangeOf (u : DataUse) (d : Desc) : Nat × Nat :=
  match u with | .in_ | .range => (d.winOff, d.len) | _ => (0, 0)

/-- The checks of R316 in their order: the first code that applies. -/
def itemCheck (p : Side) (d : Desc) (argsOk : Bool) (u : DataUse) (limits stateOk : Bool) (s : State) : Option Nat :=
  if 4 ≤ d.flags ∨ d.resv ∨ !argsOk then some 0x0106
  else if !(lenOk u d && limits) then some 0x0101
  else if (s.wport p).winBad (rangeOf u d).1 (rangeOf u d).2 then some 0x0102
  else if !stateOk then some 0x0201
  else none

/-- The item checked, then ended with the code that applies, or carried out. -/
def runItem (p : Side) (n : Fin 8) (c : Option Nat) (f : State → State) (s : State) : State :=
  match c with
  | some code => endItem p n code 0 s
  | none => f s

/-- The front item of a ring marked as begun, its BEGIN record written first where the opcode has one (R326). -/
def beginItem (p : Side) (n : Fin 8) (d : Desc) (record : Bool) (s : State) : State :=
  let s := if record then journalWrite (jrec .begin p n d.opc 0 d.seq 0) s else s
  s.modItem p n (fun i => { i with stage := .begun })

/-- The same, with the tick kept from which the item's transfer takes its time. -/
def beginTimed (p : Side) (n : Fin 8) (d : Desc) (record : Bool) (s : State) : State :=
  (beginItem p n d record s).modItem p n (fun i => { i with mark := s.now.toNat })

/-- Ticks that the transfer of an item takes at least: two store slots of 4 ticks a word written, one a word read (R515), and one
tick a byte fed to a channel (R372). -/
def Desc.least (d : Desc) : Nat :=
  match d.opc with
  | 0x10 => 8 * ((if bitOf d.arg1 0 then 32768 else 0) + d.len / 8)
  | 0x70 => 8 * (d.len / 8)
  | 0x71 => 4 * (d.len / 8)
  | 0x50 => d.len
  | _ => 0

/-- The item comes from the configuration-owning port (R297). -/
def State.owns (s : State) (p : Side) : Bool := s.hp.owner == some p

/-! ## The table slots (R90 to R93) -/

/-- Index of the staging slot of a store, and of the active one. -/
def Store.stagingIdx (x : Store) : Side := if x.active1 then .a else .b
def Store.activeIdx (x : Store) : Side := if x.active1 then .b else .a
def Store.staging (x : Store) : TableSlot := x.slot.get x.stagingIdx
def Store.active (x : Store) : TableSlot := x.slot.get x.activeIdx

/-- The stores an item for the tables acts on: both, or in split mode the one CORE names (R452). -/
def State.tableStores (s : State) (d : Desc) : List Side :=
  (if s.split then [Side.of (d.arg1 / 2)] else [.a, .b]).filter (fun i => (s.store i).written)

/-- CORE of ARG1 and FIRST, 0 where they are not used. -/
def tableArgs (s : State) (d : Desc) (first : Bool) : Bool :=
  d.arg1 &&& (if first then 1 else 0) ||| (if s.split then d.arg1 &&& 2 else 0) == d.arg1 && d.arg2 == 0 && d.arg3 == 0

/-- Life cycles in which staging is accepted (R91, R452). -/
def State.stageLc (s : State) : Bool := s.st.lc == .develop || s.st.lc == .commission || s.st.lc == .split

/-- CV_B as CVW3 computes it over a slot; a failed channel gives a value no header holds (R68, R380). -/
def State.cvw3Value (s : State) (m : Mem 8) : Word :=
  if s.cv.ch[3].katBad then BitVec.ofNat 32 (u32 (imageOf m) 0x0F4) ^^^ 1 else cvB m

/-- Verification of one copy that judges both check values over it: where one store is read alone. -/
def verifyArgs (s : State) (m : Mem 8) (staged : Nat) (coreB : Bool) : VerifyArgs :=
  { staged := staged, split := s.split, coreB := coreB, cvA := some (cvA m), cvB := some (s.cvw3Value m) }

/-- The outcome of a verification of the staging slot, with the store that disagrees with a die that passed (R88, R89). Each
die judges its own store's copy and the value it computes itself, LA CV_B and LB CV_A; where both pass, each holds the value
it has received against its own header (R68). -/
def verifyStaging (d : Desc) (s : State) : Nat × Nat × Option Side :=
  match s.tableStores d with
  | [i] =>
    let x := (s.store i).staging
    let r := verifyCopy (verifyArgs s x.bytes x.stagedEnd (i == .b)) (imageOf x.bytes)
    (r.1, r.2, none)
  | _ =>
    let x := (s.store .a).staging
    let y := (s.store .b).staging
    let a := s.cvw3Value x.bytes
    let b := cvA y.bytes
    let ra := verifyCopy ⟨x.stagedEnd, s.split, false, none, some a⟩ (imageOf x.bytes)
    let rb := verifyCopy ⟨y.stagedEnd, s.split, false, some b, none⟩ (imageOf y.bytes)
    if ra.1 = 0 ∧ rb.1 = 0 then
      (if cvBad (some b) (u32 (imageOf x.bytes) 0x0F0) then (4, 0, some .a)
       else if cvBad (some a) (u32 (imageOf y.bytes) 0x0F4) then (5, 0, some .b)
       else (0, 0, none))
    else if ra.1 = 0 then (rb.1, rb.2, some .b)
    else if rb.1 = 0 then (ra.1, ra.2, some .a)
    else if rb.1 < ra.1 then (rb.1, rb.2, none) else (ra.1, ra.2, none)

/-- CVS11 holds the CV_A a verification of the staging slot has computed (R68, R381). -/
def verifySnoop (d : Desc) (s : State) : State :=
  let i := (s.tableStores d).getLastD .a
  snoop 11 (cvA (s.store i).staging.bytes) s

/-- The verification word of R88. -/
def verifyWord (r : Nat × Nat × Option Side) : Word := BitVec.ofNat 32 (r.1 + 256 * r.2.1)

/-- A staging slot changed in the stores an item acts on. -/
def modStaging (is : List Side) (f : Side → TableSlot → TableSlot) (s : State) : State :=
  is.foldl (fun s i => s.modStore i (fun x => { x with slot := x.slot.upd x.stagingIdx (f i) })) s

/-- Store address of a staging slot's first byte. -/
def Store.stagingAddr (x : Store) : Nat := 0x40000 * x.stagingIdx.num

/-! ## The commit (R66, R92) -/

/-- The commissioning record (R66). -/
def commitRecord (s : State) (p : Side) (t : Table) : List Byte :=
  leBytes 8 s.now.toNat ++ leBytes 4 s.pcr.bk.a.life.toNat ++
  [BitVec.ofNat 8 p.num, BitVec.ofNat 8 (LifeCycle.code s.st.lc), BitVec.ofNat 8 t.ackInput, 0] ++
  leBytes 4 t.cvA.toNat ++ leBytes 4 t.cvB.toNat ++ List.replicate 8 0

/-- One store's part of a commit: the record before the active slot's three newest, the generation, the exchange of roles. -/
def Store.commit (record : List Byte) (gen : Word) (x : Store) : Store :=
  let y := x.staging
  let older := mslice 0 x.active.bytes 0x070 96
  let x := wearRange (x.stagingAddr + 0x070) 128 x
  { x with slot := (x.slot.set x.stagingIdx { y with bytes := msetList 0 y.bytes 0x070 (record ++ older), gen := gen, st := .verified }).upd
                     x.activeIdx (fun z => { z with st := .empty }),
           active1 := !x.active1 }

/-- A commit whose acknowledgement is given (R92): refused when the state, the ownership or the slot no longer allows it;
else written, logged, completed, and followed by a core reset, which RECOVERY does not make. -/
def commitTable (p : Side) (n : Fin 8) (d : Desc) (s : State) : State :=
  let is := s.tableStores d
  let i0 := is.headD .a
  let x := s.store i0
  if !(s.dev == .idle || s.dev == .recovery) || !s.owns p || x.staging.st != .verified then endItem p n 0x0201 0xFF s
  else
    let gen := x.active.gen + 1
    let record := commitRecord s p (tableOf (imageOf x.staging.bytes))
    let s := is.foldl (fun s i => s.modStore i (Store.commit record gen)) s
    let s := logEvent 6 Block.ms.id p.num gen.toNat s
    let s := endItem p n 0 0 s
    if s.dev = .recovery then s else assertReset .core 9 s

/-! ## The acknowledgement (R442 to R444) -/

/-- The acknowledgement is given at the terminal of input `a`, not through TAP A (R442). -/
def State.ackAtInput (s : State) (a : Nat) : Bool :=
  let c := s.inputCfg ⟨a % 128, Nat.mod_lt _ (by decide)⟩
  (match (s.core .a).table with | some t => t.real | none => false) && c.mode == 1 && (s.dev == .idle || s.dev == .run)

/-- A wait begins for an item (R442): its form is fixed on this tick. -/
def ackWait (p : Side) (n : Fin 8) (key : Word) (input : Nat) (s : State) : State :=
  let tap := !s.ackAtInput input
  let w : AckWait := ⟨p, n.val, s.now, tap, key, input, ⟨0, 0⟩, ⟨0, 0⟩, ⟨none, none⟩⟩
  s.modSt (fun c => { c with ack := some w })

/-- A transition of R441 with its conditions, and whether it needs the acknowledgement. -/
def State.lcAllowed (s : State) (to_ : LifeCycle) (key : Nat) : Option Bool :=
  let table := (s.running.map (·.real)).getD false
  let quiet := s.dev == .idle || s.dev == .recovery
  match s.st.lc, to_ with
  | .blank, .develop => if s.dev == .idle then some false else none
  | .develop, .commission => if s.dev == .idle && table then some true else none
  | .commission, .safeRun => if s.dev == .idle && table && s.st.fullOk && s.sc.kok then some true else none
  | .safeRun, .commission => if quiet then some true else none
  | .develop, .retired | .commission, .retired | .safeRun, .retired | .split, .retired =>
    if quiet && key == 0x5E714ED0 then some true else none
  | _, _ => none

/-- The acknowledgement is given: the waiting item goes on. -/
def ackGive (s : State) : State :=
  match s.st.ack with
  | none => s
  | some w =>
    let n : Fin 8 := ⟨w.ring % 8, Nat.mod_lt _ (by decide)⟩
    let s := ackDrop s
    match curItem (s.sq w.port n).items with
    | some i =>
      if i.d.opc = 0x12 then commitTable w.port n i.d s
      else match lcOf (i.d.arg1 % 16) with
        | some lc =>
          if (s.lcAllowed lc i.d.arg2).isNone then endItem w.port n 0x0201 0xFF s
          else endItem w.port n 0 (BitVec.ofNat 32 (LifeCycle.code lc)) (changeLc lc s)
        | none => s
    | none => s

/-- What a die's press has come to after a snapshot whose sample edge lay at `t` (R443): its progress, the sample edge of
the first true snapshot, and whether the press is accepted. -/
def pressStep (t : Tick) (v : Bool) (press : Nat) (at_ : Tick) : Nat × Tick × Bool :=
  match press with
  | 0 => (if v then 0 else 1, at_, false)
  | 1 => if v then (2, t, false) else (1, at_, false)
  | _ =>
    if v then (2, at_, false)
    else (1, at_, decide (50000000 ≤ elapsed t at_) && decide (elapsed t at_ ≤ 500000000))

/-- The closing tick of a wait has come: it is no part of the wait (R456). -/
def State.ackClosed (s : State) (w : AckWait) : Bool := decide (3000000000 ≤ elapsed s.now w.since)

/-- ST on die `c` judges the live snapshot of its core for a wait at an input (R443). -/
def ackJudge (c : Side) (s : State) : State :=
  match s.st.ack, s.ev.sampleAt with
  | some w, some t =>
    if w.tap || s.ackClosed w then s
    else
      let x := s.core c
      if !(x.peek c (0x80 + w.input)).getLsbD 0 then ackRefuse s
      else
        let (k, at_, ok) := pressStep t (tru (x.peek c w.input)) (w.press.get c) (w.pressAt.get c)
        let w := { w with press := w.press.set c k, pressAt := w.pressAt.set c at_,
                          accepted := if ok then w.accepted.set c (some s.now) else w.accepted }
        let s := s.modSt (fun y => { y with ack := some w })
        match w.accepted.a, w.accepted.b with
        | some ta, some tb => if ok ∧ min (elapsed ta tb) (elapsed tb ta) ≤ 1000000 then ackGive s else s
        | _, _ => s
  | _, _ => s

/-- ACK_TIMEOUT: 30 s of a wait end (R92, R441). -/
def execAckTimeout (s : State) : Host.Outcome State Fault Refusal :=
  .next (
    match s.st.ack with
    | some w => if s.ackClosed w then ackRefuse s else s
    | none => s)

/-- A value given with the ACK instruction (R444); outside a wait through TAP A it does nothing. -/
def ackTap (v : Word) (s : State) : State :=
  match s.st.ack with
  | some w => if !w.tap || s.ackClosed w then s else if v = w.key then ackGive s else ackRefuse s
  | none => s

/-! ## NOP and FENCE (R315, R318) -/

def execNop (port : Side) (n : Fin 8) (s : State) : Host.Outcome State Fault Refusal :=
  .next (
    match s.beginning port n 0x00 with
    | none => s
    | some d =>
      runItem port n (itemCheck port d (d.arg0 == 0 && d.arg1 == 0 && d.arg2 == 0 && d.arg3 == 0) .range true true s)
        (endItem port n 0 0) s)

/-- An item of a ring accepted before the record `jseq` whose completion is not posted. -/
def openBefore (jseq : Word) (q : Sq) : Bool :=
  q.items.any (fun i => !i.skip && decide (0x80000000 ≤ (i.jseq - jseq).toNat) &&
    (match i.stage with | .posted _ _ => false | _ => true))

/-- Some item a FENCE names is not completed (R315). -/
def State.fenced (s : State) (p : Side) (n : Fin 8) (arg0 : Nat) (jseq : Word) : Bool :=
  (fins 8).any (fun k => (bitOf arg0 k.val && k != n && openBefore jseq (s.sq p k)) ||
                         (bitOf arg0 (8 + k.val) && openBefore jseq (s.sq p.other k)))

/-- FENCE: begun once and completed when nothing it names is open. -/
def execFence (port : Side) (n : Fin 8) (s : State) : Host.Outcome State Fault Refusal :=
  .next (
    match frontItem (s.sq port n).items with
    | some i =>
      let go := fun (s : State) => if s.fenced port n i.d.arg0 i.jseq then beginItem port n i.d false s else endItem port n 0 0 s
      if i.skip ∨ i.d.opc ≠ 0x01 ∨ !s.itemsRun then s
      else match i.stage with
        | .accepted =>
          runItem port n (itemCheck port i.d (decide (i.d.arg0 < 65536) && i.d.arg1 == 0 && i.d.arg2 == 0 && i.d.arg3 == 0)
                            .none true true s) go s
        | .begun => go s
        | _ => s
    | none => s)

/-! ## The tables (R88 to R92) -/

/-- TABLE_STAGE (R90). -/
def execTableStage (port : Side) (n : Fin 8) (s : State) : Host.Outcome State Fault Refusal :=
  .next (
    match s.beginning port n 0x10 with
    | none => s
    | some d =>
      let first := bitOf d.arg1 0
      runItem port n
        (itemCheck port d (tableArgs s d true) .in_ (d.arg0 % 8 == 0 && decide (d.arg0 + d.len ≤ 262144))
          (s.owns port && s.stageLc) s)
        (fun s => if s.marchMeets port d.winOff d.len then s else
          let bytes := (s.wport port).data d
          let s := beginTimed port n d true s
          let is := s.tableStores d
          let s := is.foldl (fun s i => s.modStore i (fun x =>
            wearRange (x.stagingAddr + d.arg0) d.len (if first then wearRange x.stagingAddr 0x40000 x else x))) s
          let s := modStaging is (fun _ x =>
            { bytes := msetList 0 (if first then [] else x.bytes) d.arg0 bytes, gen := 0, st := .loaded,
              stagedEnd := if first ∨ x.st = .empty then d.arg0 + d.len else max x.stagedEnd (d.arg0 + d.len) }) s
          endItem port n 0 (BitVec.ofNat 32 d.len) s) s)

/-- A verification needs CVW3: neither held nor with feeds waiting (R375). -/
def State.cvw3Busy (s : State) : Bool := s.chanHeld 3 || !(s.chan 3).queue.isEmpty

/-- A channel held by an item: its registers show what it held before (R375, R376). -/
def holdChannel (p : Side) (n : Fin 8) (k : Fin 4) (f : Cvw → Cvw) (s : State) : State :=
  s.modChan k (fun x =>
    let x := x.settle s.now
    let x := { (x.applyAll x.queue) with queue := [] }
    { f x with held := some (p, n), saved := some (x.mode, x.val) })

/-- The checks of TABLE_VERIFY and of TABLE_COMMIT. -/
def verifyCheck (p : Side) (d : Desc) (s : State) : Option Nat :=
  let st := (s.store ((s.tableStores d).headD .a)).staging.st
  itemCheck p d (tableArgs s d false && d.arg0 == 0) .none true (s.owns p && s.stageLc && st != .empty) s
def commitCheck (p : Side) (d : Desc) (s : State) : Option Nat :=
  let st := (s.store ((s.tableStores d).headD .a)).staging.st
  itemCheck p d (tableArgs s d false && d.arg0 == 0) .none true
    (s.owns p && s.stageLc && st == .verified && (s.dev == .idle || s.dev == .recovery)) s

/-- TABLE_VERIFY (R88, R89): it holds CVW3 until it completes (R375). -/
def execTableVerify (port : Side) (n : Fin 8) (s : State) : Host.Outcome State Fault Refusal :=
  .next (
    match s.beginning port n 0x11 with
    | none => s
    | some d =>
      runItem port n (verifyCheck port d s)
        (fun s =>
          if s.cvw3Busy then s
          else
            let r := verifyStaging d s
            let s := holdChannel port n 3 id (verifySnoop d s)
            let s := modStaging (s.tableStores d) (fun _ x => { x with st := if r.1 = 0 then .verified else .loaded }) s
            let s := endItem port n 0 (verifyWord r) (beginItem port n d false s)
            match r.2.2 with | some i => storeFail i (s.store i).stagingAddr s | none => s) s)

/-- TABLE_COMMIT (R92): verified again, then the acknowledgement is awaited. -/
def execTableCommit (port : Side) (n : Fin 8) (s : State) : Host.Outcome State Fault Refusal :=
  .next (
    match s.beginning port n 0x12 with
    | none => s
    | some d =>
      let x := (s.store ((s.tableStores d).headD .a)).staging
      runItem port n (commitCheck port d s)
        (fun s =>
          if s.cvw3Busy ∨ s.st.ack.isSome then s
          else
            let r := verifyStaging d s
            let s := verifySnoop d (beginItem port n d true s)
            if r.1 ≠ 0 then
              let s := endItem port n 0x0201 (verifyWord r) s
              match r.2.2 with | some i => storeFail i (s.store i).stagingAddr s | none => s
            else
              let t := tableOf (imageOf x.bytes)
              ackWait port n t.cvA t.ackInput s) s)

/-! ## State and host image (R319 to R321) -/

/-- The host image kept for a snapshot of the tick on which it changes (R18). -/
def keepHost (p : Side) (s : State) : State :=
  s.modHport p (fun h => if h.imageAt = some s.now then h else { h with imagePrev := h.image, imageAt := some s.now })

/-- The state request of a MODE_REQ is permitted (R27, R438, R439). -/
def State.modeAllowed (s : State) (p : Side) (req : Nat) : Bool :=
  match req with
  | 0 => true
  | 1 => s.dev == .run
  | _ =>
    s.dev == .idle && s.owns p && !s.anyUncleared && (s.split || s.sc.kok) && s.st.full.isNone &&
    s.st.lc != .blank && s.st.lc != .retired

/-- The state has changed on the present tick, or another port's request is to change it: of two requests of one tick HP0's comes
first (R28, R293, R336). -/
def State.modeTaken (s : State) (p : Side) : Bool :=
  s.devAt == some s.now || (match s.wq.modeReq with | some (q, _) => !(q == .b && p == .a) | none => false)

/-- The effect of a MODE_REQ (R320): the state first, then the word; the item ends on the first sample edge that carries it. -/
def modeEffect (port : Side) (n : Fin 8) (d : Desc) (s : State) : State :=
  let s := match d.arg0 with | 1 => setDev .idle s | 2 => setDev .run s | _ => s
  let s := if d.arg1 = 0 then s
    else (keepHost port s).modHport port (fun h => { h with image := mset 0 h.image d.arg1 (BitVec.ofNat 32 d.arg2) })
  if d.arg0 = 0 ∧ d.arg1 = 0 then endItem port n 0 (BitVec.ofNat 32 s.dev.code) s
  else s.modItem port n (fun i => { i with mark := 16 * s.now.toNat + s.dev.code })

/-- A MODE_REQ whose state change the tick has left standing takes effect as the tick ends (R28). -/
def applyModeReq (s : State) : State :=
  match s.wq.modeReq with
  | none => s
  | some (p, n) =>
    let s := s.modWq (fun w => { w with modeReq := none })
    match curItem (s.sq p n).items with
    | some i => modeEffect p n i.d s
    | none => s

/-- MODE_REQ (R320): begun in START it waits; in HOLD and RECOVERY it is refused. A request for a state begins here and takes
effect as the tick ends; on the tick of a core reset it is dropped (R28). -/
def execModeReq (port : Side) (n : Fin 8) (s : State) : Host.Outcome State Fault Refusal :=
  .next (
    match s.waiting port n 0x20 with
    | none => s
    | some d =>
      let request := d.arg0 == 1 || d.arg0 == 2
      let running := s.dev == .idle || s.dev == .run || s.dev == .halt
      let dropped := request && s.dev == .reset && s.devAt == some s.now
      if (s.dev = .start ∨ !s.itemsRun) ∧ !dropped then s
      else
        runItem port n
          (itemCheck port d (decide (d.arg0 < 3) && d.arg3 == 0 && (d.arg1 != 0 || d.arg2 == 0)) .none
            (d.arg1 == 0 || (decide (4 ≤ d.arg1) && decide (d.arg1 ≤ 0x3F)))
            (running && s.modeAllowed port d.arg0 && !(request && s.modeTaken port)) s)
          (fun s =>
            let s := beginItem port n d true s
            if request then (modeDrop s).modWq (fun w => { w with modeReq := some (port, n) }) else modeEffect port n d s) s)

/-- RESET_REQ (R321). One that waited through a core reset goes on with its HRESET (R328). -/
def execResetReq (port : Side) (n : Fin 8) (s : State) : Host.Outcome State Fault Refusal :=
  .next (
    match s.beginning port n 0x21 with
    | none => s
    | some d =>
      if s.dev = .start then s
      else
        runItem port n
          (itemCheck port d (d.arg1 == 0 && d.arg2 == 0 && d.arg3 == 0) .none (decide (1 ≤ d.arg0) && decide (d.arg0 ≤ 10000))
            (s.dev == .idle || s.dev == .run || s.dev == .halt) s)
          (fun s =>
            let s := (beginItem port n d true s).modItem port n (fun i => { i with mark := s.now.toNat })
            s.modHport port (fun h => { h with
              hreset := if h.hreset.any (fun e => e.1 == n) then h.hreset
                else h.hreset ++ [(n, s.now + BitVec.ofNat 64 (100000 * d.arg0), false)] })) s)

/-- HRESET_EXPIRY (R321): the ARG0 ms of a ring's RESET_REQ end. -/
def execHresetExpiry (port : Side) (n : Fin 8) (s : State) : Host.Outcome State Fault Refusal :=
  .next (s.modHport port (fun h => { h with
    hreset := h.hreset.map (fun e => if e.1 = n ∧ e.2.1.toNat ≤ s.now.toNat then (e.1, e.2.1, true) else e) }))

/-! ## Reading out (R318, R393, R394) -/

/-- SNAPSHOT: it ends at EA's next close. -/
def execSnapshot (port : Side) (n : Fin 8) (s : State) : Host.Outcome State Fault Refusal :=
  .next (
    match s.beginning port n 0x30 with
    | none => s
    | some d =>
      runItem port n
        (itemCheck port d (d.arg0 == 0 && d.arg1 == 0 && d.arg2 == 0 && d.arg3 == 0) (.out 12288) true
          (s.dev == .idle || s.dev == .run) s)
        (beginItem port n d false) s)

/-- TALLY_READ: the page most recently published. -/
def execTallyRead (port : Side) (n : Fin 8) (s : State) : Host.Outcome State Fault Refusal :=
  .next (
    match s.beginning port n 0x31 with
    | none => s
    | some d =>
      runItem port n
        (itemCheck port d (d.arg0 == 0 && d.arg1 == 0 && d.arg2 == 0 && d.arg3 == 0) (.out 4096) true true s)
        (fun s =>
          let page := if s.ms.tally.isEmpty then List.replicate 4096 0 else s.ms.tally
          endItem port n 0 (loHalf s.ms.pub) (hostWrite port d.hostAddr page s)) s)

/-- The 32 bytes of a log entry in a store (R391). -/
def logBytes (i : Side) (e : LogEntry) : List Byte :=
  let bs := leBytes 4 e.eseq.toNat ++ leBytes 8 e.time.toNat ++
    [BitVec.ofNat 8 e.kind, BitVec.ofNat 8 e.block, BitVec.ofNat 8 e.cause, BitVec.ofNat 8 e.cls] ++ leBytes 4 e.addr.toNat ++
    [BitVec.ofNat 8 e.init, BitVec.ofNat 8 e.acc] ++ leBytes 2 e.data16 ++ leBytes 4 e.data32.toNat
  bs ++ leBytes 4 (crcWithPrefix ([BitVec.ofNat 8 i.num, 0, 0, 0] ++ leBytes 4 e.eseq.toNat) bs).toNat

/-- Entry or record `k` of an area of the event memory of a store, if it is held (R393). -/
def Store.logItem (i : Side) (x : Store) (area : Nat) (k : Word) : Option (List Byte) :=
  if area = 0 then (x.log.find? (fun e => e.eseq == k)).map (logBytes i)
  else (x.history.find? (fun e => BitVec.ofNat 32 e.1 == k)).map (·.2)

/-- LOG_READ (R393). -/
def execLogRead (port : Side) (n : Fin 8) (s : State) : Host.Outcome State Fault Refusal :=
  .next (
    match s.beginning port n 0x32 with
    | none => s
    | some d =>
      let size := if d.arg2 = 0 then 32 else 128
      runItem port n
        (itemCheck port d (decide (d.arg2 < 2) && d.arg3 == 0) (.out (size * d.arg1))
          (decide (1 ≤ d.arg1) && decide (d.arg1 ≤ 65536)) true s)
        (fun s =>
          let i := s.survivor
          let es := (List.range d.arg1).map (fun k => (s.store i).logItem i d.arg2 (BitVec.ofNat 32 (d.arg0 + k)))
          let bytes := es.flatMap (fun e => e.getD (List.replicate size 0))
          endItem port n 0 (BitVec.ofNat 32 (es.filter (·.isSome)).length) (hostWrite port d.hostAddr bytes s)) s)

/-! ## Links (R354, R357, R361) -/

/-- The port is in UP, or a loss of this very tick has taken it from there (R363). -/
def PlPort.upOnTick (now : Tick) (p : PlPort) : Bool := p.st == .up || (p.lossUp && p.lossAt == some now)

/-- LINK_SEND: the item ends with its last frame; a loss of the same tick aborts it (R363). -/
def execLinkSend (port : Side) (n : Fin 8) (s : State) : Host.Outcome State Fault Refusal :=
  .next (
    match s.beginning port n 0x40 with
    | none => s
    | some d =>
      let k : Fin 4 := ⟨d.arg0 % 4, Nat.mod_lt _ (by decide)⟩
      let p : PlPort := s.pl.port[k]
      runItem port n
        (itemCheck port d (decide (d.arg0 < 4) && d.arg1 == 0 && d.arg2 == 0 && d.arg3 == 0) .in_ (decide (d.len ≤ 4096))
          ((s.dev == .idle || s.dev == .run) && p.upOnTick s.now) s)
        (fun s =>
          if p.st ≠ .up then endItem port n 0x0302 1 (beginItem port n d true s)
          else if s.marchMeets port d.winOff d.len then s
          else
          let bytes := (s.wport port).data d
          (beginItem port n d true s).modPlPort k (fun p => { p with
            sends := p.sends ++ [{ port := port, ring := n, rest := bytes, len := d.len }] })) s)

/-- LINK_DETACH: the window opens, or opens again; on the tick of a loss too (R363). -/
def execLinkDetach (port : Side) (n : Fin 8) (s : State) : Host.Outcome State Fault Refusal :=
  .next (
    match s.beginning port n 0x41 with
    | none => s
    | some d =>
      let k : Fin 4 := ⟨d.arg0 % 4, Nat.mod_lt _ (by decide)⟩
      let p : PlPort := s.pl.port[k]
      let c := s.partner k
      runItem port n
        (itemCheck port d (decide (d.arg0 < 4) && d.arg1 == 0 && d.arg2 == 0 && d.arg3 == 0) .none true
          ((s.dev == .idle || s.dev == .run) && p.upOnTick s.now && c.type == 1 && c.detach) s)
        (fun s =>
          let s := keepImage k (beginItem port n d true s)
          endItem port n 0 (BitVec.ofNat 32 c.dwin)
            (s.modPlPort k (fun p => { p with win := some (s.now, 100000000 * c.dwin) }))) s)

/-! ## CV_JOB (R376, R380) -/

/-- The channel after a CV_JOB has fed its data. -/
def jobChannel (d : Desc) (bytes : List Byte) (x : Cvw) : Cvw :=
  let x := if bitOf d.arg0 2 then { x with mode := bitOf d.arg0 4, val := cvInit (bitOf d.arg0 4) } else x
  let pre := if bitOf d.arg0 3 then leBytes 4 d.arg2 ++ leBytes 4 d.arg3 else []
  { x with val := (pre ++ bytes).foldl (cvStep x.mode) x.val }

/-- The checks of CV_JOB. -/
def cvJobCheck (p : Side) (d : Desc) (s : State) : Option Nat :=
  let args := decide (d.arg0 < 32) && d.arg1 == 0 && (bitOf d.arg0 2 || !bitOf d.arg0 4) &&
              (bitOf d.arg0 3 || (d.arg2 == 0 && d.arg3 == 0))
  itemCheck p d args .in_ true (s.dev != .recovery) s

/-- CV_JOB: it holds its channel until it completes; it waits for a channel that is held, and for data under test. -/
def execCvJob (port : Side) (n : Fin 8) (s : State) : Host.Outcome State Fault Refusal :=
  .next (
    match s.beginning port n 0x50 with
    | none => s
    | some d =>
      let k : Fin 4 := ⟨d.arg0 % 4, Nat.mod_lt _ (by decide)⟩
      runItem port n (cvJobCheck port d s)
        (fun s =>
          if (s.chan k).katBad then endItem port n 0x0302 0 s
          else if s.chanHeld k ∨ s.marchMeets port d.winOff d.len then s
          else
            let s := holdChannel port n k (jobChannel d ((s.wport port).data d)) (beginTimed port n d false s)
            let y : Cvw := s.cv.ch[k]
            endItem port n 0 (cvRes y.mode y.val) s) s)

/-! ## ST_REQ (R438, R441) -/

/-- FULL_TEST: one whole round, which ends the item. While another runs it waits. -/
def execFullTest (port : Side) (n : Fin 8) (s : State) : Host.Outcome State Fault Refusal :=
  .next (
    match s.beginning port n 0x60 with
    | none => s
    | some d =>
      if d.arg0 % 256 ≠ 0x01 then s
      else
        runItem port n
          (itemCheck port d (d.arg0 == 1 && d.arg1 == 0 && d.arg2 == 0 && d.arg3 == 0) .none true
            (s.owns port && s.dev == .idle && (s.st.lc == .develop || s.st.lc == .commission)) s)
          (fun s =>
            if s.st.full.isSome then s
            else (beginItem port n d true s).modSt (fun c => { c with
              full := some (port, n.val, s.now), fullPos := 0, fullFail := 0, fullFrom := s.now })) s)

/-- A debug halt that waits on the present tick will be taken: it comes before an LC_SET that begins (R456). -/
def State.haltArrives (s : State) : Bool :=
  s.dbgAvail && (s.dev == .idle || s.dev == .run) &&
    (s.st.dbg.pendHalt || (s.pcr.trstN && !s.pcr.extest.a && s.pending.any (fun i => i == .debugHalt || i == .registerWrite (.debug 0) 1 .whole)))

/-- LC_SET: a transition of R441, at once or with its acknowledgement. -/
def execLcSet (port : Side) (n : Fin 8) (s : State) : Host.Outcome State Fault Refusal :=
  .next (
    match s.beginning port n 0x60 with
    | none => s
    | some d =>
      let target := lcOf d.arg1
      let need := target.bind (fun t => s.lcAllowed t d.arg2)
      if d.arg0 % 256 ≠ 0x10 then s
      else
        runItem port n
          (itemCheck port d (d.arg0 == 0x10 && target.isSome && (target == some .retired || d.arg2 == 0) && d.arg3 == 0) .none true
            (s.owns port && need.isSome && !s.haltArrives) s)
          (fun s =>
            match target, need with
            | some t, some true =>
              if s.st.ack.isSome then s
              else
                let a := match s.running with | some r => r.ackInput | none => 0
                ackWait port n (BitVec.ofNat 32 (0x4C430000 + LifeCycle.code t)) a (beginItem port n d true s)
            | some t, _ => endItem port n 0 (BitVec.ofNat 32 (LifeCycle.code t)) (changeLc t (beginItem port n d true s))
            | none, _ => s) s)

/-! ## The user area (R318, R384, R396) -/

/-- The limits of STORE_WRITE and STORE_READ. -/
def userLimits (d : Desc) : Bool := d.arg0 % 8 == 0 && d.len % 8 == 0 && decide (d.arg0 + d.len ≤ 524288)

/-- STORE_WRITE: into the user area of the stores in service. -/
def execStoreWrite (port : Side) (n : Fin 8) (s : State) : Host.Outcome State Fault Refusal :=
  .next (
    match s.beginning port n 0x70 with
    | none => s
    | some d =>
      runItem port n
        (itemCheck port d (d.arg1 == 0 && d.arg2 == 0 && d.arg3 == 0) .in_ (userLimits d) (s.dev != .recovery) s)
        (fun s => if s.marchMeets port d.winOff d.len then s else
          let bytes := (s.wport port).data d
          let s := beginTimed port n d true s
          endItem port n 0 (BitVec.ofNat 32 d.len)
            (modStores (fun _ x => wearRange (0x4A0000 + d.arg0) d.len { x with user := msetList 0 x.user d.arg0 bytes }) s)) s)

/-- STORE_READ: from the user area of the store that serves reads. -/
def execStoreRead (port : Side) (n : Fin 8) (s : State) : Host.Outcome State Fault Refusal :=
  .next (
    match s.beginning port n 0x71 with
    | none => s
    | some d =>
      runItem port n
        (itemCheck port d (d.arg1 == 0 && d.arg2 == 0 && d.arg3 == 0) (.out d.len) (userLimits d) true s)
        (fun s =>
          let bytes := mslice 0 (s.store s.survivor).user d.arg0 d.len
          (endItem port n 0 (BitVec.ofNat 32 d.len) (hostWrite port d.hostAddr bytes s)).modItem port n
            (fun i => { i with mark := s.now.toNat })) s)

end Sys2Proof.Machine
end

