-- ==== Sys2Proof/Machine/Start.lean ====
section
/-!
DEFINITION. Sys2Proof/Machine/Start.lean: the steps of a start from the journal replay on (R422): replay (R329, R330), slot
selection (R93), loading (R59, R89) and the field step (R139, R422).
-/
namespace Sys2Proof.Machine

/-- A step of the start is the next one, and no reset is asserted. -/
def State.startStep (s : State) (ph : StartPhase) : Bool := s.dev == .start && s.pcr.phase == ph && s.pcr.asserted.isNone

/-! ## Journal replay (R329, R330) -/

/-- Two journals in JSEQ order, each record with whether both hold it. -/
def mergeJournals : Nat → List JRec → List JRec → List (JRec × Bool)
  | 0, _, _ => []
  | _ + 1, [], ys => ys.map (fun y => (y, false))
  | _ + 1, xs, [] => xs.map (fun x => (x, false))
  | n + 1, x :: xs, y :: ys =>
    if x = y then (x, true) :: mergeJournals n xs ys
    else if (y.jseq - x.jseq).toNat < 0x80000000 then (x, false) :: mergeJournals n xs (y :: ys)
    else (y, false) :: mergeJournals n (x :: xs) ys

/-- A record counts (R330): ACCEPT, SKIP and POSTED only where both journals hold it. -/
def journalCounts (r : JRec) (both : Bool) : Bool :=
  match r.type with
  | .accept | .skip | .posted => both
  | .begin | .done | .ringStart => true

/-- Place in the journal of store `i` of its first record that fails its RCRC, the newest one apart (R330). -/
def brokenAt (i : Side) (x : Store) : Option Nat := x.journal.dropLast.findIdx? (fun r => !r.sound i)

/-- The records that exist in the journal of store `i`, without their RCRC, which differs from store to store. -/
def Store.records (i : Side) (x : Store) : List JRec := (x.journal.filter (·.sound i)).map (fun r => { r with rcrc := 0 })

/-- The records that count at a replay: of both journals, or of the one store that serves, or of the journal to which a
broken one yields. -/
def State.replayRecords (s : State) : List JRec :=
  let a := s.store .a
  let b := s.store .b
  if !s.bothStores then (s.store s.survivor).records s.survivor
  else if (brokenAt .a a).isSome && (brokenAt .b b).isNone then b.records .b
  else if (brokenAt .b b).isSome && (brokenAt .a a).isNone then a.records .a
  else
    let xs := a.records .a
    let ys := b.records .b
    ((mergeJournals (xs.length + ys.length) xs ys).filter (fun e => journalCounts e.1 e.2)).map (·.1)

/-- JOURNAL_CHECK of a store whose journal holds a broken record (R330, R337). -/
def journalCheck (i : Side) (s : State) : State :=
  let x := s.store i
  match brokenAt i x with
  | some k =>
    if s.bothStores || s.survivor == i then
      recordPulse { block := .wq, cause := 1, cls := .contained, scope := 0xA, item := i.num,
                    addr := 24 * (x.jwritten - x.journal.length + k) % 1048576, init := 0x30 + i.num, acc := 0xA } s
    else s
  | none => s

/-- The record belongs to this submission ring. -/
def JRec.isOf (r : JRec) (p : Side) (n : Fin 8) : Bool := r.type != .posted && r.port == p && r.ring == n

/-- SQHD of an ACCEPT or SKIP record (R326). -/
def JRec.sqhd (r : JRec) : Nat := if r.type = .accept then r.status % 4096 else r.data.toNat / 2 ^ 32 % 4096

/-- What the journal says of one submission ring: the value of its last RING_START, and what follows that record. -/
def sinceStart (p : Side) (n : Fin 8) (rs : List JRec) : Option Word × List JRec :=
  let rev := rs.reverse
  let isStart := fun (r : JRec) => r.isOf p n && r.type == .ringStart
  ((rev.find? isStart).map (·.seq), (rev.takeWhile (fun r => !isStart r)).reverse)

/-- Records of open slots, each slot once. -/
def slotsOnce : List JRec → List JRec → List JRec
  | acc, [] => acc.reverse
  | acc, r :: rs =>
    if acc.any (fun x => x.type == r.type && x.seq == r.seq && x.sqhd == r.sqhd) then slotsOnce acc rs else slotsOnce (r :: acc) rs

/-- The descriptor an ACCEPT or SKIP record still tells of. -/
def JRec.desc (r : JRec) (tag : BitVec 64) : Desc :=
  { opc := r.opc, flags := 0, resv := false, seq := r.seq, tag := tag, winOff := 0, len := 0, hostAddr := 0, arg0 := 0, arg1 := 0,
    arg2 := 0, arg3 := 0 }

/-- The completion a replay gives one open slot, after the pseudo-code of R329. -/
def replayItem (p : Side) (n : Fin 8) (rs : List JRec) (freeTag : BitVec 64) (r : JRec) : Item :=
  let find := fun (t : JType) => rs.find? (fun x => x.isOf p n && x.type == t && x.seq == r.seq)
  let stage : Stage :=
    if r.type = .skip then .ready r.status 0 true
    else match find .done, find .begin with
      | some d, _ => .ready d.status (loHalf d.data) true
      | none, some _ => .ready 0x0301 1 false
      | none, none => .ready 0x0301 0 false
  { d := r.desc (if r.type = .skip then freeTag else r.data), skip := r.type == .skip, sqhd := r.sqhd, jseq := r.jseq, stage := stage,
    mark := 0, old := true }

/-- One submission ring rebuilt from the records that count. -/
def rebuildRing (rs : List JRec) (r : Side × Fin 8) (s : State) : State :=
  let p := r.1
  let n := r.2
  let (start, since) := sinceStart p n rs
  let slots := since.filter (fun x => x.isOf p n && (x.type == .accept || x.type == .skip))
  let covered := fun (x : JRec) => since.any (fun y => y.type == .posted && y.port == p && y.covers.contains (n, x.seq, x.sqhd))
  let pending := slotsOnce [] (slots.filter (fun x => !covered x))
  let (tag, s) := s.takeFree
  let items := pending.map (replayItem p n since tag)
  let accepts := slots.filter (fun x => x.type == .accept)
  let next : Word := match accepts with
    | a :: as => as.foldl (fun m x => if (x.seq + 1 - m).toNat < 0x80000000 then x.seq + 1 else m) (a.seq + 1)
    | [] => start.getD 0
  let head := match slots.getLast? with | some x => x.sqhd | none => 0
  let s := s.modSq p n (fun q => { q with nextSeq := next, head := head, tail := head, items := items })
  s.modWq (fun w => { w with replayCnt := satAdd w.replayCnt items.length })

/-- The producer index of each CQ from its last POSTED record. -/
def rebuildCqs (rs : List JRec) (s : State) : State :=
  rs.foldl (fun s r =>
    if r.type = .posted then
      s.modCq r.port r.ring (fun q => { q with tail := r.seq.toNat % 4096, phase := bitOf r.seq.toNat 12 })
    else s) s

/-- The DONE record of an item a replay ends (R326, R328). -/
def replayDone (r : Side × Fin 8) (s : State) : State :=
  (s.sq r.1 r.2).items.foldl (fun s i =>
    match i.stage with
    | .ready code res false =>
      journalWrite (jrec .done r.1 r.2 i.d.opc code i.d.seq (BitVec.ofNat 64 (res.toNat + 2 ^ 32 * i.sqhd))) s
    | _ => s) s

/-- Record `k` of the journal of a store as it is read: damaged, its RCRC no longer holds. -/
def damageRecord (s : State) (e : Side × Nat) : State :=
  s.modStore e.1 (fun x => { x with journal := x.journal.mapIdx (fun k r => if k = e.2 then { r with rcrc := r.crc e.1 ^^^ 1 } else r) })

/-- JOURNAL_REPLAY: every ring of both ports rebuilt, and the replayed completions queued. `bad` are records found damaged. -/
def execJournalReplay (bad : List (Side × Nat)) (s : State) : Host.Outcome State Fault Refusal :=
  .next (
    if s.startStep .replay then
      let s := bad.foldl damageRecord s
      let rs := s.replayRecords
      let newest := (s.store .a).records .a ++ (s.store .b).records .b
      let s := modStores Store.dropBroken (journalCheck .b (journalCheck .a s))
      let s := rebuildCqs rs (allRings.foldl (fun s r => rebuildRing rs r s) s)
      let next : Word := match newest with
        | a :: as => as.foldl (fun m x => if (x.jseq + 1 - m).toNat < 0x80000000 then x.jseq + 1 else m) (a.jseq + 1)
        | [] => 0
      let s := s.modWq (fun w => { w with jseq := next, replayed := true })
      let s := allRings.foldl (fun s r => replayDone r s) s
      s.modPcr (fun p => { p with phase := .select })
    else s)

/-! ## Slot selection (R93, R451) -/

/-- A committed slot of a store passes verification: over its own copy, with both check values computed from it. -/
def slotPasses (i : Side) (k : Side) (s : State) : Bool :=
  let x := (s.store i).slot.get k
  x.gen != 0 && (verifyCopy (verifyArgs s x.bytes 0x40000 (i == .b)) (imageOf x.bytes)).1 == 0

/-- The slots of a store by falling commit generation. -/
def slotOrder (i : Side) (s : State) : List Side :=
  if (s.store i).slot.a.gen.toNat < (s.store i).slot.b.gen.toNat then [.b, .a] else [.a, .b]

/-- The slot a die selects: the highest commit generation that passes. -/
def dieSelects (i : Side) (s : State) : Option Side := (slotOrder i s).find? (fun k => slotPasses i k s)

/-- Two slots, one of each store, hold the same image by its check values. -/
def sameImage (ka kb : Side) (s : State) : Bool :=
  let x := imageOf ((s.store .a).slot.get ka).bytes
  let y := imageOf ((s.store .b).slot.get kb).bytes
  u32 x 0x0F0 == u32 y 0x0F0 && u32 x 0x0F4 == u32 y 0x0F4

/-- The commit generation a die has selected, 0 for none. -/
def selectedGen (i : Side) (k : Option Side) (s : State) : Nat :=
  match k with | some k => ((s.store i).slot.get k).gen.toNat | none => 0

/-- A slot of SB with SA's image, not the one SB selected, that passes but for its generation: the commit SB has not
completed. -/
def unfinished (ka : Side) (kb : Option Side) (s : State) : Option Side :=
  [Side.a, .b].find? (fun k =>
    let x := (s.store .b).slot.get k
    kb != some k && sameImage ka k s &&
    (verifyCopy (verifyArgs s x.bytes 0x40000 true) (imageOf x.bytes)).1 == 0)

/-- The slots of the highest generation that passes on both dies. -/
def fallBack (s : State) : Option (Side × Side) :=
  (slotOrder .a s).findSome? (fun ka =>
    if slotPasses .a ka s then
      ((slotOrder .b s).find? (fun kb =>
        ((s.store .a).slot.get ka).gen == ((s.store .b).slot.get kb).gen && slotPasses .b kb s && sameImage ka kb s)).map
          (fun kb => (ka, kb))
    else none)

/-- A slot of a store becomes its active one. -/
def makeActive (i k : Side) (s : State) : State := s.modStore i (fun x => { x with active1 := k == .b })

/-- The table of a slot. -/
def slotTable (i k : Side) (s : State) : Table := tableOf (imageOf ((s.store i).slot.get k).bytes)

/-- A core's image is chosen from a slot. -/
def chooseOne (c i k : Side) (s : State) : State :=
  (makeActive i k s).modEv (fun e => { e with chosen := e.chosen.set c (some (slotTable i k s)) })

/-- Both cores' image is chosen from equal slots of both stores. -/
def chooseBoth (ka kb : Side) (s : State) : State := chooseOne .b .b kb (chooseOne .a .a ka s)

/-- The reconciliation of R93 with both stores in service. -/
def reconcile (s : State) : State :=
  let ka := dieSelects .a s
  let kb := dieSelects .b s
  let ga := selectedGen .a ka s
  let gb := selectedGen .b kb s
  let fall := fun (s : State) =>
    let s := logEvent 7 Block.ms.id (ga % 65536) gb s
    match fallBack s with | some (x, y) => chooseBoth x y s | none => s
  match ka, kb with
  | none, none => s
  | some x, some y =>
    if ga = gb ∧ sameImage x y s then chooseBoth x y s
    else if gb + 1 = ga then
      match unfinished x kb s with
      | some k => chooseBoth x k (s.modStore .b (fun z => { z with slot := z.slot.upd k (fun t => { t with gen := BitVec.ofNat 32 ga }) }))
      | none => fall s
    else fall s
  | some x, none =>
    if ga = 1 then
      match unfinished x none s with
      | some k => chooseBoth x k (s.modStore .b (fun z => { z with slot := z.slot.upd k (fun t => { t with gen := 1 }) }))
      | none => fall s
    else fall s
  | none, some _ => fall s

/-- The selection of R93; in split mode each die chooses for its own core alone (R451). BLANK and RETIRED run the null table
whatever the slots hold (R439). -/
def selectTables (s : State) : State :=
  let s := s.modEv (fun e => { e with chosen := ⟨none, none⟩ })
  if s.st.lc = .blank ∨ s.st.lc = .retired then s
  else if s.split then
    [Side.a, .b].foldl (fun s i =>
      if (s.store i).written then match dieSelects i s with | some k => chooseOne i i k s | none => s else s) s
  else if s.bothStores then reconcile s
  else
    let i := s.survivor
    match dieSelects i s with
    | some k => chooseOne .b i k (chooseOne .a i k s)
    | none => s

/-- CVS11 holds the CV_A of the slot SB has read last, or of the survivor's (R68, R381). -/
def selectSnoop (s : State) : State :=
  let i : Side := if (s.store .b).written then .b else .a
  let k := (dieSelects i s).getD ((slotOrder i s).getLastD .a)
  if ((s.store i).slot.get k).gen = 0 then s else snoop 11 (cvA ((s.store i).slot.get k).bytes) s

/-- TABLE_SELECT. -/
def execTableSelect (s : State) : Host.Outcome State Fault Refusal :=
  .next (if s.startStep .select then (selectTables (selectSnoop s)).modPcr (fun p => { p with phase := .load }) else s)

/-! ## Loading (R59, R89) -/

/-- A core with a table loaded: initial values set, every other working word 0, all outputs commanded off. -/
def CoreSt.load (c : Side) (t : Table) (x : CoreSt) : CoreSt :=
  t.init.foldl (fun x e => CoreSt.poke c e.1 e.2 x) { x with table := some t, opMem := [], undef := none, sig := t.seed }

/-- The cores are released and wait for the first snapshot (R58). -/
def releaseCores (s : State) : State :=
  let s := (s.modCore .a (fun x => { x with seq := .wait })).modCore .b (fun x => { x with seq := .wait })
  s.modPcr (fun p => { p with phase := .firstScan })

/-- The terminal entries of a quarter as a table gives them. -/
def Table.quarter (t : Table) (q : Fin 4) : List InputCfg × List StrumCfg × List OutputCfg × List AxisCfg :=
  ((t.inputs.toList.drop (32 * q.val)).take 32, (t.strums.toList.drop (8 * q.val)).take 8,
   (t.outputs.toList.drop (32 * q.val)).take 32 ++ (t.outputs.toList.drop (128 + 4 * q.val)).take 4,
   (t.axes.toList.drop (16 * q.val)).take 16)

/-- Quarters whose field step runs (R422): all after a system or power-on reset, the changed ones after a core reset. -/
def fieldQuarters (old new : State) : BitVec 4 :=
  if old.pcr.level ≠ .core then 0b1111
  else BitVec.ofNat 4 (bitmap 4 (fun k =>
    let q : Fin 4 := ⟨k % 4, Nat.mod_lt _ (by decide)⟩
    ((old.tableOf q).getD Table.null).quarter q != ((new.tableOf q).getD Table.null).quarter q))

/-- TABLE_LOAD: the chosen image, or the null table, stands in both cores; the field step follows where it is due. -/
def execTableLoad (s : State) : Host.Outcome State Fault Refusal :=
  .next (
    if s.startStep .load then
      let t := (s.modCore .a (CoreSt.load .a (s.ev.chosen.a.getD Table.null))).modCore .b
                 (CoreSt.load .b (s.ev.chosen.b.getD Table.null))
      let qs := fieldQuarters s t
      let t := t.modEv (fun e => { e with fieldQ := qs, chosen := ⟨none, none⟩ })
      if qs = 0 then releaseCores t else t.modPcr (fun p => { p with phase := .field })
    else s)

/-! ## The field step (R139, R193, R422) -/

/-- Corrections a first calibration pass has found: free values within the limits of R194. -/
def freeCorr (w : BitVec 64) : Corr :=
  let ofs := fun (k : Nat) => BitVec.ofInt 8 ((k % 201 : Nat) - 100 : Int)
  let gain := fun (k : Nat) => BitVec.ofInt 8 ((k % 121 : Nat) - 60 : Int)
  let b := fun (i : Nat) => w.toNat / 65536 ^ i % 65536
  ⟨ofs (b 0), ofs (b 1), gain (b 2), gain (b 3)⟩

/-- The reference comparison of a quarter (R139). -/
def refCheck (q : Fin 4) (ok : Bool) (s : State) : State :=
  let s := s.modIb (fun b => { b with refOk := if ok then b.refOk ||| BitVec.ofNat 4 (2 ^ q.val) else b.refOk &&& ~~~BitVec.ofNat 4 (2 ^ q.val) })
  if ok then causeAbsent .ib 1 q.val s
  else recordFault { block := .ib, cause := 1, cls := .contained, scope := 1, item := q.val, addr := q.val, init := 0x10 + q.val,
                     acc := 6, quarter := some q } s

/-- The first calibration pass of one converter pair of a quarter. -/
def firstPass (q : Fin 4) (pair : Fin 17) (bad used : Bool) (s : State) : State :=
  if bad then
    match pairAxis q pair.val with
    | some a => if used then axisFault 7 a 0 s else s
    | none => afQuarterFault 7 q s
  else
    let (w, s) := s.takeFree
    s.modAf (fun f => { f with calCnt := satInc f.calCnt, q := upd f.q q (fun x => { x with corr := vset x.corr pair (freeCorr w) }) })

/-- The field step of one quarter. -/
def fieldQuarter (refOk : BitVec 4) (thrBad : List (Fin 128 × BitVec 5)) (calBad : List (Fin 4 × Fin 17)) (q : Fin 4)
    (s : State) : State :=
  let t := (s.tableOf q).getD Table.null
  let s := refCheck q (refOk.getLsbD q.val) s
  let s := (fins 17).foldl (fun s k =>
    firstPass q k (calBad.contains (q, k))
      (match pairAxis q k.val with | some a => (t.axes[a] : AxisCfg).mode != 0 | none => false) s) s
  (fins 128).foldl (fun s i =>
    if quarterOfInput i.val = q ∧ (t.inputs[i] : InputCfg).mode ≠ 0 then
      thrTest i (match thrBad.find? (fun e => e.1 == i) with | some e => e.2 | none => 0b11111) s
    else s) s

/-- The ADC domain of every quarter whose field step runs has been released (R421). -/
def State.fieldClocks (s : State) : Bool :=
  (fins 4).all (fun q => !(s.ev.fieldQ.getLsbD q.val && s.pcr.vfOk[q]) || s.pcr.clk.adc[q])

/-- FIELD_STEP: every quarter due whose field supply is there; the first configured scan comes next. -/
def execFieldStep (refOk : BitVec 4) (thrBad : List (Fin 128 × BitVec 5)) (calBad : List (Fin 4 × Fin 17)) (s : State) :
    Host.Outcome State Fault Refusal :=
  .next (
    if s.startStep .field && s.fieldClocks then
      let qs := s.ev.fieldQ
      let s := (fins 4).foldl (fun s q =>
        if qs.getLsbD q.val && s.pcr.vfOk[q] then fieldQuarter refOk thrBad calBad q s else s) s
      if s.dev = .start then releaseCores s else s
    else s)

end Sys2Proof.Machine
end

