-- ==== Sys2Proof/Machine/Timers.lean ====
section
/-!
DEFINITION. Sys2Proof/Machine/Timers.lean: period generators (R274 to R278), compare channels (R279) and capture channels
(R280 to R284) of the time base.
-/
namespace Sys2Proof.Machine

/-! ## Period generators (R274 to R278) -/

/-- A wrap of generator `g` on the present tick: its flag and interrupt, or what the module paces with it (R278, R394, R430). -/
def pgEvent (g : Fin 16) (at_ : Tick) (s : State) : State :=
  let s := tbEvent (0xA0 + g.val) at_ s
  if 3 ≤ g.val then
    let s := s.modTb (fun t => { t with pgFlg := t.pgFlg ||| BitVec.ofNat 16 (2 ^ g.val) })
    if s.tb.ienPc.getLsbD g.val then raiseEventIrq .tb s else s
  else if g.val = 1 then
    (if s.st.cruise && s.st.full.isNone then s.modSt (fun c => { c with batch := some (8, at_) }) else s)
  else if g.val = 2 then s.modMs (fun m => { m with tallyDue := true })
  else s


/-- A generator restarted on tick `t`, which is a wrap: any pending value applies (R276, R277). -/
def Pg.restart (t : Tick) (x : Pg) : Pg :=
  { x with base := t, stopped := 0, reload := if x.pendAt.isSome then x.pend else x.reload, pendAt := none }

/-- A wrap of generator `g` that has fallen due: its count has reached RELOAD and returns to 0. -/
def pgDue (g : Fin 16) (s : State) : State :=
  let x : Pg := s.tb.pg[g]
  if x.due s.now then pgEvent g x.wrapAt (s.modTb (fun t => { t with pg := upd t.pg g (Pg.wrapped x.wrapAt) })) else s

/-- PG_WRAP. -/
def execPgWrap (g : Fin 16) (s : State) : Host.Outcome State Fault Refusal := .next (pgDue g s)

/-- A write to a register of PG00 to PG02 has no effect and is counted (R274). A write to another meets the generator with the
wrap of its tick behind it (R275). -/
def pgHost (port : Side) (g : Fin 16) (f : State → State) (s : State) : State :=
  if g.val < 3 then countRefused port s else f (pgDue g s)

/-- A write to PG_RELOAD (R275): 0 is undefined. -/
def pgReloadWrite (port : Side) (g : Fin 16) (v : Word) (s : State) : State :=
  pgHost port g (fun s =>
    if v = 0 then recordAccess .tb port (0x404 + 16 * g.val) s
    else s.modTb (fun t => { t with pg := upd t.pg g (fun x => { x with pend := v, pendAt := some s.now }) })) s

/-- PG_CTL.NOW written 1 (R276). -/
def pgNow (port : Side) (g : Fin 16) (s : State) : State :=
  pgHost port g (fun s => pgEvent g s.now (s.modTb (fun t => { t with pg := upd t.pg g (Pg.restart s.now) }))) s

/-- PG_CTL.EN written (R277): stopped at the present count, or resumed from it. -/
def pgEnable (port : Side) (g : Fin 16) (en : Bool) (s : State) : State :=
  pgHost port g (fun s => s.modTb (fun t => { t with pg := upd t.pg g (fun x =>
    if x.en = en then x
    else if en then { x with en := true, base := s.now - x.stopped.zeroExtend 64 }
    else { x with en := false, stopped := BitVec.ofNat 32 (elapsed s.now x.base) }) })) s

/-- A write to PG_GO (R277): the selected host generators restart on one tick; bits 0 to 2 are counted (R274). -/
def pgGo (port : Side) (mask : BitVec 16) (s : State) : State :=
  let s := if mask.toNat % 8 ≠ 0 then countRefused port s else s
  (fins 16).foldl (fun s g =>
    if 3 ≤ g.val ∧ mask.getLsbD g.val then
      pgEvent g s.now ((pgDue g s).modTb (fun t => { t with pg := upd t.pg g (fun x => { x.restart s.now with en := true }) }))
    else s) s


/-! ## Compare channels (R279) -/

/-- A compare channel changed. -/
def State.modCmp (s : State) (n : Fin 32) (f : Cmp → Cmp) : State := s.modTb (fun t => { t with cmp := upd t.cmp n f })


/-- A match that has fallen due: EN is cleared, the flag set, and the internal event comes t_cmpev, one tick, later (R279,
R286). -/
def cmpDue (n : Fin 32) (s : State) : State :=
  let x : Cmp := s.tb.cmp[n]
  if x.due s.now then
    let s := s.modCmp n (Cmp.matched s.now)
    let s := tbEvent (0x80 + n.val) (s.now + 1) s
    let s := s.modTb (fun t => { t with cmpFlg := t.cmpFlg ||| BitVec.ofNat 32 (2 ^ n.val) })
    if s.tb.ienCmp.getLsbD n.val then raiseEventIrq .tb s else s
  else s

/-- CMP_LO written: the holding register. -/
def cmpLoWrite (n : Fin 32) (v : Word) (s : State) : State := s.modCmp n (fun x => { x with lo := v })

/-- CMP_HI written: both halves take effect on one tick; a value already reached while armed matches late. A match of the tick
comes first (R279). -/
def cmpHiWrite (n : Fin 32) (v : Word) (s : State) : State :=
  (cmpDue n s).modCmp n (fun x =>
    let w : Tick := v ++ x.lo
    { x with before := x.old s.now, value := w, loadedAt := s.now,
             lateAt := if x.en ∧ w.toNat ≤ s.now.toNat then some s.now else none })

/-- CMP_CTL.EN written. Arming counts from this tick; a value already reached matches late on the next. A match of the tick
comes first. -/
def cmpEnable (n : Fin 32) (en : Bool) (s : State) : State :=
  (cmpDue n s).modCmp n (fun x =>
    if en then { x with en := true, before := BitVec.allOnes 64, loadedAt := s.now,
                        lateAt := if x.value.toNat ≤ s.now.toNat then some s.now else none }
    else { x with en := false, lateAt := none })


/-- CMP_MATCH: an armed channel whose value, as loaded before this tick, is reached. -/
def execCmpMatch (n : Fin 32) (s : State) : Host.Outcome State Fault Refusal := .next (cmpDue n s)

/-! ## Capture channels (R280 to R284) -/

/-- A capture channel changed. -/
def State.modCap (s : State) (c : Fin 16) (f : Cap → Cap) : State := s.modTb (fun t => { t with cap := upd t.cap c f })

/-- The signal of an input that TAP selects has changed to `level` on the present tick (R280): the live comparator, the output of
step 2, or the filtered value. The comparator's first reading after the starting edge counts as one after a low (R514). -/
def Input.tapEdge (tap : Nat) (level : Bool) (now : Tick) (x : Input) : Bool :=
  x.runs now && (match tap with
    | 0 => x.live == level && (x.liveAt == now || (level && x.onAt == some (now - 1)))
    | 1 => x.c2 == level && x.c2At == now
    | _ => x.filt == level && x.filtAt == now)

/-- The channel's source delivers this event on the present tick: an input that is enabled, with a quarter that is not zeroed, and
an edge EDGE selects; any event of an internal source (R280). -/
def captures (x : Cap) (level : Bool) (s : State) : Bool :=
  if x.src.toNat < 128 then
    let i : Fin 128 := ⟨x.src.toNat % 128, Nat.mod_lt _ (by decide)⟩
    (s.inputCfg i).mode != 0 && s.quarterValid (quarterOfInput i.val) && (if level then x.edge.getLsbD 0 else x.edge.getLsbD 1) &&
    ((s.ib.inp[i] : Input).settle (s.filterTicks i) s.now).tapEdge x.tap.toNat level s.now
  else if x.src = 0xB6 then x.edge != 0 && s.faultLow && !s.tb.faultWas
  else x.edge != 0 && s.tb.events.contains (x.src.toNat, s.now)

/-- An entry (R281): TB_NOW with LEVEL in bit 63, which is 1 for an internal event. -/
def capEntry (x : Cap) (level : Bool) (now : Tick) : Word64 :=
  (if x.src.toNat < 128 then BitVec.ofBool level else 1#1) ++ now.extractLsb' 0 63

/-- A command of the present tick that still waits reads CAP_LO of the channel. -/
def State.capReadWaits (s : State) (c : Fin 16) : Bool :=
  s.pending.any (fun i => match i with
    | .capLoRead p d => d == c && !(s.hport p).inReset
    | .lowHalfRead p space => space == .bar0 (0x7508 + 16 * c.val) && !(s.hport p).inReset
    | _ => false)

/-- CAPTURE_EVENT: into the queue of four, or dropped and counted; a read of the same tick removes the oldest entry first. Two
events of one channel do not fall on one tick (R283). -/
def execCaptureEvent (c : Fin 16) (level : Bool) (s : State) : Host.Outcome State Fault Refusal :=
  let x : Cap := s.tb.cap[c]
  .next (
    if !s.pcr.clk.tb || x.edge == 0 || x.setAt == some s.now || x.lastAt == some s.now || !captures x level s then s
    else
    let s := s.modCap c (fun x => { x with lastAt := some s.now })
    if (if s.capReadWaits c then 5 else 4) ≤ x.queue.length then
      s.modCap c (fun x => { x with ovf := true, ovfCnt := satInc x.ovfCnt })
    else
      let s := s.modCap c (fun x => { x with queue := x.queue ++ [capEntry x level s.now] })
      if x.queue.isEmpty && s.tb.ienPc.getLsbD (16 + c.val) then raiseEventIrq .tb s else s)

/-- CAP_LO read (R282): the oldest entry is removed and its high half latched; 0 on an empty queue. -/
def capLoRead (port : Side) (c : Fin 16) (s : State) : State :=
  let x : Cap := s.tb.cap[c]
  let e : Word64 := x.queue.headD 0
  readData port (loHalf e) (latchHigh port (0x750C + 16 * c.val) (hiHalf e) (s.modCap c (fun x => { x with queue := x.queue.drop 1 })))


/-- CAP_CTL written (R284): the queue empties, OVF clears, and the fields take effect on the next tick; an undefined SRC or
TAP leaves its field (R9, R280). -/
def capCtlWrite (port : Side) (c : Fin 16) (v : Word) (s : State) : State :=
  let src := v.extractLsb' 0 8
  let tap := v.extractLsb' 10 2
  let s := s.modCap c (fun x => { x with
    src := if src.toNat ≤ 0xB6 then src else x.src, edge := v.extractLsb' 8 2, tap := if tap = 3 then x.tap else tap,
    setAt := some s.now, queue := [], ovf := false })
  if 0xB6 < src.toNat ∨ tap = 3 ∨ 4096 ≤ v.toNat then recordAccess .tb port (0x500 + 16 * c.val) s else s


end Sys2Proof.Machine
end

