-- ==== Sys2Proof/Machine/Life.lean ====
section
/-!
DEFINITION. Sys2Proof/Machine/Life.lean: the life of a recorded fault (R257 to R265): withheld interrupts, quiet periods,
recoveries and escalation, resources that turn good again, and the two writes that act on a fault record.
-/
namespace Sys2Proof.Machine

/-- A block's interrupt for a contained or fatal fault, if FR_IEN enables its class (R265). -/
def faultIrq (b : Block) (c : FaultClass) (s : State) : State :=
  if (s.frOf b).ien.getLsbD (match c with | .corrected => 0 | .contained => 1 | .fatal => 2) then raiseFaultIrq b s else s

/-- STORM_EXPIRY: the interrupts withheld for t_storm are raised (R261). -/
def execStormExpiry (b : Block) (s : State) : Host.Outcome State Fault Refusal :=
  let due := (s.frOf b).insts.filter (fun i => i.withheld && decide (2000 ≤ elapsed s.now i.at_))
  let s := s.modRec b (fun r => { r with insts := r.insts.map (fun i =>
    if i.withheld ∧ 2000 ≤ elapsed s.now i.at_ then { i with withheld := false } else i) })
  .next (due.foldl (fun s i => faultIrq b i.cls s) s)

/-! ## Clearing (R257, R258, R263) -/

/-- The entry of a cleared fault, KIND 0x02 (R391, R392). -/
def logCleared (b : Block) (i : FaultInst) (s : State) : State :=
  logPush { eseq := 0, time := if s.pcr.clk.tb then s.now else 0, kind := 2, block := b.id, cause := i.cause,
            cls := i.cls.code + 4 * i.scope + 64 * bit i.conseq.isSome, init := i.init.toNat, acc := i.acc.toNat, addr := i.addr,
            data16 := min 8 ((s.frOf b).recovAt.filter (fun t => decide (elapsed s.now t < 360000000000))).length,
            data32 := 0 } s

/-- A store is in service again once its copy is complete and neither STORE_FAIL nor STR_CLOCK of it is uncleared (R396,
R397, R412). -/
def storeBack (i : Side) (s : State) : State :=
  if s.uncleared .ms 3 i.num || s.uncleared .pcr 7 i.num then s
  else s.modStore i (fun x => if x.st = .quiet then { x with st := .sound } else x)

/-- A host port held in reset by CLK_CHECK leaves it while its clock runs (R457). -/
def portBack (p : Side) (s : State) : State :=
  if s.pcr.clk.hp.get p && !s.pcr.sideReset.get p && !(p == .b && s.dev == .recovery) then
    s.modHport p (fun h => { h with inReset := false })
  else s

/-- What else ends with a fault: an axis mends, a peer-link port leaves OFF, a store returns to service. -/
def clearedHook (b : Block) (i : FaultInst) (s : State) : State :=
  match b with
  | .af => afCleared i.cause i.scope i.item s
  | .pl | .cv | .st =>
    if i.scope = 8 ∧ (s.dev = .idle ∨ s.dev = .run) then plRelease ⟨i.item % 4, Nat.mod_lt _ (by decide)⟩ s
    else if b = .st ∧ i.cause = 5 ∧ i.scope = 9 then portBack (Side.of i.item) s
    else s
  | .ms | .pcr => if i.scope = 0xA then storeBack (Side.of i.item) s else s
  | _ => s

/-- An instance leaves its record. -/
def dropInst (b : Block) (i : FaultInst) (s : State) : State :=
  clearedHook b i (s.modRec b (fun r => { r with insts := r.insts.filter (fun j => j != i) }))

/-- The instance's own cause is absent: its quiet timer runs, or it is the RESOURCE record itself (R145, R263). -/
def ownAbsent (b : Block) (i : FaultInst) : Bool :=
  (match i.life with | .quiet _ => true | _ => false) ||
  ((b == .ib || b == .ps || b == .af || b == .os) && i.scope == 1 && i.cause == resourceCode b && i.conseq.isSome)

/-- The resource record of a block while another resource of its quarter is bad: it names that one. -/
def otherBad (b : Block) (i : FaultInst) (s : State) : Option (Resource × Block × Nat) :=
  if i.cause = resourceCode b ∧ i.scope = 1 then
    match badFor b i.quarter s with
    | some ((r, c, k), _) => (match r with | .vf _ | .ql _ | .ref _ => some (r, c, k) | _ => none)
    | none => none
  else none

/-- The slot holds the recording of this instance. -/
def Slot.holds (e : Slot) (i : FaultInst) : Bool :=
  e.cause == BitVec.ofNat 8 i.cause && e.item == i.item && e.time == i.at_

/-- The resources whose line the fault of an instance holds bad, once no other instance does (R260). -/
def State.lineEnds (s : State) (b : Block) (i : FaultInst) : Option Resource :=
  match resourceOf b i.cause i.item with
  | some r => if (s.frOf b).insts.any (fun j => resourceOf b j.cause j.item == some r) then none else some r
  | none => none

/-- A consequential instance when its cause block's fault clears (R263); `ends` is what follows if it clears and was itself the
fault of a resource. -/
def conseqEnds (ends : Resource → State → State) (b : Block) (i : FaultInst) (s : State) : State :=
  match otherBad b i s with
  | some c => s.modRec b (fun r => { r with insts := r.insts.map (fun j => if j = i then { j with conseq := some c } else j) })
  | none =>
    if i.cls = .contained ∧ ownAbsent b i then
      let s := logCleared b i (dropInst b i s)
      match s.lineEnds b i with | some r => ends r s | none => s
    else
      let s := s.modRec b (fun r => { r with
        insts := r.insts.map (fun j => if j = i then { j with conseq := none, withheld := false } else j),
        slot := r.slot.map (fun e => if e.holds i then { e with conseq := false, causeBlk := BitVec.ofNat 8 b.id, causeCode := e.cause } else e) })
      faultIrq b i.cls s

/-- A line turns good: its consequential instances clear or stand for themselves. -/
def lineGood (ends : Resource → State → State) (r : Resource) (s : State) : State :=
  let s := { s with bad := s.bad.filter (fun x => x.1 != r) }
  Block.all.foldl (fun s b =>
    ((s.frOf b).insts.filter (fun i => match i.conseq with | some (x, _, _) => x == r | none => false)).foldl
      (fun s i => conseqEnds ends b i s) s) s

/-- A resource status line turns good (R260, R263): the lines of consequential faults that clear with it turn good as well. A
reference, which only PS and AF depend on, ends the chain: the fault of no further resource depends on it. -/
def turnGood (r : Resource) (s : State) : State :=
  lineGood (lineGood (lineGood (fun _ s => s))) r s

/-- The eighth recovery within 3,600 s escalates (R258); contained where a resource of the quarter is bad already (R262). -/
def escalate (b : Block) (i : FaultInst) (s : State) : State :=
  let already := match badFor b i.quarter s with | some (_, t) => t != s.now | none => false
  let f : FaultRep := { block := b, cause := i.cause, cls := .fatal, scope := if already then i.scope else 0, item := i.item,
                        addr := i.addr.toNat, init := i.init.toNat, acc := i.acc.toNat, quarter := i.quarter, escalated := true }
  let s := recordCore f s
  logFault 3 (slotOf f .fatal none s.now) b s

/-- A contained instance reaches the end of its quiet period: cleared, a recovery counted, the resource it stood for good
again (R257, R258, R260). -/
def recover (b : Block) (i : FaultInst) (s : State) : State :=
  let now := s.now
  let s := (dropInst b i s).modRec b (fun r => { r with
    recovTotal := satInc r.recovTotal, recovAt := (now :: r.recovAt.filter (fun t => decide (elapsed now t < 360000000000))).take 8 })
  let s := logCleared b i s
  let s := if (s.frOf b).ien.getLsbD 3 then raiseFaultIrq b s else s
  let s := match s.lineEnds b i with | some r => turnGood r s | none => s
  if 8 ≤ (s.frOf b).recovAt.length then escalate b i s else s

/-- QUIET_EXPIRY: the quiet timers of a cause in an item that have reached CQ. A consequential instance clears with its
cause block's fault only (R263). -/
def execQuietExpiry (b : Block) (cause : Nat) (item : Nat) (s : State) : Host.Outcome State Fault Refusal :=
  let due := (s.frOf b).insts.filter (fun i =>
    i.cls == .contained && i.cause == cause && i.item == item && i.conseq.isNone &&
    (match i.life with | .quiet t => decide (100000 * (s.frOf b).cq.toNat ≤ elapsed s.now t) | _ => false))
  .next (due.foldl (fun s i => recover b i s) s)

/-! ## Writes to a fault record (R252, R255, R264, R301) -/

/-- A block whose registers are unavailable (R301): EV, SC and ST during a core reset; every block of the TB domain before its
release, and PL before that of PLK (R421); TB and PL while the one die that carries them is in its own power-on reset (R12,
R404). HP and PCR run on clocks of their own (R410, R411, log 149). -/
def isolated (b : Block) (s : State) : Bool :=
  ((b == .ev || b == .sc || b == .st) && s.pcr.asserted == some .core) ||
  (!s.pcr.clk.tb && b != .hp && b != .pcr) || (!s.pcr.clk.plk && b == .pl) ||
  (s.pcr.sideReset.a && b == .tb) || (s.pcr.sideReset.b && b == .pl)

/-- A write that reaches a block from a port: discarded and counted while the block is isolated. -/
def toBlock (p : Side) (b : Block) (f : State → State) (s : State) : State :=
  fromPort p (fun s => if isolated b s then s.modHport p (fun h => { h with disc := satInc h.disc }) else f s) s

/-- The slot emptied; a fault recorded on the same tick then fills it (R264). -/
def FaultRecord.emptied (now : Tick) (r : FaultRecord) : FaultRecord :=
  if r.lastTick = now ∧ 0 < r.onTick then
    { r with slot := r.best.map (fun e => { e with concurrent := decide (2 ≤ r.onTick) }), entered := true,
             cntConc := if r.entered || decide (r.onTick < 2) then r.cntConc else r.cntConc - 1 }
  else { r with slot := none }

def firstValidClear (b : Block) (s : State) : State := s.modRec b (FaultRecord.emptied s.now)


/-- A write to FR_QUIET: in DEVELOP and COMMISSION, within its limits, and kept in both identity areas (R7, R252). -/
def frQuietWrite (port : Side) (b : Block) (v : Word) (s : State) : State :=
  let c := v.extractLsb' 0 16
  let f := v.extractLsb' 16 16
  if s.st.lc ≠ .develop ∧ s.st.lc ≠ .commission then countRefused port s
  else if c = 0 ∨ 60000 < c.toNat ∨ (f ≠ 0 ∧ f.toNat < 100) ∨ 60000 < f.toNat then recordAccess b port 0x12C s
  else setIdentities (fun i => { i with quiet := vset i.quiet b.idx (some (c, f)) }) (s.modRec b (fun r => { r with cq := c, fq := f }))

/-- EV_CLR (R60): at EA's next close. -/
def evClear (peak malf : Bool) (s : State) : State :=
  s.modEv (fun e => { e with peakClr := e.peakClr || peak, malfClr := e.malfClr || malf })

end Sys2Proof.Machine
end

