-- ==== Sys2Proof/Machine/Ports.lean ====
section
/-!
DEFINITION. Sys2Proof/Machine/Ports.lean: the two host ports (chapter 12): links, port resets, MSI-X, configuration ownership
and accesses to isolated blocks.
-/
namespace Sys2Proof.Machine

/-! ## Links and port resets (R289, R298 to R300) -/

/-- PORT_RESET: a hot reset or an FLR; an FLR leaves the link as it is. -/
def execPortReset (port : Side) (flr : Bool) (s : State) : Host.Outcome State Fault Refusal :=
  .next (fromPort port (fun s =>
    let h := s.hport port
    let s := portReset port s
    if flr then s.modHport port (fun x => { x with link := h.link, rate := h.rate, width := h.width }) else s) s)

/-- LINK_LEAVES_L0: the 24 ms of a loss begin. -/
def execLinkLeavesL0 (port : Side) (s : State) : Host.Outcome State Fault Refusal :=
  .next (fromPort port (fun s => s.modHport port (fun h =>
    if h.link = .l0 ∨ h.link = .l1 then { h with link := .out s.now } else h)) s)

/-- LINK_DOWN: 24 ms have passed and the link is lost: counted, recorded and followed by a port reset. -/
def execLinkDown (port : Side) (s : State) : Host.Outcome State Fault Refusal :=
  .next (
    match (s.hport port).link with
    | .out t =>
      if 2400000 ≤ elapsed s.now t then
        let s := s.modHport port (fun h => { h with linkDn := satInc h.linkDn })
        let s := recordFault { block := .hp, cause := 3, cls := .corrected, scope := 7, item := port.num, addr := port.num, init := 4,
                               acc := 0xC, port := port } s
        portReset port s
      else s
    | _ => s)

/-- Every pending bit whose message can now be sent is (R298). -/
def flushPending (p : Side) (s : State) : State :=
  (fins 32).foldl (fun s v =>
    if (s.hport p).pend.getLsbD v.val then
      sendVector p v (s.modHport p (fun h => { h with pend := h.pend &&& ~~~BitVec.ofNat 32 (2 ^ v.val) }))
    else s) s

/-- LINK_RETURN: the link is in L0 at one of the rates and widths of R289, and what was held is sent; or it goes on from L0 to
L1. -/
def execLinkReturn (port : Side) (rate : BitVec 2) (width : BitVec 2) (l1 : Bool) (s : State) :
    Host.Outcome State Fault Refusal :=
  .next (fromPort port (fun s =>
    if l1 then (if (s.hport port).link = .l0 then s.modHport port (fun h => { h with link := .l1 }) else s)
    else if rate = 0 ∨ width = 0 ∨ width = 3 then s
    else flushPending port (s.modHport port (fun h => { h with link := .l0, rate := rate, width := width }))) s)

/-- POWER_STATE_WRITE (R289): D3hot stops fetching, and nothing else. -/
def execPowerStateWrite (port : Side) (d3 : Bool) (s : State) : Host.Outcome State Fault Refusal :=
  .next (fromPort port (fun s => s.modHport port (fun h => { h with d3 := d3 })) s)

/-- MSIX_UNMASK: the mask of one vector, or of the function, is cleared. -/
def execMsixUnmask (port : Side) (vec : Option (Fin 32)) (s : State) : Host.Outcome State Fault Refusal :=
  .next (fromPort port (fun s =>
    flushPending port (s.modHport port (fun h =>
      match vec with
      | some v => { h with msix := upd h.msix v (fun e => { e with mask := false }) }
      | none => { h with fnMask := false }))) s)

/-- A poisoned or malformed write TLP of a port is discarded and recorded (R303). -/
def recordPoisoned (p : Side) (s : State) : State :=
  recordFault { block := .hp, cause := 4, cls := .corrected, scope := 7, item := p.num, addr := p.num, init := 4, acc := 0xC,
                port := p } s

/-! ## Isolation (R301) -/

/-- The block at a BAR0 offset. -/
def blockAt (off : Nat) : Option Block := Block.ofId (off / 0x1000)

/-- A read that reaches an isolated block: Completer Abort, counted. -/
def abortRead (p : Side) (s : State) : State :=
  s.modHport p (fun h => { h with ca := satInc h.ca, aer := h.aer + 1, lastRead := none })

/-- ISOLATED_ACCESS. -/
def execIsolatedAccess (port : Side) (off : Nat) (write : Bool) (s : State) : Host.Outcome State Fault Refusal :=
  .next (fromPort port (fun s =>
    match blockAt off with
    | some b =>
      if !isolated b s then s
      else if write then s.modHport port (fun h => { h with disc := satInc h.disc })
      else abortRead port s
    | none => s) s)

/-! ## Configuration ownership (R295, R296) -/

/-- A CLAIM. -/
def cfgClaim (port : Side) (key : BitVec 16) (s : State) : State :=
  if key = 0xC1A1 ∧ (s.hp.owner = none ∨ s.hp.owner = some port) then s.modHp (fun h => { h with owner := some port })
  else countRefused port s

/-- A RELEASE; in RECOVERY the owner cannot be changed. -/
def cfgRelease (port : Side) (key : BitVec 16) (s : State) : State :=
  if key = 0xC1A1 ∧ s.hp.owner = some port ∧ s.dev ≠ .recovery then disown s else countRefused port s

end Sys2Proof.Machine
end

