-- ==== Sys2Proof/Machine/Tally.lean ====
section
/-!
DEFINITION. Sys2Proof/Machine/Tally.lean: the tally page (R394), its publication and its history (R395).
-/
namespace Sys2Proof.Machine

/-- The four bytes a register reads, on HP0. -/
def regBytes (b : Block) (o : Nat) (s : State) : List Byte := leBytes 4 ((blockReg b .a s o).getD 0)

/-- Bytes 0x008 to 0xFFB of the page formed on a sample edge whose snapshot has been sealed, with the junction
temperatures of that edge (R394). -/
def tallyPage (scan : Nat) (temps : List (BitVec 16)) (s : State) : List Byte :=
  let r := fun (b : Block) (os : List Nat) => os.flatMap (fun o => regBytes b o s)
  let word := fun a => leBytes 4 (s.lastSnap a).toNat
  let zones := match (s.core .a).table with | some t => t.zones | none => []
  leBytes 8 s.now.toNat ++ leBytes 8 scan ++ leBytes 4 (modStat .a s) ++
  r .ev [0x018, 0x01C, 0x020] ++ r .ib [0x010, 0x014, 0x018, 0x01C] ++ r .ib [0x020, 0x024, 0x028, 0x02C] ++
  r .os [0x030, 0x034, 0x038, 0x03C] ++ r .os [0x040] ++ r .ps [0x00C] ++ r .af [0x008, 0x00C, 0x010, 0x014] ++
  r .wq [0x018, 0x01C] ++ r .ms [0x014, 0x018] ++
  (fins 64).flatMap (fun a => leBytes 4 (s.physSpeed a).toNat) ++
  (List.range 64).flatMap (fun a => word (0x800 + 16 * a + 3) ++ word (0x800 + 16 * a + 11)) ++
  (List.range 16).flatMap (fun z => leBytes 4 (match zones[z]? with
    | some c => ((s.core .a).peek .a c.state).toNat
    | none => 0)) ++
  (List.range 4).flatMap (fun n => word (0xE00 + 128 * n) ++ word (0xE01 + 128 * n) ++ word (0xE0B + 128 * n) ++
    word (0xE09 + 128 * n)) ++
  Block.all.flatMap (fun b => r b [0x100, 0x134, 0x11C, 0x120]) ++
  ([s.pcr.vlMv.a, s.pcr.vlMv.b] ++ s.pcr.vfMv.toList ++ [s.pcr.vbakMv, 0]).flatMap (fun v => leBytes 2 v.toNat) ++
  (List.range 12).flatMap (fun k => leBytes 2 ((temps[k]?).getD 0).toNat) ++ List.replicate 2804 0

/-- The page a wrap of PG02 has asked for is assembled (R394). -/
def assembleTally (scan : Nat) (temps : List (BitVec 16)) (s : State) : State :=
  if s.ms.tallyDue then
    let page := tallyPage scan temps s
    s.modMs (fun m => { m with tallyDue := false, tallyNew := some page })
  else s

/-- Records of the tally history a store holds. -/
def historySize : Nat := 8192

/-- A record put into the tally history of a store (R395); a pass of the area is counted where it begins anew (R389). -/
def historyPut (hseq : Nat) (record : List Byte) (x : Store) : Store :=
  let x := if hseq % historySize = 0 then { x with wear := wearInc 0x380 x.wear } else x
  { x with history := (if x.history.length < historySize then x.history else x.history.drop 1) ++ [(hseq, record)] }

/-- TALLY_PUBLISH: the assembled page is published whole; every thousandth also enters the history. -/
def execTallyPublish (s : State) : Host.Outcome State Fault Refusal :=
  .next (
    match s.ms.tallyNew with
    | none => s
    | some body =>
      let pub := s.ms.pub + 1
      let bs := leBytes 8 pub.toNat ++ body
      let page := bs ++ leBytes 4 (crc32c bs).toNat
      let s := s.modMs (fun m => { m with pub := pub, tallyNew := none, tally := page })
      if pub.toNat % 1000 = 0 then modStores (fun _ => historyPut (pub.toNat / 1000) (page.take 128)) s else s)

end Sys2Proof.Machine
end

