-- ==== Sys2Proof/Machine/StoreRows.lean ====
section
/-!
DEFINITION. Sys2Proof/Machine/StoreRows.lean: the SRAM scrubbers (R383), the failing and the resynchronising of a store (R386,
R387, R396 to R398), the event log's writer (R390) and the hourly steps (R389, R392).
-/
namespace Sys2Proof.Machine

/-! ## The scrubber (R382, R383, R303) -/

/-- First landing word of a scrubber pass: operand memory and row memory come before it (R382). -/
def scrubLanding : Nat := 16384

/-- Words of a scrubber pass (R383). -/
def scrubWords : Nat := 540672

/-- A single-bit error: written back corrected and counted. -/
def scrubSingle (die : Side) (pos : Nat) (s : State) : State :=
  let s := s.modMs (fun m => { m with sramCorr := satInc m.sramCorr })
  recordFault { block := .ms, cause := 5, cls := .corrected, scope := 7, item := die.num, addr := pos + 2 ^ 31 * die.num,
                init := 1 + die.num, acc := 0xA } s

/-- A double-bit error: fatal in operand or row memory; in landing SRAM contained, with a port reset, and the word's data
are lost (R303). -/
def scrubDouble (die : Side) (pos : Nat) (s : State) : State :=
  if pos < scrubLanding then
    recordFault { block := .ms, cause := 2, cls := .fatal, scope := 0, item := 0,
                  addr := pos % 8192 + 2 ^ 16 * (pos / 8192) + 2 ^ 17 * die.num, init := 1 + die.num, acc := 0xA } s
  else
    let off := 4 * (pos - scrubLanding)
    let (w, s) := s.takeFree
    let s := s.modWport die (fun x => { x with landing := msetList 0 x.landing off (leBytes 4 (w.toNat % 2 ^ 32)) })
    let s := s.modMs (fun m => { m with scrubBad := m.scrubBad.set die true })
    let s := recordFault { block := .hp, cause := 1, cls := .contained, scope := 9, item := die.num,
                           addr := off + 2 ^ 31 * die.num, init := 4, acc := 0xC, port := die } s
    portReset die s

/-- The scrubber goes on; at the end of a pass without a double error in landing SRAM the port's SRAM has passed. -/
def scrubNext (die : Side) (s : State) : State :=
  let pos := s.ms.scrubPos.get die + 1
  if pos < scrubWords then s.modMs (fun m => { m with scrubPos := m.scrubPos.set die pos })
  else
    let bad := s.ms.scrubBad.get die
    let s := s.modMs (fun m => { m with scrubPos := m.scrubPos.set die 0, scrubBad := m.scrubBad.set die false,
                                        scrubPass := satInc m.scrubPass })
    if bad then s else causeAbsent .hp 1 die.num s

/-- SCRUB_STEP: the next word of a die is read, on every ninth TB tick from TB_NOW 0 on (DESIGN CHOICE, log 159: the spec names no
first tick). -/
def execScrubStep (die : Side) (found : ScrubFind) (s : State) : Host.Outcome State Fault Refusal :=
  .next (
    if !s.pcr.clk.tb || s.now.toNat % 9 ≠ 0 || (s.ms.scrubAt.get die) == some s.now then s
    else
      let pos := s.ms.scrubPos.get die
      let s := s.modMs (fun m => { m with scrubAt := m.scrubAt.set die (some s.now) })
      scrubNext die (match found with
        | .clean => s
        | .single => scrubSingle die pos s
        | .double => scrubDouble die pos s))

/-! ## Stores (R386, R387, R396 to R398) -/

/-- READ_SCRUB: every 24 h of TB time it begins, and runs for a time the spec bounds by 30 min (R387). -/
def execReadScrub (s : State) : Host.Outcome State Fault Refusal :=
  .next (
    if s.pcr.clk.tb ∧ s.everyTicks 8640000000000 then
      let (w, s) := s.takeFree
      s.modMs (fun m => { m with readScrub := some (s.now + 1 + w % 180000000000) })
    else s)

/-- STORE_TIMEOUT: an error of a store access (R386). A store not yet asked, before TB runs, is found silent at START. -/
def execStoreTimeout (store : Side) (event : StoreEvent) (addr : Nat) (s : State) : Host.Outcome State Fault Refusal :=
  .next (
    match event with
    | .corrected =>
      if s.pcr.clk.tb then
        let s := s.modMs (fun m => { m with storeCorr := satInc m.storeCorr })
        recordFault { block := .ms, cause := 4, cls := .corrected, scope := 7, item := store.num, addr := addr,
                      init := 0x30 + store.num, acc := 0xA } s
      else s
    | .noAnswer =>
      let s := s.modStore store (fun x => { x with readable := false })
      if s.pcr.clk.tb then storeFail store addr s else s
    | .readBack | .uncorrectable => if s.pcr.clk.tb then storeFail store addr s else s)

/-- STORE_RESYNC_START (R397): a failed store answers again, and the copy from the survivor begins. -/
def execStoreResyncStart (store : Side) (s : State) : Host.Outcome State Fault Refusal :=
  .next (
    if s.pcr.clk.tb ∧ (s.store store).st = .failed ∧ (s.store store.other).st = .sound ∧ (s.store store.other).readable ∧
       s.pcr.strOk.get store then
      s.modStore store (fun x => { x with st := .resync, readable := true })
    else s)

/-- Store `i` after the copy of every area from the survivor, each word written once, its journal records sealed with its own
number (R326, R384, R389, R397). -/
def copyStore (i : Side) (y : Store) (x : Store) : Store :=
  let x := { x with
    st := .quiet, slot := y.slot, active1 := y.active1, journal := y.journal.map (fun r => if r.sound i.other then r.seal i else { r with rcrc := r.crc i ^^^ 1 }), jwritten := y.jwritten, log := y.log,
    history := y.history, cal := y.cal, ident := y.ident, user := y.user,
    wear := wearInc 0x380 (wearInc 0x180 x.wear) }
  wearRange 0x4A0000 0x80000 (wearRange 0x480000 0x11000 (wearRange 0 0x80000 x))

/-- RESYNC_COMPLETE (R397): the copy is complete and the quiet period of STORE_FAIL starts. -/
def execResyncComplete (store : Side) (s : State) : Host.Outcome State Fault Refusal :=
  .next (
    if (s.store store).st = .resync then
      let y := s.store store.other
      let s := s.modStore store (copyStore store y)
      let s := logEvent 8 Block.ms.id 1 store.num (causeAbsent .ms 3 store.num s)
      storeBack store s
    else s)

/-! ## The event log (R390 to R392) -/

/-- Entries the log ring holds. -/
def logSize : Nat := 65536

/-- An entry put into the log ring of a store; a pass of the area is counted where it begins anew (R389). -/
def logPut (e : LogEntry) (x : Store) : Store :=
  let x := if e.eseq.toNat % logSize = 0 then { x with wear := wearInc 0x180 x.wear } else x
  { x with log := (if x.log.length < logSize then x.log else x.log.drop 1) ++ [e] }

/-- LOG_ENTRY_WRITE: the oldest buffered entry is written; then entries dropped meanwhile are reported. -/
def execLogEntryWrite (s : State) : Host.Outcome State Fault Refusal :=
  .next (
    if !s.pcr.clk.tb then s
    else
      match s.ms.logBuf with
      | [] => s
      | e :: rest =>
        let s := modStores (fun _ => logPut { e with eseq := s.ms.logHead }) s
        let s := s.modMs (fun m => { m with logBuf := rest, logHead := m.logHead + 1 })
        if s.ms.logLost = 0 then s
        else logEvent 0xB Block.ms.id 0 s.ms.logLost (s.modMs (fun m => { m with logLost := 0 })))

/-! ## Hourly steps (R389, R392) -/

/-- WEAR_CHECKPOINT. -/
def execWearCheckpoint (s : State) : Host.Outcome State Fault Refusal :=
  .next (if s.pcr.clk.tb ∧ s.everyTicks 360000000000 then checkpointWear s else s)

/-- The corrected faults a block has counted since the last summary. -/
def State.corrDelta (s : State) (b : Block) : Word := (s.frOf b).cntCorr - s.ms.corrAt[b.idx]

/-- CORRECTED_SUMMARY: an entry for every block with a non-zero delta, in ascending block ID. -/
def execCorrectedSummary (s : State) : Host.Outcome State Fault Refusal :=
  .next (
    if !(s.pcr.clk.tb && s.everyTicks 360000000000) then s
    else
      let deltas := Block.all.map (fun b => (b, s.corrDelta b))
      let s := s.modMs (fun m => { m with corrAt := s.fr.map (fun r => r.cntCorr) })
      deltas.foldl (fun s e => if e.2 = 0 then s else logEvent 0xA e.1.id 0 e.2.toNat s) s)

end Sys2Proof.Machine
end

