-- ==== Sys2Proof/Machine/Cruise.lean ====
section
/-!
DEFINITION. Sys2Proof/Machine/Cruise.lean: the cruise engine (R429 to R437) and the slices of a FULL_TEST (R438).
-/
namespace Sys2Proof.Machine

/-! ## The list of a round (R431, R432) -/

/-! ## The slice signature (R433) -/

/-- Steps of a slice of a class: five for THR and PSL, seven for ORB; the others are not counted by the spec. -/
def classSteps (c : Nat) : Nat :=
  match c with
  | 0 | 2 => 5
  | 3 => 7
  | _ => Config.stepCount c

/-- The signature of a slice of `n` steps that ran to its end. -/
def sliceSig (c n : Nat) : Word :=
  crc32c ((List.range n).flatMap (fun j => leBytes 2 (j + 1) ++ Config.stepCode c (j + 1)) ++ leBytes 4 (0xC0DE0000 + n))

/-- The signature and the token of a slice are as the checker expects. -/
def sigOk (c : Nat) (r : SliceResult) : Bool := r.steps == classSteps c && r.sig == sliceSig c (classSteps c)

/-! ## Verdicts (R431, R380, R457) -/

/-- A count lies within 2% or 2 counts of the expected one, whichever is larger. -/
def countOk (n e : Nat) : Bool := decide (n ≤ e + max 2 (e / 50)) && decide (e ≤ n + max 2 (e / 50))

/-- The clocks of CLK slice k that fail: the ADC quarters for k 6, else 0. -/
def clkFails (k : Nat) (counts : List Nat) : List Nat :=
  if k = 6 then (List.range 4).filter (fun q => !countOk (counts.getD q 0) 160)
  else
    let e := match k with | 0 => 400 | 1 | 2 => 1000 | 3 => 500 | 4 | 5 => 200 | _ => counts.getD 1 0
    if countOk (counts.getD 0 0) e then [] else [0]

/-- The nine bytes of a known-answer test behind its prefix (R367, R378). -/
def katBytes : List Byte := [1, 2, 3, 4, 5, 6, 7, 8] ++ [0x31, 0x32, 0x33, 0x34, 0x35, 0x36, 0x37, 0x38, 0x39]

/-- The check of a channel in one mode over the bytes of a known-answer test. -/
def katValue (mode : Bool) : Word := cvRes mode (katBytes.foldl (cvStep mode) (cvInit mode))

/-- Check values a test of channel k gives: CVS00 to CVS09 in their one mode, CVW0 to CVW3 in both (R378). -/
def katExpect (k : Nat) : List Word := if k < 10 then [katValue false] else [katValue false, katValue true]

/-- Readings 1 to n are all as expected. -/
def allRead (n readings : Nat) : Bool := readings % 2 ^ n == 2 ^ n - 1

/-- First byte address at which 16 words of the two stores from `a` differ, within a table slot. -/
def slotDiff (a : Nat) (s : State) : Option Nat :=
  let slot := fun (i : Side) => (if a / 0x40000 = 0 then (s.store i).slot.a else (s.store i).slot.b).bytes
  let x := mslice 0 (slot .a) (a % 0x40000) 128
  let y := mslice 0 (slot .b) (a % 0x40000) 128
  ((x.zip y).findIdx? (fun e => e.1 != e.2)).map (fun k => a + k)

/-- Address a STORE slice finds different, while both stores serve: 16 words from `a` of a slot or of the identity area. -/
def storeDiff (k : Nat) (r : SliceResult) (s : State) : Option Nat :=
  if !s.bothStores then none
  else
    let known := if k < 4096 then slotDiff (128 * k) s else none
    if known.isSome then known else if r.readings % 2 = 0 then some r.addr else none

/-- The slice has failed a verdict: its class bit is set (R431). -/
def sliceFails (c k : Nat) (r : SliceResult) (s : State) : Bool :=
  match c with
  | 0 | 2 => !allRead 5 r.readings
  | 1 => !allRead 1 r.readings
  | 3 => !allRead 7 r.readings
  | 4 => !(clkFails k r.counts).isEmpty
  | 5 => r.values != katExpect k
  | 6 => !(allRead 1 r.readings && r.shadowOk)
  | _ => r.uncorr.isSome || (storeDiff k r s).isSome

/-! ## What a verdict brings -/

/-- A cause of ST (R457). -/
def stFault (cause : Nat) (cls : FaultClass) (scope item addr acc : Nat) (q : Option (Fin 4)) (s : State) : State :=
  recordFault { block := .st, cause := cause, cls := cls, scope := scope, item := item, addr := addr, init := 8, acc := acc,
                quarter := q } s

/-- CLK_CHECK of slice k: failing clocks recorded, passing ones absent. -/
def judgeClk (k : Nat) (counts : List Nat) (s : State) : State :=
  let bad := clkFails k counts
  let hp := fun (p : Side) (s : State) =>
    if bad.isEmpty then causeAbsentIn .st 5 9 p.num s
    else portReset p ((stFault 5 .contained 9 p.num k 0xD none s).modHport p (fun h => { h with inReset := true, link := .down }))
  match k with
  | 0 | 7 => if bad.isEmpty then s else stFault 5 .fatal 0 0 k 0xD none s
  | 1 => hp .a s
  | 2 => hp .b s
  | 3 =>
    if bad.isEmpty then (fins 4).foldl (fun s n => causeAbsentIn .st 5 8 n.val s) s
    else (fins 4).foldl (fun s n =>
      if (s.partner n).type = 0 then s else plOff n (stFault 5 .contained 8 n.val k 0xD none s)) s
  | 4 | 5 => if bad.isEmpty then causeAbsentIn .st 5 0xA (k - 4) s else stFault 5 .contained 0xA (k - 4) k 0xD none s
  | _ =>
    (fins 4).foldl (fun s q =>
      if bad.contains q.val then stFault 5 .contained 1 q.val (k + 256 * q.val) 0xD (some q) s
      else causeAbsentIn .st 5 1 q.val s) s

/-- The known-answer test of channel k ends (R378, R380, R381). -/
def judgeKat (k : Nat) (ok : Bool) (s : State) : State :=
  let set : {w : Nat} → Nat → BitVec w → BitVec w := fun n v =>
    if ok then v ||| BitVec.ofNat _ (2 ^ n) else v &&& ~~~BitVec.ofNat _ (2 ^ n)
  let s := s.modCv (fun c => { c with
    katS := if k < 10 then set k c.katS else c.katS, katW := if k < 10 then c.katW else set (k - 10) c.katW,
    katCnt := if ok then satInc c.katCnt else c.katCnt })
  if k < 2 then
    if ok then causeAbsent .cv 2 k s
    else recordFault { block := .cv, cause := 2, cls := .contained, scope := 9, item := k, addr := k, init := 8, acc := 0xC } s
  else if k < 10 then
    let n : Fin 4 := ⟨(k - 2) / 2 % 4, Nat.mod_lt _ (by decide)⟩
    if ok then
      (if s.cv.katS.getLsbD (2 + 2 * n.val) && s.cv.katS.getLsbD (3 + 2 * n.val) then causeAbsent .cv 1 n.val s else s)
    else
      plOff n (recordFault { block := .cv, cause := 1, cls := .contained, scope := 8, item := n.val,
                             addr := n.val + 16 * (k % 2), init := 8, acc := 0xB } s)
  else
    let n : Fin 4 := ⟨(k - 10) % 4, Nat.mod_lt _ (by decide)⟩
    let s := s.modChan n (fun x => { x with katBad := !ok })
    if ok then s
    else recordFault { block := .cv, cause := 3, cls := .corrected, scope := 7, item := n.val, addr := n.val, init := 8, acc := 7 } s

/-- A MARCH slice ends (R435, R457): a failing march leaves the block restored, a failing read-back one of its words. -/
def judgeMarch (m : Nat) (r : SliceResult) (s : State) : State :=
  let (landing, die, first) := s.marchBlock m
  let word := first + r.addr % 32
  let addr := word + 2 ^ 30 * bit landing + 2 ^ 31 * die.num
  let one := fun (cause : Nat) (ok : Bool) (s : State) =>
    if !ok then
      if landing then stFault cause .contained 9 die.num addr 2 none s else stFault cause .fatal 0 0 addr 2 none s
    else if landing && (s.frOf .st).insts.any (fun i => i.cause == cause && i.scope == 9 && i.item == die.num &&
        i.addr.toNat % 2 ^ 30 / 32 == first / 32) then causeAbsentIn .st cause 9 die.num s
    else s
  let s := one 4 (allRead 1 r.readings) s
  let s := if landing && !r.shadowOk then
      (let (w, s) := s.takeFree
       s.modWport die (fun x => { x with landing := msetList 0 x.landing (4 * word) (leBytes 4 (w.toNat % 2 ^ 32)) }))
    else s
  one 3 r.shadowOk s

/-- The verdicts of a slice of class c, index k (R431). -/
def judgeSlice (c k : Nat) (r : SliceResult) (s : State) : State :=
  match c with
  | 0 => thrTest ⟨k % 128, Nat.mod_lt _ (by decide)⟩ (BitVec.ofNat 5 r.readings) s
  | 1 => refCheck ⟨k % 4, Nat.mod_lt _ (by decide)⟩ (allRead 1 r.readings) s
  | 2 =>
    if allRead 5 r.readings then causeAbsent .st 7 k s
    else stFault 7 .contained 3 k k 6 (some (quarterOfSource k)) s
  | 3 =>
    if allRead 7 r.readings then causeAbsent .st 6 k s
    else stFault 6 .contained 5 k k 6 (some (quarterOfOutput k)) s
  | 4 => judgeClk k r.counts s
  | 5 => judgeKat k (r.values == katExpect k) s
  | 6 => judgeMarch k r s
  | _ =>
    let s := match storeDiff k r s with
      | some a => stFault 9 .corrected 7 0 a 0xA none s
      | none => s
    match r.uncorr with | some i => storeFail i r.addr s | none => s

/-! ## Slices (R430, R433, R434, R436) -/

/-- The preconditions of R436. -/
def State.cruiseMay (s : State) : Bool := s.pcr.tbfOk && inRange 4850 5250 s.pcr.vlMv.a && inRange 4850 5250 s.pcr.vlMv.b

/-- Position of the next slice: of the FULL_TEST while one runs, else of the round. -/
def State.slicePos (s : State) : Nat := if s.st.full.isSome then s.st.fullPos else s.st.pos

/-- A slice is due: in a FULL_TEST 1,000 ticks after the one before it, else the batch has slices left and 5,000 ticks have
passed (R430, R438). -/
def State.sliceDue (s : State) : Bool :=
  s.st.cruise && s.st.slice.isNone &&
  (if s.st.full.isSome then decide (1000 ≤ elapsed s.now s.st.fullFrom)
   else match s.st.batch with
     | some (n, t) => decide (0 < n) && decide (5000 ≤ elapsed s.now t)
     | none => false)

/-- The channel of a KAT slice is held (R377), or feeds wait in its queue (R375). -/
def State.katHeld (s : State) (c k : Nat) : Bool :=
  c == 5 && decide (10 ≤ k) &&
  (let n : Fin 4 := ⟨(k - 10) % 4, Nat.mod_lt _ (by decide)⟩
   s.chanHeld n || !(s.chan n).queue.isEmpty)

/-- A slice of a source's read-back comparator waits until the source's dip window is over (R431). -/
def State.pslWaits (s : State) (c k : Nat) : Bool :=
  c == 2 && (let x : Source := s.ps.src[k % 32]'(Nat.mod_lt _ (by decide)); x.win.isSome)

/-- The known-answer test of a write-fed channel holds it while its slice runs (R375, R378). -/
def katHold (c k : Nat) (s : State) : State :=
  if c = 5 ∧ 10 ≤ k then s.modChan ⟨(k - 10) % 4, Nat.mod_lt _ (by decide)⟩ (fun x => { x with kat := true }) else s

/-- The slice's place in its batch or FULL_TEST is taken on the present tick. -/
def takePlace (s : State) : State :=
  s.modSt (fun c => if c.full.isSome then { c with fullFrom := s.now }
    else { c with batch := match c.batch with | some (n, _) => if n ≤ 1 then none else some (n - 1, s.now) | none => none })

/-- The time R436 has held the round back ends or goes on. -/
def heldEnd (s : State) : State :=
  s.modSt (fun c => match c.heldSince with
    | some t => { c with heldFor := c.heldFor + elapsed s.now t, heldSince := none }
    | none => c)

/-- R436 holds the round back from the present tick. -/
def heldBegin (s : State) : State :=
  s.modSt (fun c => { c with heldSince := match c.heldSince with | some t => some t | none => some s.now })

/-- The FULL_TEST ends: RESULT holds the failed classes, and bit 31 if the round is not complete (R438). -/
def fullEnd (complete : Bool) (s : State) : State :=
  match s.st.full with
  | some (p, n, _) =>
    let res : Word := BitVec.ofNat 32 (s.st.fullFail.toNat + 2 ^ 31 * bit (!complete))
    let s := endItem p (if h : n < 8 then ⟨n, h⟩ else 0) 0 res s
    s.modSt (fun c => { c with full := none, slice := none, fullOk := c.fullOk || res == 0 })
  | none => s

/-- The FULL_TEST has not completed within t_full, 10 s. -/
def State.fullOverdue (s : State) : Bool :=
  match s.st.full with | some (_, _, t) => decide (1000000000 < elapsed s.now t) | none => false

/-- CRUISE_SLICE_START (R430, R436, R377). -/
def execCruiseSliceStart (s : State) : Host.Outcome State Fault Refusal :=
  .next (
    if !s.sliceDue then s
    else if s.fullOverdue then fullEnd false s
    else if !s.cruiseMay then
      let s := takePlace s
      let s := if s.st.full.isSome then s else heldBegin s
      s.modSt (fun c => { c with deferCnt := satInc c.deferCnt, batch := none })
    else
      let pos := s.slicePos
      let (c, k) := sliceAt s.marchSlices pos
      if s.pslWaits c k then s
      else
        let s := takePlace s
        if s.katHeld c k then s
        else katHold c k ((heldEnd s).modSt (fun x => { x with slice := some (pos, s.now, x.full.isSome) })))

/-- The round has run its last slice (R437, R458). -/
def roundEnd (s : State) : State :=
  s.modSt (fun c => { c with
    rounds := satInc c.rounds, rtime := BitVec.ofNat 16 (min 65535 (elapsed s.now c.roundAt / 100000000)), failLast := c.failCur,
    failCur := 0, pos := 0, roundAt := s.now, heldFor := 0, heldSince := none, late := false, lateRec := false,
    stallRec := false })

/-- The next position of the round, or of the FULL_TEST. -/
def sliceDone (full fails : Bool) (c : Nat) (s : State) : State :=
  let total := s.sliceCounts.sum
  let mark : BitVec 8 := if fails then BitVec.ofNat 8 (2 ^ c) else 0
  if full then
    let s := s.modSt (fun x => { x with slice := none, fullPos := x.fullPos + 1, fullFail := x.fullFail ||| mark })
    if total ≤ s.st.fullPos then fullEnd (!s.fullOverdue) s else s
  else
    let s := s.modSt (fun x => { x with slice := none, pos := x.pos + 1, failCur := x.failCur ||| mark })
    if total ≤ s.st.pos then roundEnd s else s

/-- CRUISE_SLICE_END (R433, R434, R436): interrupted when the supplies have left their range, else judged. -/
def execCruiseSliceEnd (r : SliceResult) (s : State) : Host.Outcome State Fault Refusal :=
  .next (
    match s.st.slice with
    | none => s
    | some (pos, from_, full) =>
      if !(decide (50 ≤ elapsed s.now from_) && decide (elapsed s.now from_ ≤ 500)) then s else
      let s := s.modPcr (fun p => { p with
        vlMv := ⟨r.vl.1, r.vl.2⟩, vlOk := ⟨inRange 4750 5250 r.vl.1, inRange 4750 5250 r.vl.2⟩ })
      if !s.cruiseMay then (let t := cruiseInterrupt s; if full then t else heldBegin t)
      else
        let s := katRelease s
        let (c, k) := sliceAt s.marchSlices pos
        let fails := sliceFails c k r s
        let s := judgeSlice c k r (sliceDone full fails c s)
        if sigOk c r then s else stFault 1 .fatal 0 0 pos 6 none s)

/-- CRUISE_LATE (R437): 600 s after the round began. -/
def execCruiseLate (s : State) : Host.Outcome State Fault Refusal :=
  .next (
    if s.st.cruise ∧ !s.st.lateRec ∧ 60000000000 ≤ elapsed s.now s.st.roundAt then
      stFault 8 .corrected 7 0 s.st.pos 6 none (s.modSt (fun c => { c with late := true, lateRec := true }))
    else s)

/-- Ticks of the round during which R436 has held it back, the present hold included. -/
def State.heldTime (s : State) : Nat :=
  s.st.heldFor + (match s.st.heldSince with | some t => elapsed s.now t | none => 0)

/-- CRUISE_STALL (R437): 4,200 s since the round began, less the time held back. -/
def execCruiseStall (s : State) : Host.Outcome State Fault Refusal :=
  .next (
    if s.st.cruise ∧ !s.st.stallRec ∧ 420000000000 + s.heldTime ≤ elapsed s.now s.st.roundAt then
      stFault 2 .fatal 0 0 s.st.pos 6 none (s.modSt (fun c => { c with stallRec := true }))
    else s)

end Sys2Proof.Machine
end

