-- ==== Sys2Proof/Machine/Fabric.lean ====
section
/-!
DEFINITION. Sys2Proof/Machine/Fabric.lean: the Abaelm fabric (chapter 2): snapshots, launches, ranks, tokens and closes, with
the debugger's halts at rank boundaries (R447, R448) and the timer cells the closes command (R271, R272).
-/
namespace Sys2Proof.Machine

/-- A fatal fault of EV (R61, R62). -/
def evFatal (cause init addr acc : Nat) (s : State) : State :=
  recordFault { block := .ev, cause := cause, cls := .fatal, scope := 0, item := 0, addr := addr, init := init, acc := acc } s

/-- The ranks of the table a core runs. -/
def CoreSt.ranks (x : CoreSt) : Nat := match x.table with | some t => t.ranks | none => 0

/-! ## The seal of a snapshot (R38) -/

/-- The 3,072 snapshot words of a bank of core `c`, un-complemented, in ascending address order. -/
def snapWords (c : Side) (m : Mem 32) : List Word :=
  (mslice (maskOf c) m 0 0x400 ++ mslice (maskOf c) m 0x800 0x800).map (fun w => w ^^^ maskOf c)

/-- The check value of a snapshot, the scan number folded in as its prefix. -/
def snapCheck (n : Nat) (ws : List Word) : Word := crcWithPrefix (leBytes 8 n) (ws.flatMap (fun w => leBytes 4 w.toNat))

/-! ## Ranks, gates and halts (R33, R46, R47, R447, R448) -/

/-- A breakpoint that stands before rank `k` of the scan, unless the cores have just left it. -/
def State.breakAt (s : State) (scan k : Nat) : Option (Fin 4) :=
  if s.st.dbg.skip = some (scan, k) then none
  else (fins 4).find? (fun n => let b : Brk := s.st.dbg.brks[n]; b.en && b.rank.toNat == k)

/-- An operand word of a core written by the debugger, in any region (R448). -/
def CoreSt.debugPoke (c : Side) (a : Nat) (v : Word) (x : CoreSt) : CoreSt :=
  if snapAddr a then { x with live := mset (maskOf c) x.live a (v ^^^ maskOf c) } else x.poke c a v

/-- EB's queued debugger writes for its present position are applied (R448). -/
def applyDebugWrites (s : State) : State :=
  let b := s.core .b
  let here := fun (e : Nat × Nat × BitVec 13 × Word) => e.1 == b.scan && e.2.1 == b.rank
  let s := (s.st.dbg.queue.filter here).foldl (fun s e => s.modCore .b (CoreSt.debugPoke .b e.2.2.1.toNat e.2.2.2)) s
  s.modDbg (fun d => { d with queue := d.queue.filter (fun e => !here e) })

/-- EA is held at its rank boundary (R447), and the drivers of LA are inhibited (R206). -/
def haltA (s : State) : State :=
  let s := marchYield s
  let a := s.core .a
  let s := s.modCore .a (fun x => { x with seq := .halted, issued := false, timed := none, first := true })
  let s := inhibitSide .a (s.modEv (fun e => { e with waitSince := none }))
  s.modDbg (fun d => { d with haltA := true, pendHalt := false, step := false, rank := BitVec.ofNat 9 a.rank })

/-- EB is held at EA's position; both halted is the device state HALT. -/
def haltB (s : State) : State :=
  let s := applyDebugWrites s
  let s := s.modCore .b (fun x => { x with seq := .halted, issued := false, timed := none, first := true })
  let s := inhibitSide .b (s.modDbg (fun d => { d with haltB := true }))
  if s.dev = .idle ∨ s.dev = .run then setDev .halt s else s

/-- A breakpoint or watchpoint halts EA: only in IDLE and RUN, and only where the debugger may halt (R27, R446, R447). -/
def State.mayHalt (s : State) : Bool := s.dbgAvail && (s.dev == .idle || s.dev == .run)

/-- EA issues its next rank if nothing halts it and the lead of R47 allows it; otherwise it halts, or waits. -/
def tryA (s : State) : State :=
  let a := s.core .a
  let d := s.st.dbg
  if a.seq ≠ .scan ∨ a.issued ∨ a.ranks ≤ a.rank then s
  else if d.pendHalt && s.mayHalt then haltA s
  else match (if s.mayHalt then s.breakAt a.scan a.rank else none) with
    | some n => haltA (s.modDbg (fun d => { d with brk := true, brkN := BitVec.ofNat 2 n.val }))
    | none =>
      if s.split ∨ s.ev.issuedA < s.ev.completedB + 24 then
        let s := s.modCore .a (fun x => { x with issued := true })
        let s := s.modDbg (fun d => { d with skip := none })
        s.modEv (fun e => { e with issuedA := e.issuedA + 1, waitSince := none })
      else s.modEv (fun e => { e with waitSince := match e.waitSince with | some t => some t | none => some s.now })

/-- A core launches the scan sealed in its fill bank (R36, R38, R40), or records SNAP_CHECK; ST then judges a wait. -/
def launch (c : Side) (s : State) : State :=
  let x := s.core c
  match x.sealed with
  | none => s
  | some n =>
    if snapCheck n (snapWords c x.fill) ≠ x.fillCv ∨ n ≠ x.expect then evFatal 3 (coreInit c) 0 4 s
    else
      let s := s.modCore c (fun x => { x with
        live := x.fill, fill := x.live, liveIdx := !x.liveIdx, liveCv := x.fillCv, sealed := none, scan := n, expect := n + 1,
        seq := .scan, rank := 0, issued := false, defer := [] })
      ackJudge c s

/-- EB's gate for rank `k`: 16 tokens more, the close token, or a halted EA (R46, R447); none in split mode (R454). -/
def State.gateB (s : State) (k : Nat) : Bool := s.split || decide (k + 16 ≤ s.ev.tokens) || decide (0 < s.ev.closeTokens) || s.st.dbg.haltA

/-- EB launches, issues its next rank, or halts at EA's position. -/
def tryB (s : State) : State :=
  let s := if (s.core .b).seq = .wait ∧ (s.core .b).sealed.isSome ∧ s.gateB 0 ∧ !s.split then launch .b s else s
  let b := s.core .b
  if b.seq ≠ .scan ∨ b.issued then s
  else if s.st.dbg.haltA && b.scan == (s.core .a).scan && b.rank == (s.core .a).rank then haltB s
  else if b.rank < b.ranks ∧ s.gateB b.rank then
    (applyDebugWrites s).modCore .b (fun x => { x with issued := true })
  else s

/-- Either core tries to go on. -/
def tryCore (c : Side) (s : State) : State := match c with | .a => tryB (tryA s) | .b => tryB s

/-- SCAN_LAUNCH: the launch edge, 8 ticks after the sample edge (R42). EA is held back until EB has closed the scan before
(R47); EB launches by its tokens, and on the edge itself in split mode. -/
def execScanLaunch (core : Side) (s : State) : Host.Outcome State Fault Refusal :=
  let x := s.core core
  let due := match s.ev.sampleAt with | some t => decide (8 ≤ elapsed s.now t) | none => false
  .next (
    if x.seq ≠ .wait ∨ x.sealed = none ∨ !due then s
    else match core with
      | .a =>
        if !s.split && decide ((s.core .b).closed < x.closed) then
          s.modEv (fun e => { e with launchHeld := true, waitSince := match e.waitSince with | some t => some t | none => some s.now })
        else tryCore .a (launch .a s)
      | .b => if s.split then tryB (launch .b s) else tryB s)

/-! ## A rank completes (R31, R33, R34, R50, R61, R242) -/

/-- What one rank does to a core, and the faults its rows raise: (cause, row index, access). -/
structure RankRun where
  core : CoreSt
  faults : List (Nat × Nat × Nat)

/-- Row `i` of a rank, its operands read from the state `old` before the rank (R31). -/
def runRow (c : Side) (t : Table) (old : CoreSt) (r : RankRun) (ir : Nat × Word64) : RankRun :=
  match rowEval (old.peek c) t ir.2 with
  | none => { r with faults := r.faults ++ [(8, ir.1, 3)] }
  | some o =>
    let bad := o.writes.any (fun w => snapAddr w.1)
    let x := r.core
    let x := (o.writes.filter (fun w => !snapAddr w.1)).foldl (fun x w => x.poke c w.1 w.2) x
    let x := { x with sig := sigFold x.sig (BitVec.ofNat 64 (ir.1 * 2 ^ 32 + o.word.toNat)), malf := satAdd x.malf o.malf,
                      defer := if o.defers then x.defer ++ [rowDst ir.2 - 0x400] else x.defer }
    { core := x, faults := r.faults ++ (if bad then [(7, ir.1, 2)] else []) ++ (if o.trap then [(9, ir.1, 3)] else []) }

/-- The 16 rows of rank `k` with their indices. -/
def Table.rank (t : Table) (k : Nat) : List (Nat × Word64) :=
  (List.range 16).zipWith (fun i r => (16 * k + i, r)) ((t.rows.drop (16 * k)).take 16)

/-- A whole rank. -/
def runRank (c : Side) (t : Table) (x : CoreSt) : RankRun :=
  (t.rank x.rank).foldl (runRow c t x) { core := { x with rank := x.rank + 1, issued := false }, faults := [] }

/-- A row of the rank writes `addr`, or also reads it. -/
def rankTouches (t : Table) (k addr : Nat) (onRead : Bool) : Bool :=
  (t.rank k).any (fun ir => (rowWrites ir.2).contains addr || (onRead && (rowReads t.modes ir.2).contains addr))

/-- A watchpoint hit by the rank just completed (R447). -/
def State.watchHit (s : State) (t : Table) (k : Nat) : Option (Fin 2) :=
  (fins 2).find? (fun n => let w : Wp := s.st.dbg.wps[n]; w.en && rankTouches t k w.addr.toNat w.onRead)

/-- EA after a rank: it halts for a step or a watchpoint, closes after the last rank, or issues the next. -/
def afterRankA (t : Table) (k : Nat) (s : State) : State :=
  let hit := if s.mayHalt then s.watchHit t k else none
  match hit with
  | some n => tryB (haltA (s.modDbg (fun d => { d with wp := true, wpN := decide (n.val = 1) })))
  | none =>
    if s.st.dbg.step then tryB (haltA s)
    else if t.ranks ≤ k + 1 then s.modCore .a (fun x => { x with seq := .close })
    else tryCore .a s

/-- EB after a rank: it halts at EA's position, closes after the last rank, or issues the next. -/
def afterRankB (t : Table) (k : Nat) (s : State) : State :=
  let s := tryB s
  let b := s.core .b
  if b.seq = .scan ∧ t.ranks ≤ k + 1 then s.modCore .b (fun x => { x with seq := .close }) else s

/-- RANK_COMPLETE: all lanes have written. A double error leaves the rank incomplete. -/
def execRankComplete (core : Side) (errs : List MemErr) (s : State) : Host.Outcome State Fault Refusal :=
  let x := s.core core
  .next (
    match x.table with
    | none => s
    | some t =>
      if x.seq ≠ .scan ∨ !x.issued then s
      else
        let s := (errs.filter (fun e => !e.double)).foldl (fun s e =>
          recordCorrected { block := .ev, cause := 0x0B, cls := .corrected, scope := 7, item := 0, addr := e.addr,
                            init := coreInit core, acc := e.acc } s) s
        match errs.find? (fun e => e.double) with
        | some e => evFatal 1 (coreInit core) e.addr e.acc s
        | none =>
          let k := x.rank
          let r := runRank core t x
          let s := s.modCore core (fun _ => r.core)
          if r.faults.isEmpty then (match core with | .a => afterRankA t k s | .b => afterRankB t k s)
          else r.faults.foldl (fun s f => evFatal f.1 (coreInit core) f.2.1 f.2.2 s) s)

/-! ## Tokens (R46, R47) -/

/-- RANK_TOKEN: a rank or close token reaches EB. -/
def execRankToken (close ok : Bool) (s : State) : Host.Outcome State Fault Refusal :=
  .next (
    if (s.core .b).seq = .stopped ∨ s.split then s
    else if !ok then evFatal 2 (coreInit .b) 0 5 s
    else if close then tryB (s.modEv (fun e => { e with closeTokens := e.closeTokens + 1 }))
    else
      let s := s.modEv (fun e => { e with tokens := e.tokens + 1, tokensIn := e.tokensIn + 1 })
      if s.ev.issuedA < s.ev.tokensIn then evFatal 2 (coreInit .b) 0 5 s else tryB s)

/-- COMPLETION_TOKEN: EB has completed one rank more. -/
def execCompletionToken (ok : Bool) (s : State) : Host.Outcome State Fault Refusal :=
  .next (
    if (s.core .a).seq = .stopped ∨ s.split then s
    else if !ok then evFatal 2 (coreInit .a) 0 5 s
    else
      let s := s.modEv (fun e => { e with completedB := e.completedB + 1 })
      if s.ev.issuedA < s.ev.completedB then evFatal 2 (coreInit .a) 0 5 s else tryCore .a s)

/-- LAG_OVERRUN: EA has waited for EB for more than 16 ticks. -/
def execLagOverrun (s : State) : Host.Outcome State Fault Refusal :=
  .next (
    match s.ev.waitSince with
    | some t => if 16 < elapsed s.now t then evFatal 6 (coreInit .b) s.ev.lag.toNat 6 s else s
    | none => s)

/-- SCAN_OVER (R52): the count since the last close reaches SCAN_MAX + 1. -/
def execScanOver (core : Side) (s : State) : Host.Outcome State Fault Refusal :=
  let x := s.core core
  .next (
    match x.timed, x.table with
    | some t, some tab =>
      if x.seq ≠ .stopped ∧ !x.overRec ∧ tab.scanMax + 1 ≤ elapsed s.now t then
        evFatal 4 (coreInit core) x.per.toNat 6 (s.modCore core (fun x => { x with overRec := true }))
      else s
    | _, _ => s)

/-! ## Timer cells (R271 to R273) -/

/-- A posted command at a cell, taking effect on tick `at_`. -/
def Cell.post (at_ : Tick) (v : Nat) (c : Cell) : Cell :=
  if v = 0 ∨ 100000000 < v then .idle
  else match c with
    | .idle => .running (at_ + BitVec.ofNat 64 (100 * v)) v
    | .running d _ => if d.toNat ≤ at_.toNat then .expired else .running d v
    | .expired => .expired

/-- The commands that are not idle in the command image of a core, by cell. -/
def cellCommands (c : Side) (x : CoreSt) : List (Nat × Nat) :=
  ((List.range 256).map (fun k => (k, (x.peek c (0x500 + k)).toNat))).filter (fun e => e.2 != 0)

/-- The value posted to a cell. -/
def postedTo (l : List (Nat × Nat)) (k : Nat) : Nat := match l.find? (fun e => e.1 == k) with | some e => e.2 | none => 0

/-- CELL_CMD (R287). -/
def cellCmdFault (init cell : Nat) (s : State) : State :=
  recordFault { block := .tb, cause := 2, cls := .fatal, scope := 0, item := cell, addr := cell, init := init, acc := 2 } s

/-- A core's close posts its commands at its die's cells, which take them on the next TB edge (R271). -/
def postCells (c : Side) (s : State) : State :=
  let x := s.core c
  s.modTb (fun t => { t with posts := t.posts.set c (some (x.scan, cellCommands c x)) })

/-- Cells whose commands of EA and EB for scan `n` differ, `cb` being EB's; EA's are then no longer kept (R272). -/
def comparePosts (n : Nat) (cb : List (Nat × Nat)) (s : State) : State × List Nat :=
  match s.tb.postedA.find? (fun e => e.1 == n) with
  | none => (s, [])
  | some (_, ca) =>
    (s.modTb (fun t => { t with postedA := t.postedA.filter (fun e => decide (n < e.1)) }),
     (List.range 256).filter (fun k => postedTo ca k != postedTo cb k))

/-- The present tick is the TB edge after a core's close: its cells take the posted commands, an undefined one is CELL_CMD,
and EB's are compared with EA's for the scan (R271, R272). -/
def takePosts (c : Side) (s : State) : State :=
  match s.tb.posts.get c with
  | none => s
  | some (n, cmds) =>
    let s := s.modTb (fun t =>
      let t := { t with posts := t.posts.set c none }
      match c with
      | .a => { t with master := vmapIdx t.master (fun k y => y.post s.now (postedTo cmds k.val)),
                       postedA := if s.split then t.postedA else t.postedA ++ [(n, cmds)] }
      | .b => { t with shadow := vmapIdx t.shadow (fun k y => y.post s.now (postedTo cmds k.val)) })
    let s := (cmds.filter (fun e => decide (100000000 < e.2))).foldl (fun s e => cellCmdFault (coreInit c) e.1 s) s
    if c = .a ∨ s.split then s
    else
      let (s, differ) := comparePosts n cmds s
      differ.foldl (fun s k => cellCmdFault 1 k s) s

/-- CELL_EXPIRY: a running cell's count reaches 0. -/
def execCellExpiry (die : Side) (cell : Fin 256) (s : State) : Host.Outcome State Fault Refusal :=
  .next (s.modTb (fun t => match die with
    | .a => { t with master := upd t.master cell (Cell.seen s.now) }
    | .b => { t with shadow := upd t.shadow cell (Cell.seen s.now) }))

/-- The expiry flag of a cell on a tick (R102, R271). -/
def Cell.flag (now : Tick) : Cell → Bool
  | .expired => true
  | .running d _ => decide (d.toNat ≤ now.toNat)
  | .idle => false

/-! ## Closing a scan (R42, R44, R45, R52 to R54, R243) -/

/-- The closing fold and, at the last scan of a kerf, the kerf signature on its way and a new seed (R242, R243). -/
def closeSig (c : Side) (t : Table) (s : State) : State :=
  let x := s.core c
  let sig := sigFold x.sig (BitVec.ofNat 64 (t.ranks * 2 ^ 32 + x.liveCv.toNat))
  if x.kerfScans + 1 < t.kerf then s.modCore c (fun x => { x with sig := sig, kerfScans := x.kerfScans + 1 })
  else
    let s := sendKerf c x.kerf sig s
    s.modCore c (fun x => { x with
      sig := t.seed ^^^ BitVec.ofNat 64 (x.scan + 1), kerfScans := 0, kerf := x.kerf + 1 })

/-- The scan period measured at a close, and the scan-period fault it shows: (cause, P). A core that comes from HALT closes
the scan it was halted in untimed, and its next scan is the first after leaving HALT, timed from its sample edge (R54; DESIGN
CHOICE, log 121: the rule does not say how the halted scan itself is timed). -/
def closePeriod (c : Side) (t : Table) (s : State) : State × Option (Nat × Nat) :=
  let x := s.core c
  match x.timed with
  | none =>
    (s.modCore c (fun x => { x with timed := if x.sealed.isSome then s.ev.sampleAt else none }), none)
  | some t0 =>
    let p := elapsed s.now t0
    let fault := if t.scanMax < p ∧ !x.overRec then some (4, p)
                 else if p < t.scanMin ∧ !x.first then some (5, p) else none
    (s.modCore c (fun x => { x with
      per := BitVec.ofNat 16 p, pmax := if x.pmax.toNat < p then BitVec.ofNat 16 p else x.pmax,
      pmin := if p < x.pmin.toNat then BitVec.ofNat 16 p else x.pmin, timed := some s.now, first := false, overRec := false }),
     fault)

/-- Ranks EB had still to issue in scan `n` when EA closed it (R60). -/
def lagAt (n : Nat) (b : CoreSt) : Nat :=
  if b.scan = n ∧ b.closed > n then 0
  else if b.scan = n ∧ (b.seq = .scan ∨ b.seq = .halted ∨ b.seq = .close) then b.ranks - (b.rank + bit b.issued)
  else b.ranks

/-- What EA's close brings to the registers (R60): the values shown, and the clears that waited for it. In split mode, where
EB runs without tokens, LAG is shown as 0 (DESIGN CHOICE, log 122: the rule does not say what it reads there). -/
def closeMirror (s : State) : State :=
  let a := s.core .a
  let b := s.core .b
  let e := s.ev
  let lag := if s.split then 0 else min 511 (lagAt a.scan b)
  let clr : CoreSt → CoreSt := fun x =>
    let x := if e.peakClr then { x with pmax := 0, pmin := 0xFFFF } else x
    if e.malfClr then { x with malf := 0 } else x
  let a := clr a
  let b := clr b
  let s := if e.peakClr then s.modSc (fun c => { c with peak := 0 }) else s
  s.modEv (fun e => { e with
    core := ⟨a, b⟩, lag := BitVec.ofNat 9 lag,
    lagPeak := if e.peakClr then 0 else if e.lagPeak.toNat < lag then BitVec.ofNat 9 lag else e.lagPeak,
    peakClr := false, malfClr := false,
    mir := { seq := ⟨a.seq, b.seq⟩, live := ⟨a.liveIdx, b.liveIdx⟩, scan := BitVec.ofNat 64 a.scan, perB := b.per, peakB := b.peak, malfA := a.malf, malfB := b.malf,
             snapCv := a.liveCv, qv := e.qValid } })

/-- SNAPSHOT items that have begun end with EA's close (R318). -/
def closeSnapshots (s : State) : State :=
  let a := s.core .a
  let bytes := (snapWords .a a.live).flatMap (fun w => leBytes 4 w.toNat)
  allRings.foldl (fun s r =>
    match frontItem (s.sq r.1 r.2).items with
    | some i =>
      if i.stage = .begun ∧ i.d.opc = 0x30 then endItem r.1 r.2 0 a.liveCv (hostWrite r.1 i.d.hostAddr bytes s) else s
    | none => s) s

/-- START ends with the close of scan 0 on both cores (R27, R423): RUN in SAFE_RUN with an active table, else IDLE. -/
def finishStart (s : State) : State :=
  let real : Bool := match (s.core .a).table with | some t => t.real | none => false
  let s := modBackup (fun h => { h with rcount := 0 }) s
  let s := s.modPcr (fun p => { p with phase := .done, tstart := BitVec.ofNat 32 (elapsed s.now p.startAt / 100) })
  let s := s.modTb (fun t => { t with pg := vmapIdx t.pg (fun g x =>
    if g.val = 1 ∨ g.val = 2 then { x with en := true, base := s.now } else x) })
  let s := setDev (if s.st.lc = .safeRun ∧ real then .run else .idle) s
  (fins 4).foldl (fun s n => plRelease n s) s

/-- SCAN_CLOSE: a core has finished its last rank. -/
def execScanClose (core : Side) (s : State) : Host.Outcome State Fault Refusal :=
  let x := s.core core
  .next (
    match x.table with
    | none => s
    | some t =>
      if x.seq ≠ .close then s
      else
        let s := closeSig core t s
        let s := postCells core s
        let (s, period) := closePeriod core t s
        let s := s.modCore core (fun x => { x with seq := .wait, closed := x.closed + 1, closeAt := some s.now })
        let s := bowClose core s
        let s := match core with
          | .a => closeSnapshots (closeMirror (tbEvent 0xB0 s.now s))
          | .b => s.modEv (fun e => { e with tokens := e.tokens - t.ranks, closeTokens := e.closeTokens - 1 })
        let s := postPayload core s
        let s : State := match period with
          | some (cause, p) => evFatal cause (coreInit core) p 6 s
          | none => s
        let s := if s.dev = .start ∧ s.pcr.phase = .firstScan ∧ 1 ≤ (s.core .a).closed ∧ 1 ≤ (s.core .b).closed
          then finishStart s else s
        if core = .b ∧ s.ev.launchHeld ∧ (s.core .a).seq = .wait ∧ (s.core .a).closed ≤ (s.core .b).closed then
          tryCore .a (launch .a (s.modEv (fun e => { e with launchHeld := false, waitSince := none })))
        else s)

/-! ## The sample edge (R35, R37 to R40, R163, R514) -/

/-- The first sample edge after a START: terminals take their configuration, inputs begin, sources switch on. -/
def beginConfigured (s : State) : State :=
  let s := s.modEv (fun e => { e with sampleAt := some s.now })
  let s := (fins 128).foldl (fun s i =>
    if (s.inputCfg i).mode ≠ 0 then s.modInput i (Input.begin s.now) else s.modInput i (fun x => { x with on := false })) s
  let s := (fins 32).foldl (fun s k => s.modSource k (fun _ => { Source.reset with on := (s.strumCfg k).enable, onAt := s.now })) s
  configureAxes (s.modPs (fun p => { p with switchedAt := some s.now }))

/-- The expiry flags of the 256 cells of a die as snapshot words. -/
def flagWords (now : Tick) (v : Vector Cell 256) : List Word := v.toList.map (fun c => bw (c.flag now))

/-- HRESET as the snapshot of this tick carries it (R18, R321). -/
def State.hresetWord (s : State) (p : Side) : Bool :=
  (s.hport p).hreset.any (fun e =>
    let begun := match curItem (s.sq p e.1).items with | some i => i.mark | none => 0
    begun != s.now.toNat && (!e.2.2 || e.2.1 == s.now))

/-- HLINK of a port on the present tick (R319). -/
def State.hlink (s : State) (p : Side) : Bool := (s.hport p).linkUp && (s.wport p).sq.toList.any (fun q => q.en)

/-- The 256 words of a port's host image as the snapshot of this tick carries them (R18, R319). -/
def State.hostImage (s : State) (p : Side) : List Word :=
  let h := s.hport p
  let im := if h.imageAt = some s.now then h.imagePrev else h.image
  [bw h.hlinkWas, bw (s.hresetWord p), 0, 0] ++ (List.range 60).map (fun k => mget 0 im (4 + k)) ++ List.replicate 192 0

/-- The words of snapshot `n` from address 0 and from 0x0800, with the cell flags given (R35, R39). -/
def snapshotWords (n : Nat) (psOut : BitVec 32) (flags : List Word) (s : State) : List Word × List Word :=
  let dead : Fin 4 → Bool := fun q => !s.quarterValid q
  let z := fun (q : Fin 4) (w : Word) => if dead q then 0 else w
  let low :=
    (fins 128).map (fun i => z (quarterOfInput i.val) (bw (s.inputValue i))) ++
    (fins 128).map (fun i => z (quarterOfInput i.val) (s.inputStatus i)) ++
    (fins 144).map (fun k => z (quarterOfOutput k.val) (s.outputWord k)) ++
    (fins 32).map (fun k => z (quarterOfSource k.val) (s.sourceStatus k (psOut.getLsbD k.val))) ++
    List.replicate 80 0 ++ flags ++
    [loHalf s.now, hiHalf s.now, BitVec.ofNat 32 n, BitVec.ofNat 32 (n / 2 ^ 32),
     bw (s.dev == .run && s.devAt != some s.now), 0, 0, 0] ++
    (fins 4).map (fun q => bw (!dead q)) ++ List.replicate 244 0
  let high :=
    (fins 64).flatMap (fun a => (fins 2).flatMap (fun p => (s.pathWords a p).toList.map (z (quarterOfAxis a.val)))) ++
    s.hostImage .a ++ s.hostImage .b ++ (fins 4).flatMap (fun k => s.linkSnap k)
  (low, high)

/-- A bank that holds these words, complemented for EB, in canonical form. -/
def bankOf (c : Side) (ws : List Word × List Word) : Mem 32 :=
  let at_ := fun (base : Nat) (l : List Word) =>
    ((List.range l.length).zipWith (fun k w => (base + k, w ^^^ maskOf c)) l).filter (fun e => e.2 != maskOf c)
  at_ 0 (ws.1.take 0x400) ++ at_ 0x800 (ws.2.take 0x800)

/-- Words of a fill bank that a disturbance changes on the way. -/
def disturb (c : Side) (hits : List (Nat × Word)) (m : Mem 32) : Mem 32 :=
  hits.foldl (fun m e => if snapAddr e.1 then mset (maskOf c) m e.1 (mget (maskOf c) m e.1 ^^^ e.2) else m) m

/-- The transfers over the quarter links of this snapshot (R39): a failed one is QUARTER_XFER, a good one ends its cause. -/
def judgeTransfers (fail : BitVec 4) (s : State) : State :=
  let s := s.modEv (fun e => { e with xferBad := Vector.ofFn (fun (q : Fin 4) => fail.getLsbD q.val) })
  (fins 4).foldl (fun s q =>
    if fail.getLsbD q.val then
      recordFault { block := .ev, cause := 0x0A, cls := .contained, scope := 1, item := q.val, addr := q.val, init := 3, acc := 4 } s
    else causeAbsent .ev 0x0A q.val s) s

/-- The seal of snapshot `n` in the fill bank of a core. -/
def sealIn (c : Side) (n : Nat) (ws : List Word × List Word) (hits : List (Nat × Word)) (cv : Word) (s : State) : State :=
  s.modCore c (fun x => { x with
    fill := disturb c hits (bankOf c ws), fillCv := cv, sealed := some n,
    timed := if x.seq = .wait ∧ x.first ∧ x.timed.isNone then some s.now else x.timed })

/-- LB's comparison of the snapshot's flags with its shadow cells (R272). -/
def checkFlags (s : State) : State :=
  if s.split then s
  else
    let diff := (List.range 256).filter (fun k =>
      ((s.tb.master.toList[k]?).map (Cell.flag s.now)) != ((s.tb.shadow.toList[k]?).map (Cell.flag s.now)))
    let bad := diff.filter (fun k => s.tb.flagDiff.contains k)
    let s := s.modTb (fun t => { t with flagDiff := diff })
    bad.foldl (fun s k => recordFault { block := .tb, cause := 3, cls := .fatal, scope := 0, item := k, addr := k, init := 2, acc := 4 } s) s

/-- MODE_REQ and RESET_REQ items whose effect this snapshot carries end (R320, R321). -/
def endRequests (s : State) : State :=
  allRings.foldl (fun s r =>
    match curItem (s.sq r.1 r.2).items with
    | some i =>
      if i.stage ≠ .begun then s
      else if i.d.opc = 0x20 ∧ i.mark / 16 ≠ s.now.toNat then endItem r.1 r.2 0 (BitVec.ofNat 32 (i.mark % 16)) s
      else if i.d.opc = 0x21 ∧ i.mark ≠ s.now.toNat ∧ !(s.hport r.1).hreset.any (fun e => e.1 == r.2 && !e.2.2) ∧
          !s.hresetWord r.1 then
        endItem r.1 r.2 0 0 (s.modHport r.1 (fun h => { h with hreset := h.hreset.filter (fun e => e.1 != r.2) }))
      else s
    | none => s) s

/-- A sample edge may fall on this tick: the first one of a START, or the third tick after EA's close. -/
def State.sampleDue (s : State) : Bool :=
  let a := s.core .a
  a.seq == .wait && a.sealed.isNone &&
  (if s.ev.sampleAt.isNone then s.dev == .start && s.pcr.phase == .firstScan
   else match a.closeAt with | some t => decide (3 ≤ elapsed s.now t) | none => false)

/-- SAMPLE_EDGE. -/
def execSampleEdge (smp : Sample) (s : State) : Host.Outcome State Fault Refusal :=
  .next (
    if !s.sampleDue then s
    else
      let s := if s.ev.sampleAt.isNone then judgeSwitchOn smp.psLate (beginConfigured s)
        else s.modEv (fun e => { e with sampleAt := some s.now })
      let n := s.ev.nextSnap
      let overrun := !s.split && (s.core .b).sealed.isSome
      let s := sampleOutputs smp.outs (judgeTransfers smp.xferFail s)
      let wa := snapshotWords n smp.psOut (flagWords s.now s.tb.master) s
      let wb := if s.split then snapshotWords n smp.psOut (flagWords s.now s.tb.shadow) s else wa
      let cva := snapCheck n (snapWords .a (bankOf .a wa))
      let cvb := if s.split then snapCheck n (snapWords .b (bankOf .b wb)) else cva
      let s := sealIn .b n wb smp.hitB cvb (sealIn .a n wa smp.hitA cva (snoop 10 cva s))
      let s := s.modEv (fun e => { e with
        nextSnap := n + 1, qValid := BitVec.ofNat 4 (bitmap 4 (fun q => s.quarterValid ⟨q % 4, Nat.mod_lt _ (by decide)⟩)) })
      let s := s.modOs (fun o => { o with permit := s.dev == .run && s.devAt != some s.now })
      let s := endRequests (assembleTally n smp.temps (freeDrivers n s))
      let s := checkFlags s
      if overrun then evFatal 6 (coreInit .b) s.ev.lag.toNat 6 s else s)

/-! ## The debugger's commands (R447, R448, R449) -/

/-- A debug command without effect, counted. -/
def dbgRefuse (s : State) : State := s.modDbg (fun d => { d with refused := satInc d.refused })

/-- A debug halt: EA halts before its next rank; none where EA is halted already (R59). -/
def debugHalt (s : State) : State :=
  if s.dbgAvail ∧ (s.dev = .halt ∨ s.st.dbg.haltA) then s
  else if !s.dbgAvail ∨ !(s.dev == .idle || s.dev == .run) then dbgRefuse s
  else tryCore .a ((marchYield s).modDbg (fun d => { d with pendHalt := true, brk := false, wp := false }))

/-- A resume: both cores go on from their position, and the state is IDLE. One that arrives while EA is halted and EB is not
yet at EA's position finds the device state not HALT: it is refused and counted, as R447 says of a request in another state
(DESIGN CHOICE, log 123: no rule speaks of that window); a step likewise. -/
def debugResume (s : State) : State :=
  if !s.dbgAvail ∨ s.dev ≠ .halt ∨ !s.st.dbg.haltA ∨ !s.st.dbg.haltB then dbgRefuse s
  else
    let a := s.core .a
    let go := fun (x : CoreSt) => { x with seq := if x.ranks ≤ x.rank then Seq.close else .scan }
    let s := (s.modCore .a go).modCore .b go
    let s := s.modDbg (fun d => { d with haltA := false, haltB := false, brk := false, wp := false, skip := some (a.scan, a.rank) })
    tryCore .a (setDev .idle s)

/-- A step: EA issues one rank, then EB, and both halt again. -/
def debugStep (s : State) : State :=
  let a := s.core .a
  if !s.dbgAvail ∨ s.dev ≠ .halt ∨ !s.st.dbg.haltA ∨ !s.st.dbg.haltB ∨ a.ranks ≤ a.rank then dbgRefuse s
  else
    let s := s.modCore .a (fun x => { x with seq := .scan, issued := true })
    let s := s.modCore .b (fun x => { x with seq := .scan })
    let s := s.modEv (fun e => { e with issuedA := e.issuedA + 1 })
    s.modDbg (fun d => { d with haltA := false, haltB := false, step := true, brk := false, wp := false })

/-- What the ECC of the word at DBG_OPADDR finds on an access of the debugger, recorded with the debug logic as initiator (R34,
R62): nothing, a corrected error (false) or a double one (true). -/
def dbgEcc (err : Option Bool) (acc : Nat) (s : State) : State :=
  let addr := s.st.dbg.opAddr.toNat
  match err with
  | none => s
  | some true => evFatal 1 5 addr acc s
  | some false =>
    recordCorrected { block := .ev, cause := 0x0B, cls := .corrected, scope := 7, item := 0, addr := addr, init := 5, acc := acc } s

/-- A write of DBG_OPDATA: EA's operand word at once, and queued for EB with its position. `err` is what the ECC of the word
finds on the access: a corrected error (false) or a double one (true), with the debug logic as initiator (R34, R62). -/
def dbgOpdataWrite (v : Word) (err : Option Bool) (s : State) : State :=
  let a := s.core .a
  let d := s.st.dbg
  if !s.dbgAvail ∨ !d.haltA ∨ 16 ≤ d.queue.length then dbgRefuse s
  else
    if err = some true then dbgEcc err 2 s
    else
      let s := (dbgEcc err 2 s).modCore .a (CoreSt.debugPoke .a d.opAddr.toNat v)
      let s := s.modDbg (fun d => { d with queue := d.queue ++ [(a.scan, a.rank, d.opAddr, v)] })
      if d.haltB then applyDebugWrites s else s


end Sys2Proof.Machine
end

