-- ==== Sys2Proof/Machine/Debug.lean ====
section
/-!
DEFINITION. Sys2Proof/Machine/Debug.lean: the two TAPs (R445, R468), the debug reset (R449), EXTEST, the commands of the
debugger and the debug registers through TAP A (R446).
-/
namespace Sys2Proof.Machine

/-- SYSRESET of DBG_CMD: a system reset with cause DEBUG. -/
def debugSysreset (s : State) : State := if s.dbgAvail then assertReset .system 8 s else dbgRefuse s

/-! ## The TAPs (R445, R468) -/

/-- The instruction register of a TAP is loaded with an instruction other than EXTEST, or, by TRST_N, with IDCODE: the reset
that EXTEST held is released once it stands in neither (R445). -/
def leaveExtest (ir : Two (BitVec 8)) (s : State) : State :=
  let held := s.pcr.extest.a || s.pcr.extest.b
  let s := s.modPcr (fun p => { p with
    ir := ir, extest := ⟨p.extest.a && ir.a == 0, p.extest.b && ir.b == 0⟩ })
  if held && !s.pcr.extest.a && !s.pcr.extest.b && s.pcr.asserted == some .system then releaseReset s else s

/-- TRST_N low: both TAPs are in Test-Logic-Reset, with IDCODE in their instruction registers (R468). -/
def tapReset (s : State) : State := leaveExtest ⟨1, 1⟩ (s.modPcr (fun p => { p with trstN := false }))

/-- What an Update-DR or a capture of TAP A does: nothing while TRST_N holds the TAP in Test-Logic-Reset (R468), or while EXTEST
stands in its instruction register. `instr` is the instruction that stands there. -/
def throughTapA (instr : BitVec 8) (f : State → State) (s : State) : State :=
  if !s.pcr.trstN || s.pcr.extest.a then s else f (s.modPcr (fun p => { p with ir := { p.ir with a := instr } }))

/-- An access to the debug register `index` through TAP A: DBG_ADDR names it (R446). -/
def throughDebug (index : Nat) (f : State → State) (s : State) : State :=
  throughTapA 0x21 (fun s => f (s.modPcr (fun p => { p with dbgAddr := BitVec.ofNat 8 index }))) s

/-- EXTEST_LOAD: in DEVELOP and COMMISSION the module is held in a system reset; elsewhere the instruction is BYPASS. With
TRST_N low nothing can be loaded. -/
def execExtestLoad (tap : Side) (trstN : Bool) (s : State) : Host.Outcome State Fault Refusal :=
  .next (
    if !trstN then tapReset s
    else
      let held := s.pcr.extest.a || s.pcr.extest.b
      let avail := s.dbgAvail
      let s := s.modPcr (fun p => { p with
        trstN := true, ir := p.ir.set tap 0, extest := if avail then p.extest.set tap true else p.extest })
      if held || !avail then s else assertReset .system 8 s)

/-- EXTEST_EXIT: another instruction is loaded into a TAP, or TRST_N goes low and both are in Test-Logic-Reset; the reset is
released once neither TAP holds EXTEST. -/
def execExtestExit (tap : Side) (ir : BitVec 8) (trstN : Bool) (s : State) : Host.Outcome State Fault Refusal :=
  .next (
    if !trstN then tapReset s
    else if ir = 0 then s
    else leaveExtest (s.pcr.ir.set tap ir) (s.modPcr (fun p => { p with trstN := true })))

/-- ACK_TAP: an Update-DR of the ACK instruction (R444). -/
def execAckTap (v : BitVec 32) (s : State) : Host.Outcome State Fault Refusal := .next (throughTapA 0x10 (ackTap v) s)

/-! ## The debugger's commands (R447 to R449) -/

/-- DEBUG_HALT. -/
def execDebugHalt (s : State) : Host.Outcome State Fault Refusal := .next (throughDebug 0 debugHalt s)

/-- DEBUG_RESUME. -/
def execDebugResume (s : State) : Host.Outcome State Fault Refusal := .next (throughDebug 0 debugResume s)

/-- DEBUG_STEP. -/
def execDebugStep (s : State) : Host.Outcome State Fault Refusal := .next (throughDebug 0 debugStep s)

/-- DEBUG_SYSRESET. -/
def execDebugSysreset (s : State) : Host.Outcome State Fault Refusal := .next (throughDebug 0 debugSysreset s)

/-- DBG_OPDATA_WRITE. -/
def execDbgOpdataWrite (v : BitVec 32) (err : Option Bool) (s : State) : Host.Outcome State Fault Refusal :=
  .next (throughDebug 9 (dbgOpdataWrite v err) s)

/-! ## Debug registers (R446) -/

/-- DBG_CMD written: one command bit at a time. -/
def dbgCmdWrite (v : Word) (s : State) : State :=
  match v.toNat % 16 with
  | 0 => s
  | 1 => debugHalt s
  | 2 => debugResume s
  | 4 => debugStep s
  | 8 => debugSysreset s
  | _ => dbgRefuse s

/-- A debug register written; its reserved bits are given first. DBG_STAT, DBG_REFUSED and the reserved indices take nothing. -/
def dbgWrite (index : Nat) (v : Word) (s : State) : State :=
  let put := fun (used : Nat) (f : State → State) =>
    let s := f s
    if 2 ^ used ≤ v.toNat then recordAccess .st .a index s else s
  if !s.dbgAvail then dbgRefuse s
  else if index = 0 then put 4 (dbgCmdWrite v)
  else if h : 2 ≤ index ∧ index ≤ 5 then
    put 10 (fun s => s.modDbg (fun d => { d with
      brks := vset d.brks ⟨index - 2, by omega⟩ { rank := v.extractLsb' 0 9, en := v.getLsbD 9 } }))
  else if h : 6 ≤ index ∧ index ≤ 7 then
    put 15 (fun s => s.modDbg (fun d => { d with
      wps := vset d.wps ⟨index - 6, by omega⟩ { addr := v.extractLsb' 0 13, en := v.getLsbD 13, onRead := v.getLsbD 14 } }))
  else if index = 8 then put 13 (fun s => s.modDbg (fun d => { d with opAddr := v.extractLsb' 0 13 }))
  else if index = 9 then dbgOpdataWrite v none s
  else s

/-- A write of a debug register through TAP A. -/
def debugWrite (index : Nat) (v : Word) (s : State) : State := throughDebug index (dbgWrite index v) s

/-- DBG_STAT as it reads where debug is available. -/
def dbgStat (d : Dbg) : Word :=
  regOf [(bit d.haltA, 0, 1), (bit d.haltB, 1, 1), (d.rank.toNat, 2, 9), (bit d.brk, 11, 1), (d.brkN.toNat, 12, 2), (bit d.wp, 14, 1),
    (bit d.wpN, 15, 1), (d.queue.length, 16, 5), (1, 21, 1)]

/-- What a debug register reads: 0 outside DEVELOP and COMMISSION (R446); DBG_OPDATA reads EA's operand word while EA is
halted, and otherwise 0, its reset value (DESIGN CHOICE, log 150: R448 speaks of EA halted alone). -/
def dbgReg (index : Nat) (s : State) : Word :=
  let d := s.st.dbg
  if !s.dbgAvail then 0
  else if index = 1 then dbgStat d
  else if h : 2 ≤ index ∧ index ≤ 5 then
    let b : Brk := d.brks[index - 2]'(by omega)
    regOf [(b.rank.toNat, 0, 9), (bit b.en, 9, 1)]
  else if h : 6 ≤ index ∧ index ≤ 7 then
    let w : Wp := d.wps[index - 6]'(by omega)
    regOf [(w.addr.toNat, 0, 13), (bit w.en, 13, 1), (bit w.onRead, 14, 1)]
  else if index = 8 then d.opAddr.setWidth 32
  else if index = 9 then (if d.haltA then CoreSt.peek .a (s.core .a) d.opAddr.toNat else 0)
  else if index = 10 then d.refused
  else 0

/-- A capture of DBG_DATA. `err` is what the ECC finds on a read of the operand word: a corrected error (false) or a double
one (true), with the debug logic as initiator (R34, R62). -/
def dbgRead (index : Nat) (err : Option Bool) (s : State) : State :=
  let v := dbgReg index s
  let s := if index = 9 ∧ s.dbgAvail ∧ s.st.dbg.haltA then dbgEcc err 1 s else s
  s.modPcr (fun p => { p with tdo := some v })

/-- A capture of a debug register through TAP A. -/
def debugRead (index : Nat) (err : Option Bool) (s : State) : State := throughDebug index (dbgRead index err) s

/-- A capture of IDCODE (R445); in Test-Logic-Reset nothing is captured. -/
def idcodeRead (tap : Side) (s : State) : State :=
  if !s.pcr.trstN || s.pcr.extest.get tap then s
  else s.modPcr (fun p => { p with ir := p.ir.set tap 1, tdo := some (match tap with | .a => 0x1E064573 | .b => 0x1E065573) })

end Sys2Proof.Machine
end

