-- ==== Sys2Proof/Machine/Rings.lean ====
section
/-!
DEFINITION. Sys2Proof/Machine/Rings.lean: the work rings (chapter 13): doorbells, fetching and judging descriptors,
completions and their journal records, the ring controls, and the landing window with its page flips.
-/
namespace Sys2Proof.Machine

/-! ## Doorbells (R305, R340) -/

/-- A corrected fault of WQ that names a port (R337). -/
def wqFault (p : Side) (cause addr acc : Nat) (s : State) : State :=
  recordFault { block := .wq, cause := cause, cls := .corrected, scope := 7, item := 0, addr := addr, init := 4, acc := acc, port := p } s

/-- Entries of a ring of SIZE `z` (R304). -/
def ringLen (z : BitVec 4) : Nat := 2 ^ z.toNat

/-- The reserved bits of a doorbell are recorded; its value is the field alone (R9). -/
def doorbell (p : Side) (off : Nat) (v : Word) (ok : Nat → Bool) (f : Nat → State → State) (s : State) : State :=
  let s := if 4096 ≤ v.toNat then recordAccess .wq p off s else s
  let x := v.toNat % 4096
  if ok x then f x s else wqFault p 6 off 7 s

/-- A command of the present tick that still waits disables the ring. -/
def State.disableWaits (s : State) (p : Side) (n : Fin 8) : Bool :=
  s.pending.any (fun i => match i with
    | .sqDisable q m => q == p && m == n
    | .registerWrite (.bar0 q off) v .whole => q == p && off == 0x1000C + 0x40 * n.val && !v.getLsbD 0
    | _ => false)

/-- A tail doorbell; on the tick on which the ring is disabled it is ignored (R336). -/
def tailDoorbell (port : Side) (n : Fin 8) (v : Word) (s : State) : State :=
  let q := s.sq port n
  doorbell port (0x12000 + 8 * n.val) v (fun x => q.en && !s.disableWaits port n && decide (x < ringLen q.size))
    (fun x s => s.modSq port n (fun q => { q with tail := x })) s

/-- A head doorbell frees slots the module has written, no others. -/
def headDoorbell (port : Side) (n : Fin 8) (v : Word) (s : State) : State :=
  let q := s.cq port n
  let z := ringLen q.size
  doorbell port (0x12004 + 8 * n.val) v
    (fun x => q.en && decide (x < z) && decide ((x + z - q.head % z) % z ≤ (q.tail + z - q.head % z) % z))
    (fun x s => s.modCq port n (fun q => { q with head := x })) s

/-- SQ_TAIL_DOORBELL. -/
def execSqTailDoorbell (port : Side) (n : Fin 8) (v : BitVec 32) (s : State) : Host.Outcome State Fault Refusal :=
  .next (toBlock port .wq (tailDoorbell port n v) s)

/-- CQ_HEAD_DOORBELL; one that a posting of its tick has let go first has done its work (R336). -/
def execCqHeadDoorbell (port : Side) (n : Fin 8) (v : BitVec 32) (s : State) : Host.Outcome State Fault Refusal :=
  .next (
    if s.hp.hoisted.contains (.cqHeadDoorbell port n v) then
      s.modHp (fun h => { h with hoisted := h.hoisted.erase (.cqHeadDoorbell port n v) })
    else toBlock port .wq (headDoorbell port n v) s)

/-- The head doorbells of a CQ that still wait on the present tick go ahead of a posting to it (R336). -/
def headFirst (port : Side) (k : Fin 8) (s : State) : State :=
  s.pending.foldl (fun s i => match i with
    | .cqHeadDoorbell p m v =>
      if p = port ∧ m = k then
        (toBlock p .wq (headDoorbell p m v) s).modHp (fun h => { h with hoisted := h.hoisted ++ [.cqHeadDoorbell p m v] })
      else s
    | _ => s) s

/-! ## Fetching (R311) and judging (R312, R313) -/

/-- An enabled ring with unfetched entries, not stopped by a failed fetch. -/
def Sq.ready (q : Sq) : Bool := q.en && !q.err && q.head != q.tail

/-- Open items of a port, skipped descriptors not yet covered included (R311, R327). -/
def WqPort.openItems (w : WqPort) : Nat := (w.sq.toList.map (fun q => q.items.length)).sum

/-- The ring the port fetches from next: the lowest starving one, else the lowest ready one. -/
def WqPort.nextSq (w : WqPort) : Option (Fin 8) :=
  match (fins 8).find? (fun n => (w.sq[n] : Sq).ready && decide (64 ≤ (w.sq[n] : Sq).starve)) with
  | some n => some n
  | none => (fins 8).find? (fun n => (w.sq[n] : Sq).ready)

/-- DESCRIPTOR_FETCH: one descriptor at a time, below 2,048 open items, with the link up and not in D3hot (R289, R311). -/
def execDescriptorFetch (port : Side) (s : State) : Host.Outcome State Fault Refusal :=
  let h := s.hport port
  let w := s.wport port
  .next (
    if h.inReset || !h.linkUp || h.d3 || decide (2048 ≤ w.openItems) || w.sq.toList.any (fun q => q.fetching.isSome) then s
    else match w.nextSq with
      | none => s
      | some n => s.modWport port (fun w => { w with sq := vmapIdx w.sq (fun k q =>
          if k = n then { q with fetching := some q.head, starve := 0 } else { q with starve := min 64 (q.starve + 1) }) }))

/-- A descriptor from its 64 bytes (R306). -/
def descOf (bs : List Byte) : Desc :=
  let at_ := fun (a k : Nat) => leNat ((bs.drop a).take k)
  { opc := at_ 0 1, flags := at_ 1 1, resv := at_ 2 2 != 0 || at_ 48 12 != 0, seq := BitVec.ofNat 32 (at_ 4 4),
    tag := BitVec.ofNat 64 (at_ 8 8), winOff := at_ 16 4, len := at_ 20 4, hostAddr := at_ 24 8, arg0 := at_ 32 4,
    arg1 := at_ 36 4, arg2 := at_ 40 4, arg3 := at_ 44 4 }

/-- DCRC of a descriptor (R307). -/
def dcrcOf (p : Side) (n : Fin 8) (bs : List Byte) : Word :=
  crcWithPrefix ([BitVec.ofNat 8 p.num, BitVec.ofNat 8 n.val, 0, 0] ++ (bs.drop 4).take 4) (bs.take 60)

/-- The judgement of a descriptor: none where it is accepted, else the code of its completion (R312). -/
def judge (p : Side) (n : Fin 8) (bs : List Byte) (expected : Word) : Option Nat :=
  let d := (descOf bs).seq - expected
  if dcrcOf p n bs ≠ BitVec.ofNat 32 (leNat ((bs.drop 60).take 4)) then some 0x0103
  else if d = 0 then none
  else if d.toNat < 0x80000000 then some 0x0104 else some 0x0105

/-- A slot is consumed: its item, or the descriptor that is not accepted, stands last in its ring. -/
def takeSlot (p : Side) (n : Fin 8) (d : Desc) (code : Option Nat) (s : State) : State :=
  let q := s.sq p n
  let after := (q.head + 1) % ringLen q.size
  let s := match code with
    | none => journalWrite (jrec .accept p n d.opc after d.seq d.tag) s
    | some c => journalWrite (jrec .skip p n d.opc c d.seq (BitVec.ofNat 64 (2 ^ 32 * after))) s
  let item : Item := { d := d, skip := code.isSome, sqhd := after, jseq := s.wq.jseq - 1,
                       stage := match code with | none => .accepted | some c => .ready c 0 false, mark := 0, old := false }
  let s := s.modSq p n (fun q => { q with
    head := after, items := q.items ++ [item], nextSeq := if code.isNone then q.nextSeq + 1 else q.nextSeq })
  if code.isNone then s.modWq (fun w => { w with accCnt := satInc w.accCnt }) else s

/-- DESCRIPTOR_ARRIVAL: 64 bytes judged, or a fetch that failed, which stops the ring (R337). -/
def execDescriptorArrival (port : Side) (n : Fin 8) (bytes : Option (List Byte)) (s : State) : Host.Outcome State Fault Refusal :=
  let q := s.sq port n
  .next (
    match q.fetching with
    | none => s
    | some slot =>
      let s := s.modSq port n (fun q => { q with fetching := none })
      match bytes with
      | none => wqFault port 2 n.val 0xC (s.modSq port n (fun q => { q with err := true }))
      | some bs =>
        let code := judge port n bs q.nextSeq
        let s := if code = some 0x0103 then wqFault port 3 (n.val + 16 * slot) 0xC s else s
        takeSlot port n (descOf bs) code s)

/-! ## Completion (R308, R314, R325, R326) -/

/-- The landing pages an item's range touches: of an opcode that takes data in, or of a NOP; page 0 belongs to the host. -/
def Desc.pages (d : Desc) : List Nat :=
  if d.opc == 0x00 || d.opc == 0x10 || d.opc == 0x40 || d.opc == 0x50 || d.opc == 0x70 then
    (pagesOf d.winOff (min d.len (0x200000 - min 0x200000 d.winOff))).filter (fun k => k != 0)
  else []

/-- An item that has not completed. -/
def Item.live (i : Item) : Bool :=
  !i.skip && (match i.stage with | .accepted | .begun | .ended _ _ => true | _ => false)

/-- Pages due are returned to the host unless an open item of the port still touches them (R325). -/
def returnPages (p : Side) (s : State) : State :=
  let w := s.wport p
  let touched := w.sq.toList.flatMap (fun q => q.items.flatMap (fun i => if i.live then i.d.pages else []))
  let now := w.returns.filter (fun k => !touched.contains k)
  s.modWport p (fun w => { w with
    landing := now.foldl (fun m k => mset 0 m (8 * k) 0) w.landing, returns := w.returns.filter (fun k => touched.contains k) })

/-- An opcode of the table of R318, with the functions of ST_REQ (R438, R441). -/
def assigned (d : Desc) : Bool :=
  [0x00, 0x01, 0x10, 0x11, 0x12, 0x20, 0x21, 0x30, 0x31, 0x32, 0x40, 0x41, 0x50, 0x70, 0x71].contains d.opc ||
  (d.opc == 0x60 && (d.arg0 % 256 == 0x01 || d.arg0 % 256 == 0x10))

/-- The end an item has come to: its own, or OPC_UNKNOWN for an opcode that has no row. -/
def itemEnd (i : Item) (runs : Bool) : Option (Nat × Word) :=
  match i.stage with
  | .ended c r => some (c, r)
  | .accepted => if runs && !assigned i.d then some (0x0106, 0) else none
  | _ => none

/-- What an item gives back when it completes: the channel a CV_JOB or a TABLE_VERIFY holds; a CV_JOB leaves it with its running
state, a verification with what it had (R375, R376). -/
def releaseChannel (p : Side) (n : Fin 8) (s : State) : State :=
  s.modCv (fun x => { x with ch := x.ch.map (fun c => if c.held = some (p, n) then { c with held := none, saved := none } else c) })

/-- ITEM_COMPLETE: the DONE record, the pages, and the completion ready to be posted, no sooner than the item's transfer can have
taken (R372, R515). An out item whose write to host memory
failed ends with ABORT_FAULT, RESULT 1 (R337). -/
def execItemComplete (port : Side) (n : Fin 8) (xferOk : Bool) (s : State) : Host.Outcome State Fault Refusal :=
  .next (
    match curItem (s.sq port n).items with
    | none => s
    | some i =>
      match itemEnd i (s.itemsRun && (frontItem (s.sq port n).items == some i)) with
      | none => s
      | some (c, r) =>
        if c = 0 ∧ s.now.toNat < i.mark + i.d.least then s else
        let failed := isOut i.d.opc && c == 0 && !xferOk
        let code := if failed then 0x0302 else c
        let res : Word := if failed then 1 else r
        let s := if failed then wqFault port 2 n.val 0xC s else s
        let s := journalWrite (jrec .done port n i.d.opc code i.d.seq (BitVec.ofNat 64 (res.toNat + 2 ^ 32 * i.sqhd))) s
        let s := s.modItem port n (fun i => { i with stage := .ready code res false })
        let s := releaseChannel port n s
        let s := if bitOf i.d.flags 1 then s.modWport port (fun w => { w with
          returns := w.returns ++ i.d.pages.filter (fun k => !w.returns.contains k) }) else s
        returnPages port s)

/-- The 16 bytes of a completion entry (R308). -/
def cqEntry (p : Side) (k n : Fin 8) (i : Item) (code : Nat) (res : Word) (replay phase : Bool) : List Byte :=
  let e := leBytes 4 i.d.seq.toNat ++ leBytes 2 (packFields [(code, 0, 14), (bit replay, 14, 1), (bit phase, 15, 1)]) ++
           leBytes 2 (n.val + 16 * i.sqhd) ++ leBytes 4 res.toNat
  e ++ leBytes 4 (crcWithPrefix ([BitVec.ofNat 8 p.num, BitVec.ofNat 8 (0x10 + k.val), 0, 0] ++ leBytes 4 i.d.seq.toNat) e).toNat

/-- The CQ's interrupt, which signals every posting so far (R298, R339). -/
def cqSignal (p : Side) (k : Fin 8) (s : State) : State :=
  let q := s.cq p k
  sendVector p q.vec.toFin (s.modCq p k (fun q => { q with unsignalled := 0, unsignalledAt := none }))

/-- A posting counted for the CQ's interrupt: at COAL_N postings, or at once for an IRQ flag. -/
def cqCount (p : Side) (k : Fin 8) (irq : Bool) (s : State) : State :=
  let q := s.cq p k
  if !q.ien then s
  else if irq ∨ max 1 q.coalN.toNat ≤ q.unsignalled + 1 then cqSignal p k s
  else s.modCq p k (fun q => { q with
    unsignalled := q.unsignalled + 1, unsignalledAt := if q.unsignalledAt.isNone then some s.now else q.unsignalledAt })

/-- A POSTED record of a CQ: the completions posted to it so far are covered, and their items are no longer open (R326, R327). -/
def writePosted (p : Side) (k : Fin 8) (s : State) : State :=
  let q := s.cq p k
  let mine := fun (i : Item) => match i.stage with | .posted c _ => c == k | _ => false
  let covers := (fins 8).flatMap (fun n => ((s.sq p n).items.filter mine).map (fun i => (n, i.d.seq, i.sqhd)))
  let rc := { jrec .posted p k 0 0 (BitVec.ofNat 32 (q.tail + 4096 * bit q.phase)) 0 with covers := covers }
  let s := journalWrite rc s
  let s := s.modWport p (fun w => { w with sq := w.sq.map (fun q => { q with items := q.items.filter (fun i => !mine i) }) })
  s.modCq p k (fun q => { q with covered := q.postings, uncoveredAt := none })

/-- The front completion of a ring posted into its CQ: the tag, then the entry (R308, R309). -/
def postEntry (p : Side) (n k : Fin 8) (i : Item) (code : Nat) (res : Word) (replay : Bool) (s : State) : State :=
  let q := s.cq p k
  let z := ringLen q.size
  let slot := q.tail % z
  let s := hostWrite p (q.tag.toNat + 8 * slot) (leBytes 8 i.d.tag.toNat) s
  let s := hostWrite p (q.base.toNat + 16 * slot) (cqEntry p k n i code res replay q.phase) s
  let s := s.modSq p n (fun x => { x with items := x.items.map (fun j => if j = i then { j with stage := .posted k q.postings } else j) })
  let s := s.modCq p k (fun q => { q with
    tail := (slot + 1) % z, phase := if slot + 1 = z then !q.phase else q.phase, postings := q.postings + 1,
    uncoveredAt := if q.uncoveredAt.isNone then some s.now else q.uncoveredAt })
  let s := cqCount p k (bitOf i.d.flags 0) s
  if 16 ≤ (s.cq p k).postings - (s.cq p k).covered then writePosted p k s else s

/-- The CQ is full: the slot after its tail is its head (R305). -/
def Cq.full (c : Cq) : Bool := (c.tail + 1) % ringLen c.size == c.head

/-- COMPLETION_POST: into the CQ the ring now names, once it is enabled and not full; a replayed completion also waits for
SQ_CFG (R329, R332). A head doorbell of the tick comes first where the CQ is full (R336). -/
def execCompletionPost (port : Side) (n : Fin 8) (s : State) : Host.Outcome State Fault Refusal :=
  let k := (s.sq port n).cq
  let s := if (s.cq port k).full && !s.hp.hoisted.any (fun i => match i with | .cqHeadDoorbell p m _ => p == port && m == k | _ => false)
    then headFirst port k s else s
  let q := s.sq port n
  let c := s.cq port k
  let h := s.hport port
  .next (
    match frontItem q.items with
    | some i =>
      match i.stage with
      | .ready code res replay =>
        if h.inReset || !h.linkUp || !c.en || (i.old && !q.cfgWritten) || c.full then s
        else postEntry port n k i code res replay s
      | _ => s
    | none => s)

/-- POSTED_TIMER: 10 µs after a posting not yet covered. -/
def execPostedTimer (port : Side) (n : Fin 8) (s : State) : Host.Outcome State Fault Refusal :=
  .next (
    match (s.cq port n).uncoveredAt with
    | some t => if 1000 ≤ elapsed s.now t then writePosted port n s else s
    | none => s)

/-- CQ_COALESCE_TIMER: COAL_T µs after the first posting not yet signalled. -/
def execCqCoalesceTimer (port : Side) (n : Fin 8) (s : State) : Host.Outcome State Fault Refusal :=
  let q := s.cq port n
  .next (
    match q.unsignalledAt with
    | some t => if q.ien ∧ q.coalT ≠ 0 ∧ 100 * q.coalT.toNat ≤ elapsed s.now t then cqSignal port n s else s
    | none => s)

/-! ## Ring controls (R331, R332, R339) -/

/-- SQ_CTL.EN written 1: resumed, or started fresh with a RING_START record if no item is open. No ring is enabled before
the replay (R329). -/
def sqEnable (port : Side) (n : Fin 8) (resume : Bool) (s : State) : State :=
  let q := s.sq port n
  if q.en then s
  else if !s.wq.replayed then countRefused port s
  else if resume then s.modSq port n (fun q => { q with en := true, tail := q.head })
  else if q.open_ ≠ 0 then countRefused port s
  else (journalWrite (jrec .ringStart port n 0 0 q.seq0 0) s).modSq port n (fun q => { q with
    en := true, head := 0, tail := 0, nextSeq := q.seq0 })

/-- SQ_CTL.EN written 0: fetching stops. -/
def sqDisable (port : Side) (n : Fin 8) (s : State) : State := s.modSq port n (fun q => { q with en := false, fetching := none })

/-- SQ_CTL.ERR written 1. -/
def sqErrClear (port : Side) (n : Fin 8) (s : State) : State := s.modSq port n (fun q => { q with err := false })

/-- CQ_CTL.EN written 1: posting starts at CQ_START, or at slot 0 with PHASE 1; the host has consumed nothing beyond it. -/
def cqEnable (port : Side) (n : Fin 8) (resume : Bool) (s : State) : State :=
  s.modCq port n (fun q =>
    if q.en then q
    else
      let i := if resume then q.startIdx % ringLen q.size else 0
      { q with en := true, tail := i, head := i, phase := if resume then q.startPhase else true })

def execSqEnable (port : Side) (n : Fin 8) (resume : Bool) (s : State) : Host.Outcome State Fault Refusal :=
  .next (toBlock port .wq (sqEnable port n resume) s)

def execSqDisable (port : Side) (n : Fin 8) (s : State) : Host.Outcome State Fault Refusal :=
  .next (toBlock port .wq (sqDisable port n) s)

def execSqErrClear (port : Side) (n : Fin 8) (s : State) : Host.Outcome State Fault Refusal :=
  .next (toBlock port .wq (sqErrClear port n) s)

def execCqEnable (port : Side) (n : Fin 8) (resume : Bool) (s : State) : Host.Outcome State Fault Refusal :=
  .next (toBlock port .wq (cqEnable port n resume) s)

/-! ## The landing window (R322 to R324, R370) -/

/-- PCRC of a page with a generation (R322), from the page's remainder (R370): the prefix runs through 4,096 bytes of zeros, the
remainder is added, and the final XOR is applied. -/
def pcrcOf (p : Side) (page gen : Nat) (rem : Word) : Word :=
  crcWithPrefix (leBytes 4 (4096 * page) ++ [BitVec.ofNat 8 p.num, 0] ++ leBytes 2 gen) (List.replicate 4096 0) ^^^ rem

/-- What bytes changed at a place of a page add to its remainder (R370): their contribution runs through the bytes behind them. -/
def remainderOf (place : Nat) (changed : List Byte) : Word :=
  crc32cState 0 (changed ++ List.replicate (4096 - place - changed.length) 0)

/-- A host write to the data of one page lands: the bytes, and the remainder of the page. -/
def landData (page off : Nat) (bytes : List Byte) (w : WqPort) : WqPort :=
  let old := mslice 0 w.landing off bytes.length
  let add := remainderOf (off % 4096) (List.zipWith (· ^^^ ·) old bytes)
  { w with landing := msetList 0 w.landing off bytes, rem := mset 0 w.rem page (mget 0 w.rem page ^^^ add) }

/-- A write dropped because the page is the module's (R324). -/
def landingDrop (p : Side) (page : Nat) (s : State) : State :=
  let s := s.modWq (fun w => { w with dropCnt := satInc w.dropCnt, dropPage := BitVec.ofNat 9 page, dropPort := p == .b })
  wqFault p 5 page 0xC s

/-- A write held behind a flip of its page. -/
def holdWrite (p : Side) (page off : Nat) (bytes : List Byte) (s : State) : State :=
  s.modWport p (fun w => { w with flips := w.flips.map (fun f => if f.page.val = page then { f with writes := f.writes ++ [(off, bytes)] } else f) })

/-- A flip of the page waits for its verdict. -/
def State.flipping (s : State) (p : Side) (page : Nat) : Bool := (s.wport p).flips.any (fun f => f.page.val == page)

/-- An ownership entry as a write that covers byte 7 forms it (R323): `lo` is the first byte covered. -/
def formEntry (cur held : List Byte) (lo : Nat) (bytes : List Byte) : List Byte :=
  (List.range 8).map (fun k =>
    if k = 1 then 0
    else if lo ≤ k ∧ k < lo + bytes.length then bytes.getD (k - lo) 0
    else if k < 4 then held.getD k 0 else cur.getD k 0)

/-- The judgement of a flip (R323): an entry given back to the host is taken; one handed to the module needs the next
generation, the right PCRC, a valid remainder and a sound window channel. -/
def flipTaken (p : Side) (page : Nat) (cur new : List Byte) (w : WqPort) (katBad : Bool) : Bool :=
  let gen := fun (e : List Byte) => leNat ((e.drop 2).take 2)
  new.getD 0 0 == 0 ||
  (new.getD 0 0 == 0xD5 && gen new == (gen cur + 1) % 65536 && !katBad && !w.remBad.contains page &&
   pcrcOf p page (gen new) (mget 0 w.rem page) == BitVec.ofNat 32 (leNat (new.drop 4)))

/-- A write that waits on the present tick finds the page's remainder uncorrectable: a flip of that page on the tick fails
(R377). -/
def findsRemainder (p : Side) (page : Nat) (i : Instr) : Bool :=
  match i with
  | .landingWrite q off _ poisoned bad => q == p && bad && !poisoned && off / 4096 % 512 == page
  | .entryWrite q off _ bad => q == p && bad && off / 8 == page
  | _ => false

/-- A write that covers byte 7 of an entry, judged (R323). -/
def judgeEntry (p : Side) (page : Fin 512) (lo : Nat) (bytes : List Byte) (s : State) : State :=
  let w := s.wport p
  let cur := mslice 0 w.landing (8 * page.val) 8
  let held := match w.entryHold with | some (e, bs) => if e = page.val then bs else cur | none => cur
  let new := formEntry cur held lo bytes
  let s := s.modWport p (fun w => { w with entryHold := none })
  if cur.getD 0 0 = 0xD5 then landingDrop p page.val s
  else
    let found := s.pending.any (findsRemainder p page.val)
    let taken := flipTaken p page.val cur new { w with remBad := if found then page.val :: w.remBad else w.remBad }
      (s.uncleared .cv 2 p.num)
    let s := if new.getD 0 0 = 0 then s else snoop p.num (pcrcOf p page.val (leNat ((new.drop 2).take 2)) (mget 0 w.rem page.val)) s
    let s := s.modWport p (fun w => { w with flips := w.flips ++ [{ page := page, entry := if taken then new else cur, taken := taken, writes := [] }] })
    if taken then s else wqFault p 4 page.val 0xC s

/-- A host write to one entry, from its byte `lo` on (R322, R323). -/
def entryWrite (p : Side) (page : Fin 512) (lo : Nat) (bytes : List Byte) (s : State) : State :=
  if page.val = 0 ∨ bytes.isEmpty then s
  else if s.flipping p page.val then holdWrite p page.val (8 * page.val + lo) bytes s
  else if lo + bytes.length = 8 then judgeEntry p page lo bytes s
  else if (s.wport p).owned page.val then landingDrop p page.val s
  else if lo = 0 ∧ 4 ≤ bytes.length then s.modWport p (fun w => { w with entryHold := some (page.val, bytes.take 4) })
  else wqFault p 4 page.val 0xC s

/-- A host write to the data of one page (R324). -/
def pageWrite (p : Side) (page off : Nat) (bytes : List Byte) (s : State) : State :=
  if s.flipping p page then holdWrite p page off bytes s
  else if (s.wport p).owned page then landingDrop p page s
  else s.modWport p (landData page off bytes)

/-- A host write to the window, entry by entry in page 0 and page by page beyond it; `n` bounds the pieces. -/
def windowWrite (p : Side) : Nat → Nat → List Byte → State → State
  | 0, _, _, s => s
  | n + 1, off, bytes, s =>
    if bytes.isEmpty ∨ 0x200000 ≤ off then s
    else
      let unit := if off < 4096 then 8 else 4096
      let k := min bytes.length (unit - off % unit)
      let s := if off < 4096 then entryWrite p ⟨off / 8 % 512, Nat.mod_lt _ (by decide)⟩ (off % 8) (bytes.take k) s
               else pageWrite p (off / 4096) off (bytes.take k) s
      windowWrite p n (off + k) (bytes.drop k) s

/-- A host write to the window, whatever its length. -/
def hostWindowWrite (p : Side) (off : Nat) (bytes : List Byte) (s : State) : State := windowWrite p bytes.length off bytes s

/-- An uncorrectable remainder found as a write arrives (R370). -/
def remFound (p : Side) (page : Nat) (bad : Bool) (s : State) : State := if bad then remUncorr p page s else s

/-- REMAINDER_REBUILD (R370): the remainder of a page is valid again, from the page's bytes. -/
def execRemainderRebuild (port : Side) (page : Fin 512) (s : State) : Host.Outcome State Fault Refusal :=
  .next (
    if (s.wport port).remBad.contains page.val && !s.marchMeets port (4096 * page.val) 4096 then
      let s := s.modWport port (fun w => { w with
        remBad := w.remBad.filter (fun p => p != page.val),
        rem := mset 0 w.rem page.val (crc32cState 0 (mslice 0 w.landing (4096 * page.val) 4096)) })
      s.modCv (fun x => { x with rebuildCnt := satInc x.rebuildCnt })
    else s)

/-- A host access to the landing window waits in the port while its block is under test, and behind one that waits (R435). -/
def State.marchHolds (s : State) (p : Side) (off n : Nat) : Bool := s.marchMeets p off n || !(s.wport p).held.isEmpty

/-- A host write that reaches the landing window. -/
def landWrite (p : Side) (page off : Nat) (bytes : List Byte) (remBad : Bool) (s : State) : State :=
  if s.marchHolds p off bytes.length then s.modWport p (fun w => { w with held := w.held ++ [(off, some (bytes, remBad))] })
  else hostWindowWrite p off bytes (remFound p page remBad s)

/-- ENTRY_WRITE: a host write to page 0 of the window. -/
def execEntryWrite (port : Side) (off : Nat) (bytes : List Byte) (remBad : Bool) (s : State) : Host.Outcome State Fault Refusal :=
  .next (fromPort port (fun s =>
    if 4096 ≤ off then s else landWrite port (off / 8) off bytes remBad s) s)

/-- FLIP_VERDICT: the oldest verdict becomes visible, and the writes held behind it follow. -/
def execFlipVerdict (port : Side) (s : State) : Host.Outcome State Fault Refusal :=
  .next (
    match (s.wport port).flips with
    | [] => s
    | f :: fs =>
      let s := s.modWport port (fun w => { w with
        flips := fs, landing := if f.taken then msetList 0 w.landing (8 * f.page.val) f.entry else w.landing })
      f.writes.foldl (fun s x => hostWindowWrite port x.1 x.2 s) s)

/-- LANDING_WRITE: a host write to landing data; one that is poisoned, or malformed with more than the 256 bytes of R289, is
discarded (R303). -/
def execLandingWrite (port : Side) (off : Nat) (bytes : List Byte) (poisoned : Bool) (remBad : Bool) (s : State) :
    Host.Outcome State Fault Refusal :=
  .next (fromPort port (fun s =>
    if poisoned ∨ 256 < bytes.length then recordPoisoned port s
    else landWrite port (off / 4096 % 512) off bytes remBad s) s)

end Sys2Proof.Machine
end

