-- ==== Sys2Proof/Machine/RegWrite.lean ====
section
/-!
DEFINITION. Sys2Proof/Machine/RegWrite.lean: register writes by access type (R7 to R9, R292, R301, R303) and register reads with
their holding registers (R6).
-/
namespace Sys2Proof.Machine

/-! ## Write-fed channels (R372 to R377) -/

/-- A command that waits on the present tick begins a hold of a channel (R377). -/
def beginsHold (n : Fin 4) (s : State) (i : Instr) : Bool :=
  match i with
  | .cvJob p r =>
    (match s.beginning p r 0x50 with
     | some d => d.arg0 % 4 == n.val && cvJobCheck p d s == none && !(s.chan n).katBad
     | none => false)
  | .tableVerify p r =>
    n.val == 3 && !s.cvw3Busy && (match s.beginning p r 0x11 with | some d => verifyCheck p d s == none | none => false)
  | .tableCommit p r =>
    n.val == 3 && !s.cvw3Busy && s.st.ack.isNone &&
      (match s.beginning p r 0x12 with | some d => commitCheck p d s == none | none => false)
  | .cruiseSliceStart =>
    s.sliceDue && s.cruiseMay && (sliceAt s.marchSlices s.slicePos == (5, 10 + n.val)) && !s.katHeld 5 (10 + n.val)
  | _ => false

/-- A register write to a channel has no effect: it is not the owning port's, or the channel is held, or a hold begins on its
tick and comes first (R373, R375, R377). -/
def cvwRefused (port : Side) (n : Fin 4) (s : State) : Bool :=
  s.hp.owner != some port || s.chanHeld n || s.pending.any (beginsHold n s)

/-- A register write to a channel: only from the owning port and while the channel is not held (R373, R375). -/
def cvwWrite (port : Side) (n : Fin 4) (f : Feed) (ticks : Nat) (s : State) : State :=
  if cvwRefused port n s then countRefused port s else s.modChan n (Cvw.push s.now f ticks)

/-- A write to a feed register of 1, 2 or 4 bytes (R372). -/
def cvwFeed (port : Side) (n : Fin 4) (width : Fin 3) (v : Word) (s : State) : State :=
  let k := 2 ^ width.val
  cvwWrite port n (.bytes ((leBytes 4 v.toNat).take k)) k s

/-- A write of CVWn_CTL (R374); bits [31:2] are reserved, and a refused write is only counted (R8). -/
def cvwCtlWrite (port : Side) (n : Fin 4) (v : Word) (s : State) : State :=
  let t := cvwWrite port n (.ctl (v.getLsbD 0) (v.getLsbD 1)) 0 s
  if 4 ≤ v.toNat && !cvwRefused port n s then recordAccess .cv port (0x200 + 0x20 * n.val) t else t


/-! ## Fields (R7, R9) -/

/-- Bits of a value that lie outside a mask are a write to reserved fields: ignored and recorded (R9). -/
def withReserved (b : Block) (p : Side) (off : Nat) (used v : Word) (s : State) : State :=
  if v &&& ~~~used = 0 then s else recordAccess b p off s

/-- A write: what the fields do, then what its reserved bits bring. A register all of whose fields are RO has none (R8). -/
abbrev RegAct := Option (State → State)

/-- A register of a block with these fields. -/
def reg (b : Block) (p : Side) (o : Nat) (used v : Word) (f : State → State) : RegAct :=
  some (fun s => withReserved b p o used v (f s))

/-- A register without an RW or RWL field, whose W1C and WO bits are `acts`: a write that sets none of them has no effect
(R7) and is counted (R8). -/
def actReg (b : Block) (p : Side) (o : Nat) (used acts v : Word) (f : State → State) : RegAct :=
  reg b p o used v (if v &&& acts = 0 then countRefused p else f)

/-- Fault records (R252): FR_STATUS, FR_QUIET and FR_IEN can be written. -/
def frWrite (b : Block) (p : Side) (o : Nat) (v : Word) : RegAct :=
  match o with
  | 0x100 => actReg b p o 0x1FFFFF 1 v (firstValidClear b)
  | 0x12C => some (frQuietWrite p b v)
  | 0x140 => reg b p o 0xF v (fun s => s.modRec b (fun r => { r with ien := v.extractLsb' 0 4 }))
  | _ => none

/-! ## Block by block -/

/-- EV_CLR (R60). -/
def evWrite (p : Side) (o : Nat) (v : Word) : RegAct :=
  if o = 0x030 then actReg .ev p o 3 3 v (evClear (v.getLsbD 0) (v.getLsbD 1)) else none

/-- PG_CTL (R276, R277): EN, then NOW. -/
def pgCtlWrite (p : Side) (g : Fin 16) (o : Nat) (v : Word) (s : State) : State :=
  if g.val < 3 then countRefused p s
  else
    let s := pgEnable p g (v.getLsbD 0) s
    let s := if v.getLsbD 1 then pgNow p g s else s
    withReserved .tb p o 7 v s

/-- TB_CMP_FLG: bits written 1 are cleared, a match of the present tick first. -/
def cmpFlagClear (v : Word) (s : State) : State :=
  ((fins 32).foldl (fun s n => if v.getLsbD n.val then cmpDue n s else s) s).modTb (fun t => { t with cmpFlg := t.cmpFlg &&& ~~~v })

/-- TB_PG_FLG: bits written 1 are cleared, a wrap of the present tick first. -/
def pgFlagClear (v : BitVec 16) (s : State) : State :=
  ((fins 16).foldl (fun s g => if v.getLsbD g.val then pgDue g s else s) s).modTb (fun t => { t with pgFlg := t.pgFlg &&& ~~~v })

/-- CMP_CTL (R279): LATE is cleared by a 1, EN is set. -/
def cmpCtlWrite (p : Side) (n : Fin 32) (o : Nat) (v : Word) (s : State) : State :=
  let s := if v.getLsbD 1 then s.modCmp n (fun x => { x with late := false }) else s
  withReserved .tb p o 3 v (cmpEnable n (v.getLsbD 0) s)

/-- TB (R288). -/
def tbWrite (p : Side) (o : Nat) (v : Word) : RegAct :=
  let fin : (n : Nat) → (h : 0 < n) → Nat → Fin n := fun n h k => ⟨k % n, Nat.mod_lt _ h⟩
  match o with
  | 0x014 => actReg .tb p o 0xFFFFFFFF 0xFFFFFFFF v (cmpFlagClear v)
  | 0x018 => actReg .tb p o 0xFFFF 0xFFF8 v (pgFlagClear (v.extractLsb' 0 16))
  | 0x020 => some (fun s => s.modTb (fun t => { t with ienCmp := v }))
  | 0x024 => some (fun s => s.modTb (fun t => { t with ienPc := v &&& ~~~7 }))
  | 0x028 => actReg .tb p o 0xFFFF 0xFFFF v (pgGo p (v.extractLsb' 0 16))
  | 0x02C => reg .tb p o 0xFF v (fun s => s.modTb (fun t => { t with cellSel := v.extractLsb' 0 8 }))
  | _ =>
    if 0x200 ≤ o ∧ o < 0x400 then
      let n := fin 32 (by decide) ((o - 0x200) / 16)
      match o % 16 with
      | 0 => some (cmpLoWrite n v)
      | 4 => some (cmpHiWrite n v)
      | 8 => some (cmpCtlWrite p n o v)
      | _ => none
    else if 0x400 ≤ o ∧ o < 0x500 then
      let g := fin 16 (by decide) ((o - 0x400) / 16)
      match o % 16 with
      | 0 => some (pgCtlWrite p g o v)
      | 4 => some (pgReloadWrite p g v)
      | _ => none
    else if 0x500 ≤ o ∧ o < 0x600 then
      let c := fin 16 (by decide) ((o - 0x500) / 16)
      match o % 16 with
      | 0 => some (capCtlWrite p c v)
      | 4 => actReg .tb p o 0xFFFF000F 8 v (fun s => s.modCap c (fun x => { x with ovf := false }))
      | _ => none
    else none

/-- HP (R298): the vector map of the writing port. -/
def hpWrite (p : Side) (o : Nat) (v : Word) : RegAct :=
  if 0x040 ≤ o ∧ o < 0x078 then
    reg .hp p o 0x9F9F v (fun s => s.modHport p (fun h => { h with
      vmap := vset h.vmap ⟨(o - 0x040) / 4 % 14, Nat.mod_lt _ (by decide)⟩
        { fvec := v.extractLsb' 0 5, fen := v.getLsbD 7, evec := v.extractLsb' 8 5, een := v.getLsbD 15 } }))
  else none

/-- PL (R366). -/
def plWrite (p : Side) (o : Nat) (v : Word) : RegAct :=
  let port : Fin 4 := ⟨(o - 0x200) / 0x40 % 4, Nat.mod_lt _ (by decide)⟩
  match o with
  | 0x008 => reg .pl p o 0xF v (fun s => s.modPl (fun x => { x with ien := v.extractLsb' 0 4 }))
  | 0x00C => actReg .pl p o 0xF 0xF v (fun s => s.modPl (fun x => { x with evt := x.evt &&& ~~~v.extractLsb' 0 4 }))
  | _ =>
    if 0x200 ≤ o ∧ o < 0x300 ∧ o % 0x40 = 0x2C then
      some (fun s => s.modPlPort port (fun x => { x with nstx := x.nstx.extractLsb' 32 16 ++ v }))
    else if 0x200 ≤ o ∧ o < 0x300 ∧ o % 0x40 = 0x30 then
      reg .pl p o 0xFFFF v (fun s => s.modPlPort port (fun x => { x with nstx := v.extractLsb' 0 16 ++ x.nstx.extractLsb' 0 32 }))
    else none

/-- CV (R381): the write-fed channels. -/
def cvWrite (p : Side) (o : Nat) (v : Word) : RegAct :=
  let n : Fin 4 := ⟨(o - 0x200) / 0x20 % 4, Nat.mod_lt _ (by decide)⟩
  if 0x200 ≤ o ∧ o < 0x280 then
    match o % 0x20 with
    | 0x00 => some (cvwCtlWrite p n v)
    | 0x04 => some (cvwWrite p n (.val v) 0)
    | 0x0C => some (cvwFeed p n 0 v)
    | 0x10 => some (cvwFeed p n 1 v)
    | 0x14 => some (cvwFeed p n 2 v)
    | _ => none
  else none

/-- PCR_RST by what the value spells (R419); bits [15:3] are reserved. -/
def pcrRstWrite (p : Side) (v : Word) (s : State) : State :=
  let key := v.toNat / 2 ^ 16
  let s :=
    if key = 0x7A11 ∧ v.toNat % 8 = 4 then pcrRstArm p s
    else if key = 0x9C04 ∧ !v.getLsbD 2 then pcrRstReset p (v.extractLsb' 0 2) s
    else rstRefuse p s
  withReserved .pcr p 0x020 0xFFFF0007 v s

/-- PCR (R428). -/
def pcrWrite (p : Side) (o : Nat) (v : Word) : RegAct :=
  match o with
  | 0x014 =>
    some (fun s =>
      let c := v.toNat % 16
      let ok := decide (1 ≤ c) && decide (c ≤ 9)
      let s := if ok then s.modPcr (fun x => { x with histSel := BitVec.ofNat 4 c }) else s
      if !ok || 16 ≤ v.toNat then recordAccess .pcr p o s else s)
  | 0x020 => some (pcrRstWrite p v)
  | _ => none

/-- What a write to a register of a block does; none where every field of it is RO. -/
def blockWrite (b : Block) (p : Side) (o : Nat) (v : Word) : RegAct :=
  if 0x100 ≤ o ∧ o < 0x200 then frWrite b p o v
  else match b with
    | .ib =>
      if o = 0x040 then reg .ib p o 0x7F v (fun s => s.modIb (fun x => { x with thrSel := v.extractLsb' 0 7 })) else none
    | .af =>
      if o = 0x018 then reg .af p o 0x7F v (fun s => s.modAf (fun x => { x with sel := v.extractLsb' 0 6, spare := v.getLsbD 6 }))
      else none
    | .ms =>
      if o = 0x024 then
        reg .ms p o 0xFFF v (fun s => s.modMs (fun x => { x with
          wearSel := v.extractLsb' 0 11, wearStore := if v.getLsbD 11 then .b else .a }))
      else none
    | .ev => evWrite p o v
    | .tb => tbWrite p o v
    | .hp => hpWrite p o v
    | .pl => plWrite p o v
    | .cv => cvWrite p o v
    | .pcr => pcrWrite p o v
    | .ps | .os | .sc | .wq | .st => none

/-! ## The module page, the rings, the doorbells and the MSI-X table -/

/-- CFG_OWNER (R295); bits [7:4] and [15:9] are reserved, OWNER and SELF are RO. -/
def cfgOwnerWrite (p : Side) (v : Word) (s : State) : State :=
  let key := v.extractLsb' 16 16
  let both := v.getLsbD 2 && v.getLsbD 3
  let s := if both then recordAccess .hp p 0x008 s
    else if v.getLsbD 2 then cfgClaim p key s
    else if v.getLsbD 3 then cfgRelease p key s
    else countRefused p s
  if both then s else withReserved .hp p 0x008 0xFFFF010F v s

/-- A register locked while its ring is enabled (R339). -/
def locked (p : Side) (en : Bool) (f : State → State) (s : State) : State := if en then countRefused p s else f s

/-- A write to a register of SQ n (R339). -/
def sqWrite (p : Side) (n : Fin 8) (r : Nat) (v : Word) : RegAct :=
  let o := 0x10000 + 0x40 * n.val + r
  let put := fun (used : Word) (f : Sq → Sq) => some (fun s : State =>
    locked p (s.sq p n).en (fun s => withReserved .wq p o used v (s.modSq p n f)) s)
  match r with
  | 0x00 => put 0xFFFFFFC0 (fun q => { q with base := q.base.extractLsb' 32 32 ++ (v &&& 0xFFFFFFC0) })
  | 0x04 => put 0xFFFFFFFF (fun q => { q with base := v ++ q.base.extractLsb' 0 32 })
  | 0x08 =>
    some (fun s : State => locked p (s.sq p n).en (fun s =>
      let z := v.extractLsb' 0 4
      let ok := decide (4 ≤ z.toNat) && decide (z.toNat ≤ 12)
      let s := s.modSq p n (fun q => { q with
        size := if ok then z else q.size, cq := ⟨v.toNat / 16 % 8, Nat.mod_lt _ (by decide)⟩, cfgWritten := true })
      if !ok || 128 ≤ v.toNat then recordAccess .wq p o s else s) s)
  | 0x0C =>
    reg .wq p o 7 v (fun s =>
      let s := if v.getLsbD 2 then sqErrClear p n s else s
      if v.getLsbD 0 then sqEnable p n (v.getLsbD 1) s else sqDisable p n s)
  | 0x10 => put 0xFFFFFFFF (fun q => { q with seq0 := v })
  | _ => none

/-- A write to a register of CQ n (R339). CQ_TAG can be written while the ring is enabled. -/
def cqWrite (p : Side) (n : Fin 8) (r : Nat) (v : Word) : RegAct :=
  let o := 0x10200 + 0x40 * n.val + r
  let put := fun (used : Word) (f : Cq → Cq) => some (fun s : State =>
    locked p (s.cq p n).en (fun s => withReserved .wq p o used v (s.modCq p n f)) s)
  match r with
  | 0x00 => put 0xFFFFFFF0 (fun q => { q with base := q.base.extractLsb' 32 32 ++ (v &&& 0xFFFFFFF0) })
  | 0x04 => put 0xFFFFFFFF (fun q => { q with base := v ++ q.base.extractLsb' 0 32 })
  | 0x08 => reg .wq p o 0xFFFFFFF8 v (fun s => s.modCq p n (fun q => { q with
      tag := q.tag.extractLsb' 32 32 ++ (v &&& 0xFFFFFFF8) }))
  | 0x0C => some (fun s => s.modCq p n (fun q => { q with tag := v ++ q.tag.extractLsb' 0 32 }))
  | 0x10 =>
    some (fun s : State => locked p (s.cq p n).en (fun s =>
      let z := v.extractLsb' 0 4
      let ok := decide (4 ≤ z.toNat) && decide (z.toNat ≤ 12)
      let s := s.modCq p n (fun q => { q with
        size := if ok then z else q.size, vec := v.extractLsb' 4 5, ien := v.getLsbD 9, coalN := v.extractLsb' 16 8,
        coalT := v.extractLsb' 24 8 })
      if !ok || v.extractLsb' 10 6 ≠ 0 then recordAccess .wq p o s else s) s)
  | 0x14 =>
    reg .wq p o 3 v (fun s =>
      if v.getLsbD 0 then cqEnable p n (v.getLsbD 1) s else s.modCq p n (fun q => { q with en := false }))
  | 0x18 => put 0x1FFF (fun q => { q with startIdx := v.toNat % 4096, startPhase := v.getLsbD 12 })
  | _ => none

/-- A doorbell register (R340). -/
def doorbellWrite (p : Side) (o : Nat) (v : Word) : RegAct :=
  let n : Fin 8 := ⟨(o - 0x12000) / 8 % 8, Nat.mod_lt _ (by decide)⟩
  some (if o % 8 = 0 then tailDoorbell p n v else headDoorbell p n v)

/-- A dword of the MSI-X table (R291): clearing a mask sends what is pending (R298). The pending bits are RO. -/
def msixWrite (p : Side) (o : Nat) (v : Word) : RegAct :=
  if o < 0x200 then
    let k : Fin 32 := ⟨o / 16 % 32, Nat.mod_lt _ (by decide)⟩
    let f : MsixEntry → MsixEntry := fun e =>
      match o % 16 with
      | 0 => { e with addr := e.addr.extractLsb' 32 32 ++ (v &&& 0xFFFFFFFC) }
      | 4 => { e with addr := v ++ e.addr.extractLsb' 0 32 }
      | 8 => { e with data := v }
      | _ => { e with mask := v.getLsbD 0 }
    some (fun s => flushPending p (s.modHport p (fun h => { h with msix := upd h.msix k f })))
  else none

/-- What a write to a register of the BAR0 map does; none where every field of it is RO. -/
def bar0Write (p : Side) (off : Nat) (v : Word) : RegAct :=
  if off < 0x1000 then (if off = 0x008 then some (cfgOwnerWrite p v) else none)
  else if off < 0xF000 then (Block.ofId (off / 0x1000)).bind (fun b => blockWrite b p (off % 0x1000) v)
  else if off < 0x10200 then sqWrite p ⟨(off - 0x10000) / 0x40 % 8, Nat.mod_lt _ (by decide)⟩ (off % 0x40) v
  else if off < 0x10400 then cqWrite p ⟨(off - 0x10200) / 0x40 % 8, Nat.mod_lt _ (by decide)⟩ (off % 0x40) v
  else if 0x12000 ≤ off ∧ off < 0x12040 then doorbellWrite p off v
  else if 0x3E000 ≤ off ∧ off < 0x3E200 then msixWrite p (off - 0x3E000) v
  else none

/-! ## Registers of RO fields alone (R8, R9) -/

/-- The bits of a fault record's RO register that lie in a field (R252). -/
def roRecord (o : Nat) : Word :=
  match o with
  | 0x108 => 0xFF | 0x10C => 0x10F | 0x130 => 0xFFFFF | 0x134 => 0xFFFFFFFE | 0x138 => 0xFF | 0x13C => 0xFF
  | _ => BitVec.allOnes 32

/-- The bits of a block's RO register that lie in a field. -/
def roBlock (b : Block) (o : Nat) : Word :=
  let all := BitVec.allOnes 32
  if 0x100 ≤ o ∧ o < 0x200 then roRecord o
  else if o = 0 then (if b = .hp then 0x1FFFF else 0xFFFF)
  else match b with
    | .ev => match o with | 0x004 => 0x01FF03FF | 0x008 => 0x1FFF01FF | 0x024 => 0x01FF01FF | 0x038 => 0xF | _ => all
    | .ib => if o = 0x004 then 0xFFF else if o = 0x044 then 0xFFFFFF7F else if 0x400 ≤ o then 0x00FF37FF else all
    | .ps => if o = 0x010 then 0x1FFFF else if 0x700 ≤ o then 0x00FF00FF else all
    | .af => if o = 0x004 then 0xFF else if 0x600 ≤ o then 0x00FF0DFF else all
    | .os =>
      if o = 0x004 then 0xFF else if 0x680 ≤ o then (if o < 0x880 then 0x00FF1FFF else 0x0FFF1FFF) else all
    | .sc => if o = 0x004 then 0x7F0F else all
    | .tb => match o with | 0x004 => 0x1FF07 | 0x01C => 0xFFFF | 0x030 => 0xF | 0x034 => 0x07FFFFFF | _ => all
    | .hp => if o = 0x004 then 0x3F else all
    | .wq => match o with | 0x004 => 0xF | 0x014 => 0x101FF | _ => all
    | .pl =>
      if o = 0x004 then 0x1FFF
      else match (if 0x200 ≤ o then o % 0x40 else 0x40) with | 0x00 => 0x00FFFFFF | 0x08 => 0xFFFF | 0x28 => 0xFFFF | _ => all
    | .cv => if o = 0x004 then 0x00FFFFFF else all
    | .ms => if o = 0x004 then 0x1F else all
    | .pcr => match o with | 0x004 => 0x1FFF | 0x008 => 0x03FE07FF | 0x00C => 0xF | 0x01C => 0xFF | 0x030 => 0xFFFF | _ => all
    | .st => match o with | 0x004 => 0x1FFF | 0x00C => 0xFFFF | 0x01C => 0xFFFF | _ => all

/-- A write to a register all of whose fields are RO: counted, and recorded where it sets a reserved bit. -/
def roWrite (p : Side) (off : Nat) (v : Word) (s : State) : State :=
  let s := countRefused p s
  if off < 0x1000 then
    withReserved .hp p off (if off = 0x000 then 0xFFFFFF else if off = 0x004 then 0xFFF else BitVec.allOnes 32) v s
  else if off < 0xF000 then
    match Block.ofId (off / 0x1000) with
    | some b => withReserved b p (off % 0x1000) (roBlock b (off % 0x1000)) v s
    | none => s
  else if off < 0x10200 then
    withReserved .wq p off (if off % 0x40 = 0x18 ∨ off % 0x40 = 0x1C then 0xFFF else BitVec.allOnes 32) v s
  else if off < 0x10400 then withReserved .wq p off (if off % 0x40 = 0x1C then 0x1FFF else BitVec.allOnes 32) v s
  else withReserved .wq p off (if off = 0x10400 then 0xFFFFFF else if off = 0x10404 then 0xFFF else BitVec.allOnes 32) v s

/-! ## Writes as they arrive (R8, R292, R301, R303) -/

/-- A write discarded under R292 or R301 and counted. -/
def discardWrite (p : Side) (s : State) : State := s.modHport p (fun h => { h with disc := satInc h.disc })

/-- The offset lies in a block whose registers are unavailable; the rings and doorbells are WQ's. -/
def State.isolatedAt (s : State) (off : Nat) : Bool :=
  if off < 0xF000 then (match blockAt off with | some b => isolated b s | none => false)
  else decide (0x10000 ≤ off) && decide (off < 0x13000) && isolated .wq s

/-- A register write on BAR0 of a port. -/
def regWriteAct (p : Side) (off : Nat) (v : Word) (kind : WriteKind) (s : State) : State :=
  match kind with
  | .poisoned => recordPoisoned p s
  | .partialBytes => recordAccess .hp p off (discardWrite p s)
  | .whole =>
    if s.isolatedAt off then discardWrite p s
    else if (bar0Reg p s off).isNone then recordAccess .hp p off (discardWrite p s)
    else match bar0Write p off v with
      | some f => f s
      | none => roWrite p off v s

/-! ## Configuration space (R290) -/

/-- The bits of the configuration header that can be written: command, cache line size, the addresses of a BAR of 256 KiB and of
one of 2 MiB, interrupt line (PRESUMED from PCI Express, log 7). -/
def headerMask (d : Fin 16) : Word :=
  match d.val with
  | 1 => 0x0546 | 3 => 0xFF | 4 => 0xFFFC0000 | 5 => 0xFFFFFFFF | 6 => 0xFFE00000 | 7 => 0xFFFFFFFF | 15 => 0xFF | _ => 0

/-- What R290 gives the header of a port, and the status bit of a capability list. -/
def headerFixed (p : Side) (d : Fin 16) : Word :=
  match d.val with
  | 0 => 0xE0641EB7
  | 1 => 0x00100000
  | 2 => 0x08800001
  | 4 => 0x4
  | 6 => 0xC
  | 11 => (match p with | .a => 0x00001EB7 | .b => 0x00011EB7)
  | 13 => Sys2Proof.Config.capPointer.zeroExtend 32
  | _ => 0

/-- A register of a port's configuration space as it reads. -/
def configRead (p : Side) (r : CfgReg) (s : State) : Word :=
  let h := s.hport p
  match r with
  | .header d => headerFixed p d ||| ((h.cfg[d] : Word) &&& headerMask d)
  | .power => if h.d3 then 3 else 0
  | .msix => regOf [(31, 0, 11), (bit h.fnMask, 14, 1), (bit h.msixEn, 15, 1)]
  | .serial hi => if hi then hiHalf s.serial else loHalf s.serial

/-- A write to a register of a port's configuration space: D0 and D3hot are the power states (R289), and MSI-X has its enable in
bit 15 and its function mask in bit 14 (R298). -/
def configWrite (p : Side) (r : CfgReg) (v : Word) (kind : WriteKind) (s : State) : State :=
  if kind = .poisoned then recordPoisoned p s
  else match r with
    | .header d => s.modHport p (fun h => { h with cfg := vset h.cfg d (v &&& headerMask d) })
    | .power =>
      let d := v.extractLsb' 0 2
      if d = 0 ∨ d = 3 then s.modHport p (fun h => { h with d3 := d == 3 }) else s
    | .msix => flushPending p (s.modHport p (fun h => { h with msixEn := v.getLsbD 15, fnMask := v.getLsbD 14 }))
    | .serial _ => s

/-! ## Reads (R6, R282, R292, R301) -/

/-- The register at this offset is the low half of a 64-bit quantity. The 48-bit NSAFE pairs of PL are none. -/
def lowHalf (off : Nat) : Bool :=
  let b := Block.ofId (off / 0x1000)
  let o := off % 0x1000
  if off < 0x1000 then off == 0x010
  else if off < 0xF000 then
    match b with
    | some b =>
      o == 0x110 || o == 0x190 ||
      (match b with
       | .af => o == 0x008 || o == 0x010
       | .ev => o == 0x010
       | .sc => o == 0x008 || o == 0x010 || o == 0x018
       | .tb => o == 0x008
       | .wq => o == 0x018
       | .ms => o == 0x01C
       | _ => false)
    | none => false
  else if 0x10000 ≤ off ∧ off < 0x10200 then off % 0x40 == 0
  else if 0x10200 ≤ off ∧ off < 0x10400 then off % 0x40 == 0 || off % 0x40 == 8
  else false

/-- The register at this offset is the high half of a 64-bit quantity, CAP_HI included. -/
def highHalf (off : Nat) : Bool :=
  (decide (4 ≤ off) && lowHalf (off - 4)) || (decide (0x7500 ≤ off) && decide (off < 0x7600) && off % 16 == 0xC)

/-- What a read through a port returns: a high half its port's captured value, 0 if none (R6); a reserved offset 0 (R292). -/
def hostRead (p : Side) (off : Nat) (s : State) : Word :=
  if highHalf off then ((((s.hport p).holds.find? (fun e => e.1 == off)).map (·.2)).getD 0)
  else BitVec.ofNat 32 ((bar0Reg p s off).getD 0)

/-- A read on BAR0 of a port: Completer Abort from an isolated block; the low half of a pair captures the high half. -/
def hostReadAct (p : Side) (off : Nat) (s : State) : State :=
  if s.isolatedAt off then abortRead p s
  else if 0x7500 ≤ off ∧ off < 0x7600 ∧ off % 16 = 8 then
    capLoRead p ⟨(off - 0x7500) / 16 % 16, Nat.mod_lt _ (by decide)⟩ s
  else
    let v := hostRead p off s
    readData p v (if lowHalf off then latchHigh p (off + 4) (BitVec.ofNat 32 ((bar0Reg p s (off + 4)).getD 0)) s else s)

/-- CAP_LO_READ. -/
def execCapLoRead (port : Side) (c : Fin 16) (s : State) : Host.Outcome State Fault Refusal :=
  .next (fromPort port (hostReadAct port (0x7508 + 16 * c.val)) s)

/-- A read of the landing window: a word, without side effects (R294). -/
def landingRead (p : Side) (off : Nat) (s : State) : Word :=
  BitVec.ofNat 32 (leNat (mslice 0 (s.wport p).landing off 4))

/-- A read of the landing window; held in the port like a write (R435). -/
def windowRead (p : Side) (off : Nat) (s : State) : State :=
  if s.marchHolds p off 4 then s.modWport p (fun w => { w with held := w.held ++ [(off, none)] })
  else readData p (landingRead p off s) s

/-- A held access goes on. -/
def heldAccess (p : Side) (e : Nat × Option (List Byte × Bool)) (s : State) : State :=
  match e.2 with
  | none => readData p (landingRead p e.1 s) s
  | some (bytes, bad) =>
    hostWindowWrite p e.1 bytes (remFound p (if e.1 < 4096 then e.1 / 8 else e.1 / 4096 % 512) bad s)

/-- The accesses a port has held go on once no block of its landing SRAM is under test (R435). -/
def marchRelease (p : Side) (s : State) : State :=
  if s.marchMeets p 0 0x200000 then s
  else (s.wport p).held.foldl (fun s e => heldAccess p e s) (s.modWport p (fun w => { w with held := [] }))

/-- LOW_HALF_READ. -/
def execLowHalfRead (port : Side) (space : Space) (s : State) : Host.Outcome State Fault Refusal :=
  .next (
    match space with
    | .bar0 off => fromPort port (hostReadAct port off) s
    | .bar2 off => fromPort port (windowRead port off) s
    | .config r => fromPort port (readData port (configRead port r s)) s
    | .debug index err => debugRead index err s
    | .idcode tap => idcodeRead tap s)

end Sys2Proof.Machine
end

