-- ==== Sys2Proof/Machine/HostWrites.lean ====
section
/-!
DEFINITION. Sys2Proof/Machine/HostWrites.lean: the register writes of the two host ports, those of one tick to one register, or
to the time base, in the order of R285 and R293.
-/
namespace Sys2Proof.Machine

/-- What a register write does at its target. -/
def registerWrite (target : Target) (v : Word) (kind : WriteKind) (s : State) : State :=
  match target with
  | .bar0 port off => fromPort port (regWriteAct port off v kind) s
  | .debug index => debugWrite index v s
  | .config port r => fromPort port (configWrite port r v kind) s

/-! ## HP0 before HP1 (R285, R293) -/

/-- A write to a register that both ports see: the port, the register's BAR0 offset, and what the write does. -/
structure HostWrite where
  port : Side
  off : Nat
  act : State → State

/-- A write to a register of a block. -/
def blockHostWrite (p : Side) (b : Block) (o : Nat) (f : State → State) : Option HostWrite :=
  some ⟨p, 0x1000 * b.id + o, toBlock p b f⟩

/-- The write a command makes to a register that both ports see. -/
def hostWriteOf : Instr → Option HostWrite
  | .pgReloadWrite p g v => blockHostWrite p .tb (0x404 + 16 * g.val) (pgReloadWrite p g v)
  | .pgNow p g => blockHostWrite p .tb (0x400 + 16 * g.val) (pgNow p g)
  | .pgEnable p g en => blockHostWrite p .tb (0x400 + 16 * g.val) (pgEnable p g en)
  | .pgGo p mask => blockHostWrite p .tb 0x028 (pgGo p mask)
  | .cmpLoWrite p n v => blockHostWrite p .tb (0x200 + 16 * n.val) (cmpLoWrite n v)
  | .cmpHiWrite p n v => blockHostWrite p .tb (0x204 + 16 * n.val) (cmpHiWrite n v)
  | .cmpEnable p n en => blockHostWrite p .tb (0x208 + 16 * n.val) (cmpEnable n en)
  | .capCtlWrite p c v => blockHostWrite p .tb (0x500 + 16 * c.val) (capCtlWrite p c v)
  | .firstValidClear p b => blockHostWrite p b 0x100 (firstValidClear b)
  | .frQuietWrite p b v => blockHostWrite p b 0x12C (frQuietWrite p b v)
  | .peakClr p => blockHostWrite p .ev 0x030 (evClear true false)
  | .malfClr p => blockHostWrite p .ev 0x030 (evClear false true)
  | .pcrRstArm p => blockHostWrite p .pcr 0x020 (pcrRstArm p)
  | .pcrRstReset p level => blockHostWrite p .pcr 0x020 (pcrRstReset p level)
  | .cvwCtlWrite p n v => blockHostWrite p .cv (0x200 + 0x20 * n.val) (cvwCtlWrite p n v)
  | .cvwValWrite p n v => blockHostWrite p .cv (0x204 + 0x20 * n.val) (cvwWrite p n (.val v) 0)
  | .cvwFeed p n width v => blockHostWrite p .cv (0x20C + 0x20 * n.val + 4 * width.val) (cvwFeed p n width v)
  | .cfgClaim p key => some ⟨p, 0x008, fromPort p (cfgClaim p key)⟩
  | .cfgRelease p key => some ⟨p, 0x008, fromPort p (cfgRelease p key)⟩
  | .registerWrite (.bar0 p off) v kind =>
    if off < 0xF000 ∧ off / 0x1000 ≠ 8 then some ⟨p, off, fromPort p (regWriteAct p off v kind)⟩ else none
  | _ => none

/-- Two writes of one tick whose order R285 or R293 gives: to one register, or both to the time base. -/
def HostWrite.meets (x y : HostWrite) : Bool := x.off == y.off || (x.off / 0x1000 == 7 && y.off / 0x1000 == 7)

/-- The writes of HP0 that wait on the present tick, meet the write `w` and have not gone ahead of their place. -/
def State.waitingHp0 (s : State) (w : HostWrite) : List (Instr × HostWrite) :=
  let all := s.pending.filterMap (fun i => match hostWriteOf i with
    | some x => if x.port = .a ∧ x.meets w then some (i, x) else none
    | none => none)
  s.hp.hoisted.foldl (fun l i => l.eraseP (fun e => e.1 == i)) all

/-- A write of HP0 goes ahead of its place in the queue, where it will then have no effect. -/
def hoist (s : State) (e : Instr × HostWrite) : State :=
  (e.2.act s).modHp (fun h => { h with hoisted := h.hoisted ++ [e.1] })

/-- A host's register write in its place: HP0's come before those of HP1 that they meet. -/
def inOrder (i : Instr) (s : State) : State :=
  match hostWriteOf i with
  | none => s
  | some w =>
    match w.port with
    | .a => if s.hp.hoisted.contains i then s.modHp (fun h => { h with hoisted := h.hoisted.erase i }) else w.act s
    | .b => w.act ((s.waitingHp0 w).foldl hoist s)

/-! ## The commands -/

def execPgReloadWrite (port : Side) (g : Fin 16) (v : BitVec 32) (s : State) : Host.Outcome State Fault Refusal :=
  .next (inOrder (.pgReloadWrite port g v) s)

def execPgNow (port : Side) (g : Fin 16) (s : State) : Host.Outcome State Fault Refusal :=
  .next (inOrder (.pgNow port g) s)

def execPgEnable (port : Side) (g : Fin 16) (en : Bool) (s : State) : Host.Outcome State Fault Refusal :=
  .next (inOrder (.pgEnable port g en) s)

def execPgGo (port : Side) (mask : BitVec 16) (s : State) : Host.Outcome State Fault Refusal :=
  .next (inOrder (.pgGo port mask) s)

def execCmpLoWrite (port : Side) (n : Fin 32) (v : BitVec 32) (s : State) : Host.Outcome State Fault Refusal :=
  .next (inOrder (.cmpLoWrite port n v) s)

def execCmpHiWrite (port : Side) (n : Fin 32) (v : BitVec 32) (s : State) : Host.Outcome State Fault Refusal :=
  .next (inOrder (.cmpHiWrite port n v) s)

def execCmpEnable (port : Side) (n : Fin 32) (en : Bool) (s : State) : Host.Outcome State Fault Refusal :=
  .next (inOrder (.cmpEnable port n en) s)

def execCapCtlWrite (port : Side) (c : Fin 16) (v : BitVec 32) (s : State) : Host.Outcome State Fault Refusal :=
  .next (inOrder (.capCtlWrite port c v) s)

/-- FIRST_VALID_CLEAR. -/
def execFirstValidClear (port : Side) (b : Block) (s : State) : Host.Outcome State Fault Refusal :=
  .next (inOrder (.firstValidClear port b) s)

/-- FR_QUIET_WRITE. -/
def execFrQuietWrite (port : Side) (b : Block) (v : BitVec 32) (s : State) : Host.Outcome State Fault Refusal :=
  .next (inOrder (.frQuietWrite port b v) s)

/-- PEAK_CLR. -/
def execPeakClr (port : Side) (s : State) : Host.Outcome State Fault Refusal := .next (inOrder (.peakClr port) s)

/-- MALF_CLR. -/
def execMalfClr (port : Side) (s : State) : Host.Outcome State Fault Refusal := .next (inOrder (.malfClr port) s)

def execPcrRstArm (port : Side) (s : State) : Host.Outcome State Fault Refusal := .next (inOrder (.pcrRstArm port) s)

def execPcrRstReset (port : Side) (level : BitVec 2) (s : State) : Host.Outcome State Fault Refusal :=
  .next (inOrder (.pcrRstReset port level) s)

/-- CVW_CTL_WRITE. -/
def execCvwCtlWrite (port : Side) (n : Fin 4) (v : BitVec 32) (s : State) : Host.Outcome State Fault Refusal :=
  .next (inOrder (.cvwCtlWrite port n v) s)

/-- CVW_VAL_WRITE (R374). -/
def execCvwValWrite (port : Side) (n : Fin 4) (v : BitVec 32) (s : State) : Host.Outcome State Fault Refusal :=
  .next (inOrder (.cvwValWrite port n v) s)

/-- CVW_FEED: FEED8, FEED16 or FEED32 (R372). -/
def execCvwFeed (port : Side) (n : Fin 4) (width : Fin 3) (v : BitVec 32) (s : State) : Host.Outcome State Fault Refusal :=
  .next (inOrder (.cvwFeed port n width v) s)

/-- CFG_CLAIM. -/
def execCfgClaim (port : Side) (key : BitVec 16) (s : State) : Host.Outcome State Fault Refusal :=
  .next (inOrder (.cfgClaim port key) s)

/-- CFG_RELEASE. -/
def execCfgRelease (port : Side) (key : BitVec 16) (s : State) : Host.Outcome State Fault Refusal :=
  .next (inOrder (.cfgRelease port key) s)

/-- REGISTER_WRITE. -/
def execRegisterWrite (target : Target) (v : BitVec 32) (kind : WriteKind) (s : State) : Host.Outcome State Fault Refusal :=
  .next (if (hostWriteOf (.registerWrite target v kind)).isSome then inOrder (.registerWrite target v kind) s
    else registerWrite target v kind s)

end Sys2Proof.Machine
end

