-- ==== Sys2Proof/Machine/Dispatch.lean ====
section
/-!
DEFINITION. Sys2Proof/Machine/Dispatch.lean: one arm for each command.
-/
namespace Sys2Proof.Machine

/-- The effect of a command on everything but the queue. -/
def exec (i : Instr) (s : State) : Host.Outcome State Fault Refusal :=
  match i with
  | .vlUndervoltage side mv tearA tearB => Sys2Proof.Machine.execVlUndervoltage side mv tearA tearB s
  | .vlOvervoltage side mv => Sys2Proof.Machine.execVlOvervoltage side mv s
  | .vlRange side mv => Sys2Proof.Machine.execVlRange side mv s
  | .vlRestore side mv => Sys2Proof.Machine.execVlRestore side mv s
  | .vfLoss q mv => Sys2Proof.Machine.execVfLoss q mv s
  | .vfOver q mv => Sys2Proof.Machine.execVfOver q mv s
  | .vfRestore q mv => Sys2Proof.Machine.execVfRestore q mv s
  | .bakFail mv => Sys2Proof.Machine.execBakFail mv s
  | .bakEdgeTimeout => Sys2Proof.Machine.execBakEdgeTimeout s
  | .powerOnReset => Sys2Proof.Machine.execPowerOnReset s
  | .porRelease strap => Sys2Proof.Machine.execPorRelease strap s
  | .clockSteady clk => Sys2Proof.Machine.execClockSteady clk s
  | .identityRead => Sys2Proof.Machine.execIdentityRead s
  | .journalReplay bad => Sys2Proof.Machine.execJournalReplay bad s
  | .tableSelect => Sys2Proof.Machine.execTableSelect s
  | .tableLoad => Sys2Proof.Machine.execTableLoad s
  | .fieldStep refOk thrBad calBad => Sys2Proof.Machine.execFieldStep refOk thrBad calBad s
  | .startLimit => Sys2Proof.Machine.execStartLimit s
  | .fatalQuietExpiry => Sys2Proof.Machine.execFatalQuietExpiry s
  | .resetNAssert tearA tearB => Sys2Proof.Machine.execResetNAssert tearA tearB s
  | .resetNRelease => Sys2Proof.Machine.execResetNRelease s
  | .soscWdog side => Sys2Proof.Machine.execSoscWdog side s
  | .clkMon clk => Sys2Proof.Machine.execClkMon clk s
  | .plkLock => Sys2Proof.Machine.execPlkLock s
  | .portClock port => Sys2Proof.Machine.execPortClock port s
  | .strClock side => Sys2Proof.Machine.execStrClock side s
  | .soscFail side stops => Sys2Proof.Machine.execSoscFail side stops s
  | .tbFreqWindow => Sys2Proof.Machine.execTbFreqWindow s
  | .tbCheck drift pair => Sys2Proof.Machine.execTbCheck drift pair s
  | .pcrRstArm port => Sys2Proof.Machine.execPcrRstArm port s
  | .pcrRstReset port level => Sys2Proof.Machine.execPcrRstReset port level s
  | .pcrRstArmTimeout => Sys2Proof.Machine.execPcrRstArmTimeout s
  | .sampleEdge smp => Sys2Proof.Machine.execSampleEdge smp s
  | .scanLaunch core => Sys2Proof.Machine.execScanLaunch core s
  | .rankComplete core errs => Sys2Proof.Machine.execRankComplete core errs s
  | .rankToken close ok => Sys2Proof.Machine.execRankToken close ok s
  | .completionToken ok => Sys2Proof.Machine.execCompletionToken ok s
  | .lagOverrun => Sys2Proof.Machine.execLagOverrun s
  | .scanClose core => Sys2Proof.Machine.execScanClose core s
  | .scanOver core => Sys2Proof.Machine.execScanOver core s
  | .cellExpiry die cell => Sys2Proof.Machine.execCellExpiry die cell s
  | .kerfSignature half core hitT hitC => Sys2Proof.Machine.execKerfSignature half core hitT hitC s
  | .kerfLate half => Sys2Proof.Machine.execKerfLate half s
  | .copyCheckPass die bad => Sys2Proof.Machine.execCopyCheckPass die bad s
  | .pgWrap g => Sys2Proof.Machine.execPgWrap g s
  | .pgReloadWrite port g v => Sys2Proof.Machine.execPgReloadWrite port g v s
  | .pgNow port g => Sys2Proof.Machine.execPgNow port g s
  | .pgEnable port g en => Sys2Proof.Machine.execPgEnable port g en s
  | .pgGo port mask => Sys2Proof.Machine.execPgGo port mask s
  | .cmpLoWrite port n v => Sys2Proof.Machine.execCmpLoWrite port n v s
  | .cmpHiWrite port n v => Sys2Proof.Machine.execCmpHiWrite port n v s
  | .cmpEnable port n en => Sys2Proof.Machine.execCmpEnable port n en s
  | .cmpMatch n => Sys2Proof.Machine.execCmpMatch n s
  | .captureEvent c level => Sys2Proof.Machine.execCaptureEvent c level s
  | .capLoRead port c => Sys2Proof.Machine.execCapLoRead port c s
  | .capCtlWrite port c v => Sys2Proof.Machine.execCapCtlWrite port c v s
  | .inputChange n high chk zone => Sys2Proof.Machine.execInputChange n high chk zone s
  | .inputFilterExpiry n => Sys2Proof.Machine.execInputFilterExpiry n s
  | .ossdBridgeRelease n => Sys2Proof.Machine.execOssdBridgeRelease n s
  | .ossdGapExpiry n => Sys2Proof.Machine.execOssdGapExpiry n s
  | .tpSeenExpiry n => Sys2Proof.Machine.execTpSeenExpiry n s
  | .band n => Sys2Proof.Machine.execBand n s
  | .overvolt n => Sys2Proof.Machine.execOvervolt n s
  | .thrHandover n => Sys2Proof.Machine.execThrHandover n s
  | .thrHandoverTimeout n => Sys2Proof.Machine.execThrHandoverTimeout n s
  | .comparatorDisagree n => Sys2Proof.Machine.execComparatorDisagree n s
  | .pg00Release => Sys2Proof.Machine.execPg00Release s
  | .dipWindowOpen src dip late => Sys2Proof.Machine.execDipWindowOpen src dip late s
  | .dipOffEnd src high late => Sys2Proof.Machine.execDipOffEnd src high late s
  | .dipWindowEnd src => Sys2Proof.Machine.execDipWindowEnd src s
  | .srcOverload src from_ => Sys2Proof.Machine.execSrcOverload src from_ s
  | .srcRetry src persists late => Sys2Proof.Machine.execSrcRetry src persists late s
  | .measurementInstant done samples spares => Sys2Proof.Machine.execMeasurementInstant done samples spares s
  | .axisBufferSwap q => Sys2Proof.Machine.execAxisBufferSwap q s
  | .encoderEdge a p quad => Sys2Proof.Machine.execEncoderEdge a p quad s
  | .level a => Sys2Proof.Machine.execLevel a s
  | .adcClock q => Sys2Proof.Machine.execAdcClock q s
  | .calibrationPass q ofsS ofsC gainS gainC => Sys2Proof.Machine.execCalibrationPass q ofsS ofsC gainS gainC s
  | .calHandover q => Sys2Proof.Machine.execCalHandover q s
  | .calHandoverTimeout q => Sys2Proof.Machine.execCalHandoverTimeout q s
  | .bowStopState out side => Sys2Proof.Machine.execBowStopState out side s
  | .bowHoldTimeout out side => Sys2Proof.Machine.execBowHoldTimeout out side s
  | .switchClosed out side => Sys2Proof.Machine.execSwitchClosed out side s
  | .bowMismatch out side => Sys2Proof.Machine.execBowMismatch out side s
  | .darkTestDue out => Sys2Proof.Machine.execDarkTestDue out s
  | .darkWindowStart q => Sys2Proof.Machine.execDarkWindowStart q s
  | .darkWindowEnd q hi lo hLow iL => Sys2Proof.Machine.execDarkWindowEnd q hi lo hLow iL s
  | .darkForce out => Sys2Proof.Machine.execDarkForce out s
  | .staticCheckStart q => Sys2Proof.Machine.execStaticCheckStart q s
  | .overload out from_ => Sys2Proof.Machine.execOverload out from_ s
  | .short out iH iL from_ => Sys2Proof.Machine.execShort out iH iL from_ s
  | .openLoad out iL from_ => Sys2Proof.Machine.execOpenLoad out iL from_ s
  | .auxSum q sum from_ => Sys2Proof.Machine.execAuxSum q sum from_ s
  | .noOutput out hi limited => Sys2Proof.Machine.execNoOutput out hi limited s
  | .overtemp q from_ => Sys2Proof.Machine.execOvertemp q from_ s
  | .stormExpiry b => Sys2Proof.Machine.execStormExpiry b s
  | .quietExpiry b cause item => Sys2Proof.Machine.execQuietExpiry b cause item s
  | .firstValidClear port b => Sys2Proof.Machine.execFirstValidClear port b s
  | .frQuietWrite port b v => Sys2Proof.Machine.execFrQuietWrite port b v s
  | .peakClr port => Sys2Proof.Machine.execPeakClr port s
  | .malfClr port => Sys2Proof.Machine.execMalfClr port s
  | .registerWrite target v kind => Sys2Proof.Machine.execRegisterWrite target v kind s
  | .portReset port flr => Sys2Proof.Machine.execPortReset port flr s
  | .linkDown port => Sys2Proof.Machine.execLinkDown port s
  | .linkReturn port rate width l1 => Sys2Proof.Machine.execLinkReturn port rate width l1 s
  | .powerStateWrite port d3 => Sys2Proof.Machine.execPowerStateWrite port d3 s
  | .isolatedAccess port off write => Sys2Proof.Machine.execIsolatedAccess port off write s
  | .cfgClaim port key => Sys2Proof.Machine.execCfgClaim port key s
  | .cfgRelease port key => Sys2Proof.Machine.execCfgRelease port key s
  | .msixUnmask port vec => Sys2Proof.Machine.execMsixUnmask port vec s
  | .sqTailDoorbell port n v => Sys2Proof.Machine.execSqTailDoorbell port n v s
  | .cqHeadDoorbell port n v => Sys2Proof.Machine.execCqHeadDoorbell port n v s
  | .descriptorFetch port => Sys2Proof.Machine.execDescriptorFetch port s
  | .descriptorArrival port n bytes => Sys2Proof.Machine.execDescriptorArrival port n bytes s
  | .nop port n => Sys2Proof.Machine.execNop port n s
  | .fence port n => Sys2Proof.Machine.execFence port n s
  | .tableStage port n => Sys2Proof.Machine.execTableStage port n s
  | .tableVerify port n => Sys2Proof.Machine.execTableVerify port n s
  | .tableCommit port n => Sys2Proof.Machine.execTableCommit port n s
  | .modeReq port n => Sys2Proof.Machine.execModeReq port n s
  | .resetReq port n => Sys2Proof.Machine.execResetReq port n s
  | .hresetExpiry port n => Sys2Proof.Machine.execHresetExpiry port n s
  | .snapshot port n => Sys2Proof.Machine.execSnapshot port n s
  | .tallyRead port n => Sys2Proof.Machine.execTallyRead port n s
  | .logRead port n => Sys2Proof.Machine.execLogRead port n s
  | .linkSend port n => Sys2Proof.Machine.execLinkSend port n s
  | .linkDetach port n => Sys2Proof.Machine.execLinkDetach port n s
  | .cvJob port n => Sys2Proof.Machine.execCvJob port n s
  | .fullTest port n => Sys2Proof.Machine.execFullTest port n s
  | .lcSet port n => Sys2Proof.Machine.execLcSet port n s
  | .storeWrite port n => Sys2Proof.Machine.execStoreWrite port n s
  | .storeRead port n => Sys2Proof.Machine.execStoreRead port n s
  | .itemComplete port n xferOk => Sys2Proof.Machine.execItemComplete port n xferOk s
  | .completionPost port n => Sys2Proof.Machine.execCompletionPost port n s
  | .postedTimer port n => Sys2Proof.Machine.execPostedTimer port n s
  | .cqCoalesceTimer port n => Sys2Proof.Machine.execCqCoalesceTimer port n s
  | .sqEnable port n resume => Sys2Proof.Machine.execSqEnable port n resume s
  | .sqDisable port n => Sys2Proof.Machine.execSqDisable port n s
  | .sqErrClear port n => Sys2Proof.Machine.execSqErrClear port n s
  | .cqEnable port n resume => Sys2Proof.Machine.execCqEnable port n resume s
  | .entryWrite port off bytes remBad => Sys2Proof.Machine.execEntryWrite port off bytes remBad s
  | .flipVerdict port => Sys2Proof.Machine.execFlipVerdict port s
  | .landingWrite port off bytes poisoned remBad => Sys2Proof.Machine.execLandingWrite port off bytes poisoned remBad s
  | .remainderRebuild port page => Sys2Proof.Machine.execRemainderRebuild port page s
  | .ackTimeout => Sys2Proof.Machine.execAckTimeout s
  | .ackTap v => Sys2Proof.Machine.execAckTap v s
  | .linkSignalPresent n => Sys2Proof.Machine.execLinkSignalPresent n s
  | .linkSignalLoss n => Sys2Proof.Machine.execLinkSignalLoss n s
  | .linkAligned n => Sys2Proof.Machine.execLinkAligned n s
  | .linkCycle n => Sys2Proof.Machine.execLinkCycle n s
  | .frameReceived n framed bytes => Sys2Proof.Machine.execFrameReceived n framed bytes s
  | .tuneTimeout n => Sys2Proof.Machine.execTuneTimeout n s
  | .linkWatchdog n => Sys2Proof.Machine.execLinkWatchdog n s
  | .lostExpiry n => Sys2Proof.Machine.execLostExpiry n s
  | .detachWindowExpiry n => Sys2Proof.Machine.execDetachWindowExpiry n s
  | .cvwFeed port n width v => Sys2Proof.Machine.execCvwFeed port n width v s
  | .cvwCtlWrite port n v => Sys2Proof.Machine.execCvwCtlWrite port n v s
  | .cvwValWrite port n v => Sys2Proof.Machine.execCvwValWrite port n v s
  | .scrubStep die found => Sys2Proof.Machine.execScrubStep die found s
  | .readScrub => Sys2Proof.Machine.execReadScrub s
  | .storeTimeout store event addr => Sys2Proof.Machine.execStoreTimeout store event addr s
  | .resyncComplete store => Sys2Proof.Machine.execResyncComplete store s
  | .logEntryWrite => Sys2Proof.Machine.execLogEntryWrite s
  | .tallyPublish => Sys2Proof.Machine.execTallyPublish s
  | .wearCheckpoint => Sys2Proof.Machine.execWearCheckpoint s
  | .correctedSummary => Sys2Proof.Machine.execCorrectedSummary s
  | .cruiseSliceStart => Sys2Proof.Machine.execCruiseSliceStart s
  | .cruiseSliceEnd r => Sys2Proof.Machine.execCruiseSliceEnd r s
  | .cruiseLate => Sys2Proof.Machine.execCruiseLate s
  | .cruiseStall => Sys2Proof.Machine.execCruiseStall s
  | .debugHalt => Sys2Proof.Machine.execDebugHalt s
  | .debugResume => Sys2Proof.Machine.execDebugResume s
  | .debugStep => Sys2Proof.Machine.execDebugStep s
  | .debugSysreset => Sys2Proof.Machine.execDebugSysreset s
  | .dbgOpdataWrite v err => Sys2Proof.Machine.execDbgOpdataWrite v err s
  | .extestLoad tap trstN => Sys2Proof.Machine.execExtestLoad tap trstN s
  | .extestExit tap ir trstN => Sys2Proof.Machine.execExtestExit tap ir trstN s
  | .lowHalfRead port space => Sys2Proof.Machine.execLowHalfRead port space s
  | .linkLeavesL0 port => Sys2Proof.Machine.execLinkLeavesL0 port s
  | .residual out r => Sys2Proof.Machine.execResidual out r s
  | .overtempClear q => Sys2Proof.Machine.execOvertempClear q s
  | .levelRestore a => Sys2Proof.Machine.execLevelRestore a s
  | .storeResyncStart store => Sys2Proof.Machine.execStoreResyncStart store s
  | .calibrationWrite => Sys2Proof.Machine.execCalibrationWrite s

end Sys2Proof.Machine
end

