-- ==== Sys2Proof/Machine/Edge.lean ====
section
/-!
DEFINITION. Sys2Proof/Machine/Edge.lean: what the block does on an empty queue (log 1): the tick ends and the next TB edge
comes. Only what a rule puts on the edge itself happens here; every event the table has a row for is a command.
-/
namespace Sys2Proof.Machine

/-- The counts of the time base and of its checking half go on by one (R269, R270); what the tick that ends has left for the
next one's captures is kept (R280). -/
def advanceTime (s : State) : State :=
  s.modTb (fun t => { t with now := t.now + 1, chk := t.chk + 1, faultWas := s.faultLow })

/-- HOLD follows a fatal fault of HALT on the tick after it (R449). -/
def holdAfterHalt (s : State) : State := if s.st.dbg.holdNext then enterHold s else s

/-- HLINK as the tick that ends leaves it, for the snapshot of the next (R18). -/
def keepHlink (s : State) : State :=
  [Side.a, Side.b].foldl (fun s p => s.modHport p (fun h => { h with hlinkWas := s.hlink p })) s

/-- A tick ends: a MODE_REQ of it takes effect (R28), and host accesses whose block's test has ended go on (R435); a reset source
of the tick, and a write of the tick that went ahead of its place (R293), is no longer one of the present tick. Once the TB
domain is released, TB_NOW goes on, the cells take what the closes of the tick have posted (R271), and a HOLD that follows HALT
is entered (R449). The reset of a key sequence of the tick is asserted on the next (R419). -/
def tick (s : State) : State :=
  let s := marchRelease .b (marchRelease .a (applyModeReq s))
  let s := keepHlink ((s.modPcr (fun p => { p with fresh := false })).modHp (fun h => { h with hoisted := [] }))
  assertDue (if s.pcr.clk.tb then holdAfterHalt (takePosts .b (takePosts .a (advanceTime s))) else s)

end Sys2Proof.Machine
end

