-- ==== Sys2Proof/Safety.lean ====
section
/-!
DEFINITION. Sys2Proof/Safety.lean: what the claims call a safe state and a safe step: memories in canonical form, drivers
inhibited outside RUN, and what the entry to HOLD, a system reset and a release of a reset leave behind.
-/
namespace Sys2Proof.Machine

/-- A host port is not held in reset, so its register accesses reach the module (R301). -/
def State.live (s : State) (p : Side) : Prop := (s.hport p).inReset = false

/-- A host's register write acts in its place: no write of HP0 that it meets waits behind it on the tick, and it has not gone
ahead (R285, R293). -/
def State.inTurn (s : State) (i : Instr) : Prop :=
  ∀ w, hostWriteOf i = some w → (w.port = .a → s.hp.hoisted.contains i = false) ∧ (w.port = .b → s.waitingHp0 w = [])

/-- A host's register write reaches a block: from a live port, in its place, and the block's registers are available (R301). -/
def State.reaches (s : State) (p : Side) (b : Block) (i : Instr) : Prop := s.live p ∧ isolated b s = false ∧ s.inTurn i

/-- Nothing waits for the end of the tick: no change of state, no host access behind a test, no key sequence, no HOLD that
follows HALT, and no commands of a close. -/
def State.nothingDue (s : State) : Prop :=
  s.wq.modeReq = none ∧ (∀ p, (s.wport p).held = []) ∧ s.pcr.rstDue = none ∧ s.st.dbg.holdNext = false ∧ s.tb.posts = ⟨none, none⟩

/-- The memories of one core are in canonical form. -/
def CoreSt.memOk (c : Side) (x : CoreSt) : Prop :=
  Memory.wf (maskOf c) x.opMem = true ∧ Memory.wf (maskOf c) x.live = true ∧ Memory.wf (maskOf c) x.fill = true

/-- The memories of one store are in canonical form. -/
def Store.memOk (x : Store) : Prop :=
  Memory.wf 0 x.slot.a.bytes = true ∧ Memory.wf 0 x.slot.b.bytes = true ∧ Memory.wf 0 x.user = true

/-- The memories of one port are in canonical form: landing SRAM, page remainders, host memory as written, and its
host image. -/
def State.portMemOk (s : State) (p : Side) : Prop :=
  Memory.wf 0 (s.wport p).landing = true ∧ Memory.wf 0 (s.wport p).rem = true ∧ Memory.wf 0 (s.wport p).host = true ∧
  Memory.wf 0 (s.hport p).image = true ∧ Memory.wf 0 (s.hport p).imagePrev = true

/-- Every addressed memory of the module is in canonical form. -/
def State.memOk (s : State) : Prop :=
  (∀ c, (s.core c).memOk c) ∧ (∀ i, (s.store i).memOk) ∧ (∀ p, s.portMemOk p)

/-- Outside RUN the drivers of both dies are inhibited (R206). -/
def State.driversSafe (s : State) : Prop := s.dev ≠ .run → s.os.inhib = ⟨true, true⟩

/-- Every line of both dies is in the stop state. -/
def State.linesStopped (s : State) : Prop :=
  ∀ (k : Fin 144) (d : Side), ((s.os.out[k] : Output).recv.get d).stopSince.isSome = true

/-- HOLD as its entry leaves it (R26): drivers inhibited with every line stopped, cores stopped, cells idle, sources off and
every link in OFF. -/
def State.inHold (s : State) : Prop :=
  s.dev = .hold ∧ s.os.inhib = ⟨true, true⟩ ∧ s.linesStopped ∧ (∀ c, (s.core c).seq = .stopped) ∧
  (∀ (k : Fin 256), s.tb.master[k] = .idle ∧ s.tb.shadow[k] = .idle) ∧
  (∀ (k : Fin 32), (s.ps.src[k] : Source).on = false) ∧ (∀ (n : Fin 4), (s.pl.port[n] : PlPort).st = .off)

/-- What a store holds that no reset touches (R416): slots but for VERIFIED, journal, logs, calibration and user area. -/
def Store.sameContents (x y : Store) : Prop :=
  y.user = x.user ∧ y.journal = x.journal ∧ y.log = x.log ∧ y.history = x.history ∧ y.cal = x.cal ∧ y.active1 = x.active1 ∧
  y.slot.a.bytes = x.slot.a.bytes ∧ y.slot.b.bytes = x.slot.b.bytes ∧ y.slot.a.gen = x.slot.a.gen ∧ y.slot.b.gen = x.slot.b.gen

/-- A system reset with this cause has been asserted (R415 to R417, R420): RESET with the drivers stopped, TB_NOW and the
faults cleared, the cause recorded and counted, and the stores, the life cycle and the queue as they were. -/
def systemReset (cause : Nat) (s t : State) : Prop :=
  t.dev = .reset ∧ t.pcr.asserted = some .system ∧ t.pcr.level = .system ∧ t.pcr.cause = BitVec.ofNat 8 cause ∧
  t.pcr.since = s.pcr.since ||| BitVec.ofNat 9 (2 ^ (cause - 1)) ∧ t.pcr.bk.a.life = satInc s.pcr.bk.a.life ∧
  t.os.inhib = ⟨true, true⟩ ∧ t.linesStopped ∧ t.tb.now = 0 ∧ (∀ b, (t.frOf b).insts = []) ∧ (∀ c, (t.core c).seq = .stopped) ∧
  t.st.lc = s.st.lc ∧ (∀ i, (s.store i).sameContents (t.store i)) ∧ t.pending = s.pending

/-- No reset is asserted and the PLLs do not lock: the state in which a new reset source stands alone (R420). -/
def State.settled (s : State) : Prop := s.pcr.asserted = none ∧ s.pcr.phase ≠ .pll

/-! ## Work items as the claims name them (R306, R316) -/

/-- The one open item of a ring waits to begin, and nothing of R316 but its opcode's own conditions can refuse it. -/
def State.itemWaits (s : State) (p : Side) (n : Fin 8) (i : Item) (opc : Nat) : Prop :=
  (s.sq p n).items = [i] ∧ i.stage = .accepted ∧ i.skip = false ∧ i.d.opc = opc ∧ s.itemsRun = true ∧ i.d.flags < 4 ∧ i.d.resv = false

/-- LEN, WIN_OFF and HOST_ADDR are 0 (R317). -/
def Desc.noData (d : Desc) : Prop := d.len = 0 ∧ d.winOff = 0 ∧ d.hostAddr = 0

/-- An in item's range of the landing window (R317, R322): inside it, no page of it page 0 or owned by the host. -/
def State.inRangeOk (s : State) (p : Side) (d : Desc) : Prop :=
  1 ≤ d.len ∧ d.hostAddr = 0 ∧ d.winOff + d.len ≤ 0x200000 ∧ (s.wport p).winBad d.winOff d.len = false

/-- An out item's range of host memory holds this many bytes (R317). -/
def Desc.outOk (d : Desc) (size : Nat) : Prop := size ≤ d.len ∧ d.hostAddr + d.len ≤ 2 ^ 64 ∧ d.winOff = 0

/-- The ring holds the item at this stage, and no other ring's items have changed. -/
def State.itemAt (s t : State) (p : Side) (n : Fin 8) (i : Item) (st : Stage) : Prop :=
  (t.sq p n).items = [{ i with stage := st }] ∧ ∀ q m, (q ≠ p ∨ m ≠ n) → t.sq q m = s.sq q m

/-- The same for an item whose transfer takes its time from the present tick on (R372, R515). -/
def State.itemTimed (s t : State) (p : Side) (n : Fin 8) (i : Item) (st : Stage) : Prop :=
  (t.sq p n).items = [{ i with stage := st, mark := s.tb.now.toNat }] ∧ ∀ q m, (q ≠ p ∨ m ≠ n) → t.sq q m = s.sq q m

/-- TAP A takes a shift: TRST_N is high and EXTEST does not stand in its instruction register (R445, R468). -/
def State.tapOpen (s : State) : Prop := s.pcr.trstN = true ∧ s.pcr.extest.a = false

/-- The state with an instruction in TAP A's register, and the debug register that DBG_ADDR names (R446). -/
def State.viaTap (s : State) (ir : BitVec 8) (addr : BitVec 8) : State :=
  { s with pcr := { s.pcr with ir := { s.pcr.ir with a := ir }, dbgAddr := addr } }

/-- A BEGIN record of the item is the last record of every journal that is written (R326). -/
def State.begun (t : State) (p : Side) (n : Fin 8) (i : Item) : Prop :=
  ∀ j, (t.store j).written = true → ∃ r, (t.store j).journal.getLast? = some r ∧ r.type = .begin ∧ r.port = p ∧ r.ring = n ∧
    r.seq = i.d.seq

end Sys2Proof.Machine
end

