-- ==== Sys2Proof/Certificates/Slice0/Obligations.lean ====
section
/-!
DEFINITION. Sys2Proof/Certificates/Slice0/Obligations.lean: the statements about the module: what each command does and
leaves alone, and what every step keeps.
-/
open Sys2Proof Sys2Proof.Machine

/-- A step takes the command at the front of the queue and runs it on the state with the queue's rest. -/
def Obligations.StepRunsTheFrontCommand : Prop :=
  (∀ (c : Instr) (cs : List Instr) (s : State), step { s with pending := c :: cs } = exec c { s with pending := cs }) ∧
  (∀ (s : State) (nbits w : Nat), s.withFetchWord nbits w = s)

/-- The model's choice (log 1): an empty queue ends a tick of 10 ns. -/
def Obligations.StepOnAnEmptyQueueEndsATick : Prop :=
  (∀ s : State, s.pending = [] → ∃ t, step s = .next t ∧ t.pending = []) ∧
  (∀ s : State, s.pending = [] → s.nothingDue →
    ∃ t, step s = .next t ∧
      t = { s with pcr := { s.pcr with fresh := false }, hp := t.hp,
                   tb := { s.tb with now := t.tb.now, chk := t.tb.chk, faultWas := t.tb.faultWas } } ∧
      (∀ p, t.hport p = { s.hport p with hlinkWas := s.hlink p }) ∧ t.hp.owner = s.hp.owner ∧ t.hp.hoisted = [] ∧
      (s.pcr.clk.tb = true → t.tb.now = s.tb.now + 1 ∧ t.tb.chk = s.tb.chk + 1) ∧
      (s.pcr.clk.tb = false → t.tb = s.tb))

/-- Every one of the 184 commands answers a next state from every state. -/
def Obligations.EveryCommandCompletes : Prop := ∀ (c : Instr) (s : State), ∃ t, exec c s = .next t

/-- The queue is the step's alone: no command's effect touches it. -/
def Obligations.NoCommandTouchesTheQueue : Prop := ∀ (c : Instr) (s t : State), exec c s = .next t → t.pending = s.pending

/-- Canonical form: addresses strictly rising, and no entry equal to what an unlisted address reads as. -/
def Obligations.StepKeepsMemoriesCanonical : Prop := ∀ s t : State, s.memOk → step s = .next t → t.memOk

/-- The invariant of StepKeepsMemoriesCanonical holds at reset. -/
def Obligations.ResetMemoriesAreCanonical : Prop := State.reset.memOk

/-- R206 as an invariant over every command: no step leaves a driver free outside RUN. -/
def Obligations.StepKeepsDriversInhibitedOutsideRun : Prop :=
  ∀ s t : State, s.driversSafe → step s = .next t → t.driversSafe

/-- The invariant of StepKeepsDriversInhibitedOutsideRun holds at reset. -/
def Obligations.ResetDriversAreInhibited : Prop := State.reset.driversSafe ∧ State.reset.linesStopped

/-- Reset values the spec gives, one or more for each group of registers. -/
def Obligations.ResetLeavesTheSpecsValues : Prop :=
  State.reset.pending = [] ∧ State.reset.dev = .start ∧ State.reset.tb.now = 0 ∧ State.reset.pcr.cause = 1 ∧
  State.reset.pcr.level = .powerOn ∧ State.reset.pcr.since = 1 ∧ State.reset.pcr.freq = 0x80000000 ∧
  (∀ b : Block, (State.reset.frOf b).slot = none ∧ (State.reset.frOf b).insts = [] ∧ (State.reset.frOf b).cq = 500 ∧
    (State.reset.frOf b).fq = 2000 ∧ (State.reset.frOf b).ien = 0b0110) ∧
  (State.reset.tb.pg[(0 : Fin 16)] : Pg).reload = 9999999 ∧ (State.reset.tb.pg[(1 : Fin 16)] : Pg).reload = 4999999 ∧
  (State.reset.tb.pg[(2 : Fin 16)] : Pg).reload = 999999 ∧ (State.reset.tb.pg[(3 : Fin 16)] : Pg).reload = 0xFFFFFFFF ∧
  (∀ k : Fin 256, State.reset.tb.master[k] = .idle ∧ State.reset.tb.shadow[k] = .idle) ∧
  State.reset.os.inhib = ⟨true, true⟩ ∧ (∀ c, (State.reset.core c).seq = .stopped ∧ (State.reset.core c).pmin = 0xFFFF) ∧
  (∀ p n, (State.reset.sq p n).size = 4 ∧ (State.reset.sq p n).en = false ∧ (State.reset.cq p n).coalN = 1 ∧
    (State.reset.cq p n).startPhase = true) ∧
  (∀ n : Fin 4, (State.reset.pl.port[n] : PlPort).st = .off ∧ (State.reset.cv.ch[n] : Cvw).val = 0xFFFFFFFF) ∧
  State.reset.cv.katS = 0xC00 ∧ State.reset.hp.owner = none ∧ State.reset.st.cruise = false

/-- R250, R255, R265: a corrected fault has no class action. -/
def Obligations.CorrectedFaultIsOnlyCounted : Prop :=
  ∀ (f : FaultRep) (s : State), f.cls = .corrected → s.bad = [] →
    recordFault f s = { s with fr := (recordFault f s).fr, hp := (recordFault f s).hp } ∧
    ((recordFault f s).frOf f.block).cntCorr = satInc (s.frOf f.block).cntCorr ∧
    ((recordFault f s).frOf f.block).insts = (s.frOf f.block).insts ∧
    ((recordFault f s).frOf f.block).cntCont = (s.frOf f.block).cntCont ∧
    ((recordFault f s).frOf f.block).cntFatal = (s.frOf f.block).cntFatal ∧
    (∀ b, b ≠ f.block → (recordFault f s).frOf b = s.frOf b) ∧
    ((s.frOf f.block).slot = none → ∃ e, ((recordFault f s).frOf f.block).slot = some e ∧ e.cls = .corrected ∧
      e.cause = BitVec.ofNat 8 f.cause ∧ e.scope = BitVec.ofNat 4 f.scope ∧ e.addr = BitVec.ofNat 32 f.addr ∧
      e.init = BitVec.ofNat 8 f.init ∧ e.acc = BitVec.ofNat 4 f.acc ∧ e.time = s.tb.now)

/-- R257, R266: after a recording the instance stands in the record. -/
def Obligations.RecordedFaultIsUncleared : Prop :=
  ∀ (f : FaultRep) (s : State), f.cls ≠ .corrected →
    (recordFault f s).uncleared f.block f.cause f.item = true ∧ (recordFault f s).faultLow = true

/-- R250, R255, R257, R261 for a contained fault that is no shared resource's. -/
def Obligations.ContainedFaultIsRecorded : Prop :=
  ∀ (f : FaultRep) (s : State), f.cls = .contained → f.sticky = false → s.bad = [] → resourceOf f.block f.cause f.item = none →
    s.ms.logBuf.length < 256 →
    ((s.frOf f.block).insts.any (fun i => i.cause == f.cause && i.scope == f.scope && i.item == f.item && i.cls == .contained)) = false →
    (∃ i, ((recordFault f s).frOf f.block).insts = (s.frOf f.block).insts ++ [i] ∧ i.cause = f.cause ∧ i.scope = f.scope ∧
      i.item = f.item ∧ i.cls = .contained ∧ i.life = .present ∧ i.conseq = none ∧ i.withheld = true ∧ i.at_ = s.tb.now) ∧
    ((recordFault f s).frOf f.block).cntCont = satInc (s.frOf f.block).cntCont ∧
    ((s.frOf f.block).slot = none → ∃ e, ((recordFault f s).frOf f.block).slot = some e ∧ e.cls = .contained ∧
      e.cause = BitVec.ofNat 8 f.cause ∧ e.scope = BitVec.ofNat 4 f.scope ∧ e.addr = BitVec.ofNat 32 f.addr ∧
      e.init = BitVec.ofNat 8 f.init ∧ e.acc = BitVec.ofNat 4 f.acc ∧ e.time = s.tb.now) ∧
    (∀ b, b ≠ f.block → (recordFault f s).frOf b = s.frOf b) ∧
    (recordFault f s).dev = s.dev ∧ (recordFault f s).os.inhib = s.os.inhib ∧ (recordFault f s).ev = s.ev ∧
    (recordFault f s).tb = s.tb ∧ (recordFault f s).pcr = s.pcr ∧ (recordFault f s).ms.store = s.ms.store

/-- R26, R250: the class action of a fatal fault. -/
def Obligations.FatalFaultEntersHold : Prop :=
  ∀ (f : FaultRep) (s : State), f.cls = .fatal → s.bad = [] → (s.dev = .start ∨ s.dev = .idle ∨ s.dev = .run) →
    (recordFault f s).inHold ∧ (recordFault f s).st.lc = s.st.lc ∧ (recordFault f s).tb.now = s.tb.now ∧
    (recordFault f s).ms.store = s.ms.store ∧ (recordFault f s).wq.port.a.landing = s.wq.port.a.landing ∧
    ((recordFault f s).frOf f.block).cntFatal = satInc (s.frOf f.block).cntFatal

/-- R60, R252, R255: FIRST_VALID_CLEAR, FR_QUIET_WRITE, PEAK_CLR, MALF_CLR. -/
def Obligations.FaultRecordWrites : Prop :=
  (∀ (s : State) (p : Side) (b : Block), s.reaches p b (.firstValidClear p b) →
    ∃ t, exec (.firstValidClear p b) s = .next t ∧ (t.frOf b).insts = (s.frOf b).insts ∧
      ((s.frOf b).lastTick ≠ s.tb.now → (t.frOf b).slot = none) ∧
      ((s.frOf b).lastTick = s.tb.now → (s.frOf b).onTick = 1 →
        (t.frOf b).slot = (s.frOf b).best.map (fun e => { e with concurrent := false })) ∧
      (∀ c, c ≠ b → t.frOf c = s.frOf c) ∧ t = { s with fr := t.fr }) ∧
  (∀ (s : State) (p : Side) (b : Block) (c f : BitVec 16), s.reaches p b (.frQuietWrite p b (f ++ c)) →
    (s.st.lc = .develop ∨ s.st.lc = .commission) → 1 ≤ c.toNat → c.toNat ≤ 60000 → (f = 0 ∨ 100 ≤ f.toNat) → f.toNat ≤ 60000 →
    ∃ t, exec (.frQuietWrite p b (f ++ c)) s = .next t ∧ (t.frOf b).cq = c ∧ (t.frOf b).fq = f ∧
      (∀ d, d ≠ b → t.frOf d = s.frOf d) ∧ t = { s with fr := t.fr, ms := t.ms }) ∧
  (∀ (s : State) (p : Side) (b : Block) (v : BitVec 32), s.reaches p b (.frQuietWrite p b v) → s.st.lc ≠ .develop →
    s.st.lc ≠ .commission →
    ∃ t, exec (.frQuietWrite p b v) s = .next t ∧ (t.hport p).refused = satInc (s.hport p).refused ∧ t = { s with hp := t.hp }) ∧
  (∀ (s : State) (p : Side),
    (s.reaches p .ev (.peakClr p) → exec (.peakClr p) s = .next { s with ev := { s.ev with peakClr := true } }) ∧
    (s.reaches p .ev (.malfClr p) → exec (.malfClr p) s = .next { s with ev := { s.ev with malfClr := true } })) ∧
  (∀ (s : State) (p : Side) (b : Block) (v : BitVec 32), s.live p → isolated b s = true → s.inTurn (.firstValidClear p b) →
    s.inTurn (.frQuietWrite p b v) →
    ∃ t, exec (.firstValidClear p b) s = .next t ∧ exec (.frQuietWrite p b v) s = .next t ∧
      (t.hport p).disc = satInc (s.hport p).disc ∧ t = { s with hp := t.hp })

/-- R257, R258, R261: QUIET_EXPIRY and STORM_EXPIRY. -/
def Obligations.QuietPeriodEndsAFault : Prop :=
  (∀ (s : State) (i : FaultInst) (q : Tick), (s.frOf .ib).insts = [i] → i.cls = .contained → i.conseq = none → i.cause ≠ 1 →
    i.life = .quiet q → 100000 * (s.frOf .ib).cq.toNat ≤ elapsed s.tb.now q → s.bad = [] → (s.frOf .ib).recovAt.length < 7 →
    s.ms.logBuf.length < 256 →
    ∃ t, exec (.quietExpiry .ib i.cause i.item) s = .next t ∧ (t.frOf .ib).insts = [] ∧
      (t.frOf .ib).recovTotal = satInc (s.frOf .ib).recovTotal ∧ (∀ b, b ≠ .ib → t.frOf b = s.frOf b) ∧
      t = { s with fr := t.fr, hp := t.hp, ms := { s.ms with logBuf := t.ms.logBuf } }) ∧
  (∀ (s : State) (b : Block), ∃ t, exec (.stormExpiry b) s = .next t ∧ t = { s with fr := t.fr, hp := t.hp } ∧
      (t.frOf b).insts = (s.frOf b).insts.map (fun i =>
        if i.withheld = true ∧ 2000 ≤ elapsed s.tb.now i.at_ then { i with withheld := false } else i) ∧
      (∀ c, c ≠ b → t.frOf c = s.frOf c))

/-- R276: PG_NOW. -/
def Obligations.GeneratorNowRestartsThePeriod : Prop :=
  ∀ (s : State) (p : Side) (g : Fin 16), s.reaches p .tb (.pgNow p g) → 3 ≤ g.val →
    ∃ t, exec (.pgNow p g) s = .next t ∧ (t.tb.pg[g] : Pg).base = s.tb.now ∧ (t.tb.pg[g] : Pg).stopped = 0 ∧
      (t.tb.pg[g] : Pg).pendAt = none ∧ (t.tb.pg[g] : Pg).en = (s.tb.pg[g] : Pg).en ∧
      (t.tb.pg[g] : Pg).reload = (if (s.tb.pg[g] : Pg).pendAt.isSome then (s.tb.pg[g] : Pg).pend else (s.tb.pg[g] : Pg).reload) ∧
      t.tb.pgFlg = s.tb.pgFlg ||| BitVec.ofNat 16 (2 ^ g.val) ∧ (0xA0 + g.val, s.tb.now) ∈ t.tb.events ∧
      (∀ h, h ≠ g → t.tb.pg[h] = s.tb.pg[h]) ∧
      t = { s with tb := { s.tb with pg := t.tb.pg, pgFlg := t.tb.pgFlg, events := t.tb.events }, hp := t.hp }

/-- R277: PG_GO and PG_ENABLE. -/
def Obligations.GeneratorsStartStopAndResume : Prop :=
  (∀ (s : State) (p : Side) (m : BitVec 16), s.reaches p .tb (.pgGo p m) →
    ∃ t, exec (.pgGo p m) s = .next t ∧
      (∀ g : Fin 16, 3 ≤ g.val → m.getLsbD g.val = true →
        (t.tb.pg[g] : Pg).base = s.tb.now ∧ (t.tb.pg[g] : Pg).en = true ∧ (t.tb.pg[g] : Pg).pendAt = none ∧
        (t.tb.pg[g] : Pg).reload = (if (s.tb.pg[g] : Pg).pendAt.isSome then (s.tb.pg[g] : Pg).pend else (s.tb.pg[g] : Pg).reload) ∧
        t.tb.pgFlg.getLsbD g.val = true) ∧
      (∀ g : Fin 16, ¬ (3 ≤ g.val ∧ m.getLsbD g.val = true) → t.tb.pg[g] = s.tb.pg[g]) ∧
      t = { s with tb := { s.tb with pg := t.tb.pg, pgFlg := t.tb.pgFlg, events := t.tb.events }, hp := t.hp }) ∧
  (∀ (s : State) (p : Side) (g : Fin 16) (en : Bool) (x : Pg), s.reaches p .tb (.pgEnable p g en) → 3 ≤ g.val →
    x = (s.tb.pg[g] : Pg).seen s.tb.now →
    ∃ t, exec (.pgEnable p g en) s = .next t ∧
      (x.en = true → en = false → (t.tb.pg[g] : Pg) = { x with en := false, stopped := BitVec.ofNat 32 (elapsed s.tb.now x.base) }) ∧
      (x.en = false → en = true → (t.tb.pg[g] : Pg).en = true ∧ elapsed t.tb.now (t.tb.pg[g] : Pg).base = x.stopped.toNat) ∧
      (x.en = en → (t.tb.pg[g] : Pg) = x) ∧ ((s.tb.pg[g] : Pg).en = en → (s.tb.pg[g] : Pg).due s.tb.now = false → t = s) ∧
      (∀ h, h ≠ g → t.tb.pg[h] = s.tb.pg[h]) ∧
      t = { s with tb := { s.tb with pg := t.tb.pg, pgFlg := t.tb.pgFlg, events := t.tb.events }, hp := t.hp })

/-- R274, R275: PG_RELOAD_WRITE and PG_WRAP. -/
def Obligations.GeneratorReloadAppliesAtTheWrap : Prop :=
  (∀ (s : State) (p : Side) (g : Fin 16) (v : BitVec 32), s.reaches p .tb (.pgReloadWrite p g v) → 3 ≤ g.val → v ≠ 0 →
    ∃ t, exec (.pgReloadWrite p g v) s = .next t ∧
      (t.tb.pg[g] : Pg) = { (s.tb.pg[g] : Pg).seen s.tb.now with pend := v, pendAt := some s.tb.now } ∧
      (∀ h, h ≠ g → t.tb.pg[h] = s.tb.pg[h]) ∧
      t = { s with tb := { s.tb with pg := t.tb.pg, pgFlg := t.tb.pgFlg, events := t.tb.events }, hp := t.hp }) ∧
  (∀ (s : State) (p : Side) (g : Fin 16), s.reaches p .tb (.pgReloadWrite p g 0) → 3 ≤ g.val → s.bad = [] →
    (s.tb.pg[g] : Pg).due s.tb.now = false →
    ∃ t, exec (.pgReloadWrite p g 0) s = .next t ∧ (t.frOf .tb).cntCorr = satInc (s.frOf .tb).cntCorr ∧
      t = { s with fr := t.fr, hp := t.hp }) ∧
  (∀ (s : State) (p : Side) (g : Fin 16) (v : BitVec 32) (en : Bool), s.reaches p .tb (.pgReloadWrite p g v) →
    s.reaches p .tb (.pgNow p g) → s.reaches p .tb (.pgEnable p g en) → g.val < 3 →
    (∃ t, exec (.pgReloadWrite p g v) s = .next t ∧ exec (.pgNow p g) s = .next t ∧ exec (.pgEnable p g en) s = .next t ∧
      (t.hport p).refused = satInc (s.hport p).refused ∧ t = { s with hp := t.hp })) ∧
  (∀ (s : State) (g : Fin 16), (s.tb.pg[g] : Pg).en = true →
    (s.tb.pg[g] : Pg).reload.toNat + 1 ≤ elapsed s.tb.now (s.tb.pg[g] : Pg).base →
    ∃ t, exec (.pgWrap g) s = .next t ∧ (t.tb.pg[g] : Pg).en = true ∧
      (t.tb.pg[g] : Pg).base = (s.tb.pg[g] : Pg).base + 1 + (s.tb.pg[g] : Pg).reload.zeroExtend 64 ∧
      ((s.tb.pg[g] : Pg).pendAt = none → (t.tb.pg[g] : Pg).reload = (s.tb.pg[g] : Pg).reload) ∧
      (∀ w, (s.tb.pg[g] : Pg).pendAt = some w → w ≠ (t.tb.pg[g] : Pg).base →
        (t.tb.pg[g] : Pg).reload = (s.tb.pg[g] : Pg).pend ∧ (t.tb.pg[g] : Pg).pendAt = none) ∧
      (∀ w, (s.tb.pg[g] : Pg).pendAt = some w → w = (t.tb.pg[g] : Pg).base →
        (t.tb.pg[g] : Pg).reload = (s.tb.pg[g] : Pg).reload ∧ (t.tb.pg[g] : Pg).pendAt = some w) ∧
      (3 ≤ g.val → t.tb.pgFlg = s.tb.pgFlg ||| BitVec.ofNat 16 (2 ^ g.val)) ∧ (g.val = 2 → t.ms.tallyDue = true) ∧
      (∀ h, h ≠ g → t.tb.pg[h] = s.tb.pg[h]) ∧
      t = { s with tb := { s.tb with pg := t.tb.pg, pgFlg := t.tb.pgFlg, events := t.tb.events }, hp := t.hp,
                   st := { s.st with batch := t.st.batch }, ms := { s.ms with tallyDue := t.ms.tallyDue } }) ∧
  (∀ (s : State) (g : Fin 16), (s.tb.pg[g] : Pg).due s.tb.now = false → exec (.pgWrap g) s = .next s)

/-- R279, R286: CMP_LO_WRITE, CMP_HI_WRITE, CMP_ENABLE, CMP_MATCH. -/
def Obligations.CompareChannelsLoadArmAndMatch : Prop :=
  (∀ (s : State) (p : Side) (n : Fin 32) (v : BitVec 32) (en : Bool), s.live p → isolated .tb s = false →
    (s.inTurn (.cmpLoWrite p n v) →
      ∃ t, exec (.cmpLoWrite p n v) s = .next t ∧ (t.tb.cmp[n] : Cmp) = { (s.tb.cmp[n] : Cmp) with lo := v } ∧
        (∀ m, m ≠ n → t.tb.cmp[m] = s.tb.cmp[m]) ∧ t = { s with tb := { s.tb with cmp := t.tb.cmp } }) ∧
    (s.inTurn (.cmpHiWrite p n v) →
      ∃ t, exec (.cmpHiWrite p n v) s = .next t ∧ (t.tb.cmp[n] : Cmp).value = v ++ (s.tb.cmp[n] : Cmp).lo ∧
        (t.tb.cmp[n] : Cmp).en = ((s.tb.cmp[n] : Cmp).seen s.tb.now).en ∧ (t.tb.cmp[n] : Cmp).loadedAt = s.tb.now ∧
        (∀ m, m ≠ n → t.tb.cmp[m] = s.tb.cmp[m]) ∧
        t = { s with tb := { s.tb with cmp := t.tb.cmp, cmpFlg := t.tb.cmpFlg, events := t.tb.events }, hp := t.hp }) ∧
    (s.inTurn (.cmpEnable p n en) →
      ∃ t, exec (.cmpEnable p n en) s = .next t ∧ (t.tb.cmp[n] : Cmp).en = en ∧ (t.tb.cmp[n] : Cmp).value = (s.tb.cmp[n] : Cmp).value ∧
        (en = true → ((t.tb.cmp[n] : Cmp).lateAt.isSome = true ↔ (s.tb.cmp[n] : Cmp).value.toNat ≤ s.tb.now.toNat)) ∧
        (∀ m, m ≠ n → t.tb.cmp[m] = s.tb.cmp[m]) ∧
        t = { s with tb := { s.tb with cmp := t.tb.cmp, cmpFlg := t.tb.cmpFlg, events := t.tb.events }, hp := t.hp })) ∧
  (∀ (s : State) (n : Fin 32), (s.tb.cmp[n] : Cmp).en = true → (s.tb.cmp[n] : Cmp).loadedAt ≠ s.tb.now →
    (s.tb.cmp[n] : Cmp).value.toNat ≤ s.tb.now.toNat →
    ∃ t, exec (.cmpMatch n) s = .next t ∧ (t.tb.cmp[n] : Cmp).en = false ∧ t.tb.cmpFlg = s.tb.cmpFlg ||| BitVec.ofNat 32 (2 ^ n.val) ∧
      (0x80 + n.val, s.tb.now + 1) ∈ t.tb.events ∧
      ((s.tb.cmp[n] : Cmp).lateAt = none → (t.tb.cmp[n] : Cmp).late = (s.tb.cmp[n] : Cmp).late) ∧
      (∀ w, (s.tb.cmp[n] : Cmp).lateAt = some w → w ≠ s.tb.now → (t.tb.cmp[n] : Cmp).late = true) ∧
      (∀ m, m ≠ n → t.tb.cmp[m] = s.tb.cmp[m]) ∧
      t = { s with tb := { s.tb with cmp := t.tb.cmp, cmpFlg := t.tb.cmpFlg, events := t.tb.events }, hp := t.hp }) ∧
  (∀ (s : State) (n : Fin 32), (s.tb.cmp[n] : Cmp).due s.tb.now = false → exec (.cmpMatch n) s = .next s)

/-- R282, R284: CAP_LO_READ and CAP_CTL_WRITE. -/
def Obligations.CaptureQueueReadAndControl : Prop :=
  (∀ (s : State) (p : Side) (c : Fin 16) (e : Word64) (q : List Word64), s.live p → isolated .tb s = false →
    (s.tb.cap[c] : Cap).queue = e :: q →
    ∃ t, exec (.capLoRead p c) s = .next t ∧ (t.hport p).lastRead = some (loHalf e) ∧
      ((t.hport p).holds.find? (fun h => h.1 == 0x750C + 16 * c.val)) = some (0x750C + 16 * c.val, hiHalf e) ∧
      (t.tb.cap[c] : Cap) = { (s.tb.cap[c] : Cap) with queue := q } ∧ (∀ d, d ≠ c → t.tb.cap[d] = s.tb.cap[d]) ∧
      (∃ u, exec (.lowHalfRead p (.bar0 (0x750C + 16 * c.val))) t = .next u ∧ (u.hport p).lastRead = some (hiHalf e)) ∧
      t = { s with tb := { s.tb with cap := t.tb.cap }, hp := t.hp }) ∧
  (∀ (s : State) (p : Side) (c : Fin 16), s.live p → isolated .tb s = false → (s.tb.cap[c] : Cap).queue = [] →
    ∃ t, exec (.capLoRead p c) s = .next t ∧ (t.hport p).lastRead = some 0 ∧
      ((t.hport p).holds.find? (fun h => h.1 == 0x750C + 16 * c.val)) = some (0x750C + 16 * c.val, 0) ∧ t.tb = s.tb ∧
      t = { s with hp := t.hp }) ∧
  (∀ (s : State) (p : Side) (c : Fin 16) (v : BitVec 32), s.reaches p .tb (.capCtlWrite p c v) →
    (v.extractLsb' 0 8).toNat ≤ 0xB6 → v.extractLsb' 10 2 ≠ 3 → v.toNat < 4096 →
    ∃ t, exec (.capCtlWrite p c v) s = .next t ∧ (t.tb.cap[c] : Cap).queue = [] ∧ (t.tb.cap[c] : Cap).ovf = false ∧
      (t.tb.cap[c] : Cap).ovfCnt = (s.tb.cap[c] : Cap).ovfCnt ∧ (t.tb.cap[c] : Cap).src = v.extractLsb' 0 8 ∧
      (t.tb.cap[c] : Cap).edge = v.extractLsb' 8 2 ∧ (t.tb.cap[c] : Cap).tap = v.extractLsb' 10 2 ∧
      (∀ lv, exec (.captureEvent c lv) t = .next t) ∧ (∀ d, d ≠ c → t.tb.cap[d] = s.tb.cap[d]) ∧
      t = { s with tb := { s.tb with cap := t.tb.cap } })

/-- R281, with the drop of R283: CAPTURE_EVENT. -/
def Obligations.CapturedEventIsTickAndLevel : Prop :=
  ∀ (s : State) (c : Fin 16) (lv : Bool), s.pcr.clk.tb = true → (s.tb.cap[c] : Cap).edge ≠ 0 → (s.tb.cap[c] : Cap).setAt ≠ some s.tb.now →
    (s.tb.cap[c] : Cap).lastAt ≠ some s.tb.now → captures (s.tb.cap[c] : Cap) lv s = true →
    ((s.tb.cap[c] : Cap).queue.length < (if s.capReadWaits c then 5 else 4) →
      ∃ t e, exec (.captureEvent c lv) s = .next t ∧
        (t.tb.cap[c] : Cap) = { (s.tb.cap[c] : Cap) with queue := (s.tb.cap[c] : Cap).queue ++ [e], lastAt := some s.tb.now } ∧
        e.extractLsb' 0 63 = s.tb.now.extractLsb' 0 63 ∧ (e.getLsbD 63 = (if (s.tb.cap[c] : Cap).src.toNat < 128 then lv else true)) ∧
        (∀ d, d ≠ c → t.tb.cap[d] = s.tb.cap[d]) ∧ t = { s with tb := { s.tb with cap := t.tb.cap }, hp := t.hp }) ∧
    (4 ≤ (s.tb.cap[c] : Cap).queue.length → s.capReadWaits c = false →
      ∃ t, exec (.captureEvent c lv) s = .next t ∧
        (t.tb.cap[c] : Cap) =
          { (s.tb.cap[c] : Cap) with ovf := true, ovfCnt := satInc (s.tb.cap[c] : Cap).ovfCnt, lastAt := some s.tb.now } ∧
        (∀ d, d ≠ c → t.tb.cap[d] = s.tb.cap[d]) ∧ t = { s with tb := { s.tb with cap := t.tb.cap } })

/-- R270, R271: TB_CHECK and CELL_EXPIRY. -/
def Obligations.TimeBaseCheckAndCellExpiry : Prop :=
  (∀ (s : State) (k : Int) (d : Int), s.pcr.clk.tb = true → s.tb.now.toNat % 1000 = 0 → s.tb.checkAt ≠ some s.tb.now →
    d = (s.tb.chk + BitVec.ofInt 64 k - s.tb.now).toInt →
    (d.natAbs ≤ 2 → exec (.tbCheck k (some (0, 0))) s =
      .next { s with tb := { s.tb with checkAt := some s.tb.now, chk := s.tb.chk + BitVec.ofInt 64 k, chkDiff := BitVec.ofInt 32 d,
                                       chkOk := true } }) ∧
    (2 < d.natAbs → ∃ t, exec (.tbCheck k (some (0, 0))) s = .next t ∧ t.tb.chkOk = false ∧ t.uncleared .tb 1 0 = true ∧
      t.tb.chkDiff = BitVec.ofInt 32 d) ∧
    (∀ x y : BitVec 64, x ≠ y → ∃ t, exec (.tbCheck k (some (x, y))) s = .next t ∧ t.tb.chkOk = false ∧ t.uncleared .tb 1 0 = true)) ∧
  (∀ (s : State) (k : Int), s.pcr.clk.tb = true → s.tb.now.toNat % 1000 = 20 → s.tb.checkAt ≠ some (s.tb.now - 20) →
    ∃ t, exec (.tbCheck k none) s = .next t ∧ t.tb.chkOk = false ∧ t.uncleared .tb 1 0 = true) ∧
  (∀ (s : State) (k : Int) (pr : Option (BitVec 64 × BitVec 64)), s.tb.now.toNat % 1000 ≠ 0 → s.tb.now.toNat % 1000 ≠ 20 →
    exec (.tbCheck k pr) s = .next s) ∧
  (∀ (s : State) (d : Side) (k : Fin 256) (at_ : Tick) (n : Nat),
    (match d with | .a => s.tb.master[k] | .b => s.tb.shadow[k]) = Cell.running at_ n →
    (at_.toNat ≤ s.tb.now.toNat →
      ∃ t, exec (.cellExpiry d k) s = .next t ∧ (match d with | .a => t.tb.master[k] | .b => t.tb.shadow[k]) = Cell.expired ∧
        (∀ j, j ≠ k → t.tb.master[j] = s.tb.master[j] ∧ t.tb.shadow[j] = s.tb.shadow[j]) ∧
        t = { s with tb := { s.tb with master := t.tb.master, shadow := t.tb.shadow } }) ∧
    (s.tb.now.toNat < at_.toNat →
      ∃ t, exec (.cellExpiry d k) s = .next t ∧ t.tb.master[k] = s.tb.master[k] ∧ t.tb.shadow[k] = s.tb.shadow[k]))

/-- R36 to R40: SAMPLE_EDGE. -/
def Obligations.SampleEdgeSealsOneSnapshot : Prop :=
  ∀ (s : State) (smp : Sample), s.sampleDue = true →
    ∃ t, exec (.sampleEdge smp) s = .next t ∧ t.ev.nextSnap = s.ev.nextSnap + 1 ∧ t.ev.sampleAt = some s.tb.now ∧
      (∀ c, (t.core c).sealed = some s.ev.nextSnap ∧ (t.core c).live = (s.core c).live ∧ (t.core c).liveCv = (s.core c).liveCv ∧
        (t.core c).opMem = (s.core c).opMem) ∧
      (s.split = false → (t.core .a).fillCv = (t.core .b).fillCv) ∧
      (smp.hitA = [] → mget 0 (t.core .a).fill 0x300 = loHalf s.tb.now ∧ mget 0 (t.core .a).fill 0x302 = BitVec.ofNat 32 s.ev.nextSnap) ∧
      (smp.hitB = [] → mget 0xFFFFFFFF (t.core .b).fill 0x300 = ~~~loHalf s.tb.now) ∧
      t.tb.now = s.tb.now ∧ t.st.lc = s.st.lc

/-- R36, R38, R42, R454: SCAN_LAUNCH. -/
def Obligations.LaunchSwapsBanksOrRecordsSnapCheck : Prop :=
  (∀ (s : State) (n : Nat) (u : Tick), (s.core .a).seq = .wait → (s.core .a).sealed = some n → n = (s.core .a).expect →
    s.ev.sampleAt = some u → 8 ≤ elapsed s.tb.now u → snapCheck n (snapWords .a (s.core .a).fill) = (s.core .a).fillCv →
    (s.split = true ∨ ((s.core .a).closed ≤ (s.core .b).closed ∧ s.ev.issuedA < s.ev.completedB + 24 ∧ s.gateB 0 = false)) →
    0 < (s.core .a).ranks → s.st.ack = none →
    (s.mayHalt = false ∨ (s.st.dbg.pendHalt = false ∧ ∀ k : Fin 4, (s.st.dbg.brks[k] : Brk).en = false)) → (s.core .b).seq = .wait →
    ∃ t, exec (.scanLaunch .a) s = .next t ∧ (t.core .a).live = (s.core .a).fill ∧ (t.core .a).fill = (s.core .a).live ∧
      (t.core .a).liveIdx = !(s.core .a).liveIdx ∧ (t.core .a).scan = n ∧ (t.core .a).expect = n + 1 ∧ (t.core .a).seq = .scan ∧
      (t.core .a).rank = 0 ∧ (t.core .a).issued = true ∧ (t.core .a).sealed = none ∧ t.core .b = s.core .b ∧
      t.ev.issuedA = s.ev.issuedA + 1 ∧ t = { s with ev := t.ev, st := { s.st with dbg := t.st.dbg } }) ∧
  (∀ (s : State) (n : Nat) (u : Tick), s.split = true → (s.core .b).seq = .wait → (s.core .b).sealed = some n → n = (s.core .b).expect →
    s.ev.sampleAt = some u → 8 ≤ elapsed s.tb.now u → snapCheck n (snapWords .b (s.core .b).fill) = (s.core .b).fillCv →
    0 < (s.core .b).ranks → s.st.ack = none → s.st.dbg.haltA = false → s.st.dbg.queue = [] →
    ∃ t, exec (.scanLaunch .b) s = .next t ∧ (t.core .b).live = (s.core .b).fill ∧ (t.core .b).fill = (s.core .b).live ∧
      (t.core .b).liveIdx = !(s.core .b).liveIdx ∧ (t.core .b).scan = n ∧ (t.core .b).expect = n + 1 ∧ (t.core .b).seq = .scan ∧
      (t.core .b).rank = 0 ∧ (t.core .b).issued = true ∧ (t.core .b).sealed = none ∧ t.core .a = s.core .a ∧
      t = { s with ev := { s.ev with core := t.ev.core } }) ∧
  (∀ (s : State) (n : Nat) (u : Tick), (s.core .a).seq = .wait → (s.core .a).sealed = some n → s.ev.sampleAt = some u →
    8 ≤ elapsed s.tb.now u → s.split = false → (s.core .b).closed < (s.core .a).closed → s.ev.waitSince = none →
    exec (.scanLaunch .a) s = .next { s with ev := { s.ev with launchHeld := true, waitSince := some s.tb.now } }) ∧
  (∀ s : State, s.split = false → (s.core .b).seq = .wait → s.gateB 0 = false → exec (.scanLaunch .b) s = .next s) ∧
  (∀ (s : State) (c : Side) (n : Nat) (u : Tick), (s.core c).seq = .wait → (s.core c).sealed = some n → s.ev.sampleAt = some u →
    8 ≤ elapsed s.tb.now u → (s.split = true ∨ (c = .a ∧ (s.core .a).closed ≤ (s.core .b).closed)) → s.bad = [] →
    (s.dev = .idle ∨ s.dev = .run) →
    (snapCheck n (snapWords c (s.core c).fill) ≠ (s.core c).fillCv ∨ n ≠ (s.core c).expect) →
    ∃ t, exec (.scanLaunch c) s = .next t ∧ (t.core c).live = (s.core c).live ∧ t.uncleared .ev 3 0 = true ∧ t.dev = .hold ∧
      t.os.inhib = ⟨true, true⟩)

/-- R33, R34: RANK_COMPLETE. -/
def Obligations.RankCompleteWritesResults : Prop :=
  (∀ (s : State) (tab : Table), (s.core .a).table = some tab → (s.core .a).seq = .scan → (s.core .a).issued = true →
    (runRank .a tab (s.core .a)).faults = [] → (s.mayHalt = false ∨ ∀ w : Fin 2, (s.st.dbg.wps[w] : Wp).en = false) →
    s.st.dbg.step = false →
    (tab.ranks = (s.core .a).rank + 1 →
      ∃ t, exec (.rankComplete .a []) s = .next t ∧ t.core .a = { (runRank .a tab (s.core .a)).core with seq := .close } ∧
        (t.core .a).rank = (s.core .a).rank + 1 ∧ (t.core .a).issued = false ∧ t.core .b = s.core .b ∧
        t = { s with ev := { s.ev with core := t.ev.core } }) ∧
    ((s.core .a).rank + 1 < tab.ranks → (s.split = true ∨ s.ev.issuedA < s.ev.completedB + 24) → (s.core .b).seq = .close →
      (s.mayHalt = false ∨ (s.st.dbg.pendHalt = false ∧ ∀ k : Fin 4, (s.st.dbg.brks[k] : Brk).en = false)) →
      ∃ t, exec (.rankComplete .a []) s = .next t ∧ t.core .a = { (runRank .a tab (s.core .a)).core with issued := true } ∧
        t.ev.issuedA = s.ev.issuedA + 1)) ∧
  (∀ (s : State) (tab : Table), (s.core .b).table = some tab → (s.core .b).seq = .scan → (s.core .b).issued = true →
    (runRank .b tab (s.core .b)).faults = [] → s.st.dbg.haltA = false → tab.ranks = (s.core .b).rank + 1 →
    ∃ t, exec (.rankComplete .b []) s = .next t ∧ t.core .b = { (runRank .b tab (s.core .b)).core with seq := .close } ∧
      (t.core .b).rank = (s.core .b).rank + 1 ∧ (t.core .b).issued = false ∧ t.core .a = s.core .a ∧
      t = { s with ev := { s.ev with core := t.ev.core } }) ∧
  (∀ (s : State) (tab : Table) (c : Side) (a acc : Nat), (s.core c).table = some tab → (s.core c).seq = .scan → (s.core c).issued = true →
    (runRank c tab (s.core c)).faults = [] → s.mayHalt = false → s.st.dbg.step = false → s.st.dbg.haltA = false → s.bad = [] →
    tab.ranks = (s.core c).rank + 1 →
    ∃ t, exec (.rankComplete c [⟨false, a, acc⟩]) s = .next t ∧ t.core c = { (runRank c tab (s.core c)).core with seq := .close } ∧
      (t.frOf .ev).cntCorr = satInc (s.frOf .ev).cntCorr ∧ t.core c.other = s.core c.other ∧
      t = { s with ev := { s.ev with core := t.ev.core }, fr := t.fr, hp := t.hp }) ∧
  (∀ (s : State) (c : Side) (tab : Table) (a acc : Nat), (s.core c).table = some tab → (s.core c).seq = .scan →
    (s.core c).issued = true → s.bad = [] → (s.dev = .idle ∨ s.dev = .run) →
    ∃ t, exec (.rankComplete c [⟨true, a, acc⟩]) s = .next t ∧ (t.core c).rank = (s.core c).rank ∧ (t.core c).sig = (s.core c).sig ∧
      (t.core c).opMem = (s.core c).opMem ∧ t.uncleared .ev 1 0 = true ∧ t.dev = .hold)

/-- R46, R47, R52: RANK_TOKEN, COMPLETION_TOKEN, LAG_OVERRUN, SCAN_OVER. -/
def Obligations.TokensAndScanLimits : Prop :=
  (∀ s : State, s.split = false → ((s.core .b).seq = .close ∨ (s.core .b).seq = .halted ∨ ((s.core .b).seq = .scan ∧ (s.core .b).issued = true) ∨
      ((s.core .b).seq = .wait ∧ (s.core .b).sealed = none)) →
    (s.ev.tokensIn < s.ev.issuedA → exec (.rankToken false true) s =
      .next { s with ev := { s.ev with tokens := s.ev.tokens + 1, tokensIn := s.ev.tokensIn + 1 } }) ∧
    exec (.rankToken true true) s = .next { s with ev := { s.ev with closeTokens := s.ev.closeTokens + 1 } } ∧
    (s.ev.completedB < s.ev.issuedA →
      ((s.core .a).seq = .wait ∨ (s.core .a).seq = .close ∨ (s.core .a).seq = .halted ∨ ((s.core .a).seq = .scan ∧ (s.core .a).issued = true)) →
      exec (.completionToken true) s = .next { s with ev := { s.ev with completedB := s.ev.completedB + 1 } })) ∧
  (∀ s : State, s.split = false → (s.core .b).seq = .scan → (s.core .b).issued = false → (s.core .b).rank < (s.core .b).ranks →
    s.st.dbg.haltA = false → s.st.dbg.queue = [] → s.ev.tokensIn < s.ev.issuedA → (s.core .b).rank + 16 ≤ s.ev.tokens + 1 →
    ∃ t, exec (.rankToken false true) s = .next t ∧ t.core .b = { s.core .b with issued := true } ∧ t.core .a = s.core .a ∧
      t.ev.tokens = s.ev.tokens + 1 ∧ t = { s with ev := t.ev }) ∧
  (∀ s : State, s.split = false → (s.core .a).seq = .scan → (s.core .a).issued = false → (s.core .a).rank < (s.core .a).ranks →
    s.mayHalt = false → s.ev.completedB < s.ev.issuedA → s.ev.issuedA = s.ev.completedB + 24 → (s.core .b).seq = .close →
    ∃ t, exec (.completionToken true) s = .next t ∧ t.core .a = { s.core .a with issued := true } ∧ t.core .b = s.core .b ∧
      t.ev.issuedA = s.ev.issuedA + 1 ∧ t.ev.waitSince = none ∧ t = { s with ev := t.ev, st := { s.st with dbg := t.st.dbg } }) ∧
  (∀ (s : State) (close : Bool), s.split = false → (s.core .a).seq ≠ .stopped → (s.core .b).seq ≠ .stopped → s.bad = [] →
    (s.dev = .idle ∨ s.dev = .run) →
    (∃ t, exec (.rankToken close false) s = .next t ∧ t.uncleared .ev 2 0 = true ∧ t.inHold) ∧
    (∃ t, exec (.completionToken false) s = .next t ∧ t.uncleared .ev 2 0 = true ∧ t.inHold) ∧
    (s.ev.issuedA ≤ s.ev.tokensIn → ∃ t, exec (.rankToken false true) s = .next t ∧ t.uncleared .ev 2 0 = true ∧ t.inHold) ∧
    (s.ev.issuedA ≤ s.ev.completedB → ∃ t, exec (.completionToken true) s = .next t ∧ t.uncleared .ev 2 0 = true ∧ t.inHold)) ∧
  (∀ s : State, s.bad = [] → (s.dev = .idle ∨ s.dev = .run) →
    ((∃ u, s.ev.waitSince = some u ∧ 16 < elapsed s.tb.now u) →
      ∃ t, exec .lagOverrun s = .next t ∧ t.uncleared .ev 6 0 = true ∧ t.inHold) ∧
    ((∀ u, s.ev.waitSince = some u → elapsed s.tb.now u ≤ 16) → exec .lagOverrun s = .next s)) ∧
  (∀ (s : State) (c : Side) (tab : Table) (u : Tick), (s.core c).table = some tab → (s.core c).timed = some u →
    (s.core c).seq ≠ .stopped → (s.core c).overRec = false →
    (tab.scanMax + 1 ≤ elapsed s.tb.now u → s.bad = [] → (s.dev = .idle ∨ s.dev = .run) →
      ∃ t, exec (.scanOver c) s = .next t ∧ t.uncleared .ev 4 0 = true ∧ t.inHold) ∧
    (elapsed s.tb.now u ≤ tab.scanMax → exec (.scanOver c) s = .next s))

/-- R42, R52, R53, R242, R243, R271: SCAN_CLOSE and the TB edge after it. -/
def Obligations.CloseEndsTheScan : Prop :=
  (∀ (s : State) (c : Side) (tab : Table) (u : Tick), (s.core c).table = some tab → (s.core c).seq = .close → (s.core c).timed = some u →
    (s.dev = .idle ∨ s.dev = .run) → s.split = false → (s.core c).overRec = false →
    tab.scanMin ≤ elapsed s.tb.now u → elapsed s.tb.now u ≤ tab.scanMax → s.ev.peakClr = false → s.ev.malfClr = false →
    s.pl.differed = false → (c = .b → s.ev.launchHeld = false) →
    ∃ t, exec (.scanClose c) s = .next t ∧ (t.core c).seq = .wait ∧ (t.core c).closed = (s.core c).closed + 1 ∧
      (t.core c).per = BitVec.ofNat 16 (elapsed s.tb.now u) ∧ (t.core c).timed = some s.tb.now ∧
      ((s.core c).kerfScans + 1 < tab.kerf →
        (t.core c).sig = sigFold (s.core c).sig (BitVec.ofNat 64 (tab.ranks * 2 ^ 32 + (s.core c).liveCv.toNat)) ∧
        (t.core c).kerfScans = (s.core c).kerfScans + 1 ∧ t.sc = s.sc) ∧
      (tab.kerf ≤ (s.core c).kerfScans + 1 →
        (t.core c).sig = tab.seed ^^^ BitVec.ofNat 64 ((s.core c).scan + 1) ∧ (t.core c).kerfScans = 0 ∧
        (t.core c).kerf = (s.core c).kerf + 1 ∧
        t.sc.flight = s.sc.flight ++
          [(.a, c, (s.core c).kerf, sigFold (s.core c).sig (BitVec.ofNat 64 (tab.ranks * 2 ^ 32 + (s.core c).liveCv.toNat))),
           (.b, c, (s.core c).kerf, sigFold (s.core c).sig (BitVec.ofNat 64 (tab.ranks * 2 ^ 32 + (s.core c).liveCv.toNat)))]) ∧
      t.tb.posts.get c = some ((s.core c).scan, cellCommands c (s.core c)) ∧ t.tb.master = s.tb.master ∧ t.tb.shadow = s.tb.shadow ∧
      t.core c.other = s.core c.other ∧ t.dev = s.dev ∧ t.fr = s.fr ∧ t.ms.store = s.ms.store) ∧
  (∀ (s : State) (n : Nat) (cmds : List (Nat × Nat)), s.pending = [] → s.pcr.clk.tb = true → s.wq.modeReq = none →
    (∀ p, (s.wport p).held = []) → s.pcr.rstDue = none → s.st.dbg.holdNext = false → s.tb.posts = ⟨some (n, cmds), none⟩ →
    (∀ e ∈ cmds, e.2 ≤ 100000000) →
    ∃ t, step s = .next t ∧ t.tb.now = s.tb.now + 1 ∧ t.tb.posts = ⟨none, none⟩ ∧
      (∀ k : Fin 256, t.tb.master[k] = Cell.post (s.tb.now + 1) (postedTo cmds k.val) s.tb.master[k]) ∧ t.tb.shadow = s.tb.shadow ∧
      t.fr = s.fr ∧ t.dev = s.dev)

/-- R203, R206: what SCAN_CLOSE does to the bowing lines. -/
def Obligations.CloseStopsUncommandedLines : Prop :=
  ∀ (s : State) (c : Side) (tab : Table) (u : Tick) (k : Fin 144), (s.core c).table = some tab → (s.core c).seq = .close →
    (s.core c).timed = some u → (s.dev = .idle ∨ s.dev = .run) → s.split = false → (s.core c).overRec = false →
    tab.scanMin ≤ elapsed s.tb.now u → elapsed s.tb.now u ≤ tab.scanMax → s.pl.differed = false →
    (c = .b → s.ev.launchHeld = false) →
    ∃ t, exec (.scanClose c) s = .next t ∧
      (tru ((s.core c).peek c (0x400 + k.val)) = false → ((t.os.out[k] : Output).recv.get c).stopSince.isSome = true) ∧
      (t.os.inhib.get c = true → ((t.os.out[k] : Output).recv.get c).stopSince.isSome = true) ∧
      (t.os.out[k] : Output).cmd.get c = ((s.outputCfg k).enable && tru ((s.core c).peek c (0x400 + k.val))) ∧
      (t.os.out[k] : Output).recv.get c.other = (s.os.out[k] : Output).recv.get c.other ∧
      t.os.inhib.get c.other = s.os.inhib.get c.other

/-- R244, R245, R247: KERF_SIGNATURE and KERF_LATE. -/
def Obligations.KerfSignaturesAreCompared : Prop :=
  (∀ (s : State) (h : Side) (m : Nat) (a b : Word64) (u : Tick), s.comparesSent = true → s.sc.flight = [(h, .b, m, b)] →
    (s.sc.half.get h).heldA = [(m, a, u)] → (s.sc.half.get h).heldB = [] →
    (∀ v ∈ (s.sc.half.get h.other).verdicts, v.1 ≠ m) →
    ∃ t, exec (.kerfSignature h .b 0 0) s = .next t ∧ t.sc.flight = [] ∧ (t.sc.half.get h).heldA = [] ∧ (t.sc.half.get h).heldB = [] ∧
      (a = b → t.fr = s.fr ∧ t.os = s.os ∧ t.dev = s.dev ∧ (t.sc.half.get h).mis = (s.sc.half.get h).mis ∧
        (h = .a → s.sc.frozen = false → t.sc.kok = true ∧ t.sc.knum = s.sc.knum + 1 ∧ t.sc.sigA = a ∧ t.sc.sigB = b)) ∧
      (a ≠ b → (t.sc.half.get h).mis = true ∧ t.os.inhib.get h = true ∧ t.uncleared .sc 4 0 = true)) ∧
  (∀ (s : State) (h c : Side) (m : Nat) (sig hit : Word64), s.comparesSent = true → s.sc.flight = [(h, c, m, sig)] → hit ≠ 0 →
    ∃ t, exec (.kerfSignature h c hit 0) s = .next t ∧ t.uncleared .sc 3 0 = true) ∧
  (∀ (s : State) (h : Side) (m : Nat) (sig : Word64) (u : Tick), s.comparesNow = true →
    ((s.sc.half.get h).heldA = [(m, sig, u)] ∨ (s.sc.half.get h).heldB = [(m, sig, u)]) → s.kerfLimit ≤ elapsed s.tb.now u →
    ∃ t, exec (.kerfLate h) s = .next t ∧ t.uncleared .sc 5 0 = true)

/-- R253: COPY_CHECK_PASS. -/
def Obligations.CopyCheckFindsBadPairs : Prop :=
  (∀ (s : State) (d : Side), s.pcr.clk.tb = true → s.sc.passAt.get d ≠ some s.tb.now → s.tb.now.toNat % 512 = 0 →
    ∃ t, exec (.copyCheckPass d []) s = .next t ∧
      t = { s with sc := { s.sc with started := t.sc.started, done := t.sc.done, chkCnt := t.sc.chkCnt, passAt := t.sc.passAt } } ∧
      t.sc.started.get d = true ∧ t.sc.passAt.get d = some s.tb.now ∧
      (s.sc.started.get d = true → s.sc.done.get d.other = true → t.sc.chkCnt = satInc s.sc.chkCnt ∧ t.sc.done = ⟨false, false⟩)) ∧
  (∀ (s : State) (d : Side) (b : Fin 14) (w : Fin 32), s.pcr.clk.tb = true → s.sc.passAt.get d ≠ some s.tb.now →
    s.checksCopy d b = true → b ≠ Block.sc.idx →
    ∃ t, exec (.copyCheckPass d [(b, w)]) s = .next t ∧ t.os.inhib = ⟨true, true⟩ ∧ t.linesStopped ∧ t.sc.copyInhibit = true ∧
      t.uncleared .sc 1 0 = true) ∧
  (∀ (s : State) (d : Side), s.tb.now.toNat % 512 ≠ 0 → exec (.copyCheckPass d []) s = .next s)

/-- R204, R205, R207, R209: BOW_STOP_STATE, BOW_HOLD_TIMEOUT, SWITCH_CLOSED. -/
def Obligations.ReceiversOpenAndClose : Prop :=
  (∀ (s : State) (k : Fin 144) (d : Side) (u : Tick),
    (((s.os.out[k] : Output).recv.get d).stopSince = some u → (if 128 ≤ k.val then 50 else 1) ≤ elapsed s.tb.now u →
      ∃ t, exec (.bowStopState k d) s = .next t ∧ ((t.os.out[k] : Output).recv.get d).closed = false ∧
        ((t.os.out[k] : Output).recv.get d).toggles = 0 ∧ (t.os.out[k] : Output).energisedAt = none ∧
        (t.os.out[k] : Output).recv.get d.other = (s.os.out[k] : Output).recv.get d.other ∧
        (∀ j, j ≠ k → t.os.out[j] = s.os.out[j]) ∧ t = { s with os := { s.os with out := t.os.out, q := t.os.q } }) ∧
    (((s.os.out[k] : Output).recv.get d).toggledAt = some u → 340 ≤ elapsed s.tb.now u →
      ∃ t, exec (.bowHoldTimeout k d) s = .next t ∧ ((t.os.out[k] : Output).recv.get d).closed = false ∧
        ((t.os.out[k] : Output).recv.get d).toggles = 0 ∧ (t.os.out[k] : Output).energisedAt = none ∧
        (t.os.out[k] : Output).recv.get d.other = (s.os.out[k] : Output).recv.get d.other ∧
        (∀ j, j ≠ k → t.os.out[j] = s.os.out[j]) ∧ t = { s with os := { s.os with out := t.os.out, q := t.os.q } })) ∧
  (∀ (s : State) (k : Fin 144) (d : Side) (u : Tick), 4 ≤ ((s.os.out[k] : Output).recv.get d).toggles →
    ((s.os.out[k] : Output).recv.get d).closed = false → ((s.os.out[k] : Output).recv.get d).stopSince = none →
    ((s.os.out[k] : Output).recv.get d).fourthAt = some u →
    (30 ≤ elapsed s.tb.now u →
      ∃ t, exec (.switchClosed k d) s = .next t ∧ ((t.os.out[k] : Output).recv.get d).closed = true ∧
        (t.os.out[k] : Output).recv.get d.other = (s.os.out[k] : Output).recv.get d.other ∧
        (((s.os.out[k] : Output).recv.get d.other).closed = true → s.openByFault k.val = false →
          (t.os.out[k] : Output).energisedAt = some s.tb.now ∧ (t.os.out[k] : Output).darkSide = .a) ∧
        (∀ j, j ≠ k → t.os.out[j] = s.os.out[j]) ∧ t = { s with os := { s.os with out := t.os.out } }) ∧
    (elapsed s.tb.now u < 30 → exec (.switchClosed k d) s = .next s))

/-- R210, R219, R220, R224, R225: BOW_MISMATCH, OVERLOAD, SHORT, OPEN_LOAD, NO_OUTPUT, AUX_SUM, OVERTEMP, OVERTEMP_CLEAR. -/
def Obligations.OutputFaultsAreRecorded : Prop :=
  (∀ (s : State) (k : Fin 144) (d : Side) (u : Tick), s.switchOn k d = true → ((s.os.out[k] : Output).recv.get d).offSince = some u →
    100 < elapsed s.tb.now u → s.bad = [] → s.dev = .run →
    ∃ t, exec (.bowMismatch k d) s = .next t ∧ t.uncleared .os 1 k.val = true ∧ t.inHold) ∧
  (∀ (s : State) (k : Fin 144) (f e : Tick), k.val < 128 → s.outputOn k = true → (s.os.out[k] : Output).energisedAt = some e →
    elapsed s.tb.now f ≤ elapsed s.tb.now e → 10000 ≤ elapsed s.tb.now f →
    ∃ t, exec (.overload k f) s = .next t ∧ t.uncleared .os 5 k.val = true ∧ t.dev = s.dev ∧ t.os.inhib = s.os.inhib) ∧
  (∀ (s : State) (k : Fin 144) (iH iL : Nat) (f : Tick), 128 ≤ k.val → (s.outputCfg k).enable = true → 1000 ≤ elapsed s.tb.now f →
    ((s.outputCfg k).iMax < iL ∧ (s.outputCfg k).load ≠ 2 ∨ iL + 50 < iH ∨ iH + 50 < iL) →
    ∃ t, exec (.short k iH iL f) s = .next t ∧ t.uncleared .os 6 k.val = true ∧ t.dev = s.dev ∧ t.os.inhib = s.os.inhib) ∧
  (∀ (s : State) (k : Fin 144) (iL : Nat) (f e : Tick), 128 ≤ k.val → s.outputOn k = true → (s.os.out[k] : Output).energisedAt = some e →
    elapsed s.tb.now f ≤ elapsed s.tb.now e → iL < (s.outputCfg k).iMin →
    (if (s.outputCfg k).load = 0 then 100000 else if (s.outputCfg k).load = 1 then 1000000 else 5000000) ≤ elapsed s.tb.now f →
    ∃ t, exec (.openLoad k iL f) s = .next t ∧ t.uncleared .os 8 k.val = true ∧ t.dev = s.dev ∧ t.os.inhib = s.os.inhib) ∧
  (∀ (s : State) (k : Fin 144),
    (∀ (e : Tick), s.outputOn k = true → (s.os.out[k] : Output).energisedAt = some e → 2050 ≤ elapsed s.tb.now e →
      ∃ t, exec (.noOutput k false false) s = .next t ∧ t.uncleared .os 9 k.val = true ∧ t.dev = s.dev ∧ t.os.inhib = s.os.inhib) ∧
    (∀ (hi lim : Bool), (hi = true ∨ lim = true) → exec (.noOutput k hi lim) s = .next s)) ∧
  (∀ (s : State) (q : Fin 4) (m : Nat) (f : Tick), s.configured = true → 2000 < m → 100000 ≤ elapsed s.tb.now f →
    s.uncleared .os 7 q.val = false →
    ∃ t, exec (.auxSum q m f) s = .next t ∧ t.uncleared .os 7 q.val = true ∧ t.dev = s.dev ∧ t.os.inhib = s.os.inhib ∧
      (∀ k : Fin 144, 128 ≤ k.val → quarterOfOutput k.val = q → (t.os.out[k] : Output).rearm = 1 ∧ t.openByFault k.val = true)) ∧
  (∀ (s : State) (q : Fin 4) (f : Tick), s.pcr.clk.tb = true → 100000 ≤ elapsed s.tb.now f →
    ∃ t, exec (.overtemp q f) s = .next t ∧ t.uncleared .os 2 q.val = true ∧ t.dev = s.dev ∧ t.os.inhib = s.os.inhib) ∧
  (∀ (s : State) (q : Fin 4), ∃ t, exec (.overtempClear q) s = .next t ∧ t = { s with fr := t.fr } ∧ (∀ b, b ≠ .os → t.frOf b = s.frOf b) ∧
      (t.frOf .os).insts = (s.frOf .os).insts.map (fun i =>
        if i.cause = 2 ∧ i.item = q.val ∧ i.life = .present ∧ i.cls = .contained then { i with life := .quiet s.tb.now } else i))

/-- R213, R214, R216: DARK_TEST_DUE, DARK_WINDOW_START, DARK_WINDOW_END, DARK_FORCE. -/
def Obligations.DarkTestsRun : Prop :=
  (∀ (s : State) (k : Fin 144), (s.outputCfg k).enable = true → (s.outputCfg k).dark ≠ 0 → (s.os.out[k] : Output).energisedAt.isSome = true →
    s.dev = .run → 100000 * (s.outputCfg k).darkInt ≤ elapsed s.tb.now (s.os.out[k] : Output).darkFrom → (s.os.out[k] : Output).due = none →
    ∃ t, exec (.darkTestDue k) s = .next t ∧ (t.os.out[k] : Output).due = some s.tb.now ∧ (t.os.out[k] : Output).darkFrom = s.tb.now ∧
      ((s.os.out[k] : Output).defer = false → (t.os.out[k] : Output).deferred = none) ∧
      (∀ j, j ≠ k → t.os.out[j] = s.os.out[j]) ∧ t = { s with os := { s.os with out := t.os.out } }) ∧
  (∀ (s : State) (q : Fin 4) (k : Fin 144), s.dev = .run →
    ((s.os.q[q] : OsQuarter).win = none ∨ ∃ w, (s.os.q[q] : OsQuarter).win = some w ∧ w.verdict.isSome = true ∧ w.len ≤ elapsed s.tb.now w.openAt) →
    ((s.os.q[q] : OsQuarter).winEnd = none ∨ ∃ u, (s.os.q[q] : OsQuarter).winEnd = some u ∧ 5000 ≤ elapsed s.tb.now u) →
    s.nextDark q = some k →
    ∃ t, exec (.darkWindowStart q) s = .next t ∧
      (t.os.q[q] : OsQuarter).win = some ⟨k, (s.os.out[k] : Output).darkSide, s.tb.now, 100 * (s.outputCfg k).dark, none⟩ ∧
      (t.os.out[k] : Output).due = none ∧ (t.os.out[k] : Output).darkSide = (s.os.out[k] : Output).darkSide.other ∧
      (t.os.out[k] : Output).recv = (s.os.out[k] : Output).recv ∧ (∀ j, j ≠ k → t.os.out[j] = s.os.out[j]) ∧
      t = { s with os := { s.os with out := t.os.out, q := t.os.q } }) ∧
  (∀ (s : State) (q : Fin 4) (w : DarkWin) (hi lo hLow : Bool) (iL : Nat) (ok : Bool), (s.os.q[q] : OsQuarter).win = some w →
    w.verdict = none → w.len ≤ elapsed s.tb.now w.openAt + 1 → ok = darkPasses (isAux w.out.val) w.side hi lo hLow iL →
    ∃ t, exec (.darkWindowEnd q hi lo hLow iL) s = .next t ∧ (t.os.q[q] : OsQuarter).win = some { w with verdict := some ok } ∧
      (t.os.q[q] : OsQuarter).winEnd = some (w.openAt + BitVec.ofNat 64 w.len) ∧
      (ok = true → (t.os.out[w.out] : Output).darkDone = (s.os.out[w.out] : Output).darkDone + 1 ∧ t.os.darkCnt = satInc s.os.darkCnt ∧
        t = { s with os := t.os }) ∧
      (ok = false → t.uncleared .os 3 w.out.val = true ∧ t.dev = s.dev)) ∧
  (∀ (s : State) (k : Fin 144) (u v : Tick), (s.os.out[k] : Output).due = some u → (s.os.out[k] : Output).deferred = some v →
    (s.os.out[k] : Output).forced = false → 6000000000 ≤ elapsed s.tb.now v →
    ∃ t, exec (.darkForce k) s = .next t ∧ (t.os.out[k] : Output).forced = true ∧ t.os.forcedCnt = satInc s.os.forcedCnt ∧
      (∀ j, j ≠ k → t.os.out[j] = s.os.out[j]) ∧ t = { s with os := { s.os with out := t.os.out, forcedCnt := t.os.forcedCnt } })

/-- R215: STATIC_CHECK_START and RESIDUAL. -/
def Obligations.StaticChecksJudgeReadBacks : Prop :=
  (∀ (s : State) (q : Fin 4), s.quarterOff q 5000 = true →
    ∃ t, exec (.staticCheckStart q) s = .next t ∧ (t.os.q[q] : OsQuarter).static = true ∧ t.dev = s.dev ∧
      (∀ p, p ≠ q → (t.os.q[p] : OsQuarter) = s.os.q[p]) ∧
      (s.ev.sampleAt = none → t = { s with os := { s.os with q := t.os.q } })) ∧
  (∀ (s : State) (k : Fin 144) (r : OutSense), s.staticOn k = true →
    (k.val < 128 → s.outFault 3 k = false → r.hi = true →
      ∃ t, exec (.residual k r) s = .next t ∧ t.uncleared .os 3 k.val = true ∧ t.dev = s.dev) ∧
    (k.val < 128 → r.lo = false → ∃ t, exec (.residual k r) s = .next t ∧ t.uncleared .os 4 k.val = true ∧ t.dev = s.dev) ∧
    (128 ≤ k.val → (20 < r.current ∨ 20 < r.currentH) →
      ∃ t, exec (.residual k r) s = .next t ∧ t.uncleared .os 6 k.val = true ∧ t.dev = s.dev)) ∧
  (∀ (s : State) (k : Fin 144) (r : OutSense), (s.os.q[quarterOfOutput k.val] : OsQuarter).static = false → r.lo = false →
    ∃ t, exec (.residual k r) s = .next t ∧
      (t.os.out[k] : Output) = { (s.os.out[k] : Output) with
        hi := r.hi, termHi := r.termHi, lo := false, current := r.current, currentH := r.currentH } ∧
      (∀ j, j ≠ k → t.os.out[j] = s.os.out[j]) ∧ t = { s with os := { s.os with out := t.os.out } })

/-- R125, R126, R129, R130, R133, R514: INPUT_CHANGE, INPUT_FILTER_EXPIRY, OSSD_BRIDGE_RELEASE, OSSD_GAP_EXPIRY, TP_SEEN_EXPIRY. -/
def Obligations.InputsFilterAndBridge : Prop :=
  (∀ (s : State) (i : Fin 128) (h c : Bool) (z : VoltZone), (s.ib.inp[i] : Input).on = false → (s.ib.inp[i] : Input).live ≠ h →
    ∃ t, exec (.inputChange i h c z) s = .next t ∧ (t.ib.inp[i] : Input).live = h ∧ (t.ib.inp[i] : Input).liveAt = s.tb.now ∧
      (t.ib.inp[i] : Input).chk = c ∧ (t.ib.inp[i] : Input).zone = z ∧ (t.ib.inp[i] : Input).filt = (s.ib.inp[i] : Input).filt ∧
      (t.ib.inp[i] : Input).changes = (s.ib.inp[i] : Input).changes ∧ (t.ib.inp[i] : Input).bridge = (s.ib.inp[i] : Input).bridge ∧
      (∀ j, j ≠ i → t.ib.inp[j] = s.ib.inp[j]) ∧ t = { s with fr := t.fr, ib := { s.ib with inp := t.ib.inp } }) ∧
  (∀ (s : State) (i : Fin 128) (c : Bool) (z : VoltZone), (s.ib.inp[i] : Input).on = true → (s.ib.inp[i] : Input).live = true →
    (s.ib.inp[i] : Input).onAt ≠ some s.tb.now → (s.ib.inp[i] : Input).onAt ≠ some (s.tb.now - 1) →
    (s.inputCfg i).mode = 3 → (s.ib.inp[i] : Input).gapFrom = none →
    ∃ t, exec (.inputChange i false c z) s = .next t ∧ (t.ib.inp[i] : Input).live = false ∧ (t.ib.inp[i] : Input).bridge = some s.tb.now ∧
      (t.ib.inp[i] : Input).bridging t.tb.now = true ∧ (∀ j, j ≠ i → t.ib.inp[j] = s.ib.inp[j]) ∧
      t = { s with fr := t.fr, ib := { s.ib with inp := t.ib.inp } }) ∧
  (∀ (s : State) (i : Fin 128) (u : Tick), (s.ib.inp[i] : Input).runs s.tb.now = true → (s.ib.inp[i] : Input).diffSince = some u →
    (s.ib.inp[i] : Input).step2 s.tb.now ≠ (s.ib.inp[i] : Input).filt →
    (s.filterTicks i = elapsed s.tb.now u + 1 →
      ∃ t, exec (.inputFilterExpiry i) s = .next t ∧ (t.ib.inp[i] : Input).filt = (s.ib.inp[i] : Input).step2 s.tb.now ∧
        (t.ib.inp[i] : Input).changes = (s.ib.inp[i] : Input).changes + 1 ∧ (∀ j, j ≠ i → t.ib.inp[j] = s.ib.inp[j]) ∧
        t = { s with ib := { s.ib with inp := t.ib.inp } }) ∧
    (elapsed s.tb.now u + 1 < s.filterTicks i →
      ∃ t, exec (.inputFilterExpiry i) s = .next t ∧ (t.ib.inp[i] : Input).filt = (s.ib.inp[i] : Input).filt ∧
        (t.ib.inp[i] : Input).changes = (s.ib.inp[i] : Input).changes ∧ (t.ib.inp[i] : Input).diffSince = some u)) ∧
  (∀ (s : State) (i : Fin 128) (u : Tick),
    ((s.ib.inp[i] : Input).bridge = some u → 39999 ≤ elapsed s.tb.now u → (s.ib.inp[i] : Input).live = false →
      ∃ t, exec (.ossdBridgeRelease i) s = .next t ∧ (t.ib.inp[i] : Input).bridge = none ∧
        (∀ j, j ≠ i → t.ib.inp[j] = s.ib.inp[j]) ∧ t = { s with ib := { s.ib with inp := t.ib.inp } }) ∧
    ((s.ib.inp[i] : Input).gapFrom = some u → 100000 ≤ elapsed s.tb.now u →
      ∃ t, exec (.ossdGapExpiry i) s = .next t ∧ (t.ib.inp[i] : Input) = { (s.ib.inp[i] : Input) with gapFrom := none } ∧
        (∀ j, j ≠ i → t.ib.inp[j] = s.ib.inp[j]) ∧ t = { s with ib := { s.ib with inp := t.ib.inp } }) ∧
    ((s.ib.inp[i] : Input).tpSeen = some u → 10000000 ≤ elapsed s.tb.now u →
      ∃ t, exec (.tpSeenExpiry i) s = .next t ∧ (t.ib.inp[i] : Input) = { (s.ib.inp[i] : Input) with tpSeen := none } ∧
        (∀ j, j ≠ i → t.ib.inp[j] = s.ib.inp[j]) ∧ t = { s with ib := { s.ib with inp := t.ib.inp } }))

/-- R135 to R138: BAND, OVERVOLT, COMPARATOR_DISAGREE, THR_HANDOVER_TIMEOUT, THR_HANDOVER. -/
def Obligations.InputFaultsInvalidateTheInput : Prop :=
  (∀ (s : State) (i : Fin 128), (s.ib.inp[i] : Input).on = true →
    ((s.ib.inp[i] : Input).runs s.tb.now = true → (s.ib.inp[i] : Input).zone = .band → s.causePresent .ib 3 i.val = false →
      (10000 + s.filterTicks i ≤ (s.ib.inp[i] : Input).bandRun s.tb.now →
        ∃ t, exec (.band i) s = .next t ∧ t.uncleared .ib 3 i.val = true ∧ t.inputValid i = false ∧
          t.dev = s.dev ∧ t.os.inhib = s.os.inhib ∧ t.ib = s.ib) ∧
      ((s.ib.inp[i] : Input).bandRun s.tb.now < 10000 + s.filterTicks i → exec (.band i) s = .next s)) ∧
    ((s.ib.inp[i] : Input).ranFor 10 s.tb.now = true → (s.ib.inp[i] : Input).zone = .over →
      9 ≤ elapsed s.tb.now (s.ib.inp[i] : Input).zoneAt → s.causePresent .ib 4 i.val = false →
      ∃ t, exec (.overvolt i) s = .next t ∧ t.uncleared .ib 4 i.val = true ∧ t.inputValid i = false ∧
        t.dev = s.dev ∧ t.os.inhib = s.os.inhib ∧ t.ib = s.ib) ∧
    ((s.ib.inp[i] : Input).runs s.tb.now = true → (s.ib.inp[i] : Input).zone ≠ .band → (s.ib.inp[i] : Input).live ≠ (s.ib.inp[i] : Input).chk →
      99 ≤ elapsed s.tb.now (s.ib.inp[i] : Input).cmpAt → 99 ≤ elapsed s.tb.now (s.ib.inp[i] : Input).joinAt →
      99 ≤ elapsed s.tb.now (s.ib.inp[i] : Input).bandEnd → s.thrUnder ≠ some i → (s.ib.inp[i] : Input).disDone = false →
      ∃ t, exec (.comparatorDisagree i) s = .next t ∧ t.uncleared .ib 2 i.val = true ∧ t.inputValid i = false ∧ t.dev = s.dev ∧
        t.os.inhib = s.os.inhib ∧ (t.ib.inp[i] : Input) = { (s.ib.inp[i] : Input) with disDone := true } ∧
        (∀ j, j ≠ i → t.ib.inp[j] = s.ib.inp[j]))) ∧
  (∀ (s : State) (i : Fin 128) (u : Tick), (s.ib.inp[i] : Input).handover = some u →
    (2000 ≤ elapsed s.tb.now u → ∃ t, exec (.thrHandoverTimeout i) s = .next t ∧ t.uncleared .ib 2 i.val = true ∧
      (t.ib.inp[i] : Input).handover = none ∧ t.dev = s.dev) ∧
    ((s.ib.inp[i] : Input).live = (s.ib.inp[i] : Input).chk → 99 ≤ elapsed s.tb.now (s.ib.inp[i] : Input).cmpAt →
      99 ≤ elapsed s.tb.now (s.ib.inp[i] : Input).joinAt →
      ∃ t, exec (.thrHandover i) s = .next t ∧
        (t.ib.inp[i] : Input) = { (s.ib.inp[i] : Input) with handover := none, pass := true, liveIdx := !(s.ib.inp[i] : Input).liveIdx } ∧
        (∀ j, j ≠ i → t.ib.inp[j] = s.ib.inp[j]) ∧ t = { s with fr := t.fr, ib := { s.ib with inp := t.ib.inp } }) ∧
    (((s.ib.inp[i] : Input).live ≠ (s.ib.inp[i] : Input).chk ∨ elapsed s.tb.now (s.ib.inp[i] : Input).cmpAt < 99) →
      exec (.thrHandover i) s = .next s))

/-- R151, R153, R159, R161, R163: PG00_RELEASE, DIP_WINDOW_OPEN, DIP_OFF_END, DIP_WINDOW_END, SRC_OVERLOAD, SRC_RETRY. -/
def Obligations.PulseSourcesDipAndRetry : Prop :=
  (∀ (s : State) (u : Tick), s.ps.switchedAt = some u → s.ps.frameAt = none → 100000 ≤ elapsed s.tb.now u →
    ∃ t, exec .pg00Release s = .next t ∧ t.ps.frameAt = some s.tb.now ∧ (t.tb.pg[(0 : Fin 16)] : Pg).en = true ∧
      (t.tb.pg[(0 : Fin 16)] : Pg).base = s.tb.now ∧ (∀ g : Fin 16, g ≠ 0 → t.tb.pg[g] = s.tb.pg[g]) ∧
      t = { s with ps := { s.ps with frameAt := t.ps.frameAt }, tb := { s.tb with pg := t.tb.pg } }) ∧
  (∀ (s : State) (k : Fin 32) (d : Fin 8) (a w : Nat), windowDue s (s.strumCfg k) d.val = some (a, w) → (s.ps.src[k] : Source).on = true →
    (s.ps.src[k] : Source).win = none →
    ∃ t, exec (.dipWindowOpen k d false) s = .next t ∧ (t.ps.src[k] : Source).inOff = true ∧
      (t.ps.src[k] : Source).win = some ⟨d.val, s.tb.now, s.tb.now + BitVec.ofNat 64 ((100 * w + 1) / 2), s.tb.now + BitVec.ofNat 64 (100 * w)⟩ ∧
      (∀ i : Fin 128, (s.inputCfg i).pulsed = true → (s.inputCfg i).source = k.val → (s.ib.inp[i] : Input).on = true →
        (t.ib.inp[i] : Input).held = some ((s.ib.inp[i] : Input).before s.tb.now)) ∧
      (∀ j, j ≠ k → t.ps.src[j] = s.ps.src[j]) ∧ t = { s with ps := { s.ps with src := t.ps.src }, ib := { s.ib with inp := t.ib.inp } }) ∧
  (∀ (s : State) (k : Fin 32) (w : DipWin) (high : Bool), (s.ps.src[k] : Source).win = some w → (s.ps.src[k] : Source).inOff = true →
    elapsed w.offEnd w.openAt ≤ elapsed s.tb.now w.openAt →
    exec (.dipOffEnd k high false) s = .next (s.modSource k (fun x => { x with inOff := false, highOff := high }))) ∧
  (∀ (s : State) (k : Fin 32) (w : DipWin), (s.ps.src[k] : Source).win = some w → elapsed w.closeAt w.openAt ≤ elapsed s.tb.now w.openAt →
    ∃ t, exec (.dipWindowEnd k) s = .next t ∧ (t.ps.src[k] : Source).win = none ∧ (t.ps.src[k] : Source).lastWin = some w ∧
      (t.ps.src[k] : Source).done = (s.ps.src[k] : Source).done + 1 ∧ (∀ j, j ≠ k → t.ps.src[j] = s.ps.src[j]) ∧
      (∀ i : Fin 128, (s.inputCfg i).pulsed = true → (s.inputCfg i).source = k.val → (t.ib.inp[i] : Input).held = none) ∧
      t.dev = s.dev ∧ t.os.inhib = s.os.inhib ∧ t.tb = s.tb) ∧
  (∀ (s : State) (k : Fin 32) (f : Tick), (s.ps.src[k] : Source).on = true → (s.ps.src[k] : Source).offSince = none →
    (s.ps.src[k] : Source).offPart s.tb.now = false → elapsed s.tb.now f ≤ elapsed s.tb.now (s.ps.src[k] : Source).onAt →
    (10000 ≤ (s.ps.src[k] : Source).overRun s.tb.now f →
      ∃ t, exec (.srcOverload k f) s = .next t ∧ (t.ps.src[k] : Source).offSince = some s.tb.now ∧ t.uncleared .ps 3 k.val = true ∧
        t.dev = s.dev ∧ (∀ j, j ≠ k → t.ps.src[j] = s.ps.src[j])) ∧
    ((s.ps.src[k] : Source).overRun s.tb.now f < 10000 → exec (.srcOverload k f) s = .next s)) ∧
  (∀ (s : State) (k : Fin 32) (u : Tick), (s.ps.src[k] : Source).offSince = some u → 10000000 ≤ elapsed s.tb.now u →
    (∃ t, exec (.srcRetry k false false) s = .next t ∧
      (t.ps.src[k] : Source) = { (s.ps.src[k] : Source) with offSince := none, onAt := s.tb.now } ∧
      (∀ j, j ≠ k → t.ps.src[j] = s.ps.src[j]) ∧ t = { s with fr := t.fr, ps := { s.ps with src := t.ps.src } }) ∧
    exec (.srcRetry k true false) s =
      .next (s.modSource k (fun x => { x with offSince := none, onAt := s.tb.now })))

/-- R172 to R174, R182, R187: ENCODER_EDGE. -/
def Obligations.EncoderEdgesAreCounted : Prop :=
  (∀ (s : State) (a : Fin 64) (p : Fin 2) (q : Fin 4), (s.af.ax[a] : Axis).entry.mode ≠ 0 → (s.path a p).started = true →
    (s.path a p).held = false →
    ((q.val + 4 - (s.path a p).quad.val) % 4 = 1 ∨ (q.val + 4 - (s.path a p).quad.val) % 4 = 3 →
      ∃ t, exec (.encoderEdge a p q) s = .next t ∧ (t.path a p).quad = q ∧
        (t.path a p).count = (if ((q.val + 4 - (s.path a p).quad.val) % 4 = 1) ↔ (s.af.ax[a] : Axis).entry.invert = false
          then (s.path a p).count + 1 else (s.path a p).count - 1) ∧
        (t.path a p).pos = (s.path a p).pos ∧ (t.path a p).edges.head? = some s.tb.now ∧ (∀ o, o ≠ p → t.path a o = s.path a o) ∧
        (∀ b, b ≠ a → t.af.ax[b] = s.af.ax[b]) ∧
        (((s.af.ax[a] : Axis).entry.mode = 1 ∧ p = 0 ∨ ∀ u us, (s.path a p).edges = u :: us → 10 ≤ elapsed s.tb.now u) →
          t = { s with af := { s.af with ax := t.af.ax } }) ∧
        (∀ u us, ¬((s.af.ax[a] : Axis).entry.mode = 1 ∧ p = 0) → (s.path a p).edges = u :: us → elapsed s.tb.now u < 10 →
          t.uncleared .af 5 a.val = true ∧ (t.path a p).breaks = (s.path a p).breaks + 1 ∧ t.dev = s.dev)) ∧
    ((q.val + 4 - (s.path a p).quad.val) % 4 = 2 →
      ∃ t, exec (.encoderEdge a p q) s = .next t ∧ (t.path a p).quad = q ∧
        (t.path a p).count = (if (s.af.ax[a] : Axis).entry.mode = 1 ∧ p = 0 then (s.path a p).count -
            BitVec.ofNat 32 ((s.path a p).count.toNat % 4) + BitVec.ofNat 32 (quadOf (s.af.ax[a] : Axis).entry.invert q)
          else (s.path a p).count) ∧
        (t.path a p).errs = satInc (s.path a p).errs ∧ (t.path a p).breaks = (s.path a p).breaks + 1 ∧ t.uncleared .af 4 a.val = true ∧
        t.dev = s.dev ∧ t.os.inhib = s.os.inhib) ∧
    (q = (s.path a p).quad → exec (.encoderEdge a p q) s = .next s)) ∧
  (∀ (s : State) (a : Fin 64) (p : Fin 2) (q : Fin 4), ((s.af.ax[a] : Axis).entry.mode = 0 ∨ (s.path a p).started = false ∨
      (s.path a p).held = true) →
    ∃ t, exec (.encoderEdge a p q) s = .next t ∧ (t.path a p) = { s.path a p with quad := q } ∧
      (∀ b, b ≠ a → t.af.ax[b] = s.af.ax[b]) ∧ t = { s with af := { s.af with ax := t.af.ax } })

/-- R171, R175, R176, R178, R180: MEASUREMENT_INSTANT and AXIS_BUFFER_SWAP. -/
def Obligations.MeasurementLatchesCounters : Prop :=
  (∀ (s : State) (done : BitVec 4) (smp spare : List AxisSample) (a : Fin 64), s.pcr.clk.tb = true → s.tb.now.toNat % 320 = 0 →
    ∃ t, exec (.measurementInstant done smp spare) s = .next t ∧
      (∀ q : Fin 4, done.getLsbD q.val = true → (t.af.q[q] : AfQuarter).meas = true ∧ (t.af.q[q] : AfQuarter).measAt = s.tb.now ∧
        (t.af.q[q] : AfQuarter).fresh = true) ∧
      (∀ q : Fin 4, done.getLsbD q.val = false → t.af.q[q] = s.af.q[q]) ∧
      (done.getLsbD (quarterOfAxis a.val).val = true → (s.af.ax[a] : Axis).entry.mode = 2 → (s.path a 1).held = false →
        (s.frOf .af).insts = [] →
        (t.path a 1).pos = (if (s.path a 1).begun then (s.path a 1).count
          else BitVec.ofNat 32 (quadOf (s.af.ax[a] : Axis).entry.invert (s.path a 1).quad)) ∧
        (t.path a 1).begun = true ∧ (t.path a 1).seq = (s.path a 1).seq + 1 ∧
        ((t.path a 1).words[(0 : Fin 8)] : Word) = (t.path a 1).pos) ∧
      ((s.af.ax[a] : Axis).entry.mode = 0 → t.af.ax[a] = s.af.ax[a])) ∧
  (∀ (s : State) (done : BitVec 4) (smp spare : List AxisSample), (s.pcr.clk.tb = false ∨ s.tb.now.toNat % 320 ≠ 0) →
    exec (.measurementInstant done smp spare) s = .next s) ∧
  (∀ (s : State) (q : Fin 4), (s.af.q[q] : AfQuarter).fresh = true → 290 ≤ elapsed s.tb.now (s.af.q[q] : AfQuarter).measAt →
    ∃ t, exec (.axisBufferSwap q) s = .next t ∧ (t.af.q[q] : AfQuarter).fresh = false ∧ (t.af.q[q] : AfQuarter).swapAt = some s.tb.now ∧
      (∀ (a : Fin 64) (p : Fin 2), quarterOfAxis a.val = q → (t.path a p).buf = (s.path a p).words ∧ (t.path a p).prev = (s.path a p).buf) ∧
      (∀ a : Fin 64, quarterOfAxis a.val ≠ q → t.af.ax[a] = s.af.ax[a]) ∧ t = { s with af := { s.af with ax := t.af.ax, q := t.af.q } })

/-- R185, R190, R193, R194, R198: LEVEL, LEVEL_RESTORE, ADC_CLOCK, CALIBRATION_PASS, CAL_HANDOVER, CAL_HANDOVER_TIMEOUT. -/
def Obligations.AxisFaultsAndCalibration : Prop :=
  (∀ (s : State) (a : Fin 64), (s.af.ax[a] : Axis).entry.mode ≠ 0 → s.afPresent 2 4 a.val = false →
    ∃ t, exec (.level a) s = .next t ∧ t.uncleared .af 2 a.val = true ∧ t.dev = s.dev ∧
      (∀ p, (t.path a p).held = true ∧ (t.path a p).breaks = (s.path a p).breaks + 1 ∧ (t.path a p).pos = (s.path a p).pos) ∧
      (∀ b, b ≠ a → t.af.ax[b] = s.af.ax[b])) ∧
  (∀ (s : State) (a : Fin 64), s.afPresent 2 4 a.val = true →
    ∃ t, exec (.levelRestore a) s = .next t ∧ t.afPresent 2 4 a.val = false ∧ (∀ b, b ≠ a → t.af.ax[b] = s.af.ax[b]) ∧
      t = { s with fr := t.fr, af := { s.af with ax := t.af.ax } }) ∧
  (∀ (s : State) (q : Fin 4), s.dev ≠ .start → s.configured = true →
    960 ≤ elapsed s.tb.now (s.af.q[q] : AfQuarter).measAt → s.afPresent 1 1 q.val = false →
    ∃ t, exec (.adcClock q) s = .next t ∧ t.uncleared .af 1 q.val = true ∧ (t.af.q[q] : AfQuarter).meas = false ∧ t.dev = s.dev ∧
      (∀ a : Fin 64, quarterOfAxis a.val = q → (s.af.ax[a] : Axis).entry.mode ≠ 0 →
        (t.path a 0).held = true ∧ (t.path a 0).breaks = (s.path a 0).breaks + 1) ∧
      (∀ a : Fin 64, quarterOfAxis a.val ≠ q → t.af.ax[a] = s.af.ax[a])) ∧
  (∀ (s : State) (q : Fin 4) (x y z w : Int), s.configured = true → (s.af.q[q] : AfQuarter).pass = none →
    2000000 ≤ elapsed s.tb.now (s.af.q[q] : AfQuarter).passAt →
    x.natAbs ≤ 100 → y.natAbs ≤ 100 → z.natAbs ≤ 60 → w.natAbs ≤ 60 →
    ∃ t, exec (.calibrationPass q x y z w) s = .next t ∧ (t.af.q[q] : AfQuarter).next = ((s.af.q[q] : AfQuarter).next % 17 + 1) % 17 ∧
      (t.af.q[q] : AfQuarter).passAt = s.tb.now ∧
      (s.pairChecked q ((s.af.q[q] : AfQuarter).next % 17) = false →
        (t.af.q[q] : AfQuarter).pass = none ∧ t.af.calCnt = satInc s.af.calCnt ∧
        (∀ k : Fin 17, k.val = (s.af.q[q] : AfQuarter).next % 17 →
          ((t.af.q[q] : AfQuarter).corr[k] : Corr) = ⟨BitVec.ofInt 8 x, BitVec.ofInt 8 y, BitVec.ofInt 8 z, BitVec.ofInt 8 w⟩)) ∧
      (s.pairChecked q ((s.af.q[q] : AfQuarter).next % 17) = true →
        (t.af.q[q] : AfQuarter).pass.isSome = true ∧ (t.af.q[q] : AfQuarter).corr = (s.af.q[q] : AfQuarter).corr)) ∧
  (∀ (s : State) (q : Fin 4) (p : CalPass) (k : Fin 17), (s.af.q[q] : AfQuarter).pass = some p → p.good = true → k.val = p.pair →
    (p.agree < 8 → exec (.calHandover q) s = .next s) ∧
    (8 ≤ p.agree → p.taken = false → ∃ t, exec (.calHandover q) s = .next t ∧
      (t.af.q[q] : AfQuarter).pass = some { p with taken := true, agree := 0, instants := 0 } ∧ t = { s with af := { s.af with q := t.af.q } }) ∧
    (8 ≤ p.agree → p.taken = true → ∃ t, exec (.calHandover q) s = .next t ∧ (t.af.q[q] : AfQuarter).pass = none ∧
      ((t.af.q[q] : AfQuarter).corr[k] : Corr) = p.corr ∧ t.af.calCnt = satInc s.af.calCnt)) ∧
  (∀ (s : State) (q : Fin 4) (p : CalPass) (a : Fin 64), (s.af.q[q] : AfQuarter).pass = some p → pairAxis q p.pair = some a →
    (s.af.ax[a] : Axis).entry.mode ≠ 0 →
    (64 ≤ p.instants → p.agree < 8 → ∃ t, exec (.calHandoverTimeout q) s = .next t ∧ (t.af.q[q] : AfQuarter).pass = none ∧
      t.uncleared .af 7 a.val = true ∧ (t.af.q[q] : AfQuarter).corr = (s.af.q[q] : AfQuarter).corr ∧ t.dev = s.dev) ∧
    (p.instants < 64 → exec (.calHandoverTimeout q) s = .next s))

/-- R342, R349, R350, R353, R357: LINK_SIGNAL_PRESENT, LINK_SIGNAL_LOSS, LINK_ALIGNED, TUNE_TIMEOUT, LOST_EXPIRY, LINK_WATCHDOG, DETACH_WINDOW_EXPIRY. -/
def Obligations.LinkStatesFollowSignalAndTime : Prop :=
  (∀ (s : State) (n : Fin 4), (s.pl.port[n] : PlPort).st = .down → (s.pl.port[n] : PlPort).aligned = false →
    ∃ t, exec (.linkSignalPresent n) s = .next t ∧ (t.pl.port[n] : PlPort).st = .align ∧ (t.pl.port[n] : PlPort).signal = true ∧
      (∀ m, m ≠ n → t.pl.port[m] = s.pl.port[m]) ∧ t = { s with pl := { s.pl with port := t.pl.port, evt := t.pl.evt }, hp := t.hp }) ∧
  (∀ (s : State) (n : Fin 4), (s.pl.port[n] : PlPort).st = .align ∨ (s.pl.port[n] : PlPort).st = .tune ∨
      (s.pl.port[n] : PlPort).st = .check ∨ (s.pl.port[n] : PlPort).st = .rejected →
    ∃ t, exec (.linkSignalLoss n) s = .next t ∧ (t.pl.port[n] : PlPort).st = .down ∧ (t.pl.port[n] : PlPort).signal = false ∧
      (∀ m, m ≠ n → t.pl.port[m] = s.pl.port[m]) ∧ t = { s with pl := { s.pl with port := t.pl.port, evt := t.pl.evt }, hp := t.hp }) ∧
  (∀ (s : State) (n : Fin 4), (s.pl.port[n] : PlPort).st = .align →
    ∃ t, exec (.linkAligned n) s = .next t ∧ (t.pl.port[n] : PlPort).st = .tune ∧ (t.pl.port[n] : PlPort).start = loHalf s.tb.now ∧
      (t.pl.port[n] : PlPort).peer = none ∧ (t.pl.port[n] : PlPort).tuned = false ∧ (∀ m, m ≠ n → t.pl.port[m] = s.pl.port[m]) ∧
      t = { s with pl := { s.pl with port := t.pl.port, evt := t.pl.evt }, hp := t.hp }) ∧
  (∀ (s : State) (n : Fin 4), (s.pl.port[n] : PlPort).st = .tune →
    ∃ t, exec (.tuneTimeout n) s = .next t ∧
      (t.pl.port[n] : PlPort).st = (if 200 * 100 * (s.partner n).cycle ≤ elapsed s.tb.now (s.pl.port[n] : PlPort).since then .lost else .tune) ∧
      (∀ m, m ≠ n → t.pl.port[m] = s.pl.port[m]) ∧ t = { s with pl := { s.pl with port := t.pl.port, evt := t.pl.evt }, hp := t.hp }) ∧
  (∀ (s : State) (n : Fin 4), (s.pl.port[n] : PlPort).st = .lost → 100000 ≤ elapsed s.tb.now (s.pl.port[n] : PlPort).since →
    (s.pl.port[n] : PlPort).aligned = false →
    ∃ t, exec (.lostExpiry n) s = .next t ∧ (t.pl.port[n] : PlPort).st = (if (s.pl.port[n] : PlPort).signal then .align else .down) ∧
      (∀ m, m ≠ n → t.pl.port[m] = s.pl.port[m]) ∧ t = { s with pl := { s.pl with port := t.pl.port, evt := t.pl.evt }, hp := t.hp }) ∧
  (∀ (s : State) (n : Fin 4) (u : Tick), (s.pl.port[n] : PlPort).st = .up → (s.pl.port[n] : PlPort).rxAt = some u →
    100 * (s.partner n).wdog * (s.partner n).cycle ≤ elapsed s.tb.now u → (s.pl.port[n] : PlPort).win = none → (s.pl.port[n] : PlPort).sends = [] →
    s.frameDue n = false → s.detachDue n = false → s.bad = [] →
    ∃ t, exec (.linkWatchdog n) s = .next t ∧ (t.pl.port[n] : PlPort).st = .lost ∧
      (t.pl.port[n] : PlPort).losses = satInc (s.pl.port[n] : PlPort).losses ∧ (t.frOf .pl).cntCorr = satInc (s.frOf .pl).cntCorr ∧
      (∀ m, m ≠ n → t.pl.port[m] = s.pl.port[m]) ∧
      t = { s with pl := { s.pl with port := t.pl.port, evt := t.pl.evt }, hp := t.hp, fr := t.fr }) ∧
  (∀ (s : State) (n : Fin 4) (u : Tick) (k : Nat), (s.pl.port[n] : PlPort).win = some (u, k) → k ≤ elapsed s.tb.now u →
    ∃ t, exec (.detachWindowExpiry n) s = .next t ∧ (t.pl.port[n] : PlPort).win = none ∧ (t.pl.port[n] : PlPort).st = (s.pl.port[n] : PlPort).st ∧
      (∀ m, m ≠ n → t.pl.port[m] = s.pl.port[m]) ∧ t = { s with pl := { s.pl with port := t.pl.port } })

/-- R343, R344, R346 to R348: LINK_CYCLE and FRAME_RECEIVED. -/
def Obligations.FramesSentAndReceived : Prop :=
  (∀ (s : State) (n : Fin 4), (s.partner n).type ≠ 0 →
    (∀ u, (s.pl.port[n] : PlPort).cycleAt = some u → 100 * (s.partner n).cycle ≤ elapsed s.tb.now u) → (s.pl.port[n] : PlPort).sends = [] →
    ((s.pl.port[n] : PlPort).st = .check ∨ (s.pl.port[n] : PlPort).st = .waitAccept ∨ (s.pl.port[n] : PlPort).st = .up →
      ∃ t, exec (.linkCycle n) s = .next t ∧ (t.pl.port[n] : PlPort).sent.length = 32 ∧ (t.pl.port[n] : PlPort).sent.head? = some 0x3C ∧
        (t.pl.port[n] : PlPort).txSeq = (if (s.pl.port[n] : PlPort).txAny then (s.pl.port[n] : PlPort).txSeq + 1 else (s.pl.port[n] : PlPort).start + 1) ∧
        (t.pl.port[n] : PlPort).txAny = true ∧ (t.pl.port[n] : PlPort).cycleAt = some s.tb.now ∧
        (∀ m, m ≠ n → t.pl.port[m] = s.pl.port[m]) ∧ t = { s with pl := { s.pl with port := t.pl.port }, cv := { s.cv with last := t.cv.last } }) ∧
    ((s.pl.port[n] : PlPort).st = .down ∨ (s.pl.port[n] : PlPort).st = .align ∨ (s.pl.port[n] : PlPort).st = .tune →
      ∃ t, exec (.linkCycle n) s = .next t ∧ (t.pl.port[n] : PlPort).sent.length = 32 ∧
        (t.pl.port[n] : PlPort).sent.take 2 = [0xC3, BitVec.ofNat 8 (s.partner n).localAddr] ∧ (t.pl.port[n] : PlPort).txSeq = (s.pl.port[n] : PlPort).txSeq ∧
        (∀ m, m ≠ n → t.pl.port[m] = s.pl.port[m]) ∧ t = { s with pl := { s.pl with port := t.pl.port }, cv := { s.cv with last := t.cv.last } })) ∧
  (∀ (s : State) (n : Fin 4) (fr : Bool) (bs : List Byte), (s.partner n).type ≠ 0 → s.bad = [] → (fr = false ∨ bs.length ≠ 32) →
    ∃ t, exec (.frameReceived n fr bs) s = .next t ∧ (t.pl.port[n] : PlPort).badCnt = satInc (s.pl.port[n] : PlPort).badCnt ∧
      (t.pl.port[n] : PlPort).st = (s.pl.port[n] : PlPort).st ∧ (t.pl.port[n] : PlPort).rxSeq = (s.pl.port[n] : PlPort).rxSeq ∧
      (t.pl.port[n] : PlPort).safe = (s.pl.port[n] : PlPort).safe ∧ (t.pl.port[n] : PlPort).rxAt = (s.pl.port[n] : PlPort).rxAt ∧
      (t.frOf .pl).cntCorr = satInc (s.frOf .pl).cntCorr ∧ (∀ m, m ≠ n → t.pl.port[m] = s.pl.port[m])) ∧
  (∀ (s : State) (n : Fin 4) (bs : List Byte) (x : Word), (s.partner n).type ≠ 0 → (s.pl.port[n] : PlPort).st = .up →
    judgeFrame (s.partner n) (s.pl.port[n] : PlPort) true bs = .safety x →
    ∃ t, exec (.frameReceived n true bs) s = .next t ∧ (t.pl.port[n] : PlPort).st = .up ∧ (t.pl.port[n] : PlPort).rxSeq = x ∧
      (t.pl.port[n] : PlPort).rxAny = true ∧ (t.pl.port[n] : PlPort).rxAt = some s.tb.now ∧ (t.pl.port[n] : PlPort).safe = (bs.drop 6).take 16 ∧
      (t.pl.port[n] : PlPort).rxCnt = satInc (s.pl.port[n] : PlPort).rxCnt ∧ (∀ m, m ≠ n → t.pl.port[m] = s.pl.port[m]) ∧
      t = { s with pl := { s.pl with port := t.pl.port }, cv := { s.cv with last := t.cv.last }, tb := { s.tb with events := t.tb.events } })

/-- R404, R405, R412, R413, R427: VL_RANGE, VF_LOSS, VF_OVER, VF_RESTORE, BAK_FAIL, BAK_EDGE_TIMEOUT, VL_RESTORE, TB_FREQ_WINDOW. -/
def Obligations.SuppliesAreReportedAndRecorded : Prop :=
  (∀ (s : State) (d : Side) (mv : BitVec 16), s.pcr.clk.tb = true → s.bad = [] → s.pcr.vl.get d = .good →
    ∃ t, exec (.vlRange d mv) s = .next t ∧ t.pcr.vlMv.get d = mv ∧ t.pcr.vlOk.get d = false ∧
      (t.frOf .pcr).cntCorr = satInc (s.frOf .pcr).cntCorr ∧
      t = { s with fr := t.fr, hp := t.hp, pcr := { s.pcr with vlMv := t.pcr.vlMv, vlOk := t.pcr.vlOk } }) ∧
  (∀ (s : State) (q : Fin 4) (mv : BitVec 16), s.pcr.clk.tb = true →
    (∃ t, exec (.vfLoss q mv) s = .next t ∧ t.uncleared .pcr 5 q.val = true ∧ (t.pcr.vfOk[q] : Bool) = false ∧ t.pcr.vfMv[q] = mv ∧
      t.dev = s.dev ∧ t.os.inhib = s.os.inhib) ∧
    (∃ t, exec (.vfOver q mv) s = .next t ∧ t.uncleared .pcr 6 q.val = true ∧ (t.pcr.vfOk[q] : Bool) = false ∧ t.pcr.vfMv[q] = mv ∧
      t.dev = s.dev ∧ t.os.inhib = s.os.inhib) ∧
    (∃ t, exec (.vfRestore q mv) s = .next t ∧ (t.pcr.vfOk[q] : Bool) = true ∧ t.pcr.vfMv[q] = mv ∧
      (∀ i ∈ (t.frOf .pcr).insts, (i.cause = 5 ∨ i.cause = 6) → i.item = q.val → i.cls = .contained → i.life ≠ .present) ∧
      t = { s with fr := t.fr, pcr := { s.pcr with vfOk := t.pcr.vfOk, vfMv := t.pcr.vfMv } })) ∧
  (∀ (s : State) (mv : BitVec 16), s.pcr.clk.tb = true → s.bad = [] →
    (∃ t, exec (.bakFail mv) s = .next t ∧ t.pcr.vbakOk = false ∧ t.pcr.vbakMv = mv ∧ t.pcr.freq = 0x80000000 ∧ t.pcr.tbfOk = false ∧
      (t.frOf .pcr).cntCorr = satInc (s.frOf .pcr).cntCorr ∧ t = { s with fr := t.fr, hp := t.hp, pcr := t.pcr }) ∧
    (∃ t, exec .bakEdgeTimeout s = .next t ∧ t.pcr.bakRun = false ∧ t.pcr.freq = 0x80000000 ∧ t.pcr.tbfOk = false ∧
      (t.frOf .pcr).cntCorr = satInc (s.frOf .pcr).cntCorr ∧ t = { s with fr := t.fr, hp := t.hp, pcr := t.pcr })) ∧
  (∀ (s : State) (d : Side) (mv : BitVec 16), s.pcr.asserted = none →
    ∃ t, exec (.vlRestore d mv) s = .next t ∧ t.pcr.vl.get d = .good ∧ t.pcr.vlMv.get d = mv ∧
      t = { s with pcr := { s.pcr with vl := t.pcr.vl, vlMv := t.pcr.vlMv, vlOk := t.pcr.vlOk } }) ∧
  (∀ (s : State) (k : Nat), s.pcr.clk.tb = true → s.pcr.bakFail = false → elapsed s.tb.now s.pcr.freqFrom = k →
    (k ≤ 3140625 → 3109375 ≤ k → ∃ t, exec .tbFreqWindow s = .next t ∧ t.pcr.tbfOk = true ∧ t.pcr.freqFrom = s.tb.now ∧
      t = { s with pcr := { s.pcr with freq := t.pcr.freq, tbfOk := true, freqFrom := s.tb.now } }) ∧
    ((3187500 < k ∨ k < 3062500) → ∃ t, exec .tbFreqWindow s = .next t ∧ t.pcr.tbfOk = false ∧
      t.uncleared .pcr 4 (t.pcr.freq).toNat = true))

/-- R259, R412, R414, R417 to R420, R445, R449: the reset sources. -/
def Obligations.ResetSourcesAssertTheirLevel : Prop :=
  (∀ (s : State) (x y : Tear), s.settled → s.pcr.resetNLow = false →
    ∃ t, exec (.resetNAssert x y) s = .next t ∧ systemReset 2 (tearJournals x y s) t ∧ t.pcr.resetNLow = true) ∧
  (∀ (s : State) (d : Side), s.settled → s.pcr.clk.tb = true → ∃ t, exec (.soscWdog d) s = .next t ∧ systemReset 3 s t) ∧
  (∀ (s : State) (m : MonClock), s.settled → s.dev ≠ .start → s.dev ≠ .reset → ∃ t, exec (.clkMon m) s = .next t ∧ systemReset 4 s t) ∧
  (∀ s : State, s.settled → s.dev = .hold → s.fatalQuiets.all (fun q => q != 0) = true → s.fatalQuietOver = true →
    ∃ t, exec .fatalQuietExpiry s = .next t ∧ systemReset 5 s t) ∧
  (∀ (s : State) (p : Side) (u : Tick), s.reaches p .pcr (.pcrRstReset p 2) → s.hp.owner = some p → s.pcr.armed = some (p, u) →
    elapsed s.tb.now u ≤ 100000 → s.dev ≠ .recovery →
    exec (.pcrRstReset p 2) s = .next { s with pcr := { s.pcr with armed := none, rstDue := some (p, .system) } }) ∧
  (∀ (s : State) (p : Side), s.settled → s.pending = [] → s.pcr.rstDue = some (p, .system) →
    State.nothingDue { s with pcr := { s.pcr with rstDue := none } } →
    ∃ t, step s = .next t ∧ systemReset 7 s t) ∧
  (∀ s : State, s.settled → s.dbgAvail = true → s.pcr.extest = ⟨false, false⟩ →
    (s.pcr.trstN = true → ∃ t, exec .debugSysreset s = .next t ∧ systemReset 8 s t) ∧
    (∀ (tap : Side), ∃ t, exec (.extestLoad tap true) s = .next t ∧ systemReset 8 s t ∧ t.pcr.extest.get tap = true)) ∧
  (∀ s : State, s.settled → ∃ t, exec .powerOnReset s = .next t ∧ t.dev = .reset ∧ t.pcr.asserted = some .powerOn ∧ t.pcr.cause = 1 ∧
      t.pcr.since = 1 ∧ t.os.inhib = ⟨true, true⟩ ∧ t.linesStopped ∧ t.tb = Tb.reset ∧ t.pcr.vl.a ≠ .good ∧ t.pcr.vl.b ≠ .good ∧
      t.st.lc = s.st.lc ∧ (∀ i, (s.store i).sameContents (t.store i)))

/-- R404, R405, R418, R419, R421, R445: VL_UNDERVOLTAGE, VL_OVERVOLTAGE, PCR_RST_ARM, PCR_RST_ARM_TIMEOUT, POR_RELEASE, RESET_N_RELEASE, EXTEST_EXIT. -/
def Obligations.SideResetArmingAndRelease : Prop :=
  (∀ (s : State) (d : Side) (mv : BitVec 16), s.pcr.asserted = none → s.pcr.vl.get d.other = .good →
    (∀ (x y : Tear), ∃ t, exec (.vlUndervoltage d mv x y) s = .next t ∧ t.pcr.sideReset.get d = true ∧ t.pcr.vlMv.get d = mv ∧ t.os.inhib.get d = true ∧
      (t.hport d).inReset = true ∧ t.uncleared .pcr 1 d.num = true) ∧
    (∃ t, exec (.vlOvervoltage d mv) s = .next t ∧ t.pcr.sideReset.get d = true ∧ t.pcr.vlMv.get d = mv ∧ t.os.inhib.get d = true ∧
      (t.hport d).inReset = true ∧ t.uncleared .pcr 2 d.num = true)) ∧
  (∀ (s : State) (p : Side), s.reaches p .pcr (.pcrRstArm p) → s.hp.owner = some p → s.pcr.armed = none →
    exec (.pcrRstArm p) s = .next { s with pcr := { s.pcr with armed := some (p, s.tb.now) } }) ∧
  (∀ (s : State) (p : Side) (u : Tick), s.pcr.armed = some (p, u) → 100000 ≤ elapsed s.tb.now u →
    ∃ t, exec .pcrRstArmTimeout s = .next t ∧ t.pcr = { s.pcr with armed := none } ∧
      (t.hport p).refused = satInc (s.hport p).refused ∧ t = { s with pcr := t.pcr, hp := t.hp }) ∧
  (∀ (s : State) (strap : Bool), s.pcr.asserted = some .powerOn → s.pcr.vl = ⟨.good, .good⟩ → s.pcr.resetNLow = false →
    s.pcr.extest = ⟨false, false⟩ → s.pcr.soscStop = ⟨false, false⟩ →
    ∃ t, exec (.porRelease strap) s = .next t ∧ t.dev = .start ∧ t.pcr.asserted = none ∧ t.pcr.phase = .pll ∧ t.st.strap = strap ∧
      t.os.inhib = ⟨true, true⟩) ∧
  (∀ s : State, s.pcr.asserted = some .system → s.pcr.vl = ⟨.good, .good⟩ → s.pcr.extest = ⟨false, false⟩ →
    s.pcr.soscStop = ⟨false, false⟩ →
    ∃ t, exec .resetNRelease s = .next t ∧ t.dev = .start ∧ t.pcr.asserted = none ∧ t.pcr.phase = .pll ∧ t.pcr.resetNLow = false ∧
      t.os.inhib = ⟨true, true⟩) ∧
  (∀ (s : State) (tap : Side) (ir : BitVec 8) (trstN : Bool), s.pcr.asserted = some .system → s.pcr.vl = ⟨.good, .good⟩ →
    s.pcr.resetNLow = false → s.pcr.soscStop = ⟨false, false⟩ → s.pcr.extest.get tap = true → s.pcr.extest.get tap.other = false →
    (ir ≠ 0 ∨ trstN = false) →
    ∃ t, exec (.extestExit tap ir trstN) s = .next t ∧ t.dev = .start ∧ t.pcr.asserted = none ∧ t.pcr.extest = ⟨false, false⟩)

/-- R303, R365, R408, R412, R421, R423, R424: CLOCK_STEADY, PLK_LOCK, PORT_CLOCK, STR_CLOCK, SOSC_FAIL, START_LIMIT. -/
def Obligations.ClocksComeAndGo : Prop :=
  (∀ s : State, s.dev = .start → s.pcr.phase = .pll → s.pcr.asserted = none → s.pcr.clk.tb = false →
    ∃ t, exec (.clockSteady .tb) s = .next t ∧ t.pcr.clk.tb = true ∧ t.pcr.bk.a = t.pcr.bk.b ∧
      (s.pcr.bk.a = s.pcr.bk.b → s.pcr.bk.a.valid = true → s.pcr.bk.a.rcount.toNat < 4 → t.dev = .start ∧ t.pcr.phase = .identity) ∧
      (s.pcr.bk.a.valid = true → 4 ≤ s.pcr.bk.a.rcount.toNat → t.dev = .recovery ∧ t.os.inhib = ⟨true, true⟩)) ∧
  (∀ (s : State) (n : Fin 4), s.pcr.clk.tb = true → s.dev ≠ .start → (s.partner n).type ≠ 0 →
    ∃ t, exec .plkLock s = .next t ∧ t.pl.lock = false ∧ (t.pl.port[n] : PlPort).st = .off ∧ t.uncleared .pl 2 n.val = true) ∧
  (∀ (s : State) (p : Side), s.pcr.clk.hp.get p = true → (p = .b → s.dev ≠ .recovery) →
    ∃ t, exec (.portClock p) s = .next t ∧ (t.hport p).inReset = true ∧ (t.hport p).link = .down ∧ t.uncleared .hp 2 p.num = true ∧
      (∀ n, (t.sq p n).en = false ∧ (t.cq p n).en = false)) ∧
  (∀ (s : State) (d : Side), s.pcr.clk.tb = true → s.dev ≠ .start →
    ∃ t, exec (.strClock d) s = .next t ∧ (t.store d).st = .failed ∧ t.pcr.strOk.get d = false ∧ t.uncleared .pcr 7 d.num = true) ∧
  (∀ (s : State) (d : Side) (x : Bool), s.pcr.asserted = none →
    ∃ t, exec (.soscFail d x) s = .next t ∧ t.pcr.soscOk.get d = false ∧ t.uncleared .pcr 3 d.num = true ∧
      (x = true → t.pcr.soscStop.get d = true)) ∧
  (∀ s : State, s.dev = .start → s.startLimitOver = true → ∃ t, exec .startLimit s = .next t ∧ t.uncleared .pcr 0x0B 0 = true ∧ (s.bad = [] → t.dev = .hold))

/-- R59, R93, R329, R388, R422, R439: IDENTITY_READ, JOURNAL_REPLAY, TABLE_SELECT, TABLE_LOAD, FIELD_STEP. -/
def Obligations.StartStepsFollow : Prop :=
  (∀ s : State, s.startStep .identity = true → strFirst s = true → s.bothStores = true → (s.store .a).identity = (s.store .b).identity → s.pcr.level ≠ .powerOn →
    ∃ t, exec .identityRead s = .next t ∧ t.st.lc = (s.store .a).identity.lc ∧ t.pcr.phase = .replay ∧ t.dev = .start ∧
      t = { s with st := { s.st with lc := t.st.lc }, fr := t.fr, pcr := { s.pcr with phase := .replay } }) ∧
  (∀ (s : State) (bad : List (Side × Nat)), s.startStep .replay = true →
    ∃ t, exec (.journalReplay bad) s = .next t ∧ t.wq.replayed = true ∧ t.pcr.phase = .select ∧ t.dev = .start ∧ t.os.inhib = s.os.inhib) ∧
  (∀ s : State, s.startStep .select = true → (s.st.lc = .blank ∨ s.st.lc = .retired) →
    ∃ t, exec .tableSelect s = .next t ∧ t.ev.chosen = ⟨none, none⟩ ∧ t.pcr.phase = .load ∧ t.dev = .start ∧ t.ms = s.ms) ∧
  (∀ s : State, s.startStep .load = true → s.ev.chosen = ⟨none, none⟩ →
    ∃ t, exec .tableLoad s = .next t ∧ (∀ c, (t.core c).table = some Table.null ∧ (t.core c).undef = none ∧ (t.core c).opMem = []) ∧
      ((t.pcr.phase = .firstScan ∧ (∀ c, (t.core c).seq = .wait)) ∨ t.pcr.phase = .field) ∧ t.dev = .start) ∧
  (∀ (s : State) (ok : BitVec 4), s.startStep .field = true → s.ev.fieldQ = 0 →
    ∃ t, exec (.fieldStep ok [] []) s = .next t ∧ t.pcr.phase = .firstScan ∧ (∀ c, (t.core c).seq = .wait) ∧
      t = { s with ev := t.ev, pcr := { s.pcr with phase := .firstScan } })

/-- R289, R295, R298 to R301: LINK_LEAVES_L0, LINK_RETURN, POWER_STATE_WRITE, PORT_RESET, CFG_CLAIM, CFG_RELEASE, LINK_DOWN, ISOLATED_ACCESS. -/
def Obligations.HostPortsChangeAlone : Prop :=
  (∀ (s : State) (p : Side), s.live p →
    ((s.hport p).link = .l0 ∨ (s.hport p).link = .l1 → ∃ t, exec (.linkLeavesL0 p) s = .next t ∧ (t.hport p).link = .out s.tb.now ∧
      t.hport p.other = s.hport p.other ∧ t = { s with hp := t.hp }) ∧
    (∀ (r w : BitVec 2), r ≠ 0 → w ≠ 0 → w ≠ 3 → ∃ t, exec (.linkReturn p r w false) s = .next t ∧ (t.hport p).link = .l0 ∧ (t.hport p).rate = r ∧
      (t.hport p).width = w ∧ t.hport p.other = s.hport p.other ∧ t = { s with hp := t.hp }) ∧
    ((s.hport p).link = .l0 → ∀ (r w : BitVec 2), ∃ t, exec (.linkReturn p r w true) s = .next t ∧ t.hport p = { s.hport p with link := .l1 } ∧
      t.hport p.other = s.hport p.other ∧ t = { s with hp := t.hp }) ∧
    (∀ (d : Bool), ∃ t, exec (.powerStateWrite p d) s = .next t ∧ t.hport p = { s.hport p with d3 := d } ∧ t.hport p.other = s.hport p.other ∧
      t = { s with hp := t.hp })) ∧
  (∀ (s : State) (p : Side) (flr : Bool), s.live p → s.dev ≠ .recovery →
    ∃ t, exec (.portReset p flr) s = .next t ∧ (∀ n, (t.sq p n).en = false ∧ (t.cq p n).en = false ∧ (t.sq p n).head = (s.sq p n).head) ∧
      t.hp.owner ≠ some p ∧ (s.hp.owner ≠ some p → t.hp.owner = s.hp.owner) ∧ (t.hport p).image = [] ∧
      (t.hport p).refused = (s.hport p).refused ∧ (t.hport p).disc = (s.hport p).disc ∧ (t.wport p).landing = (s.wport p).landing ∧
      (flr = true → (t.hport p).link = (s.hport p).link) ∧ (flr = false → (t.hport p).link = .down) ∧
      t.hport p.other = s.hport p.other ∧ (s.st.ack = none → t.wport p.other = s.wport p.other ∧ t = { s with hp := t.hp, wq := t.wq })) ∧
  (∀ (s : State) (p : Side) (u : Tick), (s.hport p).link = .out u → 2400000 ≤ elapsed s.tb.now u → s.bad = [] →
    ∃ t, exec (.linkDown p) s = .next t ∧ (t.hport p).link = .down ∧ (t.hport p).linkDn = satInc (s.hport p).linkDn ∧
      (t.frOf .hp).cntCorr = satInc (s.frOf .hp).cntCorr ∧ (∀ n, (t.sq p n).en = false) ∧
      (s.st.ack = none → t = { s with hp := t.hp, wq := t.wq, fr := t.fr })) ∧
  (∀ (s : State) (p : Side) (k : BitVec 16), s.live p → s.inTurn (.cfgClaim p k) → s.inTurn (.cfgRelease p k) →
    (k = 0xC1A1 → (s.hp.owner = none ∨ s.hp.owner = some p) →
      exec (.cfgClaim p k) s = .next { s with hp := { s.hp with owner := some p } }) ∧
    (k = 0xC1A1 → s.hp.owner = some p → s.dev ≠ .recovery → ∃ t, exec (.cfgRelease p k) s = .next t ∧ t.hp.owner = none ∧
      (s.st.ack = none → t = { s with hp := { s.hp with owner := none } })) ∧
    ((k ≠ 0xC1A1 ∨ s.hp.owner = some p.other) → ∃ t, exec (.cfgClaim p k) s = .next t ∧ exec (.cfgRelease p k) s = .next t ∧
      (t.hport p).refused = satInc (s.hport p).refused ∧ t.hp.owner = s.hp.owner ∧ t = { s with hp := t.hp })) ∧
  (∀ (s : State) (p : Side) (b : Block) (o : Nat), s.live p → isolated b s = true → o < 0x1000 →
    (∃ t, exec (.isolatedAccess p (0x1000 * b.id + o) false) s = .next t ∧ (t.hport p).ca = satInc (s.hport p).ca ∧
      (t.hport p).lastRead = none ∧ t = { s with hp := t.hp }) ∧
    (∃ t, exec (.isolatedAccess p (0x1000 * b.id + o) true) s = .next t ∧ t.hport p = { s.hport p with disc := satInc (s.hport p).disc } ∧
      t = { s with hp := t.hp }))

/-- R298: MSIX_UNMASK. -/
def Obligations.UnmaskSendsThePendingMessage : Prop :=
  ∀ (s : State) (p : Side) (v : Fin 32), s.live p → (s.hport p).link = .l0 → (s.hport p).msixEn = true →
    ((s.hport p).fnMask = false → (s.hport p).pend = BitVec.ofNat 32 (2 ^ v.val) →
      ∃ t, exec (.msixUnmask p (some v)) s = .next t ∧ ((t.hport p).msix[v] : MsixEntry).mask = false ∧ (t.hport p).pend = 0 ∧
        (t.hport p).sent = (((s.hport p).msix[v] : MsixEntry).addr, ((s.hport p).msix[v] : MsixEntry).data) :: (s.hport p).sent ∧
        t.hport p.other = s.hport p.other ∧ t = { s with hp := t.hp }) ∧
    (((s.hport p).msix[v] : MsixEntry).mask = false → (s.hport p).pend = BitVec.ofNat 32 (2 ^ v.val) →
      ∃ t, exec (.msixUnmask p none) s = .next t ∧ (t.hport p).fnMask = false ∧ (t.hport p).pend = 0 ∧
        (t.hport p).sent = (((s.hport p).msix[v] : MsixEntry).addr, ((s.hport p).msix[v] : MsixEntry).data) :: (s.hport p).sent ∧
        t.hport p.other = s.hport p.other ∧ t = { s with hp := t.hp }) ∧
    ((s.hport p).pend = 0 → ∀ (x : Option (Fin 32)),
      ∃ t, exec (.msixUnmask p x) s = .next t ∧ (t.hport p).sent = (s.hport p).sent ∧ (t.hport p).pend = 0 ∧
        t.hport p.other = s.hport p.other ∧ t = { s with hp := t.hp })

/-- R305, R331, R332, R339, R340: SQ_TAIL_DOORBELL, CQ_HEAD_DOORBELL, SQ_ENABLE, SQ_DISABLE, SQ_ERR_CLEAR, CQ_ENABLE. -/
def Obligations.DoorbellsAndRingControls : Prop :=
  (∀ (s : State) (p : Side) (n : Fin 8) (v : BitVec 32), s.live p → isolated .wq s = false →
    s.hp.hoisted.contains (.cqHeadDoorbell p n v) = false →
    ((s.sq p n).en = true → s.disableWaits p n = false → v.toNat < 2 ^ (s.sq p n).size.toNat → v.toNat < 4096 →
      exec (.sqTailDoorbell p n v) s = .next (s.modSq p n (fun q => { q with tail := v.toNat }))) ∧
    (((s.sq p n).en = false ∨ s.disableWaits p n = true) → s.bad = [] → v.toNat < 4096 → ∃ t, exec (.sqTailDoorbell p n v) s = .next t ∧
      (t.frOf .wq).cntCorr = satInc (s.frOf .wq).cntCorr ∧ t = { s with fr := t.fr, hp := t.hp }) ∧
    ((s.cq p n).en = true → v.toNat < 2 ^ (s.cq p n).size.toNat → v.toNat < 4096 → v.toNat = (s.cq p n).tail →
      exec (.cqHeadDoorbell p n v) s = .next (s.modCq p n (fun q => { q with head := v.toNat }))) ∧
    ((s.cq p n).en = false → s.bad = [] → v.toNat < 4096 → ∃ t, exec (.cqHeadDoorbell p n v) s = .next t ∧
      (t.frOf .wq).cntCorr = satInc (s.frOf .wq).cntCorr ∧ t = { s with fr := t.fr, hp := t.hp })) ∧
  (∀ (s : State) (p : Side) (n : Fin 8), s.live p → isolated .wq s = false →
    ((s.sq p n).en = false → s.wq.replayed = true →
      exec (.sqEnable p n true) s = .next (s.modSq p n (fun q => { q with en := true, tail := q.head })) ∧
      ((s.sq p n).items = [] → ∃ t, exec (.sqEnable p n false) s = .next t ∧
        t.sq p n = { s.sq p n with en := true, head := 0, tail := 0, nextSeq := (s.sq p n).seq0 } ∧
        (∀ m, m ≠ n → t.sq p m = s.sq p m) ∧ (∀ m, t.cq p m = s.cq p m) ∧ t.wport p.other = s.wport p.other ∧
        (∀ i, (s.store i).written = true → ∃ r, (t.store i).journal.getLast? = some r ∧ r.type = .ringStart ∧ r.port = p ∧ r.ring = n ∧
          r.seq = (s.sq p n).seq0 ∧ r.sound i = true))) ∧
    exec (.sqDisable p n) s = .next (s.modSq p n (fun q => { q with en := false, fetching := none })) ∧
    exec (.sqErrClear p n) s = .next (s.modSq p n (fun q => { q with err := false })) ∧
    ((s.cq p n).en = false →
      (∃ t, exec (.cqEnable p n true) s = .next t ∧ (t.cq p n).en = true ∧ (t.cq p n).tail = (s.cq p n).startIdx % 2 ^ (s.cq p n).size.toNat ∧
        (t.cq p n).phase = (s.cq p n).startPhase ∧ (∀ m, m ≠ n → t.cq p m = s.cq p m) ∧ t = { s with wq := t.wq }) ∧
      (∃ t, exec (.cqEnable p n false) s = .next t ∧ (t.cq p n).en = true ∧ (t.cq p n).tail = 0 ∧ (t.cq p n).phase = true ∧
        (∀ m, m ≠ n → t.cq p m = s.cq p m) ∧ t = { s with wq := t.wq })))

/-- R311 to R313, R337: DESCRIPTOR_FETCH and DESCRIPTOR_ARRIVAL. -/
def Obligations.DescriptorsAcceptedOrSkipped : Prop :=
  (∀ (s : State) (p : Side) (n : Fin 8), s.live p → (s.hport p).link = .l0 → (s.hport p).d3 = false → (s.wport p).openItems < 2048 →
    (∀ m, (s.sq p m).fetching = none) → (s.wport p).nextSq = some n →
    ∃ t, exec (.descriptorFetch p) s = .next t ∧ (t.sq p n).fetching = some (s.sq p n).head ∧ (t.sq p n).starve = 0 ∧
      (∀ m, m ≠ n → (t.sq p m).fetching = none ∧ (t.sq p m).items = (s.sq p m).items) ∧ (t.sq p n).items = (s.sq p n).items ∧
      t = { s with wq := t.wq }) ∧
  (∀ (s : State) (p : Side) (n : Fin 8) (bs : List Byte) (k : Nat), (s.sq p n).fetching = some k → bs.length = 64 →
    (judge p n bs (s.sq p n).nextSeq = none →
      ∃ t i, exec (.descriptorArrival p n (some bs)) s = .next t ∧ (t.sq p n).items = (s.sq p n).items ++ [i] ∧ i.d = descOf bs ∧
        i.skip = false ∧ i.stage = .accepted ∧ (t.sq p n).head = ((s.sq p n).head + 1) % 2 ^ (s.sq p n).size.toNat ∧
        (t.sq p n).nextSeq = (s.sq p n).nextSeq + 1 ∧ (t.sq p n).fetching = none ∧ t.wq.accCnt = satInc s.wq.accCnt ∧ t.fr = s.fr ∧
        (∀ m, m ≠ n → t.sq p m = s.sq p m) ∧
        (∀ j, (s.store j).written = true → ∃ r, (t.store j).journal.getLast? = some r ∧ r.type = .accept ∧ r.port = p ∧ r.ring = n ∧
          r.seq = (descOf bs).seq ∧ r.data = (descOf bs).tag)) ∧
    (judge p n bs (s.sq p n).nextSeq = some 0x0103 → s.bad = [] →
      ∃ t i, exec (.descriptorArrival p n (some bs)) s = .next t ∧ (t.sq p n).items = (s.sq p n).items ++ [i] ∧ i.skip = true ∧
        i.stage = .ready 0x0103 0 false ∧ (t.sq p n).head = ((s.sq p n).head + 1) % 2 ^ (s.sq p n).size.toNat ∧
        (t.sq p n).nextSeq = (s.sq p n).nextSeq ∧ t.wq.accCnt = s.wq.accCnt ∧ (t.frOf .wq).cntCorr = satInc (s.frOf .wq).cntCorr ∧
        (∀ j, (s.store j).written = true → ∃ r, (t.store j).journal.getLast? = some r ∧ r.type = .skip ∧ r.status = 0x0103))) ∧
  (∀ (s : State) (p : Side) (n : Fin 8) (k : Nat), (s.sq p n).fetching = some k → s.bad = [] →
    ∃ t, exec (.descriptorArrival p n none) s = .next t ∧ (t.sq p n).err = true ∧ (t.sq p n).items = (s.sq p n).items ∧
      (t.sq p n).head = (s.sq p n).head ∧ (t.frOf .wq).cntCorr = satInc (s.frOf .wq).cntCorr)

/-- R308, R309, R314, R326, R332, R339: ITEM_COMPLETE, COMPLETION_POST, POSTED_TIMER, CQ_COALESCE_TIMER. -/
def Obligations.ItemsCompleteAndPost : Prop :=
  (∀ (s : State) (p : Side) (n : Fin 8) (i : Item) (c : Nat) (r : Word) (x : Bool), (s.sq p n).items = [i] → i.stage = .ended c r →
    (c = 0 → i.mark + i.d.least ≤ s.tb.now.toNat ∧ (x = true ∨ isOut i.d.opc = false)) →
    bitOf i.d.flags 1 = false → (s.wport p).returns = [] →
    ∃ t, exec (.itemComplete p n x) s = .next t ∧ (t.sq p n).items = [{ i with stage := .ready c r false }] ∧
      (t.wport p).landing = (s.wport p).landing ∧ (∀ m, m ≠ n → t.sq p m = s.sq p m) ∧ t.fr = s.fr ∧ t.dev = s.dev ∧
      (∀ j, (s.store j).written = true → ∃ x, (t.store j).journal.getLast? = some x ∧ x.type = .done ∧ x.port = p ∧ x.ring = n ∧
        x.seq = i.d.seq ∧ x.status = c)) ∧
  (∀ (s : State) (p : Side) (n k : Fin 8) (i : Item) (c : Nat) (r : Word), s.live p → (s.hport p).link = .l0 → (s.sq p n).cq = k →
    (s.sq p n).items = [i] → i.stage = .ready c r false → i.old = false → (s.cq p k).en = true → (s.cq p k).ien = false →
    ((s.cq p k).tail + 1) % 2 ^ (s.cq p k).size.toNat ≠ (s.cq p k).head → (s.cq p k).postings = (s.cq p k).covered →
    (s.cq p k).tail < 2 ^ (s.cq p k).size.toNat →
    ∃ t, exec (.completionPost p n) s = .next t ∧ (t.sq p n).items = [{ i with stage := .posted k (s.cq p k).postings }] ∧
      (t.cq p k).tail = ((s.cq p k).tail + 1) % 2 ^ (s.cq p k).size.toNat ∧ (t.cq p k).postings = (s.cq p k).postings + 1 ∧
      (t.cq p k).phase = (if (s.cq p k).tail + 1 = 2 ^ (s.cq p k).size.toNat then !(s.cq p k).phase else (s.cq p k).phase) ∧
      (t.wport p).host = msetList 0 (msetList 0 (s.wport p).host ((s.cq p k).tag.toNat + 8 * (s.cq p k).tail) (leBytes 8 i.d.tag.toNat))
        ((s.cq p k).base.toNat + 16 * (s.cq p k).tail) (cqEntry p k n i c r false (s.cq p k).phase) ∧
      (t.wport p).landing = (s.wport p).landing ∧ t = { s with wq := t.wq }) ∧
  (∀ (s : State) (p : Side) (n : Fin 8) (u : Tick), (s.cq p n).uncoveredAt = some u → 1000 ≤ elapsed s.tb.now u →
    ∃ t, exec (.postedTimer p n) s = .next t ∧ (t.cq p n).uncoveredAt = none ∧ (t.cq p n).covered = (s.cq p n).postings ∧
      (∀ m, m ≠ n → t.cq p m = s.cq p m) ∧
      (∀ j, (s.store j).written = true → ∃ x, (t.store j).journal.getLast? = some x ∧ x.type = .posted ∧ x.port = p ∧ x.ring = n)) ∧
  (∀ (s : State) (p : Side) (n : Fin 8) (u : Tick), (s.cq p n).unsignalledAt = some u → (s.cq p n).ien = true → (s.cq p n).coalT ≠ 0 →
    100 * (s.cq p n).coalT.toNat ≤ elapsed s.tb.now u →
    ∃ t, exec (.cqCoalesceTimer p n) s = .next t ∧ t.cq p n = { s.cq p n with unsignalled := 0, unsignalledAt := none } ∧
      (∀ m, m ≠ n → t.cq p m = s.cq p m) ∧ t = { s with wq := t.wq, hp := t.hp } ∧
      ((t.hport p).pend.getLsbD (s.cq p n).vec.toNat = true ∨ (t.hport p).sent.length = (s.hport p).sent.length + 1))

/-- R322 to R324, R370: LANDING_WRITE, ENTRY_WRITE, FLIP_VERDICT, REMAINDER_REBUILD. -/
def Obligations.LandingWindowWritesAndFlips : Prop :=
  (∀ (s : State) (p : Side) (off : Nat) (bs : List Byte), s.live p → 4096 ≤ off → bs ≠ [] → off % 4096 + bs.length ≤ 4096 →
    off + bs.length ≤ 0x200000 → s.flipping p (off / 4096) = false → s.marchHolds p off bs.length = false →
    (bs.length ≤ 256 → (s.wport p).owned (off / 4096) = false →
      exec (.landingWrite p off bs false false) s = .next (s.modWport p (landData (off / 4096) off bs)) ∧
      (Memory.wf 0 (s.wport p).landing = true → ∀ (a : Nat), mget 0 (landData (off / 4096) off bs (s.wport p)).landing a =
        if off ≤ a ∧ a < off + bs.length then bs.getD (a - off) 0 else mget 0 (s.wport p).landing a)) ∧
    (bs.length ≤ 256 → (s.wport p).owned (off / 4096) = true → s.bad = [] →
      ∃ t, exec (.landingWrite p off bs false false) s = .next t ∧ t.wport p = s.wport p ∧ t.wq.dropCnt = satInc s.wq.dropCnt ∧
        (t.frOf .wq).cntCorr = satInc (s.frOf .wq).cntCorr ∧ t = { s with wq := t.wq, fr := t.fr, hp := t.hp }) ∧
    (∀ (x y : Bool), (x = true ∨ 256 < bs.length) → s.bad = [] →
      ∃ t, exec (.landingWrite p off bs x y) s = .next t ∧ (t.frOf .hp).cntCorr = satInc (s.frOf .hp).cntCorr ∧
      t = { s with fr := t.fr, hp := t.hp })) ∧
  (∀ (s : State) (p : Side) (g : Fin 512) (bs : List Byte), s.live p → g.val ≠ 0 → bs.length = 8 → bs.getD 0 0 = 0 →
    s.flipping p g.val = false → s.marchHolds p (8 * g.val) 8 = false → mget 0 (s.wport p).landing (8 * g.val) ≠ 0xD5 →
    ∃ t f, exec (.entryWrite p (8 * g.val) bs false) s = .next t ∧ (t.wport p).flips = (s.wport p).flips ++ [f] ∧ f.page = g ∧
      f.taken = true ∧ f.entry = bs.set 1 0 ∧ f.writes = [] ∧ (t.wport p).landing = (s.wport p).landing ∧ t = { s with wq := t.wq }) ∧
  (∀ (s : State) (p : Side) (f : Flip) (fs : List Flip), (s.wport p).flips = f :: fs → f.writes = [] → f.entry.length = 8 →
    Memory.wf 0 (s.wport p).landing = true →
    ∃ t, exec (.flipVerdict p) s = .next t ∧ (t.wport p).flips = fs ∧ t = { s with wq := t.wq } ∧
      (f.taken = true → ∀ k, k < 8 → mget 0 (t.wport p).landing (8 * f.page.val + k) = f.entry.getD k 0) ∧
      (f.taken = false → (t.wport p).landing = (s.wport p).landing)) ∧
  (∀ (s : State) (p : Side) (g : Fin 512), (s.wport p).remBad.contains g.val = true → s.marchMeets p (4096 * g.val) 4096 = false →
    ∃ t, exec (.remainderRebuild p g) s = .next t ∧ (t.wport p).remBad.contains g.val = false ∧ t.cv.rebuildCnt = satInc s.cv.rebuildCnt ∧
      (t.wport p).landing = (s.wport p).landing ∧ t = { s with wq := t.wq, cv := { s.cv with rebuildCnt := t.cv.rebuildCnt } })

/-- R6 to R9, R292, R303, R339, R446: REGISTER_WRITE, LOW_HALF_READ. -/
def Obligations.RegisterAccesses : Prop :=
  (∀ (s : State) (p : Side) (o : Nat) (v : BitVec 32), s.live p → s.isolatedAt o = false → s.bad = [] →
    (∀ k, s.inTurn (.registerWrite (.bar0 p o) v k)) →
    (bar0Reg p s o = none → ∃ t, exec (.registerWrite (.bar0 p o) v .whole) s = .next t ∧
      (t.hport p).disc = satInc (s.hport p).disc ∧ (t.hport p).refused = (s.hport p).refused ∧
      (t.frOf .hp).cntCorr = satInc (s.frOf .hp).cntCorr ∧ t = { s with fr := t.fr, hp := t.hp }) ∧
    (∃ t, exec (.registerWrite (.bar0 p o) v .partialBytes) s = .next t ∧ (t.hport p).disc = satInc (s.hport p).disc ∧
      (t.frOf .hp).cntCorr = satInc (s.frOf .hp).cntCorr ∧ t = { s with fr := t.fr, hp := t.hp }) ∧
    (∃ t, exec (.registerWrite (.bar0 p o) v .poisoned) s = .next t ∧ (t.hport p).disc = (s.hport p).disc ∧
      (t.hport p).refused = (s.hport p).refused ∧ (t.frOf .hp).cntCorr = satInc (s.frOf .hp).cntCorr ∧
      t = { s with fr := t.fr, hp := t.hp }) ∧
    ((bar0Reg p s o).isSome = true → bar0Write p o v = none → v = 0 →
      exec (.registerWrite (.bar0 p o) v .whole) s = .next (s.modHport p (fun h => { h with refused := satInc h.refused })))) ∧
  (∀ (s : State) (p : Side) (b : Block) (v : BitVec 32), s.live p →
    (isolated b s = false → s.inTurn (.registerWrite (.bar0 p (0x1000 * b.id + 0x140)) v .whole) → v.toNat < 16 → ∃ t, exec (.registerWrite (.bar0 p (0x1000 * b.id + 0x140)) v .whole) s = .next t ∧ (t.frOf b).ien = v.extractLsb' 0 4 ∧
      (∀ c, c ≠ b → t.frOf c = s.frOf c) ∧ t = { s with fr := t.fr }) ∧
    (s.reaches p .tb (.registerWrite (.bar0 p 0x7020) v .whole) →
      exec (.registerWrite (.bar0 p 0x7020) v .whole) s = .next { s with tb := { s.tb with ienCmp := v } })) ∧
  (∀ (s : State) (p : Side) (n : Fin 8) (v : BitVec 32), s.live p → isolated .wq s = false →
    ((s.sq p n).en = false → exec (.registerWrite (.bar0 p (0x10010 + 0x40 * n.val)) v .whole) s =
      .next (s.modSq p n (fun q => { q with seq0 := v }))) ∧
    ((s.sq p n).en = true → exec (.registerWrite (.bar0 p (0x10010 + 0x40 * n.val)) v .whole) s =
      .next (s.modHport p (fun h => { h with refused := satInc h.refused }))) ∧
    ((s.hport p).pend = 0 → exec (.registerWrite (.config p .msix) v .whole) s =
      .next (s.modHport p (fun h => { h with msixEn := v.getLsbD 15, fnMask := v.getLsbD 14 }))) ∧
    ((v.toNat % 4 = 0 ∨ v.toNat % 4 = 3) → exec (.registerWrite (.config p .power) v .whole) s =
      .next (s.modHport p (fun h => { h with d3 := decide (v.toNat % 4 = 3) }))) ∧
    (∀ (o : Nat), s.marchHolds p o 4 = false → exec (.lowHalfRead p (.bar2 o)) s = .next (readData p (landingRead p o s) s)) ∧
    (∀ (r : CfgReg), exec (.lowHalfRead p (.config r)) s = .next (readData p (configRead p r s) s)) ∧
    (isolated .tb s = false → ∃ t, exec (.lowHalfRead p (.bar0 0x7008)) s = .next t ∧ (t.hport p).lastRead = some (loHalf s.tb.now) ∧
      ((t.hport p).holds.find? (fun h => h.1 == 0x700C)) = some (0x700C, hiHalf s.tb.now) ∧ t.hport p.other = s.hport p.other ∧
      t = { s with hp := t.hp })) ∧
  (∀ (s : State) (p : Side) (k : Nat) (v : BitVec 32), s.tapOpen →
    (s.dbgAvail = false → exec (.registerWrite (.debug k) v .whole) s = .next (dbgRefuse (s.viaTap 0x21 (BitVec.ofNat 8 k)))) ∧
    (∃ t, exec (.lowHalfRead p (.debug k none)) s = .next t ∧ t.pcr.tdo = some (dbgReg k s) ∧ t = { s with pcr := t.pcr }) ∧
    (∃ t, exec (.lowHalfRead p (.idcode .a)) s = .next t ∧ t.pcr.tdo = some 0x1E064573 ∧ t = { s with pcr := t.pcr }))

/-- R314, R315, R318, R320, R321, R393: NOP, FENCE, MODE_REQ, RESET_REQ, HRESET_EXPIRY, SNAPSHOT, TALLY_READ, LOG_READ, STORE_READ. -/
def Obligations.ReadingAndRequestingItems : Prop :=
  (∀ (s : State) (p : Side) (n : Fin 8) (i : Item), i.d.arg1 = 0 → i.d.arg2 = 0 → i.d.arg3 = 0 →
    (s.itemWaits p n i 0x00 → i.d.arg0 = 0 → i.d.noData →
      ∃ t, exec (.nop p n) s = .next t ∧ s.itemAt t p n i (.ended 0 0) ∧ t = { s with wq := t.wq }) ∧
    (s.itemWaits p n i 0x01 → i.d.arg0 < 65536 → i.d.noData →
      ∃ t, exec (.fence p n) s = .next t ∧ t = { s with wq := t.wq } ∧
        (s.fenced p n i.d.arg0 i.jseq = false → s.itemAt t p n i (.ended 0 0)) ∧
        (s.fenced p n i.d.arg0 i.jseq = true → s.itemAt t p n i .begun)) ∧
    (s.itemWaits p n i 0x20 → i.d.arg0 = 1 → i.d.noData → s.dev = .run → s.devAt ≠ some s.tb.now → s.wq.modeReq = none →
      ∃ t, exec (.modeReq p n) s = .next t ∧ s.itemAt t p n i .begun ∧ t.begun p n i ∧ t.wq.modeReq = some (p, n) ∧
        t = { s with wq := t.wq, ms := t.ms }) ∧
    (s.pending = [] → s.wq.modeReq = some (p, n) → (s.sq p n).items = [i] → i.stage = .begun → i.d.arg0 = 1 → s.dev = .run →
      s.st.ack = none → State.nothingDue { s with wq := { s.wq with modeReq := none } } →
      ∃ t j, step s = .next t ∧ t.dev = .idle ∧ t.os.inhib = ⟨true, true⟩ ∧ t.linesStopped ∧ t.wq.modeReq = none ∧
        (t.sq p n).items = [j] ∧ j.stage = .begun ∧ j.d = i.d ∧ j.mark = 16 * s.tb.now.toNat + 2) ∧
    (s.itemWaits p n i 0x20 → i.d.arg0 = 0 → i.d.noData → (s.dev = .idle ∨ s.dev = .run ∨ s.dev = .halt) →
      ∃ t, exec (.modeReq p n) s = .next t ∧ s.itemAt t p n i (.ended 0 (BitVec.ofNat 32 s.dev.code)) ∧ t.begun p n i ∧ t.dev = s.dev) ∧
    (s.itemWaits p n i 0x21 → 1 ≤ i.d.arg0 → i.d.arg0 ≤ 10000 → i.d.noData → (s.dev = .idle ∨ s.dev = .run ∨ s.dev = .halt) →
      (s.hport p).hreset = [] →
      ∃ t j, exec (.resetReq p n) s = .next t ∧ (t.sq p n).items = [j] ∧ j.stage = .begun ∧ j.d = i.d ∧ j.mark = s.tb.now.toNat ∧
        t.begun p n i ∧ (t.hport p).hreset = [(n, s.tb.now + BitVec.ofNat 64 (100000 * i.d.arg0), false)] ∧
        t.hport p.other = s.hport p.other ∧ t.dev = s.dev) ∧
    (s.itemWaits p n i 0x30 → i.d.arg0 = 0 → i.d.outOk 12288 → (s.dev = .idle ∨ s.dev = .run) →
      ∃ t, exec (.snapshot p n) s = .next t ∧ s.itemAt t p n i .begun ∧ t = { s with wq := t.wq }) ∧
    (s.itemWaits p n i 0x31 → i.d.arg0 = 0 → i.d.outOk 4096 → s.ms.tally.length = 4096 →
      ∃ t, exec (.tallyRead p n) s = .next t ∧ s.itemAt t p n i (.ended 0 (loHalf s.ms.pub)) ∧
        (t.wport p).host = msetList 0 (s.wport p).host i.d.hostAddr s.ms.tally ∧ (t.wport p).landing = (s.wport p).landing ∧
        t = { s with wq := t.wq })) ∧
  (∀ (s : State) (p : Side) (n : Fin 8) (i : Item), i.d.arg1 = 0 → i.d.arg2 = 0 → i.d.arg3 = 0 →
    s.itemWaits p n i 0x71 → i.d.arg0 % 8 = 0 → i.d.len % 8 = 0 → i.d.arg0 + i.d.len ≤ 524288 → i.d.outOk i.d.len →
    ∃ t, exec (.storeRead p n) s = .next t ∧ s.itemTimed t p n i (.ended 0 (BitVec.ofNat 32 i.d.len)) ∧
      (t.wport p).host = msetList 0 (s.wport p).host i.d.hostAddr (mslice 0 (s.store s.survivor).user i.d.arg0 i.d.len) ∧
      t = { s with wq := t.wq }) ∧
  (∀ (s : State) (p : Side) (n : Fin 8) (i : Item), i.d.arg1 = 1 → i.d.arg2 = 0 → i.d.arg3 = 0 → s.itemWaits p n i 0x32 → i.d.outOk 32 →
    ∃ t, exec (.logRead p n) s = .next t ∧ t = { s with wq := t.wq } ∧
      (∀ e, ((s.store s.survivor).log.find? (fun e => e.eseq == BitVec.ofNat 32 i.d.arg0)) = some e →
        s.itemAt t p n i (.ended 0 1) ∧ (t.wport p).host = msetList 0 (s.wport p).host i.d.hostAddr (logBytes s.survivor e)) ∧
      (((s.store s.survivor).log.find? (fun e => e.eseq == BitVec.ofNat 32 i.d.arg0)) = none →
        s.itemAt t p n i (.ended 0 0) ∧ (t.wport p).host = msetList 0 (s.wport p).host i.d.hostAddr (List.replicate 32 0))) ∧
  (∀ (s : State) (p : Side) (n : Fin 8) (u : Tick), (s.hport p).hreset = [(n, u, false)] → u.toNat ≤ s.tb.now.toNat →
    ∃ t, exec (.hresetExpiry p n) s = .next t ∧ (t.hport p).hreset = [(n, u, true)] ∧ t.hport p.other = s.hport p.other ∧
      t = { s with hp := t.hp })

/-- R88 to R92, R442 to R444: TABLE_STAGE, TABLE_VERIFY, TABLE_COMMIT, ACK_TAP, ACK_TIMEOUT. -/
def Obligations.TablesAreStagedVerifiedAndCommitted : Prop :=
  (∀ (s : State) (p : Side) (n : Fin 8) (i : Item), s.split = false → s.hp.owner = some p →
    (s.st.lc = .develop ∨ s.st.lc = .commission) → (∀ j, (s.store j).written = true) → i.d.arg2 = 0 → i.d.arg3 = 0 →
    (s.itemWaits p n i 0x10 → i.d.arg1 = 0 → i.d.arg0 % 8 = 0 → i.d.arg0 + i.d.len ≤ 262144 → s.inRangeOk p i.d →
      s.marchMeets p i.d.winOff i.d.len = false →
      ∃ t, exec (.tableStage p n) s = .next t ∧ s.itemTimed t p n i (.ended 0 (BitVec.ofNat 32 i.d.len)) ∧ t.begun p n i ∧
        (∀ j, (t.store j).staging.bytes = msetList 0 (s.store j).staging.bytes i.d.arg0 ((s.wport p).data i.d) ∧
          (t.store j).staging.gen = 0 ∧ (t.store j).staging.st = .loaded ∧ (t.store j).active = (s.store j).active ∧
          (t.store j).active1 = (s.store j).active1 ∧ (t.store j).user = (s.store j).user) ∧ t.dev = s.dev) ∧
    (s.itemWaits p n i 0x11 → i.d.arg0 = 0 → i.d.arg1 = 0 → i.d.noData → (s.store .a).staging.st ≠ .empty → s.cvw3Busy = false →
      (verifyStaging i.d s).2.2 = none →
      ∃ t, exec (.tableVerify p n) s = .next t ∧ s.itemAt t p n i (.ended 0 (verifyWord (verifyStaging i.d s))) ∧
        (∀ j, (t.store j).staging.st = (if (verifyStaging i.d s).1 = 0 then .verified else .loaded) ∧
          (t.store j).staging.bytes = (s.store j).staging.bytes ∧ (t.store j).active = (s.store j).active) ∧ t.dev = s.dev) ∧
    (s.itemWaits p n i 0x12 → i.d.arg0 = 0 → i.d.arg1 = 0 → i.d.noData → (s.store .a).staging.st = .verified → s.cvw3Busy = false →
      (s.dev = .idle ∨ s.dev = .recovery) → s.st.ack = none → (verifyStaging i.d s).1 = 0 →
      ∃ t w, exec (.tableCommit p n) s = .next t ∧ s.itemAt t p n i .begun ∧ t.begun p n i ∧ t.st.ack = some w ∧ w.port = p ∧
        w.ring = n.val ∧ w.since = s.tb.now ∧ w.key = (tableOf (imageOf (s.store .a).staging.bytes)).cvA ∧
        (∀ j, (t.store j).slot = (s.store j).slot) ∧ t.dev = s.dev)) ∧
  (∀ (s : State) (p : Side) (n : Fin 8) (i : Item) (w : AckWait) (v : BitVec 32), s.st.ack = some w → w.port = p → w.ring = n.val →
    (s.sq p n).items = [i] → i.stage = .begun → s.tapOpen →
    (w.tap = true → v ≠ w.key → s.ackClosed w = false →
      ∃ t, exec (.ackTap v) s = .next t ∧ s.itemAt t p n i (.ended 0x0201 0xFF) ∧ t.st.ack = none ∧
      t = { s with wq := t.wq, st := { s.st with ack := none }, pcr := { s.pcr with ir := { s.pcr.ir with a := 0x10 } } }) ∧
    (3000000000 ≤ elapsed s.tb.now w.since → ∃ t, exec .ackTimeout s = .next t ∧ s.itemAt t p n i (.ended 0x0201 0xFF) ∧
      t = { s with wq := t.wq, st := { s.st with ack := none } }) ∧
    (w.tap = true → v = w.key → s.ackClosed w = false → i.d.opc = 0x12 → s.split = false → s.hp.owner = some p →
      (∀ j, (s.store j).written = true) → (s.store .a).staging.st = .verified → s.dev = .recovery →
      ∃ t, exec (.ackTap v) s = .next t ∧ s.itemAt t p n i (.ended 0 0) ∧ t.st.ack = none ∧ t.dev = .recovery ∧
        (∀ j, (t.store j).active1 = !(s.store j).active1 ∧ (t.store j).active.gen = (s.store .a).active.gen + 1 ∧
          (t.store j).active.st = .verified ∧ (t.store j).staging.st = .empty ∧ (t.store j).staging.bytes = (s.store j).active.bytes)) ∧
    (w.tap = true → v = w.key → s.ackClosed w = false → i.d.opc = 0x12 → s.split = false → s.hp.owner = some p →
      (∀ j, (s.store j).written = true) → (s.store .a).staging.st = .verified → s.dev = .idle → s.settled →
      ∃ t, exec (.ackTap v) s = .next t ∧ t.pcr.asserted = some .core ∧ t.pcr.cause = 9 ∧ t.dev = .reset ∧
        (∀ j, (t.store j).active1 = !(s.store j).active1 ∧ (t.store j).active.gen = (s.store .a).active.gen + 1)))

/-- R354, R361, R376, R384, R438, R440, R441: LINK_SEND, LINK_DETACH, CV_JOB, FULL_TEST, LC_SET, STORE_WRITE. -/
def Obligations.ActingItems : Prop :=
  (∀ (s : State) (p : Side) (n : Fin 8) (i : Item) (k : Fin 4), i.d.arg0 = k.val → i.d.arg1 = 0 → i.d.arg2 = 0 → i.d.arg3 = 0 →
    (s.dev = .idle ∨ s.dev = .run) → (s.pl.port[k] : PlPort).st = .up →
    (s.itemWaits p n i 0x40 → s.inRangeOk p i.d → i.d.len ≤ 4096 → s.marchMeets p i.d.winOff i.d.len = false →
      ∃ t x, exec (.linkSend p n) s = .next t ∧ s.itemAt t p n i .begun ∧ t.begun p n i ∧
        (t.pl.port[k] : PlPort).sends = (s.pl.port[k] : PlPort).sends ++ [x] ∧ x.port = p ∧ x.ring = n ∧ x.len = i.d.len ∧
        x.rest = (s.wport p).data i.d ∧ (∀ m, m ≠ k → t.pl.port[m] = s.pl.port[m])) ∧
    (s.itemWaits p n i 0x41 → i.d.noData → (s.partner k).type = 1 → (s.partner k).detach = true →
      ∃ t, exec (.linkDetach p n) s = .next t ∧ s.itemAt t p n i (.ended 0 (BitVec.ofNat 32 (s.partner k).dwin)) ∧ t.begun p n i ∧
        (t.pl.port[k] : PlPort).win = some (s.tb.now, 100000000 * (s.partner k).dwin) ∧ (t.pl.port[k] : PlPort).st = .up ∧
        (∀ m, m ≠ k → t.pl.port[m] = s.pl.port[m]))) ∧
  (∀ (s : State) (p : Side) (n : Fin 8) (i : Item) (k : Fin 4), s.itemWaits p n i 0x50 → i.d.arg0 = k.val + 4 → i.d.arg1 = 0 →
    i.d.arg2 = 0 → i.d.arg3 = 0 → s.inRangeOk p i.d → s.dev ≠ .recovery → (s.cv.ch[k] : Cvw).queue = [] → s.chanHeld k = false →
    (s.cv.ch[k] : Cvw).katBad = false → s.marchMeets p i.d.winOff i.d.len = false →
    ∃ t, exec (.cvJob p n) s = .next t ∧ (t.cv.ch[k] : Cvw).val = ((s.wport p).data i.d).foldl (cvStep false) (cvInit false) ∧
      (t.cv.ch[k] : Cvw).mode = false ∧ (t.cv.ch[k] : Cvw).held = some (p, n) ∧
      s.itemTimed t p n i (.ended 0 (cvRes false (t.cv.ch[k] : Cvw).val)) ∧ (∀ m, m ≠ k → t.cv.ch[m] = s.cv.ch[m]) ∧
      t = { s with wq := t.wq, cv := { s.cv with ch := t.cv.ch } }) ∧
  (∀ (s : State) (p : Side) (n : Fin 8) (i : Item), s.itemWaits p n i 0x60 → s.hp.owner = some p → s.dev = .idle → i.d.noData →
    i.d.arg2 = 0 → i.d.arg3 = 0 →
    (i.d.arg0 = 1 → i.d.arg1 = 0 → (s.st.lc = .develop ∨ s.st.lc = .commission) → s.st.full = none →
      ∃ t, exec (.fullTest p n) s = .next t ∧ s.itemAt t p n i .begun ∧ t.begun p n i ∧ t.st.full = some (p, n.val, s.tb.now) ∧
        t.st.fullPos = 0 ∧ t.st.fullFail = 0 ∧ t.dev = .idle) ∧
    (i.d.arg0 = 0x10 → i.d.arg1 = 1 → s.st.lc = .blank → s.ms.logBuf.length < 256 →
      ∃ t, exec (.lcSet p n) s = .next t ∧ s.itemAt t p n i (.ended 0 1) ∧ t.st.lc = .develop ∧ t.dev = .idle ∧
        (∀ j, (s.store j).written = true → (s.store j).identity.gen ≠ 0xFFFFFFFF → (t.store j).identity.lc = .develop) ∧
        ∃ e, t.ms.logBuf = s.ms.logBuf ++ [e] ∧ e.kind = 9 ∧ e.data16 = 0 ∧ e.data32 = 1)) ∧
  (∀ (s : State) (p : Side) (n : Fin 8) (i : Item), s.itemWaits p n i 0x70 → i.d.arg1 = 0 → i.d.arg2 = 0 → i.d.arg3 = 0 →
    i.d.arg0 % 8 = 0 → i.d.len % 8 = 0 → i.d.arg0 + i.d.len ≤ 524288 → s.inRangeOk p i.d → s.dev ≠ .recovery →
    s.marchMeets p i.d.winOff i.d.len = false →
    ∃ t, exec (.storeWrite p n) s = .next t ∧ s.itemTimed t p n i (.ended 0 (BitVec.ofNat 32 i.d.len)) ∧ t.begun p n i ∧
      (∀ j, (s.store j).written = true → Memory.wf 0 (s.store j).user = true → (∀ a, mget 0 (t.store j).user a =
        if i.d.arg0 ≤ a ∧ a < i.d.arg0 + i.d.len then mget 0 (s.wport p).landing (i.d.winOff + (a - i.d.arg0)) else mget 0 (s.store j).user a)) ∧
      (∀ j, (s.store j).written = false → t.store j = s.store j) ∧ (t.wport p).landing = (s.wport p).landing ∧ t.dev = s.dev)

/-- R372 to R375: CVW_FEED, CVW_CTL_WRITE, CVW_VAL_WRITE. -/
def Obligations.WriteFedChannels : Prop :=
  (∀ (s : State) (p : Side) (n : Fin 4), s.live p → isolated .cv s = false → cvwRefused p n s = false → (s.cv.ch[n] : Cvw).queue = [] →
    (∀ (w : Fin 3) (v : BitVec 32), s.inTurn (.cvwFeed p n w v) → s.tb.now.toNat + 4 < 2 ^ 64 → ∃ t, exec (.cvwFeed p n w v) s = .next t ∧
      (t.cv.ch[n] : Cvw) = { (s.cv.ch[n] : Cvw) with
        queue := [(.bytes ((leBytes 4 v.toNat).take (2 ^ w.val)), s.tb.now + BitVec.ofNat 64 (2 ^ w.val))] } ∧
      (∀ m, m ≠ n → t.cv.ch[m] = s.cv.ch[m]) ∧ t = { s with cv := { s.cv with ch := t.cv.ch } }) ∧
    (∀ (mode init : Bool), s.inTurn (.cvwCtlWrite p n (BitVec.ofNat 32 (bit mode + 2 * bit init))) → ∃ t, exec (.cvwCtlWrite p n (BitVec.ofNat 32 (bit mode + 2 * bit init))) s = .next t ∧
      (t.cv.ch[n] : Cvw) = { (s.cv.ch[n] : Cvw) with
        mode := mode, val := if init = true ∨ mode ≠ (s.cv.ch[n] : Cvw).mode then cvInit mode else (s.cv.ch[n] : Cvw).val } ∧
      (∀ m, m ≠ n → t.cv.ch[m] = s.cv.ch[m]) ∧ t = { s with cv := { s.cv with ch := t.cv.ch } }) ∧
    (∀ (v : BitVec 32), s.inTurn (.cvwValWrite p n v) → ∃ t, exec (.cvwValWrite p n v) s = .next t ∧
      (t.cv.ch[n] : Cvw) = { (s.cv.ch[n] : Cvw) with val := if (s.cv.ch[n] : Cvw).mode = true then v &&& 0xFFFF else v } ∧
      (∀ m, m ≠ n → t.cv.ch[m] = s.cv.ch[m]) ∧ t = { s with cv := { s.cv with ch := t.cv.ch } })) ∧
  (∀ (s : State) (p : Side) (n : Fin 4) (w : Fin 3) (v : BitVec 32), s.live p → isolated .cv s = false → cvwRefused p n s = true →
    s.inTurn (.cvwFeed p n w v) → s.inTurn (.cvwCtlWrite p n v) → s.inTurn (.cvwValWrite p n v) →
    ∃ t, exec (.cvwFeed p n w v) s = .next t ∧ exec (.cvwCtlWrite p n v) s = .next t ∧ exec (.cvwValWrite p n v) s = .next t ∧
      (t.hport p).refused = satInc (s.hport p).refused ∧ t.hport p.other = s.hport p.other ∧ t = { s with hp := t.hp })

/-- R383, R386, R387, R389, R390, R392, R394, R397, R384: the rows of the memories and the stores. -/
def Obligations.StoresLogAndTally : Prop :=
  (∀ (s : State) (d : Side), s.pcr.clk.tb = true → s.tb.now.toNat % 9 = 0 → s.ms.scrubAt.get d ≠ some s.tb.now →
    s.ms.scrubPos.get d + 1 < 540672 →
    (exec (.scrubStep d .clean) s = .next { s with ms := { s.ms with
      scrubPos := s.ms.scrubPos.set d (s.ms.scrubPos.get d + 1), scrubAt := s.ms.scrubAt.set d (some s.tb.now) } }) ∧
    (s.bad = [] → ∃ t, exec (.scrubStep d .single) s = .next t ∧ t.ms.sramCorr = satInc s.ms.sramCorr ∧ (t.frOf .ms).cntCorr = satInc (s.frOf .ms).cntCorr ∧
      t.ms.scrubPos.get d = s.ms.scrubPos.get d + 1 ∧ t = { s with ms := t.ms, fr := t.fr, hp := t.hp }) ∧
    (s.ms.scrubPos.get d < 16384 → s.bad = [] → (s.dev = .idle ∨ s.dev = .run) →
      ∃ t, exec (.scrubStep d .double) s = .next t ∧ t.inHold ∧ t.uncleared .ms 2 0 = true)) ∧
  (∀ (s : State) (i : Side) (a : Nat), s.pcr.clk.tb = true →
    (s.everyTicks 8640000000000 = true → ∃ t u, exec .readScrub s = .next t ∧ t.ms.readScrub = some u ∧ 1 ≤ (u - s.tb.now).toNat ∧ (u - s.tb.now).toNat ≤ 180000000000 ∧
      t = { s with ms := { s.ms with readScrub := some u }, free := t.free }) ∧
    (s.bad = [] → ∃ t, exec (.storeTimeout i .corrected a) s = .next t ∧ t.ms.storeCorr = satInc s.ms.storeCorr ∧
      (t.frOf .ms).cntCorr = satInc (s.frOf .ms).cntCorr ∧ t.ms.store = s.ms.store ∧ t = { s with ms := t.ms, fr := t.fr, hp := t.hp }) ∧
    (s.bad = [] → s.uncleared .ms 3 i.other.num = false → s.uncleared .pcr 7 i.other.num = false → s.uncleared .ms 3 i.num = false →
      ∃ t, exec (.storeTimeout i .uncorrectable a) s = .next t ∧ (t.store i).st = .failed ∧ (t.store i).user = (s.store i).user ∧
        t.store i.other = s.store i.other ∧ t.uncleared .ms 3 i.num = true ∧ t.dev = s.dev) ∧
    ((s.store i).st = .failed → (s.store i.other).st = .sound → (s.store i.other).readable = true → s.pcr.strOk.get i = true →
      exec (.storeResyncStart i) s = .next (s.modStore i (fun x => { x with st := .resync, readable := true }))) ∧
    ((s.store i).st = .resync → ∃ t, exec (.resyncComplete i) s = .next t ∧
      (s.store i.other).sameContents { t.store i with journal := (s.store i.other).journal } ∧
      (t.store i).journal = (s.store i.other).journal.map (fun r => if r.sound i.other then r.seal i else { r with rcrc := r.crc i ^^^ 1 }) ∧
      (t.store i).ident = (s.store i.other).ident ∧ t.store i.other = s.store i.other ∧
      ((t.store i).st = .quiet ∨ (t.store i).st = .sound) ∧ t = { s with ms := t.ms, fr := t.fr, hp := t.hp })) ∧
  (∀ (s : State), s.pcr.clk.tb = true →
    (∀ (e : LogEntry) (es : List LogEntry), s.ms.logBuf = e :: es → s.ms.logLost = 0 →
      ∃ t, exec .logEntryWrite s = .next t ∧ t.ms.logBuf = es ∧ t.ms.logHead = s.ms.logHead + 1 ∧
        (∀ i, (s.store i).written = true → (t.store i).log.getLast? = some { e with eseq := s.ms.logHead }) ∧
        (∀ i, (s.store i).written = false → t.store i = s.store i) ∧ t = { s with ms := t.ms }) ∧
    (∀ (b : List Byte), s.ms.tallyNew = some b →
      ∃ t, exec .tallyPublish s = .next t ∧ t.ms.pub = s.ms.pub + 1 ∧ t.ms.tallyNew = none ∧
        t.ms.tally = leBytes 8 (s.ms.pub + 1).toNat ++ b ++ leBytes 4 (crc32c (leBytes 8 (s.ms.pub + 1).toNat ++ b)).toNat ∧
        ((s.ms.pub + 1).toNat % 1000 ≠ 0 → t.ms.store = s.ms.store) ∧
        ((s.ms.pub + 1).toNat % 1000 = 0 → ∀ i, (s.store i).written = true →
          (t.store i).history.getLast? = some ((s.ms.pub + 1).toNat / 1000, t.ms.tally.take 128)) ∧ t = { s with ms := t.ms }) ∧
    (s.everyTicks 360000000000 = true → s.ms.wearAt ≠ some s.tb.now → ∃ t, exec .wearCheckpoint s = .next t ∧ (∀ i, (s.store i).written = true → (s.store i).identity.gen ≠ 0xFFFFFFFF → (t.store i).identity.wear = (s.store i).wear) ∧
      (∀ i, (t.store i).user = (s.store i).user ∧ (t.store i).slot = (s.store i).slot ∧ (t.store i).journal = (s.store i).journal) ∧
      t = { s with ms := t.ms }) ∧
    (s.everyTicks 360000000000 = true → ∃ t, exec .calibrationWrite s = .next t ∧
      (∀ i, (s.store i).written = true → (t.store i).cal = (s.af.q.toList.map (fun x => x.corr.toList)).flatten) ∧
      (∀ i, (t.store i).user = (s.store i).user ∧ (t.store i).slot = (s.store i).slot) ∧ t = { s with ms := t.ms }) ∧
    (s.everyTicks 360000000000 = true → (∀ b, (s.frOf b).cntCorr = s.ms.corrAt[b.idx]) →
      ∃ t, exec .correctedSummary s = .next t ∧ t.ms.logBuf = s.ms.logBuf ∧ t = { s with ms := { s.ms with corrAt := t.ms.corrAt } }))

/-- R430 to R437, R446 to R448: the rows of cruise and of the debugger. -/
def Obligations.CruiseAndDebug : Prop :=
  (∀ s : State, s.sliceDue = true → s.st.full = none →
    (s.cruiseMay = true → s.katHeld (sliceAt s.marchSlices s.st.pos).1 (sliceAt s.marchSlices s.st.pos).2 = false →
      s.pslWaits (sliceAt s.marchSlices s.st.pos).1 (sliceAt s.marchSlices s.st.pos).2 = false →
      ∃ t, exec .cruiseSliceStart s = .next t ∧ t.st.slice = some (s.st.pos, s.tb.now, false) ∧ t.st.pos = s.st.pos ∧
        t = { s with st := t.st, cv := t.cv }) ∧
    (s.cruiseMay = false → ∃ t, exec .cruiseSliceStart s = .next t ∧ t.st.slice = none ∧ t.st.pos = s.st.pos ∧ t.st.batch = none ∧
      t.st.deferCnt = satInc s.st.deferCnt ∧ t = { s with st := t.st })) ∧
  (∀ (s : State) (r : SliceResult) (k : Nat) (u : Tick), s.st.slice = some (k, u, false) →
    50 ≤ elapsed s.tb.now u → elapsed s.tb.now u ≤ 500 →
    (inRange 4850 5250 r.vl.1 = false →
      ∃ t, exec (.cruiseSliceEnd r) s = .next t ∧ t.st.slice = none ∧ t.st.pos = s.st.pos ∧ t.st.intrCnt = satInc s.st.intrCnt ∧
        t.fr = s.fr ∧ t.dev = s.dev) ∧
    (s.pcr.tbfOk = true → inRange 4850 5250 r.vl.1 = true → inRange 4850 5250 r.vl.2 = true → (sliceAt s.marchSlices k).1 = 2 →
      allRead 5 r.readings = true → s.st.pos + 1 < s.sliceCounts.sum →
      (sigOk 2 r = true → ∃ t, exec (.cruiseSliceEnd r) s = .next t ∧ t.st.slice = none ∧ t.st.pos = s.st.pos + 1 ∧
        t.st.failCur = s.st.failCur ∧ t.dev = s.dev ∧ t.os = s.os ∧ t.ms = s.ms) ∧
      (sigOk 2 r = false → s.bad = [] → (s.dev = .idle ∨ s.dev = .run) →
        ∃ t, exec (.cruiseSliceEnd r) s = .next t ∧ t.inHold ∧ t.uncleared .st 1 0 = true))) ∧
  (∀ s : State, s.st.cruise = true →
    (s.st.lateRec = false → s.bad = [] → 60000000000 ≤ elapsed s.tb.now s.st.roundAt →
      ∃ t, exec .cruiseLate s = .next t ∧ t.st.late = true ∧ (t.frOf .st).cntCorr = satInc (s.frOf .st).cntCorr ∧
        t = { s with st := t.st, fr := t.fr, hp := t.hp }) ∧
    (s.st.stallRec = false → 420000000000 + s.heldTime ≤ elapsed s.tb.now s.st.roundAt → s.bad = [] → (s.dev = .idle ∨ s.dev = .run) →
      ∃ t, exec .cruiseStall s = .next t ∧ t.inHold ∧ t.uncleared .st 2 0 = true)) ∧
  (∀ (s : State) (v : BitVec 32), s.tapOpen →
    (s.dbgAvail = false → exec .debugHalt s = .next (dbgRefuse (s.viaTap 0x21 0)) ∧ exec .debugResume s = .next (dbgRefuse (s.viaTap 0x21 0)) ∧
      exec .debugStep s = .next (dbgRefuse (s.viaTap 0x21 0)) ∧
      ∀ (e : Option Bool), exec (.dbgOpdataWrite v e) s = .next (dbgRefuse (s.viaTap 0x21 9))) ∧
    (s.dbgAvail = true → (s.dev = .start ∨ s.dev = .hold ∨ s.dev = .recovery) → s.st.dbg.haltA = false →
      exec .debugHalt s = .next (dbgRefuse (s.viaTap 0x21 0))) ∧
    (s.dbgAvail = true → s.dev = .run → (s.core .a).seq = .wait → s.st.dbg.haltA = false → (s.core .b).seq = .wait →
      (s.core .b).sealed = none →
      ∃ t, exec .debugHalt s = .next t ∧ t.st.dbg.pendHalt = true ∧ t.dev = .run ∧ t.ev.core = s.ev.core) ∧
    (s.dbgAvail = true → s.dev = .halt → s.st.dbg.haltA = true → s.st.dbg.haltB = true → s.st.ack = none →
      (s.st.dbg.pendHalt = false → ∃ t, exec .debugResume s = .next t ∧ t.dev = .idle ∧ t.os.inhib = ⟨true, true⟩ ∧ t.tb.now = s.tb.now) ∧
      ((s.core .a).rank < (s.core .a).ranks → ∃ t, exec .debugStep s = .next t ∧ (∀ c, (t.core c).seq = .scan) ∧
        (t.core .a).issued = true ∧ t.st.dbg.step = true ∧ t.dev = .halt ∧ (∀ c, (t.core c).opMem = (s.core c).opMem) ∧
        t = { s.viaTap 0x21 0 with ev := t.ev, st := t.st }) ∧
      ((s.core .a).ranks ≤ (s.core .a).rank → exec .debugStep s = .next (dbgRefuse (s.viaTap 0x21 0)))) ∧
    (s.dbgAvail = true → s.st.dbg.haltA = true → s.st.dbg.haltB = false → s.st.dbg.queue.length < 16 →
      ∃ t, exec (.dbgOpdataWrite v none) s = .next t ∧ t.st.dbg.queue = s.st.dbg.queue ++ [((s.core .a).scan, (s.core .a).rank, s.st.dbg.opAddr, v)] ∧
        t.core .b = s.core .b ∧ t.core .a = CoreSt.debugPoke .a s.st.dbg.opAddr.toNat v (s.core .a) ∧ t = { s.viaTap 0x21 9 with ev := t.ev, st := t.st }))
end

