-- ==== Sys2Proof/Laws/Bits.lean ====
section
/-!
SUPPORT. Sys2Proof/Laws/Bits.lean: the laws of the containers (a value for each side, a bank with an index) and of the
saturating counters.
-/
namespace Sys2Proof

@[simp] theorem Two.get_a {α : Type} (t : Two α) : t.get .a = t.a := rfl
@[simp] theorem Two.get_b {α : Type} (t : Two α) : t.get .b = t.b := rfl
@[simp] theorem Two.get_set {α : Type} (t : Two α) (i : Side) (x : α) : (t.set i x).get i = x := by cases i <;> rfl
@[simp] theorem Two.get_set_other {α : Type} (t : Two α) (i : Side) (x : α) : (t.set i x).get i.other = t.get i.other := by
  cases i <;> rfl
@[simp] theorem Two.get_other_set {α : Type} (t : Two α) (i : Side) (x : α) : (t.set i.other x).get i = t.get i := by
  cases i <;> rfl
theorem Two.get_set_ne {α : Type} (t : Two α) {i j : Side} (x : α) (h : j ≠ i) : (t.set i x).get j = t.get j := by
  cases i <;> cases j <;> first | rfl | exact absurd rfl h
@[simp] theorem Two.get_upd {α : Type} (t : Two α) (i : Side) (f : α → α) : (t.upd i f).get i = f (t.get i) := Two.get_set _ _ _
@[simp] theorem Two.get_upd_other {α : Type} (t : Two α) (i : Side) (f : α → α) : (t.upd i f).get i.other = t.get i.other :=
  Two.get_set_other _ _ _
@[simp] theorem Two.get_other_upd {α : Type} (t : Two α) (i : Side) (f : α → α) : (t.upd i.other f).get i = t.get i :=
  Two.get_other_set _ _ _
theorem Two.get_upd_ne {α : Type} (t : Two α) {i j : Side} (f : α → α) (h : j ≠ i) : (t.upd i f).get j = t.get j :=
  Two.get_set_ne _ _ h
@[simp] theorem Two.get_map {α β : Type} (f : α → β) (t : Two α) (i : Side) : (t.map f).get i = f (t.get i) := by cases i <;> rfl
@[simp] theorem Two.upd_get_self {α : Type} (t : Two α) (i : Side) : t.upd i (fun x => x) = t := by cases t; cases i <;> rfl

@[simp] theorem Side.other_other (p : Side) : p.other.other = p := by cases p <;> rfl
@[simp] theorem Side.other_ne (p : Side) : p.other ≠ p := by cases p <;> decide
@[simp] theorem Side.ne_other (p : Side) : p ≠ p.other := by cases p <;> decide
theorem Side.eq_or_other (p q : Side) : q = p ∨ q = p.other := by cases p <;> cases q <;> decide
@[simp] theorem Side.of_num (p : Side) : Side.of p.num = p := by cases p <;> rfl

@[simp] theorem upd_get {α : Type} {n : Nat} (v : Vector α n) (i : Fin n) (f : α → α) : (upd v i f)[i] = f v[i] := by
  simp [upd]
theorem upd_get_ne {α : Type} {n : Nat} (v : Vector α n) {i j : Fin n} (f : α → α) (h : j ≠ i) : (upd v i f)[j] = v[j] := by
  have : i.val ≠ j.val := fun e => h (Fin.ext e.symm)
  simp [upd, Vector.getElem_set_ne _ _ this]
@[simp] theorem vset_get {α : Type} {n : Nat} (v : Vector α n) (i : Fin n) (x : α) : (vset v i x)[i] = x := by simp [vset]
theorem vset_get_ne {α : Type} {n : Nat} (v : Vector α n) {i j : Fin n} (x : α) (h : j ≠ i) : (vset v i x)[j] = v[j] := by
  have : i.val ≠ j.val := fun e => h (Fin.ext e.symm)
  simp [vset, Vector.getElem_set_ne _ _ this]
@[simp] theorem vmapIdx_get {α : Type} {n : Nat} (v : Vector α n) (f : Fin n → α → α) (i : Fin n) : (vmapIdx v f)[i] = f i v[i] := by
  simp [vmapIdx]

theorem Block.idx_ne {b c : Block} (h : c ≠ b) : c.idx ≠ b.idx := by
  cases b <;> cases c <;> first | exact absurd rfl h | decide

@[simp] theorem elapsed_self (t : Tick) : elapsed t t = 0 := by simp [elapsed]

end Sys2Proof
end

