-- ==== Sys2Proof/Laws/State.lean ====
section
/-!
SUPPORT. Sys2Proof/Laws/State.lean: one law for each field of State and each update of one part of it, and what reading a
part back after its update gives.
-/
namespace Sys2Proof.Machine

/-! `State.modRec` -/
@[simp] theorem modRec_pending (s : State) (b : Block) (f : FaultRecord → FaultRecord) : (s.modRec b f).pending = s.pending := rfl
@[simp] theorem modRec_dev (s : State) (b : Block) (f : FaultRecord → FaultRecord) : (s.modRec b f).dev = s.dev := rfl
@[simp] theorem modRec_devAt (s : State) (b : Block) (f : FaultRecord → FaultRecord) : (s.modRec b f).devAt = s.devAt := rfl
@[simp] theorem modRec_bad (s : State) (b : Block) (f : FaultRecord → FaultRecord) : (s.modRec b f).bad = s.bad := rfl
@[simp] theorem modRec_sc (s : State) (b : Block) (f : FaultRecord → FaultRecord) : (s.modRec b f).sc = s.sc := rfl
@[simp] theorem modRec_pcr (s : State) (b : Block) (f : FaultRecord → FaultRecord) : (s.modRec b f).pcr = s.pcr := rfl
@[simp] theorem modRec_tb (s : State) (b : Block) (f : FaultRecord → FaultRecord) : (s.modRec b f).tb = s.tb := rfl
@[simp] theorem modRec_st (s : State) (b : Block) (f : FaultRecord → FaultRecord) : (s.modRec b f).st = s.st := rfl
@[simp] theorem modRec_ev (s : State) (b : Block) (f : FaultRecord → FaultRecord) : (s.modRec b f).ev = s.ev := rfl
@[simp] theorem modRec_ib (s : State) (b : Block) (f : FaultRecord → FaultRecord) : (s.modRec b f).ib = s.ib := rfl
@[simp] theorem modRec_ps (s : State) (b : Block) (f : FaultRecord → FaultRecord) : (s.modRec b f).ps = s.ps := rfl
@[simp] theorem modRec_af (s : State) (b : Block) (f : FaultRecord → FaultRecord) : (s.modRec b f).af = s.af := rfl
@[simp] theorem modRec_os (s : State) (b : Block) (f : FaultRecord → FaultRecord) : (s.modRec b f).os = s.os := rfl
@[simp] theorem modRec_hp (s : State) (b : Block) (f : FaultRecord → FaultRecord) : (s.modRec b f).hp = s.hp := rfl
@[simp] theorem modRec_wq (s : State) (b : Block) (f : FaultRecord → FaultRecord) : (s.modRec b f).wq = s.wq := rfl
@[simp] theorem modRec_pl (s : State) (b : Block) (f : FaultRecord → FaultRecord) : (s.modRec b f).pl = s.pl := rfl
@[simp] theorem modRec_cv (s : State) (b : Block) (f : FaultRecord → FaultRecord) : (s.modRec b f).cv = s.cv := rfl
@[simp] theorem modRec_ms (s : State) (b : Block) (f : FaultRecord → FaultRecord) : (s.modRec b f).ms = s.ms := rfl
@[simp] theorem modRec_free (s : State) (b : Block) (f : FaultRecord → FaultRecord) : (s.modRec b f).free = s.free := rfl
/-! `State.modSc` -/
@[simp] theorem modSc_pending (s : State) (f : Sc → Sc) : (s.modSc f).pending = s.pending := rfl
@[simp] theorem modSc_dev (s : State) (f : Sc → Sc) : (s.modSc f).dev = s.dev := rfl
@[simp] theorem modSc_devAt (s : State) (f : Sc → Sc) : (s.modSc f).devAt = s.devAt := rfl
@[simp] theorem modSc_bad (s : State) (f : Sc → Sc) : (s.modSc f).bad = s.bad := rfl
@[simp] theorem modSc_fr (s : State) (f : Sc → Sc) : (s.modSc f).fr = s.fr := rfl
@[simp] theorem modSc_pcr (s : State) (f : Sc → Sc) : (s.modSc f).pcr = s.pcr := rfl
@[simp] theorem modSc_tb (s : State) (f : Sc → Sc) : (s.modSc f).tb = s.tb := rfl
@[simp] theorem modSc_st (s : State) (f : Sc → Sc) : (s.modSc f).st = s.st := rfl
@[simp] theorem modSc_ev (s : State) (f : Sc → Sc) : (s.modSc f).ev = s.ev := rfl
@[simp] theorem modSc_ib (s : State) (f : Sc → Sc) : (s.modSc f).ib = s.ib := rfl
@[simp] theorem modSc_ps (s : State) (f : Sc → Sc) : (s.modSc f).ps = s.ps := rfl
@[simp] theorem modSc_af (s : State) (f : Sc → Sc) : (s.modSc f).af = s.af := rfl
@[simp] theorem modSc_os (s : State) (f : Sc → Sc) : (s.modSc f).os = s.os := rfl
@[simp] theorem modSc_hp (s : State) (f : Sc → Sc) : (s.modSc f).hp = s.hp := rfl
@[simp] theorem modSc_wq (s : State) (f : Sc → Sc) : (s.modSc f).wq = s.wq := rfl
@[simp] theorem modSc_pl (s : State) (f : Sc → Sc) : (s.modSc f).pl = s.pl := rfl
@[simp] theorem modSc_cv (s : State) (f : Sc → Sc) : (s.modSc f).cv = s.cv := rfl
@[simp] theorem modSc_ms (s : State) (f : Sc → Sc) : (s.modSc f).ms = s.ms := rfl
@[simp] theorem modSc_free (s : State) (f : Sc → Sc) : (s.modSc f).free = s.free := rfl
/-! `State.modPcr` -/
@[simp] theorem modPcr_pending (s : State) (f : Pcr → Pcr) : (s.modPcr f).pending = s.pending := rfl
@[simp] theorem modPcr_dev (s : State) (f : Pcr → Pcr) : (s.modPcr f).dev = s.dev := rfl
@[simp] theorem modPcr_devAt (s : State) (f : Pcr → Pcr) : (s.modPcr f).devAt = s.devAt := rfl
@[simp] theorem modPcr_bad (s : State) (f : Pcr → Pcr) : (s.modPcr f).bad = s.bad := rfl
@[simp] theorem modPcr_fr (s : State) (f : Pcr → Pcr) : (s.modPcr f).fr = s.fr := rfl
@[simp] theorem modPcr_sc (s : State) (f : Pcr → Pcr) : (s.modPcr f).sc = s.sc := rfl
@[simp] theorem modPcr_tb (s : State) (f : Pcr → Pcr) : (s.modPcr f).tb = s.tb := rfl
@[simp] theorem modPcr_st (s : State) (f : Pcr → Pcr) : (s.modPcr f).st = s.st := rfl
@[simp] theorem modPcr_ev (s : State) (f : Pcr → Pcr) : (s.modPcr f).ev = s.ev := rfl
@[simp] theorem modPcr_ib (s : State) (f : Pcr → Pcr) : (s.modPcr f).ib = s.ib := rfl
@[simp] theorem modPcr_ps (s : State) (f : Pcr → Pcr) : (s.modPcr f).ps = s.ps := rfl
@[simp] theorem modPcr_af (s : State) (f : Pcr → Pcr) : (s.modPcr f).af = s.af := rfl
@[simp] theorem modPcr_os (s : State) (f : Pcr → Pcr) : (s.modPcr f).os = s.os := rfl
@[simp] theorem modPcr_hp (s : State) (f : Pcr → Pcr) : (s.modPcr f).hp = s.hp := rfl
@[simp] theorem modPcr_wq (s : State) (f : Pcr → Pcr) : (s.modPcr f).wq = s.wq := rfl
@[simp] theorem modPcr_pl (s : State) (f : Pcr → Pcr) : (s.modPcr f).pl = s.pl := rfl
@[simp] theorem modPcr_cv (s : State) (f : Pcr → Pcr) : (s.modPcr f).cv = s.cv := rfl
@[simp] theorem modPcr_ms (s : State) (f : Pcr → Pcr) : (s.modPcr f).ms = s.ms := rfl
@[simp] theorem modPcr_free (s : State) (f : Pcr → Pcr) : (s.modPcr f).free = s.free := rfl
/-! `State.modTb` -/
@[simp] theorem modTb_pending (s : State) (f : Tb → Tb) : (s.modTb f).pending = s.pending := rfl
@[simp] theorem modTb_dev (s : State) (f : Tb → Tb) : (s.modTb f).dev = s.dev := rfl
@[simp] theorem modTb_devAt (s : State) (f : Tb → Tb) : (s.modTb f).devAt = s.devAt := rfl
@[simp] theorem modTb_bad (s : State) (f : Tb → Tb) : (s.modTb f).bad = s.bad := rfl
@[simp] theorem modTb_fr (s : State) (f : Tb → Tb) : (s.modTb f).fr = s.fr := rfl
@[simp] theorem modTb_sc (s : State) (f : Tb → Tb) : (s.modTb f).sc = s.sc := rfl
@[simp] theorem modTb_pcr (s : State) (f : Tb → Tb) : (s.modTb f).pcr = s.pcr := rfl
@[simp] theorem modTb_st (s : State) (f : Tb → Tb) : (s.modTb f).st = s.st := rfl
@[simp] theorem modTb_ev (s : State) (f : Tb → Tb) : (s.modTb f).ev = s.ev := rfl
@[simp] theorem modTb_ib (s : State) (f : Tb → Tb) : (s.modTb f).ib = s.ib := rfl
@[simp] theorem modTb_ps (s : State) (f : Tb → Tb) : (s.modTb f).ps = s.ps := rfl
@[simp] theorem modTb_af (s : State) (f : Tb → Tb) : (s.modTb f).af = s.af := rfl
@[simp] theorem modTb_os (s : State) (f : Tb → Tb) : (s.modTb f).os = s.os := rfl
@[simp] theorem modTb_hp (s : State) (f : Tb → Tb) : (s.modTb f).hp = s.hp := rfl
@[simp] theorem modTb_wq (s : State) (f : Tb → Tb) : (s.modTb f).wq = s.wq := rfl
@[simp] theorem modTb_pl (s : State) (f : Tb → Tb) : (s.modTb f).pl = s.pl := rfl
@[simp] theorem modTb_cv (s : State) (f : Tb → Tb) : (s.modTb f).cv = s.cv := rfl
@[simp] theorem modTb_ms (s : State) (f : Tb → Tb) : (s.modTb f).ms = s.ms := rfl
@[simp] theorem modTb_free (s : State) (f : Tb → Tb) : (s.modTb f).free = s.free := rfl
/-! `State.modSt` -/
@[simp] theorem modSt_pending (s : State) (f : St → St) : (s.modSt f).pending = s.pending := rfl
@[simp] theorem modSt_dev (s : State) (f : St → St) : (s.modSt f).dev = s.dev := rfl
@[simp] theorem modSt_devAt (s : State) (f : St → St) : (s.modSt f).devAt = s.devAt := rfl
@[simp] theorem modSt_bad (s : State) (f : St → St) : (s.modSt f).bad = s.bad := rfl
@[simp] theorem modSt_fr (s : State) (f : St → St) : (s.modSt f).fr = s.fr := rfl
@[simp] theorem modSt_sc (s : State) (f : St → St) : (s.modSt f).sc = s.sc := rfl
@[simp] theorem modSt_pcr (s : State) (f : St → St) : (s.modSt f).pcr = s.pcr := rfl
@[simp] theorem modSt_tb (s : State) (f : St → St) : (s.modSt f).tb = s.tb := rfl
@[simp] theorem modSt_ev (s : State) (f : St → St) : (s.modSt f).ev = s.ev := rfl
@[simp] theorem modSt_ib (s : State) (f : St → St) : (s.modSt f).ib = s.ib := rfl
@[simp] theorem modSt_ps (s : State) (f : St → St) : (s.modSt f).ps = s.ps := rfl
@[simp] theorem modSt_af (s : State) (f : St → St) : (s.modSt f).af = s.af := rfl
@[simp] theorem modSt_os (s : State) (f : St → St) : (s.modSt f).os = s.os := rfl
@[simp] theorem modSt_hp (s : State) (f : St → St) : (s.modSt f).hp = s.hp := rfl
@[simp] theorem modSt_wq (s : State) (f : St → St) : (s.modSt f).wq = s.wq := rfl
@[simp] theorem modSt_pl (s : State) (f : St → St) : (s.modSt f).pl = s.pl := rfl
@[simp] theorem modSt_cv (s : State) (f : St → St) : (s.modSt f).cv = s.cv := rfl
@[simp] theorem modSt_ms (s : State) (f : St → St) : (s.modSt f).ms = s.ms := rfl
@[simp] theorem modSt_free (s : State) (f : St → St) : (s.modSt f).free = s.free := rfl
/-! `State.modDbg` -/
@[simp] theorem modDbg_pending (s : State) (f : Dbg → Dbg) : (s.modDbg f).pending = s.pending := rfl
@[simp] theorem modDbg_dev (s : State) (f : Dbg → Dbg) : (s.modDbg f).dev = s.dev := rfl
@[simp] theorem modDbg_devAt (s : State) (f : Dbg → Dbg) : (s.modDbg f).devAt = s.devAt := rfl
@[simp] theorem modDbg_bad (s : State) (f : Dbg → Dbg) : (s.modDbg f).bad = s.bad := rfl
@[simp] theorem modDbg_fr (s : State) (f : Dbg → Dbg) : (s.modDbg f).fr = s.fr := rfl
@[simp] theorem modDbg_sc (s : State) (f : Dbg → Dbg) : (s.modDbg f).sc = s.sc := rfl
@[simp] theorem modDbg_pcr (s : State) (f : Dbg → Dbg) : (s.modDbg f).pcr = s.pcr := rfl
@[simp] theorem modDbg_tb (s : State) (f : Dbg → Dbg) : (s.modDbg f).tb = s.tb := rfl
@[simp] theorem modDbg_ev (s : State) (f : Dbg → Dbg) : (s.modDbg f).ev = s.ev := rfl
@[simp] theorem modDbg_ib (s : State) (f : Dbg → Dbg) : (s.modDbg f).ib = s.ib := rfl
@[simp] theorem modDbg_ps (s : State) (f : Dbg → Dbg) : (s.modDbg f).ps = s.ps := rfl
@[simp] theorem modDbg_af (s : State) (f : Dbg → Dbg) : (s.modDbg f).af = s.af := rfl
@[simp] theorem modDbg_os (s : State) (f : Dbg → Dbg) : (s.modDbg f).os = s.os := rfl
@[simp] theorem modDbg_hp (s : State) (f : Dbg → Dbg) : (s.modDbg f).hp = s.hp := rfl
@[simp] theorem modDbg_wq (s : State) (f : Dbg → Dbg) : (s.modDbg f).wq = s.wq := rfl
@[simp] theorem modDbg_pl (s : State) (f : Dbg → Dbg) : (s.modDbg f).pl = s.pl := rfl
@[simp] theorem modDbg_cv (s : State) (f : Dbg → Dbg) : (s.modDbg f).cv = s.cv := rfl
@[simp] theorem modDbg_ms (s : State) (f : Dbg → Dbg) : (s.modDbg f).ms = s.ms := rfl
@[simp] theorem modDbg_free (s : State) (f : Dbg → Dbg) : (s.modDbg f).free = s.free := rfl
/-! `State.modEv` -/
@[simp] theorem modEv_pending (s : State) (f : Ev → Ev) : (s.modEv f).pending = s.pending := rfl
@[simp] theorem modEv_dev (s : State) (f : Ev → Ev) : (s.modEv f).dev = s.dev := rfl
@[simp] theorem modEv_devAt (s : State) (f : Ev → Ev) : (s.modEv f).devAt = s.devAt := rfl
@[simp] theorem modEv_bad (s : State) (f : Ev → Ev) : (s.modEv f).bad = s.bad := rfl
@[simp] theorem modEv_fr (s : State) (f : Ev → Ev) : (s.modEv f).fr = s.fr := rfl
@[simp] theorem modEv_sc (s : State) (f : Ev → Ev) : (s.modEv f).sc = s.sc := rfl
@[simp] theorem modEv_pcr (s : State) (f : Ev → Ev) : (s.modEv f).pcr = s.pcr := rfl
@[simp] theorem modEv_tb (s : State) (f : Ev → Ev) : (s.modEv f).tb = s.tb := rfl
@[simp] theorem modEv_st (s : State) (f : Ev → Ev) : (s.modEv f).st = s.st := rfl
@[simp] theorem modEv_ib (s : State) (f : Ev → Ev) : (s.modEv f).ib = s.ib := rfl
@[simp] theorem modEv_ps (s : State) (f : Ev → Ev) : (s.modEv f).ps = s.ps := rfl
@[simp] theorem modEv_af (s : State) (f : Ev → Ev) : (s.modEv f).af = s.af := rfl
@[simp] theorem modEv_os (s : State) (f : Ev → Ev) : (s.modEv f).os = s.os := rfl
@[simp] theorem modEv_hp (s : State) (f : Ev → Ev) : (s.modEv f).hp = s.hp := rfl
@[simp] theorem modEv_wq (s : State) (f : Ev → Ev) : (s.modEv f).wq = s.wq := rfl
@[simp] theorem modEv_pl (s : State) (f : Ev → Ev) : (s.modEv f).pl = s.pl := rfl
@[simp] theorem modEv_cv (s : State) (f : Ev → Ev) : (s.modEv f).cv = s.cv := rfl
@[simp] theorem modEv_ms (s : State) (f : Ev → Ev) : (s.modEv f).ms = s.ms := rfl
@[simp] theorem modEv_free (s : State) (f : Ev → Ev) : (s.modEv f).free = s.free := rfl
/-! `State.modIb` -/
@[simp] theorem modIb_pending (s : State) (f : Ib → Ib) : (s.modIb f).pending = s.pending := rfl
@[simp] theorem modIb_dev (s : State) (f : Ib → Ib) : (s.modIb f).dev = s.dev := rfl
@[simp] theorem modIb_devAt (s : State) (f : Ib → Ib) : (s.modIb f).devAt = s.devAt := rfl
@[simp] theorem modIb_bad (s : State) (f : Ib → Ib) : (s.modIb f).bad = s.bad := rfl
@[simp] theorem modIb_fr (s : State) (f : Ib → Ib) : (s.modIb f).fr = s.fr := rfl
@[simp] theorem modIb_sc (s : State) (f : Ib → Ib) : (s.modIb f).sc = s.sc := rfl
@[simp] theorem modIb_pcr (s : State) (f : Ib → Ib) : (s.modIb f).pcr = s.pcr := rfl
@[simp] theorem modIb_tb (s : State) (f : Ib → Ib) : (s.modIb f).tb = s.tb := rfl
@[simp] theorem modIb_st (s : State) (f : Ib → Ib) : (s.modIb f).st = s.st := rfl
@[simp] theorem modIb_ev (s : State) (f : Ib → Ib) : (s.modIb f).ev = s.ev := rfl
@[simp] theorem modIb_ps (s : State) (f : Ib → Ib) : (s.modIb f).ps = s.ps := rfl
@[simp] theorem modIb_af (s : State) (f : Ib → Ib) : (s.modIb f).af = s.af := rfl
@[simp] theorem modIb_os (s : State) (f : Ib → Ib) : (s.modIb f).os = s.os := rfl
@[simp] theorem modIb_hp (s : State) (f : Ib → Ib) : (s.modIb f).hp = s.hp := rfl
@[simp] theorem modIb_wq (s : State) (f : Ib → Ib) : (s.modIb f).wq = s.wq := rfl
@[simp] theorem modIb_pl (s : State) (f : Ib → Ib) : (s.modIb f).pl = s.pl := rfl
@[simp] theorem modIb_cv (s : State) (f : Ib → Ib) : (s.modIb f).cv = s.cv := rfl
@[simp] theorem modIb_ms (s : State) (f : Ib → Ib) : (s.modIb f).ms = s.ms := rfl
@[simp] theorem modIb_free (s : State) (f : Ib → Ib) : (s.modIb f).free = s.free := rfl
/-! `State.modPs` -/
@[simp] theorem modPs_pending (s : State) (f : Ps → Ps) : (s.modPs f).pending = s.pending := rfl
@[simp] theorem modPs_dev (s : State) (f : Ps → Ps) : (s.modPs f).dev = s.dev := rfl
@[simp] theorem modPs_devAt (s : State) (f : Ps → Ps) : (s.modPs f).devAt = s.devAt := rfl
@[simp] theorem modPs_bad (s : State) (f : Ps → Ps) : (s.modPs f).bad = s.bad := rfl
@[simp] theorem modPs_fr (s : State) (f : Ps → Ps) : (s.modPs f).fr = s.fr := rfl
@[simp] theorem modPs_sc (s : State) (f : Ps → Ps) : (s.modPs f).sc = s.sc := rfl
@[simp] theorem modPs_pcr (s : State) (f : Ps → Ps) : (s.modPs f).pcr = s.pcr := rfl
@[simp] theorem modPs_tb (s : State) (f : Ps → Ps) : (s.modPs f).tb = s.tb := rfl
@[simp] theorem modPs_st (s : State) (f : Ps → Ps) : (s.modPs f).st = s.st := rfl
@[simp] theorem modPs_ev (s : State) (f : Ps → Ps) : (s.modPs f).ev = s.ev := rfl
@[simp] theorem modPs_ib (s : State) (f : Ps → Ps) : (s.modPs f).ib = s.ib := rfl
@[simp] theorem modPs_af (s : State) (f : Ps → Ps) : (s.modPs f).af = s.af := rfl
@[simp] theorem modPs_os (s : State) (f : Ps → Ps) : (s.modPs f).os = s.os := rfl
@[simp] theorem modPs_hp (s : State) (f : Ps → Ps) : (s.modPs f).hp = s.hp := rfl
@[simp] theorem modPs_wq (s : State) (f : Ps → Ps) : (s.modPs f).wq = s.wq := rfl
@[simp] theorem modPs_pl (s : State) (f : Ps → Ps) : (s.modPs f).pl = s.pl := rfl
@[simp] theorem modPs_cv (s : State) (f : Ps → Ps) : (s.modPs f).cv = s.cv := rfl
@[simp] theorem modPs_ms (s : State) (f : Ps → Ps) : (s.modPs f).ms = s.ms := rfl
@[simp] theorem modPs_free (s : State) (f : Ps → Ps) : (s.modPs f).free = s.free := rfl
/-! `State.modAf` -/
@[simp] theorem modAf_pending (s : State) (f : Af → Af) : (s.modAf f).pending = s.pending := rfl
@[simp] theorem modAf_dev (s : State) (f : Af → Af) : (s.modAf f).dev = s.dev := rfl
@[simp] theorem modAf_devAt (s : State) (f : Af → Af) : (s.modAf f).devAt = s.devAt := rfl
@[simp] theorem modAf_bad (s : State) (f : Af → Af) : (s.modAf f).bad = s.bad := rfl
@[simp] theorem modAf_fr (s : State) (f : Af → Af) : (s.modAf f).fr = s.fr := rfl
@[simp] theorem modAf_sc (s : State) (f : Af → Af) : (s.modAf f).sc = s.sc := rfl
@[simp] theorem modAf_pcr (s : State) (f : Af → Af) : (s.modAf f).pcr = s.pcr := rfl
@[simp] theorem modAf_tb (s : State) (f : Af → Af) : (s.modAf f).tb = s.tb := rfl
@[simp] theorem modAf_st (s : State) (f : Af → Af) : (s.modAf f).st = s.st := rfl
@[simp] theorem modAf_ev (s : State) (f : Af → Af) : (s.modAf f).ev = s.ev := rfl
@[simp] theorem modAf_ib (s : State) (f : Af → Af) : (s.modAf f).ib = s.ib := rfl
@[simp] theorem modAf_ps (s : State) (f : Af → Af) : (s.modAf f).ps = s.ps := rfl
@[simp] theorem modAf_os (s : State) (f : Af → Af) : (s.modAf f).os = s.os := rfl
@[simp] theorem modAf_hp (s : State) (f : Af → Af) : (s.modAf f).hp = s.hp := rfl
@[simp] theorem modAf_wq (s : State) (f : Af → Af) : (s.modAf f).wq = s.wq := rfl
@[simp] theorem modAf_pl (s : State) (f : Af → Af) : (s.modAf f).pl = s.pl := rfl
@[simp] theorem modAf_cv (s : State) (f : Af → Af) : (s.modAf f).cv = s.cv := rfl
@[simp] theorem modAf_ms (s : State) (f : Af → Af) : (s.modAf f).ms = s.ms := rfl
@[simp] theorem modAf_free (s : State) (f : Af → Af) : (s.modAf f).free = s.free := rfl
/-! `State.modOs` -/
@[simp] theorem modOs_pending (s : State) (f : Os → Os) : (s.modOs f).pending = s.pending := rfl
@[simp] theorem modOs_dev (s : State) (f : Os → Os) : (s.modOs f).dev = s.dev := rfl
@[simp] theorem modOs_devAt (s : State) (f : Os → Os) : (s.modOs f).devAt = s.devAt := rfl
@[simp] theorem modOs_bad (s : State) (f : Os → Os) : (s.modOs f).bad = s.bad := rfl
@[simp] theorem modOs_fr (s : State) (f : Os → Os) : (s.modOs f).fr = s.fr := rfl
@[simp] theorem modOs_sc (s : State) (f : Os → Os) : (s.modOs f).sc = s.sc := rfl
@[simp] theorem modOs_pcr (s : State) (f : Os → Os) : (s.modOs f).pcr = s.pcr := rfl
@[simp] theorem modOs_tb (s : State) (f : Os → Os) : (s.modOs f).tb = s.tb := rfl
@[simp] theorem modOs_st (s : State) (f : Os → Os) : (s.modOs f).st = s.st := rfl
@[simp] theorem modOs_ev (s : State) (f : Os → Os) : (s.modOs f).ev = s.ev := rfl
@[simp] theorem modOs_ib (s : State) (f : Os → Os) : (s.modOs f).ib = s.ib := rfl
@[simp] theorem modOs_ps (s : State) (f : Os → Os) : (s.modOs f).ps = s.ps := rfl
@[simp] theorem modOs_af (s : State) (f : Os → Os) : (s.modOs f).af = s.af := rfl
@[simp] theorem modOs_hp (s : State) (f : Os → Os) : (s.modOs f).hp = s.hp := rfl
@[simp] theorem modOs_wq (s : State) (f : Os → Os) : (s.modOs f).wq = s.wq := rfl
@[simp] theorem modOs_pl (s : State) (f : Os → Os) : (s.modOs f).pl = s.pl := rfl
@[simp] theorem modOs_cv (s : State) (f : Os → Os) : (s.modOs f).cv = s.cv := rfl
@[simp] theorem modOs_ms (s : State) (f : Os → Os) : (s.modOs f).ms = s.ms := rfl
@[simp] theorem modOs_free (s : State) (f : Os → Os) : (s.modOs f).free = s.free := rfl
/-! `State.modHp` -/
@[simp] theorem modHp_pending (s : State) (f : Hp → Hp) : (s.modHp f).pending = s.pending := rfl
@[simp] theorem modHp_dev (s : State) (f : Hp → Hp) : (s.modHp f).dev = s.dev := rfl
@[simp] theorem modHp_devAt (s : State) (f : Hp → Hp) : (s.modHp f).devAt = s.devAt := rfl
@[simp] theorem modHp_bad (s : State) (f : Hp → Hp) : (s.modHp f).bad = s.bad := rfl
@[simp] theorem modHp_fr (s : State) (f : Hp → Hp) : (s.modHp f).fr = s.fr := rfl
@[simp] theorem modHp_sc (s : State) (f : Hp → Hp) : (s.modHp f).sc = s.sc := rfl
@[simp] theorem modHp_pcr (s : State) (f : Hp → Hp) : (s.modHp f).pcr = s.pcr := rfl
@[simp] theorem modHp_tb (s : State) (f : Hp → Hp) : (s.modHp f).tb = s.tb := rfl
@[simp] theorem modHp_st (s : State) (f : Hp → Hp) : (s.modHp f).st = s.st := rfl
@[simp] theorem modHp_ev (s : State) (f : Hp → Hp) : (s.modHp f).ev = s.ev := rfl
@[simp] theorem modHp_ib (s : State) (f : Hp → Hp) : (s.modHp f).ib = s.ib := rfl
@[simp] theorem modHp_ps (s : State) (f : Hp → Hp) : (s.modHp f).ps = s.ps := rfl
@[simp] theorem modHp_af (s : State) (f : Hp → Hp) : (s.modHp f).af = s.af := rfl
@[simp] theorem modHp_os (s : State) (f : Hp → Hp) : (s.modHp f).os = s.os := rfl
@[simp] theorem modHp_wq (s : State) (f : Hp → Hp) : (s.modHp f).wq = s.wq := rfl
@[simp] theorem modHp_pl (s : State) (f : Hp → Hp) : (s.modHp f).pl = s.pl := rfl
@[simp] theorem modHp_cv (s : State) (f : Hp → Hp) : (s.modHp f).cv = s.cv := rfl
@[simp] theorem modHp_ms (s : State) (f : Hp → Hp) : (s.modHp f).ms = s.ms := rfl
@[simp] theorem modHp_free (s : State) (f : Hp → Hp) : (s.modHp f).free = s.free := rfl
/-! `State.modWq` -/
@[simp] theorem modWq_pending (s : State) (f : Wq → Wq) : (s.modWq f).pending = s.pending := rfl
@[simp] theorem modWq_dev (s : State) (f : Wq → Wq) : (s.modWq f).dev = s.dev := rfl
@[simp] theorem modWq_devAt (s : State) (f : Wq → Wq) : (s.modWq f).devAt = s.devAt := rfl
@[simp] theorem modWq_bad (s : State) (f : Wq → Wq) : (s.modWq f).bad = s.bad := rfl
@[simp] theorem modWq_fr (s : State) (f : Wq → Wq) : (s.modWq f).fr = s.fr := rfl
@[simp] theorem modWq_sc (s : State) (f : Wq → Wq) : (s.modWq f).sc = s.sc := rfl
@[simp] theorem modWq_pcr (s : State) (f : Wq → Wq) : (s.modWq f).pcr = s.pcr := rfl
@[simp] theorem modWq_tb (s : State) (f : Wq → Wq) : (s.modWq f).tb = s.tb := rfl
@[simp] theorem modWq_st (s : State) (f : Wq → Wq) : (s.modWq f).st = s.st := rfl
@[simp] theorem modWq_ev (s : State) (f : Wq → Wq) : (s.modWq f).ev = s.ev := rfl
@[simp] theorem modWq_ib (s : State) (f : Wq → Wq) : (s.modWq f).ib = s.ib := rfl
@[simp] theorem modWq_ps (s : State) (f : Wq → Wq) : (s.modWq f).ps = s.ps := rfl
@[simp] theorem modWq_af (s : State) (f : Wq → Wq) : (s.modWq f).af = s.af := rfl
@[simp] theorem modWq_os (s : State) (f : Wq → Wq) : (s.modWq f).os = s.os := rfl
@[simp] theorem modWq_hp (s : State) (f : Wq → Wq) : (s.modWq f).hp = s.hp := rfl
@[simp] theorem modWq_pl (s : State) (f : Wq → Wq) : (s.modWq f).pl = s.pl := rfl
@[simp] theorem modWq_cv (s : State) (f : Wq → Wq) : (s.modWq f).cv = s.cv := rfl
@[simp] theorem modWq_ms (s : State) (f : Wq → Wq) : (s.modWq f).ms = s.ms := rfl
@[simp] theorem modWq_free (s : State) (f : Wq → Wq) : (s.modWq f).free = s.free := rfl
/-! `State.modPl` -/
@[simp] theorem modPl_pending (s : State) (f : Pl → Pl) : (s.modPl f).pending = s.pending := rfl
@[simp] theorem modPl_dev (s : State) (f : Pl → Pl) : (s.modPl f).dev = s.dev := rfl
@[simp] theorem modPl_devAt (s : State) (f : Pl → Pl) : (s.modPl f).devAt = s.devAt := rfl
@[simp] theorem modPl_bad (s : State) (f : Pl → Pl) : (s.modPl f).bad = s.bad := rfl
@[simp] theorem modPl_fr (s : State) (f : Pl → Pl) : (s.modPl f).fr = s.fr := rfl
@[simp] theorem modPl_sc (s : State) (f : Pl → Pl) : (s.modPl f).sc = s.sc := rfl
@[simp] theorem modPl_pcr (s : State) (f : Pl → Pl) : (s.modPl f).pcr = s.pcr := rfl
@[simp] theorem modPl_tb (s : State) (f : Pl → Pl) : (s.modPl f).tb = s.tb := rfl
@[simp] theorem modPl_st (s : State) (f : Pl → Pl) : (s.modPl f).st = s.st := rfl
@[simp] theorem modPl_ev (s : State) (f : Pl → Pl) : (s.modPl f).ev = s.ev := rfl
@[simp] theorem modPl_ib (s : State) (f : Pl → Pl) : (s.modPl f).ib = s.ib := rfl
@[simp] theorem modPl_ps (s : State) (f : Pl → Pl) : (s.modPl f).ps = s.ps := rfl
@[simp] theorem modPl_af (s : State) (f : Pl → Pl) : (s.modPl f).af = s.af := rfl
@[simp] theorem modPl_os (s : State) (f : Pl → Pl) : (s.modPl f).os = s.os := rfl
@[simp] theorem modPl_hp (s : State) (f : Pl → Pl) : (s.modPl f).hp = s.hp := rfl
@[simp] theorem modPl_wq (s : State) (f : Pl → Pl) : (s.modPl f).wq = s.wq := rfl
@[simp] theorem modPl_cv (s : State) (f : Pl → Pl) : (s.modPl f).cv = s.cv := rfl
@[simp] theorem modPl_ms (s : State) (f : Pl → Pl) : (s.modPl f).ms = s.ms := rfl
@[simp] theorem modPl_free (s : State) (f : Pl → Pl) : (s.modPl f).free = s.free := rfl
/-! `State.modCv` -/
@[simp] theorem modCv_pending (s : State) (f : Cv → Cv) : (s.modCv f).pending = s.pending := rfl
@[simp] theorem modCv_dev (s : State) (f : Cv → Cv) : (s.modCv f).dev = s.dev := rfl
@[simp] theorem modCv_devAt (s : State) (f : Cv → Cv) : (s.modCv f).devAt = s.devAt := rfl
@[simp] theorem modCv_bad (s : State) (f : Cv → Cv) : (s.modCv f).bad = s.bad := rfl
@[simp] theorem modCv_fr (s : State) (f : Cv → Cv) : (s.modCv f).fr = s.fr := rfl
@[simp] theorem modCv_sc (s : State) (f : Cv → Cv) : (s.modCv f).sc = s.sc := rfl
@[simp] theorem modCv_pcr (s : State) (f : Cv → Cv) : (s.modCv f).pcr = s.pcr := rfl
@[simp] theorem modCv_tb (s : State) (f : Cv → Cv) : (s.modCv f).tb = s.tb := rfl
@[simp] theorem modCv_st (s : State) (f : Cv → Cv) : (s.modCv f).st = s.st := rfl
@[simp] theorem modCv_ev (s : State) (f : Cv → Cv) : (s.modCv f).ev = s.ev := rfl
@[simp] theorem modCv_ib (s : State) (f : Cv → Cv) : (s.modCv f).ib = s.ib := rfl
@[simp] theorem modCv_ps (s : State) (f : Cv → Cv) : (s.modCv f).ps = s.ps := rfl
@[simp] theorem modCv_af (s : State) (f : Cv → Cv) : (s.modCv f).af = s.af := rfl
@[simp] theorem modCv_os (s : State) (f : Cv → Cv) : (s.modCv f).os = s.os := rfl
@[simp] theorem modCv_hp (s : State) (f : Cv → Cv) : (s.modCv f).hp = s.hp := rfl
@[simp] theorem modCv_wq (s : State) (f : Cv → Cv) : (s.modCv f).wq = s.wq := rfl
@[simp] theorem modCv_pl (s : State) (f : Cv → Cv) : (s.modCv f).pl = s.pl := rfl
@[simp] theorem modCv_ms (s : State) (f : Cv → Cv) : (s.modCv f).ms = s.ms := rfl
@[simp] theorem modCv_free (s : State) (f : Cv → Cv) : (s.modCv f).free = s.free := rfl
/-! `State.modMs` -/
@[simp] theorem modMs_pending (s : State) (f : Ms → Ms) : (s.modMs f).pending = s.pending := rfl
@[simp] theorem modMs_dev (s : State) (f : Ms → Ms) : (s.modMs f).dev = s.dev := rfl
@[simp] theorem modMs_devAt (s : State) (f : Ms → Ms) : (s.modMs f).devAt = s.devAt := rfl
@[simp] theorem modMs_bad (s : State) (f : Ms → Ms) : (s.modMs f).bad = s.bad := rfl
@[simp] theorem modMs_fr (s : State) (f : Ms → Ms) : (s.modMs f).fr = s.fr := rfl
@[simp] theorem modMs_sc (s : State) (f : Ms → Ms) : (s.modMs f).sc = s.sc := rfl
@[simp] theorem modMs_pcr (s : State) (f : Ms → Ms) : (s.modMs f).pcr = s.pcr := rfl
@[simp] theorem modMs_tb (s : State) (f : Ms → Ms) : (s.modMs f).tb = s.tb := rfl
@[simp] theorem modMs_st (s : State) (f : Ms → Ms) : (s.modMs f).st = s.st := rfl
@[simp] theorem modMs_ev (s : State) (f : Ms → Ms) : (s.modMs f).ev = s.ev := rfl
@[simp] theorem modMs_ib (s : State) (f : Ms → Ms) : (s.modMs f).ib = s.ib := rfl
@[simp] theorem modMs_ps (s : State) (f : Ms → Ms) : (s.modMs f).ps = s.ps := rfl
@[simp] theorem modMs_af (s : State) (f : Ms → Ms) : (s.modMs f).af = s.af := rfl
@[simp] theorem modMs_os (s : State) (f : Ms → Ms) : (s.modMs f).os = s.os := rfl
@[simp] theorem modMs_hp (s : State) (f : Ms → Ms) : (s.modMs f).hp = s.hp := rfl
@[simp] theorem modMs_wq (s : State) (f : Ms → Ms) : (s.modMs f).wq = s.wq := rfl
@[simp] theorem modMs_pl (s : State) (f : Ms → Ms) : (s.modMs f).pl = s.pl := rfl
@[simp] theorem modMs_cv (s : State) (f : Ms → Ms) : (s.modMs f).cv = s.cv := rfl
@[simp] theorem modMs_free (s : State) (f : Ms → Ms) : (s.modMs f).free = s.free := rfl
/-! `State.modCore` -/
@[simp] theorem modCore_pending (s : State) (k : Side) (f : CoreSt → CoreSt) : (s.modCore k f).pending = s.pending := rfl
@[simp] theorem modCore_dev (s : State) (k : Side) (f : CoreSt → CoreSt) : (s.modCore k f).dev = s.dev := rfl
@[simp] theorem modCore_devAt (s : State) (k : Side) (f : CoreSt → CoreSt) : (s.modCore k f).devAt = s.devAt := rfl
@[simp] theorem modCore_bad (s : State) (k : Side) (f : CoreSt → CoreSt) : (s.modCore k f).bad = s.bad := rfl
@[simp] theorem modCore_fr (s : State) (k : Side) (f : CoreSt → CoreSt) : (s.modCore k f).fr = s.fr := rfl
@[simp] theorem modCore_sc (s : State) (k : Side) (f : CoreSt → CoreSt) : (s.modCore k f).sc = s.sc := rfl
@[simp] theorem modCore_pcr (s : State) (k : Side) (f : CoreSt → CoreSt) : (s.modCore k f).pcr = s.pcr := rfl
@[simp] theorem modCore_tb (s : State) (k : Side) (f : CoreSt → CoreSt) : (s.modCore k f).tb = s.tb := rfl
@[simp] theorem modCore_st (s : State) (k : Side) (f : CoreSt → CoreSt) : (s.modCore k f).st = s.st := rfl
@[simp] theorem modCore_ib (s : State) (k : Side) (f : CoreSt → CoreSt) : (s.modCore k f).ib = s.ib := rfl
@[simp] theorem modCore_ps (s : State) (k : Side) (f : CoreSt → CoreSt) : (s.modCore k f).ps = s.ps := rfl
@[simp] theorem modCore_af (s : State) (k : Side) (f : CoreSt → CoreSt) : (s.modCore k f).af = s.af := rfl
@[simp] theorem modCore_os (s : State) (k : Side) (f : CoreSt → CoreSt) : (s.modCore k f).os = s.os := rfl
@[simp] theorem modCore_hp (s : State) (k : Side) (f : CoreSt → CoreSt) : (s.modCore k f).hp = s.hp := rfl
@[simp] theorem modCore_wq (s : State) (k : Side) (f : CoreSt → CoreSt) : (s.modCore k f).wq = s.wq := rfl
@[simp] theorem modCore_pl (s : State) (k : Side) (f : CoreSt → CoreSt) : (s.modCore k f).pl = s.pl := rfl
@[simp] theorem modCore_cv (s : State) (k : Side) (f : CoreSt → CoreSt) : (s.modCore k f).cv = s.cv := rfl
@[simp] theorem modCore_ms (s : State) (k : Side) (f : CoreSt → CoreSt) : (s.modCore k f).ms = s.ms := rfl
@[simp] theorem modCore_free (s : State) (k : Side) (f : CoreSt → CoreSt) : (s.modCore k f).free = s.free := rfl
/-! `State.modHport` -/
@[simp] theorem modHport_pending (s : State) (k : Side) (f : HpPort → HpPort) : (s.modHport k f).pending = s.pending := rfl
@[simp] theorem modHport_dev (s : State) (k : Side) (f : HpPort → HpPort) : (s.modHport k f).dev = s.dev := rfl
@[simp] theorem modHport_devAt (s : State) (k : Side) (f : HpPort → HpPort) : (s.modHport k f).devAt = s.devAt := rfl
@[simp] theorem modHport_bad (s : State) (k : Side) (f : HpPort → HpPort) : (s.modHport k f).bad = s.bad := rfl
@[simp] theorem modHport_fr (s : State) (k : Side) (f : HpPort → HpPort) : (s.modHport k f).fr = s.fr := rfl
@[simp] theorem modHport_sc (s : State) (k : Side) (f : HpPort → HpPort) : (s.modHport k f).sc = s.sc := rfl
@[simp] theorem modHport_pcr (s : State) (k : Side) (f : HpPort → HpPort) : (s.modHport k f).pcr = s.pcr := rfl
@[simp] theorem modHport_tb (s : State) (k : Side) (f : HpPort → HpPort) : (s.modHport k f).tb = s.tb := rfl
@[simp] theorem modHport_st (s : State) (k : Side) (f : HpPort → HpPort) : (s.modHport k f).st = s.st := rfl
@[simp] theorem modHport_ev (s : State) (k : Side) (f : HpPort → HpPort) : (s.modHport k f).ev = s.ev := rfl
@[simp] theorem modHport_ib (s : State) (k : Side) (f : HpPort → HpPort) : (s.modHport k f).ib = s.ib := rfl
@[simp] theorem modHport_ps (s : State) (k : Side) (f : HpPort → HpPort) : (s.modHport k f).ps = s.ps := rfl
@[simp] theorem modHport_af (s : State) (k : Side) (f : HpPort → HpPort) : (s.modHport k f).af = s.af := rfl
@[simp] theorem modHport_os (s : State) (k : Side) (f : HpPort → HpPort) : (s.modHport k f).os = s.os := rfl
@[simp] theorem modHport_wq (s : State) (k : Side) (f : HpPort → HpPort) : (s.modHport k f).wq = s.wq := rfl
@[simp] theorem modHport_pl (s : State) (k : Side) (f : HpPort → HpPort) : (s.modHport k f).pl = s.pl := rfl
@[simp] theorem modHport_cv (s : State) (k : Side) (f : HpPort → HpPort) : (s.modHport k f).cv = s.cv := rfl
@[simp] theorem modHport_ms (s : State) (k : Side) (f : HpPort → HpPort) : (s.modHport k f).ms = s.ms := rfl
@[simp] theorem modHport_free (s : State) (k : Side) (f : HpPort → HpPort) : (s.modHport k f).free = s.free := rfl
/-! `State.modWport` -/
@[simp] theorem modWport_pending (s : State) (k : Side) (f : WqPort → WqPort) : (s.modWport k f).pending = s.pending := rfl
@[simp] theorem modWport_dev (s : State) (k : Side) (f : WqPort → WqPort) : (s.modWport k f).dev = s.dev := rfl
@[simp] theorem modWport_devAt (s : State) (k : Side) (f : WqPort → WqPort) : (s.modWport k f).devAt = s.devAt := rfl
@[simp] theorem modWport_bad (s : State) (k : Side) (f : WqPort → WqPort) : (s.modWport k f).bad = s.bad := rfl
@[simp] theorem modWport_fr (s : State) (k : Side) (f : WqPort → WqPort) : (s.modWport k f).fr = s.fr := rfl
@[simp] theorem modWport_sc (s : State) (k : Side) (f : WqPort → WqPort) : (s.modWport k f).sc = s.sc := rfl
@[simp] theorem modWport_pcr (s : State) (k : Side) (f : WqPort → WqPort) : (s.modWport k f).pcr = s.pcr := rfl
@[simp] theorem modWport_tb (s : State) (k : Side) (f : WqPort → WqPort) : (s.modWport k f).tb = s.tb := rfl
@[simp] theorem modWport_st (s : State) (k : Side) (f : WqPort → WqPort) : (s.modWport k f).st = s.st := rfl
@[simp] theorem modWport_ev (s : State) (k : Side) (f : WqPort → WqPort) : (s.modWport k f).ev = s.ev := rfl
@[simp] theorem modWport_ib (s : State) (k : Side) (f : WqPort → WqPort) : (s.modWport k f).ib = s.ib := rfl
@[simp] theorem modWport_ps (s : State) (k : Side) (f : WqPort → WqPort) : (s.modWport k f).ps = s.ps := rfl
@[simp] theorem modWport_af (s : State) (k : Side) (f : WqPort → WqPort) : (s.modWport k f).af = s.af := rfl
@[simp] theorem modWport_os (s : State) (k : Side) (f : WqPort → WqPort) : (s.modWport k f).os = s.os := rfl
@[simp] theorem modWport_hp (s : State) (k : Side) (f : WqPort → WqPort) : (s.modWport k f).hp = s.hp := rfl
@[simp] theorem modWport_pl (s : State) (k : Side) (f : WqPort → WqPort) : (s.modWport k f).pl = s.pl := rfl
@[simp] theorem modWport_cv (s : State) (k : Side) (f : WqPort → WqPort) : (s.modWport k f).cv = s.cv := rfl
@[simp] theorem modWport_ms (s : State) (k : Side) (f : WqPort → WqPort) : (s.modWport k f).ms = s.ms := rfl
@[simp] theorem modWport_free (s : State) (k : Side) (f : WqPort → WqPort) : (s.modWport k f).free = s.free := rfl
/-! `State.modPlPort` -/
@[simp] theorem modPlPort_pending (s : State) (k : Fin 4) (f : PlPort → PlPort) : (s.modPlPort k f).pending = s.pending := rfl
@[simp] theorem modPlPort_dev (s : State) (k : Fin 4) (f : PlPort → PlPort) : (s.modPlPort k f).dev = s.dev := rfl
@[simp] theorem modPlPort_devAt (s : State) (k : Fin 4) (f : PlPort → PlPort) : (s.modPlPort k f).devAt = s.devAt := rfl
@[simp] theorem modPlPort_bad (s : State) (k : Fin 4) (f : PlPort → PlPort) : (s.modPlPort k f).bad = s.bad := rfl
@[simp] theorem modPlPort_fr (s : State) (k : Fin 4) (f : PlPort → PlPort) : (s.modPlPort k f).fr = s.fr := rfl
@[simp] theorem modPlPort_sc (s : State) (k : Fin 4) (f : PlPort → PlPort) : (s.modPlPort k f).sc = s.sc := rfl
@[simp] theorem modPlPort_pcr (s : State) (k : Fin 4) (f : PlPort → PlPort) : (s.modPlPort k f).pcr = s.pcr := rfl
@[simp] theorem modPlPort_tb (s : State) (k : Fin 4) (f : PlPort → PlPort) : (s.modPlPort k f).tb = s.tb := rfl
@[simp] theorem modPlPort_st (s : State) (k : Fin 4) (f : PlPort → PlPort) : (s.modPlPort k f).st = s.st := rfl
@[simp] theorem modPlPort_ev (s : State) (k : Fin 4) (f : PlPort → PlPort) : (s.modPlPort k f).ev = s.ev := rfl
@[simp] theorem modPlPort_ib (s : State) (k : Fin 4) (f : PlPort → PlPort) : (s.modPlPort k f).ib = s.ib := rfl
@[simp] theorem modPlPort_ps (s : State) (k : Fin 4) (f : PlPort → PlPort) : (s.modPlPort k f).ps = s.ps := rfl
@[simp] theorem modPlPort_af (s : State) (k : Fin 4) (f : PlPort → PlPort) : (s.modPlPort k f).af = s.af := rfl
@[simp] theorem modPlPort_os (s : State) (k : Fin 4) (f : PlPort → PlPort) : (s.modPlPort k f).os = s.os := rfl
@[simp] theorem modPlPort_hp (s : State) (k : Fin 4) (f : PlPort → PlPort) : (s.modPlPort k f).hp = s.hp := rfl
@[simp] theorem modPlPort_wq (s : State) (k : Fin 4) (f : PlPort → PlPort) : (s.modPlPort k f).wq = s.wq := rfl
@[simp] theorem modPlPort_cv (s : State) (k : Fin 4) (f : PlPort → PlPort) : (s.modPlPort k f).cv = s.cv := rfl
@[simp] theorem modPlPort_ms (s : State) (k : Fin 4) (f : PlPort → PlPort) : (s.modPlPort k f).ms = s.ms := rfl
@[simp] theorem modPlPort_free (s : State) (k : Fin 4) (f : PlPort → PlPort) : (s.modPlPort k f).free = s.free := rfl
/-! `State.modStore` -/
@[simp] theorem modStore_pending (s : State) (k : Side) (f : Store → Store) : (s.modStore k f).pending = s.pending := rfl
@[simp] theorem modStore_dev (s : State) (k : Side) (f : Store → Store) : (s.modStore k f).dev = s.dev := rfl
@[simp] theorem modStore_devAt (s : State) (k : Side) (f : Store → Store) : (s.modStore k f).devAt = s.devAt := rfl
@[simp] theorem modStore_bad (s : State) (k : Side) (f : Store → Store) : (s.modStore k f).bad = s.bad := rfl
@[simp] theorem modStore_fr (s : State) (k : Side) (f : Store → Store) : (s.modStore k f).fr = s.fr := rfl
@[simp] theorem modStore_sc (s : State) (k : Side) (f : Store → Store) : (s.modStore k f).sc = s.sc := rfl
@[simp] theorem modStore_pcr (s : State) (k : Side) (f : Store → Store) : (s.modStore k f).pcr = s.pcr := rfl
@[simp] theorem modStore_tb (s : State) (k : Side) (f : Store → Store) : (s.modStore k f).tb = s.tb := rfl
@[simp] theorem modStore_st (s : State) (k : Side) (f : Store → Store) : (s.modStore k f).st = s.st := rfl
@[simp] theorem modStore_ev (s : State) (k : Side) (f : Store → Store) : (s.modStore k f).ev = s.ev := rfl
@[simp] theorem modStore_ib (s : State) (k : Side) (f : Store → Store) : (s.modStore k f).ib = s.ib := rfl
@[simp] theorem modStore_ps (s : State) (k : Side) (f : Store → Store) : (s.modStore k f).ps = s.ps := rfl
@[simp] theorem modStore_af (s : State) (k : Side) (f : Store → Store) : (s.modStore k f).af = s.af := rfl
@[simp] theorem modStore_os (s : State) (k : Side) (f : Store → Store) : (s.modStore k f).os = s.os := rfl
@[simp] theorem modStore_hp (s : State) (k : Side) (f : Store → Store) : (s.modStore k f).hp = s.hp := rfl
@[simp] theorem modStore_wq (s : State) (k : Side) (f : Store → Store) : (s.modStore k f).wq = s.wq := rfl
@[simp] theorem modStore_pl (s : State) (k : Side) (f : Store → Store) : (s.modStore k f).pl = s.pl := rfl
@[simp] theorem modStore_cv (s : State) (k : Side) (f : Store → Store) : (s.modStore k f).cv = s.cv := rfl
@[simp] theorem modStore_free (s : State) (k : Side) (f : Store → Store) : (s.modStore k f).free = s.free := rfl
/-! `State.modInput` -/
@[simp] theorem modInput_pending (s : State) (k : Fin 128) (f : Input → Input) : (s.modInput k f).pending = s.pending := rfl
@[simp] theorem modInput_dev (s : State) (k : Fin 128) (f : Input → Input) : (s.modInput k f).dev = s.dev := rfl
@[simp] theorem modInput_devAt (s : State) (k : Fin 128) (f : Input → Input) : (s.modInput k f).devAt = s.devAt := rfl
@[simp] theorem modInput_bad (s : State) (k : Fin 128) (f : Input → Input) : (s.modInput k f).bad = s.bad := rfl
@[simp] theorem modInput_fr (s : State) (k : Fin 128) (f : Input → Input) : (s.modInput k f).fr = s.fr := rfl
@[simp] theorem modInput_sc (s : State) (k : Fin 128) (f : Input → Input) : (s.modInput k f).sc = s.sc := rfl
@[simp] theorem modInput_pcr (s : State) (k : Fin 128) (f : Input → Input) : (s.modInput k f).pcr = s.pcr := rfl
@[simp] theorem modInput_tb (s : State) (k : Fin 128) (f : Input → Input) : (s.modInput k f).tb = s.tb := rfl
@[simp] theorem modInput_st (s : State) (k : Fin 128) (f : Input → Input) : (s.modInput k f).st = s.st := rfl
@[simp] theorem modInput_ev (s : State) (k : Fin 128) (f : Input → Input) : (s.modInput k f).ev = s.ev := rfl
@[simp] theorem modInput_ps (s : State) (k : Fin 128) (f : Input → Input) : (s.modInput k f).ps = s.ps := rfl
@[simp] theorem modInput_af (s : State) (k : Fin 128) (f : Input → Input) : (s.modInput k f).af = s.af := rfl
@[simp] theorem modInput_os (s : State) (k : Fin 128) (f : Input → Input) : (s.modInput k f).os = s.os := rfl
@[simp] theorem modInput_hp (s : State) (k : Fin 128) (f : Input → Input) : (s.modInput k f).hp = s.hp := rfl
@[simp] theorem modInput_wq (s : State) (k : Fin 128) (f : Input → Input) : (s.modInput k f).wq = s.wq := rfl
@[simp] theorem modInput_pl (s : State) (k : Fin 128) (f : Input → Input) : (s.modInput k f).pl = s.pl := rfl
@[simp] theorem modInput_cv (s : State) (k : Fin 128) (f : Input → Input) : (s.modInput k f).cv = s.cv := rfl
@[simp] theorem modInput_ms (s : State) (k : Fin 128) (f : Input → Input) : (s.modInput k f).ms = s.ms := rfl
@[simp] theorem modInput_free (s : State) (k : Fin 128) (f : Input → Input) : (s.modInput k f).free = s.free := rfl
/-! `State.modSource` -/
@[simp] theorem modSource_pending (s : State) (k : Fin 32) (f : Source → Source) : (s.modSource k f).pending = s.pending := rfl
@[simp] theorem modSource_dev (s : State) (k : Fin 32) (f : Source → Source) : (s.modSource k f).dev = s.dev := rfl
@[simp] theorem modSource_devAt (s : State) (k : Fin 32) (f : Source → Source) : (s.modSource k f).devAt = s.devAt := rfl
@[simp] theorem modSource_bad (s : State) (k : Fin 32) (f : Source → Source) : (s.modSource k f).bad = s.bad := rfl
@[simp] theorem modSource_fr (s : State) (k : Fin 32) (f : Source → Source) : (s.modSource k f).fr = s.fr := rfl
@[simp] theorem modSource_sc (s : State) (k : Fin 32) (f : Source → Source) : (s.modSource k f).sc = s.sc := rfl
@[simp] theorem modSource_pcr (s : State) (k : Fin 32) (f : Source → Source) : (s.modSource k f).pcr = s.pcr := rfl
@[simp] theorem modSource_tb (s : State) (k : Fin 32) (f : Source → Source) : (s.modSource k f).tb = s.tb := rfl
@[simp] theorem modSource_st (s : State) (k : Fin 32) (f : Source → Source) : (s.modSource k f).st = s.st := rfl
@[simp] theorem modSource_ev (s : State) (k : Fin 32) (f : Source → Source) : (s.modSource k f).ev = s.ev := rfl
@[simp] theorem modSource_ib (s : State) (k : Fin 32) (f : Source → Source) : (s.modSource k f).ib = s.ib := rfl
@[simp] theorem modSource_af (s : State) (k : Fin 32) (f : Source → Source) : (s.modSource k f).af = s.af := rfl
@[simp] theorem modSource_os (s : State) (k : Fin 32) (f : Source → Source) : (s.modSource k f).os = s.os := rfl
@[simp] theorem modSource_hp (s : State) (k : Fin 32) (f : Source → Source) : (s.modSource k f).hp = s.hp := rfl
@[simp] theorem modSource_wq (s : State) (k : Fin 32) (f : Source → Source) : (s.modSource k f).wq = s.wq := rfl
@[simp] theorem modSource_pl (s : State) (k : Fin 32) (f : Source → Source) : (s.modSource k f).pl = s.pl := rfl
@[simp] theorem modSource_cv (s : State) (k : Fin 32) (f : Source → Source) : (s.modSource k f).cv = s.cv := rfl
@[simp] theorem modSource_ms (s : State) (k : Fin 32) (f : Source → Source) : (s.modSource k f).ms = s.ms := rfl
@[simp] theorem modSource_free (s : State) (k : Fin 32) (f : Source → Source) : (s.modSource k f).free = s.free := rfl
/-! `State.modOut` -/
@[simp] theorem modOut_pending (s : State) (k : Fin 144) (f : Output → Output) : (s.modOut k f).pending = s.pending := rfl
@[simp] theorem modOut_dev (s : State) (k : Fin 144) (f : Output → Output) : (s.modOut k f).dev = s.dev := rfl
@[simp] theorem modOut_devAt (s : State) (k : Fin 144) (f : Output → Output) : (s.modOut k f).devAt = s.devAt := rfl
@[simp] theorem modOut_bad (s : State) (k : Fin 144) (f : Output → Output) : (s.modOut k f).bad = s.bad := rfl
@[simp] theorem modOut_fr (s : State) (k : Fin 144) (f : Output → Output) : (s.modOut k f).fr = s.fr := rfl
@[simp] theorem modOut_sc (s : State) (k : Fin 144) (f : Output → Output) : (s.modOut k f).sc = s.sc := rfl
@[simp] theorem modOut_pcr (s : State) (k : Fin 144) (f : Output → Output) : (s.modOut k f).pcr = s.pcr := rfl
@[simp] theorem modOut_tb (s : State) (k : Fin 144) (f : Output → Output) : (s.modOut k f).tb = s.tb := rfl
@[simp] theorem modOut_st (s : State) (k : Fin 144) (f : Output → Output) : (s.modOut k f).st = s.st := rfl
@[simp] theorem modOut_ev (s : State) (k : Fin 144) (f : Output → Output) : (s.modOut k f).ev = s.ev := rfl
@[simp] theorem modOut_ib (s : State) (k : Fin 144) (f : Output → Output) : (s.modOut k f).ib = s.ib := rfl
@[simp] theorem modOut_ps (s : State) (k : Fin 144) (f : Output → Output) : (s.modOut k f).ps = s.ps := rfl
@[simp] theorem modOut_af (s : State) (k : Fin 144) (f : Output → Output) : (s.modOut k f).af = s.af := rfl
@[simp] theorem modOut_hp (s : State) (k : Fin 144) (f : Output → Output) : (s.modOut k f).hp = s.hp := rfl
@[simp] theorem modOut_wq (s : State) (k : Fin 144) (f : Output → Output) : (s.modOut k f).wq = s.wq := rfl
@[simp] theorem modOut_pl (s : State) (k : Fin 144) (f : Output → Output) : (s.modOut k f).pl = s.pl := rfl
@[simp] theorem modOut_cv (s : State) (k : Fin 144) (f : Output → Output) : (s.modOut k f).cv = s.cv := rfl
@[simp] theorem modOut_ms (s : State) (k : Fin 144) (f : Output → Output) : (s.modOut k f).ms = s.ms := rfl
@[simp] theorem modOut_free (s : State) (k : Fin 144) (f : Output → Output) : (s.modOut k f).free = s.free := rfl
/-! `State.modAxis` -/
@[simp] theorem modAxis_pending (s : State) (k : Fin 64) (f : Axis → Axis) : (s.modAxis k f).pending = s.pending := rfl
@[simp] theorem modAxis_dev (s : State) (k : Fin 64) (f : Axis → Axis) : (s.modAxis k f).dev = s.dev := rfl
@[simp] theorem modAxis_devAt (s : State) (k : Fin 64) (f : Axis → Axis) : (s.modAxis k f).devAt = s.devAt := rfl
@[simp] theorem modAxis_bad (s : State) (k : Fin 64) (f : Axis → Axis) : (s.modAxis k f).bad = s.bad := rfl
@[simp] theorem modAxis_fr (s : State) (k : Fin 64) (f : Axis → Axis) : (s.modAxis k f).fr = s.fr := rfl
@[simp] theorem modAxis_sc (s : State) (k : Fin 64) (f : Axis → Axis) : (s.modAxis k f).sc = s.sc := rfl
@[simp] theorem modAxis_pcr (s : State) (k : Fin 64) (f : Axis → Axis) : (s.modAxis k f).pcr = s.pcr := rfl
@[simp] theorem modAxis_tb (s : State) (k : Fin 64) (f : Axis → Axis) : (s.modAxis k f).tb = s.tb := rfl
@[simp] theorem modAxis_st (s : State) (k : Fin 64) (f : Axis → Axis) : (s.modAxis k f).st = s.st := rfl
@[simp] theorem modAxis_ev (s : State) (k : Fin 64) (f : Axis → Axis) : (s.modAxis k f).ev = s.ev := rfl
@[simp] theorem modAxis_ib (s : State) (k : Fin 64) (f : Axis → Axis) : (s.modAxis k f).ib = s.ib := rfl
@[simp] theorem modAxis_ps (s : State) (k : Fin 64) (f : Axis → Axis) : (s.modAxis k f).ps = s.ps := rfl
@[simp] theorem modAxis_os (s : State) (k : Fin 64) (f : Axis → Axis) : (s.modAxis k f).os = s.os := rfl
@[simp] theorem modAxis_hp (s : State) (k : Fin 64) (f : Axis → Axis) : (s.modAxis k f).hp = s.hp := rfl
@[simp] theorem modAxis_wq (s : State) (k : Fin 64) (f : Axis → Axis) : (s.modAxis k f).wq = s.wq := rfl
@[simp] theorem modAxis_pl (s : State) (k : Fin 64) (f : Axis → Axis) : (s.modAxis k f).pl = s.pl := rfl
@[simp] theorem modAxis_cv (s : State) (k : Fin 64) (f : Axis → Axis) : (s.modAxis k f).cv = s.cv := rfl
@[simp] theorem modAxis_ms (s : State) (k : Fin 64) (f : Axis → Axis) : (s.modAxis k f).ms = s.ms := rfl
@[simp] theorem modAxis_free (s : State) (k : Fin 64) (f : Axis → Axis) : (s.modAxis k f).free = s.free := rfl
/-! `State.modChan` -/
@[simp] theorem modChan_pending (s : State) (k : Fin 4) (f : Cvw → Cvw) : (s.modChan k f).pending = s.pending := rfl
@[simp] theorem modChan_dev (s : State) (k : Fin 4) (f : Cvw → Cvw) : (s.modChan k f).dev = s.dev := rfl
@[simp] theorem modChan_devAt (s : State) (k : Fin 4) (f : Cvw → Cvw) : (s.modChan k f).devAt = s.devAt := rfl
@[simp] theorem modChan_bad (s : State) (k : Fin 4) (f : Cvw → Cvw) : (s.modChan k f).bad = s.bad := rfl
@[simp] theorem modChan_fr (s : State) (k : Fin 4) (f : Cvw → Cvw) : (s.modChan k f).fr = s.fr := rfl
@[simp] theorem modChan_sc (s : State) (k : Fin 4) (f : Cvw → Cvw) : (s.modChan k f).sc = s.sc := rfl
@[simp] theorem modChan_pcr (s : State) (k : Fin 4) (f : Cvw → Cvw) : (s.modChan k f).pcr = s.pcr := rfl
@[simp] theorem modChan_tb (s : State) (k : Fin 4) (f : Cvw → Cvw) : (s.modChan k f).tb = s.tb := rfl
@[simp] theorem modChan_st (s : State) (k : Fin 4) (f : Cvw → Cvw) : (s.modChan k f).st = s.st := rfl
@[simp] theorem modChan_ev (s : State) (k : Fin 4) (f : Cvw → Cvw) : (s.modChan k f).ev = s.ev := rfl
@[simp] theorem modChan_ib (s : State) (k : Fin 4) (f : Cvw → Cvw) : (s.modChan k f).ib = s.ib := rfl
@[simp] theorem modChan_ps (s : State) (k : Fin 4) (f : Cvw → Cvw) : (s.modChan k f).ps = s.ps := rfl
@[simp] theorem modChan_af (s : State) (k : Fin 4) (f : Cvw → Cvw) : (s.modChan k f).af = s.af := rfl
@[simp] theorem modChan_os (s : State) (k : Fin 4) (f : Cvw → Cvw) : (s.modChan k f).os = s.os := rfl
@[simp] theorem modChan_hp (s : State) (k : Fin 4) (f : Cvw → Cvw) : (s.modChan k f).hp = s.hp := rfl
@[simp] theorem modChan_wq (s : State) (k : Fin 4) (f : Cvw → Cvw) : (s.modChan k f).wq = s.wq := rfl
@[simp] theorem modChan_pl (s : State) (k : Fin 4) (f : Cvw → Cvw) : (s.modChan k f).pl = s.pl := rfl
@[simp] theorem modChan_ms (s : State) (k : Fin 4) (f : Cvw → Cvw) : (s.modChan k f).ms = s.ms := rfl
@[simp] theorem modChan_free (s : State) (k : Fin 4) (f : Cvw → Cvw) : (s.modChan k f).free = s.free := rfl
/-! `State.modCmp` -/
@[simp] theorem modCmp_pending (s : State) (k : Fin 32) (f : Cmp → Cmp) : (s.modCmp k f).pending = s.pending := rfl
@[simp] theorem modCmp_dev (s : State) (k : Fin 32) (f : Cmp → Cmp) : (s.modCmp k f).dev = s.dev := rfl
@[simp] theorem modCmp_devAt (s : State) (k : Fin 32) (f : Cmp → Cmp) : (s.modCmp k f).devAt = s.devAt := rfl
@[simp] theorem modCmp_bad (s : State) (k : Fin 32) (f : Cmp → Cmp) : (s.modCmp k f).bad = s.bad := rfl
@[simp] theorem modCmp_fr (s : State) (k : Fin 32) (f : Cmp → Cmp) : (s.modCmp k f).fr = s.fr := rfl
@[simp] theorem modCmp_sc (s : State) (k : Fin 32) (f : Cmp → Cmp) : (s.modCmp k f).sc = s.sc := rfl
@[simp] theorem modCmp_pcr (s : State) (k : Fin 32) (f : Cmp → Cmp) : (s.modCmp k f).pcr = s.pcr := rfl
@[simp] theorem modCmp_st (s : State) (k : Fin 32) (f : Cmp → Cmp) : (s.modCmp k f).st = s.st := rfl
@[simp] theorem modCmp_ev (s : State) (k : Fin 32) (f : Cmp → Cmp) : (s.modCmp k f).ev = s.ev := rfl
@[simp] theorem modCmp_ib (s : State) (k : Fin 32) (f : Cmp → Cmp) : (s.modCmp k f).ib = s.ib := rfl
@[simp] theorem modCmp_ps (s : State) (k : Fin 32) (f : Cmp → Cmp) : (s.modCmp k f).ps = s.ps := rfl
@[simp] theorem modCmp_af (s : State) (k : Fin 32) (f : Cmp → Cmp) : (s.modCmp k f).af = s.af := rfl
@[simp] theorem modCmp_os (s : State) (k : Fin 32) (f : Cmp → Cmp) : (s.modCmp k f).os = s.os := rfl
@[simp] theorem modCmp_hp (s : State) (k : Fin 32) (f : Cmp → Cmp) : (s.modCmp k f).hp = s.hp := rfl
@[simp] theorem modCmp_wq (s : State) (k : Fin 32) (f : Cmp → Cmp) : (s.modCmp k f).wq = s.wq := rfl
@[simp] theorem modCmp_pl (s : State) (k : Fin 32) (f : Cmp → Cmp) : (s.modCmp k f).pl = s.pl := rfl
@[simp] theorem modCmp_cv (s : State) (k : Fin 32) (f : Cmp → Cmp) : (s.modCmp k f).cv = s.cv := rfl
@[simp] theorem modCmp_ms (s : State) (k : Fin 32) (f : Cmp → Cmp) : (s.modCmp k f).ms = s.ms := rfl
@[simp] theorem modCmp_free (s : State) (k : Fin 32) (f : Cmp → Cmp) : (s.modCmp k f).free = s.free := rfl
/-! `State.modCap` -/
@[simp] theorem modCap_pending (s : State) (k : Fin 16) (f : Cap → Cap) : (s.modCap k f).pending = s.pending := rfl
@[simp] theorem modCap_dev (s : State) (k : Fin 16) (f : Cap → Cap) : (s.modCap k f).dev = s.dev := rfl
@[simp] theorem modCap_devAt (s : State) (k : Fin 16) (f : Cap → Cap) : (s.modCap k f).devAt = s.devAt := rfl
@[simp] theorem modCap_bad (s : State) (k : Fin 16) (f : Cap → Cap) : (s.modCap k f).bad = s.bad := rfl
@[simp] theorem modCap_fr (s : State) (k : Fin 16) (f : Cap → Cap) : (s.modCap k f).fr = s.fr := rfl
@[simp] theorem modCap_sc (s : State) (k : Fin 16) (f : Cap → Cap) : (s.modCap k f).sc = s.sc := rfl
@[simp] theorem modCap_pcr (s : State) (k : Fin 16) (f : Cap → Cap) : (s.modCap k f).pcr = s.pcr := rfl
@[simp] theorem modCap_st (s : State) (k : Fin 16) (f : Cap → Cap) : (s.modCap k f).st = s.st := rfl
@[simp] theorem modCap_ev (s : State) (k : Fin 16) (f : Cap → Cap) : (s.modCap k f).ev = s.ev := rfl
@[simp] theorem modCap_ib (s : State) (k : Fin 16) (f : Cap → Cap) : (s.modCap k f).ib = s.ib := rfl
@[simp] theorem modCap_ps (s : State) (k : Fin 16) (f : Cap → Cap) : (s.modCap k f).ps = s.ps := rfl
@[simp] theorem modCap_af (s : State) (k : Fin 16) (f : Cap → Cap) : (s.modCap k f).af = s.af := rfl
@[simp] theorem modCap_os (s : State) (k : Fin 16) (f : Cap → Cap) : (s.modCap k f).os = s.os := rfl
@[simp] theorem modCap_hp (s : State) (k : Fin 16) (f : Cap → Cap) : (s.modCap k f).hp = s.hp := rfl
@[simp] theorem modCap_wq (s : State) (k : Fin 16) (f : Cap → Cap) : (s.modCap k f).wq = s.wq := rfl
@[simp] theorem modCap_pl (s : State) (k : Fin 16) (f : Cap → Cap) : (s.modCap k f).pl = s.pl := rfl
@[simp] theorem modCap_cv (s : State) (k : Fin 16) (f : Cap → Cap) : (s.modCap k f).cv = s.cv := rfl
@[simp] theorem modCap_ms (s : State) (k : Fin 16) (f : Cap → Cap) : (s.modCap k f).ms = s.ms := rfl
@[simp] theorem modCap_free (s : State) (k : Fin 16) (f : Cap → Cap) : (s.modCap k f).free = s.free := rfl
/-! `State.modSq` -/
@[simp] theorem modSq_pending (s : State) (p : Side) (n : Fin 8) (f : Sq → Sq) : (s.modSq p n f).pending = s.pending := rfl
@[simp] theorem modSq_dev (s : State) (p : Side) (n : Fin 8) (f : Sq → Sq) : (s.modSq p n f).dev = s.dev := rfl
@[simp] theorem modSq_devAt (s : State) (p : Side) (n : Fin 8) (f : Sq → Sq) : (s.modSq p n f).devAt = s.devAt := rfl
@[simp] theorem modSq_bad (s : State) (p : Side) (n : Fin 8) (f : Sq → Sq) : (s.modSq p n f).bad = s.bad := rfl
@[simp] theorem modSq_fr (s : State) (p : Side) (n : Fin 8) (f : Sq → Sq) : (s.modSq p n f).fr = s.fr := rfl
@[simp] theorem modSq_sc (s : State) (p : Side) (n : Fin 8) (f : Sq → Sq) : (s.modSq p n f).sc = s.sc := rfl
@[simp] theorem modSq_pcr (s : State) (p : Side) (n : Fin 8) (f : Sq → Sq) : (s.modSq p n f).pcr = s.pcr := rfl
@[simp] theorem modSq_tb (s : State) (p : Side) (n : Fin 8) (f : Sq → Sq) : (s.modSq p n f).tb = s.tb := rfl
@[simp] theorem modSq_st (s : State) (p : Side) (n : Fin 8) (f : Sq → Sq) : (s.modSq p n f).st = s.st := rfl
@[simp] theorem modSq_ev (s : State) (p : Side) (n : Fin 8) (f : Sq → Sq) : (s.modSq p n f).ev = s.ev := rfl
@[simp] theorem modSq_ib (s : State) (p : Side) (n : Fin 8) (f : Sq → Sq) : (s.modSq p n f).ib = s.ib := rfl
@[simp] theorem modSq_ps (s : State) (p : Side) (n : Fin 8) (f : Sq → Sq) : (s.modSq p n f).ps = s.ps := rfl
@[simp] theorem modSq_af (s : State) (p : Side) (n : Fin 8) (f : Sq → Sq) : (s.modSq p n f).af = s.af := rfl
@[simp] theorem modSq_os (s : State) (p : Side) (n : Fin 8) (f : Sq → Sq) : (s.modSq p n f).os = s.os := rfl
@[simp] theorem modSq_hp (s : State) (p : Side) (n : Fin 8) (f : Sq → Sq) : (s.modSq p n f).hp = s.hp := rfl
@[simp] theorem modSq_pl (s : State) (p : Side) (n : Fin 8) (f : Sq → Sq) : (s.modSq p n f).pl = s.pl := rfl
@[simp] theorem modSq_cv (s : State) (p : Side) (n : Fin 8) (f : Sq → Sq) : (s.modSq p n f).cv = s.cv := rfl
@[simp] theorem modSq_ms (s : State) (p : Side) (n : Fin 8) (f : Sq → Sq) : (s.modSq p n f).ms = s.ms := rfl
@[simp] theorem modSq_free (s : State) (p : Side) (n : Fin 8) (f : Sq → Sq) : (s.modSq p n f).free = s.free := rfl
/-! `State.modCq` -/
@[simp] theorem modCq_pending (s : State) (p : Side) (n : Fin 8) (f : Cq → Cq) : (s.modCq p n f).pending = s.pending := rfl
@[simp] theorem modCq_dev (s : State) (p : Side) (n : Fin 8) (f : Cq → Cq) : (s.modCq p n f).dev = s.dev := rfl
@[simp] theorem modCq_devAt (s : State) (p : Side) (n : Fin 8) (f : Cq → Cq) : (s.modCq p n f).devAt = s.devAt := rfl
@[simp] theorem modCq_bad (s : State) (p : Side) (n : Fin 8) (f : Cq → Cq) : (s.modCq p n f).bad = s.bad := rfl
@[simp] theorem modCq_fr (s : State) (p : Side) (n : Fin 8) (f : Cq → Cq) : (s.modCq p n f).fr = s.fr := rfl
@[simp] theorem modCq_sc (s : State) (p : Side) (n : Fin 8) (f : Cq → Cq) : (s.modCq p n f).sc = s.sc := rfl
@[simp] theorem modCq_pcr (s : State) (p : Side) (n : Fin 8) (f : Cq → Cq) : (s.modCq p n f).pcr = s.pcr := rfl
@[simp] theorem modCq_tb (s : State) (p : Side) (n : Fin 8) (f : Cq → Cq) : (s.modCq p n f).tb = s.tb := rfl
@[simp] theorem modCq_st (s : State) (p : Side) (n : Fin 8) (f : Cq → Cq) : (s.modCq p n f).st = s.st := rfl
@[simp] theorem modCq_ev (s : State) (p : Side) (n : Fin 8) (f : Cq → Cq) : (s.modCq p n f).ev = s.ev := rfl
@[simp] theorem modCq_ib (s : State) (p : Side) (n : Fin 8) (f : Cq → Cq) : (s.modCq p n f).ib = s.ib := rfl
@[simp] theorem modCq_ps (s : State) (p : Side) (n : Fin 8) (f : Cq → Cq) : (s.modCq p n f).ps = s.ps := rfl
@[simp] theorem modCq_af (s : State) (p : Side) (n : Fin 8) (f : Cq → Cq) : (s.modCq p n f).af = s.af := rfl
@[simp] theorem modCq_os (s : State) (p : Side) (n : Fin 8) (f : Cq → Cq) : (s.modCq p n f).os = s.os := rfl
@[simp] theorem modCq_hp (s : State) (p : Side) (n : Fin 8) (f : Cq → Cq) : (s.modCq p n f).hp = s.hp := rfl
@[simp] theorem modCq_pl (s : State) (p : Side) (n : Fin 8) (f : Cq → Cq) : (s.modCq p n f).pl = s.pl := rfl
@[simp] theorem modCq_cv (s : State) (p : Side) (n : Fin 8) (f : Cq → Cq) : (s.modCq p n f).cv = s.cv := rfl
@[simp] theorem modCq_ms (s : State) (p : Side) (n : Fin 8) (f : Cq → Cq) : (s.modCq p n f).ms = s.ms := rfl
@[simp] theorem modCq_free (s : State) (p : Side) (n : Fin 8) (f : Cq → Cq) : (s.modCq p n f).free = s.free := rfl
/-! `State.modPath` -/
@[simp] theorem modPath_pending (s : State) (a : Fin 64) (p : Fin 2) (f : Path → Path) : (s.modPath a p f).pending = s.pending := rfl
@[simp] theorem modPath_dev (s : State) (a : Fin 64) (p : Fin 2) (f : Path → Path) : (s.modPath a p f).dev = s.dev := rfl
@[simp] theorem modPath_devAt (s : State) (a : Fin 64) (p : Fin 2) (f : Path → Path) : (s.modPath a p f).devAt = s.devAt := rfl
@[simp] theorem modPath_bad (s : State) (a : Fin 64) (p : Fin 2) (f : Path → Path) : (s.modPath a p f).bad = s.bad := rfl
@[simp] theorem modPath_fr (s : State) (a : Fin 64) (p : Fin 2) (f : Path → Path) : (s.modPath a p f).fr = s.fr := rfl
@[simp] theorem modPath_sc (s : State) (a : Fin 64) (p : Fin 2) (f : Path → Path) : (s.modPath a p f).sc = s.sc := rfl
@[simp] theorem modPath_pcr (s : State) (a : Fin 64) (p : Fin 2) (f : Path → Path) : (s.modPath a p f).pcr = s.pcr := rfl
@[simp] theorem modPath_tb (s : State) (a : Fin 64) (p : Fin 2) (f : Path → Path) : (s.modPath a p f).tb = s.tb := rfl
@[simp] theorem modPath_st (s : State) (a : Fin 64) (p : Fin 2) (f : Path → Path) : (s.modPath a p f).st = s.st := rfl
@[simp] theorem modPath_ev (s : State) (a : Fin 64) (p : Fin 2) (f : Path → Path) : (s.modPath a p f).ev = s.ev := rfl
@[simp] theorem modPath_ib (s : State) (a : Fin 64) (p : Fin 2) (f : Path → Path) : (s.modPath a p f).ib = s.ib := rfl
@[simp] theorem modPath_ps (s : State) (a : Fin 64) (p : Fin 2) (f : Path → Path) : (s.modPath a p f).ps = s.ps := rfl
@[simp] theorem modPath_os (s : State) (a : Fin 64) (p : Fin 2) (f : Path → Path) : (s.modPath a p f).os = s.os := rfl
@[simp] theorem modPath_hp (s : State) (a : Fin 64) (p : Fin 2) (f : Path → Path) : (s.modPath a p f).hp = s.hp := rfl
@[simp] theorem modPath_wq (s : State) (a : Fin 64) (p : Fin 2) (f : Path → Path) : (s.modPath a p f).wq = s.wq := rfl
@[simp] theorem modPath_pl (s : State) (a : Fin 64) (p : Fin 2) (f : Path → Path) : (s.modPath a p f).pl = s.pl := rfl
@[simp] theorem modPath_cv (s : State) (a : Fin 64) (p : Fin 2) (f : Path → Path) : (s.modPath a p f).cv = s.cv := rfl
@[simp] theorem modPath_ms (s : State) (a : Fin 64) (p : Fin 2) (f : Path → Path) : (s.modPath a p f).ms = s.ms := rfl
@[simp] theorem modPath_free (s : State) (a : Fin 64) (p : Fin 2) (f : Path → Path) : (s.modPath a p f).free = s.free := rfl
/-! The part that changes -/
@[simp] theorem modSc_sc (s : State) (f : Sc → Sc) : (s.modSc f).sc = f s.sc := rfl
@[simp] theorem modPcr_pcr (s : State) (f : Pcr → Pcr) : (s.modPcr f).pcr = f s.pcr := rfl
@[simp] theorem modTb_tb (s : State) (f : Tb → Tb) : (s.modTb f).tb = f s.tb := rfl
@[simp] theorem modSt_st (s : State) (f : St → St) : (s.modSt f).st = f s.st := rfl
@[simp] theorem modEv_ev (s : State) (f : Ev → Ev) : (s.modEv f).ev = f s.ev := rfl
@[simp] theorem modIb_ib (s : State) (f : Ib → Ib) : (s.modIb f).ib = f s.ib := rfl
@[simp] theorem modPs_ps (s : State) (f : Ps → Ps) : (s.modPs f).ps = f s.ps := rfl
@[simp] theorem modAf_af (s : State) (f : Af → Af) : (s.modAf f).af = f s.af := rfl
@[simp] theorem modOs_os (s : State) (f : Os → Os) : (s.modOs f).os = f s.os := rfl
@[simp] theorem modHp_hp (s : State) (f : Hp → Hp) : (s.modHp f).hp = f s.hp := rfl
@[simp] theorem modWq_wq (s : State) (f : Wq → Wq) : (s.modWq f).wq = f s.wq := rfl
@[simp] theorem modPl_pl (s : State) (f : Pl → Pl) : (s.modPl f).pl = f s.pl := rfl
@[simp] theorem modCv_cv (s : State) (f : Cv → Cv) : (s.modCv f).cv = f s.cv := rfl
@[simp] theorem modMs_ms (s : State) (f : Ms → Ms) : (s.modMs f).ms = f s.ms := rfl
@[simp] theorem modDbg_st (s : State) (f : Dbg → Dbg) : (s.modDbg f).st = { s.st with dbg := f s.st.dbg } := rfl

/-! ## The time, and the parts read back -/

@[simp] theorem now_eq (s : State) : s.now = s.tb.now := rfl

@[simp] theorem frOf_modRec (s : State) (b : Block) (f : FaultRecord → FaultRecord) :
    (s.modRec b f).frOf b = { f (s.frOf b) with wroteAt := some s.tb.now } := upd_get _ _ _
theorem frOf_modRec_ne (s : State) {b c : Block} (f : FaultRecord → FaultRecord) (h : c ≠ b) : (s.modRec b f).frOf c = s.frOf c :=
  upd_get_ne _ _ (Block.idx_ne h)
theorem frOf_of_fr {s t : State} (h : t.fr = s.fr) (b : Block) : t.frOf b = s.frOf b := by simp [State.frOf, h]

@[simp] theorem core_modCore (s : State) (c : Side) (f : CoreSt → CoreSt) : (s.modCore c f).core c = f (s.core c) := Two.get_upd _ _ _
@[simp] theorem core_modCore_other (s : State) (c : Side) (f : CoreSt → CoreSt) : (s.modCore c f).core c.other = s.core c.other :=
  Two.get_upd_other _ _ _
theorem core_modCore_ne (s : State) {c d : Side} (f : CoreSt → CoreSt) (h : d ≠ c) : (s.modCore c f).core d = s.core d :=
  Two.get_upd_ne _ _ h
theorem core_of_ev {s t : State} (h : t.ev = s.ev) (c : Side) : t.core c = s.core c := by simp [State.core, h]

@[simp] theorem hport_modHport (s : State) (p : Side) (f : HpPort → HpPort) : (s.modHport p f).hport p = f (s.hport p) := Two.get_upd _ _ _
@[simp] theorem hport_modHport_other (s : State) (p : Side) (f : HpPort → HpPort) : (s.modHport p f).hport p.other = s.hport p.other :=
  Two.get_upd_other _ _ _
theorem hport_modHport_ne (s : State) {p q : Side} (f : HpPort → HpPort) (h : q ≠ p) : (s.modHport p f).hport q = s.hport q :=
  Two.get_upd_ne _ _ h
theorem hport_of_hp {s t : State} (h : t.hp = s.hp) (p : Side) : t.hport p = s.hport p := by simp [State.hport, h]
@[simp] theorem owner_modHport (s : State) (p : Side) (f : HpPort → HpPort) : (s.modHport p f).hp.owner = s.hp.owner := rfl

@[simp] theorem wport_modWport (s : State) (p : Side) (f : WqPort → WqPort) : (s.modWport p f).wport p = f (s.wport p) := Two.get_upd _ _ _
@[simp] theorem wport_modWport_other (s : State) (p : Side) (f : WqPort → WqPort) : (s.modWport p f).wport p.other = s.wport p.other :=
  Two.get_upd_other _ _ _
theorem wport_modWport_ne (s : State) {p q : Side} (f : WqPort → WqPort) (h : q ≠ p) : (s.modWport p f).wport q = s.wport q :=
  Two.get_upd_ne _ _ h
theorem wport_of_wq {s t : State} (h : t.wq = s.wq) (p : Side) : t.wport p = s.wport p := by simp [State.wport, h]

@[simp] theorem sq_modSq (s : State) (p : Side) (n : Fin 8) (f : Sq → Sq) : (s.modSq p n f).sq p n = f (s.sq p n) := by
  simp only [State.sq, State.modSq, wport_modWport, upd_get]
theorem sq_modSq_ne (s : State) {p q : Side} {n m : Fin 8} (f : Sq → Sq) (h : q ≠ p ∨ m ≠ n) : (s.modSq p n f).sq q m = s.sq q m := by
  by_cases hq : q = p
  · subst hq
    have hm : m ≠ n := h.resolve_left (fun e => e rfl)
    simp only [State.sq, State.modSq, wport_modWport, upd_get_ne _ _ hm]
  · simp only [State.sq, State.modSq, wport_modWport_ne _ _ hq]
@[simp] theorem cq_modSq (s : State) (p q : Side) (n m : Fin 8) (f : Sq → Sq) : (s.modSq p n f).cq q m = s.cq q m := by
  by_cases hq : q = p
  · subst hq; simp only [State.cq, State.modSq, wport_modWport]
  · simp only [State.cq, State.modSq, wport_modWport_ne _ _ hq]
@[simp] theorem cq_modCq (s : State) (p : Side) (n : Fin 8) (f : Cq → Cq) : (s.modCq p n f).cq p n = f (s.cq p n) := by
  simp only [State.cq, State.modCq, wport_modWport, upd_get]
theorem cq_modCq_ne (s : State) {p q : Side} {n m : Fin 8} (f : Cq → Cq) (h : q ≠ p ∨ m ≠ n) : (s.modCq p n f).cq q m = s.cq q m := by
  by_cases hq : q = p
  · subst hq
    have hm : m ≠ n := h.resolve_left (fun e => e rfl)
    simp only [State.cq, State.modCq, wport_modWport, upd_get_ne _ _ hm]
  · simp only [State.cq, State.modCq, wport_modWport_ne _ _ hq]
@[simp] theorem sq_modCq (s : State) (p q : Side) (n m : Fin 8) (f : Cq → Cq) : (s.modCq p n f).sq q m = s.sq q m := by
  by_cases hq : q = p
  · subst hq; simp only [State.sq, State.modCq, wport_modWport]
  · simp only [State.sq, State.modCq, wport_modWport_ne _ _ hq]
theorem sq_of_wq {s t : State} (h : t.wq = s.wq) (p : Side) (n : Fin 8) : t.sq p n = s.sq p n := by simp [State.sq, wport_of_wq h]
theorem cq_of_wq {s t : State} (h : t.wq = s.wq) (p : Side) (n : Fin 8) : t.cq p n = s.cq p n := by simp [State.cq, wport_of_wq h]

@[simp] theorem store_modStore (s : State) (i : Side) (f : Store → Store) : (s.modStore i f).store i = f (s.store i) := Two.get_upd _ _ _
@[simp] theorem store_modStore_other (s : State) (i : Side) (f : Store → Store) : (s.modStore i f).store i.other = s.store i.other :=
  Two.get_upd_other _ _ _
theorem store_modStore_ne (s : State) {i j : Side} (f : Store → Store) (h : j ≠ i) : (s.modStore i f).store j = s.store j :=
  Two.get_upd_ne _ _ h
theorem store_of_ms {s t : State} (h : t.ms = s.ms) (i : Side) : t.store i = s.store i := by simp [State.store, h]

@[simp] theorem port_modPlPort (s : State) (n : Fin 4) (f : PlPort → PlPort) : (s.modPlPort n f).pl.port[n] = f s.pl.port[n] := upd_get _ _ _
theorem port_modPlPort_ne (s : State) {n m : Fin 4} (f : PlPort → PlPort) (h : m ≠ n) : (s.modPlPort n f).pl.port[m] = s.pl.port[m] :=
  upd_get_ne _ _ h
@[simp] theorem inp_modInput (s : State) (i : Fin 128) (f : Input → Input) : (s.modInput i f).ib.inp[i] = f s.ib.inp[i] := upd_get _ _ _
theorem inp_modInput_ne (s : State) {i j : Fin 128} (f : Input → Input) (h : j ≠ i) : (s.modInput i f).ib.inp[j] = s.ib.inp[j] :=
  upd_get_ne _ _ h
@[simp] theorem src_modSource (s : State) (i : Fin 32) (f : Source → Source) : (s.modSource i f).ps.src[i] = f s.ps.src[i] := upd_get _ _ _
theorem src_modSource_ne (s : State) {i j : Fin 32} (f : Source → Source) (h : j ≠ i) : (s.modSource i f).ps.src[j] = s.ps.src[j] :=
  upd_get_ne _ _ h
@[simp] theorem out_modOut (s : State) (k : Fin 144) (f : Output → Output) : (s.modOut k f).os.out[k] = f s.os.out[k] := upd_get _ _ _
theorem out_modOut_ne (s : State) {k j : Fin 144} (f : Output → Output) (h : j ≠ k) : (s.modOut k f).os.out[j] = s.os.out[j] :=
  upd_get_ne _ _ h

end Sys2Proof.Machine
end

