-- ==== Sys2Proof/Laws/Frame.lean ====
section
/-!
SUPPORT. Sys2Proof/Laws/Frame.lean: `Only m s t` says that t differs from s only in the fields of State whose bits m names, in
the order of the structure's fields from bit 0 for `pending` to bit 19 for `free`. The laws of `Only`, and the frame of every
operation that changes one part of the state. A field is read off with `.resolve_left (by decide)`.
-/
set_option linter.unusedSimpArgs false
set_option linter.unusedVariables false
namespace Sys2Proof.Machine

structure Only (m : Nat) (s t : State) : Prop where
  pending : m.testBit 0 = true ∨ t.pending = s.pending
  dev : m.testBit 1 = true ∨ t.dev = s.dev
  devAt : m.testBit 2 = true ∨ t.devAt = s.devAt
  bad : m.testBit 3 = true ∨ t.bad = s.bad
  fr : m.testBit 4 = true ∨ t.fr = s.fr
  sc : m.testBit 5 = true ∨ t.sc = s.sc
  pcr : m.testBit 6 = true ∨ t.pcr = s.pcr
  tb : m.testBit 7 = true ∨ t.tb = s.tb
  st : m.testBit 8 = true ∨ t.st = s.st
  ev : m.testBit 9 = true ∨ t.ev = s.ev
  ib : m.testBit 10 = true ∨ t.ib = s.ib
  ps : m.testBit 11 = true ∨ t.ps = s.ps
  af : m.testBit 12 = true ∨ t.af = s.af
  os : m.testBit 13 = true ∨ t.os = s.os
  hp : m.testBit 14 = true ∨ t.hp = s.hp
  wq : m.testBit 15 = true ∨ t.wq = s.wq
  pl : m.testBit 16 = true ∨ t.pl = s.pl
  cv : m.testBit 17 = true ∨ t.cv = s.cv
  ms : m.testBit 18 = true ∨ t.ms = s.ms
  free : m.testBit 19 = true ∨ t.free = s.free

@[simp] theorem Only.refl (m : Nat) (s : State) : Only m s s := by constructor <;> exact .inr rfl
theorem Only.step {M m : Nat} {s t u : State} (h : Only M s t) (h2 : Only m t u) (hs : M ||| m = M) : Only M s u := by
  have hm : ∀ i, m.testBit i = true → M.testBit i = true := by
    intro i hx; rw [← hs, Nat.testBit_or, hx, Bool.or_true]
  constructor
  · exact h2.pending.elim (fun k => .inl (hm _ k)) (fun k => h.pending.imp id (fun h => k.trans h))
  · exact h2.dev.elim (fun k => .inl (hm _ k)) (fun k => h.dev.imp id (fun h => k.trans h))
  · exact h2.devAt.elim (fun k => .inl (hm _ k)) (fun k => h.devAt.imp id (fun h => k.trans h))
  · exact h2.bad.elim (fun k => .inl (hm _ k)) (fun k => h.bad.imp id (fun h => k.trans h))
  · exact h2.fr.elim (fun k => .inl (hm _ k)) (fun k => h.fr.imp id (fun h => k.trans h))
  · exact h2.sc.elim (fun k => .inl (hm _ k)) (fun k => h.sc.imp id (fun h => k.trans h))
  · exact h2.pcr.elim (fun k => .inl (hm _ k)) (fun k => h.pcr.imp id (fun h => k.trans h))
  · exact h2.tb.elim (fun k => .inl (hm _ k)) (fun k => h.tb.imp id (fun h => k.trans h))
  · exact h2.st.elim (fun k => .inl (hm _ k)) (fun k => h.st.imp id (fun h => k.trans h))
  · exact h2.ev.elim (fun k => .inl (hm _ k)) (fun k => h.ev.imp id (fun h => k.trans h))
  · exact h2.ib.elim (fun k => .inl (hm _ k)) (fun k => h.ib.imp id (fun h => k.trans h))
  · exact h2.ps.elim (fun k => .inl (hm _ k)) (fun k => h.ps.imp id (fun h => k.trans h))
  · exact h2.af.elim (fun k => .inl (hm _ k)) (fun k => h.af.imp id (fun h => k.trans h))
  · exact h2.os.elim (fun k => .inl (hm _ k)) (fun k => h.os.imp id (fun h => k.trans h))
  · exact h2.hp.elim (fun k => .inl (hm _ k)) (fun k => h.hp.imp id (fun h => k.trans h))
  · exact h2.wq.elim (fun k => .inl (hm _ k)) (fun k => h.wq.imp id (fun h => k.trans h))
  · exact h2.pl.elim (fun k => .inl (hm _ k)) (fun k => h.pl.imp id (fun h => k.trans h))
  · exact h2.cv.elim (fun k => .inl (hm _ k)) (fun k => h.cv.imp id (fun h => k.trans h))
  · exact h2.ms.elim (fun k => .inl (hm _ k)) (fun k => h.ms.imp id (fun h => k.trans h))
  · exact h2.free.elim (fun k => .inl (hm _ k)) (fun k => h.free.imp id (fun h => k.trans h))
theorem Only.foldl {α : Type} {m : Nat} (g : State → α → State) (xs : List α) {s t : State} (h : Only m s t) (hg :
    ∀ t x, Only m s t → Only m s (g t x)) : Only m s (xs.foldl g t) := by
  induction xs generalizing t with
  | nil => exact h
  | cons x xs ih => exact ih (hg t x h)
@[simp] theorem Only.ite {m : Nat} {s t u : State} {c : Prop} [Decidable c] (ht : Only m s t) (hu : Only m s u) :
    Only m s (if c then t else u) := by split <;> assumption
theorem Only.iteD {m : Nat} {s t u : State} {c : Prop} [Decidable c] (ht : c → Only m s t) (hu : ¬ c → Only m s u) :
    Only m s (if c then t else u) := by
  split
  · exact ht ‹_›
  · exact hu ‹_›
def OnlyO (m : Nat) (s : State) : Host.Outcome State Fault Refusal → Prop
  | .next t => Only m s t
  | _ => True
theorem OnlyO.next {m : Nat} {s t : State} (h : Only m s t) : OnlyO m s (.next t) := h
theorem takeFree_only (s : State) : Only 524288 s s.takeFree.2 := by constructor <;> first | exact .inr rfl | exact .inl rfl
theorem takeFree_nx {M : Nat} {s t : State} (h : Only M s t) (hs : M ||| 524288 = M) : Only M s t.takeFree.2 :=
  h.step (takeFree_only _) hs
theorem modPath_only (s : State) (a : Fin 64) (p : Fin 2) (f : Path → Path) :
    Only 4096 s (s.modPath a p f) := by constructor <;> first | exact .inr rfl | exact .inl rfl
theorem modPath_nx {M : Nat} {s t : State} {a p f} (h : Only M s t) (hs : M ||| 4096 = M) : Only M s (t.modPath a p f) :=
  h.step (modPath_only ..) hs

theorem modRec_only (s : State) (b : Block) (f : FaultRecord → FaultRecord) :
    Only 16 s (s.modRec b f) := by constructor <;> first | exact .inr rfl | exact .inl rfl
theorem modRec_nx {M : Nat} {s t : State} {b : Block} {f : FaultRecord → FaultRecord} (h : Only M s t) (hs : M ||| 16 = M) :
    Only M s (t.modRec b f) :=
  h.step (modRec_only ..) hs
theorem modSc_only (s : State) (f : Sc → Sc) :
    Only 32 s (s.modSc f) := by constructor <;> first | exact .inr rfl | exact .inl rfl
theorem modSc_nx {M : Nat} {s t : State} {f : Sc → Sc} (h : Only M s t) (hs : M ||| 32 = M) : Only M s (t.modSc f) :=
  h.step (modSc_only ..) hs
theorem modPcr_only (s : State) (f : Pcr → Pcr) :
    Only 64 s (s.modPcr f) := by constructor <;> first | exact .inr rfl | exact .inl rfl
theorem modPcr_nx {M : Nat} {s t : State} {f : Pcr → Pcr} (h : Only M s t) (hs : M ||| 64 = M) : Only M s (t.modPcr f) :=
  h.step (modPcr_only ..) hs
theorem modTb_only (s : State) (f : Tb → Tb) :
    Only 128 s (s.modTb f) := by constructor <;> first | exact .inr rfl | exact .inl rfl
theorem modTb_nx {M : Nat} {s t : State} {f : Tb → Tb} (h : Only M s t) (hs : M ||| 128 = M) : Only M s (t.modTb f) :=
  h.step (modTb_only ..) hs
theorem modSt_only (s : State) (f : St → St) :
    Only 256 s (s.modSt f) := by constructor <;> first | exact .inr rfl | exact .inl rfl
theorem modSt_nx {M : Nat} {s t : State} {f : St → St} (h : Only M s t) (hs : M ||| 256 = M) : Only M s (t.modSt f) :=
  h.step (modSt_only ..) hs
theorem modDbg_only (s : State) (f : Dbg → Dbg) :
    Only 256 s (s.modDbg f) := by constructor <;> first | exact .inr rfl | exact .inl rfl
theorem modDbg_nx {M : Nat} {s t : State} {f : Dbg → Dbg} (h : Only M s t) (hs : M ||| 256 = M) : Only M s (t.modDbg f) :=
  h.step (modDbg_only ..) hs
theorem modEv_only (s : State) (f : Ev → Ev) :
    Only 512 s (s.modEv f) := by constructor <;> first | exact .inr rfl | exact .inl rfl
theorem modEv_nx {M : Nat} {s t : State} {f : Ev → Ev} (h : Only M s t) (hs : M ||| 512 = M) : Only M s (t.modEv f) :=
  h.step (modEv_only ..) hs
theorem modIb_only (s : State) (f : Ib → Ib) :
    Only 1024 s (s.modIb f) := by constructor <;> first | exact .inr rfl | exact .inl rfl
theorem modIb_nx {M : Nat} {s t : State} {f : Ib → Ib} (h : Only M s t) (hs : M ||| 1024 = M) : Only M s (t.modIb f) :=
  h.step (modIb_only ..) hs
theorem modPs_only (s : State) (f : Ps → Ps) :
    Only 2048 s (s.modPs f) := by constructor <;> first | exact .inr rfl | exact .inl rfl
theorem modPs_nx {M : Nat} {s t : State} {f : Ps → Ps} (h : Only M s t) (hs : M ||| 2048 = M) : Only M s (t.modPs f) :=
  h.step (modPs_only ..) hs
theorem modAf_only (s : State) (f : Af → Af) :
    Only 4096 s (s.modAf f) := by constructor <;> first | exact .inr rfl | exact .inl rfl
theorem modAf_nx {M : Nat} {s t : State} {f : Af → Af} (h : Only M s t) (hs : M ||| 4096 = M) : Only M s (t.modAf f) :=
  h.step (modAf_only ..) hs
theorem modOs_only (s : State) (f : Os → Os) :
    Only 8192 s (s.modOs f) := by constructor <;> first | exact .inr rfl | exact .inl rfl
theorem modOs_nx {M : Nat} {s t : State} {f : Os → Os} (h : Only M s t) (hs : M ||| 8192 = M) : Only M s (t.modOs f) :=
  h.step (modOs_only ..) hs
theorem modHp_only (s : State) (f : Hp → Hp) :
    Only 16384 s (s.modHp f) := by constructor <;> first | exact .inr rfl | exact .inl rfl
theorem modHp_nx {M : Nat} {s t : State} {f : Hp → Hp} (h : Only M s t) (hs : M ||| 16384 = M) : Only M s (t.modHp f) :=
  h.step (modHp_only ..) hs
theorem modWq_only (s : State) (f : Wq → Wq) :
    Only 32768 s (s.modWq f) := by constructor <;> first | exact .inr rfl | exact .inl rfl
theorem modWq_nx {M : Nat} {s t : State} {f : Wq → Wq} (h : Only M s t) (hs : M ||| 32768 = M) : Only M s (t.modWq f) :=
  h.step (modWq_only ..) hs
theorem modPl_only (s : State) (f : Pl → Pl) :
    Only 65536 s (s.modPl f) := by constructor <;> first | exact .inr rfl | exact .inl rfl
theorem modPl_nx {M : Nat} {s t : State} {f : Pl → Pl} (h : Only M s t) (hs : M ||| 65536 = M) : Only M s (t.modPl f) :=
  h.step (modPl_only ..) hs
theorem modCv_only (s : State) (f : Cv → Cv) :
    Only 131072 s (s.modCv f) := by constructor <;> first | exact .inr rfl | exact .inl rfl
theorem modCv_nx {M : Nat} {s t : State} {f : Cv → Cv} (h : Only M s t) (hs : M ||| 131072 = M) : Only M s (t.modCv f) :=
  h.step (modCv_only ..) hs
theorem modMs_only (s : State) (f : Ms → Ms) :
    Only 262144 s (s.modMs f) := by constructor <;> first | exact .inr rfl | exact .inl rfl
theorem modMs_nx {M : Nat} {s t : State} {f : Ms → Ms} (h : Only M s t) (hs : M ||| 262144 = M) : Only M s (t.modMs f) :=
  h.step (modMs_only ..) hs
theorem modCore_only (s : State) (k : Side) (f : CoreSt → CoreSt) :
    Only 512 s (s.modCore k f) := by constructor <;> first | exact .inr rfl | exact .inl rfl
theorem modCore_nx {M : Nat} {s t : State} {k : Side} {f : CoreSt → CoreSt} (h : Only M s t) (hs : M ||| 512 = M) :
    Only M s (t.modCore k f) :=
  h.step (modCore_only ..) hs
theorem modHport_only (s : State) (k : Side) (f : HpPort → HpPort) :
    Only 16384 s (s.modHport k f) := by constructor <;> first | exact .inr rfl | exact .inl rfl
theorem modHport_nx {M : Nat} {s t : State} {k : Side} {f : HpPort → HpPort} (h : Only M s t) (hs : M ||| 16384 = M) :
    Only M s (t.modHport k f) :=
  h.step (modHport_only ..) hs
theorem modWport_only (s : State) (k : Side) (f : WqPort → WqPort) :
    Only 32768 s (s.modWport k f) := by constructor <;> first | exact .inr rfl | exact .inl rfl
theorem modWport_nx {M : Nat} {s t : State} {k : Side} {f : WqPort → WqPort} (h : Only M s t) (hs : M ||| 32768 = M) :
    Only M s (t.modWport k f) :=
  h.step (modWport_only ..) hs
theorem modPlPort_only (s : State) (k : Fin 4) (f : PlPort → PlPort) :
    Only 65536 s (s.modPlPort k f) := by constructor <;> first | exact .inr rfl | exact .inl rfl
theorem modPlPort_nx {M : Nat} {s t : State} {k : Fin 4} {f : PlPort → PlPort} (h : Only M s t) (hs : M ||| 65536 = M) :
    Only M s (t.modPlPort k f) :=
  h.step (modPlPort_only ..) hs
theorem modStore_only (s : State) (k : Side) (f : Store → Store) :
    Only 262144 s (s.modStore k f) := by constructor <;> first | exact .inr rfl | exact .inl rfl
theorem modStore_nx {M : Nat} {s t : State} {k : Side} {f : Store → Store} (h : Only M s t) (hs : M ||| 262144 = M) :
    Only M s (t.modStore k f) :=
  h.step (modStore_only ..) hs
theorem modInput_only (s : State) (k : Fin 128) (f : Input → Input) :
    Only 1024 s (s.modInput k f) := by constructor <;> first | exact .inr rfl | exact .inl rfl
theorem modInput_nx {M : Nat} {s t : State} {k : Fin 128} {f : Input → Input} (h : Only M s t) (hs : M ||| 1024 = M) :
    Only M s (t.modInput k f) :=
  h.step (modInput_only ..) hs
theorem modSource_only (s : State) (k : Fin 32) (f : Source → Source) :
    Only 2048 s (s.modSource k f) := by constructor <;> first | exact .inr rfl | exact .inl rfl
theorem modSource_nx {M : Nat} {s t : State} {k : Fin 32} {f : Source → Source} (h : Only M s t) (hs : M ||| 2048 = M) :
    Only M s (t.modSource k f) :=
  h.step (modSource_only ..) hs
theorem modOut_only (s : State) (k : Fin 144) (f : Output → Output) :
    Only 8192 s (s.modOut k f) := by constructor <;> first | exact .inr rfl | exact .inl rfl
theorem modOut_nx {M : Nat} {s t : State} {k : Fin 144} {f : Output → Output} (h : Only M s t) (hs : M ||| 8192 = M) :
    Only M s (t.modOut k f) :=
  h.step (modOut_only ..) hs
theorem modAxis_only (s : State) (k : Fin 64) (f : Axis → Axis) :
    Only 4096 s (s.modAxis k f) := by constructor <;> first | exact .inr rfl | exact .inl rfl
theorem modAxis_nx {M : Nat} {s t : State} {k : Fin 64} {f : Axis → Axis} (h : Only M s t) (hs : M ||| 4096 = M) :
    Only M s (t.modAxis k f) :=
  h.step (modAxis_only ..) hs
theorem modChan_only (s : State) (k : Fin 4) (f : Cvw → Cvw) :
    Only 131072 s (s.modChan k f) := by constructor <;> first | exact .inr rfl | exact .inl rfl
theorem modChan_nx {M : Nat} {s t : State} {k : Fin 4} {f : Cvw → Cvw} (h : Only M s t) (hs : M ||| 131072 = M) :
    Only M s (t.modChan k f) :=
  h.step (modChan_only ..) hs
theorem modCmp_only (s : State) (k : Fin 32) (f : Cmp → Cmp) :
    Only 128 s (s.modCmp k f) := by constructor <;> first | exact .inr rfl | exact .inl rfl
theorem modCmp_nx {M : Nat} {s t : State} {k : Fin 32} {f : Cmp → Cmp} (h : Only M s t) (hs : M ||| 128 = M) :
    Only M s (t.modCmp k f) :=
  h.step (modCmp_only ..) hs
theorem modCap_only (s : State) (k : Fin 16) (f : Cap → Cap) :
    Only 128 s (s.modCap k f) := by constructor <;> first | exact .inr rfl | exact .inl rfl
theorem modCap_nx {M : Nat} {s t : State} {k : Fin 16} {f : Cap → Cap} (h : Only M s t) (hs : M ||| 128 = M) :
    Only M s (t.modCap k f) :=
  h.step (modCap_only ..) hs
theorem modSq_only (s : State) (p : Side) (n : Fin 8) (f : Sq → Sq) :
    Only 32768 s (s.modSq p n f) := by constructor <;> first | exact .inr rfl | exact .inl rfl
theorem modSq_nx {M : Nat} {s t : State} {p : Side} {n : Fin 8} {f : Sq → Sq} (h : Only M s t) (hs : M ||| 32768 = M) :
    Only M s (t.modSq p n f) :=
  h.step (modSq_only ..) hs
theorem modCq_only (s : State) (p : Side) (n : Fin 8) (f : Cq → Cq) :
    Only 32768 s (s.modCq p n f) := by constructor <;> first | exact .inr rfl | exact .inl rfl
theorem modCq_nx {M : Nat} {s t : State} {p : Side} {n : Fin 8} {f : Cq → Cq} (h : Only M s t) (hs : M ||| 32768 = M) :
    Only M s (t.modCq p n f) :=
  h.step (modCq_only ..) hs

end Sys2Proof.Machine
end

