-- ==== Sys2Proof/Laws/FrameOps.lean ====
section
/-!
SUPPORT. Sys2Proof/Laws/FrameOps.lean: the frames of the operations and commands of Machine/Ops.lean: `op_only` names all that an
operation can change; `op_nx` is the same at the end of a chain of operations.
-/
set_option linter.unusedSimpArgs false
set_option linter.unusedVariables false
namespace Sys2Proof.Machine
theorem sendVector_only (p : Side) (v : Fin 32) (s : State) : Only 16384 s (sendVector p v s) := by
  unfold sendVector
  repeat' (first
      | (with_reducible exact Only.refl _ _) | (with_reducible assumption)
      | (simp (maxDischargeDepth := 20) (contextual := true) only [Only.ite, Only.refl, Only.foldl, implies_true,
          reduceCtorEq, Nat.reduceOr, modHport_nx, *]; done)
      | (with_reducible refine Only.foldl _ _ ?_ (fun t x ht => ?_)) | split | (dsimp only; split)
      | (with_reducible refine modHport_nx ?_ rfl))
theorem sendVector_nx {M : Nat} {s tS : State} {p : Side} {v : Fin 32} (hOnly : Only M s tS) (hSub : M ||| 16384 = M) :
    Only M s (sendVector p v tS) :=
  hOnly.step (sendVector_only ..) hSub
theorem raiseFaultIrq_only (b : Block) (s : State) : Only 16384 s (raiseFaultIrq b s) := by
  unfold raiseFaultIrq
  repeat' (first
      | (with_reducible exact Only.refl _ _) | (with_reducible assumption)
      | (simp (maxDischargeDepth := 20) (contextual := true) only [Only.ite, Only.refl, Only.foldl, implies_true,
          reduceCtorEq, Nat.reduceOr, sendVector_nx, *]; done)
      | (with_reducible refine Only.foldl _ _ ?_ (fun t x ht => ?_)) | split | (dsimp only; split)
      | (with_reducible refine sendVector_nx ?_ rfl))
theorem raiseFaultIrq_nx {M : Nat} {s tS : State} {b : Block} (hOnly : Only M s tS) (hSub : M ||| 16384 = M) :
    Only M s (raiseFaultIrq b tS) :=
  hOnly.step (raiseFaultIrq_only ..) hSub
theorem raiseEventIrq_only (b : Block) (s : State) : Only 16384 s (raiseEventIrq b s) := by
  unfold raiseEventIrq
  repeat' (first
      | (with_reducible exact Only.refl _ _) | (with_reducible assumption)
      | (simp (maxDischargeDepth := 20) (contextual := true) only [Only.ite, Only.refl, Only.foldl, implies_true,
          reduceCtorEq, Nat.reduceOr, sendVector_nx, *]; done)
      | (with_reducible refine Only.foldl _ _ ?_ (fun t x ht => ?_)) | split | (dsimp only; split)
      | (with_reducible refine sendVector_nx ?_ rfl))
theorem raiseEventIrq_nx {M : Nat} {s tS : State} {b : Block} (hOnly : Only M s tS) (hSub : M ||| 16384 = M) :
    Only M s (raiseEventIrq b tS) :=
  hOnly.step (raiseEventIrq_only ..) hSub
theorem recordPlain_only (f : FaultRep) (s : State) : Only 16400 s (recordPlain f s) := by
  unfold recordPlain
  repeat' (first
      | (with_reducible exact Only.refl _ _) | (with_reducible assumption)
      | (simp (maxDischargeDepth := 20) (contextual := true) only [Only.ite, Only.refl, Only.foldl, implies_true,
          reduceCtorEq, Nat.reduceOr, modRec_nx, raiseFaultIrq_nx, *]; done)
      | (with_reducible refine Only.foldl _ _ ?_ (fun t x ht => ?_)) | split | (dsimp only; split)
      | (with_reducible refine modRec_nx ?_ rfl) | (with_reducible refine raiseFaultIrq_nx ?_ rfl))
theorem recordPlain_nx {M : Nat} {s tS : State} {f : FaultRep} (hOnly : Only M s tS) (hSub : M ||| 16400 = M) :
    Only M s (recordPlain f tS) :=
  hOnly.step (recordPlain_only ..) hSub
theorem countRefused_only (p : Side) (s : State) : Only 16384 s (countRefused p s) := by
  unfold countRefused
  repeat' (first
      | (with_reducible exact Only.refl _ _) | (with_reducible assumption)
      | (simp (maxDischargeDepth := 20) (contextual := true) only [Only.ite, Only.refl, Only.foldl, implies_true,
          reduceCtorEq, Nat.reduceOr, modHport_nx, *]; done)
      | (with_reducible refine Only.foldl _ _ ?_ (fun t x ht => ?_)) | split | (dsimp only; split)
      | (with_reducible refine modHport_nx ?_ rfl))
theorem countRefused_nx {M : Nat} {s tS : State} {p : Side} (hOnly : Only M s tS) (hSub : M ||| 16384 = M) :
    Only M s (countRefused p tS) :=
  hOnly.step (countRefused_only ..) hSub
theorem fromPort_nx {M : Nat} {s t : State} {p : Side} {f : State → State} (h : Only M s t) (hf : Only M s (f t)) :
    Only M s (fromPort p f t) := by
  unfold fromPort; split <;> assumption

theorem latchHigh_only (p : Side) (off : Nat) (v : Word) (s : State) : Only 16384 s (latchHigh p off v s) := by
  unfold latchHigh
  repeat' (first
      | (with_reducible exact Only.refl _ _) | (with_reducible assumption)
      | (simp (maxDischargeDepth := 20) (contextual := true) only [Only.ite, Only.refl, Only.foldl, implies_true,
          reduceCtorEq, Nat.reduceOr, modHport_nx, *]; done)
      | (with_reducible refine Only.foldl _ _ ?_ (fun t x ht => ?_)) | split | (dsimp only; split)
      | (with_reducible refine modHport_nx ?_ rfl))
theorem latchHigh_nx {M : Nat} {s tS : State} {p : Side} {off : Nat} {v : Word} (hOnly : Only M s tS) (hSub :
    M ||| 16384 = M) : Only M s (latchHigh p off v tS) :=
  hOnly.step (latchHigh_only ..) hSub
theorem readData_only (p : Side) (v : Word) (s : State) : Only 16384 s (readData p v s) := by
  unfold readData
  repeat' (first
      | (with_reducible exact Only.refl _ _) | (with_reducible assumption)
      | (simp (maxDischargeDepth := 20) (contextual := true) only [Only.ite, Only.refl, Only.foldl, implies_true,
          reduceCtorEq, Nat.reduceOr, modHport_nx, *]; done)
      | (with_reducible refine Only.foldl _ _ ?_ (fun t x ht => ?_)) | split | (dsimp only; split)
      | (with_reducible refine modHport_nx ?_ rfl))
theorem readData_nx {M : Nat} {s tS : State} {p : Side} {v : Word} (hOnly : Only M s tS) (hSub : M ||| 16384 = M) :
    Only M s (readData p v tS) :=
  hOnly.step (readData_only ..) hSub
theorem logPush_only (e : LogEntry) (s : State) : Only 278544 s (logPush e s) := by
  unfold logPush
  repeat' (first
      | (with_reducible exact Only.refl _ _) | (with_reducible assumption)
      | (simp (maxDischargeDepth := 20) (contextual := true) only [Only.ite, Only.refl, Only.foldl, implies_true,
          reduceCtorEq, Nat.reduceOr, modMs_nx, recordPlain_nx, *]; done)
      | (with_reducible refine Only.foldl _ _ ?_ (fun t x ht => ?_)) | split | (dsimp only; split)
      | (with_reducible refine modMs_nx ?_ rfl) | (with_reducible refine recordPlain_nx ?_ rfl))
theorem logPush_nx {M : Nat} {s tS : State} {e : LogEntry} (hOnly : Only M s tS) (hSub : M ||| 278544 = M) :
    Only M s (logPush e tS) :=
  hOnly.step (logPush_only ..) hSub
theorem logEvent_only (kind block data16 data32 : Nat) (s : State) :
    Only 278544 s (logEvent kind block data16 data32 s) := by
  unfold logEvent
  repeat' (first
      | (with_reducible exact Only.refl _ _) | (with_reducible assumption)
      | (simp (maxDischargeDepth := 20) (contextual := true) only [Only.ite, Only.refl, Only.foldl, implies_true,
          reduceCtorEq, Nat.reduceOr, logPush_nx, *]; done)
      | (with_reducible refine Only.foldl _ _ ?_ (fun t x ht => ?_)) | split | (dsimp only; split)
      | (with_reducible refine logPush_nx ?_ rfl))
theorem logEvent_nx {M : Nat} {s tS : State} {kind block data16 data32 : Nat} (hOnly : Only M s tS) (hSub :
    M ||| 278544 = M) : Only M s (logEvent kind block data16 data32 tS) :=
  hOnly.step (logEvent_only ..) hSub
theorem logFault_only (kind : Nat) (e : Slot) (b : Block) (s : State) : Only 278544 s (logFault kind e b s) := by
  unfold logFault
  repeat' (first
      | (with_reducible exact Only.refl _ _) | (with_reducible assumption)
      | (simp (maxDischargeDepth := 20) (contextual := true) only [Only.ite, Only.refl, Only.foldl, implies_true,
          reduceCtorEq, Nat.reduceOr, logPush_nx, *]; done)
      | (with_reducible refine Only.foldl _ _ ?_ (fun t x ht => ?_)) | split | (dsimp only; split)
      | (with_reducible refine logPush_nx ?_ rfl))
theorem logFault_nx {M : Nat} {s tS : State} {kind : Nat} {e : Slot} {b : Block} (hOnly : Only M s tS) (hSub :
    M ||| 278544 = M) : Only M s (logFault kind e b tS) :=
  hOnly.step (logFault_only ..) hSub
theorem modBackup_only (f : BackupHalf → BackupHalf) (s : State) : Only 64 s (modBackup f s) := by
  unfold modBackup
  repeat' (first
      | (with_reducible exact Only.refl _ _) | (with_reducible assumption)
      | (simp (maxDischargeDepth := 20) (contextual := true) only [Only.ite, Only.refl, Only.foldl, implies_true,
          reduceCtorEq, Nat.reduceOr, modPcr_nx, *]; done)
      | (with_reducible refine Only.foldl _ _ ?_ (fun t x ht => ?_)) | split | (dsimp only; split)
      | (with_reducible refine modPcr_nx ?_ rfl))
theorem modBackup_nx {M : Nat} {s tS : State} {f : BackupHalf → BackupHalf} (hOnly : Only M s tS) (hSub : M ||| 64 = M) :
    Only M s (modBackup f tS) :=
  hOnly.step (modBackup_only ..) hSub
theorem backupState_only (new : DevState) (s : State) : Only 64 s (backupState new s) := by
  unfold backupState
  repeat' (first
      | (with_reducible exact Only.refl _ _) | (with_reducible assumption)
      | (simp (maxDischargeDepth := 20) (contextual := true) only [Only.ite, Only.refl, Only.foldl, implies_true,
          reduceCtorEq, Nat.reduceOr, modBackup_nx, *]; done)
      | (with_reducible refine Only.foldl _ _ ?_ (fun t x ht => ?_)) | split | (dsimp only; split)
      | (with_reducible refine modBackup_nx ?_ rfl))
theorem backupState_nx {M : Nat} {s tS : State} {new : DevState} (hOnly : Only M s tS) (hSub : M ||| 64 = M) :
    Only M s (backupState new tS) :=
  hOnly.step (backupState_only ..) hSub
theorem countFailedStart_only (s : State) : Only 64 s (countFailedStart s) := by
  unfold countFailedStart
  repeat' (first
      | (with_reducible exact Only.refl _ _) | (with_reducible assumption)
      | (simp (maxDischargeDepth := 20) (contextual := true) only [Only.ite, Only.refl, Only.foldl, implies_true,
          reduceCtorEq, Nat.reduceOr, modBackup_nx, modPcr_nx, *]; done)
      | (with_reducible refine Only.foldl _ _ ?_ (fun t x ht => ?_)) | split | (dsimp only; split)
      | (with_reducible refine modBackup_nx ?_ rfl) | (with_reducible refine modPcr_nx ?_ rfl))
theorem countFailedStart_nx {M : Nat} {s tS : State}  (hOnly : Only M s tS) (hSub : M ||| 64 = M) :
    Only M s (countFailedStart tS) :=
  hOnly.step (countFailedStart_only ..) hSub
theorem modItem_only (s : State) (p : Side) (n : Fin 8) (f : Item → Item) : Only 32768 s (State.modItem s p n f) := by
  unfold State.modItem
  repeat' (first
      | (with_reducible exact Only.refl _ _) | (with_reducible assumption)
      | (simp (maxDischargeDepth := 20) (contextual := true) only [Only.ite, Only.refl, Only.foldl, implies_true,
          reduceCtorEq, Nat.reduceOr, modSq_nx, *]; done)
      | (with_reducible refine Only.foldl _ _ ?_ (fun t x ht => ?_)) | split | (dsimp only; split)
      | (with_reducible refine modSq_nx ?_ rfl))
theorem modItem_nx {M : Nat} {s tS : State} {p : Side} {n : Fin 8} {f : Item → Item} (hOnly : Only M s tS) (hSub :
    M ||| 32768 = M) : Only M s (State.modItem tS p n f) :=
  hOnly.step (modItem_only ..) hSub
theorem endItem_only (p : Side) (n : Fin 8) (code : Nat) (result : Word) (s : State) :
    Only 32768 s (endItem p n code result s) := by
  unfold endItem
  repeat' (first
      | (with_reducible exact Only.refl _ _) | (with_reducible assumption)
      | (simp (maxDischargeDepth := 20) (contextual := true) only [Only.ite, Only.refl, Only.foldl, implies_true,
          reduceCtorEq, Nat.reduceOr, modItem_nx, *]; done)
      | (with_reducible refine Only.foldl _ _ ?_ (fun t x ht => ?_)) | split | (dsimp only; split)
      | (with_reducible refine modItem_nx ?_ rfl))
theorem endItem_nx {M : Nat} {s tS : State} {p : Side} {n : Fin 8} {code : Nat} {result : Word} (hOnly : Only M s tS)
    (hSub : M ||| 32768 = M) : Only M s (endItem p n code result tS) :=
  hOnly.step (endItem_only ..) hSub
theorem abortBegun_only (f : Nat → Bool) (code : Nat) (s : State) : Only 32768 s (abortBegun f code s) := by
  unfold abortBegun
  repeat' (first
      | (with_reducible exact Only.refl _ _) | (with_reducible assumption)
      | (simp (maxDischargeDepth := 20) (contextual := true) only [Only.ite, Only.refl, Only.foldl, implies_true,
          reduceCtorEq, Nat.reduceOr, endItem_nx, *]; done)
      | (with_reducible refine Only.foldl _ _ ?_ (fun t x ht => ?_)) | split | (dsimp only; split)
      | (with_reducible refine endItem_nx ?_ rfl))
theorem abortBegun_nx {M : Nat} {s tS : State} {f : Nat → Bool} {code : Nat} (hOnly : Only M s tS) (hSub :
    M ||| 32768 = M) : Only M s (abortBegun f code tS) :=
  hOnly.step (abortBegun_only ..) hSub
theorem abortSends_only (n : Fin 4) (code : Nat) (s : State) : Only 98304 s (abortSends n code s) := by
  unfold abortSends
  repeat' (first
      | (with_reducible exact Only.refl _ _) | (with_reducible assumption)
      | (simp (maxDischargeDepth := 20) (contextual := true) only [Only.ite, Only.refl, Only.foldl, implies_true,
          reduceCtorEq, Nat.reduceOr, endItem_nx, modPlPort_nx, *]; done)
      | (with_reducible refine Only.foldl _ _ ?_ (fun t x ht => ?_)) | split | (dsimp only; split)
      | (with_reducible refine endItem_nx ?_ rfl) | (with_reducible refine modPlPort_nx ?_ rfl))
theorem abortSends_nx {M : Nat} {s tS : State} {n : Fin 4} {code : Nat} (hOnly : Only M s tS) (hSub : M ||| 98304 = M) :
    Only M s (abortSends n code tS) :=
  hOnly.step (abortSends_only ..) hSub
theorem inhibitSide_only (d : Side) (s : State) : Only 8192 s (inhibitSide d s) := by
  unfold inhibitSide
  repeat' (first
      | (with_reducible exact Only.refl _ _) | (with_reducible assumption)
      | (simp (maxDischargeDepth := 20) (contextual := true) only [Only.ite, Only.refl, Only.foldl, implies_true,
          reduceCtorEq, Nat.reduceOr, modOs_nx, *]; done)
      | (with_reducible refine Only.foldl _ _ ?_ (fun t x ht => ?_)) | split | (dsimp only; split)
      | (with_reducible refine modOs_nx ?_ rfl))
theorem inhibitSide_nx {M : Nat} {s tS : State} {d : Side} (hOnly : Only M s tS) (hSub : M ||| 8192 = M) :
    Only M s (inhibitSide d tS) :=
  hOnly.step (inhibitSide_only ..) hSub
theorem inhibitBoth_only (s : State) : Only 8192 s (inhibitBoth s) := by
  unfold inhibitBoth
  repeat' (first
      | (with_reducible exact Only.refl _ _) | (with_reducible assumption)
      | (simp (maxDischargeDepth := 20) (contextual := true) only [Only.ite, Only.refl, Only.foldl, implies_true,
          reduceCtorEq, Nat.reduceOr, inhibitSide_nx, *]; done)
      | (with_reducible refine Only.foldl _ _ ?_ (fun t x ht => ?_)) | split | (dsimp only; split)
      | (with_reducible refine inhibitSide_nx ?_ rfl))
theorem inhibitBoth_nx {M : Nat} {s tS : State}  (hOnly : Only M s tS) (hSub : M ||| 8192 = M) : Only M s (inhibitBoth tS) :=
  hOnly.step (inhibitBoth_only ..) hSub
theorem markRearm_only (scope item : Nat) (s : State) : Only 8192 s (markRearm scope item s) := by
  unfold markRearm
  repeat' (first
      | (with_reducible exact Only.refl _ _) | (with_reducible assumption)
      | (simp (maxDischargeDepth := 20) (contextual := true) only [Only.ite, Only.refl, Only.foldl, implies_true,
          reduceCtorEq, Nat.reduceOr, modOs_nx, *]; done)
      | (with_reducible refine Only.foldl _ _ ?_ (fun t x ht => ?_)) | split | (dsimp only; split)
      | (with_reducible refine modOs_nx ?_ rfl))
theorem markRearm_nx {M : Nat} {s tS : State} {scope item : Nat} (hOnly : Only M s tS) (hSub : M ||| 8192 = M) :
    Only M s (markRearm scope item tS) :=
  hOnly.step (markRearm_only ..) hSub
theorem stopCores_only (s : State) : Only 524800 s (stopCores s) := by
  unfold stopCores
  repeat' (first
      | (with_reducible exact Only.refl _ _) | (with_reducible assumption)
      | (simp (maxDischargeDepth := 20) (contextual := true) only [Only.ite, Only.refl, Only.foldl, implies_true,
          reduceCtorEq, Nat.reduceOr, modEv_nx, *]; done)
      | (with_reducible refine Only.foldl _ _ ?_ (fun t x ht => ?_)) | split | (dsimp only; split)
      | (constructor <;> first | exact .inr rfl | exact .inl rfl) | (with_reducible refine modEv_nx ?_ rfl))
theorem stopCores_nx {M : Nat} {s tS : State}  (hOnly : Only M s tS) (hSub : M ||| 524800 = M) : Only M s (stopCores tS) :=
  hOnly.step (stopCores_only ..) hSub
theorem idleCells_only (s : State) : Only 128 s (idleCells s) := by
  unfold idleCells
  repeat' (first
      | (with_reducible exact Only.refl _ _) | (with_reducible assumption)
      | (simp (maxDischargeDepth := 20) (contextual := true) only [Only.ite, Only.refl, Only.foldl, implies_true,
          reduceCtorEq, Nat.reduceOr, modTb_nx, *]; done)
      | (with_reducible refine Only.foldl _ _ ?_ (fun t x ht => ?_)) | split | (dsimp only; split)
      | (with_reducible refine modTb_nx ?_ rfl))
theorem idleCells_nx {M : Nat} {s tS : State}  (hOnly : Only M s tS) (hSub : M ||| 128 = M) : Only M s (idleCells tS) :=
  hOnly.step (idleCells_only ..) hSub
theorem settleInput_only (i : Fin 128) (s : State) : Only 1024 s (settleInput i s) := by
  unfold settleInput
  repeat' (first
      | (with_reducible exact Only.refl _ _) | (with_reducible assumption)
      | (simp (maxDischargeDepth := 20) (contextual := true) only [Only.ite, Only.refl, Only.foldl, implies_true,
          reduceCtorEq, Nat.reduceOr, modInput_nx, *]; done)
      | (with_reducible refine Only.foldl _ _ ?_ (fun t x ht => ?_)) | split | (dsimp only; split)
      | (with_reducible refine modInput_nx ?_ rfl))
theorem settleInput_nx {M : Nat} {s tS : State} {i : Fin 128} (hOnly : Only M s tS) (hSub : M ||| 1024 = M) :
    Only M s (settleInput i tS) :=
  hOnly.step (settleInput_only ..) hSub
theorem sourcesOff_only (s : State) : Only 3072 s (sourcesOff s) := by
  unfold sourcesOff
  repeat' (first
      | (with_reducible exact Only.refl _ _) | (with_reducible assumption)
      | (simp (maxDischargeDepth := 20) (contextual := true) only [Only.ite, Only.refl, Only.foldl, implies_true,
          reduceCtorEq, Nat.reduceOr, modIb_nx, modPs_nx, *]; done)
      | (with_reducible refine Only.foldl _ _ ?_ (fun t x ht => ?_)) | split | (dsimp only; split)
      | (with_reducible refine modIb_nx ?_ rfl) | (with_reducible refine modPs_nx ?_ rfl))
theorem sourcesOff_nx {M : Nat} {s tS : State}  (hOnly : Only M s tS) (hSub : M ||| 3072 = M) : Only M s (sourcesOff tS) :=
  hOnly.step (sourcesOff_only ..) hSub
theorem startTerminals_only (s : State) : Only 11264 s (startTerminals s) := by
  unfold startTerminals
  repeat' (first
      | (with_reducible exact Only.refl _ _) | (with_reducible assumption)
      | (simp (maxDischargeDepth := 20) (contextual := true) only [Only.ite, Only.refl, Only.foldl, implies_true,
          reduceCtorEq, Nat.reduceOr, modIb_nx, modOs_nx, modPs_nx, *]; done)
      | (with_reducible refine Only.foldl _ _ ?_ (fun t x ht => ?_)) | split | (dsimp only; split)
      | (with_reducible refine modIb_nx ?_ rfl) | (with_reducible refine modOs_nx ?_ rfl)
      | (with_reducible refine modPs_nx ?_ rfl))
theorem startTerminals_nx {M : Nat} {s tS : State}  (hOnly : Only M s tS) (hSub : M ||| 11264 = M) :
    Only M s (startTerminals tS) :=
  hOnly.step (startTerminals_only ..) hSub
theorem thrRejoin_only (s : State) : Only 1024 s (thrRejoin s) := by
  unfold thrRejoin
  repeat' (first
      | (with_reducible exact Only.refl _ _) | (with_reducible assumption)
      | (simp (maxDischargeDepth := 20) (contextual := true) only [Only.ite, Only.refl, Only.foldl, implies_true,
          reduceCtorEq, Nat.reduceOr, modInput_nx, *]; done)
      | (with_reducible refine Only.foldl _ _ ?_ (fun t x ht => ?_)) | split | (dsimp only; split)
      | (with_reducible refine modInput_nx ?_ rfl))
theorem thrRejoin_nx {M : Nat} {s tS : State}  (hOnly : Only M s tS) (hSub : M ||| 1024 = M) : Only M s (thrRejoin tS) :=
  hOnly.step (thrRejoin_only ..) hSub
theorem stopModulePgs_only (s : State) : Only 128 s (stopModulePgs s) := by
  unfold stopModulePgs
  repeat' (first
      | (with_reducible exact Only.refl _ _) | (with_reducible assumption)
      | (simp (maxDischargeDepth := 20) (contextual := true) only [Only.ite, Only.refl, Only.foldl, implies_true,
          reduceCtorEq, Nat.reduceOr, modTb_nx, *]; done)
      | (with_reducible refine Only.foldl _ _ ?_ (fun t x ht => ?_)) | split | (dsimp only; split)
      | (with_reducible refine modTb_nx ?_ rfl))
theorem stopModulePgs_nx {M : Nat} {s tS : State}  (hOnly : Only M s tS) (hSub : M ||| 128 = M) :
    Only M s (stopModulePgs tS) :=
  hOnly.step (stopModulePgs_only ..) hSub
theorem tbEvent_only (src : Nat) (t : Tick) (s : State) : Only 128 s (tbEvent src t s) := by
  unfold tbEvent
  repeat' (first
      | (with_reducible exact Only.refl _ _) | (with_reducible assumption)
      | (simp (maxDischargeDepth := 20) (contextual := true) only [Only.ite, Only.refl, Only.foldl, implies_true,
          reduceCtorEq, Nat.reduceOr, modTb_nx, *]; done)
      | (with_reducible refine Only.foldl _ _ ?_ (fun t x ht => ?_)) | split | (dsimp only; split)
      | (with_reducible refine modTb_nx ?_ rfl))
theorem tbEvent_nx {M : Nat} {s tS : State} {src : Nat} {t : Tick} (hOnly : Only M s tS) (hSub : M ||| 128 = M) :
    Only M s (tbEvent src t tS) :=
  hOnly.step (tbEvent_only ..) hSub
theorem keepImage_only (n : Fin 4) (s : State) : Only 65536 s (keepImage n s) := by
  unfold keepImage
  repeat' (first
      | (with_reducible exact Only.refl _ _) | (with_reducible assumption)
      | (simp (maxDischargeDepth := 20) (contextual := true) only [Only.ite, Only.refl, Only.foldl, implies_true,
          reduceCtorEq, Nat.reduceOr, modPlPort_nx, *]; done)
      | (with_reducible refine Only.foldl _ _ ?_ (fun t x ht => ?_)) | split | (dsimp only; split)
      | (with_reducible refine modPlPort_nx ?_ rfl))
theorem keepImage_nx {M : Nat} {s tS : State} {n : Fin 4} (hOnly : Only M s tS) (hSub : M ||| 65536 = M) :
    Only M s (keepImage n tS) :=
  hOnly.step (keepImage_only ..) hSub
theorem plState_only (n : Fin 4) (st : PlState) (s : State) : Only 81920 s (plState n st s) := by
  unfold plState
  repeat' (first
      | (with_reducible exact Only.refl _ _) | (with_reducible assumption)
      | (simp (maxDischargeDepth := 20) (contextual := true) only [Only.ite, Only.refl, Only.foldl, implies_true,
          reduceCtorEq, Nat.reduceOr, keepImage_nx, modPl_nx, modPlPort_nx, raiseEventIrq_nx, *]; done)
      | (with_reducible refine Only.foldl _ _ ?_ (fun t x ht => ?_)) | split | (dsimp only; split)
      | (with_reducible refine keepImage_nx ?_ rfl) | (with_reducible refine modPl_nx ?_ rfl)
      | (with_reducible refine modPlPort_nx ?_ rfl) | (with_reducible refine raiseEventIrq_nx ?_ rfl))
theorem plState_nx {M : Nat} {s tS : State} {n : Fin 4} {st : PlState} (hOnly : Only M s tS) (hSub : M ||| 81920 = M) :
    Only M s (plState n st tS) :=
  hOnly.step (plState_only ..) hSub
theorem plOff_only (n : Fin 4) (s : State) : Only 81920 s (plOff n s) := by
  unfold plOff
  repeat' (first
      | (with_reducible exact Only.refl _ _) | (with_reducible assumption)
      | (simp (maxDischargeDepth := 20) (contextual := true) only [Only.ite, Only.refl, Only.foldl, implies_true,
          reduceCtorEq, Nat.reduceOr, keepImage_nx, modPlPort_nx, plState_nx, *]; done)
      | (with_reducible refine Only.foldl _ _ ?_ (fun t x ht => ?_)) | split | (dsimp only; split)
      | (with_reducible refine keepImage_nx ?_ rfl) | (with_reducible refine modPlPort_nx ?_ rfl)
      | (with_reducible refine plState_nx ?_ rfl))
theorem plOff_nx {M : Nat} {s tS : State} {n : Fin 4} (hOnly : Only M s tS) (hSub : M ||| 81920 = M) :
    Only M s (plOff n tS) :=
  hOnly.step (plOff_only ..) hSub
theorem plAllOff_only (s : State) : Only 81920 s (plAllOff s) := by
  unfold plAllOff
  repeat' (first
      | (with_reducible exact Only.refl _ _) | (with_reducible assumption)
      | (simp (maxDischargeDepth := 20) (contextual := true) only [Only.ite, Only.refl, Only.foldl, implies_true,
          reduceCtorEq, Nat.reduceOr, plOff_nx, *]; done)
      | (with_reducible refine Only.foldl _ _ ?_ (fun t x ht => ?_)) | split | (dsimp only; split)
      | (with_reducible refine plOff_nx ?_ rfl))
theorem plAllOff_nx {M : Nat} {s tS : State}  (hOnly : Only M s tS) (hSub : M ||| 81920 = M) : Only M s (plAllOff tS) :=
  hOnly.step (plAllOff_only ..) hSub
theorem katRelease_only (s : State) : Only 131072 s (katRelease s) := by
  unfold katRelease
  repeat' (first
      | (with_reducible exact Only.refl _ _) | (with_reducible assumption)
      | (simp (maxDischargeDepth := 20) (contextual := true) only [Only.ite, Only.refl, Only.foldl, implies_true,
          reduceCtorEq, Nat.reduceOr, modCv_nx, *]; done)
      | (with_reducible refine Only.foldl _ _ ?_ (fun t x ht => ?_)) | split | (dsimp only; split)
      | (with_reducible refine modCv_nx ?_ rfl))
theorem katRelease_nx {M : Nat} {s tS : State}  (hOnly : Only M s tS) (hSub : M ||| 131072 = M) : Only M s (katRelease tS) :=
  hOnly.step (katRelease_only ..) hSub
theorem cruiseStop_only (s : State) : Only 132352 s (cruiseStop s) := by
  unfold cruiseStop
  repeat' (first
      | (with_reducible exact Only.refl _ _) | (with_reducible assumption)
      | (simp (maxDischargeDepth := 20) (contextual := true) only [Only.ite, Only.refl, Only.foldl, implies_true,
          reduceCtorEq, Nat.reduceOr, katRelease_nx, modSt_nx, thrRejoin_nx, *]; done)
      | (with_reducible refine Only.foldl _ _ ?_ (fun t x ht => ?_)) | split | (dsimp only; split)
      | (with_reducible refine katRelease_nx ?_ rfl) | (with_reducible refine modSt_nx ?_ rfl)
      | (with_reducible refine thrRejoin_nx ?_ rfl))
theorem cruiseStop_nx {M : Nat} {s tS : State}  (hOnly : Only M s tS) (hSub : M ||| 132352 = M) : Only M s (cruiseStop tS) :=
  hOnly.step (cruiseStop_only ..) hSub
theorem cruiseInterrupt_only (s : State) : Only 132352 s (cruiseInterrupt s) := by
  unfold cruiseInterrupt
  repeat' (first
      | (with_reducible exact Only.refl _ _) | (with_reducible assumption)
      | (simp (maxDischargeDepth := 20) (contextual := true) only [Only.ite, Only.refl, Only.foldl, implies_true,
          reduceCtorEq, Nat.reduceOr, katRelease_nx, modSt_nx, thrRejoin_nx, *]; done)
      | (with_reducible refine Only.foldl _ _ ?_ (fun t x ht => ?_)) | split | (dsimp only; split)
      | (with_reducible refine katRelease_nx ?_ rfl) | (with_reducible refine modSt_nx ?_ rfl)
      | (with_reducible refine thrRejoin_nx ?_ rfl))
theorem cruiseInterrupt_nx {M : Nat} {s tS : State}  (hOnly : Only M s tS) (hSub : M ||| 132352 = M) :
    Only M s (cruiseInterrupt tS) :=
  hOnly.step (cruiseInterrupt_only ..) hSub
theorem ackRefuse_only (s : State) : Only 33024 s (ackRefuse s) := by
  unfold ackRefuse
  repeat' (first
      | (with_reducible exact Only.refl _ _) | (with_reducible assumption)
      | (simp (maxDischargeDepth := 20) (contextual := true) only [Only.ite, Only.refl, Only.foldl, implies_true,
          reduceCtorEq, Nat.reduceOr, endItem_nx, modSt_nx, *]; done)
      | (with_reducible refine Only.foldl _ _ ?_ (fun t x ht => ?_)) | split | (dsimp only; split)
      | (with_reducible refine endItem_nx ?_ rfl) | (with_reducible refine modSt_nx ?_ rfl))
theorem ackRefuse_nx {M : Nat} {s tS : State}  (hOnly : Only M s tS) (hSub : M ||| 33024 = M) : Only M s (ackRefuse tS) :=
  hOnly.step (ackRefuse_only ..) hSub
theorem ackDrop_only (s : State) : Only 256 s (ackDrop s) := by
  unfold ackDrop
  repeat' (first
      | (with_reducible exact Only.refl _ _) | (with_reducible assumption)
      | (simp (maxDischargeDepth := 20) (contextual := true) only [Only.ite, Only.refl, Only.foldl, implies_true,
          reduceCtorEq, Nat.reduceOr, modSt_nx, *]; done)
      | (with_reducible refine Only.foldl _ _ ?_ (fun t x ht => ?_)) | split | (dsimp only; split)
      | (with_reducible refine modSt_nx ?_ rfl))
theorem ackDrop_nx {M : Nat} {s tS : State}  (hOnly : Only M s tS) (hSub : M ||| 256 = M) : Only M s (ackDrop tS) :=
  hOnly.step (ackDrop_only ..) hSub
theorem disown_only (s : State) : Only 49408 s (disown s) := by
  unfold disown
  repeat' (first
      | (with_reducible exact Only.refl _ _) | (with_reducible assumption)
      | (simp (maxDischargeDepth := 20) (contextual := true) only [Only.ite, Only.refl, Only.foldl, implies_true,
          reduceCtorEq, Nat.reduceOr, ackRefuse_nx, modHp_nx, *]; done)
      | (with_reducible refine Only.foldl _ _ ?_ (fun t x ht => ?_)) | split | (dsimp only; split)
      | (with_reducible refine ackRefuse_nx ?_ rfl) | (with_reducible refine modHp_nx ?_ rfl))
theorem disown_nx {M : Nat} {s tS : State}  (hOnly : Only M s tS) (hSub : M ||| 49408 = M) : Only M s (disown tS) :=
  hOnly.step (disown_only ..) hSub
theorem modeDrop_only (s : State) : Only 32768 s (modeDrop s) := by
  unfold modeDrop
  repeat' (first
      | (with_reducible exact Only.refl _ _) | (with_reducible assumption)
      | (simp (maxDischargeDepth := 20) (contextual := true) only [Only.ite, Only.refl, Only.foldl, implies_true,
          reduceCtorEq, Nat.reduceOr, endItem_nx, modWq_nx, *]; done)
      | (with_reducible refine Only.foldl _ _ ?_ (fun t x ht => ?_)) | split | (dsimp only; split)
      | (with_reducible refine endItem_nx ?_ rfl) | (with_reducible refine modWq_nx ?_ rfl))
theorem modeDrop_nx {M : Nat} {s tS : State}  (hOnly : Only M s tS) (hSub : M ||| 32768 = M) : Only M s (modeDrop tS) :=
  hOnly.step (modeDrop_only ..) hSub
theorem ackCheck_only (s : State) : Only 33024 s (ackCheck s) := by
  unfold ackCheck
  repeat' (first
      | (with_reducible exact Only.refl _ _) | (with_reducible assumption)
      | (simp (maxDischargeDepth := 20) (contextual := true) only [Only.ite, Only.refl, Only.foldl, implies_true,
          reduceCtorEq, Nat.reduceOr, ackRefuse_nx, *]; done)
      | (with_reducible refine Only.foldl _ _ ?_ (fun t x ht => ?_)) | split | (dsimp only; split)
      | (with_reducible refine ackRefuse_nx ?_ rfl))
theorem ackCheck_nx {M : Nat} {s tS : State}  (hOnly : Only M s tS) (hSub : M ||| 33024 = M) : Only M s (ackCheck tS) :=
  hOnly.step (ackCheck_only ..) hSub
theorem setDev_only (new : DevState) (s : State) : Only 1044470 s (setDev new s) := by
  unfold setDev
  refine ackCheck_nx ?_ rfl
  have h : Only 1044470 s (cruiseInterrupt (backupState new { logEvent 4 Block.st.id s.dev.code new.code (modeDrop s) with dev := new, devAt := some (logEvent 4 Block.st.id s.dev.code new.code (modeDrop s)).now })) := by
    refine cruiseInterrupt_nx (backupState_nx (Only.step (t := logEvent 4 Block.st.id s.dev.code new.code (modeDrop s))
        (logEvent_nx (modeDrop_nx (Only.refl _ _) rfl) rfl) (m := 6) ?_ rfl) rfl) rfl
    constructor <;> first | exact .inr rfl | exact .inl rfl
  revert h
  generalize cruiseInterrupt (backupState new { logEvent 4 Block.st.id s.dev.code new.code (modeDrop s) with dev := new, devAt := some (logEvent 4 Block.st.id s.dev.code new.code (modeDrop s)).now }) = u
  intro h
  have h2 : Only 1044470 s (if new = .run then u else inhibitBoth u) := Only.ite h (inhibitBoth_nx h rfl)
  revert h2
  generalize (if new = .run then u else inhibitBoth u) = v
  intro h2
  cases new <;> dsimp only <;> simp (maxDischargeDepth := 20) only [Only.ite, Only.refl, Nat.reduceOr, h2, stopModulePgs_nx, startTerminals_nx, plAllOff_nx, sourcesOff_nx, cruiseStop_nx, idleCells_nx, modPl_nx, modSc_nx, modSt_nx, stopCores_nx, modHport_nx, modHp_nx]
theorem setDev_nx {M : Nat} {s t : State} {new : DevState} (h : Only M s t) (hs : M ||| 1044470 = M) :
    Only M s (setDev new t) :=
  h.step (setDev_only ..) hs

theorem enterHold_only (s : State) : Only 1044470 s (enterHold s) := by
  unfold enterHold
  repeat' (first
      | (with_reducible exact Only.refl _ _) | (with_reducible assumption)
      | (simp (maxDischargeDepth := 20) (contextual := true) only [Only.ite, Only.refl, Only.foldl, implies_true,
          reduceCtorEq, Nat.reduceOr, abortBegun_nx, ackDrop_nx, countFailedStart_nx, modDbg_nx, modHp_nx, modPcr_nx,
          modPlPort_nx, modSt_nx, modeDrop_nx, setDev_nx, *]; done)
      | (with_reducible refine Only.foldl _ _ ?_ (fun t x ht => ?_)) | split | (dsimp only; split)
      | (with_reducible refine abortBegun_nx ?_ rfl) | (with_reducible refine ackDrop_nx ?_ rfl)
      | (with_reducible refine countFailedStart_nx ?_ rfl) | (with_reducible refine modDbg_nx ?_ rfl)
      | (with_reducible refine modHp_nx ?_ rfl) | (with_reducible refine modPcr_nx ?_ rfl)
      | (with_reducible refine modPlPort_nx ?_ rfl) | (with_reducible refine modSt_nx ?_ rfl)
      | (with_reducible refine modeDrop_nx ?_ rfl) | (with_reducible refine setDev_nx ?_ rfl))
theorem enterHold_nx {M : Nat} {s tS : State}  (hOnly : Only M s tS) (hSub : M ||| 1044470 = M) : Only M s (enterHold tS) :=
  hOnly.step (enterHold_only ..) hSub
theorem fatalAction_only (s : State) : Only 1044470 s (fatalAction s) := by
  unfold fatalAction
  repeat' (first
      | (with_reducible exact Only.refl _ _) | (with_reducible assumption)
      | (simp (maxDischargeDepth := 20) (contextual := true) only [Only.ite, Only.refl, Only.foldl, implies_true,
          reduceCtorEq, Nat.reduceOr, enterHold_nx, inhibitBoth_nx, modDbg_nx, modEv_nx, modPcr_nx, setDev_nx, *]; done)
      | (with_reducible refine Only.foldl _ _ ?_ (fun t x ht => ?_)) | split | (dsimp only; split)
      | (with_reducible refine enterHold_nx ?_ rfl) | (with_reducible refine inhibitBoth_nx ?_ rfl)
      | (with_reducible refine modDbg_nx ?_ rfl) | (with_reducible refine modEv_nx ?_ rfl)
      | (with_reducible refine modPcr_nx ?_ rfl) | (with_reducible refine setDev_nx ?_ rfl))
theorem fatalAction_nx {M : Nat} {s tS : State}  (hOnly : Only M s tS) (hSub : M ||| 1044470 = M) :
    Only M s (fatalAction tS) :=
  hOnly.step (fatalAction_only ..) hSub
theorem scopeAborts_only (scope item : Nat) (s : State) : Only 98304 s (scopeAborts scope item s) := by
  unfold scopeAborts
  repeat' (first
      | (with_reducible exact Only.refl _ _) | (with_reducible assumption)
      | (simp (maxDischargeDepth := 20) (contextual := true) only [Only.ite, Only.refl, Only.foldl, implies_true,
          reduceCtorEq, Nat.reduceOr, abortSends_nx, *]; done)
      | (with_reducible refine Only.foldl _ _ ?_ (fun t x ht => ?_)) | split | (dsimp only; split)
      | (with_reducible refine abortSends_nx ?_ rfl))
theorem scopeAborts_nx {M : Nat} {s tS : State} {scope item : Nat} (hOnly : Only M s tS) (hSub : M ||| 98304 = M) :
    Only M s (scopeAborts scope item tS) :=
  hOnly.step (scopeAborts_only ..) hSub
theorem recordCore_only (f : FaultRep) (s : State) : Only 1044470 s (recordCore f s) := by
  unfold recordCore
  repeat' (first
      | (with_reducible exact Only.refl _ _) | (with_reducible assumption)
      | (simp (maxDischargeDepth := 20) (contextual := true) only [Only.ite, Only.refl, Only.foldl, implies_true,
          reduceCtorEq, Nat.reduceOr, fatalAction_nx, logFault_nx, markRearm_nx, modRec_nx, scopeAborts_nx, *]; done)
      | (with_reducible refine Only.foldl _ _ ?_ (fun t x ht => ?_)) | split | (dsimp only; split)
      | (with_reducible refine fatalAction_nx ?_ rfl) | (with_reducible refine logFault_nx ?_ rfl)
      | (with_reducible refine markRearm_nx ?_ rfl) | (with_reducible refine modRec_nx ?_ rfl)
      | (with_reducible refine scopeAborts_nx ?_ rfl))
theorem recordCore_nx {M : Nat} {s tS : State} {f : FaultRep} (hOnly : Only M s tS) (hSub : M ||| 1044470 = M) :
    Only M s (recordCore f tS) :=
  hOnly.step (recordCore_only ..) hSub
theorem recordCore_already {f : FaultRep} {s : State} {x : Resource × Block × Nat} {t : Tick} (h :
    badFor f.block f.quarter s = some (x, t)) (ht : t ≠ s.now) : Only 385040 s (recordCore f s) := by
  unfold recordCore
  dsimp only
  simp only [h, bne_iff_ne, ne_eq, ht, not_false_eq_true, if_true]
  split
  · exact modRec_nx (Only.refl _ _) rfl
  · simp (maxDischargeDepth := 20) only [Only.refl, Nat.reduceOr, scopeAborts_nx, markRearm_nx, logFault_nx, modRec_nx]
theorem recordCorrected_only (f : FaultRep) (s : State) : Only 385040 s (recordCorrected f s) := by
  unfold recordCorrected
  split
  · rename_i h
    split
    · exact recordPlain_nx (Only.refl _ _) rfl
    · exact modRec_nx (recordCore_already h ‹_›) rfl
  · exact recordPlain_nx (Only.refl _ _) rfl
theorem recordCorrected_nx {M : Nat} {s t : State} {f : FaultRep} (h : Only M s t) (hs : M ||| 385040 = M) :
    Only M s (recordCorrected f t) :=
  h.step (recordCorrected_only ..) hs

theorem recordAccess_only (b : Block) (p : Side) (off : Nat) (s : State) : Only 385040 s (recordAccess b p off s) := by
  unfold recordAccess
  repeat' (first
      | (with_reducible exact Only.refl _ _) | (with_reducible assumption)
      | (simp (maxDischargeDepth := 20) (contextual := true) only [Only.ite, Only.refl, Only.foldl, implies_true,
          reduceCtorEq, Nat.reduceOr, recordCorrected_nx, *]; done)
      | (with_reducible refine Only.foldl _ _ ?_ (fun t x ht => ?_)) | split | (dsimp only; split)
      | (with_reducible refine recordCorrected_nx ?_ rfl))
theorem recordAccess_nx {M : Nat} {s tS : State} {b : Block} {p : Side} {off : Nat} (hOnly : Only M s tS) (hSub :
    M ||| 385040 = M) : Only M s (recordAccess b p off tS) :=
  hOnly.step (recordAccess_only ..) hSub
theorem recordResource_only (b : Block) (q : Fin 4) (s : State) : Only 1044470 s (recordResource b q s) := by
  unfold recordResource
  repeat' (first
      | (with_reducible exact Only.refl _ _) | (with_reducible assumption)
      | (simp (maxDischargeDepth := 20) (contextual := true) only [Only.ite, Only.refl, Only.foldl, implies_true,
          reduceCtorEq, Nat.reduceOr, recordCore_nx, *]; done)
      | (with_reducible refine Only.foldl _ _ ?_ (fun t x ht => ?_)) | split | (dsimp only; split)
      | (with_reducible refine recordCore_nx ?_ rfl))
theorem recordResource_nx {M : Nat} {s tS : State} {b : Block} {q : Fin 4} (hOnly : Only M s tS) (hSub :
    M ||| 1044470 = M) : Only M s (recordResource b q tS) :=
  hOnly.step (recordResource_only ..) hSub
theorem turnBad_only (r : Resource) (code : Nat) (s : State) : Only 1044478 s (turnBad r code s) := by
  unfold turnBad
  repeat' (first
      | (with_reducible exact Only.refl _ _) | (with_reducible assumption)
      | (simp (maxDischargeDepth := 20) (contextual := true) only [Only.ite, Only.refl, Only.foldl, implies_true,
          reduceCtorEq, Nat.reduceOr, recordResource_nx, *]; done)
      | (with_reducible refine Only.foldl _ _ ?_ (fun t x ht => ?_)) | split | (dsimp only; split)
      | (constructor <;> first | exact .inr rfl | exact .inl rfl) | (with_reducible refine recordResource_nx ?_ rfl))
theorem turnBad_nx {M : Nat} {s tS : State} {r : Resource} {code : Nat} (hOnly : Only M s tS) (hSub : M ||| 1044478 = M) :
    Only M s (turnBad r code tS) :=
  hOnly.step (turnBad_only ..) hSub
theorem recordFault_only (f : FaultRep) (s : State) : Only 1044478 s (recordFault f s) := by
  unfold recordFault
  repeat' (first
      | (with_reducible exact Only.refl _ _) | (with_reducible assumption)
      | (simp (maxDischargeDepth := 20) (contextual := true) only [Only.ite, Only.refl, Only.foldl, implies_true,
          reduceCtorEq, Nat.reduceOr, recordCore_nx, recordCorrected_nx, turnBad_nx, *]; done)
      | (with_reducible refine Only.foldl _ _ ?_ (fun t x ht => ?_)) | split | (dsimp only; split)
      | (with_reducible refine recordCore_nx ?_ rfl) | (with_reducible refine recordCorrected_nx ?_ rfl)
      | (with_reducible refine turnBad_nx ?_ rfl))
theorem recordFault_nx {M : Nat} {s tS : State} {f : FaultRep} (hOnly : Only M s tS) (hSub : M ||| 1044478 = M) :
    Only M s (recordFault f tS) :=
  hOnly.step (recordFault_only ..) hSub
theorem causeAbsent_only (b : Block) (cause item : Nat) (s : State) : Only 16 s (causeAbsent b cause item s) := by
  unfold causeAbsent
  repeat' (first
      | (with_reducible exact Only.refl _ _) | (with_reducible assumption)
      | (simp (maxDischargeDepth := 20) (contextual := true) only [Only.ite, Only.refl, Only.foldl, implies_true,
          reduceCtorEq, Nat.reduceOr, modRec_nx, *]; done)
      | (with_reducible refine Only.foldl _ _ ?_ (fun t x ht => ?_)) | split | (dsimp only; split)
      | (with_reducible refine modRec_nx ?_ rfl))
theorem causeAbsent_nx {M : Nat} {s tS : State} {b : Block} {cause item : Nat} (hOnly : Only M s tS) (hSub : M ||| 16 = M) :
    Only M s (causeAbsent b cause item tS) :=
  hOnly.step (causeAbsent_only ..) hSub
theorem causeAbsentIn_only (b : Block) (cause scope item : Nat) (s : State) :
    Only 16 s (causeAbsentIn b cause scope item s) := by
  unfold causeAbsentIn
  repeat' (first
      | (with_reducible exact Only.refl _ _) | (with_reducible assumption)
      | (simp (maxDischargeDepth := 20) (contextual := true) only [Only.ite, Only.refl, Only.foldl, implies_true,
          reduceCtorEq, Nat.reduceOr, modRec_nx, *]; done)
      | (with_reducible refine Only.foldl _ _ ?_ (fun t x ht => ?_)) | split | (dsimp only; split)
      | (with_reducible refine modRec_nx ?_ rfl))
theorem causeAbsentIn_nx {M : Nat} {s tS : State} {b : Block} {cause scope item : Nat} (hOnly : Only M s tS) (hSub :
    M ||| 16 = M) : Only M s (causeAbsentIn b cause scope item tS) :=
  hOnly.step (causeAbsentIn_only ..) hSub
theorem causeAgain_only (b : Block) (cause item : Nat) (s : State) : Only 16 s (causeAgain b cause item s) := by
  unfold causeAgain
  repeat' (first
      | (with_reducible exact Only.refl _ _) | (with_reducible assumption)
      | (simp (maxDischargeDepth := 20) (contextual := true) only [Only.ite, Only.refl, Only.foldl, implies_true,
          reduceCtorEq, Nat.reduceOr, modRec_nx, *]; done)
      | (with_reducible refine Only.foldl _ _ ?_ (fun t x ht => ?_)) | split | (dsimp only; split)
      | (with_reducible refine modRec_nx ?_ rfl))
theorem causeAgain_nx {M : Nat} {s tS : State} {b : Block} {cause item : Nat} (hOnly : Only M s tS) (hSub : M ||| 16 = M) :
    Only M s (causeAgain b cause item tS) :=
  hOnly.step (causeAgain_only ..) hSub
theorem recordPulse_only (f : FaultRep) (s : State) : Only 1044478 s (recordPulse f s) := by
  unfold recordPulse; exact causeAbsent_nx (recordFault_only ..) rfl
theorem recordPulse_nx {M : Nat} {s t : State} {f : FaultRep} (h : Only M s t) (hs : M ||| 1044478 = M) :
    Only M s (recordPulse f t) :=
  h.step (recordPulse_only ..) hs
theorem recordFault_corr_nx {M : Nat} {s t : State} {f : FaultRep} (h : Only M s t) (hc : f.cls = .corrected) (hs :
    M ||| 385040 = M) : Only M s (recordFault f t) := by
  unfold recordFault; rw [if_pos hc]; exact recordCorrected_nx h hs
theorem recordPulse_corr_nx {M : Nat} {s t : State} {f : FaultRep} (h : Only M s t) (hc : f.cls = .corrected) (hs :
    M ||| 385040 = M) : Only M s (recordPulse f t) := by
  unfold recordPulse; refine causeAbsent_nx (recordFault_corr_nx h hc hs) ?_
  rw [← hs, Nat.or_assoc]; rfl
theorem recordCore_cont_only (f : FaultRep) (s : State) (hc : f.cls = .contained) : Only 385040 s (recordCore f s) := by
  unfold recordCore
  dsimp only
  have : ∀ b : Bool, (if b = true then FaultClass.contained else f.cls) = .contained := by intro b; cases b <;> simp [hc]
  simp only [this]
  split
  · exact modRec_nx (Only.refl _ _) rfl
  · simp (maxDischargeDepth := 20) only [Only.refl, Nat.reduceOr, scopeAborts_nx, markRearm_nx, logFault_nx, modRec_nx]
theorem recordCore_cont_nx {M : Nat} {s t : State} {f : FaultRep} (h : Only M s t) (hc : f.cls = .contained) (hs :
    M ||| 385040 = M) : Only M s (recordCore f t) :=
  h.step (recordCore_cont_only _ _ hc) hs
theorem recordResource_cont_nx {M : Nat} {s t : State} {b : Block} {q : Fin 4} (h : Only M s t) (hs : M ||| 385040 = M) :
    Only M s (recordResource b q t) := by
  unfold recordResource; exact recordCore_cont_nx h rfl hs
theorem turnBad_cont_only (r : Resource) (k : Nat) (s : State) : Only 385048 s (turnBad r k s) := by
  unfold turnBad
  split
  · exact Only.refl _ _
  · dsimp only
    have h : Only 385048 s { s with bad := s.bad ++ [(r, k, s.now)], fr := vmapIdx s.fr (fun i x => match Block.ofId (i.val + 1) with | some b => stormMark (s.bad ++ [(r, k, s.now)]) b r k ({ s with bad := s.bad ++ [(r, k, s.now)] } : State).now x | none => x) } := by
      constructor <;> first | exact .inr rfl | exact .inl rfl
    split
    · exact Only.foldl _ _ h (fun t x ht => recordResource_cont_nx ht rfl)
    · exact Only.foldl _ _ h (fun t x ht => recordResource_cont_nx ht rfl)
    · exact Only.foldl _ _ h (fun t x ht => recordResource_cont_nx ht rfl)
    · exact h
theorem recordFault_cont_only (f : FaultRep) (s : State) (hc : f.cls = .contained) : Only 385048 s (recordFault f s) := by
  unfold recordFault
  rw [if_neg (by rw [hc]; decide)]
  dsimp only
  split
  · exact (recordCore_cont_nx (Only.refl _ _) hc rfl).step (turnBad_cont_only ..) rfl
  · exact recordCore_cont_nx (Only.refl _ _) hc rfl
theorem recordFault_cont_nx {M : Nat} {s t : State} {f : FaultRep} (h : Only M s t) (hc : f.cls = .contained) (hs :
    M ||| 385048 = M) : Only M s (recordFault f t) :=
  h.step (recordFault_cont_only _ _ hc) hs
theorem recordPulse_cont_only (f : FaultRep) (s : State) (hc : f.cls = .contained) : Only 385048 s (recordPulse f s) := by
  unfold recordPulse; exact causeAbsent_nx (recordFault_cont_only _ _ hc) rfl
theorem recordPulse_cont_nx {M : Nat} {s t : State} {f : FaultRep} (h : Only M s t) (hc : f.cls = .contained) (hs :
    M ||| 385048 = M) : Only M s (recordPulse f t) :=
  h.step (recordPulse_cont_only _ _ hc) hs

theorem pcrFatal_only (d : Side) (cause addr acc : Nat) (s : State) : Only 1044478 s (pcrFatal d cause addr acc s) := by
  unfold pcrFatal
  repeat' (first
      | (with_reducible exact Only.refl _ _) | (with_reducible assumption)
      | (simp (maxDischargeDepth := 20) (contextual := true) only [Only.ite, Only.refl, Only.foldl, implies_true,
          reduceCtorEq, Nat.reduceOr, recordFault_nx, *]; done)
      | (with_reducible refine Only.foldl _ _ ?_ (fun t x ht => ?_)) | split | (dsimp only; split)
      | (with_reducible refine recordFault_nx ?_ rfl))
theorem pcrFatal_nx {M : Nat} {s tS : State} {d : Side} {cause addr acc : Nat} (hOnly : Only M s tS) (hSub :
    M ||| 1044478 = M) : Only M s (pcrFatal d cause addr acc tS) :=
  hOnly.step (pcrFatal_only ..) hSub
theorem pcrCorrected_only (d : Side) (cause addr : Nat) (s : State) : Only 385040 s (pcrCorrected d cause addr s) := by
  unfold pcrCorrected
  repeat' (first
      | (with_reducible exact Only.refl _ _) | (with_reducible assumption)
      | (simp (maxDischargeDepth := 20) (contextual := true) only [Only.ite, Only.refl, Only.foldl, implies_true,
          reduceCtorEq, Nat.reduceOr, recordFault_corr_nx, *]; done)
      | (with_reducible refine Only.foldl _ _ ?_ (fun t x ht => ?_)) | split | (dsimp only; split)
      | (with_reducible refine recordFault_corr_nx ?_ rfl))
theorem pcrCorrected_nx {M : Nat} {s tS : State} {d : Side} {cause addr : Nat} (hOnly : Only M s tS) (hSub :
    M ||| 385040 = M) : Only M s (pcrCorrected d cause addr tS) :=
  hOnly.step (pcrCorrected_only ..) hSub
theorem clockLostInStart_only (drop : Clocks → Clocks) (s : State) : Only 1044478 s (clockLostInStart drop s) := by
  unfold clockLostInStart
  repeat' (first
      | (with_reducible exact Only.refl _ _) | (with_reducible assumption)
      | (simp (maxDischargeDepth := 20) (contextual := true) only [Only.ite, Only.refl, Only.foldl, implies_true,
          reduceCtorEq, Nat.reduceOr, modPcr_nx, pcrFatal_nx, *]; done)
      | (with_reducible refine Only.foldl _ _ ?_ (fun t x ht => ?_)) | split | (dsimp only; split)
      | (with_reducible refine modPcr_nx ?_ rfl) | (with_reducible refine pcrFatal_nx ?_ rfl))
theorem clockLostInStart_nx {M : Nat} {s tS : State} {drop : Clocks → Clocks} (hOnly : Only M s tS) (hSub :
    M ||| 1044478 = M) : Only M s (clockLostInStart drop tS) :=
  hOnly.step (clockLostInStart_only ..) hSub
end Sys2Proof.Machine
end

