-- ==== Sys2Proof/Laws/FrameStoreOps.lean ====
section
/-!
SUPPORT. Sys2Proof/Laws/FrameStoreOps.lean: the frames of the operations and commands of Machine/StoreOps.lean: `op_only` names all that an
operation can change; `op_nx` is the same at the end of a chain of operations.
-/
set_option linter.unusedSimpArgs false
set_option linter.unusedVariables false
namespace Sys2Proof.Machine
theorem modStores_only (f : Side → Store → Store) (s : State) : Only 262144 s (modStores f s) := by
  unfold modStores
  repeat' (first
      | (with_reducible exact Only.refl _ _) | (with_reducible assumption)
      | (simp (maxDischargeDepth := 20) (contextual := true) only [Only.ite, Only.refl, Only.foldl, implies_true,
          reduceCtorEq, Nat.reduceOr, modStore_nx, *]; done)
      | (with_reducible refine Only.foldl _ _ ?_ (fun t x ht => ?_)) | split | (dsimp only; split)
      | (with_reducible refine modStore_nx ?_ rfl))
theorem modStores_nx {M : Nat} {s tS : State} {f : Side → Store → Store} (hOnly : Only M s tS) (hSub : M ||| 262144 = M) :
    Only M s (modStores f tS) :=
  hOnly.step (modStores_only ..) hSub
theorem storeFail_only (i : Side) (addr : Nat) (s : State) : Only 1044478 s (storeFail i addr s) := by
  unfold storeFail
  repeat' (first
      | (with_reducible exact Only.refl _ _) | (with_reducible assumption)
      | (simp (maxDischargeDepth := 20) (contextual := true) only [Only.ite, Only.refl, Only.foldl, implies_true,
          reduceCtorEq, Nat.reduceOr, logEvent_nx, modStore_nx, recordFault_nx, *]; done)
      | (with_reducible refine Only.foldl _ _ ?_ (fun t x ht => ?_)) | split | (dsimp only; split)
      | (with_reducible refine logEvent_nx ?_ rfl) | (with_reducible refine modStore_nx ?_ rfl)
      | (with_reducible refine recordFault_nx ?_ rfl))
theorem storeFail_nx {M : Nat} {s tS : State} {i : Side} {addr : Nat} (hOnly : Only M s tS) (hSub : M ||| 1044478 = M) :
    Only M s (storeFail i addr tS) :=
  hOnly.step (storeFail_only ..) hSub
theorem setIdentities_only (f : Identity → Identity) (s : State) : Only 262144 s (setIdentities f s) := by
  unfold setIdentities
  repeat' (first
      | (with_reducible exact Only.refl _ _) | (with_reducible assumption)
      | (simp (maxDischargeDepth := 20) (contextual := true) only [Only.ite, Only.refl, Only.foldl, implies_true,
          reduceCtorEq, Nat.reduceOr, modStores_nx, *]; done)
      | (with_reducible refine Only.foldl _ _ ?_ (fun t x ht => ?_)) | split | (dsimp only; split)
      | (with_reducible refine modStores_nx ?_ rfl))
theorem setIdentities_nx {M : Nat} {s tS : State} {f : Identity → Identity} (hOnly : Only M s tS) (hSub :
    M ||| 262144 = M) : Only M s (setIdentities f tS) :=
  hOnly.step (setIdentities_only ..) hSub
theorem checkpointWear_only (s : State) : Only 262144 s (checkpointWear s) := by
  unfold checkpointWear
  repeat' (first
      | (with_reducible exact Only.refl _ _) | (with_reducible assumption)
      | (simp (maxDischargeDepth := 20) (contextual := true) only [Only.ite, Only.refl, Only.foldl, implies_true,
          reduceCtorEq, Nat.reduceOr, modMs_nx, modStores_nx, *]; done)
      | (with_reducible refine Only.foldl _ _ ?_ (fun t x ht => ?_)) | split | (dsimp only; split)
      | (with_reducible refine modMs_nx ?_ rfl) | (with_reducible refine modStores_nx ?_ rfl))
theorem checkpointWear_nx {M : Nat} {s tS : State}  (hOnly : Only M s tS) (hSub : M ||| 262144 = M) :
    Only M s (checkpointWear tS) :=
  hOnly.step (checkpointWear_only ..) hSub
theorem changeLc_only (new : LifeCycle) (s : State) : Only 278800 s (changeLc new s) := by
  unfold changeLc
  repeat' (first
      | (with_reducible exact Only.refl _ _) | (with_reducible assumption)
      | (simp (maxDischargeDepth := 20) (contextual := true) only [Only.ite, Only.refl, Only.foldl, implies_true,
          reduceCtorEq, Nat.reduceOr, logEvent_nx, modSt_nx, setIdentities_nx, *]; done)
      | (with_reducible refine Only.foldl _ _ ?_ (fun t x ht => ?_)) | split | (dsimp only; split)
      | (with_reducible refine logEvent_nx ?_ rfl) | (with_reducible refine modSt_nx ?_ rfl)
      | (with_reducible refine setIdentities_nx ?_ rfl))
theorem changeLc_nx {M : Nat} {s tS : State} {new : LifeCycle} (hOnly : Only M s tS) (hSub : M ||| 278800 = M) :
    Only M s (changeLc new tS) :=
  hOnly.step (changeLc_only ..) hSub
theorem journalRaw_only (r : JRec) (s : State) : Only 294912 s (journalRaw r s) := by
  unfold journalRaw
  repeat' (first
      | (with_reducible exact Only.refl _ _) | (with_reducible assumption)
      | (simp (maxDischargeDepth := 20) (contextual := true) only [Only.ite, Only.refl, Only.foldl, implies_true,
          reduceCtorEq, Nat.reduceOr, modStores_nx, modWq_nx, *]; done)
      | (with_reducible refine Only.foldl _ _ ?_ (fun t x ht => ?_)) | split | (dsimp only; split)
      | (with_reducible refine modStores_nx ?_ rfl) | (with_reducible refine modWq_nx ?_ rfl))
theorem journalRaw_nx {M : Nat} {s tS : State} {r : JRec} (hOnly : Only M s tS) (hSub : M ||| 294912 = M) :
    Only M s (journalRaw r tS) :=
  hOnly.step (journalRaw_only ..) hSub
theorem copyForward_only (n : Nat) (s : State) : Only 294912 s (copyForward n s) := by
  induction n generalizing s with
  | zero => exact Only.refl _ _
  | succ n ih =>
    unfold copyForward
    dsimp only
    split
    · split
      · exact (journalRaw_only _ _).step (ih _) rfl
      · exact Only.refl _ _
    · exact Only.refl _ _
theorem copyForward_nx {M : Nat} {s t : State} {n : Nat} (h : Only M s t) (hs : M ||| 294912 = M) :
    Only M s (copyForward n t) :=
  h.step (copyForward_only ..) hs

theorem tearJournals_only (a b : Tear) (s : State) : Only 262144 s (tearJournals a b s) := by
  unfold tearJournals
  repeat' (first
      | (with_reducible exact Only.refl _ _) | (with_reducible assumption)
      | (simp (maxDischargeDepth := 20) (contextual := true) only [Only.ite, Only.refl, Only.foldl, implies_true,
          reduceCtorEq, Nat.reduceOr, modStores_nx, *]; done)
      | (with_reducible refine Only.foldl _ _ ?_ (fun t x ht => ?_)) | split | (dsimp only; split)
      | (with_reducible refine modStores_nx ?_ rfl))
theorem tearJournals_nx {M : Nat} {s tS : State} {a b : Tear} (hOnly : Only M s tS) (hSub : M ||| 262144 = M) :
    Only M s (tearJournals a b tS) :=
  hOnly.step (tearJournals_only ..) hSub
theorem journalWrite_only (r : JRec) (s : State) : Only 294912 s (journalWrite r s) := by
  unfold journalWrite
  repeat' (first
      | (with_reducible exact Only.refl _ _) | (with_reducible assumption)
      | (simp (maxDischargeDepth := 20) (contextual := true) only [Only.ite, Only.refl, Only.foldl, implies_true,
          reduceCtorEq, Nat.reduceOr, copyForward_nx, journalRaw_nx, *]; done)
      | (with_reducible refine Only.foldl _ _ ?_ (fun t x ht => ?_)) | split | (dsimp only; split)
      | (with_reducible refine copyForward_nx ?_ rfl) | (with_reducible refine journalRaw_nx ?_ rfl))
theorem journalWrite_nx {M : Nat} {s tS : State} {r : JRec} (hOnly : Only M s tS) (hSub : M ||| 294912 = M) :
    Only M s (journalWrite r tS) :=
  hOnly.step (journalWrite_only ..) hSub
end Sys2Proof.Machine
end

