-- ==== Sys2Proof/Laws/Fields.lean ====
section
/-!
SUPPORT. Sys2Proof/Laws/Fields.lean: the fields of State that a shared operation of Machine/Ops.lean or Machine/StoreOps.lean
leaves unchanged, one simp law for each, read off the operation's frame.
-/
namespace Sys2Proof.Machine

/-! `modStores` -/
@[simp] theorem modStores_f_pending {f : Side → Store → Store} {s : State} : (modStores f s).pending = s.pending :=
  (modStores_only ..).pending.resolve_left (by decide)
@[simp] theorem modStores_f_dev {f : Side → Store → Store} {s : State} : (modStores f s).dev = s.dev :=
  (modStores_only ..).dev.resolve_left (by decide)
@[simp] theorem modStores_f_devAt {f : Side → Store → Store} {s : State} : (modStores f s).devAt = s.devAt :=
  (modStores_only ..).devAt.resolve_left (by decide)
@[simp] theorem modStores_f_bad {f : Side → Store → Store} {s : State} : (modStores f s).bad = s.bad :=
  (modStores_only ..).bad.resolve_left (by decide)
@[simp] theorem modStores_f_fr {f : Side → Store → Store} {s : State} : (modStores f s).fr = s.fr :=
  (modStores_only ..).fr.resolve_left (by decide)
@[simp] theorem modStores_f_sc {f : Side → Store → Store} {s : State} : (modStores f s).sc = s.sc :=
  (modStores_only ..).sc.resolve_left (by decide)
@[simp] theorem modStores_f_pcr {f : Side → Store → Store} {s : State} : (modStores f s).pcr = s.pcr :=
  (modStores_only ..).pcr.resolve_left (by decide)
@[simp] theorem modStores_f_tb {f : Side → Store → Store} {s : State} : (modStores f s).tb = s.tb :=
  (modStores_only ..).tb.resolve_left (by decide)
@[simp] theorem modStores_f_st {f : Side → Store → Store} {s : State} : (modStores f s).st = s.st :=
  (modStores_only ..).st.resolve_left (by decide)
@[simp] theorem modStores_f_ev {f : Side → Store → Store} {s : State} : (modStores f s).ev = s.ev :=
  (modStores_only ..).ev.resolve_left (by decide)
@[simp] theorem modStores_f_ib {f : Side → Store → Store} {s : State} : (modStores f s).ib = s.ib :=
  (modStores_only ..).ib.resolve_left (by decide)
@[simp] theorem modStores_f_ps {f : Side → Store → Store} {s : State} : (modStores f s).ps = s.ps :=
  (modStores_only ..).ps.resolve_left (by decide)
@[simp] theorem modStores_f_af {f : Side → Store → Store} {s : State} : (modStores f s).af = s.af :=
  (modStores_only ..).af.resolve_left (by decide)
@[simp] theorem modStores_f_os {f : Side → Store → Store} {s : State} : (modStores f s).os = s.os :=
  (modStores_only ..).os.resolve_left (by decide)
@[simp] theorem modStores_f_hp {f : Side → Store → Store} {s : State} : (modStores f s).hp = s.hp :=
  (modStores_only ..).hp.resolve_left (by decide)
@[simp] theorem modStores_f_wq {f : Side → Store → Store} {s : State} : (modStores f s).wq = s.wq :=
  (modStores_only ..).wq.resolve_left (by decide)
@[simp] theorem modStores_f_pl {f : Side → Store → Store} {s : State} : (modStores f s).pl = s.pl :=
  (modStores_only ..).pl.resolve_left (by decide)
@[simp] theorem modStores_f_cv {f : Side → Store → Store} {s : State} : (modStores f s).cv = s.cv :=
  (modStores_only ..).cv.resolve_left (by decide)
@[simp] theorem modStores_f_free {f : Side → Store → Store} {s : State} : (modStores f s).free = s.free :=
  (modStores_only ..).free.resolve_left (by decide)

/-! `cruiseStop` -/
@[simp] theorem cruiseStop_f_pending {s : State} : (cruiseStop s).pending = s.pending :=
  (cruiseStop_only ..).pending.resolve_left (by decide)
@[simp] theorem cruiseStop_f_dev {s : State} : (cruiseStop s).dev = s.dev :=
  (cruiseStop_only ..).dev.resolve_left (by decide)
@[simp] theorem cruiseStop_f_devAt {s : State} : (cruiseStop s).devAt = s.devAt :=
  (cruiseStop_only ..).devAt.resolve_left (by decide)
@[simp] theorem cruiseStop_f_bad {s : State} : (cruiseStop s).bad = s.bad :=
  (cruiseStop_only ..).bad.resolve_left (by decide)
@[simp] theorem cruiseStop_f_fr {s : State} : (cruiseStop s).fr = s.fr :=
  (cruiseStop_only ..).fr.resolve_left (by decide)
@[simp] theorem cruiseStop_f_sc {s : State} : (cruiseStop s).sc = s.sc :=
  (cruiseStop_only ..).sc.resolve_left (by decide)
@[simp] theorem cruiseStop_f_pcr {s : State} : (cruiseStop s).pcr = s.pcr :=
  (cruiseStop_only ..).pcr.resolve_left (by decide)
@[simp] theorem cruiseStop_f_tb {s : State} : (cruiseStop s).tb = s.tb :=
  (cruiseStop_only ..).tb.resolve_left (by decide)
@[simp] theorem cruiseStop_f_ev {s : State} : (cruiseStop s).ev = s.ev :=
  (cruiseStop_only ..).ev.resolve_left (by decide)
@[simp] theorem cruiseStop_f_ps {s : State} : (cruiseStop s).ps = s.ps :=
  (cruiseStop_only ..).ps.resolve_left (by decide)
@[simp] theorem cruiseStop_f_af {s : State} : (cruiseStop s).af = s.af :=
  (cruiseStop_only ..).af.resolve_left (by decide)
@[simp] theorem cruiseStop_f_os {s : State} : (cruiseStop s).os = s.os :=
  (cruiseStop_only ..).os.resolve_left (by decide)
@[simp] theorem cruiseStop_f_hp {s : State} : (cruiseStop s).hp = s.hp :=
  (cruiseStop_only ..).hp.resolve_left (by decide)
@[simp] theorem cruiseStop_f_wq {s : State} : (cruiseStop s).wq = s.wq :=
  (cruiseStop_only ..).wq.resolve_left (by decide)
@[simp] theorem cruiseStop_f_pl {s : State} : (cruiseStop s).pl = s.pl :=
  (cruiseStop_only ..).pl.resolve_left (by decide)
@[simp] theorem cruiseStop_f_ms {s : State} : (cruiseStop s).ms = s.ms :=
  (cruiseStop_only ..).ms.resolve_left (by decide)
@[simp] theorem cruiseStop_f_free {s : State} : (cruiseStop s).free = s.free :=
  (cruiseStop_only ..).free.resolve_left (by decide)

/-! `changeLc` -/
@[simp] theorem changeLc_f_pending {new : LifeCycle} {s : State} : (changeLc new s).pending = s.pending :=
  (changeLc_only ..).pending.resolve_left (by decide)
@[simp] theorem changeLc_f_dev {new : LifeCycle} {s : State} : (changeLc new s).dev = s.dev :=
  (changeLc_only ..).dev.resolve_left (by decide)
@[simp] theorem changeLc_f_devAt {new : LifeCycle} {s : State} : (changeLc new s).devAt = s.devAt :=
  (changeLc_only ..).devAt.resolve_left (by decide)
@[simp] theorem changeLc_f_bad {new : LifeCycle} {s : State} : (changeLc new s).bad = s.bad :=
  (changeLc_only ..).bad.resolve_left (by decide)
@[simp] theorem changeLc_f_sc {new : LifeCycle} {s : State} : (changeLc new s).sc = s.sc :=
  (changeLc_only ..).sc.resolve_left (by decide)
@[simp] theorem changeLc_f_pcr {new : LifeCycle} {s : State} : (changeLc new s).pcr = s.pcr :=
  (changeLc_only ..).pcr.resolve_left (by decide)
@[simp] theorem changeLc_f_tb {new : LifeCycle} {s : State} : (changeLc new s).tb = s.tb :=
  (changeLc_only ..).tb.resolve_left (by decide)
@[simp] theorem changeLc_f_ev {new : LifeCycle} {s : State} : (changeLc new s).ev = s.ev :=
  (changeLc_only ..).ev.resolve_left (by decide)
@[simp] theorem changeLc_f_ib {new : LifeCycle} {s : State} : (changeLc new s).ib = s.ib :=
  (changeLc_only ..).ib.resolve_left (by decide)
@[simp] theorem changeLc_f_ps {new : LifeCycle} {s : State} : (changeLc new s).ps = s.ps :=
  (changeLc_only ..).ps.resolve_left (by decide)
@[simp] theorem changeLc_f_af {new : LifeCycle} {s : State} : (changeLc new s).af = s.af :=
  (changeLc_only ..).af.resolve_left (by decide)
@[simp] theorem changeLc_f_os {new : LifeCycle} {s : State} : (changeLc new s).os = s.os :=
  (changeLc_only ..).os.resolve_left (by decide)
@[simp] theorem changeLc_f_wq {new : LifeCycle} {s : State} : (changeLc new s).wq = s.wq :=
  (changeLc_only ..).wq.resolve_left (by decide)
@[simp] theorem changeLc_f_pl {new : LifeCycle} {s : State} : (changeLc new s).pl = s.pl :=
  (changeLc_only ..).pl.resolve_left (by decide)
@[simp] theorem changeLc_f_cv {new : LifeCycle} {s : State} : (changeLc new s).cv = s.cv :=
  (changeLc_only ..).cv.resolve_left (by decide)
@[simp] theorem changeLc_f_free {new : LifeCycle} {s : State} : (changeLc new s).free = s.free :=
  (changeLc_only ..).free.resolve_left (by decide)

/-! `countFailedStart` -/
@[simp] theorem countFailedStart_f_pending {s : State} : (countFailedStart s).pending = s.pending :=
  (countFailedStart_only ..).pending.resolve_left (by decide)
@[simp] theorem countFailedStart_f_dev {s : State} : (countFailedStart s).dev = s.dev :=
  (countFailedStart_only ..).dev.resolve_left (by decide)
@[simp] theorem countFailedStart_f_devAt {s : State} : (countFailedStart s).devAt = s.devAt :=
  (countFailedStart_only ..).devAt.resolve_left (by decide)
@[simp] theorem countFailedStart_f_bad {s : State} : (countFailedStart s).bad = s.bad :=
  (countFailedStart_only ..).bad.resolve_left (by decide)
@[simp] theorem countFailedStart_f_fr {s : State} : (countFailedStart s).fr = s.fr :=
  (countFailedStart_only ..).fr.resolve_left (by decide)
@[simp] theorem countFailedStart_f_sc {s : State} : (countFailedStart s).sc = s.sc :=
  (countFailedStart_only ..).sc.resolve_left (by decide)
@[simp] theorem countFailedStart_f_tb {s : State} : (countFailedStart s).tb = s.tb :=
  (countFailedStart_only ..).tb.resolve_left (by decide)
@[simp] theorem countFailedStart_f_st {s : State} : (countFailedStart s).st = s.st :=
  (countFailedStart_only ..).st.resolve_left (by decide)
@[simp] theorem countFailedStart_f_ev {s : State} : (countFailedStart s).ev = s.ev :=
  (countFailedStart_only ..).ev.resolve_left (by decide)
@[simp] theorem countFailedStart_f_ib {s : State} : (countFailedStart s).ib = s.ib :=
  (countFailedStart_only ..).ib.resolve_left (by decide)
@[simp] theorem countFailedStart_f_ps {s : State} : (countFailedStart s).ps = s.ps :=
  (countFailedStart_only ..).ps.resolve_left (by decide)
@[simp] theorem countFailedStart_f_af {s : State} : (countFailedStart s).af = s.af :=
  (countFailedStart_only ..).af.resolve_left (by decide)
@[simp] theorem countFailedStart_f_os {s : State} : (countFailedStart s).os = s.os :=
  (countFailedStart_only ..).os.resolve_left (by decide)
@[simp] theorem countFailedStart_f_hp {s : State} : (countFailedStart s).hp = s.hp :=
  (countFailedStart_only ..).hp.resolve_left (by decide)
@[simp] theorem countFailedStart_f_wq {s : State} : (countFailedStart s).wq = s.wq :=
  (countFailedStart_only ..).wq.resolve_left (by decide)
@[simp] theorem countFailedStart_f_pl {s : State} : (countFailedStart s).pl = s.pl :=
  (countFailedStart_only ..).pl.resolve_left (by decide)
@[simp] theorem countFailedStart_f_cv {s : State} : (countFailedStart s).cv = s.cv :=
  (countFailedStart_only ..).cv.resolve_left (by decide)
@[simp] theorem countFailedStart_f_ms {s : State} : (countFailedStart s).ms = s.ms :=
  (countFailedStart_only ..).ms.resolve_left (by decide)
@[simp] theorem countFailedStart_f_free {s : State} : (countFailedStart s).free = s.free :=
  (countFailedStart_only ..).free.resolve_left (by decide)

/-! `inhibitBoth` -/
@[simp] theorem inhibitBoth_f_pending {s : State} : (inhibitBoth s).pending = s.pending :=
  (inhibitBoth_only ..).pending.resolve_left (by decide)
@[simp] theorem inhibitBoth_f_dev {s : State} : (inhibitBoth s).dev = s.dev :=
  (inhibitBoth_only ..).dev.resolve_left (by decide)
@[simp] theorem inhibitBoth_f_devAt {s : State} : (inhibitBoth s).devAt = s.devAt :=
  (inhibitBoth_only ..).devAt.resolve_left (by decide)
@[simp] theorem inhibitBoth_f_bad {s : State} : (inhibitBoth s).bad = s.bad :=
  (inhibitBoth_only ..).bad.resolve_left (by decide)
@[simp] theorem inhibitBoth_f_fr {s : State} : (inhibitBoth s).fr = s.fr :=
  (inhibitBoth_only ..).fr.resolve_left (by decide)
@[simp] theorem inhibitBoth_f_sc {s : State} : (inhibitBoth s).sc = s.sc :=
  (inhibitBoth_only ..).sc.resolve_left (by decide)
@[simp] theorem inhibitBoth_f_pcr {s : State} : (inhibitBoth s).pcr = s.pcr :=
  (inhibitBoth_only ..).pcr.resolve_left (by decide)
@[simp] theorem inhibitBoth_f_tb {s : State} : (inhibitBoth s).tb = s.tb :=
  (inhibitBoth_only ..).tb.resolve_left (by decide)
@[simp] theorem inhibitBoth_f_st {s : State} : (inhibitBoth s).st = s.st :=
  (inhibitBoth_only ..).st.resolve_left (by decide)
@[simp] theorem inhibitBoth_f_ev {s : State} : (inhibitBoth s).ev = s.ev :=
  (inhibitBoth_only ..).ev.resolve_left (by decide)
@[simp] theorem inhibitBoth_f_ib {s : State} : (inhibitBoth s).ib = s.ib :=
  (inhibitBoth_only ..).ib.resolve_left (by decide)
@[simp] theorem inhibitBoth_f_ps {s : State} : (inhibitBoth s).ps = s.ps :=
  (inhibitBoth_only ..).ps.resolve_left (by decide)
@[simp] theorem inhibitBoth_f_af {s : State} : (inhibitBoth s).af = s.af :=
  (inhibitBoth_only ..).af.resolve_left (by decide)
@[simp] theorem inhibitBoth_f_hp {s : State} : (inhibitBoth s).hp = s.hp :=
  (inhibitBoth_only ..).hp.resolve_left (by decide)
@[simp] theorem inhibitBoth_f_wq {s : State} : (inhibitBoth s).wq = s.wq :=
  (inhibitBoth_only ..).wq.resolve_left (by decide)
@[simp] theorem inhibitBoth_f_pl {s : State} : (inhibitBoth s).pl = s.pl :=
  (inhibitBoth_only ..).pl.resolve_left (by decide)
@[simp] theorem inhibitBoth_f_cv {s : State} : (inhibitBoth s).cv = s.cv :=
  (inhibitBoth_only ..).cv.resolve_left (by decide)
@[simp] theorem inhibitBoth_f_ms {s : State} : (inhibitBoth s).ms = s.ms :=
  (inhibitBoth_only ..).ms.resolve_left (by decide)
@[simp] theorem inhibitBoth_f_free {s : State} : (inhibitBoth s).free = s.free :=
  (inhibitBoth_only ..).free.resolve_left (by decide)

/-! `tearJournals` -/
@[simp] theorem tearJournals_f_pending {a b : Tear} {s : State} : (tearJournals a b s).pending = s.pending :=
  (tearJournals_only ..).pending.resolve_left (by decide)
@[simp] theorem tearJournals_f_dev {a b : Tear} {s : State} : (tearJournals a b s).dev = s.dev :=
  (tearJournals_only ..).dev.resolve_left (by decide)
@[simp] theorem tearJournals_f_devAt {a b : Tear} {s : State} : (tearJournals a b s).devAt = s.devAt :=
  (tearJournals_only ..).devAt.resolve_left (by decide)
@[simp] theorem tearJournals_f_bad {a b : Tear} {s : State} : (tearJournals a b s).bad = s.bad :=
  (tearJournals_only ..).bad.resolve_left (by decide)
@[simp] theorem tearJournals_f_fr {a b : Tear} {s : State} : (tearJournals a b s).fr = s.fr :=
  (tearJournals_only ..).fr.resolve_left (by decide)
@[simp] theorem tearJournals_f_sc {a b : Tear} {s : State} : (tearJournals a b s).sc = s.sc :=
  (tearJournals_only ..).sc.resolve_left (by decide)
@[simp] theorem tearJournals_f_pcr {a b : Tear} {s : State} : (tearJournals a b s).pcr = s.pcr :=
  (tearJournals_only ..).pcr.resolve_left (by decide)
@[simp] theorem tearJournals_f_tb {a b : Tear} {s : State} : (tearJournals a b s).tb = s.tb :=
  (tearJournals_only ..).tb.resolve_left (by decide)
@[simp] theorem tearJournals_f_st {a b : Tear} {s : State} : (tearJournals a b s).st = s.st :=
  (tearJournals_only ..).st.resolve_left (by decide)
@[simp] theorem tearJournals_f_ev {a b : Tear} {s : State} : (tearJournals a b s).ev = s.ev :=
  (tearJournals_only ..).ev.resolve_left (by decide)
@[simp] theorem tearJournals_f_ib {a b : Tear} {s : State} : (tearJournals a b s).ib = s.ib :=
  (tearJournals_only ..).ib.resolve_left (by decide)
@[simp] theorem tearJournals_f_ps {a b : Tear} {s : State} : (tearJournals a b s).ps = s.ps :=
  (tearJournals_only ..).ps.resolve_left (by decide)
@[simp] theorem tearJournals_f_af {a b : Tear} {s : State} : (tearJournals a b s).af = s.af :=
  (tearJournals_only ..).af.resolve_left (by decide)
@[simp] theorem tearJournals_f_os {a b : Tear} {s : State} : (tearJournals a b s).os = s.os :=
  (tearJournals_only ..).os.resolve_left (by decide)
@[simp] theorem tearJournals_f_hp {a b : Tear} {s : State} : (tearJournals a b s).hp = s.hp :=
  (tearJournals_only ..).hp.resolve_left (by decide)
@[simp] theorem tearJournals_f_wq {a b : Tear} {s : State} : (tearJournals a b s).wq = s.wq :=
  (tearJournals_only ..).wq.resolve_left (by decide)
@[simp] theorem tearJournals_f_pl {a b : Tear} {s : State} : (tearJournals a b s).pl = s.pl :=
  (tearJournals_only ..).pl.resolve_left (by decide)
@[simp] theorem tearJournals_f_cv {a b : Tear} {s : State} : (tearJournals a b s).cv = s.cv :=
  (tearJournals_only ..).cv.resolve_left (by decide)
@[simp] theorem tearJournals_f_free {a b : Tear} {s : State} : (tearJournals a b s).free = s.free :=
  (tearJournals_only ..).free.resolve_left (by decide)

/-! `recordCorrected` -/
@[simp] theorem recordCorrected_f_pending {f : FaultRep} {s : State} : (recordCorrected f s).pending = s.pending :=
  (recordCorrected_only ..).pending.resolve_left (by decide)
@[simp] theorem recordCorrected_f_dev {f : FaultRep} {s : State} : (recordCorrected f s).dev = s.dev :=
  (recordCorrected_only ..).dev.resolve_left (by decide)
@[simp] theorem recordCorrected_f_devAt {f : FaultRep} {s : State} : (recordCorrected f s).devAt = s.devAt :=
  (recordCorrected_only ..).devAt.resolve_left (by decide)
@[simp] theorem recordCorrected_f_bad {f : FaultRep} {s : State} : (recordCorrected f s).bad = s.bad :=
  (recordCorrected_only ..).bad.resolve_left (by decide)
@[simp] theorem recordCorrected_f_sc {f : FaultRep} {s : State} : (recordCorrected f s).sc = s.sc :=
  (recordCorrected_only ..).sc.resolve_left (by decide)
@[simp] theorem recordCorrected_f_pcr {f : FaultRep} {s : State} : (recordCorrected f s).pcr = s.pcr :=
  (recordCorrected_only ..).pcr.resolve_left (by decide)
@[simp] theorem recordCorrected_f_tb {f : FaultRep} {s : State} : (recordCorrected f s).tb = s.tb :=
  (recordCorrected_only ..).tb.resolve_left (by decide)
@[simp] theorem recordCorrected_f_st {f : FaultRep} {s : State} : (recordCorrected f s).st = s.st :=
  (recordCorrected_only ..).st.resolve_left (by decide)
@[simp] theorem recordCorrected_f_ev {f : FaultRep} {s : State} : (recordCorrected f s).ev = s.ev :=
  (recordCorrected_only ..).ev.resolve_left (by decide)
@[simp] theorem recordCorrected_f_ib {f : FaultRep} {s : State} : (recordCorrected f s).ib = s.ib :=
  (recordCorrected_only ..).ib.resolve_left (by decide)
@[simp] theorem recordCorrected_f_ps {f : FaultRep} {s : State} : (recordCorrected f s).ps = s.ps :=
  (recordCorrected_only ..).ps.resolve_left (by decide)
@[simp] theorem recordCorrected_f_af {f : FaultRep} {s : State} : (recordCorrected f s).af = s.af :=
  (recordCorrected_only ..).af.resolve_left (by decide)
@[simp] theorem recordCorrected_f_cv {f : FaultRep} {s : State} : (recordCorrected f s).cv = s.cv :=
  (recordCorrected_only ..).cv.resolve_left (by decide)
@[simp] theorem recordCorrected_f_free {f : FaultRep} {s : State} : (recordCorrected f s).free = s.free :=
  (recordCorrected_only ..).free.resolve_left (by decide)

/-! `stopModulePgs` -/
@[simp] theorem stopModulePgs_f_pending {s : State} : (stopModulePgs s).pending = s.pending :=
  (stopModulePgs_only ..).pending.resolve_left (by decide)
@[simp] theorem stopModulePgs_f_dev {s : State} : (stopModulePgs s).dev = s.dev :=
  (stopModulePgs_only ..).dev.resolve_left (by decide)
@[simp] theorem stopModulePgs_f_devAt {s : State} : (stopModulePgs s).devAt = s.devAt :=
  (stopModulePgs_only ..).devAt.resolve_left (by decide)
@[simp] theorem stopModulePgs_f_bad {s : State} : (stopModulePgs s).bad = s.bad :=
  (stopModulePgs_only ..).bad.resolve_left (by decide)
@[simp] theorem stopModulePgs_f_fr {s : State} : (stopModulePgs s).fr = s.fr :=
  (stopModulePgs_only ..).fr.resolve_left (by decide)
@[simp] theorem stopModulePgs_f_sc {s : State} : (stopModulePgs s).sc = s.sc :=
  (stopModulePgs_only ..).sc.resolve_left (by decide)
@[simp] theorem stopModulePgs_f_pcr {s : State} : (stopModulePgs s).pcr = s.pcr :=
  (stopModulePgs_only ..).pcr.resolve_left (by decide)
@[simp] theorem stopModulePgs_f_st {s : State} : (stopModulePgs s).st = s.st :=
  (stopModulePgs_only ..).st.resolve_left (by decide)
@[simp] theorem stopModulePgs_f_ev {s : State} : (stopModulePgs s).ev = s.ev :=
  (stopModulePgs_only ..).ev.resolve_left (by decide)
@[simp] theorem stopModulePgs_f_ib {s : State} : (stopModulePgs s).ib = s.ib :=
  (stopModulePgs_only ..).ib.resolve_left (by decide)
@[simp] theorem stopModulePgs_f_ps {s : State} : (stopModulePgs s).ps = s.ps :=
  (stopModulePgs_only ..).ps.resolve_left (by decide)
@[simp] theorem stopModulePgs_f_af {s : State} : (stopModulePgs s).af = s.af :=
  (stopModulePgs_only ..).af.resolve_left (by decide)
@[simp] theorem stopModulePgs_f_os {s : State} : (stopModulePgs s).os = s.os :=
  (stopModulePgs_only ..).os.resolve_left (by decide)
@[simp] theorem stopModulePgs_f_hp {s : State} : (stopModulePgs s).hp = s.hp :=
  (stopModulePgs_only ..).hp.resolve_left (by decide)
@[simp] theorem stopModulePgs_f_wq {s : State} : (stopModulePgs s).wq = s.wq :=
  (stopModulePgs_only ..).wq.resolve_left (by decide)
@[simp] theorem stopModulePgs_f_pl {s : State} : (stopModulePgs s).pl = s.pl :=
  (stopModulePgs_only ..).pl.resolve_left (by decide)
@[simp] theorem stopModulePgs_f_cv {s : State} : (stopModulePgs s).cv = s.cv :=
  (stopModulePgs_only ..).cv.resolve_left (by decide)
@[simp] theorem stopModulePgs_f_ms {s : State} : (stopModulePgs s).ms = s.ms :=
  (stopModulePgs_only ..).ms.resolve_left (by decide)
@[simp] theorem stopModulePgs_f_free {s : State} : (stopModulePgs s).free = s.free :=
  (stopModulePgs_only ..).free.resolve_left (by decide)

/-! `modBackup` -/
@[simp] theorem modBackup_f_pending {f : BackupHalf → BackupHalf} {s : State} : (modBackup f s).pending = s.pending :=
  (modBackup_only ..).pending.resolve_left (by decide)
@[simp] theorem modBackup_f_dev {f : BackupHalf → BackupHalf} {s : State} : (modBackup f s).dev = s.dev :=
  (modBackup_only ..).dev.resolve_left (by decide)
@[simp] theorem modBackup_f_devAt {f : BackupHalf → BackupHalf} {s : State} : (modBackup f s).devAt = s.devAt :=
  (modBackup_only ..).devAt.resolve_left (by decide)
@[simp] theorem modBackup_f_bad {f : BackupHalf → BackupHalf} {s : State} : (modBackup f s).bad = s.bad :=
  (modBackup_only ..).bad.resolve_left (by decide)
@[simp] theorem modBackup_f_fr {f : BackupHalf → BackupHalf} {s : State} : (modBackup f s).fr = s.fr :=
  (modBackup_only ..).fr.resolve_left (by decide)
@[simp] theorem modBackup_f_sc {f : BackupHalf → BackupHalf} {s : State} : (modBackup f s).sc = s.sc :=
  (modBackup_only ..).sc.resolve_left (by decide)
@[simp] theorem modBackup_f_tb {f : BackupHalf → BackupHalf} {s : State} : (modBackup f s).tb = s.tb :=
  (modBackup_only ..).tb.resolve_left (by decide)
@[simp] theorem modBackup_f_st {f : BackupHalf → BackupHalf} {s : State} : (modBackup f s).st = s.st :=
  (modBackup_only ..).st.resolve_left (by decide)
@[simp] theorem modBackup_f_ev {f : BackupHalf → BackupHalf} {s : State} : (modBackup f s).ev = s.ev :=
  (modBackup_only ..).ev.resolve_left (by decide)
@[simp] theorem modBackup_f_ib {f : BackupHalf → BackupHalf} {s : State} : (modBackup f s).ib = s.ib :=
  (modBackup_only ..).ib.resolve_left (by decide)
@[simp] theorem modBackup_f_ps {f : BackupHalf → BackupHalf} {s : State} : (modBackup f s).ps = s.ps :=
  (modBackup_only ..).ps.resolve_left (by decide)
@[simp] theorem modBackup_f_af {f : BackupHalf → BackupHalf} {s : State} : (modBackup f s).af = s.af :=
  (modBackup_only ..).af.resolve_left (by decide)
@[simp] theorem modBackup_f_os {f : BackupHalf → BackupHalf} {s : State} : (modBackup f s).os = s.os :=
  (modBackup_only ..).os.resolve_left (by decide)
@[simp] theorem modBackup_f_hp {f : BackupHalf → BackupHalf} {s : State} : (modBackup f s).hp = s.hp :=
  (modBackup_only ..).hp.resolve_left (by decide)
@[simp] theorem modBackup_f_wq {f : BackupHalf → BackupHalf} {s : State} : (modBackup f s).wq = s.wq :=
  (modBackup_only ..).wq.resolve_left (by decide)
@[simp] theorem modBackup_f_pl {f : BackupHalf → BackupHalf} {s : State} : (modBackup f s).pl = s.pl :=
  (modBackup_only ..).pl.resolve_left (by decide)
@[simp] theorem modBackup_f_cv {f : BackupHalf → BackupHalf} {s : State} : (modBackup f s).cv = s.cv :=
  (modBackup_only ..).cv.resolve_left (by decide)
@[simp] theorem modBackup_f_ms {f : BackupHalf → BackupHalf} {s : State} : (modBackup f s).ms = s.ms :=
  (modBackup_only ..).ms.resolve_left (by decide)
@[simp] theorem modBackup_f_free {f : BackupHalf → BackupHalf} {s : State} : (modBackup f s).free = s.free :=
  (modBackup_only ..).free.resolve_left (by decide)

/-! `pcrCorrected` -/
@[simp] theorem pcrCorrected_f_pending {d : Side} {cause addr : Nat} {s : State} : (pcrCorrected d cause addr s).pending = s.pending :=
  (pcrCorrected_only ..).pending.resolve_left (by decide)
@[simp] theorem pcrCorrected_f_dev {d : Side} {cause addr : Nat} {s : State} : (pcrCorrected d cause addr s).dev = s.dev :=
  (pcrCorrected_only ..).dev.resolve_left (by decide)
@[simp] theorem pcrCorrected_f_devAt {d : Side} {cause addr : Nat} {s : State} : (pcrCorrected d cause addr s).devAt = s.devAt :=
  (pcrCorrected_only ..).devAt.resolve_left (by decide)
@[simp] theorem pcrCorrected_f_bad {d : Side} {cause addr : Nat} {s : State} : (pcrCorrected d cause addr s).bad = s.bad :=
  (pcrCorrected_only ..).bad.resolve_left (by decide)
@[simp] theorem pcrCorrected_f_sc {d : Side} {cause addr : Nat} {s : State} : (pcrCorrected d cause addr s).sc = s.sc :=
  (pcrCorrected_only ..).sc.resolve_left (by decide)
@[simp] theorem pcrCorrected_f_pcr {d : Side} {cause addr : Nat} {s : State} : (pcrCorrected d cause addr s).pcr = s.pcr :=
  (pcrCorrected_only ..).pcr.resolve_left (by decide)
@[simp] theorem pcrCorrected_f_tb {d : Side} {cause addr : Nat} {s : State} : (pcrCorrected d cause addr s).tb = s.tb :=
  (pcrCorrected_only ..).tb.resolve_left (by decide)
@[simp] theorem pcrCorrected_f_st {d : Side} {cause addr : Nat} {s : State} : (pcrCorrected d cause addr s).st = s.st :=
  (pcrCorrected_only ..).st.resolve_left (by decide)
@[simp] theorem pcrCorrected_f_ev {d : Side} {cause addr : Nat} {s : State} : (pcrCorrected d cause addr s).ev = s.ev :=
  (pcrCorrected_only ..).ev.resolve_left (by decide)
@[simp] theorem pcrCorrected_f_ib {d : Side} {cause addr : Nat} {s : State} : (pcrCorrected d cause addr s).ib = s.ib :=
  (pcrCorrected_only ..).ib.resolve_left (by decide)
@[simp] theorem pcrCorrected_f_ps {d : Side} {cause addr : Nat} {s : State} : (pcrCorrected d cause addr s).ps = s.ps :=
  (pcrCorrected_only ..).ps.resolve_left (by decide)
@[simp] theorem pcrCorrected_f_af {d : Side} {cause addr : Nat} {s : State} : (pcrCorrected d cause addr s).af = s.af :=
  (pcrCorrected_only ..).af.resolve_left (by decide)
@[simp] theorem pcrCorrected_f_cv {d : Side} {cause addr : Nat} {s : State} : (pcrCorrected d cause addr s).cv = s.cv :=
  (pcrCorrected_only ..).cv.resolve_left (by decide)
@[simp] theorem pcrCorrected_f_free {d : Side} {cause addr : Nat} {s : State} : (pcrCorrected d cause addr s).free = s.free :=
  (pcrCorrected_only ..).free.resolve_left (by decide)

/-! `disown` -/
@[simp] theorem disown_f_pending {s : State} : (disown s).pending = s.pending :=
  (disown_only ..).pending.resolve_left (by decide)
@[simp] theorem disown_f_dev {s : State} : (disown s).dev = s.dev :=
  (disown_only ..).dev.resolve_left (by decide)
@[simp] theorem disown_f_devAt {s : State} : (disown s).devAt = s.devAt :=
  (disown_only ..).devAt.resolve_left (by decide)
@[simp] theorem disown_f_bad {s : State} : (disown s).bad = s.bad :=
  (disown_only ..).bad.resolve_left (by decide)
@[simp] theorem disown_f_fr {s : State} : (disown s).fr = s.fr :=
  (disown_only ..).fr.resolve_left (by decide)
@[simp] theorem disown_f_sc {s : State} : (disown s).sc = s.sc :=
  (disown_only ..).sc.resolve_left (by decide)
@[simp] theorem disown_f_pcr {s : State} : (disown s).pcr = s.pcr :=
  (disown_only ..).pcr.resolve_left (by decide)
@[simp] theorem disown_f_tb {s : State} : (disown s).tb = s.tb :=
  (disown_only ..).tb.resolve_left (by decide)
@[simp] theorem disown_f_ev {s : State} : (disown s).ev = s.ev :=
  (disown_only ..).ev.resolve_left (by decide)
@[simp] theorem disown_f_ib {s : State} : (disown s).ib = s.ib :=
  (disown_only ..).ib.resolve_left (by decide)
@[simp] theorem disown_f_ps {s : State} : (disown s).ps = s.ps :=
  (disown_only ..).ps.resolve_left (by decide)
@[simp] theorem disown_f_af {s : State} : (disown s).af = s.af :=
  (disown_only ..).af.resolve_left (by decide)
@[simp] theorem disown_f_os {s : State} : (disown s).os = s.os :=
  (disown_only ..).os.resolve_left (by decide)
@[simp] theorem disown_f_pl {s : State} : (disown s).pl = s.pl :=
  (disown_only ..).pl.resolve_left (by decide)
@[simp] theorem disown_f_cv {s : State} : (disown s).cv = s.cv :=
  (disown_only ..).cv.resolve_left (by decide)
@[simp] theorem disown_f_ms {s : State} : (disown s).ms = s.ms :=
  (disown_only ..).ms.resolve_left (by decide)
@[simp] theorem disown_f_free {s : State} : (disown s).free = s.free :=
  (disown_only ..).free.resolve_left (by decide)

/-! `plAllOff` -/
@[simp] theorem plAllOff_f_pending {s : State} : (plAllOff s).pending = s.pending :=
  (plAllOff_only ..).pending.resolve_left (by decide)
@[simp] theorem plAllOff_f_dev {s : State} : (plAllOff s).dev = s.dev :=
  (plAllOff_only ..).dev.resolve_left (by decide)
@[simp] theorem plAllOff_f_devAt {s : State} : (plAllOff s).devAt = s.devAt :=
  (plAllOff_only ..).devAt.resolve_left (by decide)
@[simp] theorem plAllOff_f_bad {s : State} : (plAllOff s).bad = s.bad :=
  (plAllOff_only ..).bad.resolve_left (by decide)
@[simp] theorem plAllOff_f_fr {s : State} : (plAllOff s).fr = s.fr :=
  (plAllOff_only ..).fr.resolve_left (by decide)
@[simp] theorem plAllOff_f_sc {s : State} : (plAllOff s).sc = s.sc :=
  (plAllOff_only ..).sc.resolve_left (by decide)
@[simp] theorem plAllOff_f_pcr {s : State} : (plAllOff s).pcr = s.pcr :=
  (plAllOff_only ..).pcr.resolve_left (by decide)
@[simp] theorem plAllOff_f_tb {s : State} : (plAllOff s).tb = s.tb :=
  (plAllOff_only ..).tb.resolve_left (by decide)
@[simp] theorem plAllOff_f_st {s : State} : (plAllOff s).st = s.st :=
  (plAllOff_only ..).st.resolve_left (by decide)
@[simp] theorem plAllOff_f_ev {s : State} : (plAllOff s).ev = s.ev :=
  (plAllOff_only ..).ev.resolve_left (by decide)
@[simp] theorem plAllOff_f_ib {s : State} : (plAllOff s).ib = s.ib :=
  (plAllOff_only ..).ib.resolve_left (by decide)
@[simp] theorem plAllOff_f_ps {s : State} : (plAllOff s).ps = s.ps :=
  (plAllOff_only ..).ps.resolve_left (by decide)
@[simp] theorem plAllOff_f_af {s : State} : (plAllOff s).af = s.af :=
  (plAllOff_only ..).af.resolve_left (by decide)
@[simp] theorem plAllOff_f_os {s : State} : (plAllOff s).os = s.os :=
  (plAllOff_only ..).os.resolve_left (by decide)
@[simp] theorem plAllOff_f_wq {s : State} : (plAllOff s).wq = s.wq :=
  (plAllOff_only ..).wq.resolve_left (by decide)
@[simp] theorem plAllOff_f_cv {s : State} : (plAllOff s).cv = s.cv :=
  (plAllOff_only ..).cv.resolve_left (by decide)
@[simp] theorem plAllOff_f_ms {s : State} : (plAllOff s).ms = s.ms :=
  (plAllOff_only ..).ms.resolve_left (by decide)
@[simp] theorem plAllOff_f_free {s : State} : (plAllOff s).free = s.free :=
  (plAllOff_only ..).free.resolve_left (by decide)

/-! `markRearm` -/
@[simp] theorem markRearm_f_pending {scope item : Nat} {s : State} : (markRearm scope item s).pending = s.pending :=
  (markRearm_only ..).pending.resolve_left (by decide)
@[simp] theorem markRearm_f_dev {scope item : Nat} {s : State} : (markRearm scope item s).dev = s.dev :=
  (markRearm_only ..).dev.resolve_left (by decide)
@[simp] theorem markRearm_f_devAt {scope item : Nat} {s : State} : (markRearm scope item s).devAt = s.devAt :=
  (markRearm_only ..).devAt.resolve_left (by decide)
@[simp] theorem markRearm_f_bad {scope item : Nat} {s : State} : (markRearm scope item s).bad = s.bad :=
  (markRearm_only ..).bad.resolve_left (by decide)
@[simp] theorem markRearm_f_fr {scope item : Nat} {s : State} : (markRearm scope item s).fr = s.fr :=
  (markRearm_only ..).fr.resolve_left (by decide)
@[simp] theorem markRearm_f_sc {scope item : Nat} {s : State} : (markRearm scope item s).sc = s.sc :=
  (markRearm_only ..).sc.resolve_left (by decide)
@[simp] theorem markRearm_f_pcr {scope item : Nat} {s : State} : (markRearm scope item s).pcr = s.pcr :=
  (markRearm_only ..).pcr.resolve_left (by decide)
@[simp] theorem markRearm_f_tb {scope item : Nat} {s : State} : (markRearm scope item s).tb = s.tb :=
  (markRearm_only ..).tb.resolve_left (by decide)
@[simp] theorem markRearm_f_st {scope item : Nat} {s : State} : (markRearm scope item s).st = s.st :=
  (markRearm_only ..).st.resolve_left (by decide)
@[simp] theorem markRearm_f_ev {scope item : Nat} {s : State} : (markRearm scope item s).ev = s.ev :=
  (markRearm_only ..).ev.resolve_left (by decide)
@[simp] theorem markRearm_f_ib {scope item : Nat} {s : State} : (markRearm scope item s).ib = s.ib :=
  (markRearm_only ..).ib.resolve_left (by decide)
@[simp] theorem markRearm_f_ps {scope item : Nat} {s : State} : (markRearm scope item s).ps = s.ps :=
  (markRearm_only ..).ps.resolve_left (by decide)
@[simp] theorem markRearm_f_af {scope item : Nat} {s : State} : (markRearm scope item s).af = s.af :=
  (markRearm_only ..).af.resolve_left (by decide)
@[simp] theorem markRearm_f_hp {scope item : Nat} {s : State} : (markRearm scope item s).hp = s.hp :=
  (markRearm_only ..).hp.resolve_left (by decide)
@[simp] theorem markRearm_f_wq {scope item : Nat} {s : State} : (markRearm scope item s).wq = s.wq :=
  (markRearm_only ..).wq.resolve_left (by decide)
@[simp] theorem markRearm_f_pl {scope item : Nat} {s : State} : (markRearm scope item s).pl = s.pl :=
  (markRearm_only ..).pl.resolve_left (by decide)
@[simp] theorem markRearm_f_cv {scope item : Nat} {s : State} : (markRearm scope item s).cv = s.cv :=
  (markRearm_only ..).cv.resolve_left (by decide)
@[simp] theorem markRearm_f_ms {scope item : Nat} {s : State} : (markRearm scope item s).ms = s.ms :=
  (markRearm_only ..).ms.resolve_left (by decide)
@[simp] theorem markRearm_f_free {scope item : Nat} {s : State} : (markRearm scope item s).free = s.free :=
  (markRearm_only ..).free.resolve_left (by decide)

/-! `raiseFaultIrq` -/
@[simp] theorem raiseFaultIrq_f_pending {b : Block} {s : State} : (raiseFaultIrq b s).pending = s.pending :=
  (raiseFaultIrq_only ..).pending.resolve_left (by decide)
@[simp] theorem raiseFaultIrq_f_dev {b : Block} {s : State} : (raiseFaultIrq b s).dev = s.dev :=
  (raiseFaultIrq_only ..).dev.resolve_left (by decide)
@[simp] theorem raiseFaultIrq_f_devAt {b : Block} {s : State} : (raiseFaultIrq b s).devAt = s.devAt :=
  (raiseFaultIrq_only ..).devAt.resolve_left (by decide)
@[simp] theorem raiseFaultIrq_f_bad {b : Block} {s : State} : (raiseFaultIrq b s).bad = s.bad :=
  (raiseFaultIrq_only ..).bad.resolve_left (by decide)
@[simp] theorem raiseFaultIrq_f_fr {b : Block} {s : State} : (raiseFaultIrq b s).fr = s.fr :=
  (raiseFaultIrq_only ..).fr.resolve_left (by decide)
@[simp] theorem raiseFaultIrq_f_sc {b : Block} {s : State} : (raiseFaultIrq b s).sc = s.sc :=
  (raiseFaultIrq_only ..).sc.resolve_left (by decide)
@[simp] theorem raiseFaultIrq_f_pcr {b : Block} {s : State} : (raiseFaultIrq b s).pcr = s.pcr :=
  (raiseFaultIrq_only ..).pcr.resolve_left (by decide)
@[simp] theorem raiseFaultIrq_f_tb {b : Block} {s : State} : (raiseFaultIrq b s).tb = s.tb :=
  (raiseFaultIrq_only ..).tb.resolve_left (by decide)
@[simp] theorem raiseFaultIrq_f_st {b : Block} {s : State} : (raiseFaultIrq b s).st = s.st :=
  (raiseFaultIrq_only ..).st.resolve_left (by decide)
@[simp] theorem raiseFaultIrq_f_ev {b : Block} {s : State} : (raiseFaultIrq b s).ev = s.ev :=
  (raiseFaultIrq_only ..).ev.resolve_left (by decide)
@[simp] theorem raiseFaultIrq_f_ib {b : Block} {s : State} : (raiseFaultIrq b s).ib = s.ib :=
  (raiseFaultIrq_only ..).ib.resolve_left (by decide)
@[simp] theorem raiseFaultIrq_f_ps {b : Block} {s : State} : (raiseFaultIrq b s).ps = s.ps :=
  (raiseFaultIrq_only ..).ps.resolve_left (by decide)
@[simp] theorem raiseFaultIrq_f_af {b : Block} {s : State} : (raiseFaultIrq b s).af = s.af :=
  (raiseFaultIrq_only ..).af.resolve_left (by decide)
@[simp] theorem raiseFaultIrq_f_os {b : Block} {s : State} : (raiseFaultIrq b s).os = s.os :=
  (raiseFaultIrq_only ..).os.resolve_left (by decide)
@[simp] theorem raiseFaultIrq_f_wq {b : Block} {s : State} : (raiseFaultIrq b s).wq = s.wq :=
  (raiseFaultIrq_only ..).wq.resolve_left (by decide)
@[simp] theorem raiseFaultIrq_f_pl {b : Block} {s : State} : (raiseFaultIrq b s).pl = s.pl :=
  (raiseFaultIrq_only ..).pl.resolve_left (by decide)
@[simp] theorem raiseFaultIrq_f_cv {b : Block} {s : State} : (raiseFaultIrq b s).cv = s.cv :=
  (raiseFaultIrq_only ..).cv.resolve_left (by decide)
@[simp] theorem raiseFaultIrq_f_ms {b : Block} {s : State} : (raiseFaultIrq b s).ms = s.ms :=
  (raiseFaultIrq_only ..).ms.resolve_left (by decide)
@[simp] theorem raiseFaultIrq_f_free {b : Block} {s : State} : (raiseFaultIrq b s).free = s.free :=
  (raiseFaultIrq_only ..).free.resolve_left (by decide)

/-! `logEvent` -/
@[simp] theorem logEvent_f_pending {kind block data16 data32 : Nat} {s : State} : (logEvent kind block data16 data32 s).pending = s.pending :=
  (logEvent_only ..).pending.resolve_left (by decide)
@[simp] theorem logEvent_f_dev {kind block data16 data32 : Nat} {s : State} : (logEvent kind block data16 data32 s).dev = s.dev :=
  (logEvent_only ..).dev.resolve_left (by decide)
@[simp] theorem logEvent_f_devAt {kind block data16 data32 : Nat} {s : State} : (logEvent kind block data16 data32 s).devAt = s.devAt :=
  (logEvent_only ..).devAt.resolve_left (by decide)
@[simp] theorem logEvent_f_bad {kind block data16 data32 : Nat} {s : State} : (logEvent kind block data16 data32 s).bad = s.bad :=
  (logEvent_only ..).bad.resolve_left (by decide)
@[simp] theorem logEvent_f_sc {kind block data16 data32 : Nat} {s : State} : (logEvent kind block data16 data32 s).sc = s.sc :=
  (logEvent_only ..).sc.resolve_left (by decide)
@[simp] theorem logEvent_f_pcr {kind block data16 data32 : Nat} {s : State} : (logEvent kind block data16 data32 s).pcr = s.pcr :=
  (logEvent_only ..).pcr.resolve_left (by decide)
@[simp] theorem logEvent_f_tb {kind block data16 data32 : Nat} {s : State} : (logEvent kind block data16 data32 s).tb = s.tb :=
  (logEvent_only ..).tb.resolve_left (by decide)
@[simp] theorem logEvent_f_st {kind block data16 data32 : Nat} {s : State} : (logEvent kind block data16 data32 s).st = s.st :=
  (logEvent_only ..).st.resolve_left (by decide)
@[simp] theorem logEvent_f_ev {kind block data16 data32 : Nat} {s : State} : (logEvent kind block data16 data32 s).ev = s.ev :=
  (logEvent_only ..).ev.resolve_left (by decide)
@[simp] theorem logEvent_f_ib {kind block data16 data32 : Nat} {s : State} : (logEvent kind block data16 data32 s).ib = s.ib :=
  (logEvent_only ..).ib.resolve_left (by decide)
@[simp] theorem logEvent_f_ps {kind block data16 data32 : Nat} {s : State} : (logEvent kind block data16 data32 s).ps = s.ps :=
  (logEvent_only ..).ps.resolve_left (by decide)
@[simp] theorem logEvent_f_af {kind block data16 data32 : Nat} {s : State} : (logEvent kind block data16 data32 s).af = s.af :=
  (logEvent_only ..).af.resolve_left (by decide)
@[simp] theorem logEvent_f_os {kind block data16 data32 : Nat} {s : State} : (logEvent kind block data16 data32 s).os = s.os :=
  (logEvent_only ..).os.resolve_left (by decide)
@[simp] theorem logEvent_f_wq {kind block data16 data32 : Nat} {s : State} : (logEvent kind block data16 data32 s).wq = s.wq :=
  (logEvent_only ..).wq.resolve_left (by decide)
@[simp] theorem logEvent_f_pl {kind block data16 data32 : Nat} {s : State} : (logEvent kind block data16 data32 s).pl = s.pl :=
  (logEvent_only ..).pl.resolve_left (by decide)
@[simp] theorem logEvent_f_cv {kind block data16 data32 : Nat} {s : State} : (logEvent kind block data16 data32 s).cv = s.cv :=
  (logEvent_only ..).cv.resolve_left (by decide)
@[simp] theorem logEvent_f_free {kind block data16 data32 : Nat} {s : State} : (logEvent kind block data16 data32 s).free = s.free :=
  (logEvent_only ..).free.resolve_left (by decide)

/-! `keepImage` -/
@[simp] theorem keepImage_f_pending {n : Fin 4} {s : State} : (keepImage n s).pending = s.pending :=
  (keepImage_only ..).pending.resolve_left (by decide)
@[simp] theorem keepImage_f_dev {n : Fin 4} {s : State} : (keepImage n s).dev = s.dev :=
  (keepImage_only ..).dev.resolve_left (by decide)
@[simp] theorem keepImage_f_devAt {n : Fin 4} {s : State} : (keepImage n s).devAt = s.devAt :=
  (keepImage_only ..).devAt.resolve_left (by decide)
@[simp] theorem keepImage_f_bad {n : Fin 4} {s : State} : (keepImage n s).bad = s.bad :=
  (keepImage_only ..).bad.resolve_left (by decide)
@[simp] theorem keepImage_f_fr {n : Fin 4} {s : State} : (keepImage n s).fr = s.fr :=
  (keepImage_only ..).fr.resolve_left (by decide)
@[simp] theorem keepImage_f_sc {n : Fin 4} {s : State} : (keepImage n s).sc = s.sc :=
  (keepImage_only ..).sc.resolve_left (by decide)
@[simp] theorem keepImage_f_pcr {n : Fin 4} {s : State} : (keepImage n s).pcr = s.pcr :=
  (keepImage_only ..).pcr.resolve_left (by decide)
@[simp] theorem keepImage_f_tb {n : Fin 4} {s : State} : (keepImage n s).tb = s.tb :=
  (keepImage_only ..).tb.resolve_left (by decide)
@[simp] theorem keepImage_f_st {n : Fin 4} {s : State} : (keepImage n s).st = s.st :=
  (keepImage_only ..).st.resolve_left (by decide)
@[simp] theorem keepImage_f_ev {n : Fin 4} {s : State} : (keepImage n s).ev = s.ev :=
  (keepImage_only ..).ev.resolve_left (by decide)
@[simp] theorem keepImage_f_ib {n : Fin 4} {s : State} : (keepImage n s).ib = s.ib :=
  (keepImage_only ..).ib.resolve_left (by decide)
@[simp] theorem keepImage_f_ps {n : Fin 4} {s : State} : (keepImage n s).ps = s.ps :=
  (keepImage_only ..).ps.resolve_left (by decide)
@[simp] theorem keepImage_f_af {n : Fin 4} {s : State} : (keepImage n s).af = s.af :=
  (keepImage_only ..).af.resolve_left (by decide)
@[simp] theorem keepImage_f_os {n : Fin 4} {s : State} : (keepImage n s).os = s.os :=
  (keepImage_only ..).os.resolve_left (by decide)
@[simp] theorem keepImage_f_hp {n : Fin 4} {s : State} : (keepImage n s).hp = s.hp :=
  (keepImage_only ..).hp.resolve_left (by decide)
@[simp] theorem keepImage_f_wq {n : Fin 4} {s : State} : (keepImage n s).wq = s.wq :=
  (keepImage_only ..).wq.resolve_left (by decide)
@[simp] theorem keepImage_f_cv {n : Fin 4} {s : State} : (keepImage n s).cv = s.cv :=
  (keepImage_only ..).cv.resolve_left (by decide)
@[simp] theorem keepImage_f_ms {n : Fin 4} {s : State} : (keepImage n s).ms = s.ms :=
  (keepImage_only ..).ms.resolve_left (by decide)
@[simp] theorem keepImage_f_free {n : Fin 4} {s : State} : (keepImage n s).free = s.free :=
  (keepImage_only ..).free.resolve_left (by decide)

/-! `inhibitSide` -/
@[simp] theorem inhibitSide_f_pending {d : Side} {s : State} : (inhibitSide d s).pending = s.pending :=
  (inhibitSide_only ..).pending.resolve_left (by decide)
@[simp] theorem inhibitSide_f_dev {d : Side} {s : State} : (inhibitSide d s).dev = s.dev :=
  (inhibitSide_only ..).dev.resolve_left (by decide)
@[simp] theorem inhibitSide_f_devAt {d : Side} {s : State} : (inhibitSide d s).devAt = s.devAt :=
  (inhibitSide_only ..).devAt.resolve_left (by decide)
@[simp] theorem inhibitSide_f_bad {d : Side} {s : State} : (inhibitSide d s).bad = s.bad :=
  (inhibitSide_only ..).bad.resolve_left (by decide)
@[simp] theorem inhibitSide_f_fr {d : Side} {s : State} : (inhibitSide d s).fr = s.fr :=
  (inhibitSide_only ..).fr.resolve_left (by decide)
@[simp] theorem inhibitSide_f_sc {d : Side} {s : State} : (inhibitSide d s).sc = s.sc :=
  (inhibitSide_only ..).sc.resolve_left (by decide)
@[simp] theorem inhibitSide_f_pcr {d : Side} {s : State} : (inhibitSide d s).pcr = s.pcr :=
  (inhibitSide_only ..).pcr.resolve_left (by decide)
@[simp] theorem inhibitSide_f_tb {d : Side} {s : State} : (inhibitSide d s).tb = s.tb :=
  (inhibitSide_only ..).tb.resolve_left (by decide)
@[simp] theorem inhibitSide_f_st {d : Side} {s : State} : (inhibitSide d s).st = s.st :=
  (inhibitSide_only ..).st.resolve_left (by decide)
@[simp] theorem inhibitSide_f_ev {d : Side} {s : State} : (inhibitSide d s).ev = s.ev :=
  (inhibitSide_only ..).ev.resolve_left (by decide)
@[simp] theorem inhibitSide_f_ib {d : Side} {s : State} : (inhibitSide d s).ib = s.ib :=
  (inhibitSide_only ..).ib.resolve_left (by decide)
@[simp] theorem inhibitSide_f_ps {d : Side} {s : State} : (inhibitSide d s).ps = s.ps :=
  (inhibitSide_only ..).ps.resolve_left (by decide)
@[simp] theorem inhibitSide_f_af {d : Side} {s : State} : (inhibitSide d s).af = s.af :=
  (inhibitSide_only ..).af.resolve_left (by decide)
@[simp] theorem inhibitSide_f_hp {d : Side} {s : State} : (inhibitSide d s).hp = s.hp :=
  (inhibitSide_only ..).hp.resolve_left (by decide)
@[simp] theorem inhibitSide_f_wq {d : Side} {s : State} : (inhibitSide d s).wq = s.wq :=
  (inhibitSide_only ..).wq.resolve_left (by decide)
@[simp] theorem inhibitSide_f_pl {d : Side} {s : State} : (inhibitSide d s).pl = s.pl :=
  (inhibitSide_only ..).pl.resolve_left (by decide)
@[simp] theorem inhibitSide_f_cv {d : Side} {s : State} : (inhibitSide d s).cv = s.cv :=
  (inhibitSide_only ..).cv.resolve_left (by decide)
@[simp] theorem inhibitSide_f_ms {d : Side} {s : State} : (inhibitSide d s).ms = s.ms :=
  (inhibitSide_only ..).ms.resolve_left (by decide)
@[simp] theorem inhibitSide_f_free {d : Side} {s : State} : (inhibitSide d s).free = s.free :=
  (inhibitSide_only ..).free.resolve_left (by decide)

/-! `latchHigh` -/
@[simp] theorem latchHigh_f_pending {p : Side} {off : Nat} {v : Word} {s : State} : (latchHigh p off v s).pending = s.pending :=
  (latchHigh_only ..).pending.resolve_left (by decide)
@[simp] theorem latchHigh_f_dev {p : Side} {off : Nat} {v : Word} {s : State} : (latchHigh p off v s).dev = s.dev :=
  (latchHigh_only ..).dev.resolve_left (by decide)
@[simp] theorem latchHigh_f_devAt {p : Side} {off : Nat} {v : Word} {s : State} : (latchHigh p off v s).devAt = s.devAt :=
  (latchHigh_only ..).devAt.resolve_left (by decide)
@[simp] theorem latchHigh_f_bad {p : Side} {off : Nat} {v : Word} {s : State} : (latchHigh p off v s).bad = s.bad :=
  (latchHigh_only ..).bad.resolve_left (by decide)
@[simp] theorem latchHigh_f_fr {p : Side} {off : Nat} {v : Word} {s : State} : (latchHigh p off v s).fr = s.fr :=
  (latchHigh_only ..).fr.resolve_left (by decide)
@[simp] theorem latchHigh_f_sc {p : Side} {off : Nat} {v : Word} {s : State} : (latchHigh p off v s).sc = s.sc :=
  (latchHigh_only ..).sc.resolve_left (by decide)
@[simp] theorem latchHigh_f_pcr {p : Side} {off : Nat} {v : Word} {s : State} : (latchHigh p off v s).pcr = s.pcr :=
  (latchHigh_only ..).pcr.resolve_left (by decide)
@[simp] theorem latchHigh_f_tb {p : Side} {off : Nat} {v : Word} {s : State} : (latchHigh p off v s).tb = s.tb :=
  (latchHigh_only ..).tb.resolve_left (by decide)
@[simp] theorem latchHigh_f_st {p : Side} {off : Nat} {v : Word} {s : State} : (latchHigh p off v s).st = s.st :=
  (latchHigh_only ..).st.resolve_left (by decide)
@[simp] theorem latchHigh_f_ev {p : Side} {off : Nat} {v : Word} {s : State} : (latchHigh p off v s).ev = s.ev :=
  (latchHigh_only ..).ev.resolve_left (by decide)
@[simp] theorem latchHigh_f_ib {p : Side} {off : Nat} {v : Word} {s : State} : (latchHigh p off v s).ib = s.ib :=
  (latchHigh_only ..).ib.resolve_left (by decide)
@[simp] theorem latchHigh_f_ps {p : Side} {off : Nat} {v : Word} {s : State} : (latchHigh p off v s).ps = s.ps :=
  (latchHigh_only ..).ps.resolve_left (by decide)
@[simp] theorem latchHigh_f_af {p : Side} {off : Nat} {v : Word} {s : State} : (latchHigh p off v s).af = s.af :=
  (latchHigh_only ..).af.resolve_left (by decide)
@[simp] theorem latchHigh_f_os {p : Side} {off : Nat} {v : Word} {s : State} : (latchHigh p off v s).os = s.os :=
  (latchHigh_only ..).os.resolve_left (by decide)
@[simp] theorem latchHigh_f_wq {p : Side} {off : Nat} {v : Word} {s : State} : (latchHigh p off v s).wq = s.wq :=
  (latchHigh_only ..).wq.resolve_left (by decide)
@[simp] theorem latchHigh_f_pl {p : Side} {off : Nat} {v : Word} {s : State} : (latchHigh p off v s).pl = s.pl :=
  (latchHigh_only ..).pl.resolve_left (by decide)
@[simp] theorem latchHigh_f_cv {p : Side} {off : Nat} {v : Word} {s : State} : (latchHigh p off v s).cv = s.cv :=
  (latchHigh_only ..).cv.resolve_left (by decide)
@[simp] theorem latchHigh_f_ms {p : Side} {off : Nat} {v : Word} {s : State} : (latchHigh p off v s).ms = s.ms :=
  (latchHigh_only ..).ms.resolve_left (by decide)
@[simp] theorem latchHigh_f_free {p : Side} {off : Nat} {v : Word} {s : State} : (latchHigh p off v s).free = s.free :=
  (latchHigh_only ..).free.resolve_left (by decide)

/-! `endItem` -/
@[simp] theorem endItem_f_pending {p : Side} {n : Fin 8} {code : Nat} {result : Word} {s : State} : (endItem p n code result s).pending = s.pending :=
  (endItem_only ..).pending.resolve_left (by decide)
@[simp] theorem endItem_f_dev {p : Side} {n : Fin 8} {code : Nat} {result : Word} {s : State} : (endItem p n code result s).dev = s.dev :=
  (endItem_only ..).dev.resolve_left (by decide)
@[simp] theorem endItem_f_devAt {p : Side} {n : Fin 8} {code : Nat} {result : Word} {s : State} : (endItem p n code result s).devAt = s.devAt :=
  (endItem_only ..).devAt.resolve_left (by decide)
@[simp] theorem endItem_f_bad {p : Side} {n : Fin 8} {code : Nat} {result : Word} {s : State} : (endItem p n code result s).bad = s.bad :=
  (endItem_only ..).bad.resolve_left (by decide)
@[simp] theorem endItem_f_fr {p : Side} {n : Fin 8} {code : Nat} {result : Word} {s : State} : (endItem p n code result s).fr = s.fr :=
  (endItem_only ..).fr.resolve_left (by decide)
@[simp] theorem endItem_f_sc {p : Side} {n : Fin 8} {code : Nat} {result : Word} {s : State} : (endItem p n code result s).sc = s.sc :=
  (endItem_only ..).sc.resolve_left (by decide)
@[simp] theorem endItem_f_pcr {p : Side} {n : Fin 8} {code : Nat} {result : Word} {s : State} : (endItem p n code result s).pcr = s.pcr :=
  (endItem_only ..).pcr.resolve_left (by decide)
@[simp] theorem endItem_f_tb {p : Side} {n : Fin 8} {code : Nat} {result : Word} {s : State} : (endItem p n code result s).tb = s.tb :=
  (endItem_only ..).tb.resolve_left (by decide)
@[simp] theorem endItem_f_st {p : Side} {n : Fin 8} {code : Nat} {result : Word} {s : State} : (endItem p n code result s).st = s.st :=
  (endItem_only ..).st.resolve_left (by decide)
@[simp] theorem endItem_f_ev {p : Side} {n : Fin 8} {code : Nat} {result : Word} {s : State} : (endItem p n code result s).ev = s.ev :=
  (endItem_only ..).ev.resolve_left (by decide)
@[simp] theorem endItem_f_ib {p : Side} {n : Fin 8} {code : Nat} {result : Word} {s : State} : (endItem p n code result s).ib = s.ib :=
  (endItem_only ..).ib.resolve_left (by decide)
@[simp] theorem endItem_f_ps {p : Side} {n : Fin 8} {code : Nat} {result : Word} {s : State} : (endItem p n code result s).ps = s.ps :=
  (endItem_only ..).ps.resolve_left (by decide)
@[simp] theorem endItem_f_af {p : Side} {n : Fin 8} {code : Nat} {result : Word} {s : State} : (endItem p n code result s).af = s.af :=
  (endItem_only ..).af.resolve_left (by decide)
@[simp] theorem endItem_f_os {p : Side} {n : Fin 8} {code : Nat} {result : Word} {s : State} : (endItem p n code result s).os = s.os :=
  (endItem_only ..).os.resolve_left (by decide)
@[simp] theorem endItem_f_hp {p : Side} {n : Fin 8} {code : Nat} {result : Word} {s : State} : (endItem p n code result s).hp = s.hp :=
  (endItem_only ..).hp.resolve_left (by decide)
@[simp] theorem endItem_f_pl {p : Side} {n : Fin 8} {code : Nat} {result : Word} {s : State} : (endItem p n code result s).pl = s.pl :=
  (endItem_only ..).pl.resolve_left (by decide)
@[simp] theorem endItem_f_cv {p : Side} {n : Fin 8} {code : Nat} {result : Word} {s : State} : (endItem p n code result s).cv = s.cv :=
  (endItem_only ..).cv.resolve_left (by decide)
@[simp] theorem endItem_f_ms {p : Side} {n : Fin 8} {code : Nat} {result : Word} {s : State} : (endItem p n code result s).ms = s.ms :=
  (endItem_only ..).ms.resolve_left (by decide)
@[simp] theorem endItem_f_free {p : Side} {n : Fin 8} {code : Nat} {result : Word} {s : State} : (endItem p n code result s).free = s.free :=
  (endItem_only ..).free.resolve_left (by decide)

/-! `setIdentities` -/
@[simp] theorem setIdentities_f_pending {f : Identity → Identity} {s : State} : (setIdentities f s).pending = s.pending :=
  (setIdentities_only ..).pending.resolve_left (by decide)
@[simp] theorem setIdentities_f_dev {f : Identity → Identity} {s : State} : (setIdentities f s).dev = s.dev :=
  (setIdentities_only ..).dev.resolve_left (by decide)
@[simp] theorem setIdentities_f_devAt {f : Identity → Identity} {s : State} : (setIdentities f s).devAt = s.devAt :=
  (setIdentities_only ..).devAt.resolve_left (by decide)
@[simp] theorem setIdentities_f_bad {f : Identity → Identity} {s : State} : (setIdentities f s).bad = s.bad :=
  (setIdentities_only ..).bad.resolve_left (by decide)
@[simp] theorem setIdentities_f_fr {f : Identity → Identity} {s : State} : (setIdentities f s).fr = s.fr :=
  (setIdentities_only ..).fr.resolve_left (by decide)
@[simp] theorem setIdentities_f_sc {f : Identity → Identity} {s : State} : (setIdentities f s).sc = s.sc :=
  (setIdentities_only ..).sc.resolve_left (by decide)
@[simp] theorem setIdentities_f_pcr {f : Identity → Identity} {s : State} : (setIdentities f s).pcr = s.pcr :=
  (setIdentities_only ..).pcr.resolve_left (by decide)
@[simp] theorem setIdentities_f_tb {f : Identity → Identity} {s : State} : (setIdentities f s).tb = s.tb :=
  (setIdentities_only ..).tb.resolve_left (by decide)
@[simp] theorem setIdentities_f_st {f : Identity → Identity} {s : State} : (setIdentities f s).st = s.st :=
  (setIdentities_only ..).st.resolve_left (by decide)
@[simp] theorem setIdentities_f_ev {f : Identity → Identity} {s : State} : (setIdentities f s).ev = s.ev :=
  (setIdentities_only ..).ev.resolve_left (by decide)
@[simp] theorem setIdentities_f_ib {f : Identity → Identity} {s : State} : (setIdentities f s).ib = s.ib :=
  (setIdentities_only ..).ib.resolve_left (by decide)
@[simp] theorem setIdentities_f_ps {f : Identity → Identity} {s : State} : (setIdentities f s).ps = s.ps :=
  (setIdentities_only ..).ps.resolve_left (by decide)
@[simp] theorem setIdentities_f_af {f : Identity → Identity} {s : State} : (setIdentities f s).af = s.af :=
  (setIdentities_only ..).af.resolve_left (by decide)
@[simp] theorem setIdentities_f_os {f : Identity → Identity} {s : State} : (setIdentities f s).os = s.os :=
  (setIdentities_only ..).os.resolve_left (by decide)
@[simp] theorem setIdentities_f_hp {f : Identity → Identity} {s : State} : (setIdentities f s).hp = s.hp :=
  (setIdentities_only ..).hp.resolve_left (by decide)
@[simp] theorem setIdentities_f_wq {f : Identity → Identity} {s : State} : (setIdentities f s).wq = s.wq :=
  (setIdentities_only ..).wq.resolve_left (by decide)
@[simp] theorem setIdentities_f_pl {f : Identity → Identity} {s : State} : (setIdentities f s).pl = s.pl :=
  (setIdentities_only ..).pl.resolve_left (by decide)
@[simp] theorem setIdentities_f_cv {f : Identity → Identity} {s : State} : (setIdentities f s).cv = s.cv :=
  (setIdentities_only ..).cv.resolve_left (by decide)
@[simp] theorem setIdentities_f_free {f : Identity → Identity} {s : State} : (setIdentities f s).free = s.free :=
  (setIdentities_only ..).free.resolve_left (by decide)

/-! `turnBad` -/
@[simp] theorem turnBad_f_pending {r : Resource} {code : Nat} {s : State} : (turnBad r code s).pending = s.pending :=
  (turnBad_only ..).pending.resolve_left (by decide)
@[simp] theorem turnBad_f_af {r : Resource} {code : Nat} {s : State} : (turnBad r code s).af = s.af :=
  (turnBad_only ..).af.resolve_left (by decide)

/-! `stopCores` -/
@[simp] theorem stopCores_f_pending {s : State} : (stopCores s).pending = s.pending :=
  (stopCores_only ..).pending.resolve_left (by decide)
@[simp] theorem stopCores_f_dev {s : State} : (stopCores s).dev = s.dev :=
  (stopCores_only ..).dev.resolve_left (by decide)
@[simp] theorem stopCores_f_devAt {s : State} : (stopCores s).devAt = s.devAt :=
  (stopCores_only ..).devAt.resolve_left (by decide)
@[simp] theorem stopCores_f_bad {s : State} : (stopCores s).bad = s.bad :=
  (stopCores_only ..).bad.resolve_left (by decide)
@[simp] theorem stopCores_f_fr {s : State} : (stopCores s).fr = s.fr :=
  (stopCores_only ..).fr.resolve_left (by decide)
@[simp] theorem stopCores_f_sc {s : State} : (stopCores s).sc = s.sc :=
  (stopCores_only ..).sc.resolve_left (by decide)
@[simp] theorem stopCores_f_pcr {s : State} : (stopCores s).pcr = s.pcr :=
  (stopCores_only ..).pcr.resolve_left (by decide)
@[simp] theorem stopCores_f_tb {s : State} : (stopCores s).tb = s.tb :=
  (stopCores_only ..).tb.resolve_left (by decide)
@[simp] theorem stopCores_f_st {s : State} : (stopCores s).st = s.st :=
  (stopCores_only ..).st.resolve_left (by decide)
@[simp] theorem stopCores_f_ib {s : State} : (stopCores s).ib = s.ib :=
  (stopCores_only ..).ib.resolve_left (by decide)
@[simp] theorem stopCores_f_ps {s : State} : (stopCores s).ps = s.ps :=
  (stopCores_only ..).ps.resolve_left (by decide)
@[simp] theorem stopCores_f_af {s : State} : (stopCores s).af = s.af :=
  (stopCores_only ..).af.resolve_left (by decide)
@[simp] theorem stopCores_f_os {s : State} : (stopCores s).os = s.os :=
  (stopCores_only ..).os.resolve_left (by decide)
@[simp] theorem stopCores_f_hp {s : State} : (stopCores s).hp = s.hp :=
  (stopCores_only ..).hp.resolve_left (by decide)
@[simp] theorem stopCores_f_wq {s : State} : (stopCores s).wq = s.wq :=
  (stopCores_only ..).wq.resolve_left (by decide)
@[simp] theorem stopCores_f_pl {s : State} : (stopCores s).pl = s.pl :=
  (stopCores_only ..).pl.resolve_left (by decide)
@[simp] theorem stopCores_f_cv {s : State} : (stopCores s).cv = s.cv :=
  (stopCores_only ..).cv.resolve_left (by decide)
@[simp] theorem stopCores_f_ms {s : State} : (stopCores s).ms = s.ms :=
  (stopCores_only ..).ms.resolve_left (by decide)

/-! `readData` -/
@[simp] theorem readData_f_pending {p : Side} {v : Word} {s : State} : (readData p v s).pending = s.pending :=
  (readData_only ..).pending.resolve_left (by decide)
@[simp] theorem readData_f_dev {p : Side} {v : Word} {s : State} : (readData p v s).dev = s.dev :=
  (readData_only ..).dev.resolve_left (by decide)
@[simp] theorem readData_f_devAt {p : Side} {v : Word} {s : State} : (readData p v s).devAt = s.devAt :=
  (readData_only ..).devAt.resolve_left (by decide)
@[simp] theorem readData_f_bad {p : Side} {v : Word} {s : State} : (readData p v s).bad = s.bad :=
  (readData_only ..).bad.resolve_left (by decide)
@[simp] theorem readData_f_fr {p : Side} {v : Word} {s : State} : (readData p v s).fr = s.fr :=
  (readData_only ..).fr.resolve_left (by decide)
@[simp] theorem readData_f_sc {p : Side} {v : Word} {s : State} : (readData p v s).sc = s.sc :=
  (readData_only ..).sc.resolve_left (by decide)
@[simp] theorem readData_f_pcr {p : Side} {v : Word} {s : State} : (readData p v s).pcr = s.pcr :=
  (readData_only ..).pcr.resolve_left (by decide)
@[simp] theorem readData_f_tb {p : Side} {v : Word} {s : State} : (readData p v s).tb = s.tb :=
  (readData_only ..).tb.resolve_left (by decide)
@[simp] theorem readData_f_st {p : Side} {v : Word} {s : State} : (readData p v s).st = s.st :=
  (readData_only ..).st.resolve_left (by decide)
@[simp] theorem readData_f_ev {p : Side} {v : Word} {s : State} : (readData p v s).ev = s.ev :=
  (readData_only ..).ev.resolve_left (by decide)
@[simp] theorem readData_f_ib {p : Side} {v : Word} {s : State} : (readData p v s).ib = s.ib :=
  (readData_only ..).ib.resolve_left (by decide)
@[simp] theorem readData_f_ps {p : Side} {v : Word} {s : State} : (readData p v s).ps = s.ps :=
  (readData_only ..).ps.resolve_left (by decide)
@[simp] theorem readData_f_af {p : Side} {v : Word} {s : State} : (readData p v s).af = s.af :=
  (readData_only ..).af.resolve_left (by decide)
@[simp] theorem readData_f_os {p : Side} {v : Word} {s : State} : (readData p v s).os = s.os :=
  (readData_only ..).os.resolve_left (by decide)
@[simp] theorem readData_f_wq {p : Side} {v : Word} {s : State} : (readData p v s).wq = s.wq :=
  (readData_only ..).wq.resolve_left (by decide)
@[simp] theorem readData_f_pl {p : Side} {v : Word} {s : State} : (readData p v s).pl = s.pl :=
  (readData_only ..).pl.resolve_left (by decide)
@[simp] theorem readData_f_cv {p : Side} {v : Word} {s : State} : (readData p v s).cv = s.cv :=
  (readData_only ..).cv.resolve_left (by decide)
@[simp] theorem readData_f_ms {p : Side} {v : Word} {s : State} : (readData p v s).ms = s.ms :=
  (readData_only ..).ms.resolve_left (by decide)
@[simp] theorem readData_f_free {p : Side} {v : Word} {s : State} : (readData p v s).free = s.free :=
  (readData_only ..).free.resolve_left (by decide)

/-! `recordCore` -/
@[simp] theorem recordCore_f_pending {f : FaultRep} {s : State} : (recordCore f s).pending = s.pending :=
  (recordCore_only ..).pending.resolve_left (by decide)
@[simp] theorem recordCore_f_bad {f : FaultRep} {s : State} : (recordCore f s).bad = s.bad :=
  (recordCore_only ..).bad.resolve_left (by decide)
@[simp] theorem recordCore_f_af {f : FaultRep} {s : State} : (recordCore f s).af = s.af :=
  (recordCore_only ..).af.resolve_left (by decide)

/-! `backupState` -/
@[simp] theorem backupState_f_pending {new : DevState} {s : State} : (backupState new s).pending = s.pending :=
  (backupState_only ..).pending.resolve_left (by decide)
@[simp] theorem backupState_f_dev {new : DevState} {s : State} : (backupState new s).dev = s.dev :=
  (backupState_only ..).dev.resolve_left (by decide)
@[simp] theorem backupState_f_devAt {new : DevState} {s : State} : (backupState new s).devAt = s.devAt :=
  (backupState_only ..).devAt.resolve_left (by decide)
@[simp] theorem backupState_f_bad {new : DevState} {s : State} : (backupState new s).bad = s.bad :=
  (backupState_only ..).bad.resolve_left (by decide)
@[simp] theorem backupState_f_fr {new : DevState} {s : State} : (backupState new s).fr = s.fr :=
  (backupState_only ..).fr.resolve_left (by decide)
@[simp] theorem backupState_f_sc {new : DevState} {s : State} : (backupState new s).sc = s.sc :=
  (backupState_only ..).sc.resolve_left (by decide)
@[simp] theorem backupState_f_tb {new : DevState} {s : State} : (backupState new s).tb = s.tb :=
  (backupState_only ..).tb.resolve_left (by decide)
@[simp] theorem backupState_f_st {new : DevState} {s : State} : (backupState new s).st = s.st :=
  (backupState_only ..).st.resolve_left (by decide)
@[simp] theorem backupState_f_ev {new : DevState} {s : State} : (backupState new s).ev = s.ev :=
  (backupState_only ..).ev.resolve_left (by decide)
@[simp] theorem backupState_f_ib {new : DevState} {s : State} : (backupState new s).ib = s.ib :=
  (backupState_only ..).ib.resolve_left (by decide)
@[simp] theorem backupState_f_ps {new : DevState} {s : State} : (backupState new s).ps = s.ps :=
  (backupState_only ..).ps.resolve_left (by decide)
@[simp] theorem backupState_f_af {new : DevState} {s : State} : (backupState new s).af = s.af :=
  (backupState_only ..).af.resolve_left (by decide)
@[simp] theorem backupState_f_os {new : DevState} {s : State} : (backupState new s).os = s.os :=
  (backupState_only ..).os.resolve_left (by decide)
@[simp] theorem backupState_f_hp {new : DevState} {s : State} : (backupState new s).hp = s.hp :=
  (backupState_only ..).hp.resolve_left (by decide)
@[simp] theorem backupState_f_wq {new : DevState} {s : State} : (backupState new s).wq = s.wq :=
  (backupState_only ..).wq.resolve_left (by decide)
@[simp] theorem backupState_f_pl {new : DevState} {s : State} : (backupState new s).pl = s.pl :=
  (backupState_only ..).pl.resolve_left (by decide)
@[simp] theorem backupState_f_cv {new : DevState} {s : State} : (backupState new s).cv = s.cv :=
  (backupState_only ..).cv.resolve_left (by decide)
@[simp] theorem backupState_f_ms {new : DevState} {s : State} : (backupState new s).ms = s.ms :=
  (backupState_only ..).ms.resolve_left (by decide)
@[simp] theorem backupState_f_free {new : DevState} {s : State} : (backupState new s).free = s.free :=
  (backupState_only ..).free.resolve_left (by decide)

/-! `journalWrite` -/
@[simp] theorem journalWrite_f_pending {r : JRec} {s : State} : (journalWrite r s).pending = s.pending :=
  (journalWrite_only ..).pending.resolve_left (by decide)
@[simp] theorem journalWrite_f_dev {r : JRec} {s : State} : (journalWrite r s).dev = s.dev :=
  (journalWrite_only ..).dev.resolve_left (by decide)
@[simp] theorem journalWrite_f_devAt {r : JRec} {s : State} : (journalWrite r s).devAt = s.devAt :=
  (journalWrite_only ..).devAt.resolve_left (by decide)
@[simp] theorem journalWrite_f_bad {r : JRec} {s : State} : (journalWrite r s).bad = s.bad :=
  (journalWrite_only ..).bad.resolve_left (by decide)
@[simp] theorem journalWrite_f_fr {r : JRec} {s : State} : (journalWrite r s).fr = s.fr :=
  (journalWrite_only ..).fr.resolve_left (by decide)
@[simp] theorem journalWrite_f_sc {r : JRec} {s : State} : (journalWrite r s).sc = s.sc :=
  (journalWrite_only ..).sc.resolve_left (by decide)
@[simp] theorem journalWrite_f_pcr {r : JRec} {s : State} : (journalWrite r s).pcr = s.pcr :=
  (journalWrite_only ..).pcr.resolve_left (by decide)
@[simp] theorem journalWrite_f_tb {r : JRec} {s : State} : (journalWrite r s).tb = s.tb :=
  (journalWrite_only ..).tb.resolve_left (by decide)
@[simp] theorem journalWrite_f_st {r : JRec} {s : State} : (journalWrite r s).st = s.st :=
  (journalWrite_only ..).st.resolve_left (by decide)
@[simp] theorem journalWrite_f_ev {r : JRec} {s : State} : (journalWrite r s).ev = s.ev :=
  (journalWrite_only ..).ev.resolve_left (by decide)
@[simp] theorem journalWrite_f_ib {r : JRec} {s : State} : (journalWrite r s).ib = s.ib :=
  (journalWrite_only ..).ib.resolve_left (by decide)
@[simp] theorem journalWrite_f_ps {r : JRec} {s : State} : (journalWrite r s).ps = s.ps :=
  (journalWrite_only ..).ps.resolve_left (by decide)
@[simp] theorem journalWrite_f_af {r : JRec} {s : State} : (journalWrite r s).af = s.af :=
  (journalWrite_only ..).af.resolve_left (by decide)
@[simp] theorem journalWrite_f_os {r : JRec} {s : State} : (journalWrite r s).os = s.os :=
  (journalWrite_only ..).os.resolve_left (by decide)
@[simp] theorem journalWrite_f_hp {r : JRec} {s : State} : (journalWrite r s).hp = s.hp :=
  (journalWrite_only ..).hp.resolve_left (by decide)
@[simp] theorem journalWrite_f_pl {r : JRec} {s : State} : (journalWrite r s).pl = s.pl :=
  (journalWrite_only ..).pl.resolve_left (by decide)
@[simp] theorem journalWrite_f_cv {r : JRec} {s : State} : (journalWrite r s).cv = s.cv :=
  (journalWrite_only ..).cv.resolve_left (by decide)
@[simp] theorem journalWrite_f_free {r : JRec} {s : State} : (journalWrite r s).free = s.free :=
  (journalWrite_only ..).free.resolve_left (by decide)

/-! `checkpointWear` -/
@[simp] theorem checkpointWear_f_pending {s : State} : (checkpointWear s).pending = s.pending :=
  (checkpointWear_only ..).pending.resolve_left (by decide)
@[simp] theorem checkpointWear_f_dev {s : State} : (checkpointWear s).dev = s.dev :=
  (checkpointWear_only ..).dev.resolve_left (by decide)
@[simp] theorem checkpointWear_f_devAt {s : State} : (checkpointWear s).devAt = s.devAt :=
  (checkpointWear_only ..).devAt.resolve_left (by decide)
@[simp] theorem checkpointWear_f_bad {s : State} : (checkpointWear s).bad = s.bad :=
  (checkpointWear_only ..).bad.resolve_left (by decide)
@[simp] theorem checkpointWear_f_fr {s : State} : (checkpointWear s).fr = s.fr :=
  (checkpointWear_only ..).fr.resolve_left (by decide)
@[simp] theorem checkpointWear_f_sc {s : State} : (checkpointWear s).sc = s.sc :=
  (checkpointWear_only ..).sc.resolve_left (by decide)
@[simp] theorem checkpointWear_f_pcr {s : State} : (checkpointWear s).pcr = s.pcr :=
  (checkpointWear_only ..).pcr.resolve_left (by decide)
@[simp] theorem checkpointWear_f_tb {s : State} : (checkpointWear s).tb = s.tb :=
  (checkpointWear_only ..).tb.resolve_left (by decide)
@[simp] theorem checkpointWear_f_st {s : State} : (checkpointWear s).st = s.st :=
  (checkpointWear_only ..).st.resolve_left (by decide)
@[simp] theorem checkpointWear_f_ev {s : State} : (checkpointWear s).ev = s.ev :=
  (checkpointWear_only ..).ev.resolve_left (by decide)
@[simp] theorem checkpointWear_f_ib {s : State} : (checkpointWear s).ib = s.ib :=
  (checkpointWear_only ..).ib.resolve_left (by decide)
@[simp] theorem checkpointWear_f_ps {s : State} : (checkpointWear s).ps = s.ps :=
  (checkpointWear_only ..).ps.resolve_left (by decide)
@[simp] theorem checkpointWear_f_af {s : State} : (checkpointWear s).af = s.af :=
  (checkpointWear_only ..).af.resolve_left (by decide)
@[simp] theorem checkpointWear_f_os {s : State} : (checkpointWear s).os = s.os :=
  (checkpointWear_only ..).os.resolve_left (by decide)
@[simp] theorem checkpointWear_f_hp {s : State} : (checkpointWear s).hp = s.hp :=
  (checkpointWear_only ..).hp.resolve_left (by decide)
@[simp] theorem checkpointWear_f_wq {s : State} : (checkpointWear s).wq = s.wq :=
  (checkpointWear_only ..).wq.resolve_left (by decide)
@[simp] theorem checkpointWear_f_pl {s : State} : (checkpointWear s).pl = s.pl :=
  (checkpointWear_only ..).pl.resolve_left (by decide)
@[simp] theorem checkpointWear_f_cv {s : State} : (checkpointWear s).cv = s.cv :=
  (checkpointWear_only ..).cv.resolve_left (by decide)
@[simp] theorem checkpointWear_f_free {s : State} : (checkpointWear s).free = s.free :=
  (checkpointWear_only ..).free.resolve_left (by decide)

/-! `thrRejoin` -/
@[simp] theorem thrRejoin_f_pending {s : State} : (thrRejoin s).pending = s.pending :=
  (thrRejoin_only ..).pending.resolve_left (by decide)
@[simp] theorem thrRejoin_f_dev {s : State} : (thrRejoin s).dev = s.dev :=
  (thrRejoin_only ..).dev.resolve_left (by decide)
@[simp] theorem thrRejoin_f_devAt {s : State} : (thrRejoin s).devAt = s.devAt :=
  (thrRejoin_only ..).devAt.resolve_left (by decide)
@[simp] theorem thrRejoin_f_bad {s : State} : (thrRejoin s).bad = s.bad :=
  (thrRejoin_only ..).bad.resolve_left (by decide)
@[simp] theorem thrRejoin_f_fr {s : State} : (thrRejoin s).fr = s.fr :=
  (thrRejoin_only ..).fr.resolve_left (by decide)
@[simp] theorem thrRejoin_f_sc {s : State} : (thrRejoin s).sc = s.sc :=
  (thrRejoin_only ..).sc.resolve_left (by decide)
@[simp] theorem thrRejoin_f_pcr {s : State} : (thrRejoin s).pcr = s.pcr :=
  (thrRejoin_only ..).pcr.resolve_left (by decide)
@[simp] theorem thrRejoin_f_tb {s : State} : (thrRejoin s).tb = s.tb :=
  (thrRejoin_only ..).tb.resolve_left (by decide)
@[simp] theorem thrRejoin_f_st {s : State} : (thrRejoin s).st = s.st :=
  (thrRejoin_only ..).st.resolve_left (by decide)
@[simp] theorem thrRejoin_f_ev {s : State} : (thrRejoin s).ev = s.ev :=
  (thrRejoin_only ..).ev.resolve_left (by decide)
@[simp] theorem thrRejoin_f_ps {s : State} : (thrRejoin s).ps = s.ps :=
  (thrRejoin_only ..).ps.resolve_left (by decide)
@[simp] theorem thrRejoin_f_af {s : State} : (thrRejoin s).af = s.af :=
  (thrRejoin_only ..).af.resolve_left (by decide)
@[simp] theorem thrRejoin_f_os {s : State} : (thrRejoin s).os = s.os :=
  (thrRejoin_only ..).os.resolve_left (by decide)
@[simp] theorem thrRejoin_f_hp {s : State} : (thrRejoin s).hp = s.hp :=
  (thrRejoin_only ..).hp.resolve_left (by decide)
@[simp] theorem thrRejoin_f_wq {s : State} : (thrRejoin s).wq = s.wq :=
  (thrRejoin_only ..).wq.resolve_left (by decide)
@[simp] theorem thrRejoin_f_pl {s : State} : (thrRejoin s).pl = s.pl :=
  (thrRejoin_only ..).pl.resolve_left (by decide)
@[simp] theorem thrRejoin_f_cv {s : State} : (thrRejoin s).cv = s.cv :=
  (thrRejoin_only ..).cv.resolve_left (by decide)
@[simp] theorem thrRejoin_f_ms {s : State} : (thrRejoin s).ms = s.ms :=
  (thrRejoin_only ..).ms.resolve_left (by decide)
@[simp] theorem thrRejoin_f_free {s : State} : (thrRejoin s).free = s.free :=
  (thrRejoin_only ..).free.resolve_left (by decide)

/-! `ackDrop` -/
@[simp] theorem ackDrop_f_pending {s : State} : (ackDrop s).pending = s.pending :=
  (ackDrop_only ..).pending.resolve_left (by decide)
@[simp] theorem ackDrop_f_dev {s : State} : (ackDrop s).dev = s.dev :=
  (ackDrop_only ..).dev.resolve_left (by decide)
@[simp] theorem ackDrop_f_devAt {s : State} : (ackDrop s).devAt = s.devAt :=
  (ackDrop_only ..).devAt.resolve_left (by decide)
@[simp] theorem ackDrop_f_bad {s : State} : (ackDrop s).bad = s.bad :=
  (ackDrop_only ..).bad.resolve_left (by decide)
@[simp] theorem ackDrop_f_fr {s : State} : (ackDrop s).fr = s.fr :=
  (ackDrop_only ..).fr.resolve_left (by decide)
@[simp] theorem ackDrop_f_sc {s : State} : (ackDrop s).sc = s.sc :=
  (ackDrop_only ..).sc.resolve_left (by decide)
@[simp] theorem ackDrop_f_pcr {s : State} : (ackDrop s).pcr = s.pcr :=
  (ackDrop_only ..).pcr.resolve_left (by decide)
@[simp] theorem ackDrop_f_tb {s : State} : (ackDrop s).tb = s.tb :=
  (ackDrop_only ..).tb.resolve_left (by decide)
@[simp] theorem ackDrop_f_ev {s : State} : (ackDrop s).ev = s.ev :=
  (ackDrop_only ..).ev.resolve_left (by decide)
@[simp] theorem ackDrop_f_ib {s : State} : (ackDrop s).ib = s.ib :=
  (ackDrop_only ..).ib.resolve_left (by decide)
@[simp] theorem ackDrop_f_ps {s : State} : (ackDrop s).ps = s.ps :=
  (ackDrop_only ..).ps.resolve_left (by decide)
@[simp] theorem ackDrop_f_af {s : State} : (ackDrop s).af = s.af :=
  (ackDrop_only ..).af.resolve_left (by decide)
@[simp] theorem ackDrop_f_os {s : State} : (ackDrop s).os = s.os :=
  (ackDrop_only ..).os.resolve_left (by decide)
@[simp] theorem ackDrop_f_hp {s : State} : (ackDrop s).hp = s.hp :=
  (ackDrop_only ..).hp.resolve_left (by decide)
@[simp] theorem ackDrop_f_wq {s : State} : (ackDrop s).wq = s.wq :=
  (ackDrop_only ..).wq.resolve_left (by decide)
@[simp] theorem ackDrop_f_pl {s : State} : (ackDrop s).pl = s.pl :=
  (ackDrop_only ..).pl.resolve_left (by decide)
@[simp] theorem ackDrop_f_cv {s : State} : (ackDrop s).cv = s.cv :=
  (ackDrop_only ..).cv.resolve_left (by decide)
@[simp] theorem ackDrop_f_ms {s : State} : (ackDrop s).ms = s.ms :=
  (ackDrop_only ..).ms.resolve_left (by decide)
@[simp] theorem ackDrop_f_free {s : State} : (ackDrop s).free = s.free :=
  (ackDrop_only ..).free.resolve_left (by decide)

/-! `plOff` -/
@[simp] theorem plOff_f_pending {n : Fin 4} {s : State} : (plOff n s).pending = s.pending :=
  (plOff_only ..).pending.resolve_left (by decide)
@[simp] theorem plOff_f_dev {n : Fin 4} {s : State} : (plOff n s).dev = s.dev :=
  (plOff_only ..).dev.resolve_left (by decide)
@[simp] theorem plOff_f_devAt {n : Fin 4} {s : State} : (plOff n s).devAt = s.devAt :=
  (plOff_only ..).devAt.resolve_left (by decide)
@[simp] theorem plOff_f_bad {n : Fin 4} {s : State} : (plOff n s).bad = s.bad :=
  (plOff_only ..).bad.resolve_left (by decide)
@[simp] theorem plOff_f_fr {n : Fin 4} {s : State} : (plOff n s).fr = s.fr :=
  (plOff_only ..).fr.resolve_left (by decide)
@[simp] theorem plOff_f_sc {n : Fin 4} {s : State} : (plOff n s).sc = s.sc :=
  (plOff_only ..).sc.resolve_left (by decide)
@[simp] theorem plOff_f_pcr {n : Fin 4} {s : State} : (plOff n s).pcr = s.pcr :=
  (plOff_only ..).pcr.resolve_left (by decide)
@[simp] theorem plOff_f_tb {n : Fin 4} {s : State} : (plOff n s).tb = s.tb :=
  (plOff_only ..).tb.resolve_left (by decide)
@[simp] theorem plOff_f_st {n : Fin 4} {s : State} : (plOff n s).st = s.st :=
  (plOff_only ..).st.resolve_left (by decide)
@[simp] theorem plOff_f_ev {n : Fin 4} {s : State} : (plOff n s).ev = s.ev :=
  (plOff_only ..).ev.resolve_left (by decide)
@[simp] theorem plOff_f_ib {n : Fin 4} {s : State} : (plOff n s).ib = s.ib :=
  (plOff_only ..).ib.resolve_left (by decide)
@[simp] theorem plOff_f_ps {n : Fin 4} {s : State} : (plOff n s).ps = s.ps :=
  (plOff_only ..).ps.resolve_left (by decide)
@[simp] theorem plOff_f_af {n : Fin 4} {s : State} : (plOff n s).af = s.af :=
  (plOff_only ..).af.resolve_left (by decide)
@[simp] theorem plOff_f_os {n : Fin 4} {s : State} : (plOff n s).os = s.os :=
  (plOff_only ..).os.resolve_left (by decide)
@[simp] theorem plOff_f_wq {n : Fin 4} {s : State} : (plOff n s).wq = s.wq :=
  (plOff_only ..).wq.resolve_left (by decide)
@[simp] theorem plOff_f_cv {n : Fin 4} {s : State} : (plOff n s).cv = s.cv :=
  (plOff_only ..).cv.resolve_left (by decide)
@[simp] theorem plOff_f_ms {n : Fin 4} {s : State} : (plOff n s).ms = s.ms :=
  (plOff_only ..).ms.resolve_left (by decide)
@[simp] theorem plOff_f_free {n : Fin 4} {s : State} : (plOff n s).free = s.free :=
  (plOff_only ..).free.resolve_left (by decide)

/-! `storeFail` -/
@[simp] theorem storeFail_f_pending {i : Side} {addr : Nat} {s : State} : (storeFail i addr s).pending = s.pending :=
  (storeFail_only ..).pending.resolve_left (by decide)
@[simp] theorem storeFail_f_af {i : Side} {addr : Nat} {s : State} : (storeFail i addr s).af = s.af :=
  (storeFail_only ..).af.resolve_left (by decide)

/-! `causeAbsentIn` -/
@[simp] theorem causeAbsentIn_f_pending {b : Block} {cause scope item : Nat} {s : State} : (causeAbsentIn b cause scope item s).pending = s.pending :=
  (causeAbsentIn_only ..).pending.resolve_left (by decide)
@[simp] theorem causeAbsentIn_f_dev {b : Block} {cause scope item : Nat} {s : State} : (causeAbsentIn b cause scope item s).dev = s.dev :=
  (causeAbsentIn_only ..).dev.resolve_left (by decide)
@[simp] theorem causeAbsentIn_f_devAt {b : Block} {cause scope item : Nat} {s : State} : (causeAbsentIn b cause scope item s).devAt = s.devAt :=
  (causeAbsentIn_only ..).devAt.resolve_left (by decide)
@[simp] theorem causeAbsentIn_f_bad {b : Block} {cause scope item : Nat} {s : State} : (causeAbsentIn b cause scope item s).bad = s.bad :=
  (causeAbsentIn_only ..).bad.resolve_left (by decide)
@[simp] theorem causeAbsentIn_f_sc {b : Block} {cause scope item : Nat} {s : State} : (causeAbsentIn b cause scope item s).sc = s.sc :=
  (causeAbsentIn_only ..).sc.resolve_left (by decide)
@[simp] theorem causeAbsentIn_f_pcr {b : Block} {cause scope item : Nat} {s : State} : (causeAbsentIn b cause scope item s).pcr = s.pcr :=
  (causeAbsentIn_only ..).pcr.resolve_left (by decide)
@[simp] theorem causeAbsentIn_f_tb {b : Block} {cause scope item : Nat} {s : State} : (causeAbsentIn b cause scope item s).tb = s.tb :=
  (causeAbsentIn_only ..).tb.resolve_left (by decide)
@[simp] theorem causeAbsentIn_f_st {b : Block} {cause scope item : Nat} {s : State} : (causeAbsentIn b cause scope item s).st = s.st :=
  (causeAbsentIn_only ..).st.resolve_left (by decide)
@[simp] theorem causeAbsentIn_f_ev {b : Block} {cause scope item : Nat} {s : State} : (causeAbsentIn b cause scope item s).ev = s.ev :=
  (causeAbsentIn_only ..).ev.resolve_left (by decide)
@[simp] theorem causeAbsentIn_f_ib {b : Block} {cause scope item : Nat} {s : State} : (causeAbsentIn b cause scope item s).ib = s.ib :=
  (causeAbsentIn_only ..).ib.resolve_left (by decide)
@[simp] theorem causeAbsentIn_f_ps {b : Block} {cause scope item : Nat} {s : State} : (causeAbsentIn b cause scope item s).ps = s.ps :=
  (causeAbsentIn_only ..).ps.resolve_left (by decide)
@[simp] theorem causeAbsentIn_f_af {b : Block} {cause scope item : Nat} {s : State} : (causeAbsentIn b cause scope item s).af = s.af :=
  (causeAbsentIn_only ..).af.resolve_left (by decide)
@[simp] theorem causeAbsentIn_f_os {b : Block} {cause scope item : Nat} {s : State} : (causeAbsentIn b cause scope item s).os = s.os :=
  (causeAbsentIn_only ..).os.resolve_left (by decide)
@[simp] theorem causeAbsentIn_f_hp {b : Block} {cause scope item : Nat} {s : State} : (causeAbsentIn b cause scope item s).hp = s.hp :=
  (causeAbsentIn_only ..).hp.resolve_left (by decide)
@[simp] theorem causeAbsentIn_f_wq {b : Block} {cause scope item : Nat} {s : State} : (causeAbsentIn b cause scope item s).wq = s.wq :=
  (causeAbsentIn_only ..).wq.resolve_left (by decide)
@[simp] theorem causeAbsentIn_f_pl {b : Block} {cause scope item : Nat} {s : State} : (causeAbsentIn b cause scope item s).pl = s.pl :=
  (causeAbsentIn_only ..).pl.resolve_left (by decide)
@[simp] theorem causeAbsentIn_f_cv {b : Block} {cause scope item : Nat} {s : State} : (causeAbsentIn b cause scope item s).cv = s.cv :=
  (causeAbsentIn_only ..).cv.resolve_left (by decide)
@[simp] theorem causeAbsentIn_f_ms {b : Block} {cause scope item : Nat} {s : State} : (causeAbsentIn b cause scope item s).ms = s.ms :=
  (causeAbsentIn_only ..).ms.resolve_left (by decide)
@[simp] theorem causeAbsentIn_f_free {b : Block} {cause scope item : Nat} {s : State} : (causeAbsentIn b cause scope item s).free = s.free :=
  (causeAbsentIn_only ..).free.resolve_left (by decide)

/-! `recordPlain` -/
@[simp] theorem recordPlain_f_pending {f : FaultRep} {s : State} : (recordPlain f s).pending = s.pending :=
  (recordPlain_only ..).pending.resolve_left (by decide)
@[simp] theorem recordPlain_f_dev {f : FaultRep} {s : State} : (recordPlain f s).dev = s.dev :=
  (recordPlain_only ..).dev.resolve_left (by decide)
@[simp] theorem recordPlain_f_devAt {f : FaultRep} {s : State} : (recordPlain f s).devAt = s.devAt :=
  (recordPlain_only ..).devAt.resolve_left (by decide)
@[simp] theorem recordPlain_f_bad {f : FaultRep} {s : State} : (recordPlain f s).bad = s.bad :=
  (recordPlain_only ..).bad.resolve_left (by decide)
@[simp] theorem recordPlain_f_sc {f : FaultRep} {s : State} : (recordPlain f s).sc = s.sc :=
  (recordPlain_only ..).sc.resolve_left (by decide)
@[simp] theorem recordPlain_f_pcr {f : FaultRep} {s : State} : (recordPlain f s).pcr = s.pcr :=
  (recordPlain_only ..).pcr.resolve_left (by decide)
@[simp] theorem recordPlain_f_tb {f : FaultRep} {s : State} : (recordPlain f s).tb = s.tb :=
  (recordPlain_only ..).tb.resolve_left (by decide)
@[simp] theorem recordPlain_f_st {f : FaultRep} {s : State} : (recordPlain f s).st = s.st :=
  (recordPlain_only ..).st.resolve_left (by decide)
@[simp] theorem recordPlain_f_ev {f : FaultRep} {s : State} : (recordPlain f s).ev = s.ev :=
  (recordPlain_only ..).ev.resolve_left (by decide)
@[simp] theorem recordPlain_f_ib {f : FaultRep} {s : State} : (recordPlain f s).ib = s.ib :=
  (recordPlain_only ..).ib.resolve_left (by decide)
@[simp] theorem recordPlain_f_ps {f : FaultRep} {s : State} : (recordPlain f s).ps = s.ps :=
  (recordPlain_only ..).ps.resolve_left (by decide)
@[simp] theorem recordPlain_f_af {f : FaultRep} {s : State} : (recordPlain f s).af = s.af :=
  (recordPlain_only ..).af.resolve_left (by decide)
@[simp] theorem recordPlain_f_os {f : FaultRep} {s : State} : (recordPlain f s).os = s.os :=
  (recordPlain_only ..).os.resolve_left (by decide)
@[simp] theorem recordPlain_f_wq {f : FaultRep} {s : State} : (recordPlain f s).wq = s.wq :=
  (recordPlain_only ..).wq.resolve_left (by decide)
@[simp] theorem recordPlain_f_pl {f : FaultRep} {s : State} : (recordPlain f s).pl = s.pl :=
  (recordPlain_only ..).pl.resolve_left (by decide)
@[simp] theorem recordPlain_f_cv {f : FaultRep} {s : State} : (recordPlain f s).cv = s.cv :=
  (recordPlain_only ..).cv.resolve_left (by decide)
@[simp] theorem recordPlain_f_ms {f : FaultRep} {s : State} : (recordPlain f s).ms = s.ms :=
  (recordPlain_only ..).ms.resolve_left (by decide)
@[simp] theorem recordPlain_f_free {f : FaultRep} {s : State} : (recordPlain f s).free = s.free :=
  (recordPlain_only ..).free.resolve_left (by decide)

/-! `enterHold` -/
@[simp] theorem enterHold_f_pending {s : State} : (enterHold s).pending = s.pending :=
  (enterHold_only ..).pending.resolve_left (by decide)
@[simp] theorem enterHold_f_bad {s : State} : (enterHold s).bad = s.bad :=
  (enterHold_only ..).bad.resolve_left (by decide)
@[simp] theorem enterHold_f_af {s : State} : (enterHold s).af = s.af :=
  (enterHold_only ..).af.resolve_left (by decide)

/-! `setDev` -/
@[simp] theorem setDev_f_pending {new : DevState} {s : State} : (setDev new s).pending = s.pending :=
  (setDev_only ..).pending.resolve_left (by decide)
@[simp] theorem setDev_f_bad {new : DevState} {s : State} : (setDev new s).bad = s.bad :=
  (setDev_only ..).bad.resolve_left (by decide)
@[simp] theorem setDev_f_af {new : DevState} {s : State} : (setDev new s).af = s.af :=
  (setDev_only ..).af.resolve_left (by decide)

/-! `clockLostInStart` -/
@[simp] theorem clockLostInStart_f_pending {drop : Clocks → Clocks} {s : State} : (clockLostInStart drop s).pending = s.pending :=
  (clockLostInStart_only ..).pending.resolve_left (by decide)
@[simp] theorem clockLostInStart_f_af {drop : Clocks → Clocks} {s : State} : (clockLostInStart drop s).af = s.af :=
  (clockLostInStart_only ..).af.resolve_left (by decide)

/-! `causeAgain` -/
@[simp] theorem causeAgain_f_pending {b : Block} {cause item : Nat} {s : State} : (causeAgain b cause item s).pending = s.pending :=
  (causeAgain_only ..).pending.resolve_left (by decide)
@[simp] theorem causeAgain_f_dev {b : Block} {cause item : Nat} {s : State} : (causeAgain b cause item s).dev = s.dev :=
  (causeAgain_only ..).dev.resolve_left (by decide)
@[simp] theorem causeAgain_f_devAt {b : Block} {cause item : Nat} {s : State} : (causeAgain b cause item s).devAt = s.devAt :=
  (causeAgain_only ..).devAt.resolve_left (by decide)
@[simp] theorem causeAgain_f_bad {b : Block} {cause item : Nat} {s : State} : (causeAgain b cause item s).bad = s.bad :=
  (causeAgain_only ..).bad.resolve_left (by decide)
@[simp] theorem causeAgain_f_sc {b : Block} {cause item : Nat} {s : State} : (causeAgain b cause item s).sc = s.sc :=
  (causeAgain_only ..).sc.resolve_left (by decide)
@[simp] theorem causeAgain_f_pcr {b : Block} {cause item : Nat} {s : State} : (causeAgain b cause item s).pcr = s.pcr :=
  (causeAgain_only ..).pcr.resolve_left (by decide)
@[simp] theorem causeAgain_f_tb {b : Block} {cause item : Nat} {s : State} : (causeAgain b cause item s).tb = s.tb :=
  (causeAgain_only ..).tb.resolve_left (by decide)
@[simp] theorem causeAgain_f_st {b : Block} {cause item : Nat} {s : State} : (causeAgain b cause item s).st = s.st :=
  (causeAgain_only ..).st.resolve_left (by decide)
@[simp] theorem causeAgain_f_ev {b : Block} {cause item : Nat} {s : State} : (causeAgain b cause item s).ev = s.ev :=
  (causeAgain_only ..).ev.resolve_left (by decide)
@[simp] theorem causeAgain_f_ib {b : Block} {cause item : Nat} {s : State} : (causeAgain b cause item s).ib = s.ib :=
  (causeAgain_only ..).ib.resolve_left (by decide)
@[simp] theorem causeAgain_f_ps {b : Block} {cause item : Nat} {s : State} : (causeAgain b cause item s).ps = s.ps :=
  (causeAgain_only ..).ps.resolve_left (by decide)
@[simp] theorem causeAgain_f_af {b : Block} {cause item : Nat} {s : State} : (causeAgain b cause item s).af = s.af :=
  (causeAgain_only ..).af.resolve_left (by decide)
@[simp] theorem causeAgain_f_os {b : Block} {cause item : Nat} {s : State} : (causeAgain b cause item s).os = s.os :=
  (causeAgain_only ..).os.resolve_left (by decide)
@[simp] theorem causeAgain_f_hp {b : Block} {cause item : Nat} {s : State} : (causeAgain b cause item s).hp = s.hp :=
  (causeAgain_only ..).hp.resolve_left (by decide)
@[simp] theorem causeAgain_f_wq {b : Block} {cause item : Nat} {s : State} : (causeAgain b cause item s).wq = s.wq :=
  (causeAgain_only ..).wq.resolve_left (by decide)
@[simp] theorem causeAgain_f_pl {b : Block} {cause item : Nat} {s : State} : (causeAgain b cause item s).pl = s.pl :=
  (causeAgain_only ..).pl.resolve_left (by decide)
@[simp] theorem causeAgain_f_cv {b : Block} {cause item : Nat} {s : State} : (causeAgain b cause item s).cv = s.cv :=
  (causeAgain_only ..).cv.resolve_left (by decide)
@[simp] theorem causeAgain_f_ms {b : Block} {cause item : Nat} {s : State} : (causeAgain b cause item s).ms = s.ms :=
  (causeAgain_only ..).ms.resolve_left (by decide)
@[simp] theorem causeAgain_f_free {b : Block} {cause item : Nat} {s : State} : (causeAgain b cause item s).free = s.free :=
  (causeAgain_only ..).free.resolve_left (by decide)

/-! `ackRefuse` -/
@[simp] theorem ackRefuse_f_pending {s : State} : (ackRefuse s).pending = s.pending :=
  (ackRefuse_only ..).pending.resolve_left (by decide)
@[simp] theorem ackRefuse_f_dev {s : State} : (ackRefuse s).dev = s.dev :=
  (ackRefuse_only ..).dev.resolve_left (by decide)
@[simp] theorem ackRefuse_f_devAt {s : State} : (ackRefuse s).devAt = s.devAt :=
  (ackRefuse_only ..).devAt.resolve_left (by decide)
@[simp] theorem ackRefuse_f_bad {s : State} : (ackRefuse s).bad = s.bad :=
  (ackRefuse_only ..).bad.resolve_left (by decide)
@[simp] theorem ackRefuse_f_fr {s : State} : (ackRefuse s).fr = s.fr :=
  (ackRefuse_only ..).fr.resolve_left (by decide)
@[simp] theorem ackRefuse_f_sc {s : State} : (ackRefuse s).sc = s.sc :=
  (ackRefuse_only ..).sc.resolve_left (by decide)
@[simp] theorem ackRefuse_f_pcr {s : State} : (ackRefuse s).pcr = s.pcr :=
  (ackRefuse_only ..).pcr.resolve_left (by decide)
@[simp] theorem ackRefuse_f_tb {s : State} : (ackRefuse s).tb = s.tb :=
  (ackRefuse_only ..).tb.resolve_left (by decide)
@[simp] theorem ackRefuse_f_ev {s : State} : (ackRefuse s).ev = s.ev :=
  (ackRefuse_only ..).ev.resolve_left (by decide)
@[simp] theorem ackRefuse_f_ib {s : State} : (ackRefuse s).ib = s.ib :=
  (ackRefuse_only ..).ib.resolve_left (by decide)
@[simp] theorem ackRefuse_f_ps {s : State} : (ackRefuse s).ps = s.ps :=
  (ackRefuse_only ..).ps.resolve_left (by decide)
@[simp] theorem ackRefuse_f_af {s : State} : (ackRefuse s).af = s.af :=
  (ackRefuse_only ..).af.resolve_left (by decide)
@[simp] theorem ackRefuse_f_os {s : State} : (ackRefuse s).os = s.os :=
  (ackRefuse_only ..).os.resolve_left (by decide)
@[simp] theorem ackRefuse_f_hp {s : State} : (ackRefuse s).hp = s.hp :=
  (ackRefuse_only ..).hp.resolve_left (by decide)
@[simp] theorem ackRefuse_f_pl {s : State} : (ackRefuse s).pl = s.pl :=
  (ackRefuse_only ..).pl.resolve_left (by decide)
@[simp] theorem ackRefuse_f_cv {s : State} : (ackRefuse s).cv = s.cv :=
  (ackRefuse_only ..).cv.resolve_left (by decide)
@[simp] theorem ackRefuse_f_ms {s : State} : (ackRefuse s).ms = s.ms :=
  (ackRefuse_only ..).ms.resolve_left (by decide)
@[simp] theorem ackRefuse_f_free {s : State} : (ackRefuse s).free = s.free :=
  (ackRefuse_only ..).free.resolve_left (by decide)

/-! `recordResource` -/
@[simp] theorem recordResource_f_pending {b : Block} {q : Fin 4} {s : State} : (recordResource b q s).pending = s.pending :=
  (recordResource_only ..).pending.resolve_left (by decide)
@[simp] theorem recordResource_f_bad {b : Block} {q : Fin 4} {s : State} : (recordResource b q s).bad = s.bad :=
  (recordResource_only ..).bad.resolve_left (by decide)
@[simp] theorem recordResource_f_af {b : Block} {q : Fin 4} {s : State} : (recordResource b q s).af = s.af :=
  (recordResource_only ..).af.resolve_left (by decide)

/-! `ackCheck` -/
@[simp] theorem ackCheck_f_pending {s : State} : (ackCheck s).pending = s.pending :=
  (ackCheck_only ..).pending.resolve_left (by decide)
@[simp] theorem ackCheck_f_dev {s : State} : (ackCheck s).dev = s.dev :=
  (ackCheck_only ..).dev.resolve_left (by decide)
@[simp] theorem ackCheck_f_devAt {s : State} : (ackCheck s).devAt = s.devAt :=
  (ackCheck_only ..).devAt.resolve_left (by decide)
@[simp] theorem ackCheck_f_bad {s : State} : (ackCheck s).bad = s.bad :=
  (ackCheck_only ..).bad.resolve_left (by decide)
@[simp] theorem ackCheck_f_fr {s : State} : (ackCheck s).fr = s.fr :=
  (ackCheck_only ..).fr.resolve_left (by decide)
@[simp] theorem ackCheck_f_sc {s : State} : (ackCheck s).sc = s.sc :=
  (ackCheck_only ..).sc.resolve_left (by decide)
@[simp] theorem ackCheck_f_pcr {s : State} : (ackCheck s).pcr = s.pcr :=
  (ackCheck_only ..).pcr.resolve_left (by decide)
@[simp] theorem ackCheck_f_tb {s : State} : (ackCheck s).tb = s.tb :=
  (ackCheck_only ..).tb.resolve_left (by decide)
@[simp] theorem ackCheck_f_ev {s : State} : (ackCheck s).ev = s.ev :=
  (ackCheck_only ..).ev.resolve_left (by decide)
@[simp] theorem ackCheck_f_ib {s : State} : (ackCheck s).ib = s.ib :=
  (ackCheck_only ..).ib.resolve_left (by decide)
@[simp] theorem ackCheck_f_ps {s : State} : (ackCheck s).ps = s.ps :=
  (ackCheck_only ..).ps.resolve_left (by decide)
@[simp] theorem ackCheck_f_af {s : State} : (ackCheck s).af = s.af :=
  (ackCheck_only ..).af.resolve_left (by decide)
@[simp] theorem ackCheck_f_os {s : State} : (ackCheck s).os = s.os :=
  (ackCheck_only ..).os.resolve_left (by decide)
@[simp] theorem ackCheck_f_hp {s : State} : (ackCheck s).hp = s.hp :=
  (ackCheck_only ..).hp.resolve_left (by decide)
@[simp] theorem ackCheck_f_pl {s : State} : (ackCheck s).pl = s.pl :=
  (ackCheck_only ..).pl.resolve_left (by decide)
@[simp] theorem ackCheck_f_cv {s : State} : (ackCheck s).cv = s.cv :=
  (ackCheck_only ..).cv.resolve_left (by decide)
@[simp] theorem ackCheck_f_ms {s : State} : (ackCheck s).ms = s.ms :=
  (ackCheck_only ..).ms.resolve_left (by decide)
@[simp] theorem ackCheck_f_free {s : State} : (ackCheck s).free = s.free :=
  (ackCheck_only ..).free.resolve_left (by decide)

/-! `cruiseInterrupt` -/
@[simp] theorem cruiseInterrupt_f_pending {s : State} : (cruiseInterrupt s).pending = s.pending :=
  (cruiseInterrupt_only ..).pending.resolve_left (by decide)
@[simp] theorem cruiseInterrupt_f_dev {s : State} : (cruiseInterrupt s).dev = s.dev :=
  (cruiseInterrupt_only ..).dev.resolve_left (by decide)
@[simp] theorem cruiseInterrupt_f_devAt {s : State} : (cruiseInterrupt s).devAt = s.devAt :=
  (cruiseInterrupt_only ..).devAt.resolve_left (by decide)
@[simp] theorem cruiseInterrupt_f_bad {s : State} : (cruiseInterrupt s).bad = s.bad :=
  (cruiseInterrupt_only ..).bad.resolve_left (by decide)
@[simp] theorem cruiseInterrupt_f_fr {s : State} : (cruiseInterrupt s).fr = s.fr :=
  (cruiseInterrupt_only ..).fr.resolve_left (by decide)
@[simp] theorem cruiseInterrupt_f_sc {s : State} : (cruiseInterrupt s).sc = s.sc :=
  (cruiseInterrupt_only ..).sc.resolve_left (by decide)
@[simp] theorem cruiseInterrupt_f_pcr {s : State} : (cruiseInterrupt s).pcr = s.pcr :=
  (cruiseInterrupt_only ..).pcr.resolve_left (by decide)
@[simp] theorem cruiseInterrupt_f_tb {s : State} : (cruiseInterrupt s).tb = s.tb :=
  (cruiseInterrupt_only ..).tb.resolve_left (by decide)
@[simp] theorem cruiseInterrupt_f_ev {s : State} : (cruiseInterrupt s).ev = s.ev :=
  (cruiseInterrupt_only ..).ev.resolve_left (by decide)
@[simp] theorem cruiseInterrupt_f_ps {s : State} : (cruiseInterrupt s).ps = s.ps :=
  (cruiseInterrupt_only ..).ps.resolve_left (by decide)
@[simp] theorem cruiseInterrupt_f_af {s : State} : (cruiseInterrupt s).af = s.af :=
  (cruiseInterrupt_only ..).af.resolve_left (by decide)
@[simp] theorem cruiseInterrupt_f_os {s : State} : (cruiseInterrupt s).os = s.os :=
  (cruiseInterrupt_only ..).os.resolve_left (by decide)
@[simp] theorem cruiseInterrupt_f_hp {s : State} : (cruiseInterrupt s).hp = s.hp :=
  (cruiseInterrupt_only ..).hp.resolve_left (by decide)
@[simp] theorem cruiseInterrupt_f_wq {s : State} : (cruiseInterrupt s).wq = s.wq :=
  (cruiseInterrupt_only ..).wq.resolve_left (by decide)
@[simp] theorem cruiseInterrupt_f_pl {s : State} : (cruiseInterrupt s).pl = s.pl :=
  (cruiseInterrupt_only ..).pl.resolve_left (by decide)
@[simp] theorem cruiseInterrupt_f_ms {s : State} : (cruiseInterrupt s).ms = s.ms :=
  (cruiseInterrupt_only ..).ms.resolve_left (by decide)
@[simp] theorem cruiseInterrupt_f_free {s : State} : (cruiseInterrupt s).free = s.free :=
  (cruiseInterrupt_only ..).free.resolve_left (by decide)

/-! `settleInput` -/
@[simp] theorem settleInput_f_pending {i : Fin 128} {s : State} : (settleInput i s).pending = s.pending :=
  (settleInput_only ..).pending.resolve_left (by decide)
@[simp] theorem settleInput_f_dev {i : Fin 128} {s : State} : (settleInput i s).dev = s.dev :=
  (settleInput_only ..).dev.resolve_left (by decide)
@[simp] theorem settleInput_f_devAt {i : Fin 128} {s : State} : (settleInput i s).devAt = s.devAt :=
  (settleInput_only ..).devAt.resolve_left (by decide)
@[simp] theorem settleInput_f_bad {i : Fin 128} {s : State} : (settleInput i s).bad = s.bad :=
  (settleInput_only ..).bad.resolve_left (by decide)
@[simp] theorem settleInput_f_fr {i : Fin 128} {s : State} : (settleInput i s).fr = s.fr :=
  (settleInput_only ..).fr.resolve_left (by decide)
@[simp] theorem settleInput_f_sc {i : Fin 128} {s : State} : (settleInput i s).sc = s.sc :=
  (settleInput_only ..).sc.resolve_left (by decide)
@[simp] theorem settleInput_f_pcr {i : Fin 128} {s : State} : (settleInput i s).pcr = s.pcr :=
  (settleInput_only ..).pcr.resolve_left (by decide)
@[simp] theorem settleInput_f_tb {i : Fin 128} {s : State} : (settleInput i s).tb = s.tb :=
  (settleInput_only ..).tb.resolve_left (by decide)
@[simp] theorem settleInput_f_st {i : Fin 128} {s : State} : (settleInput i s).st = s.st :=
  (settleInput_only ..).st.resolve_left (by decide)
@[simp] theorem settleInput_f_ev {i : Fin 128} {s : State} : (settleInput i s).ev = s.ev :=
  (settleInput_only ..).ev.resolve_left (by decide)
@[simp] theorem settleInput_f_ps {i : Fin 128} {s : State} : (settleInput i s).ps = s.ps :=
  (settleInput_only ..).ps.resolve_left (by decide)
@[simp] theorem settleInput_f_af {i : Fin 128} {s : State} : (settleInput i s).af = s.af :=
  (settleInput_only ..).af.resolve_left (by decide)
@[simp] theorem settleInput_f_os {i : Fin 128} {s : State} : (settleInput i s).os = s.os :=
  (settleInput_only ..).os.resolve_left (by decide)
@[simp] theorem settleInput_f_hp {i : Fin 128} {s : State} : (settleInput i s).hp = s.hp :=
  (settleInput_only ..).hp.resolve_left (by decide)
@[simp] theorem settleInput_f_wq {i : Fin 128} {s : State} : (settleInput i s).wq = s.wq :=
  (settleInput_only ..).wq.resolve_left (by decide)
@[simp] theorem settleInput_f_pl {i : Fin 128} {s : State} : (settleInput i s).pl = s.pl :=
  (settleInput_only ..).pl.resolve_left (by decide)
@[simp] theorem settleInput_f_cv {i : Fin 128} {s : State} : (settleInput i s).cv = s.cv :=
  (settleInput_only ..).cv.resolve_left (by decide)
@[simp] theorem settleInput_f_ms {i : Fin 128} {s : State} : (settleInput i s).ms = s.ms :=
  (settleInput_only ..).ms.resolve_left (by decide)
@[simp] theorem settleInput_f_free {i : Fin 128} {s : State} : (settleInput i s).free = s.free :=
  (settleInput_only ..).free.resolve_left (by decide)

/-! `sendVector` -/
@[simp] theorem sendVector_f_pending {p : Side} {v : Fin 32} {s : State} : (sendVector p v s).pending = s.pending :=
  (sendVector_only ..).pending.resolve_left (by decide)
@[simp] theorem sendVector_f_dev {p : Side} {v : Fin 32} {s : State} : (sendVector p v s).dev = s.dev :=
  (sendVector_only ..).dev.resolve_left (by decide)
@[simp] theorem sendVector_f_devAt {p : Side} {v : Fin 32} {s : State} : (sendVector p v s).devAt = s.devAt :=
  (sendVector_only ..).devAt.resolve_left (by decide)
@[simp] theorem sendVector_f_bad {p : Side} {v : Fin 32} {s : State} : (sendVector p v s).bad = s.bad :=
  (sendVector_only ..).bad.resolve_left (by decide)
@[simp] theorem sendVector_f_fr {p : Side} {v : Fin 32} {s : State} : (sendVector p v s).fr = s.fr :=
  (sendVector_only ..).fr.resolve_left (by decide)
@[simp] theorem sendVector_f_sc {p : Side} {v : Fin 32} {s : State} : (sendVector p v s).sc = s.sc :=
  (sendVector_only ..).sc.resolve_left (by decide)
@[simp] theorem sendVector_f_pcr {p : Side} {v : Fin 32} {s : State} : (sendVector p v s).pcr = s.pcr :=
  (sendVector_only ..).pcr.resolve_left (by decide)
@[simp] theorem sendVector_f_tb {p : Side} {v : Fin 32} {s : State} : (sendVector p v s).tb = s.tb :=
  (sendVector_only ..).tb.resolve_left (by decide)
@[simp] theorem sendVector_f_st {p : Side} {v : Fin 32} {s : State} : (sendVector p v s).st = s.st :=
  (sendVector_only ..).st.resolve_left (by decide)
@[simp] theorem sendVector_f_ev {p : Side} {v : Fin 32} {s : State} : (sendVector p v s).ev = s.ev :=
  (sendVector_only ..).ev.resolve_left (by decide)
@[simp] theorem sendVector_f_ib {p : Side} {v : Fin 32} {s : State} : (sendVector p v s).ib = s.ib :=
  (sendVector_only ..).ib.resolve_left (by decide)
@[simp] theorem sendVector_f_ps {p : Side} {v : Fin 32} {s : State} : (sendVector p v s).ps = s.ps :=
  (sendVector_only ..).ps.resolve_left (by decide)
@[simp] theorem sendVector_f_af {p : Side} {v : Fin 32} {s : State} : (sendVector p v s).af = s.af :=
  (sendVector_only ..).af.resolve_left (by decide)
@[simp] theorem sendVector_f_os {p : Side} {v : Fin 32} {s : State} : (sendVector p v s).os = s.os :=
  (sendVector_only ..).os.resolve_left (by decide)
@[simp] theorem sendVector_f_wq {p : Side} {v : Fin 32} {s : State} : (sendVector p v s).wq = s.wq :=
  (sendVector_only ..).wq.resolve_left (by decide)
@[simp] theorem sendVector_f_pl {p : Side} {v : Fin 32} {s : State} : (sendVector p v s).pl = s.pl :=
  (sendVector_only ..).pl.resolve_left (by decide)
@[simp] theorem sendVector_f_cv {p : Side} {v : Fin 32} {s : State} : (sendVector p v s).cv = s.cv :=
  (sendVector_only ..).cv.resolve_left (by decide)
@[simp] theorem sendVector_f_ms {p : Side} {v : Fin 32} {s : State} : (sendVector p v s).ms = s.ms :=
  (sendVector_only ..).ms.resolve_left (by decide)
@[simp] theorem sendVector_f_free {p : Side} {v : Fin 32} {s : State} : (sendVector p v s).free = s.free :=
  (sendVector_only ..).free.resolve_left (by decide)

/-! `sourcesOff` -/
@[simp] theorem sourcesOff_f_pending {s : State} : (sourcesOff s).pending = s.pending :=
  (sourcesOff_only ..).pending.resolve_left (by decide)
@[simp] theorem sourcesOff_f_dev {s : State} : (sourcesOff s).dev = s.dev :=
  (sourcesOff_only ..).dev.resolve_left (by decide)
@[simp] theorem sourcesOff_f_devAt {s : State} : (sourcesOff s).devAt = s.devAt :=
  (sourcesOff_only ..).devAt.resolve_left (by decide)
@[simp] theorem sourcesOff_f_bad {s : State} : (sourcesOff s).bad = s.bad :=
  (sourcesOff_only ..).bad.resolve_left (by decide)
@[simp] theorem sourcesOff_f_fr {s : State} : (sourcesOff s).fr = s.fr :=
  (sourcesOff_only ..).fr.resolve_left (by decide)
@[simp] theorem sourcesOff_f_sc {s : State} : (sourcesOff s).sc = s.sc :=
  (sourcesOff_only ..).sc.resolve_left (by decide)
@[simp] theorem sourcesOff_f_pcr {s : State} : (sourcesOff s).pcr = s.pcr :=
  (sourcesOff_only ..).pcr.resolve_left (by decide)
@[simp] theorem sourcesOff_f_tb {s : State} : (sourcesOff s).tb = s.tb :=
  (sourcesOff_only ..).tb.resolve_left (by decide)
@[simp] theorem sourcesOff_f_st {s : State} : (sourcesOff s).st = s.st :=
  (sourcesOff_only ..).st.resolve_left (by decide)
@[simp] theorem sourcesOff_f_ev {s : State} : (sourcesOff s).ev = s.ev :=
  (sourcesOff_only ..).ev.resolve_left (by decide)
@[simp] theorem sourcesOff_f_af {s : State} : (sourcesOff s).af = s.af :=
  (sourcesOff_only ..).af.resolve_left (by decide)
@[simp] theorem sourcesOff_f_os {s : State} : (sourcesOff s).os = s.os :=
  (sourcesOff_only ..).os.resolve_left (by decide)
@[simp] theorem sourcesOff_f_hp {s : State} : (sourcesOff s).hp = s.hp :=
  (sourcesOff_only ..).hp.resolve_left (by decide)
@[simp] theorem sourcesOff_f_wq {s : State} : (sourcesOff s).wq = s.wq :=
  (sourcesOff_only ..).wq.resolve_left (by decide)
@[simp] theorem sourcesOff_f_pl {s : State} : (sourcesOff s).pl = s.pl :=
  (sourcesOff_only ..).pl.resolve_left (by decide)
@[simp] theorem sourcesOff_f_cv {s : State} : (sourcesOff s).cv = s.cv :=
  (sourcesOff_only ..).cv.resolve_left (by decide)
@[simp] theorem sourcesOff_f_ms {s : State} : (sourcesOff s).ms = s.ms :=
  (sourcesOff_only ..).ms.resolve_left (by decide)
@[simp] theorem sourcesOff_f_free {s : State} : (sourcesOff s).free = s.free :=
  (sourcesOff_only ..).free.resolve_left (by decide)

/-! `pcrFatal` -/
@[simp] theorem pcrFatal_f_pending {d : Side} {cause addr acc : Nat} {s : State} : (pcrFatal d cause addr acc s).pending = s.pending :=
  (pcrFatal_only ..).pending.resolve_left (by decide)
@[simp] theorem pcrFatal_f_af {d : Side} {cause addr acc : Nat} {s : State} : (pcrFatal d cause addr acc s).af = s.af :=
  (pcrFatal_only ..).af.resolve_left (by decide)

/-! `journalRaw` -/
@[simp] theorem journalRaw_f_pending {r : JRec} {s : State} : (journalRaw r s).pending = s.pending :=
  (journalRaw_only ..).pending.resolve_left (by decide)
@[simp] theorem journalRaw_f_dev {r : JRec} {s : State} : (journalRaw r s).dev = s.dev :=
  (journalRaw_only ..).dev.resolve_left (by decide)
@[simp] theorem journalRaw_f_devAt {r : JRec} {s : State} : (journalRaw r s).devAt = s.devAt :=
  (journalRaw_only ..).devAt.resolve_left (by decide)
@[simp] theorem journalRaw_f_bad {r : JRec} {s : State} : (journalRaw r s).bad = s.bad :=
  (journalRaw_only ..).bad.resolve_left (by decide)
@[simp] theorem journalRaw_f_fr {r : JRec} {s : State} : (journalRaw r s).fr = s.fr :=
  (journalRaw_only ..).fr.resolve_left (by decide)
@[simp] theorem journalRaw_f_sc {r : JRec} {s : State} : (journalRaw r s).sc = s.sc :=
  (journalRaw_only ..).sc.resolve_left (by decide)
@[simp] theorem journalRaw_f_pcr {r : JRec} {s : State} : (journalRaw r s).pcr = s.pcr :=
  (journalRaw_only ..).pcr.resolve_left (by decide)
@[simp] theorem journalRaw_f_tb {r : JRec} {s : State} : (journalRaw r s).tb = s.tb :=
  (journalRaw_only ..).tb.resolve_left (by decide)
@[simp] theorem journalRaw_f_st {r : JRec} {s : State} : (journalRaw r s).st = s.st :=
  (journalRaw_only ..).st.resolve_left (by decide)
@[simp] theorem journalRaw_f_ev {r : JRec} {s : State} : (journalRaw r s).ev = s.ev :=
  (journalRaw_only ..).ev.resolve_left (by decide)
@[simp] theorem journalRaw_f_ib {r : JRec} {s : State} : (journalRaw r s).ib = s.ib :=
  (journalRaw_only ..).ib.resolve_left (by decide)
@[simp] theorem journalRaw_f_ps {r : JRec} {s : State} : (journalRaw r s).ps = s.ps :=
  (journalRaw_only ..).ps.resolve_left (by decide)
@[simp] theorem journalRaw_f_af {r : JRec} {s : State} : (journalRaw r s).af = s.af :=
  (journalRaw_only ..).af.resolve_left (by decide)
@[simp] theorem journalRaw_f_os {r : JRec} {s : State} : (journalRaw r s).os = s.os :=
  (journalRaw_only ..).os.resolve_left (by decide)
@[simp] theorem journalRaw_f_hp {r : JRec} {s : State} : (journalRaw r s).hp = s.hp :=
  (journalRaw_only ..).hp.resolve_left (by decide)
@[simp] theorem journalRaw_f_pl {r : JRec} {s : State} : (journalRaw r s).pl = s.pl :=
  (journalRaw_only ..).pl.resolve_left (by decide)
@[simp] theorem journalRaw_f_cv {r : JRec} {s : State} : (journalRaw r s).cv = s.cv :=
  (journalRaw_only ..).cv.resolve_left (by decide)
@[simp] theorem journalRaw_f_free {r : JRec} {s : State} : (journalRaw r s).free = s.free :=
  (journalRaw_only ..).free.resolve_left (by decide)

/-! `katRelease` -/
@[simp] theorem katRelease_f_pending {s : State} : (katRelease s).pending = s.pending :=
  (katRelease_only ..).pending.resolve_left (by decide)
@[simp] theorem katRelease_f_dev {s : State} : (katRelease s).dev = s.dev :=
  (katRelease_only ..).dev.resolve_left (by decide)
@[simp] theorem katRelease_f_devAt {s : State} : (katRelease s).devAt = s.devAt :=
  (katRelease_only ..).devAt.resolve_left (by decide)
@[simp] theorem katRelease_f_bad {s : State} : (katRelease s).bad = s.bad :=
  (katRelease_only ..).bad.resolve_left (by decide)
@[simp] theorem katRelease_f_fr {s : State} : (katRelease s).fr = s.fr :=
  (katRelease_only ..).fr.resolve_left (by decide)
@[simp] theorem katRelease_f_sc {s : State} : (katRelease s).sc = s.sc :=
  (katRelease_only ..).sc.resolve_left (by decide)
@[simp] theorem katRelease_f_pcr {s : State} : (katRelease s).pcr = s.pcr :=
  (katRelease_only ..).pcr.resolve_left (by decide)
@[simp] theorem katRelease_f_tb {s : State} : (katRelease s).tb = s.tb :=
  (katRelease_only ..).tb.resolve_left (by decide)
@[simp] theorem katRelease_f_st {s : State} : (katRelease s).st = s.st :=
  (katRelease_only ..).st.resolve_left (by decide)
@[simp] theorem katRelease_f_ev {s : State} : (katRelease s).ev = s.ev :=
  (katRelease_only ..).ev.resolve_left (by decide)
@[simp] theorem katRelease_f_ib {s : State} : (katRelease s).ib = s.ib :=
  (katRelease_only ..).ib.resolve_left (by decide)
@[simp] theorem katRelease_f_ps {s : State} : (katRelease s).ps = s.ps :=
  (katRelease_only ..).ps.resolve_left (by decide)
@[simp] theorem katRelease_f_af {s : State} : (katRelease s).af = s.af :=
  (katRelease_only ..).af.resolve_left (by decide)
@[simp] theorem katRelease_f_os {s : State} : (katRelease s).os = s.os :=
  (katRelease_only ..).os.resolve_left (by decide)
@[simp] theorem katRelease_f_hp {s : State} : (katRelease s).hp = s.hp :=
  (katRelease_only ..).hp.resolve_left (by decide)
@[simp] theorem katRelease_f_wq {s : State} : (katRelease s).wq = s.wq :=
  (katRelease_only ..).wq.resolve_left (by decide)
@[simp] theorem katRelease_f_pl {s : State} : (katRelease s).pl = s.pl :=
  (katRelease_only ..).pl.resolve_left (by decide)
@[simp] theorem katRelease_f_ms {s : State} : (katRelease s).ms = s.ms :=
  (katRelease_only ..).ms.resolve_left (by decide)
@[simp] theorem katRelease_f_free {s : State} : (katRelease s).free = s.free :=
  (katRelease_only ..).free.resolve_left (by decide)

/-! `raiseEventIrq` -/
@[simp] theorem raiseEventIrq_f_pending {b : Block} {s : State} : (raiseEventIrq b s).pending = s.pending :=
  (raiseEventIrq_only ..).pending.resolve_left (by decide)
@[simp] theorem raiseEventIrq_f_dev {b : Block} {s : State} : (raiseEventIrq b s).dev = s.dev :=
  (raiseEventIrq_only ..).dev.resolve_left (by decide)
@[simp] theorem raiseEventIrq_f_devAt {b : Block} {s : State} : (raiseEventIrq b s).devAt = s.devAt :=
  (raiseEventIrq_only ..).devAt.resolve_left (by decide)
@[simp] theorem raiseEventIrq_f_bad {b : Block} {s : State} : (raiseEventIrq b s).bad = s.bad :=
  (raiseEventIrq_only ..).bad.resolve_left (by decide)
@[simp] theorem raiseEventIrq_f_fr {b : Block} {s : State} : (raiseEventIrq b s).fr = s.fr :=
  (raiseEventIrq_only ..).fr.resolve_left (by decide)
@[simp] theorem raiseEventIrq_f_sc {b : Block} {s : State} : (raiseEventIrq b s).sc = s.sc :=
  (raiseEventIrq_only ..).sc.resolve_left (by decide)
@[simp] theorem raiseEventIrq_f_pcr {b : Block} {s : State} : (raiseEventIrq b s).pcr = s.pcr :=
  (raiseEventIrq_only ..).pcr.resolve_left (by decide)
@[simp] theorem raiseEventIrq_f_tb {b : Block} {s : State} : (raiseEventIrq b s).tb = s.tb :=
  (raiseEventIrq_only ..).tb.resolve_left (by decide)
@[simp] theorem raiseEventIrq_f_st {b : Block} {s : State} : (raiseEventIrq b s).st = s.st :=
  (raiseEventIrq_only ..).st.resolve_left (by decide)
@[simp] theorem raiseEventIrq_f_ev {b : Block} {s : State} : (raiseEventIrq b s).ev = s.ev :=
  (raiseEventIrq_only ..).ev.resolve_left (by decide)
@[simp] theorem raiseEventIrq_f_ib {b : Block} {s : State} : (raiseEventIrq b s).ib = s.ib :=
  (raiseEventIrq_only ..).ib.resolve_left (by decide)
@[simp] theorem raiseEventIrq_f_ps {b : Block} {s : State} : (raiseEventIrq b s).ps = s.ps :=
  (raiseEventIrq_only ..).ps.resolve_left (by decide)
@[simp] theorem raiseEventIrq_f_af {b : Block} {s : State} : (raiseEventIrq b s).af = s.af :=
  (raiseEventIrq_only ..).af.resolve_left (by decide)
@[simp] theorem raiseEventIrq_f_os {b : Block} {s : State} : (raiseEventIrq b s).os = s.os :=
  (raiseEventIrq_only ..).os.resolve_left (by decide)
@[simp] theorem raiseEventIrq_f_wq {b : Block} {s : State} : (raiseEventIrq b s).wq = s.wq :=
  (raiseEventIrq_only ..).wq.resolve_left (by decide)
@[simp] theorem raiseEventIrq_f_pl {b : Block} {s : State} : (raiseEventIrq b s).pl = s.pl :=
  (raiseEventIrq_only ..).pl.resolve_left (by decide)
@[simp] theorem raiseEventIrq_f_cv {b : Block} {s : State} : (raiseEventIrq b s).cv = s.cv :=
  (raiseEventIrq_only ..).cv.resolve_left (by decide)
@[simp] theorem raiseEventIrq_f_ms {b : Block} {s : State} : (raiseEventIrq b s).ms = s.ms :=
  (raiseEventIrq_only ..).ms.resolve_left (by decide)
@[simp] theorem raiseEventIrq_f_free {b : Block} {s : State} : (raiseEventIrq b s).free = s.free :=
  (raiseEventIrq_only ..).free.resolve_left (by decide)

/-! `countRefused` -/
@[simp] theorem countRefused_f_pending {p : Side} {s : State} : (countRefused p s).pending = s.pending :=
  (countRefused_only ..).pending.resolve_left (by decide)
@[simp] theorem countRefused_f_dev {p : Side} {s : State} : (countRefused p s).dev = s.dev :=
  (countRefused_only ..).dev.resolve_left (by decide)
@[simp] theorem countRefused_f_devAt {p : Side} {s : State} : (countRefused p s).devAt = s.devAt :=
  (countRefused_only ..).devAt.resolve_left (by decide)
@[simp] theorem countRefused_f_bad {p : Side} {s : State} : (countRefused p s).bad = s.bad :=
  (countRefused_only ..).bad.resolve_left (by decide)
@[simp] theorem countRefused_f_fr {p : Side} {s : State} : (countRefused p s).fr = s.fr :=
  (countRefused_only ..).fr.resolve_left (by decide)
@[simp] theorem countRefused_f_sc {p : Side} {s : State} : (countRefused p s).sc = s.sc :=
  (countRefused_only ..).sc.resolve_left (by decide)
@[simp] theorem countRefused_f_pcr {p : Side} {s : State} : (countRefused p s).pcr = s.pcr :=
  (countRefused_only ..).pcr.resolve_left (by decide)
@[simp] theorem countRefused_f_tb {p : Side} {s : State} : (countRefused p s).tb = s.tb :=
  (countRefused_only ..).tb.resolve_left (by decide)
@[simp] theorem countRefused_f_st {p : Side} {s : State} : (countRefused p s).st = s.st :=
  (countRefused_only ..).st.resolve_left (by decide)
@[simp] theorem countRefused_f_ev {p : Side} {s : State} : (countRefused p s).ev = s.ev :=
  (countRefused_only ..).ev.resolve_left (by decide)
@[simp] theorem countRefused_f_ib {p : Side} {s : State} : (countRefused p s).ib = s.ib :=
  (countRefused_only ..).ib.resolve_left (by decide)
@[simp] theorem countRefused_f_ps {p : Side} {s : State} : (countRefused p s).ps = s.ps :=
  (countRefused_only ..).ps.resolve_left (by decide)
@[simp] theorem countRefused_f_af {p : Side} {s : State} : (countRefused p s).af = s.af :=
  (countRefused_only ..).af.resolve_left (by decide)
@[simp] theorem countRefused_f_os {p : Side} {s : State} : (countRefused p s).os = s.os :=
  (countRefused_only ..).os.resolve_left (by decide)
@[simp] theorem countRefused_f_wq {p : Side} {s : State} : (countRefused p s).wq = s.wq :=
  (countRefused_only ..).wq.resolve_left (by decide)
@[simp] theorem countRefused_f_pl {p : Side} {s : State} : (countRefused p s).pl = s.pl :=
  (countRefused_only ..).pl.resolve_left (by decide)
@[simp] theorem countRefused_f_cv {p : Side} {s : State} : (countRefused p s).cv = s.cv :=
  (countRefused_only ..).cv.resolve_left (by decide)
@[simp] theorem countRefused_f_ms {p : Side} {s : State} : (countRefused p s).ms = s.ms :=
  (countRefused_only ..).ms.resolve_left (by decide)
@[simp] theorem countRefused_f_free {p : Side} {s : State} : (countRefused p s).free = s.free :=
  (countRefused_only ..).free.resolve_left (by decide)

/-! `modItem` -/
@[simp] theorem modItem_f_pending {s : State} {p : Side} {n : Fin 8} {f : Item → Item} : (State.modItem s p n f).pending = s.pending :=
  (modItem_only ..).pending.resolve_left (by decide)
@[simp] theorem modItem_f_dev {s : State} {p : Side} {n : Fin 8} {f : Item → Item} : (State.modItem s p n f).dev = s.dev :=
  (modItem_only ..).dev.resolve_left (by decide)
@[simp] theorem modItem_f_devAt {s : State} {p : Side} {n : Fin 8} {f : Item → Item} : (State.modItem s p n f).devAt = s.devAt :=
  (modItem_only ..).devAt.resolve_left (by decide)
@[simp] theorem modItem_f_bad {s : State} {p : Side} {n : Fin 8} {f : Item → Item} : (State.modItem s p n f).bad = s.bad :=
  (modItem_only ..).bad.resolve_left (by decide)
@[simp] theorem modItem_f_fr {s : State} {p : Side} {n : Fin 8} {f : Item → Item} : (State.modItem s p n f).fr = s.fr :=
  (modItem_only ..).fr.resolve_left (by decide)
@[simp] theorem modItem_f_sc {s : State} {p : Side} {n : Fin 8} {f : Item → Item} : (State.modItem s p n f).sc = s.sc :=
  (modItem_only ..).sc.resolve_left (by decide)
@[simp] theorem modItem_f_pcr {s : State} {p : Side} {n : Fin 8} {f : Item → Item} : (State.modItem s p n f).pcr = s.pcr :=
  (modItem_only ..).pcr.resolve_left (by decide)
@[simp] theorem modItem_f_tb {s : State} {p : Side} {n : Fin 8} {f : Item → Item} : (State.modItem s p n f).tb = s.tb :=
  (modItem_only ..).tb.resolve_left (by decide)
@[simp] theorem modItem_f_st {s : State} {p : Side} {n : Fin 8} {f : Item → Item} : (State.modItem s p n f).st = s.st :=
  (modItem_only ..).st.resolve_left (by decide)
@[simp] theorem modItem_f_ev {s : State} {p : Side} {n : Fin 8} {f : Item → Item} : (State.modItem s p n f).ev = s.ev :=
  (modItem_only ..).ev.resolve_left (by decide)
@[simp] theorem modItem_f_ib {s : State} {p : Side} {n : Fin 8} {f : Item → Item} : (State.modItem s p n f).ib = s.ib :=
  (modItem_only ..).ib.resolve_left (by decide)
@[simp] theorem modItem_f_ps {s : State} {p : Side} {n : Fin 8} {f : Item → Item} : (State.modItem s p n f).ps = s.ps :=
  (modItem_only ..).ps.resolve_left (by decide)
@[simp] theorem modItem_f_af {s : State} {p : Side} {n : Fin 8} {f : Item → Item} : (State.modItem s p n f).af = s.af :=
  (modItem_only ..).af.resolve_left (by decide)
@[simp] theorem modItem_f_os {s : State} {p : Side} {n : Fin 8} {f : Item → Item} : (State.modItem s p n f).os = s.os :=
  (modItem_only ..).os.resolve_left (by decide)
@[simp] theorem modItem_f_hp {s : State} {p : Side} {n : Fin 8} {f : Item → Item} : (State.modItem s p n f).hp = s.hp :=
  (modItem_only ..).hp.resolve_left (by decide)
@[simp] theorem modItem_f_pl {s : State} {p : Side} {n : Fin 8} {f : Item → Item} : (State.modItem s p n f).pl = s.pl :=
  (modItem_only ..).pl.resolve_left (by decide)
@[simp] theorem modItem_f_cv {s : State} {p : Side} {n : Fin 8} {f : Item → Item} : (State.modItem s p n f).cv = s.cv :=
  (modItem_only ..).cv.resolve_left (by decide)
@[simp] theorem modItem_f_ms {s : State} {p : Side} {n : Fin 8} {f : Item → Item} : (State.modItem s p n f).ms = s.ms :=
  (modItem_only ..).ms.resolve_left (by decide)
@[simp] theorem modItem_f_free {s : State} {p : Side} {n : Fin 8} {f : Item → Item} : (State.modItem s p n f).free = s.free :=
  (modItem_only ..).free.resolve_left (by decide)

/-! `causeAbsent` -/
@[simp] theorem causeAbsent_f_pending {b : Block} {cause item : Nat} {s : State} : (causeAbsent b cause item s).pending = s.pending :=
  (causeAbsent_only ..).pending.resolve_left (by decide)
@[simp] theorem causeAbsent_f_dev {b : Block} {cause item : Nat} {s : State} : (causeAbsent b cause item s).dev = s.dev :=
  (causeAbsent_only ..).dev.resolve_left (by decide)
@[simp] theorem causeAbsent_f_devAt {b : Block} {cause item : Nat} {s : State} : (causeAbsent b cause item s).devAt = s.devAt :=
  (causeAbsent_only ..).devAt.resolve_left (by decide)
@[simp] theorem causeAbsent_f_bad {b : Block} {cause item : Nat} {s : State} : (causeAbsent b cause item s).bad = s.bad :=
  (causeAbsent_only ..).bad.resolve_left (by decide)
@[simp] theorem causeAbsent_f_sc {b : Block} {cause item : Nat} {s : State} : (causeAbsent b cause item s).sc = s.sc :=
  (causeAbsent_only ..).sc.resolve_left (by decide)
@[simp] theorem causeAbsent_f_pcr {b : Block} {cause item : Nat} {s : State} : (causeAbsent b cause item s).pcr = s.pcr :=
  (causeAbsent_only ..).pcr.resolve_left (by decide)
@[simp] theorem causeAbsent_f_tb {b : Block} {cause item : Nat} {s : State} : (causeAbsent b cause item s).tb = s.tb :=
  (causeAbsent_only ..).tb.resolve_left (by decide)
@[simp] theorem causeAbsent_f_st {b : Block} {cause item : Nat} {s : State} : (causeAbsent b cause item s).st = s.st :=
  (causeAbsent_only ..).st.resolve_left (by decide)
@[simp] theorem causeAbsent_f_ev {b : Block} {cause item : Nat} {s : State} : (causeAbsent b cause item s).ev = s.ev :=
  (causeAbsent_only ..).ev.resolve_left (by decide)
@[simp] theorem causeAbsent_f_ib {b : Block} {cause item : Nat} {s : State} : (causeAbsent b cause item s).ib = s.ib :=
  (causeAbsent_only ..).ib.resolve_left (by decide)
@[simp] theorem causeAbsent_f_ps {b : Block} {cause item : Nat} {s : State} : (causeAbsent b cause item s).ps = s.ps :=
  (causeAbsent_only ..).ps.resolve_left (by decide)
@[simp] theorem causeAbsent_f_af {b : Block} {cause item : Nat} {s : State} : (causeAbsent b cause item s).af = s.af :=
  (causeAbsent_only ..).af.resolve_left (by decide)
@[simp] theorem causeAbsent_f_os {b : Block} {cause item : Nat} {s : State} : (causeAbsent b cause item s).os = s.os :=
  (causeAbsent_only ..).os.resolve_left (by decide)
@[simp] theorem causeAbsent_f_hp {b : Block} {cause item : Nat} {s : State} : (causeAbsent b cause item s).hp = s.hp :=
  (causeAbsent_only ..).hp.resolve_left (by decide)
@[simp] theorem causeAbsent_f_wq {b : Block} {cause item : Nat} {s : State} : (causeAbsent b cause item s).wq = s.wq :=
  (causeAbsent_only ..).wq.resolve_left (by decide)
@[simp] theorem causeAbsent_f_pl {b : Block} {cause item : Nat} {s : State} : (causeAbsent b cause item s).pl = s.pl :=
  (causeAbsent_only ..).pl.resolve_left (by decide)
@[simp] theorem causeAbsent_f_cv {b : Block} {cause item : Nat} {s : State} : (causeAbsent b cause item s).cv = s.cv :=
  (causeAbsent_only ..).cv.resolve_left (by decide)
@[simp] theorem causeAbsent_f_ms {b : Block} {cause item : Nat} {s : State} : (causeAbsent b cause item s).ms = s.ms :=
  (causeAbsent_only ..).ms.resolve_left (by decide)
@[simp] theorem causeAbsent_f_free {b : Block} {cause item : Nat} {s : State} : (causeAbsent b cause item s).free = s.free :=
  (causeAbsent_only ..).free.resolve_left (by decide)

/-! `recordPulse` -/
@[simp] theorem recordPulse_f_pending {f : FaultRep} {s : State} : (recordPulse f s).pending = s.pending :=
  (recordPulse_only ..).pending.resolve_left (by decide)
@[simp] theorem recordPulse_f_af {f : FaultRep} {s : State} : (recordPulse f s).af = s.af :=
  (recordPulse_only ..).af.resolve_left (by decide)

/-! `plState` -/
@[simp] theorem plState_f_pending {n : Fin 4} {st : PlState} {s : State} : (plState n st s).pending = s.pending :=
  (plState_only ..).pending.resolve_left (by decide)
@[simp] theorem plState_f_dev {n : Fin 4} {st : PlState} {s : State} : (plState n st s).dev = s.dev :=
  (plState_only ..).dev.resolve_left (by decide)
@[simp] theorem plState_f_devAt {n : Fin 4} {st : PlState} {s : State} : (plState n st s).devAt = s.devAt :=
  (plState_only ..).devAt.resolve_left (by decide)
@[simp] theorem plState_f_bad {n : Fin 4} {st : PlState} {s : State} : (plState n st s).bad = s.bad :=
  (plState_only ..).bad.resolve_left (by decide)
@[simp] theorem plState_f_fr {n : Fin 4} {st : PlState} {s : State} : (plState n st s).fr = s.fr :=
  (plState_only ..).fr.resolve_left (by decide)
@[simp] theorem plState_f_sc {n : Fin 4} {st : PlState} {s : State} : (plState n st s).sc = s.sc :=
  (plState_only ..).sc.resolve_left (by decide)
@[simp] theorem plState_f_pcr {n : Fin 4} {st : PlState} {s : State} : (plState n st s).pcr = s.pcr :=
  (plState_only ..).pcr.resolve_left (by decide)
@[simp] theorem plState_f_tb {n : Fin 4} {st : PlState} {s : State} : (plState n st s).tb = s.tb :=
  (plState_only ..).tb.resolve_left (by decide)
@[simp] theorem plState_f_st {n : Fin 4} {st : PlState} {s : State} : (plState n st s).st = s.st :=
  (plState_only ..).st.resolve_left (by decide)
@[simp] theorem plState_f_ev {n : Fin 4} {st : PlState} {s : State} : (plState n st s).ev = s.ev :=
  (plState_only ..).ev.resolve_left (by decide)
@[simp] theorem plState_f_ib {n : Fin 4} {st : PlState} {s : State} : (plState n st s).ib = s.ib :=
  (plState_only ..).ib.resolve_left (by decide)
@[simp] theorem plState_f_ps {n : Fin 4} {st : PlState} {s : State} : (plState n st s).ps = s.ps :=
  (plState_only ..).ps.resolve_left (by decide)
@[simp] theorem plState_f_af {n : Fin 4} {st : PlState} {s : State} : (plState n st s).af = s.af :=
  (plState_only ..).af.resolve_left (by decide)
@[simp] theorem plState_f_os {n : Fin 4} {st : PlState} {s : State} : (plState n st s).os = s.os :=
  (plState_only ..).os.resolve_left (by decide)
@[simp] theorem plState_f_wq {n : Fin 4} {st : PlState} {s : State} : (plState n st s).wq = s.wq :=
  (plState_only ..).wq.resolve_left (by decide)
@[simp] theorem plState_f_cv {n : Fin 4} {st : PlState} {s : State} : (plState n st s).cv = s.cv :=
  (plState_only ..).cv.resolve_left (by decide)
@[simp] theorem plState_f_ms {n : Fin 4} {st : PlState} {s : State} : (plState n st s).ms = s.ms :=
  (plState_only ..).ms.resolve_left (by decide)
@[simp] theorem plState_f_free {n : Fin 4} {st : PlState} {s : State} : (plState n st s).free = s.free :=
  (plState_only ..).free.resolve_left (by decide)

/-! `abortSends` -/
@[simp] theorem abortSends_f_pending {n : Fin 4} {code : Nat} {s : State} : (abortSends n code s).pending = s.pending :=
  (abortSends_only ..).pending.resolve_left (by decide)
@[simp] theorem abortSends_f_dev {n : Fin 4} {code : Nat} {s : State} : (abortSends n code s).dev = s.dev :=
  (abortSends_only ..).dev.resolve_left (by decide)
@[simp] theorem abortSends_f_devAt {n : Fin 4} {code : Nat} {s : State} : (abortSends n code s).devAt = s.devAt :=
  (abortSends_only ..).devAt.resolve_left (by decide)
@[simp] theorem abortSends_f_bad {n : Fin 4} {code : Nat} {s : State} : (abortSends n code s).bad = s.bad :=
  (abortSends_only ..).bad.resolve_left (by decide)
@[simp] theorem abortSends_f_fr {n : Fin 4} {code : Nat} {s : State} : (abortSends n code s).fr = s.fr :=
  (abortSends_only ..).fr.resolve_left (by decide)
@[simp] theorem abortSends_f_sc {n : Fin 4} {code : Nat} {s : State} : (abortSends n code s).sc = s.sc :=
  (abortSends_only ..).sc.resolve_left (by decide)
@[simp] theorem abortSends_f_pcr {n : Fin 4} {code : Nat} {s : State} : (abortSends n code s).pcr = s.pcr :=
  (abortSends_only ..).pcr.resolve_left (by decide)
@[simp] theorem abortSends_f_tb {n : Fin 4} {code : Nat} {s : State} : (abortSends n code s).tb = s.tb :=
  (abortSends_only ..).tb.resolve_left (by decide)
@[simp] theorem abortSends_f_st {n : Fin 4} {code : Nat} {s : State} : (abortSends n code s).st = s.st :=
  (abortSends_only ..).st.resolve_left (by decide)
@[simp] theorem abortSends_f_ev {n : Fin 4} {code : Nat} {s : State} : (abortSends n code s).ev = s.ev :=
  (abortSends_only ..).ev.resolve_left (by decide)
@[simp] theorem abortSends_f_ib {n : Fin 4} {code : Nat} {s : State} : (abortSends n code s).ib = s.ib :=
  (abortSends_only ..).ib.resolve_left (by decide)
@[simp] theorem abortSends_f_ps {n : Fin 4} {code : Nat} {s : State} : (abortSends n code s).ps = s.ps :=
  (abortSends_only ..).ps.resolve_left (by decide)
@[simp] theorem abortSends_f_af {n : Fin 4} {code : Nat} {s : State} : (abortSends n code s).af = s.af :=
  (abortSends_only ..).af.resolve_left (by decide)
@[simp] theorem abortSends_f_os {n : Fin 4} {code : Nat} {s : State} : (abortSends n code s).os = s.os :=
  (abortSends_only ..).os.resolve_left (by decide)
@[simp] theorem abortSends_f_hp {n : Fin 4} {code : Nat} {s : State} : (abortSends n code s).hp = s.hp :=
  (abortSends_only ..).hp.resolve_left (by decide)
@[simp] theorem abortSends_f_cv {n : Fin 4} {code : Nat} {s : State} : (abortSends n code s).cv = s.cv :=
  (abortSends_only ..).cv.resolve_left (by decide)
@[simp] theorem abortSends_f_ms {n : Fin 4} {code : Nat} {s : State} : (abortSends n code s).ms = s.ms :=
  (abortSends_only ..).ms.resolve_left (by decide)
@[simp] theorem abortSends_f_free {n : Fin 4} {code : Nat} {s : State} : (abortSends n code s).free = s.free :=
  (abortSends_only ..).free.resolve_left (by decide)

/-! `recordFault` -/
@[simp] theorem recordFault_f_pending {f : FaultRep} {s : State} : (recordFault f s).pending = s.pending :=
  (recordFault_only ..).pending.resolve_left (by decide)
@[simp] theorem recordFault_f_af {f : FaultRep} {s : State} : (recordFault f s).af = s.af :=
  (recordFault_only ..).af.resolve_left (by decide)

/-! `fatalAction` -/
@[simp] theorem fatalAction_f_pending {s : State} : (fatalAction s).pending = s.pending :=
  (fatalAction_only ..).pending.resolve_left (by decide)
@[simp] theorem fatalAction_f_bad {s : State} : (fatalAction s).bad = s.bad :=
  (fatalAction_only ..).bad.resolve_left (by decide)
@[simp] theorem fatalAction_f_af {s : State} : (fatalAction s).af = s.af :=
  (fatalAction_only ..).af.resolve_left (by decide)

/-! `tbEvent` -/
@[simp] theorem tbEvent_f_pending {src : Nat} {t : Tick} {s : State} : (tbEvent src t s).pending = s.pending :=
  (tbEvent_only ..).pending.resolve_left (by decide)
@[simp] theorem tbEvent_f_dev {src : Nat} {t : Tick} {s : State} : (tbEvent src t s).dev = s.dev :=
  (tbEvent_only ..).dev.resolve_left (by decide)
@[simp] theorem tbEvent_f_devAt {src : Nat} {t : Tick} {s : State} : (tbEvent src t s).devAt = s.devAt :=
  (tbEvent_only ..).devAt.resolve_left (by decide)
@[simp] theorem tbEvent_f_bad {src : Nat} {t : Tick} {s : State} : (tbEvent src t s).bad = s.bad :=
  (tbEvent_only ..).bad.resolve_left (by decide)
@[simp] theorem tbEvent_f_fr {src : Nat} {t : Tick} {s : State} : (tbEvent src t s).fr = s.fr :=
  (tbEvent_only ..).fr.resolve_left (by decide)
@[simp] theorem tbEvent_f_sc {src : Nat} {t : Tick} {s : State} : (tbEvent src t s).sc = s.sc :=
  (tbEvent_only ..).sc.resolve_left (by decide)
@[simp] theorem tbEvent_f_pcr {src : Nat} {t : Tick} {s : State} : (tbEvent src t s).pcr = s.pcr :=
  (tbEvent_only ..).pcr.resolve_left (by decide)
@[simp] theorem tbEvent_f_st {src : Nat} {t : Tick} {s : State} : (tbEvent src t s).st = s.st :=
  (tbEvent_only ..).st.resolve_left (by decide)
@[simp] theorem tbEvent_f_ev {src : Nat} {t : Tick} {s : State} : (tbEvent src t s).ev = s.ev :=
  (tbEvent_only ..).ev.resolve_left (by decide)
@[simp] theorem tbEvent_f_ib {src : Nat} {t : Tick} {s : State} : (tbEvent src t s).ib = s.ib :=
  (tbEvent_only ..).ib.resolve_left (by decide)
@[simp] theorem tbEvent_f_ps {src : Nat} {t : Tick} {s : State} : (tbEvent src t s).ps = s.ps :=
  (tbEvent_only ..).ps.resolve_left (by decide)
@[simp] theorem tbEvent_f_af {src : Nat} {t : Tick} {s : State} : (tbEvent src t s).af = s.af :=
  (tbEvent_only ..).af.resolve_left (by decide)
@[simp] theorem tbEvent_f_os {src : Nat} {t : Tick} {s : State} : (tbEvent src t s).os = s.os :=
  (tbEvent_only ..).os.resolve_left (by decide)
@[simp] theorem tbEvent_f_hp {src : Nat} {t : Tick} {s : State} : (tbEvent src t s).hp = s.hp :=
  (tbEvent_only ..).hp.resolve_left (by decide)
@[simp] theorem tbEvent_f_wq {src : Nat} {t : Tick} {s : State} : (tbEvent src t s).wq = s.wq :=
  (tbEvent_only ..).wq.resolve_left (by decide)
@[simp] theorem tbEvent_f_pl {src : Nat} {t : Tick} {s : State} : (tbEvent src t s).pl = s.pl :=
  (tbEvent_only ..).pl.resolve_left (by decide)
@[simp] theorem tbEvent_f_cv {src : Nat} {t : Tick} {s : State} : (tbEvent src t s).cv = s.cv :=
  (tbEvent_only ..).cv.resolve_left (by decide)
@[simp] theorem tbEvent_f_ms {src : Nat} {t : Tick} {s : State} : (tbEvent src t s).ms = s.ms :=
  (tbEvent_only ..).ms.resolve_left (by decide)
@[simp] theorem tbEvent_f_free {src : Nat} {t : Tick} {s : State} : (tbEvent src t s).free = s.free :=
  (tbEvent_only ..).free.resolve_left (by decide)

/-! `idleCells` -/
@[simp] theorem idleCells_f_pending {s : State} : (idleCells s).pending = s.pending :=
  (idleCells_only ..).pending.resolve_left (by decide)
@[simp] theorem idleCells_f_dev {s : State} : (idleCells s).dev = s.dev :=
  (idleCells_only ..).dev.resolve_left (by decide)
@[simp] theorem idleCells_f_devAt {s : State} : (idleCells s).devAt = s.devAt :=
  (idleCells_only ..).devAt.resolve_left (by decide)
@[simp] theorem idleCells_f_bad {s : State} : (idleCells s).bad = s.bad :=
  (idleCells_only ..).bad.resolve_left (by decide)
@[simp] theorem idleCells_f_fr {s : State} : (idleCells s).fr = s.fr :=
  (idleCells_only ..).fr.resolve_left (by decide)
@[simp] theorem idleCells_f_sc {s : State} : (idleCells s).sc = s.sc :=
  (idleCells_only ..).sc.resolve_left (by decide)
@[simp] theorem idleCells_f_pcr {s : State} : (idleCells s).pcr = s.pcr :=
  (idleCells_only ..).pcr.resolve_left (by decide)
@[simp] theorem idleCells_f_st {s : State} : (idleCells s).st = s.st :=
  (idleCells_only ..).st.resolve_left (by decide)
@[simp] theorem idleCells_f_ev {s : State} : (idleCells s).ev = s.ev :=
  (idleCells_only ..).ev.resolve_left (by decide)
@[simp] theorem idleCells_f_ib {s : State} : (idleCells s).ib = s.ib :=
  (idleCells_only ..).ib.resolve_left (by decide)
@[simp] theorem idleCells_f_ps {s : State} : (idleCells s).ps = s.ps :=
  (idleCells_only ..).ps.resolve_left (by decide)
@[simp] theorem idleCells_f_af {s : State} : (idleCells s).af = s.af :=
  (idleCells_only ..).af.resolve_left (by decide)
@[simp] theorem idleCells_f_os {s : State} : (idleCells s).os = s.os :=
  (idleCells_only ..).os.resolve_left (by decide)
@[simp] theorem idleCells_f_hp {s : State} : (idleCells s).hp = s.hp :=
  (idleCells_only ..).hp.resolve_left (by decide)
@[simp] theorem idleCells_f_wq {s : State} : (idleCells s).wq = s.wq :=
  (idleCells_only ..).wq.resolve_left (by decide)
@[simp] theorem idleCells_f_pl {s : State} : (idleCells s).pl = s.pl :=
  (idleCells_only ..).pl.resolve_left (by decide)
@[simp] theorem idleCells_f_cv {s : State} : (idleCells s).cv = s.cv :=
  (idleCells_only ..).cv.resolve_left (by decide)
@[simp] theorem idleCells_f_ms {s : State} : (idleCells s).ms = s.ms :=
  (idleCells_only ..).ms.resolve_left (by decide)
@[simp] theorem idleCells_f_free {s : State} : (idleCells s).free = s.free :=
  (idleCells_only ..).free.resolve_left (by decide)

/-! `modeDrop` -/
@[simp] theorem modeDrop_f_pending {s : State} : (modeDrop s).pending = s.pending :=
  (modeDrop_only ..).pending.resolve_left (by decide)
@[simp] theorem modeDrop_f_dev {s : State} : (modeDrop s).dev = s.dev :=
  (modeDrop_only ..).dev.resolve_left (by decide)
@[simp] theorem modeDrop_f_devAt {s : State} : (modeDrop s).devAt = s.devAt :=
  (modeDrop_only ..).devAt.resolve_left (by decide)
@[simp] theorem modeDrop_f_bad {s : State} : (modeDrop s).bad = s.bad :=
  (modeDrop_only ..).bad.resolve_left (by decide)
@[simp] theorem modeDrop_f_fr {s : State} : (modeDrop s).fr = s.fr :=
  (modeDrop_only ..).fr.resolve_left (by decide)
@[simp] theorem modeDrop_f_sc {s : State} : (modeDrop s).sc = s.sc :=
  (modeDrop_only ..).sc.resolve_left (by decide)
@[simp] theorem modeDrop_f_pcr {s : State} : (modeDrop s).pcr = s.pcr :=
  (modeDrop_only ..).pcr.resolve_left (by decide)
@[simp] theorem modeDrop_f_tb {s : State} : (modeDrop s).tb = s.tb :=
  (modeDrop_only ..).tb.resolve_left (by decide)
@[simp] theorem modeDrop_f_st {s : State} : (modeDrop s).st = s.st :=
  (modeDrop_only ..).st.resolve_left (by decide)
@[simp] theorem modeDrop_f_ev {s : State} : (modeDrop s).ev = s.ev :=
  (modeDrop_only ..).ev.resolve_left (by decide)
@[simp] theorem modeDrop_f_ib {s : State} : (modeDrop s).ib = s.ib :=
  (modeDrop_only ..).ib.resolve_left (by decide)
@[simp] theorem modeDrop_f_ps {s : State} : (modeDrop s).ps = s.ps :=
  (modeDrop_only ..).ps.resolve_left (by decide)
@[simp] theorem modeDrop_f_af {s : State} : (modeDrop s).af = s.af :=
  (modeDrop_only ..).af.resolve_left (by decide)
@[simp] theorem modeDrop_f_os {s : State} : (modeDrop s).os = s.os :=
  (modeDrop_only ..).os.resolve_left (by decide)
@[simp] theorem modeDrop_f_hp {s : State} : (modeDrop s).hp = s.hp :=
  (modeDrop_only ..).hp.resolve_left (by decide)
@[simp] theorem modeDrop_f_pl {s : State} : (modeDrop s).pl = s.pl :=
  (modeDrop_only ..).pl.resolve_left (by decide)
@[simp] theorem modeDrop_f_cv {s : State} : (modeDrop s).cv = s.cv :=
  (modeDrop_only ..).cv.resolve_left (by decide)
@[simp] theorem modeDrop_f_ms {s : State} : (modeDrop s).ms = s.ms :=
  (modeDrop_only ..).ms.resolve_left (by decide)
@[simp] theorem modeDrop_f_free {s : State} : (modeDrop s).free = s.free :=
  (modeDrop_only ..).free.resolve_left (by decide)

/-! `logPush` -/
@[simp] theorem logPush_f_pending {e : LogEntry} {s : State} : (logPush e s).pending = s.pending :=
  (logPush_only ..).pending.resolve_left (by decide)
@[simp] theorem logPush_f_dev {e : LogEntry} {s : State} : (logPush e s).dev = s.dev :=
  (logPush_only ..).dev.resolve_left (by decide)
@[simp] theorem logPush_f_devAt {e : LogEntry} {s : State} : (logPush e s).devAt = s.devAt :=
  (logPush_only ..).devAt.resolve_left (by decide)
@[simp] theorem logPush_f_bad {e : LogEntry} {s : State} : (logPush e s).bad = s.bad :=
  (logPush_only ..).bad.resolve_left (by decide)
@[simp] theorem logPush_f_sc {e : LogEntry} {s : State} : (logPush e s).sc = s.sc :=
  (logPush_only ..).sc.resolve_left (by decide)
@[simp] theorem logPush_f_pcr {e : LogEntry} {s : State} : (logPush e s).pcr = s.pcr :=
  (logPush_only ..).pcr.resolve_left (by decide)
@[simp] theorem logPush_f_tb {e : LogEntry} {s : State} : (logPush e s).tb = s.tb :=
  (logPush_only ..).tb.resolve_left (by decide)
@[simp] theorem logPush_f_st {e : LogEntry} {s : State} : (logPush e s).st = s.st :=
  (logPush_only ..).st.resolve_left (by decide)
@[simp] theorem logPush_f_ev {e : LogEntry} {s : State} : (logPush e s).ev = s.ev :=
  (logPush_only ..).ev.resolve_left (by decide)
@[simp] theorem logPush_f_ib {e : LogEntry} {s : State} : (logPush e s).ib = s.ib :=
  (logPush_only ..).ib.resolve_left (by decide)
@[simp] theorem logPush_f_ps {e : LogEntry} {s : State} : (logPush e s).ps = s.ps :=
  (logPush_only ..).ps.resolve_left (by decide)
@[simp] theorem logPush_f_af {e : LogEntry} {s : State} : (logPush e s).af = s.af :=
  (logPush_only ..).af.resolve_left (by decide)
@[simp] theorem logPush_f_os {e : LogEntry} {s : State} : (logPush e s).os = s.os :=
  (logPush_only ..).os.resolve_left (by decide)
@[simp] theorem logPush_f_wq {e : LogEntry} {s : State} : (logPush e s).wq = s.wq :=
  (logPush_only ..).wq.resolve_left (by decide)
@[simp] theorem logPush_f_pl {e : LogEntry} {s : State} : (logPush e s).pl = s.pl :=
  (logPush_only ..).pl.resolve_left (by decide)
@[simp] theorem logPush_f_cv {e : LogEntry} {s : State} : (logPush e s).cv = s.cv :=
  (logPush_only ..).cv.resolve_left (by decide)
@[simp] theorem logPush_f_free {e : LogEntry} {s : State} : (logPush e s).free = s.free :=
  (logPush_only ..).free.resolve_left (by decide)

/-! `recordAccess` -/
@[simp] theorem recordAccess_f_pending {b : Block} {p : Side} {off : Nat} {s : State} : (recordAccess b p off s).pending = s.pending :=
  (recordAccess_only ..).pending.resolve_left (by decide)
@[simp] theorem recordAccess_f_dev {b : Block} {p : Side} {off : Nat} {s : State} : (recordAccess b p off s).dev = s.dev :=
  (recordAccess_only ..).dev.resolve_left (by decide)
@[simp] theorem recordAccess_f_devAt {b : Block} {p : Side} {off : Nat} {s : State} : (recordAccess b p off s).devAt = s.devAt :=
  (recordAccess_only ..).devAt.resolve_left (by decide)
@[simp] theorem recordAccess_f_bad {b : Block} {p : Side} {off : Nat} {s : State} : (recordAccess b p off s).bad = s.bad :=
  (recordAccess_only ..).bad.resolve_left (by decide)
@[simp] theorem recordAccess_f_sc {b : Block} {p : Side} {off : Nat} {s : State} : (recordAccess b p off s).sc = s.sc :=
  (recordAccess_only ..).sc.resolve_left (by decide)
@[simp] theorem recordAccess_f_pcr {b : Block} {p : Side} {off : Nat} {s : State} : (recordAccess b p off s).pcr = s.pcr :=
  (recordAccess_only ..).pcr.resolve_left (by decide)
@[simp] theorem recordAccess_f_tb {b : Block} {p : Side} {off : Nat} {s : State} : (recordAccess b p off s).tb = s.tb :=
  (recordAccess_only ..).tb.resolve_left (by decide)
@[simp] theorem recordAccess_f_st {b : Block} {p : Side} {off : Nat} {s : State} : (recordAccess b p off s).st = s.st :=
  (recordAccess_only ..).st.resolve_left (by decide)
@[simp] theorem recordAccess_f_ev {b : Block} {p : Side} {off : Nat} {s : State} : (recordAccess b p off s).ev = s.ev :=
  (recordAccess_only ..).ev.resolve_left (by decide)
@[simp] theorem recordAccess_f_ib {b : Block} {p : Side} {off : Nat} {s : State} : (recordAccess b p off s).ib = s.ib :=
  (recordAccess_only ..).ib.resolve_left (by decide)
@[simp] theorem recordAccess_f_ps {b : Block} {p : Side} {off : Nat} {s : State} : (recordAccess b p off s).ps = s.ps :=
  (recordAccess_only ..).ps.resolve_left (by decide)
@[simp] theorem recordAccess_f_af {b : Block} {p : Side} {off : Nat} {s : State} : (recordAccess b p off s).af = s.af :=
  (recordAccess_only ..).af.resolve_left (by decide)
@[simp] theorem recordAccess_f_cv {b : Block} {p : Side} {off : Nat} {s : State} : (recordAccess b p off s).cv = s.cv :=
  (recordAccess_only ..).cv.resolve_left (by decide)
@[simp] theorem recordAccess_f_free {b : Block} {p : Side} {off : Nat} {s : State} : (recordAccess b p off s).free = s.free :=
  (recordAccess_only ..).free.resolve_left (by decide)

/-! `startTerminals` -/
@[simp] theorem startTerminals_f_pending {s : State} : (startTerminals s).pending = s.pending :=
  (startTerminals_only ..).pending.resolve_left (by decide)
@[simp] theorem startTerminals_f_dev {s : State} : (startTerminals s).dev = s.dev :=
  (startTerminals_only ..).dev.resolve_left (by decide)
@[simp] theorem startTerminals_f_devAt {s : State} : (startTerminals s).devAt = s.devAt :=
  (startTerminals_only ..).devAt.resolve_left (by decide)
@[simp] theorem startTerminals_f_bad {s : State} : (startTerminals s).bad = s.bad :=
  (startTerminals_only ..).bad.resolve_left (by decide)
@[simp] theorem startTerminals_f_fr {s : State} : (startTerminals s).fr = s.fr :=
  (startTerminals_only ..).fr.resolve_left (by decide)
@[simp] theorem startTerminals_f_sc {s : State} : (startTerminals s).sc = s.sc :=
  (startTerminals_only ..).sc.resolve_left (by decide)
@[simp] theorem startTerminals_f_pcr {s : State} : (startTerminals s).pcr = s.pcr :=
  (startTerminals_only ..).pcr.resolve_left (by decide)
@[simp] theorem startTerminals_f_tb {s : State} : (startTerminals s).tb = s.tb :=
  (startTerminals_only ..).tb.resolve_left (by decide)
@[simp] theorem startTerminals_f_st {s : State} : (startTerminals s).st = s.st :=
  (startTerminals_only ..).st.resolve_left (by decide)
@[simp] theorem startTerminals_f_ev {s : State} : (startTerminals s).ev = s.ev :=
  (startTerminals_only ..).ev.resolve_left (by decide)
@[simp] theorem startTerminals_f_af {s : State} : (startTerminals s).af = s.af :=
  (startTerminals_only ..).af.resolve_left (by decide)
@[simp] theorem startTerminals_f_hp {s : State} : (startTerminals s).hp = s.hp :=
  (startTerminals_only ..).hp.resolve_left (by decide)
@[simp] theorem startTerminals_f_wq {s : State} : (startTerminals s).wq = s.wq :=
  (startTerminals_only ..).wq.resolve_left (by decide)
@[simp] theorem startTerminals_f_pl {s : State} : (startTerminals s).pl = s.pl :=
  (startTerminals_only ..).pl.resolve_left (by decide)
@[simp] theorem startTerminals_f_cv {s : State} : (startTerminals s).cv = s.cv :=
  (startTerminals_only ..).cv.resolve_left (by decide)
@[simp] theorem startTerminals_f_ms {s : State} : (startTerminals s).ms = s.ms :=
  (startTerminals_only ..).ms.resolve_left (by decide)
@[simp] theorem startTerminals_f_free {s : State} : (startTerminals s).free = s.free :=
  (startTerminals_only ..).free.resolve_left (by decide)

/-! `scopeAborts` -/
@[simp] theorem scopeAborts_f_pending {scope item : Nat} {s : State} : (scopeAborts scope item s).pending = s.pending :=
  (scopeAborts_only ..).pending.resolve_left (by decide)
@[simp] theorem scopeAborts_f_dev {scope item : Nat} {s : State} : (scopeAborts scope item s).dev = s.dev :=
  (scopeAborts_only ..).dev.resolve_left (by decide)
@[simp] theorem scopeAborts_f_devAt {scope item : Nat} {s : State} : (scopeAborts scope item s).devAt = s.devAt :=
  (scopeAborts_only ..).devAt.resolve_left (by decide)
@[simp] theorem scopeAborts_f_bad {scope item : Nat} {s : State} : (scopeAborts scope item s).bad = s.bad :=
  (scopeAborts_only ..).bad.resolve_left (by decide)
@[simp] theorem scopeAborts_f_fr {scope item : Nat} {s : State} : (scopeAborts scope item s).fr = s.fr :=
  (scopeAborts_only ..).fr.resolve_left (by decide)
@[simp] theorem scopeAborts_f_sc {scope item : Nat} {s : State} : (scopeAborts scope item s).sc = s.sc :=
  (scopeAborts_only ..).sc.resolve_left (by decide)
@[simp] theorem scopeAborts_f_pcr {scope item : Nat} {s : State} : (scopeAborts scope item s).pcr = s.pcr :=
  (scopeAborts_only ..).pcr.resolve_left (by decide)
@[simp] theorem scopeAborts_f_tb {scope item : Nat} {s : State} : (scopeAborts scope item s).tb = s.tb :=
  (scopeAborts_only ..).tb.resolve_left (by decide)
@[simp] theorem scopeAborts_f_st {scope item : Nat} {s : State} : (scopeAborts scope item s).st = s.st :=
  (scopeAborts_only ..).st.resolve_left (by decide)
@[simp] theorem scopeAborts_f_ev {scope item : Nat} {s : State} : (scopeAborts scope item s).ev = s.ev :=
  (scopeAborts_only ..).ev.resolve_left (by decide)
@[simp] theorem scopeAborts_f_ib {scope item : Nat} {s : State} : (scopeAborts scope item s).ib = s.ib :=
  (scopeAborts_only ..).ib.resolve_left (by decide)
@[simp] theorem scopeAborts_f_ps {scope item : Nat} {s : State} : (scopeAborts scope item s).ps = s.ps :=
  (scopeAborts_only ..).ps.resolve_left (by decide)
@[simp] theorem scopeAborts_f_af {scope item : Nat} {s : State} : (scopeAborts scope item s).af = s.af :=
  (scopeAborts_only ..).af.resolve_left (by decide)
@[simp] theorem scopeAborts_f_os {scope item : Nat} {s : State} : (scopeAborts scope item s).os = s.os :=
  (scopeAborts_only ..).os.resolve_left (by decide)
@[simp] theorem scopeAborts_f_hp {scope item : Nat} {s : State} : (scopeAborts scope item s).hp = s.hp :=
  (scopeAborts_only ..).hp.resolve_left (by decide)
@[simp] theorem scopeAborts_f_cv {scope item : Nat} {s : State} : (scopeAborts scope item s).cv = s.cv :=
  (scopeAborts_only ..).cv.resolve_left (by decide)
@[simp] theorem scopeAborts_f_ms {scope item : Nat} {s : State} : (scopeAborts scope item s).ms = s.ms :=
  (scopeAborts_only ..).ms.resolve_left (by decide)
@[simp] theorem scopeAborts_f_free {scope item : Nat} {s : State} : (scopeAborts scope item s).free = s.free :=
  (scopeAborts_only ..).free.resolve_left (by decide)

/-! `logFault` -/
@[simp] theorem logFault_f_pending {kind : Nat} {e : Slot} {b : Block} {s : State} : (logFault kind e b s).pending = s.pending :=
  (logFault_only ..).pending.resolve_left (by decide)
@[simp] theorem logFault_f_dev {kind : Nat} {e : Slot} {b : Block} {s : State} : (logFault kind e b s).dev = s.dev :=
  (logFault_only ..).dev.resolve_left (by decide)
@[simp] theorem logFault_f_devAt {kind : Nat} {e : Slot} {b : Block} {s : State} : (logFault kind e b s).devAt = s.devAt :=
  (logFault_only ..).devAt.resolve_left (by decide)
@[simp] theorem logFault_f_bad {kind : Nat} {e : Slot} {b : Block} {s : State} : (logFault kind e b s).bad = s.bad :=
  (logFault_only ..).bad.resolve_left (by decide)
@[simp] theorem logFault_f_sc {kind : Nat} {e : Slot} {b : Block} {s : State} : (logFault kind e b s).sc = s.sc :=
  (logFault_only ..).sc.resolve_left (by decide)
@[simp] theorem logFault_f_pcr {kind : Nat} {e : Slot} {b : Block} {s : State} : (logFault kind e b s).pcr = s.pcr :=
  (logFault_only ..).pcr.resolve_left (by decide)
@[simp] theorem logFault_f_tb {kind : Nat} {e : Slot} {b : Block} {s : State} : (logFault kind e b s).tb = s.tb :=
  (logFault_only ..).tb.resolve_left (by decide)
@[simp] theorem logFault_f_st {kind : Nat} {e : Slot} {b : Block} {s : State} : (logFault kind e b s).st = s.st :=
  (logFault_only ..).st.resolve_left (by decide)
@[simp] theorem logFault_f_ev {kind : Nat} {e : Slot} {b : Block} {s : State} : (logFault kind e b s).ev = s.ev :=
  (logFault_only ..).ev.resolve_left (by decide)
@[simp] theorem logFault_f_ib {kind : Nat} {e : Slot} {b : Block} {s : State} : (logFault kind e b s).ib = s.ib :=
  (logFault_only ..).ib.resolve_left (by decide)
@[simp] theorem logFault_f_ps {kind : Nat} {e : Slot} {b : Block} {s : State} : (logFault kind e b s).ps = s.ps :=
  (logFault_only ..).ps.resolve_left (by decide)
@[simp] theorem logFault_f_af {kind : Nat} {e : Slot} {b : Block} {s : State} : (logFault kind e b s).af = s.af :=
  (logFault_only ..).af.resolve_left (by decide)
@[simp] theorem logFault_f_os {kind : Nat} {e : Slot} {b : Block} {s : State} : (logFault kind e b s).os = s.os :=
  (logFault_only ..).os.resolve_left (by decide)
@[simp] theorem logFault_f_wq {kind : Nat} {e : Slot} {b : Block} {s : State} : (logFault kind e b s).wq = s.wq :=
  (logFault_only ..).wq.resolve_left (by decide)
@[simp] theorem logFault_f_pl {kind : Nat} {e : Slot} {b : Block} {s : State} : (logFault kind e b s).pl = s.pl :=
  (logFault_only ..).pl.resolve_left (by decide)
@[simp] theorem logFault_f_cv {kind : Nat} {e : Slot} {b : Block} {s : State} : (logFault kind e b s).cv = s.cv :=
  (logFault_only ..).cv.resolve_left (by decide)
@[simp] theorem logFault_f_free {kind : Nat} {e : Slot} {b : Block} {s : State} : (logFault kind e b s).free = s.free :=
  (logFault_only ..).free.resolve_left (by decide)

/-! `abortBegun` -/
@[simp] theorem abortBegun_f_pending {f : Nat → Bool} {code : Nat} {s : State} : (abortBegun f code s).pending = s.pending :=
  (abortBegun_only ..).pending.resolve_left (by decide)
@[simp] theorem abortBegun_f_dev {f : Nat → Bool} {code : Nat} {s : State} : (abortBegun f code s).dev = s.dev :=
  (abortBegun_only ..).dev.resolve_left (by decide)
@[simp] theorem abortBegun_f_devAt {f : Nat → Bool} {code : Nat} {s : State} : (abortBegun f code s).devAt = s.devAt :=
  (abortBegun_only ..).devAt.resolve_left (by decide)
@[simp] theorem abortBegun_f_bad {f : Nat → Bool} {code : Nat} {s : State} : (abortBegun f code s).bad = s.bad :=
  (abortBegun_only ..).bad.resolve_left (by decide)
@[simp] theorem abortBegun_f_fr {f : Nat → Bool} {code : Nat} {s : State} : (abortBegun f code s).fr = s.fr :=
  (abortBegun_only ..).fr.resolve_left (by decide)
@[simp] theorem abortBegun_f_sc {f : Nat → Bool} {code : Nat} {s : State} : (abortBegun f code s).sc = s.sc :=
  (abortBegun_only ..).sc.resolve_left (by decide)
@[simp] theorem abortBegun_f_pcr {f : Nat → Bool} {code : Nat} {s : State} : (abortBegun f code s).pcr = s.pcr :=
  (abortBegun_only ..).pcr.resolve_left (by decide)
@[simp] theorem abortBegun_f_tb {f : Nat → Bool} {code : Nat} {s : State} : (abortBegun f code s).tb = s.tb :=
  (abortBegun_only ..).tb.resolve_left (by decide)
@[simp] theorem abortBegun_f_st {f : Nat → Bool} {code : Nat} {s : State} : (abortBegun f code s).st = s.st :=
  (abortBegun_only ..).st.resolve_left (by decide)
@[simp] theorem abortBegun_f_ev {f : Nat → Bool} {code : Nat} {s : State} : (abortBegun f code s).ev = s.ev :=
  (abortBegun_only ..).ev.resolve_left (by decide)
@[simp] theorem abortBegun_f_ib {f : Nat → Bool} {code : Nat} {s : State} : (abortBegun f code s).ib = s.ib :=
  (abortBegun_only ..).ib.resolve_left (by decide)
@[simp] theorem abortBegun_f_ps {f : Nat → Bool} {code : Nat} {s : State} : (abortBegun f code s).ps = s.ps :=
  (abortBegun_only ..).ps.resolve_left (by decide)
@[simp] theorem abortBegun_f_af {f : Nat → Bool} {code : Nat} {s : State} : (abortBegun f code s).af = s.af :=
  (abortBegun_only ..).af.resolve_left (by decide)
@[simp] theorem abortBegun_f_os {f : Nat → Bool} {code : Nat} {s : State} : (abortBegun f code s).os = s.os :=
  (abortBegun_only ..).os.resolve_left (by decide)
@[simp] theorem abortBegun_f_hp {f : Nat → Bool} {code : Nat} {s : State} : (abortBegun f code s).hp = s.hp :=
  (abortBegun_only ..).hp.resolve_left (by decide)
@[simp] theorem abortBegun_f_pl {f : Nat → Bool} {code : Nat} {s : State} : (abortBegun f code s).pl = s.pl :=
  (abortBegun_only ..).pl.resolve_left (by decide)
@[simp] theorem abortBegun_f_cv {f : Nat → Bool} {code : Nat} {s : State} : (abortBegun f code s).cv = s.cv :=
  (abortBegun_only ..).cv.resolve_left (by decide)
@[simp] theorem abortBegun_f_ms {f : Nat → Bool} {code : Nat} {s : State} : (abortBegun f code s).ms = s.ms :=
  (abortBegun_only ..).ms.resolve_left (by decide)
@[simp] theorem abortBegun_f_free {f : Nat → Bool} {code : Nat} {s : State} : (abortBegun f code s).free = s.free :=
  (abortBegun_only ..).free.resolve_left (by decide)

/-! `recordFault` of a corrected fault -/
@[simp] theorem recordFault_corr_f_pending {f : FaultRep} {s : State} (hc : f.cls = .corrected) : (recordFault f s).pending = s.pending :=
  (recordFault_corr_nx (M := 385040) (Only.refl _ s) hc rfl).pending.resolve_left (by decide)
@[simp] theorem recordFault_corr_f_dev {f : FaultRep} {s : State} (hc : f.cls = .corrected) : (recordFault f s).dev = s.dev :=
  (recordFault_corr_nx (M := 385040) (Only.refl _ s) hc rfl).dev.resolve_left (by decide)
@[simp] theorem recordFault_corr_f_devAt {f : FaultRep} {s : State} (hc : f.cls = .corrected) : (recordFault f s).devAt = s.devAt :=
  (recordFault_corr_nx (M := 385040) (Only.refl _ s) hc rfl).devAt.resolve_left (by decide)
@[simp] theorem recordFault_corr_f_bad {f : FaultRep} {s : State} (hc : f.cls = .corrected) : (recordFault f s).bad = s.bad :=
  (recordFault_corr_nx (M := 385040) (Only.refl _ s) hc rfl).bad.resolve_left (by decide)
@[simp] theorem recordFault_corr_f_sc {f : FaultRep} {s : State} (hc : f.cls = .corrected) : (recordFault f s).sc = s.sc :=
  (recordFault_corr_nx (M := 385040) (Only.refl _ s) hc rfl).sc.resolve_left (by decide)
@[simp] theorem recordFault_corr_f_pcr {f : FaultRep} {s : State} (hc : f.cls = .corrected) : (recordFault f s).pcr = s.pcr :=
  (recordFault_corr_nx (M := 385040) (Only.refl _ s) hc rfl).pcr.resolve_left (by decide)
@[simp] theorem recordFault_corr_f_tb {f : FaultRep} {s : State} (hc : f.cls = .corrected) : (recordFault f s).tb = s.tb :=
  (recordFault_corr_nx (M := 385040) (Only.refl _ s) hc rfl).tb.resolve_left (by decide)
@[simp] theorem recordFault_corr_f_st {f : FaultRep} {s : State} (hc : f.cls = .corrected) : (recordFault f s).st = s.st :=
  (recordFault_corr_nx (M := 385040) (Only.refl _ s) hc rfl).st.resolve_left (by decide)
@[simp] theorem recordFault_corr_f_ev {f : FaultRep} {s : State} (hc : f.cls = .corrected) : (recordFault f s).ev = s.ev :=
  (recordFault_corr_nx (M := 385040) (Only.refl _ s) hc rfl).ev.resolve_left (by decide)
@[simp] theorem recordFault_corr_f_ib {f : FaultRep} {s : State} (hc : f.cls = .corrected) : (recordFault f s).ib = s.ib :=
  (recordFault_corr_nx (M := 385040) (Only.refl _ s) hc rfl).ib.resolve_left (by decide)
@[simp] theorem recordFault_corr_f_ps {f : FaultRep} {s : State} (hc : f.cls = .corrected) : (recordFault f s).ps = s.ps :=
  (recordFault_corr_nx (M := 385040) (Only.refl _ s) hc rfl).ps.resolve_left (by decide)
@[simp] theorem recordFault_corr_f_af {f : FaultRep} {s : State} (hc : f.cls = .corrected) : (recordFault f s).af = s.af :=
  (recordFault_corr_nx (M := 385040) (Only.refl _ s) hc rfl).af.resolve_left (by decide)
@[simp] theorem recordFault_corr_f_cv {f : FaultRep} {s : State} (hc : f.cls = .corrected) : (recordFault f s).cv = s.cv :=
  (recordFault_corr_nx (M := 385040) (Only.refl _ s) hc rfl).cv.resolve_left (by decide)
@[simp] theorem recordFault_corr_f_free {f : FaultRep} {s : State} (hc : f.cls = .corrected) : (recordFault f s).free = s.free :=
  (recordFault_corr_nx (M := 385040) (Only.refl _ s) hc rfl).free.resolve_left (by decide)

/-! `recordPulse` of a corrected fault -/
@[simp] theorem recordPulse_corr_f_pending {f : FaultRep} {s : State} (hc : f.cls = .corrected) : (recordPulse f s).pending = s.pending :=
  (recordPulse_corr_nx (M := 385040) (Only.refl _ s) hc rfl).pending.resolve_left (by decide)
@[simp] theorem recordPulse_corr_f_dev {f : FaultRep} {s : State} (hc : f.cls = .corrected) : (recordPulse f s).dev = s.dev :=
  (recordPulse_corr_nx (M := 385040) (Only.refl _ s) hc rfl).dev.resolve_left (by decide)
@[simp] theorem recordPulse_corr_f_devAt {f : FaultRep} {s : State} (hc : f.cls = .corrected) : (recordPulse f s).devAt = s.devAt :=
  (recordPulse_corr_nx (M := 385040) (Only.refl _ s) hc rfl).devAt.resolve_left (by decide)
@[simp] theorem recordPulse_corr_f_bad {f : FaultRep} {s : State} (hc : f.cls = .corrected) : (recordPulse f s).bad = s.bad :=
  (recordPulse_corr_nx (M := 385040) (Only.refl _ s) hc rfl).bad.resolve_left (by decide)
@[simp] theorem recordPulse_corr_f_sc {f : FaultRep} {s : State} (hc : f.cls = .corrected) : (recordPulse f s).sc = s.sc :=
  (recordPulse_corr_nx (M := 385040) (Only.refl _ s) hc rfl).sc.resolve_left (by decide)
@[simp] theorem recordPulse_corr_f_pcr {f : FaultRep} {s : State} (hc : f.cls = .corrected) : (recordPulse f s).pcr = s.pcr :=
  (recordPulse_corr_nx (M := 385040) (Only.refl _ s) hc rfl).pcr.resolve_left (by decide)
@[simp] theorem recordPulse_corr_f_tb {f : FaultRep} {s : State} (hc : f.cls = .corrected) : (recordPulse f s).tb = s.tb :=
  (recordPulse_corr_nx (M := 385040) (Only.refl _ s) hc rfl).tb.resolve_left (by decide)
@[simp] theorem recordPulse_corr_f_st {f : FaultRep} {s : State} (hc : f.cls = .corrected) : (recordPulse f s).st = s.st :=
  (recordPulse_corr_nx (M := 385040) (Only.refl _ s) hc rfl).st.resolve_left (by decide)
@[simp] theorem recordPulse_corr_f_ev {f : FaultRep} {s : State} (hc : f.cls = .corrected) : (recordPulse f s).ev = s.ev :=
  (recordPulse_corr_nx (M := 385040) (Only.refl _ s) hc rfl).ev.resolve_left (by decide)
@[simp] theorem recordPulse_corr_f_ib {f : FaultRep} {s : State} (hc : f.cls = .corrected) : (recordPulse f s).ib = s.ib :=
  (recordPulse_corr_nx (M := 385040) (Only.refl _ s) hc rfl).ib.resolve_left (by decide)
@[simp] theorem recordPulse_corr_f_ps {f : FaultRep} {s : State} (hc : f.cls = .corrected) : (recordPulse f s).ps = s.ps :=
  (recordPulse_corr_nx (M := 385040) (Only.refl _ s) hc rfl).ps.resolve_left (by decide)
@[simp] theorem recordPulse_corr_f_af {f : FaultRep} {s : State} (hc : f.cls = .corrected) : (recordPulse f s).af = s.af :=
  (recordPulse_corr_nx (M := 385040) (Only.refl _ s) hc rfl).af.resolve_left (by decide)
@[simp] theorem recordPulse_corr_f_cv {f : FaultRep} {s : State} (hc : f.cls = .corrected) : (recordPulse f s).cv = s.cv :=
  (recordPulse_corr_nx (M := 385040) (Only.refl _ s) hc rfl).cv.resolve_left (by decide)
@[simp] theorem recordPulse_corr_f_free {f : FaultRep} {s : State} (hc : f.cls = .corrected) : (recordPulse f s).free = s.free :=
  (recordPulse_corr_nx (M := 385040) (Only.refl _ s) hc rfl).free.resolve_left (by decide)

/-! `recordFault` of a contained fault -/
@[simp] theorem recordFault_cont_f_pending {f : FaultRep} {s : State} (hc : f.cls = .contained) : (recordFault f s).pending = s.pending :=
  (recordFault_cont_nx (M := 385048) (Only.refl _ s) hc rfl).pending.resolve_left (by decide)
@[simp] theorem recordFault_cont_f_dev {f : FaultRep} {s : State} (hc : f.cls = .contained) : (recordFault f s).dev = s.dev :=
  (recordFault_cont_nx (M := 385048) (Only.refl _ s) hc rfl).dev.resolve_left (by decide)
@[simp] theorem recordFault_cont_f_devAt {f : FaultRep} {s : State} (hc : f.cls = .contained) : (recordFault f s).devAt = s.devAt :=
  (recordFault_cont_nx (M := 385048) (Only.refl _ s) hc rfl).devAt.resolve_left (by decide)
@[simp] theorem recordFault_cont_f_sc {f : FaultRep} {s : State} (hc : f.cls = .contained) : (recordFault f s).sc = s.sc :=
  (recordFault_cont_nx (M := 385048) (Only.refl _ s) hc rfl).sc.resolve_left (by decide)
@[simp] theorem recordFault_cont_f_pcr {f : FaultRep} {s : State} (hc : f.cls = .contained) : (recordFault f s).pcr = s.pcr :=
  (recordFault_cont_nx (M := 385048) (Only.refl _ s) hc rfl).pcr.resolve_left (by decide)
@[simp] theorem recordFault_cont_f_tb {f : FaultRep} {s : State} (hc : f.cls = .contained) : (recordFault f s).tb = s.tb :=
  (recordFault_cont_nx (M := 385048) (Only.refl _ s) hc rfl).tb.resolve_left (by decide)
@[simp] theorem recordFault_cont_f_st {f : FaultRep} {s : State} (hc : f.cls = .contained) : (recordFault f s).st = s.st :=
  (recordFault_cont_nx (M := 385048) (Only.refl _ s) hc rfl).st.resolve_left (by decide)
@[simp] theorem recordFault_cont_f_ev {f : FaultRep} {s : State} (hc : f.cls = .contained) : (recordFault f s).ev = s.ev :=
  (recordFault_cont_nx (M := 385048) (Only.refl _ s) hc rfl).ev.resolve_left (by decide)
@[simp] theorem recordFault_cont_f_ib {f : FaultRep} {s : State} (hc : f.cls = .contained) : (recordFault f s).ib = s.ib :=
  (recordFault_cont_nx (M := 385048) (Only.refl _ s) hc rfl).ib.resolve_left (by decide)
@[simp] theorem recordFault_cont_f_ps {f : FaultRep} {s : State} (hc : f.cls = .contained) : (recordFault f s).ps = s.ps :=
  (recordFault_cont_nx (M := 385048) (Only.refl _ s) hc rfl).ps.resolve_left (by decide)
@[simp] theorem recordFault_cont_f_af {f : FaultRep} {s : State} (hc : f.cls = .contained) : (recordFault f s).af = s.af :=
  (recordFault_cont_nx (M := 385048) (Only.refl _ s) hc rfl).af.resolve_left (by decide)
@[simp] theorem recordFault_cont_f_cv {f : FaultRep} {s : State} (hc : f.cls = .contained) : (recordFault f s).cv = s.cv :=
  (recordFault_cont_nx (M := 385048) (Only.refl _ s) hc rfl).cv.resolve_left (by decide)
@[simp] theorem recordFault_cont_f_free {f : FaultRep} {s : State} (hc : f.cls = .contained) : (recordFault f s).free = s.free :=
  (recordFault_cont_nx (M := 385048) (Only.refl _ s) hc rfl).free.resolve_left (by decide)

/-! `recordPulse` of a contained fault -/
@[simp] theorem recordPulse_cont_f_pending {f : FaultRep} {s : State} (hc : f.cls = .contained) : (recordPulse f s).pending = s.pending :=
  (recordPulse_cont_nx (M := 385048) (Only.refl _ s) hc rfl).pending.resolve_left (by decide)
@[simp] theorem recordPulse_cont_f_dev {f : FaultRep} {s : State} (hc : f.cls = .contained) : (recordPulse f s).dev = s.dev :=
  (recordPulse_cont_nx (M := 385048) (Only.refl _ s) hc rfl).dev.resolve_left (by decide)
@[simp] theorem recordPulse_cont_f_devAt {f : FaultRep} {s : State} (hc : f.cls = .contained) : (recordPulse f s).devAt = s.devAt :=
  (recordPulse_cont_nx (M := 385048) (Only.refl _ s) hc rfl).devAt.resolve_left (by decide)
@[simp] theorem recordPulse_cont_f_sc {f : FaultRep} {s : State} (hc : f.cls = .contained) : (recordPulse f s).sc = s.sc :=
  (recordPulse_cont_nx (M := 385048) (Only.refl _ s) hc rfl).sc.resolve_left (by decide)
@[simp] theorem recordPulse_cont_f_pcr {f : FaultRep} {s : State} (hc : f.cls = .contained) : (recordPulse f s).pcr = s.pcr :=
  (recordPulse_cont_nx (M := 385048) (Only.refl _ s) hc rfl).pcr.resolve_left (by decide)
@[simp] theorem recordPulse_cont_f_tb {f : FaultRep} {s : State} (hc : f.cls = .contained) : (recordPulse f s).tb = s.tb :=
  (recordPulse_cont_nx (M := 385048) (Only.refl _ s) hc rfl).tb.resolve_left (by decide)
@[simp] theorem recordPulse_cont_f_st {f : FaultRep} {s : State} (hc : f.cls = .contained) : (recordPulse f s).st = s.st :=
  (recordPulse_cont_nx (M := 385048) (Only.refl _ s) hc rfl).st.resolve_left (by decide)
@[simp] theorem recordPulse_cont_f_ev {f : FaultRep} {s : State} (hc : f.cls = .contained) : (recordPulse f s).ev = s.ev :=
  (recordPulse_cont_nx (M := 385048) (Only.refl _ s) hc rfl).ev.resolve_left (by decide)
@[simp] theorem recordPulse_cont_f_ib {f : FaultRep} {s : State} (hc : f.cls = .contained) : (recordPulse f s).ib = s.ib :=
  (recordPulse_cont_nx (M := 385048) (Only.refl _ s) hc rfl).ib.resolve_left (by decide)
@[simp] theorem recordPulse_cont_f_ps {f : FaultRep} {s : State} (hc : f.cls = .contained) : (recordPulse f s).ps = s.ps :=
  (recordPulse_cont_nx (M := 385048) (Only.refl _ s) hc rfl).ps.resolve_left (by decide)
@[simp] theorem recordPulse_cont_f_af {f : FaultRep} {s : State} (hc : f.cls = .contained) : (recordPulse f s).af = s.af :=
  (recordPulse_cont_nx (M := 385048) (Only.refl _ s) hc rfl).af.resolve_left (by decide)
@[simp] theorem recordPulse_cont_f_cv {f : FaultRep} {s : State} (hc : f.cls = .contained) : (recordPulse f s).cv = s.cv :=
  (recordPulse_cont_nx (M := 385048) (Only.refl _ s) hc rfl).cv.resolve_left (by decide)
@[simp] theorem recordPulse_cont_f_free {f : FaultRep} {s : State} (hc : f.cls = .contained) : (recordPulse f s).free = s.free :=
  (recordPulse_cont_nx (M := 385048) (Only.refl _ s) hc rfl).free.resolve_left (by decide)

/-! `recordCore` of a contained fault -/
@[simp] theorem recordCore_cont_f_pending {f : FaultRep} {s : State} (hc : f.cls = .contained) : (recordCore f s).pending = s.pending :=
  (recordCore_cont_nx (M := 385040) (Only.refl _ s) hc rfl).pending.resolve_left (by decide)
@[simp] theorem recordCore_cont_f_dev {f : FaultRep} {s : State} (hc : f.cls = .contained) : (recordCore f s).dev = s.dev :=
  (recordCore_cont_nx (M := 385040) (Only.refl _ s) hc rfl).dev.resolve_left (by decide)
@[simp] theorem recordCore_cont_f_devAt {f : FaultRep} {s : State} (hc : f.cls = .contained) : (recordCore f s).devAt = s.devAt :=
  (recordCore_cont_nx (M := 385040) (Only.refl _ s) hc rfl).devAt.resolve_left (by decide)
@[simp] theorem recordCore_cont_f_bad {f : FaultRep} {s : State} (hc : f.cls = .contained) : (recordCore f s).bad = s.bad :=
  (recordCore_cont_nx (M := 385040) (Only.refl _ s) hc rfl).bad.resolve_left (by decide)
@[simp] theorem recordCore_cont_f_sc {f : FaultRep} {s : State} (hc : f.cls = .contained) : (recordCore f s).sc = s.sc :=
  (recordCore_cont_nx (M := 385040) (Only.refl _ s) hc rfl).sc.resolve_left (by decide)
@[simp] theorem recordCore_cont_f_pcr {f : FaultRep} {s : State} (hc : f.cls = .contained) : (recordCore f s).pcr = s.pcr :=
  (recordCore_cont_nx (M := 385040) (Only.refl _ s) hc rfl).pcr.resolve_left (by decide)
@[simp] theorem recordCore_cont_f_tb {f : FaultRep} {s : State} (hc : f.cls = .contained) : (recordCore f s).tb = s.tb :=
  (recordCore_cont_nx (M := 385040) (Only.refl _ s) hc rfl).tb.resolve_left (by decide)
@[simp] theorem recordCore_cont_f_st {f : FaultRep} {s : State} (hc : f.cls = .contained) : (recordCore f s).st = s.st :=
  (recordCore_cont_nx (M := 385040) (Only.refl _ s) hc rfl).st.resolve_left (by decide)
@[simp] theorem recordCore_cont_f_ev {f : FaultRep} {s : State} (hc : f.cls = .contained) : (recordCore f s).ev = s.ev :=
  (recordCore_cont_nx (M := 385040) (Only.refl _ s) hc rfl).ev.resolve_left (by decide)
@[simp] theorem recordCore_cont_f_ib {f : FaultRep} {s : State} (hc : f.cls = .contained) : (recordCore f s).ib = s.ib :=
  (recordCore_cont_nx (M := 385040) (Only.refl _ s) hc rfl).ib.resolve_left (by decide)
@[simp] theorem recordCore_cont_f_ps {f : FaultRep} {s : State} (hc : f.cls = .contained) : (recordCore f s).ps = s.ps :=
  (recordCore_cont_nx (M := 385040) (Only.refl _ s) hc rfl).ps.resolve_left (by decide)
@[simp] theorem recordCore_cont_f_af {f : FaultRep} {s : State} (hc : f.cls = .contained) : (recordCore f s).af = s.af :=
  (recordCore_cont_nx (M := 385040) (Only.refl _ s) hc rfl).af.resolve_left (by decide)
@[simp] theorem recordCore_cont_f_cv {f : FaultRep} {s : State} (hc : f.cls = .contained) : (recordCore f s).cv = s.cv :=
  (recordCore_cont_nx (M := 385040) (Only.refl _ s) hc rfl).cv.resolve_left (by decide)
@[simp] theorem recordCore_cont_f_free {f : FaultRep} {s : State} (hc : f.cls = .contained) : (recordCore f s).free = s.free :=
  (recordCore_cont_nx (M := 385040) (Only.refl _ s) hc rfl).free.resolve_left (by decide)

end Sys2Proof.Machine
end

