-- ==== Sys2Proof/Laws/FrameInputs.lean ====
section
/-!
SUPPORT. Sys2Proof/Laws/FrameInputs.lean: the frames of the operations and commands of Machine/Inputs.lean: `op_only` names all that an
operation can change; `op_nx` is the same at the end of a chain of operations.
-/
set_option linter.unusedSimpArgs false
set_option linter.unusedVariables false
namespace Sys2Proof.Machine
theorem ibFault_only (cause : Nat) (i : Fin 128) (s : State) : Only 385048 s (ibFault cause i s) := by
  unfold ibFault
  repeat' (first
      | (with_reducible exact Only.refl _ _) | (with_reducible assumption)
      | (simp (maxDischargeDepth := 20) (contextual := true) only [Only.ite, Only.refl, Only.foldl, implies_true,
          reduceCtorEq, Nat.reduceOr, recordFault_cont_nx, *]; done)
      | (with_reducible refine Only.foldl _ _ ?_ (fun t x ht => ?_)) | split | (dsimp only; split)
      | (with_reducible refine recordFault_cont_nx ?_ rfl))
theorem ibFault_nx {M : Nat} {s tS : State} {cause : Nat} {i : Fin 128} (hOnly : Only M s tS) (hSub : M ||| 385048 = M) :
    Only M s (ibFault cause i tS) :=
  hOnly.step (ibFault_only ..) hSub
theorem dipFault_only (cause : Nat) (i : Fin 128) (foreign : Nat) (s : State) :
    Only 385048 s (dipFault cause i foreign s) := by
  unfold dipFault
  repeat' (first
      | (with_reducible exact Only.refl _ _) | (with_reducible assumption)
      | (simp (maxDischargeDepth := 20) (contextual := true) only [Only.ite, Only.refl, Only.foldl, implies_true,
          reduceCtorEq, Nat.reduceOr, recordFault_cont_nx, *]; done)
      | (with_reducible refine Only.foldl _ _ ?_ (fun t x ht => ?_)) | split | (dsimp only; split)
      | (with_reducible refine recordFault_cont_nx ?_ rfl))
theorem dipFault_nx {M : Nat} {s tS : State} {cause : Nat} {i : Fin 128} {foreign : Nat} (hOnly : Only M s tS) (hSub :
    M ||| 385048 = M) : Only M s (dipFault cause i foreign tS) :=
  hOnly.step (dipFault_only ..) hSub
theorem sourceFault_only (cause : Nat) (k : Fin 32) (s : State) : Only 385048 s (sourceFault cause k s) := by
  unfold sourceFault
  repeat' (first
      | (with_reducible exact Only.refl _ _) | (with_reducible assumption)
      | (simp (maxDischargeDepth := 20) (contextual := true) only [Only.ite, Only.refl, Only.foldl, implies_true,
          reduceCtorEq, Nat.reduceOr, recordFault_cont_nx, *]; done)
      | (with_reducible refine Only.foldl _ _ ?_ (fun t x ht => ?_)) | split | (dsimp only; split)
      | (with_reducible refine recordFault_cont_nx ?_ rfl))
theorem sourceFault_nx {M : Nat} {s tS : State} {cause : Nat} {k : Fin 32} (hOnly : Only M s tS) (hSub : M ||| 385048 = M) :
    Only M s (sourceFault cause k tS) :=
  hOnly.step (sourceFault_only ..) hSub
theorem thrTest_only (i : Fin 128) (steps : BitVec 5) (s : State) : Only 386072 s (thrTest i steps s) := by
  unfold thrTest
  repeat' (first
      | (with_reducible exact Only.refl _ _) | (with_reducible assumption)
      | (simp (maxDischargeDepth := 20) (contextual := true) only [Only.ite, Only.refl, Only.foldl, implies_true,
          reduceCtorEq, Nat.reduceOr, ibFault_nx, modIb_nx, modInput_nx, *]; done)
      | (with_reducible refine Only.foldl _ _ ?_ (fun t x ht => ?_)) | split | (dsimp only; split)
      | (with_reducible refine ibFault_nx ?_ rfl) | (with_reducible refine modIb_nx ?_ rfl)
      | (with_reducible refine modInput_nx ?_ rfl))
theorem thrTest_nx {M : Nat} {s tS : State} {i : Fin 128} {steps : BitVec 5} (hOnly : Only M s tS) (hSub :
    M ||| 386072 = M) : Only M s (thrTest i steps tS) :=
  hOnly.step (thrTest_only ..) hSub
theorem execThrHandover_only (i : Fin 128) (s : State) : OnlyO 1040 s (execThrHandover i s) := by
  unfold execThrHandover
  refine OnlyO.next ?_
  repeat' (first
      | (with_reducible exact Only.refl _ _) | (with_reducible assumption)
      | (simp (maxDischargeDepth := 20) (contextual := true) only [Only.ite, Only.refl, Only.foldl, implies_true,
          reduceCtorEq, Nat.reduceOr, causeAbsent_nx, modInput_nx, *]; done)
      | (with_reducible refine Only.foldl _ _ ?_ (fun t x ht => ?_)) | split | (dsimp only; split)
      | (with_reducible refine causeAbsent_nx ?_ rfl) | (with_reducible refine modInput_nx ?_ rfl))
theorem execThrHandoverTimeout_only (i : Fin 128) (s : State) : OnlyO 386072 s (execThrHandoverTimeout i s) := by
  unfold execThrHandoverTimeout
  refine OnlyO.next ?_
  repeat' (first
      | (with_reducible exact Only.refl _ _) | (with_reducible assumption)
      | (simp (maxDischargeDepth := 20) (contextual := true) only [Only.ite, Only.refl, Only.foldl, implies_true,
          reduceCtorEq, Nat.reduceOr, ibFault_nx, modInput_nx, *]; done)
      | (with_reducible refine Only.foldl _ _ ?_ (fun t x ht => ?_)) | split | (dsimp only; split)
      | (with_reducible refine ibFault_nx ?_ rfl) | (with_reducible refine modInput_nx ?_ rfl))
theorem execComparatorDisagree_only (i : Fin 128) (s : State) : OnlyO 386072 s (execComparatorDisagree i s) := by
  unfold execComparatorDisagree
  refine OnlyO.next ?_
  repeat' (first
      | (with_reducible exact Only.refl _ _) | (with_reducible assumption)
      | (simp (maxDischargeDepth := 20) (contextual := true) only [Only.ite, Only.refl, Only.foldl, implies_true,
          reduceCtorEq, Nat.reduceOr, ibFault_nx, modInput_nx, *]; done)
      | (with_reducible refine Only.foldl _ _ ?_ (fun t x ht => ?_)) | split | (dsimp only; split)
      | (with_reducible refine ibFault_nx ?_ rfl) | (with_reducible refine modInput_nx ?_ rfl))
theorem foreignMatch_only (i : Fin 128) (k : Fin 32) (dipNo : Nat) (s : State) :
    Only 388120 s (foreignMatch i k dipNo s) := by
  unfold foreignMatch
  repeat' (first
      | (with_reducible exact Only.refl _ _) | (with_reducible assumption)
      | (simp (maxDischargeDepth := 20) (contextual := true) only [Only.ite, Only.refl, Only.foldl, implies_true,
          reduceCtorEq, Nat.reduceOr, causeAgain_nx, dipFault_nx, modInput_nx, modPs_nx, *]; done)
      | (with_reducible refine Only.foldl _ _ ?_ (fun t x ht => ?_)) | split | (dsimp only; split)
      | (with_reducible refine causeAgain_nx ?_ rfl) | (with_reducible refine dipFault_nx ?_ rfl)
      | (with_reducible refine modInput_nx ?_ rfl) | (with_reducible refine modPs_nx ?_ rfl))
theorem foreignMatch_nx {M : Nat} {s tS : State} {i : Fin 128} {k : Fin 32} {dipNo : Nat} (hOnly : Only M s tS) (hSub :
    M ||| 388120 = M) : Only M s (foreignMatch i k dipNo tS) :=
  hOnly.step (foreignMatch_only ..) hSub
theorem lowEnds_only (i : Fin 128) (u : Tick) (s : State) : Only 388120 s (lowEnds i u s) := by
  unfold lowEnds
  repeat' (first
      | (with_reducible exact Only.refl _ _) | (with_reducible assumption)
      | (simp (maxDischargeDepth := 20) (contextual := true) only [Only.ite, Only.refl, Only.foldl, implies_true,
          reduceCtorEq, Nat.reduceOr, foreignMatch_nx, *]; done)
      | (with_reducible refine Only.foldl _ _ ?_ (fun t x ht => ?_)) | split | (dsimp only; split)
      | (with_reducible refine foreignMatch_nx ?_ rfl))
theorem lowEnds_nx {M : Nat} {s tS : State} {i : Fin 128} {u : Tick} (hOnly : Only M s tS) (hSub : M ||| 388120 = M) :
    Only M s (lowEnds i u tS) :=
  hOnly.step (lowEnds_only ..) hSub
theorem markPartner_only (c : InputCfg) (u : Tick) (s : State) : Only 1024 s (markPartner c u s) := by
  unfold markPartner
  repeat' (first
      | (with_reducible exact Only.refl _ _) | (with_reducible assumption)
      | (simp (maxDischargeDepth := 20) (contextual := true) only [Only.ite, Only.refl, Only.foldl, implies_true,
          reduceCtorEq, Nat.reduceOr, modInput_nx, *]; done)
      | (with_reducible refine Only.foldl _ _ ?_ (fun t x ht => ?_)) | split | (dsimp only; split)
      | (with_reducible refine modInput_nx ?_ rfl))
theorem markPartner_nx {M : Nat} {s tS : State} {c : InputCfg} {u : Tick} (hOnly : Only M s tS) (hSub : M ||| 1024 = M) :
    Only M s (markPartner c u tS) :=
  hOnly.step (markPartner_only ..) hSub
theorem execInputChange_only (i : Fin 128) (high chk : Bool) (zone : VoltZone) (s : State) :
    OnlyO 388120 s (execInputChange i high chk zone s) := by
  unfold execInputChange
  refine OnlyO.next ?_
  repeat' (first
      | (with_reducible exact Only.refl _ _) | (with_reducible assumption)
      | (simp (maxDischargeDepth := 20) (contextual := true) only [Only.ite, Only.refl, Only.foldl, implies_true,
          reduceCtorEq, Nat.reduceOr, causeAbsent_nx, lowEnds_nx, markPartner_nx, modInput_nx, settleInput_nx, *]; done)
      | (with_reducible refine Only.foldl _ _ ?_ (fun t x ht => ?_)) | split | (dsimp only; split)
      | (with_reducible refine causeAbsent_nx ?_ rfl) | (with_reducible refine lowEnds_nx ?_ rfl)
      | (with_reducible refine markPartner_nx ?_ rfl) | (with_reducible refine modInput_nx ?_ rfl)
      | (with_reducible refine settleInput_nx ?_ rfl))
theorem execInputFilterExpiry_only (i : Fin 128) (s : State) : OnlyO 1024 s (execInputFilterExpiry i s) := by
  unfold execInputFilterExpiry
  refine OnlyO.next ?_
  repeat' (first
      | (with_reducible exact Only.refl _ _) | (with_reducible assumption)
      | (simp (maxDischargeDepth := 20) (contextual := true) only [Only.ite, Only.refl, Only.foldl, implies_true,
          reduceCtorEq, Nat.reduceOr, settleInput_nx, *]; done)
      | (with_reducible refine Only.foldl _ _ ?_ (fun t x ht => ?_)) | split | (dsimp only; split)
      | (with_reducible refine settleInput_nx ?_ rfl))
theorem execOssdBridgeRelease_only (i : Fin 128) (s : State) : OnlyO 1024 s (execOssdBridgeRelease i s) := by
  unfold execOssdBridgeRelease
  refine OnlyO.next ?_
  repeat' (first
      | (with_reducible exact Only.refl _ _) | (with_reducible assumption)
      | (simp (maxDischargeDepth := 20) (contextual := true) only [Only.ite, Only.refl, Only.foldl, implies_true,
          reduceCtorEq, Nat.reduceOr, modInput_nx, settleInput_nx, *]; done)
      | (with_reducible refine Only.foldl _ _ ?_ (fun t x ht => ?_)) | split | (dsimp only; split)
      | (with_reducible refine modInput_nx ?_ rfl) | (with_reducible refine settleInput_nx ?_ rfl))
theorem execOssdGapExpiry_only (i : Fin 128) (s : State) : OnlyO 1024 s (execOssdGapExpiry i s) := by
  unfold execOssdGapExpiry
  refine OnlyO.next ?_
  repeat' (first
      | (with_reducible exact Only.refl _ _) | (with_reducible assumption)
      | (simp (maxDischargeDepth := 20) (contextual := true) only [Only.ite, Only.refl, Only.foldl, implies_true,
          reduceCtorEq, Nat.reduceOr, modInput_nx, *]; done)
      | (with_reducible refine Only.foldl _ _ ?_ (fun t x ht => ?_)) | split | (dsimp only; split)
      | (with_reducible refine modInput_nx ?_ rfl))
theorem execTpSeenExpiry_only (i : Fin 128) (s : State) : OnlyO 1024 s (execTpSeenExpiry i s) := by
  unfold execTpSeenExpiry
  refine OnlyO.next ?_
  repeat' (first
      | (with_reducible exact Only.refl _ _) | (with_reducible assumption)
      | (simp (maxDischargeDepth := 20) (contextual := true) only [Only.ite, Only.refl, Only.foldl, implies_true,
          reduceCtorEq, Nat.reduceOr, modInput_nx, *]; done)
      | (with_reducible refine Only.foldl _ _ ?_ (fun t x ht => ?_)) | split | (dsimp only; split)
      | (with_reducible refine modInput_nx ?_ rfl))
theorem execBand_only (i : Fin 128) (s : State) : OnlyO 385048 s (execBand i s) := by
  unfold execBand
  refine OnlyO.next ?_
  repeat' (first
      | (with_reducible exact Only.refl _ _) | (with_reducible assumption)
      | (simp (maxDischargeDepth := 20) (contextual := true) only [Only.ite, Only.refl, Only.foldl, implies_true,
          reduceCtorEq, Nat.reduceOr, ibFault_nx, *]; done)
      | (with_reducible refine Only.foldl _ _ ?_ (fun t x ht => ?_)) | split | (dsimp only; split)
      | (with_reducible refine ibFault_nx ?_ rfl))
theorem execOvervolt_only (i : Fin 128) (s : State) : OnlyO 385048 s (execOvervolt i s) := by
  unfold execOvervolt
  refine OnlyO.next ?_
  repeat' (first
      | (with_reducible exact Only.refl _ _) | (with_reducible assumption)
      | (simp (maxDischargeDepth := 20) (contextual := true) only [Only.ite, Only.refl, Only.foldl, implies_true,
          reduceCtorEq, Nat.reduceOr, ibFault_nx, *]; done)
      | (with_reducible refine Only.foldl _ _ ?_ (fun t x ht => ?_)) | split | (dsimp only; split)
      | (with_reducible refine ibFault_nx ?_ rfl))
theorem execPg00Release_only (s : State) : OnlyO 2176 s (execPg00Release s) := by
  unfold execPg00Release
  refine OnlyO.next ?_
  repeat' (first
      | (with_reducible exact Only.refl _ _) | (with_reducible assumption)
      | (simp (maxDischargeDepth := 20) (contextual := true) only [Only.ite, Only.refl, Only.foldl, implies_true,
          reduceCtorEq, Nat.reduceOr, modPs_nx, modTb_nx, *]; done)
      | (with_reducible refine Only.foldl _ _ ?_ (fun t x ht => ?_)) | split | (dsimp only; split)
      | (with_reducible refine modPs_nx ?_ rfl) | (with_reducible refine modTb_nx ?_ rfl))
theorem judgeEdge_only (src : Fin 32) (late : Bool) (s : State) : Only 385048 s (judgeEdge src late s) := by
  unfold judgeEdge
  repeat' (first
      | (with_reducible exact Only.refl _ _) | (with_reducible assumption)
      | (simp (maxDischargeDepth := 20) (contextual := true) only [Only.ite, Only.refl, Only.foldl, implies_true,
          reduceCtorEq, Nat.reduceOr, recordPulse_cont_nx, *]; done)
      | (with_reducible refine Only.foldl _ _ ?_ (fun t x ht => ?_)) | split | (dsimp only; split)
      | (with_reducible refine recordPulse_cont_nx ?_ rfl))
theorem judgeEdge_nx {M : Nat} {s tS : State} {src : Fin 32} {late : Bool} (hOnly : Only M s tS) (hSub : M ||| 385048 = M) :
    Only M s (judgeEdge src late tS) :=
  hOnly.step (judgeEdge_only ..) hSub
theorem judgeSwitchOn_only (late : BitVec 32) (s : State) : Only 385048 s (judgeSwitchOn late s) := by
  unfold judgeSwitchOn
  repeat' (first
      | (with_reducible exact Only.refl _ _) | (with_reducible assumption)
      | (simp (maxDischargeDepth := 20) (contextual := true) only [Only.ite, Only.refl, Only.foldl, implies_true,
          reduceCtorEq, Nat.reduceOr, judgeEdge_nx, *]; done)
      | (with_reducible refine Only.foldl _ _ ?_ (fun t x ht => ?_)) | split | (dsimp only; split)
      | (with_reducible refine judgeEdge_nx ?_ rfl))
theorem judgeSwitchOn_nx {M : Nat} {s tS : State} {late : BitVec 32} (hOnly : Only M s tS) (hSub : M ||| 385048 = M) :
    Only M s (judgeSwitchOn late tS) :=
  hOnly.step (judgeSwitchOn_only ..) hSub
theorem execDipWindowOpen_only (src : Fin 32) (dip : Fin 8) (late : Bool) (s : State) :
    OnlyO 388120 s (execDipWindowOpen src dip late s) := by
  unfold execDipWindowOpen
  refine OnlyO.next ?_
  repeat' (first
      | (with_reducible exact Only.refl _ _) | (with_reducible assumption)
      | (simp (maxDischargeDepth := 20) (contextual := true) only [Only.ite, Only.refl, Only.foldl, implies_true,
          reduceCtorEq, Nat.reduceOr, judgeEdge_nx, modInput_nx, modSource_nx, settleInput_nx, *]; done)
      | (with_reducible refine Only.foldl _ _ ?_ (fun t x ht => ?_)) | split | (dsimp only; split)
      | (with_reducible refine judgeEdge_nx ?_ rfl) | (with_reducible refine modInput_nx ?_ rfl)
      | (with_reducible refine modSource_nx ?_ rfl) | (with_reducible refine settleInput_nx ?_ rfl))
theorem execDipOffEnd_only (src : Fin 32) (high : Bool) (late : Bool) (s : State) :
    OnlyO 387096 s (execDipOffEnd src high late s) := by
  unfold execDipOffEnd
  refine OnlyO.next ?_
  repeat' (first
      | (with_reducible exact Only.refl _ _) | (with_reducible assumption)
      | (simp (maxDischargeDepth := 20) (contextual := true) only [Only.ite, Only.refl, Only.foldl, implies_true,
          reduceCtorEq, Nat.reduceOr, judgeEdge_nx, modSource_nx, *]; done)
      | (with_reducible refine Only.foldl _ _ ?_ (fun t x ht => ?_)) | split | (dsimp only; split)
      | (with_reducible refine judgeEdge_nx ?_ rfl) | (with_reducible refine modSource_nx ?_ rfl))
theorem judgeDip_only (w : DipWin) (i : Fin 128) (s : State) : Only 388120 s (judgeDip w i s) := by
  unfold judgeDip
  repeat' (first
      | (with_reducible exact Only.refl _ _) | (with_reducible assumption)
      | (simp (maxDischargeDepth := 20) (contextual := true) only [Only.ite, Only.refl, Only.foldl, implies_true,
          reduceCtorEq, Nat.reduceOr, causeAbsent_nx, causeAgain_nx, dipFault_nx, modInput_nx, modPs_nx, settleInput_nx, *]; done)
      | (with_reducible refine Only.foldl _ _ ?_ (fun t x ht => ?_)) | split | (dsimp only; split)
      | (with_reducible refine causeAbsent_nx ?_ rfl) | (with_reducible refine causeAgain_nx ?_ rfl)
      | (with_reducible refine dipFault_nx ?_ rfl) | (with_reducible refine modInput_nx ?_ rfl)
      | (with_reducible refine modPs_nx ?_ rfl) | (with_reducible refine settleInput_nx ?_ rfl))
theorem judgeDip_nx {M : Nat} {s tS : State} {w : DipWin} {i : Fin 128} (hOnly : Only M s tS) (hSub : M ||| 388120 = M) :
    Only M s (judgeDip w i tS) :=
  hOnly.step (judgeDip_only ..) hSub
theorem execDipWindowEnd_only (src : Fin 32) (s : State) : OnlyO 388120 s (execDipWindowEnd src s) := by
  unfold execDipWindowEnd
  refine OnlyO.next ?_
  repeat' (first
      | (with_reducible exact Only.refl _ _) | (with_reducible assumption)
      | (simp (maxDischargeDepth := 20) (contextual := true) only [Only.ite, Only.refl, Only.foldl, implies_true,
          reduceCtorEq, Nat.reduceOr, causeAbsent_nx, judgeDip_nx, modSource_nx, sourceFault_nx, *]; done)
      | (with_reducible refine Only.foldl _ _ ?_ (fun t x ht => ?_)) | split | (dsimp only; split)
      | (with_reducible refine causeAbsent_nx ?_ rfl) | (with_reducible refine judgeDip_nx ?_ rfl)
      | (with_reducible refine modSource_nx ?_ rfl) | (with_reducible refine sourceFault_nx ?_ rfl))
theorem execSrcOverload_only (src : Fin 32) (from_ : Tick) (s : State) : OnlyO 387096 s (execSrcOverload src from_ s) := by
  unfold execSrcOverload
  refine OnlyO.next ?_
  repeat' (first
      | (with_reducible exact Only.refl _ _) | (with_reducible assumption)
      | (simp (maxDischargeDepth := 20) (contextual := true) only [Only.ite, Only.refl, Only.foldl, implies_true,
          reduceCtorEq, Nat.reduceOr, modSource_nx, sourceFault_nx, *]; done)
      | (with_reducible refine Only.foldl _ _ ?_ (fun t x ht => ?_)) | split | (dsimp only; split)
      | (with_reducible refine modSource_nx ?_ rfl) | (with_reducible refine sourceFault_nx ?_ rfl))
theorem execSrcRetry_only (src : Fin 32) (persists late : Bool) (s : State) :
    OnlyO 387096 s (execSrcRetry src persists late s) := by
  unfold execSrcRetry
  refine OnlyO.next ?_
  repeat' (first
      | (with_reducible exact Only.refl _ _) | (with_reducible assumption)
      | (simp (maxDischargeDepth := 20) (contextual := true) only [Only.ite, Only.refl, Only.foldl, implies_true,
          reduceCtorEq, Nat.reduceOr, causeAbsent_nx, judgeEdge_nx, modSource_nx, *]; done)
      | (with_reducible refine Only.foldl _ _ ?_ (fun t x ht => ?_)) | split | (dsimp only; split)
      | (with_reducible refine causeAbsent_nx ?_ rfl) | (with_reducible refine judgeEdge_nx ?_ rfl)
      | (with_reducible refine modSource_nx ?_ rfl))
end Sys2Proof.Machine
end

