-- ==== Sys2Proof/Laws/FrameAxes.lean ====
section
/-!
SUPPORT. Sys2Proof/Laws/FrameAxes.lean: the frames of the operations and commands of Machine/Axes.lean: `op_only` names all that an
operation can change; `op_nx` is the same at the end of a chain of operations.
-/
set_option linter.unusedSimpArgs false
set_option linter.unusedVariables false
namespace Sys2Proof.Machine
theorem axisFault_only (cause : Nat) (a : Fin 64) (path : Nat) (s : State) : Only 385048 s (axisFault cause a path s) := by
  unfold axisFault
  repeat' (first
      | (with_reducible exact Only.refl _ _) | (with_reducible assumption)
      | (simp (maxDischargeDepth := 20) (contextual := true) only [Only.ite, Only.refl, Only.foldl, implies_true,
          reduceCtorEq, Nat.reduceOr, recordFault_cont_nx, *]; done)
      | (with_reducible refine Only.foldl _ _ ?_ (fun t x ht => ?_)) | split | (dsimp only; split)
      | (with_reducible refine recordFault_cont_nx ?_ rfl))
theorem axisFault_nx {M : Nat} {s tS : State} {cause : Nat} {a : Fin 64} {path : Nat} (hOnly : Only M s tS) (hSub :
    M ||| 385048 = M) : Only M s (axisFault cause a path tS) :=
  hOnly.step (axisFault_only ..) hSub
theorem afQuarterFault_only (cause : Nat) (q : Fin 4) (s : State) : Only 385048 s (afQuarterFault cause q s) := by
  unfold afQuarterFault
  repeat' (first
      | (with_reducible exact Only.refl _ _) | (with_reducible assumption)
      | (simp (maxDischargeDepth := 20) (contextual := true) only [Only.ite, Only.refl, Only.foldl, implies_true,
          reduceCtorEq, Nat.reduceOr, recordFault_cont_nx, *]; done)
      | (with_reducible refine Only.foldl _ _ ?_ (fun t x ht => ?_)) | split | (dsimp only; split)
      | (with_reducible refine recordFault_cont_nx ?_ rfl))
theorem afQuarterFault_nx {M : Nat} {s tS : State} {cause : Nat} {q : Fin 4} (hOnly : Only M s tS) (hSub :
    M ||| 385048 = M) : Only M s (afQuarterFault cause q tS) :=
  hOnly.step (afQuarterFault_only ..) hSub
theorem afAbsent_only (cause scope item : Nat) (s : State) : Only 16 s (afAbsent cause scope item s) := by
  unfold afAbsent
  repeat' (first
      | (with_reducible exact Only.refl _ _) | (with_reducible assumption)
      | (simp (maxDischargeDepth := 20) (contextual := true) only [Only.ite, Only.refl, Only.foldl, implies_true,
          reduceCtorEq, Nat.reduceOr, modRec_nx, *]; done)
      | (with_reducible refine Only.foldl _ _ ?_ (fun t x ht => ?_)) | split | (dsimp only; split)
      | (with_reducible refine modRec_nx ?_ rfl))
theorem afAbsent_nx {M : Nat} {s tS : State} {cause scope item : Nat} (hOnly : Only M s tS) (hSub : M ||| 16 = M) :
    Only M s (afAbsent cause scope item tS) :=
  hOnly.step (afAbsent_only ..) hSub
theorem execEncoderEdge_only (a : Fin 64) (p : Fin 2) (quad : Fin 4) (s : State) :
    OnlyO 389144 s (execEncoderEdge a p quad s) := by
  unfold execEncoderEdge
  refine OnlyO.next ?_
  repeat' (first
      | (with_reducible exact Only.refl _ _) | (with_reducible assumption)
      | (simp (maxDischargeDepth := 20) (contextual := true) only [Only.ite, Only.refl, Only.foldl, implies_true,
          reduceCtorEq, Nat.reduceOr, afAbsent_nx, axisFault_nx, modPath_nx, *]; done)
      | (with_reducible refine Only.foldl _ _ ?_ (fun t x ht => ?_)) | split | (dsimp only; split)
      | (with_reducible refine afAbsent_nx ?_ rfl) | (with_reducible refine axisFault_nx ?_ rfl)
      | (with_reducible refine modPath_nx ?_ rfl))
theorem formWords_only (a : Fin 64) (p : Fin 2) (s : State) : Only 4096 s (formWords a p s) := by
  unfold formWords
  repeat' (first
      | (with_reducible exact Only.refl _ _) | (with_reducible assumption)
      | (simp (maxDischargeDepth := 20) (contextual := true) only [Only.ite, Only.refl, Only.foldl, implies_true,
          reduceCtorEq, Nat.reduceOr, modPath_nx, *]; done)
      | (with_reducible refine Only.foldl _ _ ?_ (fun t x ht => ?_)) | split | (dsimp only; split)
      | (with_reducible refine modPath_nx ?_ rfl))
theorem formWords_nx {M : Nat} {s tS : State} {a : Fin 64} {p : Fin 2} (hOnly : Only M s tS) (hSub : M ||| 4096 = M) :
    Only M s (formWords a p tS) :=
  hOnly.step (formWords_only ..) hSub
theorem judgeFreq_only (a : Fin 64) (hi : Bool) (s : State) : Only 389144 s (judgeFreq a hi s) := by
  unfold judgeFreq
  repeat' (first
      | (with_reducible exact Only.refl _ _) | (with_reducible assumption)
      | (simp (maxDischargeDepth := 20) (contextual := true) only [Only.ite, Only.refl, Only.foldl, implies_true,
          reduceCtorEq, Nat.reduceOr, afAbsent_nx, axisFault_nx, modAxis_nx, modPath_nx, *]; done)
      | (with_reducible refine Only.foldl _ _ ?_ (fun t x ht => ?_)) | split | (dsimp only; split)
      | (with_reducible refine afAbsent_nx ?_ rfl) | (with_reducible refine axisFault_nx ?_ rfl)
      | (with_reducible refine modAxis_nx ?_ rfl) | (with_reducible refine modPath_nx ?_ rfl))
theorem judgeFreq_nx {M : Nat} {s tS : State} {a : Fin 64} {hi : Bool} (hOnly : Only M s tS) (hSub : M ||| 389144 = M) :
    Only M s (judgeFreq a hi tS) :=
  hOnly.step (judgeFreq_only ..) hSub
theorem judgeVector_only (a : Fin 64) (outside level : Bool) (s : State) :
    Only 389144 s (judgeVector a outside level s) := by
  unfold judgeVector
  repeat' (first
      | (with_reducible exact Only.refl _ _) | (with_reducible assumption)
      | (simp (maxDischargeDepth := 20) (contextual := true) only [Only.ite, Only.refl, Only.foldl, implies_true,
          reduceCtorEq, Nat.reduceOr, afAbsent_nx, axisFault_nx, modAxis_nx, *]; done)
      | (with_reducible refine Only.foldl _ _ ?_ (fun t x ht => ?_)) | split | (dsimp only; split)
      | (with_reducible refine afAbsent_nx ?_ rfl) | (with_reducible refine axisFault_nx ?_ rfl)
      | (with_reducible refine modAxis_nx ?_ rfl))
theorem judgeVector_nx {M : Nat} {s tS : State} {a : Fin 64} {outside level : Bool} (hOnly : Only M s tS) (hSub :
    M ||| 389144 = M) : Only M s (judgeVector a outside level tS) :=
  hOnly.step (judgeVector_only ..) hSub
theorem judgeSync_only (a : Fin 64) (bad apart : Bool) (s : State) : Only 389144 s (judgeSync a bad apart s) := by
  unfold judgeSync
  repeat' (first
      | (with_reducible exact Only.refl _ _) | (with_reducible assumption)
      | (simp (maxDischargeDepth := 20) (contextual := true) only [Only.ite, Only.refl, Only.foldl, implies_true,
          reduceCtorEq, Nat.reduceOr, afAbsent_nx, axisFault_nx, modPath_nx, *]; done)
      | (with_reducible refine Only.foldl _ _ ?_ (fun t x ht => ?_)) | split | (dsimp only; split)
      | (with_reducible refine afAbsent_nx ?_ rfl) | (with_reducible refine axisFault_nx ?_ rfl)
      | (with_reducible refine modPath_nx ?_ rfl))
theorem judgeSync_nx {M : Nat} {s tS : State} {a : Fin 64} {bad apart : Bool} (hOnly : Only M s tS) (hSub :
    M ||| 389144 = M) : Only M s (judgeSync a bad apart tS) :=
  hOnly.step (judgeSync_only ..) hSub
theorem agreePair_only (a : Fin 64) (m spare : AxisSample) (bad : Bool) (s : State) :
    Only 4096 s (agreePair a m spare bad s) := by
  unfold agreePair
  repeat' (first
      | (with_reducible exact Only.refl _ _) | (with_reducible assumption)
      | (simp (maxDischargeDepth := 20) (contextual := true) only [Only.ite, Only.refl, Only.foldl, implies_true,
          reduceCtorEq, Nat.reduceOr, modAf_nx, *]; done)
      | (with_reducible refine Only.foldl _ _ ?_ (fun t x ht => ?_)) | split | (dsimp only; split)
      | (with_reducible refine modAf_nx ?_ rfl))
theorem agreePair_nx {M : Nat} {s tS : State} {a : Fin 64} {m spare : AxisSample} {bad : Bool} (hOnly : Only M s tS) (hSub :
    M ||| 4096 = M) : Only M s (agreePair a m spare bad tS) :=
  hOnly.step (agreePair_only ..) hSub
theorem measureSinCos_only (a : Fin 64) (m spare : AxisSample) (s : State) : Only 913432 s (measureSinCos a m spare s) := by
  unfold measureSinCos
  repeat' (first
      | (with_reducible exact Only.refl _ _) | (with_reducible assumption)
      | (simp (maxDischargeDepth := 20) (contextual := true) only [Only.ite, Only.refl, Only.foldl, implies_true,
          reduceCtorEq, Nat.reduceOr, agreePair_nx, judgeFreq_nx, judgeSync_nx, judgeVector_nx, modAxis_nx, modPath_nx,
          takeFree_nx, *]; done)
      | (with_reducible refine Only.foldl _ _ ?_ (fun t x ht => ?_)) | split | (dsimp only; split)
      | (with_reducible refine agreePair_nx ?_ rfl) | (with_reducible refine judgeFreq_nx ?_ rfl)
      | (with_reducible refine judgeSync_nx ?_ rfl) | (with_reducible refine judgeVector_nx ?_ rfl)
      | (with_reducible refine modAxis_nx ?_ rfl) | (with_reducible refine modPath_nx ?_ rfl)
      | (with_reducible refine takeFree_nx ?_ rfl))
theorem measureSinCos_nx {M : Nat} {s tS : State} {a : Fin 64} {m spare : AxisSample} (hOnly : Only M s tS) (hSub :
    M ||| 913432 = M) : Only M s (measureSinCos a m spare tS) :=
  hOnly.step (measureSinCos_only ..) hSub
theorem measureAxis_only (m spare : AxisSample) (a : Fin 64) (s : State) : Only 913432 s (measureAxis m spare a s) := by
  unfold measureAxis
  repeat' (first
      | (with_reducible exact Only.refl _ _) | (with_reducible assumption)
      | (simp (maxDischargeDepth := 20) (contextual := true) only [Only.ite, Only.refl, Only.foldl, implies_true,
          reduceCtorEq, Nat.reduceOr, formWords_nx, measureSinCos_nx, modPath_nx, *]; done)
      | (with_reducible refine Only.foldl _ _ ?_ (fun t x ht => ?_)) | split | (dsimp only; split)
      | (with_reducible refine formWords_nx ?_ rfl) | (with_reducible refine measureSinCos_nx ?_ rfl)
      | (with_reducible refine modPath_nx ?_ rfl))
theorem measureAxis_nx {M : Nat} {s tS : State} {m spare : AxisSample} {a : Fin 64} (hOnly : Only M s tS) (hSub :
    M ||| 913432 = M) : Only M s (measureAxis m spare a tS) :=
  hOnly.step (measureAxis_only ..) hSub
theorem execMeasurementInstant_only (done : BitVec 4) (samples spares : List AxisSample) (s : State) :
    OnlyO 913432 s (execMeasurementInstant done samples spares s) := by
  unfold execMeasurementInstant
  refine OnlyO.next ?_
  repeat' (first
      | (with_reducible exact Only.refl _ _) | (with_reducible assumption)
      | (simp (maxDischargeDepth := 20) (contextual := true) only [Only.ite, Only.refl, Only.foldl, implies_true,
          reduceCtorEq, Nat.reduceOr, afAbsent_nx, measureAxis_nx, modAf_nx, *]; done)
      | (with_reducible refine Only.foldl _ _ ?_ (fun t x ht => ?_)) | split | (dsimp only; split)
      | (with_reducible refine afAbsent_nx ?_ rfl) | (with_reducible refine measureAxis_nx ?_ rfl)
      | (with_reducible refine modAf_nx ?_ rfl))
theorem execAxisBufferSwap_only (q : Fin 4) (s : State) : OnlyO 4096 s (execAxisBufferSwap q s) := by
  unfold execAxisBufferSwap
  refine OnlyO.next ?_
  repeat' (first
      | (with_reducible exact Only.refl _ _) | (with_reducible assumption)
      | (simp (maxDischargeDepth := 20) (contextual := true) only [Only.ite, Only.refl, Only.foldl, implies_true,
          reduceCtorEq, Nat.reduceOr, modAf_nx, modAxis_nx, *]; done)
      | (with_reducible refine Only.foldl _ _ ?_ (fun t x ht => ?_)) | split | (dsimp only; split)
      | (with_reducible refine modAf_nx ?_ rfl) | (with_reducible refine modAxis_nx ?_ rfl))
theorem abandonPass_only (a : Fin 64) (s : State) : Only 4096 s (abandonPass a s) := by
  unfold abandonPass
  repeat' (first
      | (with_reducible exact Only.refl _ _) | (with_reducible assumption)
      | (simp (maxDischargeDepth := 20) (contextual := true) only [Only.ite, Only.refl, Only.foldl, implies_true,
          reduceCtorEq, Nat.reduceOr, modAf_nx, *]; done)
      | (with_reducible refine Only.foldl _ _ ?_ (fun t x ht => ?_)) | split | (dsimp only; split)
      | (with_reducible refine modAf_nx ?_ rfl))
theorem abandonPass_nx {M : Nat} {s tS : State} {a : Fin 64} (hOnly : Only M s tS) (hSub : M ||| 4096 = M) :
    Only M s (abandonPass a tS) :=
  hOnly.step (abandonPass_only ..) hSub
theorem execLevel_only (a : Fin 64) (s : State) : OnlyO 389144 s (execLevel a s) := by
  unfold execLevel
  refine OnlyO.next ?_
  repeat' (first
      | (with_reducible exact Only.refl _ _) | (with_reducible assumption)
      | (simp (maxDischargeDepth := 20) (contextual := true) only [Only.ite, Only.refl, Only.foldl, implies_true,
          reduceCtorEq, Nat.reduceOr, abandonPass_nx, axisFault_nx, modAxis_nx, *]; done)
      | (with_reducible refine Only.foldl _ _ ?_ (fun t x ht => ?_)) | split | (dsimp only; split)
      | (with_reducible refine abandonPass_nx ?_ rfl) | (with_reducible refine axisFault_nx ?_ rfl)
      | (with_reducible refine modAxis_nx ?_ rfl))
theorem execLevelRestore_only (a : Fin 64) (s : State) : OnlyO 4112 s (execLevelRestore a s) := by
  unfold execLevelRestore
  refine OnlyO.next ?_
  repeat' (first
      | (with_reducible exact Only.refl _ _) | (with_reducible assumption)
      | (simp (maxDischargeDepth := 20) (contextual := true) only [Only.ite, Only.refl, Only.foldl, implies_true,
          reduceCtorEq, Nat.reduceOr, afAbsent_nx, modPath_nx, *]; done)
      | (with_reducible refine Only.foldl _ _ ?_ (fun t x ht => ?_)) | split | (dsimp only; split)
      | (with_reducible refine afAbsent_nx ?_ rfl) | (with_reducible refine modPath_nx ?_ rfl))
theorem execAdcClock_only (q : Fin 4) (s : State) : OnlyO 1048574 s (execAdcClock q s) := by
  unfold execAdcClock
  refine OnlyO.next ?_
  repeat' (first
      | (with_reducible exact Only.refl _ _) | (with_reducible assumption)
      | (simp (maxDischargeDepth := 20) (contextual := true) only [Only.ite, Only.refl, Only.foldl, implies_true,
          reduceCtorEq, Nat.reduceOr, afQuarterFault_nx, clockLostInStart_nx, modAf_nx, modAxis_nx, *]; done)
      | (with_reducible refine Only.foldl _ _ ?_ (fun t x ht => ?_)) | split | (dsimp only; split)
      | (with_reducible refine afQuarterFault_nx ?_ rfl) | (with_reducible refine clockLostInStart_nx ?_ rfl)
      | (with_reducible refine modAf_nx ?_ rfl) | (with_reducible refine modAxis_nx ?_ rfl))
theorem mendPath_only (a : Fin 64) (p : Fin 2) (s : State) : Only 4096 s (mendPath a p s) := by
  unfold mendPath
  repeat' (first
      | (with_reducible exact Only.refl _ _) | (with_reducible assumption)
      | (simp (maxDischargeDepth := 20) (contextual := true) only [Only.ite, Only.refl, Only.foldl, implies_true,
          reduceCtorEq, Nat.reduceOr, modPath_nx, *]; done)
      | (with_reducible refine Only.foldl _ _ ?_ (fun t x ht => ?_)) | split | (dsimp only; split)
      | (with_reducible refine modPath_nx ?_ rfl))
theorem mendPath_nx {M : Nat} {s tS : State} {a : Fin 64} {p : Fin 2} (hOnly : Only M s tS) (hSub : M ||| 4096 = M) :
    Only M s (mendPath a p tS) :=
  hOnly.step (mendPath_only ..) hSub
theorem afCleared_only (cause scope item : Nat) (s : State) : Only 4096 s (afCleared cause scope item s) := by
  unfold afCleared
  repeat' (first
      | (with_reducible exact Only.refl _ _) | (with_reducible assumption)
      | (simp (maxDischargeDepth := 20) (contextual := true) only [Only.ite, Only.refl, Only.foldl, implies_true,
          reduceCtorEq, Nat.reduceOr, mendPath_nx, modAxis_nx, *]; done)
      | (with_reducible refine Only.foldl _ _ ?_ (fun t x ht => ?_)) | split | (dsimp only; split)
      | (with_reducible refine mendPath_nx ?_ rfl) | (with_reducible refine modAxis_nx ?_ rfl))
theorem afCleared_nx {M : Nat} {s tS : State} {cause scope item : Nat} (hOnly : Only M s tS) (hSub : M ||| 4096 = M) :
    Only M s (afCleared cause scope item tS) :=
  hOnly.step (afCleared_only ..) hSub
theorem configureAxes_only (s : State) : Only 4096 s (configureAxes s) := by
  unfold configureAxes
  repeat' (first
      | (with_reducible exact Only.refl _ _) | (with_reducible assumption)
      | (simp (maxDischargeDepth := 20) (contextual := true) only [Only.ite, Only.refl, Only.foldl, implies_true,
          reduceCtorEq, Nat.reduceOr, modAf_nx, *]; done)
      | (with_reducible refine Only.foldl _ _ ?_ (fun t x ht => ?_)) | split | (dsimp only; split)
      | (with_reducible refine modAf_nx ?_ rfl))
theorem configureAxes_nx {M : Nat} {s tS : State}  (hOnly : Only M s tS) (hSub : M ||| 4096 = M) :
    Only M s (configureAxes tS) :=
  hOnly.step (configureAxes_only ..) hSub
theorem calFail_only (q : Fin 4) (pair : Nat) (s : State) : Only 385048 s (calFail q pair s) := by
  unfold calFail
  repeat' (first
      | (with_reducible exact Only.refl _ _) | (with_reducible assumption)
      | (simp (maxDischargeDepth := 20) (contextual := true) only [Only.ite, Only.refl, Only.foldl, implies_true,
          reduceCtorEq, Nat.reduceOr, afQuarterFault_nx, axisFault_nx, *]; done)
      | (with_reducible refine Only.foldl _ _ ?_ (fun t x ht => ?_)) | split | (dsimp only; split)
      | (with_reducible refine afQuarterFault_nx ?_ rfl) | (with_reducible refine axisFault_nx ?_ rfl))
theorem calFail_nx {M : Nat} {s tS : State} {q : Fin 4} {pair : Nat} (hOnly : Only M s tS) (hSub : M ||| 385048 = M) :
    Only M s (calFail q pair tS) :=
  hOnly.step (calFail_only ..) hSub
theorem calEnd_only (q : Fin 4) (p : CalPass) (s : State) : Only 4112 s (calEnd q p s) := by
  unfold calEnd
  repeat' (first
      | (with_reducible exact Only.refl _ _) | (with_reducible assumption)
      | (simp (maxDischargeDepth := 20) (contextual := true) only [Only.ite, Only.refl, Only.foldl, implies_true,
          reduceCtorEq, Nat.reduceOr, afAbsent_nx, modAf_nx, *]; done)
      | (with_reducible refine Only.foldl _ _ ?_ (fun t x ht => ?_)) | split | (dsimp only; split)
      | (with_reducible refine afAbsent_nx ?_ rfl) | (with_reducible refine modAf_nx ?_ rfl))
theorem calEnd_nx {M : Nat} {s tS : State} {q : Fin 4} {p : CalPass} (hOnly : Only M s tS) (hSub : M ||| 4112 = M) :
    Only M s (calEnd q p tS) :=
  hOnly.step (calEnd_only ..) hSub
theorem execCalibrationPass_only (q : Fin 4) (ofsS ofsC gainS gainC : Int) (s : State) :
    OnlyO 389144 s (execCalibrationPass q ofsS ofsC gainS gainC s) := by
  unfold execCalibrationPass
  refine OnlyO.next ?_
  repeat' (first
      | (with_reducible exact Only.refl _ _) | (with_reducible assumption)
      | (simp (maxDischargeDepth := 20) (contextual := true) only [Only.ite, Only.refl, Only.foldl, implies_true,
          reduceCtorEq, Nat.reduceOr, calEnd_nx, calFail_nx, modAf_nx, *]; done)
      | (with_reducible refine Only.foldl _ _ ?_ (fun t x ht => ?_)) | split | (dsimp only; split)
      | (with_reducible refine calEnd_nx ?_ rfl) | (with_reducible refine calFail_nx ?_ rfl)
      | (with_reducible refine modAf_nx ?_ rfl))
theorem execCalHandover_only (q : Fin 4) (s : State) : OnlyO 389144 s (execCalHandover q s) := by
  unfold execCalHandover
  refine OnlyO.next ?_
  repeat' (first
      | (with_reducible exact Only.refl _ _) | (with_reducible assumption)
      | (simp (maxDischargeDepth := 20) (contextual := true) only [Only.ite, Only.refl, Only.foldl, implies_true,
          reduceCtorEq, Nat.reduceOr, calEnd_nx, calFail_nx, modAf_nx, *]; done)
      | (with_reducible refine Only.foldl _ _ ?_ (fun t x ht => ?_)) | split | (dsimp only; split)
      | (with_reducible refine calEnd_nx ?_ rfl) | (with_reducible refine calFail_nx ?_ rfl)
      | (with_reducible refine modAf_nx ?_ rfl))
theorem execCalHandoverTimeout_only (q : Fin 4) (s : State) : OnlyO 389144 s (execCalHandoverTimeout q s) := by
  unfold execCalHandoverTimeout
  refine OnlyO.next ?_
  repeat' (first
      | (with_reducible exact Only.refl _ _) | (with_reducible assumption)
      | (simp (maxDischargeDepth := 20) (contextual := true) only [Only.ite, Only.refl, Only.foldl, implies_true,
          reduceCtorEq, Nat.reduceOr, calFail_nx, modAf_nx, *]; done)
      | (with_reducible refine Only.foldl _ _ ?_ (fun t x ht => ?_)) | split | (dsimp only; split)
      | (with_reducible refine calFail_nx ?_ rfl) | (with_reducible refine modAf_nx ?_ rfl))
theorem execCalibrationWrite_only (s : State) : OnlyO 262144 s (execCalibrationWrite s) := by
  unfold execCalibrationWrite
  refine OnlyO.next ?_
  repeat' (first
      | (with_reducible exact Only.refl _ _) | (with_reducible assumption)
      | (simp (maxDischargeDepth := 20) (contextual := true) only [Only.ite, Only.refl, Only.foldl, implies_true,
          reduceCtorEq, Nat.reduceOr, modStores_nx, *]; done)
      | (with_reducible refine Only.foldl _ _ ?_ (fun t x ht => ?_)) | split | (dsimp only; split)
      | (with_reducible refine modStores_nx ?_ rfl))
end Sys2Proof.Machine
end

