-- ==== Sys2Proof/Laws/FrameOutputs.lean ====
section
/-!
SUPPORT. Sys2Proof/Laws/FrameOutputs.lean: the frames of the operations and commands of Machine/Outputs.lean: `op_only` names all that an
operation can change; `op_nx` is the same at the end of a chain of operations.
-/
set_option linter.unusedSimpArgs false
set_option linter.unusedVariables false
namespace Sys2Proof.Machine
theorem abandonDark_only (k : Fin 144) (s : State) : Only 8192 s (abandonDark k s) := by
  unfold abandonDark
  repeat' (first
      | (with_reducible exact Only.refl _ _) | (with_reducible assumption)
      | (simp (maxDischargeDepth := 20) (contextual := true) only [Only.ite, Only.refl, Only.foldl, implies_true,
          reduceCtorEq, Nat.reduceOr, modOs_nx, *]; done)
      | (with_reducible refine Only.foldl _ _ ?_ (fun t x ht => ?_)) | split | (dsimp only; split)
      | (with_reducible refine modOs_nx ?_ rfl))
theorem abandonDark_nx {M : Nat} {s tS : State} {k : Fin 144} (hOnly : Only M s tS) (hSub : M ||| 8192 = M) :
    Only M s (abandonDark k tS) :=
  hOnly.step (abandonDark_only ..) hSub
theorem openReceiver_only (k : Fin 144) (d : Side) (s : State) : Only 8192 s (openReceiver k d s) := by
  unfold openReceiver
  repeat' (first
      | (with_reducible exact Only.refl _ _) | (with_reducible assumption)
      | (simp (maxDischargeDepth := 20) (contextual := true) only [Only.ite, Only.refl, Only.foldl, implies_true,
          reduceCtorEq, Nat.reduceOr, abandonDark_nx, modOut_nx, *]; done)
      | (with_reducible refine Only.foldl _ _ ?_ (fun t x ht => ?_)) | split | (dsimp only; split)
      | (with_reducible refine abandonDark_nx ?_ rfl) | (with_reducible refine modOut_nx ?_ rfl))
theorem openReceiver_nx {M : Nat} {s tS : State} {k : Fin 144} {d : Side} (hOnly : Only M s tS) (hSub : M ||| 8192 = M) :
    Only M s (openReceiver k d tS) :=
  hOnly.step (openReceiver_only ..) hSub
theorem execBowStopState_only (out : Fin 144) (side : Side) (s : State) : OnlyO 8192 s (execBowStopState out side s) := by
  unfold execBowStopState
  refine OnlyO.next ?_
  repeat' (first
      | (with_reducible exact Only.refl _ _) | (with_reducible assumption)
      | (simp (maxDischargeDepth := 20) (contextual := true) only [Only.ite, Only.refl, Only.foldl, implies_true,
          reduceCtorEq, Nat.reduceOr, openReceiver_nx, *]; done)
      | (with_reducible refine Only.foldl _ _ ?_ (fun t x ht => ?_)) | split | (dsimp only; split)
      | (with_reducible refine openReceiver_nx ?_ rfl))
theorem execBowHoldTimeout_only (out : Fin 144) (side : Side) (s : State) :
    OnlyO 8192 s (execBowHoldTimeout out side s) := by
  unfold execBowHoldTimeout
  refine OnlyO.next ?_
  repeat' (first
      | (with_reducible exact Only.refl _ _) | (with_reducible assumption)
      | (simp (maxDischargeDepth := 20) (contextual := true) only [Only.ite, Only.refl, Only.foldl, implies_true,
          reduceCtorEq, Nat.reduceOr, openReceiver_nx, *]; done)
      | (with_reducible refine Only.foldl _ _ ?_ (fun t x ht => ?_)) | split | (dsimp only; split)
      | (with_reducible refine openReceiver_nx ?_ rfl))
theorem execSwitchClosed_only (out : Fin 144) (side : Side) (s : State) : OnlyO 8192 s (execSwitchClosed out side s) := by
  unfold execSwitchClosed
  refine OnlyO.next ?_
  repeat' (first
      | (with_reducible exact Only.refl _ _) | (with_reducible assumption)
      | (simp (maxDischargeDepth := 20) (contextual := true) only [Only.ite, Only.refl, Only.foldl, implies_true,
          reduceCtorEq, Nat.reduceOr, modOut_nx, *]; done)
      | (with_reducible refine Only.foldl _ _ ?_ (fun t x ht => ?_)) | split | (dsimp only; split)
      | (with_reducible refine modOut_nx ?_ rfl))
theorem outputFault_only (cause : Nat) (k : Fin 144) (d : Side) (s : State) : Only 385048 s (outputFault cause k d s) := by
  unfold outputFault
  repeat' (first
      | (with_reducible exact Only.refl _ _) | (with_reducible assumption)
      | (simp (maxDischargeDepth := 20) (contextual := true) only [Only.ite, Only.refl, Only.foldl, implies_true,
          reduceCtorEq, Nat.reduceOr, recordFault_cont_nx, *]; done)
      | (with_reducible refine Only.foldl _ _ ?_ (fun t x ht => ?_)) | split | (dsimp only; split)
      | (with_reducible refine recordFault_cont_nx ?_ rfl))
theorem outputFault_nx {M : Nat} {s tS : State} {cause : Nat} {k : Fin 144} {d : Side} (hOnly : Only M s tS) (hSub :
    M ||| 385048 = M) : Only M s (outputFault cause k d tS) :=
  hOnly.step (outputFault_only ..) hSub
theorem outputPulse_only (cause : Nat) (k : Fin 144) (s : State) : Only 385048 s (outputPulse cause k s) := by
  unfold outputPulse
  repeat' (first
      | (with_reducible exact Only.refl _ _) | (with_reducible assumption)
      | (simp (maxDischargeDepth := 20) (contextual := true) only [Only.ite, Only.refl, Only.foldl, implies_true,
          reduceCtorEq, Nat.reduceOr, causeAbsent_nx, outputFault_nx, *]; done)
      | (with_reducible refine Only.foldl _ _ ?_ (fun t x ht => ?_)) | split | (dsimp only; split)
      | (with_reducible refine causeAbsent_nx ?_ rfl) | (with_reducible refine outputFault_nx ?_ rfl))
theorem outputPulse_nx {M : Nat} {s tS : State} {cause : Nat} {k : Fin 144} (hOnly : Only M s tS) (hSub :
    M ||| 385048 = M) : Only M s (outputPulse cause k tS) :=
  hOnly.step (outputPulse_only ..) hSub
theorem execBowMismatch_only (out : Fin 144) (side : Side) (s : State) : OnlyO 1044478 s (execBowMismatch out side s) := by
  unfold execBowMismatch
  refine OnlyO.next ?_
  repeat' (first
      | (with_reducible exact Only.refl _ _) | (with_reducible assumption)
      | (simp (maxDischargeDepth := 20) (contextual := true) only [Only.ite, Only.refl, Only.foldl, implies_true,
          reduceCtorEq, Nat.reduceOr, recordFault_nx, *]; done)
      | (with_reducible refine Only.foldl _ _ ?_ (fun t x ht => ?_)) | split | (dsimp only; split)
      | (with_reducible refine recordFault_nx ?_ rfl))
theorem execOverload_only (out : Fin 144) (from_ : Tick) (s : State) : OnlyO 385048 s (execOverload out from_ s) := by
  unfold execOverload
  refine OnlyO.next ?_
  repeat' (first
      | (with_reducible exact Only.refl _ _) | (with_reducible assumption)
      | (simp (maxDischargeDepth := 20) (contextual := true) only [Only.ite, Only.refl, Only.foldl, implies_true,
          reduceCtorEq, Nat.reduceOr, outputPulse_nx, *]; done)
      | (with_reducible refine Only.foldl _ _ ?_ (fun t x ht => ?_)) | split | (dsimp only; split)
      | (with_reducible refine outputPulse_nx ?_ rfl))
theorem execShort_only (out : Fin 144) (iH iL : Nat) (from_ : Tick) (s : State) :
    OnlyO 385048 s (execShort out iH iL from_ s) := by
  unfold execShort
  refine OnlyO.next ?_
  repeat' (first
      | (with_reducible exact Only.refl _ _) | (with_reducible assumption)
      | (simp (maxDischargeDepth := 20) (contextual := true) only [Only.ite, Only.refl, Only.foldl, implies_true,
          reduceCtorEq, Nat.reduceOr, outputPulse_nx, *]; done)
      | (with_reducible refine Only.foldl _ _ ?_ (fun t x ht => ?_)) | split | (dsimp only; split)
      | (with_reducible refine outputPulse_nx ?_ rfl))
theorem execOpenLoad_only (out : Fin 144) (iL : Nat) (from_ : Tick) (s : State) :
    OnlyO 385048 s (execOpenLoad out iL from_ s) := by
  unfold execOpenLoad
  refine OnlyO.next ?_
  repeat' (first
      | (with_reducible exact Only.refl _ _) | (with_reducible assumption)
      | (simp (maxDischargeDepth := 20) (contextual := true) only [Only.ite, Only.refl, Only.foldl, implies_true,
          reduceCtorEq, Nat.reduceOr, outputPulse_nx, *]; done)
      | (with_reducible refine Only.foldl _ _ ?_ (fun t x ht => ?_)) | split | (dsimp only; split)
      | (with_reducible refine outputPulse_nx ?_ rfl))
theorem execAuxSum_only (q : Fin 4) (sum : Nat) (from_ : Tick) (s : State) : OnlyO 385048 s (execAuxSum q sum from_ s) := by
  unfold execAuxSum
  refine OnlyO.next ?_
  repeat' (first
      | (with_reducible exact Only.refl _ _) | (with_reducible assumption)
      | (simp (maxDischargeDepth := 20) (contextual := true) only [Only.ite, Only.refl, Only.foldl, implies_true,
          reduceCtorEq, Nat.reduceOr, recordPulse_cont_nx, *]; done)
      | (with_reducible refine Only.foldl _ _ ?_ (fun t x ht => ?_)) | split | (dsimp only; split)
      | (with_reducible refine recordPulse_cont_nx ?_ rfl))
theorem execNoOutput_only (out : Fin 144) (hi limited : Bool) (s : State) :
    OnlyO 385048 s (execNoOutput out hi limited s) := by
  unfold execNoOutput
  refine OnlyO.next ?_
  repeat' (first
      | (with_reducible exact Only.refl _ _) | (with_reducible assumption)
      | (simp (maxDischargeDepth := 20) (contextual := true) only [Only.ite, Only.refl, Only.foldl, implies_true,
          reduceCtorEq, Nat.reduceOr, outputPulse_nx, *]; done)
      | (with_reducible refine Only.foldl _ _ ?_ (fun t x ht => ?_)) | split | (dsimp only; split)
      | (with_reducible refine outputPulse_nx ?_ rfl))
theorem execOvertemp_only (q : Fin 4) (from_ : Tick) (s : State) : OnlyO 385048 s (execOvertemp q from_ s) := by
  unfold execOvertemp
  refine OnlyO.next ?_
  repeat' (first
      | (with_reducible exact Only.refl _ _) | (with_reducible assumption)
      | (simp (maxDischargeDepth := 20) (contextual := true) only [Only.ite, Only.refl, Only.foldl, implies_true,
          reduceCtorEq, Nat.reduceOr, recordFault_cont_nx, *]; done)
      | (with_reducible refine Only.foldl _ _ ?_ (fun t x ht => ?_)) | split | (dsimp only; split)
      | (with_reducible refine recordFault_cont_nx ?_ rfl))
theorem execOvertempClear_only (q : Fin 4) (s : State) : OnlyO 16 s (execOvertempClear q s) := by
  unfold execOvertempClear
  refine OnlyO.next ?_
  repeat' (first
      | (with_reducible exact Only.refl _ _) | (with_reducible assumption)
      | (simp (maxDischargeDepth := 20) (contextual := true) only [Only.ite, Only.refl, Only.foldl, implies_true,
          reduceCtorEq, Nat.reduceOr, causeAbsent_nx, *]; done)
      | (with_reducible refine Only.foldl _ _ ?_ (fun t x ht => ?_)) | split | (dsimp only; split)
      | (with_reducible refine causeAbsent_nx ?_ rfl))
theorem judgeStatic_only (k : Fin 144) (s : State) : Only 385048 s (judgeStatic k s) := by
  unfold judgeStatic
  repeat' (first
      | (with_reducible exact Only.refl _ _) | (with_reducible assumption)
      | (simp (maxDischargeDepth := 20) (contextual := true) only [Only.ite, Only.refl, Only.foldl, implies_true,
          reduceCtorEq, Nat.reduceOr, causeAbsent_nx, outputFault_nx, *]; done)
      | (with_reducible refine Only.foldl _ _ ?_ (fun t x ht => ?_)) | split | (dsimp only; split)
      | (with_reducible refine causeAbsent_nx ?_ rfl) | (with_reducible refine outputFault_nx ?_ rfl))
theorem judgeStatic_nx {M : Nat} {s tS : State} {k : Fin 144} (hOnly : Only M s tS) (hSub : M ||| 385048 = M) :
    Only M s (judgeStatic k tS) :=
  hOnly.step (judgeStatic_only ..) hSub
theorem execStaticCheckStart_only (q : Fin 4) (s : State) : OnlyO 385048 s (execStaticCheckStart q s) := by
  unfold execStaticCheckStart
  refine OnlyO.next ?_
  repeat' (first
      | (with_reducible exact Only.refl _ _) | (with_reducible assumption)
      | (simp (maxDischargeDepth := 20) (contextual := true) only [Only.ite, Only.refl, Only.foldl, implies_true,
          reduceCtorEq, Nat.reduceOr, judgeStatic_nx, modOs_nx, *]; done)
      | (with_reducible refine Only.foldl _ _ ?_ (fun t x ht => ?_)) | split | (dsimp only; split)
      | (with_reducible refine judgeStatic_nx ?_ rfl) | (with_reducible refine modOs_nx ?_ rfl))
theorem execResidual_only (out : Fin 144) (r : OutSense) (s : State) : OnlyO 385048 s (execResidual out r s) := by
  unfold execResidual
  refine OnlyO.next ?_
  repeat' (first
      | (with_reducible exact Only.refl _ _) | (with_reducible assumption)
      | (simp (maxDischargeDepth := 20) (contextual := true) only [Only.ite, Only.refl, Only.foldl, implies_true,
          reduceCtorEq, Nat.reduceOr, causeAbsent_nx, judgeStatic_nx, modOut_nx, *]; done)
      | (with_reducible refine Only.foldl _ _ ?_ (fun t x ht => ?_)) | split | (dsimp only; split)
      | (with_reducible refine causeAbsent_nx ?_ rfl) | (with_reducible refine judgeStatic_nx ?_ rfl)
      | (with_reducible refine modOut_nx ?_ rfl))
theorem sampleOutputs_only (outs : List OutSense) (s : State) : Only 385048 s (sampleOutputs outs s) := by
  unfold sampleOutputs
  repeat' (first
      | (with_reducible exact Only.refl _ _) | (with_reducible assumption)
      | (simp (maxDischargeDepth := 20) (contextual := true) only [Only.ite, Only.refl, Only.foldl, implies_true,
          reduceCtorEq, Nat.reduceOr, judgeStatic_nx, modOs_nx, *]; done)
      | (with_reducible refine Only.foldl _ _ ?_ (fun t x ht => ?_)) | split | (dsimp only; split)
      | (with_reducible refine judgeStatic_nx ?_ rfl) | (with_reducible refine modOs_nx ?_ rfl))
theorem sampleOutputs_nx {M : Nat} {s tS : State} {outs : List OutSense} (hOnly : Only M s tS) (hSub : M ||| 385048 = M) :
    Only M s (sampleOutputs outs tS) :=
  hOnly.step (sampleOutputs_only ..) hSub
theorem execDarkTestDue_only (out : Fin 144) (s : State) : OnlyO 8192 s (execDarkTestDue out s) := by
  unfold execDarkTestDue
  refine OnlyO.next ?_
  repeat' (first
      | (with_reducible exact Only.refl _ _) | (with_reducible assumption)
      | (simp (maxDischargeDepth := 20) (contextual := true) only [Only.ite, Only.refl, Only.foldl, implies_true,
          reduceCtorEq, Nat.reduceOr, modOut_nx, *]; done)
      | (with_reducible refine Only.foldl _ _ ?_ (fun t x ht => ?_)) | split | (dsimp only; split)
      | (with_reducible refine modOut_nx ?_ rfl))
theorem execDarkForce_only (out : Fin 144) (s : State) : OnlyO 8192 s (execDarkForce out s) := by
  unfold execDarkForce
  refine OnlyO.next ?_
  repeat' (first
      | (with_reducible exact Only.refl _ _) | (with_reducible assumption)
      | (simp (maxDischargeDepth := 20) (contextual := true) only [Only.ite, Only.refl, Only.foldl, implies_true,
          reduceCtorEq, Nat.reduceOr, modOs_nx, modOut_nx, *]; done)
      | (with_reducible refine Only.foldl _ _ ?_ (fun t x ht => ?_)) | split | (dsimp only; split)
      | (with_reducible refine modOs_nx ?_ rfl) | (with_reducible refine modOut_nx ?_ rfl))
theorem execDarkWindowStart_only (q : Fin 4) (s : State) : OnlyO 8192 s (execDarkWindowStart q s) := by
  unfold execDarkWindowStart
  refine OnlyO.next ?_
  repeat' (first
      | (with_reducible exact Only.refl _ _) | (with_reducible assumption)
      | (simp (maxDischargeDepth := 20) (contextual := true) only [Only.ite, Only.refl, Only.foldl, implies_true,
          reduceCtorEq, Nat.reduceOr, modOs_nx, modOut_nx, *]; done)
      | (with_reducible refine Only.foldl _ _ ?_ (fun t x ht => ?_)) | split | (dsimp only; split)
      | (with_reducible refine modOs_nx ?_ rfl) | (with_reducible refine modOut_nx ?_ rfl))
theorem execDarkWindowEnd_only (q : Fin 4) (hi : Bool) (lo : Bool) (hLow : Bool) (iL : Nat) (s : State) :
    OnlyO 385048 s (execDarkWindowEnd q hi lo hLow iL s) := by
  unfold execDarkWindowEnd
  refine OnlyO.next ?_
  repeat' (first
      | (with_reducible exact Only.refl _ _) | (with_reducible assumption)
      | (simp (maxDischargeDepth := 20) (contextual := true) only [Only.ite, Only.refl, Only.foldl, implies_true,
          reduceCtorEq, Nat.reduceOr, modOs_nx, modOut_nx, outputFault_nx, *]; done)
      | (with_reducible refine Only.foldl _ _ ?_ (fun t x ht => ?_)) | split | (dsimp only; split)
      | (with_reducible refine modOs_nx ?_ rfl) | (with_reducible refine modOut_nx ?_ rfl)
      | (with_reducible refine outputFault_nx ?_ rfl))
theorem freeDrivers_only (n : Nat) (s : State) : Only 8192 s (freeDrivers n s) := by
  unfold freeDrivers
  repeat' (first
      | (with_reducible exact Only.refl _ _) | (with_reducible assumption)
      | (simp (maxDischargeDepth := 20) (contextual := true) only [Only.ite, Only.refl, Only.foldl, implies_true,
          reduceCtorEq, Nat.reduceOr, modOs_nx, *]; done)
      | (with_reducible refine Only.foldl _ _ ?_ (fun t x ht => ?_)) | split | (dsimp only; split)
      | (with_reducible refine modOs_nx ?_ rfl))
theorem freeDrivers_nx {M : Nat} {s tS : State} {n : Nat} (hOnly : Only M s tS) (hSub : M ||| 8192 = M) :
    Only M s (freeDrivers n tS) :=
  hOnly.step (freeDrivers_only ..) hSub
theorem bowClose_only (c : Side) (s : State) : Only 532480 s (bowClose c s) := by
  unfold bowClose
  repeat' (first
      | (with_reducible exact Only.refl _ _) | (with_reducible assumption)
      | (simp (maxDischargeDepth := 20) (contextual := true) only [Only.ite, Only.refl, Only.foldl, implies_true,
          reduceCtorEq, Nat.reduceOr, abandonDark_nx, modOs_nx, takeFree_nx, *]; done)
      | (with_reducible refine Only.foldl _ _ ?_ (fun t x ht => ?_)) | split | (dsimp only; split)
      | (with_reducible refine abandonDark_nx ?_ rfl) | (with_reducible refine modOs_nx ?_ rfl)
      | (with_reducible refine takeFree_nx ?_ rfl))
theorem bowClose_nx {M : Nat} {s tS : State} {c : Side} (hOnly : Only M s tS) (hSub : M ||| 532480 = M) :
    Only M s (bowClose c tS) :=
  hOnly.step (bowClose_only ..) hSub
end Sys2Proof.Machine
end

