-- ==== Sys2Proof/Laws/FrameLinks.lean ====
section
/-!
SUPPORT. Sys2Proof/Laws/FrameLinks.lean: the frames of the operations and commands of Machine/Links.lean: `op_only` names all that an
operation can change; `op_nx` is the same at the end of a chain of operations.
-/
set_option linter.unusedSimpArgs false
set_option linter.unusedVariables false
namespace Sys2Proof.Machine
theorem linkCorrected_only (cause : Nat) (n : Fin 4) (reason : Nat) (s : State) :
    Only 385040 s (linkCorrected cause n reason s) := by
  unfold linkCorrected
  repeat' (first
      | (with_reducible exact Only.refl _ _) | (with_reducible assumption)
      | (simp (maxDischargeDepth := 20) (contextual := true) only [Only.ite, Only.refl, Only.foldl, implies_true,
          reduceCtorEq, Nat.reduceOr, recordFault_corr_nx, *]; done)
      | (with_reducible refine Only.foldl _ _ ?_ (fun t x ht => ?_)) | split | (dsimp only; split)
      | (with_reducible refine recordFault_corr_nx ?_ rfl))
theorem linkCorrected_nx {M : Nat} {s tS : State} {cause : Nat} {n : Fin 4} {reason : Nat} (hOnly : Only M s tS) (hSub :
    M ||| 385040 = M) : Only M s (linkCorrected cause n reason tS) :=
  hOnly.step (linkCorrected_only ..) hSub
theorem plTune_only (n : Fin 4) (s : State) : Only 81920 s (plTune n s) := by
  unfold plTune
  repeat' (first
      | (with_reducible exact Only.refl _ _) | (with_reducible assumption)
      | (simp (maxDischargeDepth := 20) (contextual := true) only [Only.ite, Only.refl, Only.foldl, implies_true,
          reduceCtorEq, Nat.reduceOr, modPlPort_nx, plState_nx, *]; done)
      | (with_reducible refine Only.foldl _ _ ?_ (fun t x ht => ?_)) | split | (dsimp only; split)
      | (with_reducible refine modPlPort_nx ?_ rfl) | (with_reducible refine plState_nx ?_ rfl))
theorem plTune_nx {M : Nat} {s tS : State} {n : Fin 4} (hOnly : Only M s tS) (hSub : M ||| 81920 = M) :
    Only M s (plTune n tS) :=
  hOnly.step (plTune_only ..) hSub
theorem plAlign_only (n : Fin 4) (s : State) : Only 81920 s (plAlign n s) := by
  unfold plAlign
  repeat' (first
      | (with_reducible exact Only.refl _ _) | (with_reducible assumption)
      | (simp (maxDischargeDepth := 20) (contextual := true) only [Only.ite, Only.refl, Only.foldl, implies_true,
          reduceCtorEq, Nat.reduceOr, plState_nx, plTune_nx, *]; done)
      | (with_reducible refine Only.foldl _ _ ?_ (fun t x ht => ?_)) | split | (dsimp only; split)
      | (with_reducible refine plState_nx ?_ rfl) | (with_reducible refine plTune_nx ?_ rfl))
theorem plAlign_nx {M : Nat} {s tS : State} {n : Fin 4} (hOnly : Only M s tS) (hSub : M ||| 81920 = M) :
    Only M s (plAlign n tS) :=
  hOnly.step (plAlign_only ..) hSub
theorem plDown_only (n : Fin 4) (s : State) : Only 81920 s (plDown n s) := by
  unfold plDown
  repeat' (first
      | (with_reducible exact Only.refl _ _) | (with_reducible assumption)
      | (simp (maxDischargeDepth := 20) (contextual := true) only [Only.ite, Only.refl, Only.foldl, implies_true,
          reduceCtorEq, Nat.reduceOr, plAlign_nx, plState_nx, *]; done)
      | (with_reducible refine Only.foldl _ _ ?_ (fun t x ht => ?_)) | split | (dsimp only; split)
      | (with_reducible refine plAlign_nx ?_ rfl) | (with_reducible refine plState_nx ?_ rfl))
theorem plDown_nx {M : Nat} {s tS : State} {n : Fin 4} (hOnly : Only M s tS) (hSub : M ||| 81920 = M) :
    Only M s (plDown n tS) :=
  hOnly.step (plDown_only ..) hSub
theorem plRelease_only (n : Fin 4) (s : State) : Only 81920 s (plRelease n s) := by
  unfold plRelease
  repeat' (first
      | (with_reducible exact Only.refl _ _) | (with_reducible assumption)
      | (simp (maxDischargeDepth := 20) (contextual := true) only [Only.ite, Only.refl, Only.foldl, implies_true,
          reduceCtorEq, Nat.reduceOr, plAlign_nx, plDown_nx, *]; done)
      | (with_reducible refine Only.foldl _ _ ?_ (fun t x ht => ?_)) | split | (dsimp only; split)
      | (with_reducible refine plAlign_nx ?_ rfl) | (with_reducible refine plDown_nx ?_ rfl))
theorem plRelease_nx {M : Nat} {s tS : State} {n : Fin 4} (hOnly : Only M s tS) (hSub : M ||| 81920 = M) :
    Only M s (plRelease n tS) :=
  hOnly.step (plRelease_only ..) hSub
theorem plUp_only (n : Fin 4) (s : State) : Only 81920 s (plUp n s) := by
  unfold plUp
  repeat' (first
      | (with_reducible exact Only.refl _ _) | (with_reducible assumption)
      | (simp (maxDischargeDepth := 20) (contextual := true) only [Only.ite, Only.refl, Only.foldl, implies_true,
          reduceCtorEq, Nat.reduceOr, modPlPort_nx, plState_nx, *]; done)
      | (with_reducible refine Only.foldl _ _ ?_ (fun t x ht => ?_)) | split | (dsimp only; split)
      | (with_reducible refine modPlPort_nx ?_ rfl) | (with_reducible refine plState_nx ?_ rfl))
theorem plUp_nx {M : Nat} {s tS : State} {n : Fin 4} (hOnly : Only M s tS) (hSub : M ||| 81920 = M) : Only M s (plUp n tS) :=
  hOnly.step (plUp_only ..) hSub
theorem tuneDone_only (n : Fin 4) (s : State) : Only 385040 s (tuneDone n s) := by
  unfold tuneDone
  repeat' (first
      | (with_reducible exact Only.refl _ _) | (with_reducible assumption)
      | (simp (maxDischargeDepth := 20) (contextual := true) only [Only.ite, Only.refl, Only.foldl, implies_true,
          reduceCtorEq, Nat.reduceOr, linkCorrected_nx, modPlPort_nx, plState_nx, plUp_nx, *]; done)
      | (with_reducible refine Only.foldl _ _ ?_ (fun t x ht => ?_)) | split | (dsimp only; split)
      | (with_reducible refine linkCorrected_nx ?_ rfl) | (with_reducible refine modPlPort_nx ?_ rfl)
      | (with_reducible refine plState_nx ?_ rfl) | (with_reducible refine plUp_nx ?_ rfl))
theorem tuneDone_nx {M : Nat} {s tS : State} {n : Fin 4} (hOnly : Only M s tS) (hSub : M ||| 385040 = M) :
    Only M s (tuneDone n tS) :=
  hOnly.step (tuneDone_only ..) hSub
theorem linkLoss_only (n : Fin 4) (next : PlState) (s : State) : Only 385040 s (linkLoss n next s) := by
  unfold linkLoss
  repeat' (first
      | (with_reducible exact Only.refl _ _) | (with_reducible assumption)
      | (simp (maxDischargeDepth := 20) (contextual := true) only [Only.ite, Only.refl, Only.foldl, implies_true,
          reduceCtorEq, Nat.reduceOr, abortSends_nx, keepImage_nx, linkCorrected_nx, modPlPort_nx, plState_nx, *]; done)
      | (with_reducible refine Only.foldl _ _ ?_ (fun t x ht => ?_)) | split | (dsimp only; split)
      | (with_reducible refine abortSends_nx ?_ rfl) | (with_reducible refine keepImage_nx ?_ rfl)
      | (with_reducible refine linkCorrected_nx ?_ rfl) | (with_reducible refine modPlPort_nx ?_ rfl)
      | (with_reducible refine plState_nx ?_ rfl))
theorem linkLoss_nx {M : Nat} {s tS : State} {n : Fin 4} {next : PlState} (hOnly : Only M s tS) (hSub : M ||| 385040 = M) :
    Only M s (linkLoss n next tS) :=
  hOnly.step (linkLoss_only ..) hSub
theorem execLinkSignalPresent_only (n : Fin 4) (s : State) : OnlyO 81920 s (execLinkSignalPresent n s) := by
  unfold execLinkSignalPresent
  refine OnlyO.next ?_
  repeat' (first
      | (with_reducible exact Only.refl _ _) | (with_reducible assumption)
      | (simp (maxDischargeDepth := 20) (contextual := true) only [Only.ite, Only.refl, Only.foldl, implies_true,
          reduceCtorEq, Nat.reduceOr, keepImage_nx, modPlPort_nx, plAlign_nx, *]; done)
      | (with_reducible refine Only.foldl _ _ ?_ (fun t x ht => ?_)) | split | (dsimp only; split)
      | (with_reducible refine keepImage_nx ?_ rfl) | (with_reducible refine modPlPort_nx ?_ rfl)
      | (with_reducible refine plAlign_nx ?_ rfl))
theorem execLinkSignalLoss_only (n : Fin 4) (s : State) : OnlyO 385040 s (execLinkSignalLoss n s) := by
  unfold execLinkSignalLoss
  refine OnlyO.next ?_
  repeat' (first
      | (with_reducible exact Only.refl _ _) | (with_reducible assumption)
      | (simp (maxDischargeDepth := 20) (contextual := true) only [Only.ite, Only.refl, Only.foldl, implies_true,
          reduceCtorEq, Nat.reduceOr, keepImage_nx, linkLoss_nx, modPlPort_nx, plState_nx, *]; done)
      | (with_reducible refine Only.foldl _ _ ?_ (fun t x ht => ?_)) | split | (dsimp only; split)
      | (with_reducible refine keepImage_nx ?_ rfl) | (with_reducible refine linkLoss_nx ?_ rfl)
      | (with_reducible refine modPlPort_nx ?_ rfl) | (with_reducible refine plState_nx ?_ rfl))
theorem execLinkAligned_only (n : Fin 4) (s : State) : OnlyO 81920 s (execLinkAligned n s) := by
  unfold execLinkAligned
  refine OnlyO.next ?_
  repeat' (first
      | (with_reducible exact Only.refl _ _) | (with_reducible assumption)
      | (simp (maxDischargeDepth := 20) (contextual := true) only [Only.ite, Only.refl, Only.foldl, implies_true,
          reduceCtorEq, Nat.reduceOr, keepImage_nx, modPlPort_nx, plTune_nx, *]; done)
      | (with_reducible refine Only.foldl _ _ ?_ (fun t x ht => ?_)) | split | (dsimp only; split)
      | (with_reducible refine keepImage_nx ?_ rfl) | (with_reducible refine modPlPort_nx ?_ rfl)
      | (with_reducible refine plTune_nx ?_ rfl))
theorem execTuneTimeout_only (n : Fin 4) (s : State) : OnlyO 81920 s (execTuneTimeout n s) := by
  unfold execTuneTimeout
  refine OnlyO.next ?_
  repeat' (first
      | (with_reducible exact Only.refl _ _) | (with_reducible assumption)
      | (simp (maxDischargeDepth := 20) (contextual := true) only [Only.ite, Only.refl, Only.foldl, implies_true,
          reduceCtorEq, Nat.reduceOr, keepImage_nx, plState_nx, *]; done)
      | (with_reducible refine Only.foldl _ _ ?_ (fun t x ht => ?_)) | split | (dsimp only; split)
      | (with_reducible refine keepImage_nx ?_ rfl) | (with_reducible refine plState_nx ?_ rfl))
theorem execLostExpiry_only (n : Fin 4) (s : State) : OnlyO 81920 s (execLostExpiry n s) := by
  unfold execLostExpiry
  refine OnlyO.next ?_
  repeat' (first
      | (with_reducible exact Only.refl _ _) | (with_reducible assumption)
      | (simp (maxDischargeDepth := 20) (contextual := true) only [Only.ite, Only.refl, Only.foldl, implies_true,
          reduceCtorEq, Nat.reduceOr, keepImage_nx, plAlign_nx, plDown_nx, *]; done)
      | (with_reducible refine Only.foldl _ _ ?_ (fun t x ht => ?_)) | split | (dsimp only; split)
      | (with_reducible refine keepImage_nx ?_ rfl) | (with_reducible refine plAlign_nx ?_ rfl)
      | (with_reducible refine plDown_nx ?_ rfl))
theorem execDetachWindowExpiry_only (n : Fin 4) (s : State) : OnlyO 65536 s (execDetachWindowExpiry n s) := by
  unfold execDetachWindowExpiry
  refine OnlyO.next ?_
  repeat' (first
      | (with_reducible exact Only.refl _ _) | (with_reducible assumption)
      | (simp (maxDischargeDepth := 20) (contextual := true) only [Only.ite, Only.refl, Only.foldl, implies_true,
          reduceCtorEq, Nat.reduceOr, keepImage_nx, modPlPort_nx, *]; done)
      | (with_reducible refine Only.foldl _ _ ?_ (fun t x ht => ?_)) | split | (dsimp only; split)
      | (with_reducible refine keepImage_nx ?_ rfl) | (with_reducible refine modPlPort_nx ?_ rfl))
theorem snoop_only (k : Nat) (v : Word) (s : State) : Only 131072 s (snoop k v s) := by
  unfold snoop
  repeat' (first
      | (with_reducible exact Only.refl _ _) | (with_reducible assumption)
      | (simp (maxDischargeDepth := 20) (contextual := true) only [Only.ite, Only.refl, Only.foldl, implies_true,
          reduceCtorEq, Nat.reduceOr, modCv_nx, *]; done)
      | (with_reducible refine Only.foldl _ _ ?_ (fun t x ht => ?_)) | split | (dsimp only; split)
      | (with_reducible refine modCv_nx ?_ rfl))
theorem snoop_nx {M : Nat} {s tS : State} {k : Nat} {v : Word} (hOnly : Only M s tS) (hSub : M ||| 131072 = M) :
    Only M s (snoop k v tS) :=
  hOnly.step (snoop_only ..) hSub
theorem sendStep_only (n : Fin 4) (s : State) : Only 98304 s (sendStep n s) := by
  unfold sendStep
  repeat' (first
      | (with_reducible exact Only.refl _ _) | (with_reducible assumption)
      | (simp (maxDischargeDepth := 20) (contextual := true) only [Only.ite, Only.refl, Only.foldl, implies_true,
          reduceCtorEq, Nat.reduceOr, endItem_nx, modPlPort_nx, *]; done)
      | (with_reducible refine Only.foldl _ _ ?_ (fun t x ht => ?_)) | split | (dsimp only; split)
      | (with_reducible refine endItem_nx ?_ rfl) | (with_reducible refine modPlPort_nx ?_ rfl))
theorem sendStep_nx {M : Nat} {s tS : State} {n : Fin 4} (hOnly : Only M s tS) (hSub : M ||| 98304 = M) :
    Only M s (sendStep n tS) :=
  hOnly.step (sendStep_only ..) hSub
theorem execLinkCycle_only (n : Fin 4) (s : State) : OnlyO 229376 s (execLinkCycle n s) := by
  unfold execLinkCycle
  refine OnlyO.next ?_
  repeat' (first
      | (with_reducible exact Only.refl _ _) | (with_reducible assumption)
      | (simp (maxDischargeDepth := 20) (contextual := true) only [Only.ite, Only.refl, Only.foldl, implies_true,
          reduceCtorEq, Nat.reduceOr, modPlPort_nx, sendStep_nx, snoop_nx, *]; done)
      | (with_reducible refine Only.foldl _ _ ?_ (fun t x ht => ?_)) | split | (dsimp only; split)
      | (with_reducible refine modPlPort_nx ?_ rfl) | (with_reducible refine sendStep_nx ?_ rfl)
      | (with_reducible refine snoop_nx ?_ rfl))
theorem execLinkWatchdog_only (n : Fin 4) (s : State) : OnlyO 385040 s (execLinkWatchdog n s) := by
  unfold execLinkWatchdog
  refine OnlyO.next ?_
  repeat' (first
      | (with_reducible exact Only.refl _ _) | (with_reducible assumption)
      | (simp (maxDischargeDepth := 20) (contextual := true) only [Only.ite, Only.refl, Only.foldl, implies_true,
          reduceCtorEq, Nat.reduceOr, keepImage_nx, linkLoss_nx, *]; done)
      | (with_reducible refine Only.foldl _ _ ?_ (fun t x ht => ?_)) | split | (dsimp only; split)
      | (with_reducible refine keepImage_nx ?_ rfl) | (with_reducible refine linkLoss_nx ?_ rfl))
theorem takeSafety_only (n : Fin 4) (seqx : Word) (bs : List Byte) (s : State) : Only 65664 s (takeSafety n seqx bs s) := by
  unfold takeSafety
  repeat' (first
      | (with_reducible exact Only.refl _ _) | (with_reducible assumption)
      | (simp (maxDischargeDepth := 20) (contextual := true) only [Only.ite, Only.refl, Only.foldl, implies_true,
          reduceCtorEq, Nat.reduceOr, modPlPort_nx, tbEvent_nx, *]; done)
      | (with_reducible refine Only.foldl _ _ ?_ (fun t x ht => ?_)) | split | (dsimp only; split)
      | (with_reducible refine modPlPort_nx ?_ rfl) | (with_reducible refine tbEvent_nx ?_ rfl))
theorem takeSafety_nx {M : Nat} {s tS : State} {n : Fin 4} {seqx : Word} {bs : List Byte} (hOnly : Only M s tS) (hSub :
    M ||| 65664 = M) : Only M s (takeSafety n seqx bs tS) :=
  hOnly.step (takeSafety_only ..) hSub
theorem execFrameReceived_only (n : Fin 4) (framed : Bool) (bytes : List Byte) (s : State) :
    OnlyO 516240 s (execFrameReceived n framed bytes s) := by
  unfold execFrameReceived
  refine OnlyO.next ?_
  repeat' (first
      | (with_reducible exact Only.refl _ _) | (with_reducible assumption)
      | (simp (maxDischargeDepth := 20) (contextual := true) only [Only.ite, Only.refl, Only.foldl, implies_true,
          reduceCtorEq, Nat.reduceOr, keepImage_nx, linkCorrected_nx, linkLoss_nx, modPlPort_nx, snoop_nx, takeSafety_nx,
          tuneDone_nx, *]; done)
      | (with_reducible refine Only.foldl _ _ ?_ (fun t x ht => ?_)) | split | (dsimp only; split)
      | (with_reducible refine keepImage_nx ?_ rfl) | (with_reducible refine linkCorrected_nx ?_ rfl)
      | (with_reducible refine linkLoss_nx ?_ rfl) | (with_reducible refine modPlPort_nx ?_ rfl)
      | (with_reducible refine snoop_nx ?_ rfl) | (with_reducible refine takeSafety_nx ?_ rfl)
      | (with_reducible refine tuneDone_nx ?_ rfl))
theorem acceptPorts_only (xs ys : List Word) (s : State) : Only 81920 s (acceptPorts xs ys s) := by
  unfold acceptPorts
  repeat' (first
      | (with_reducible exact Only.refl _ _) | (with_reducible assumption)
      | (simp (maxDischargeDepth := 20) (contextual := true) only [Only.ite, Only.refl, Only.foldl, implies_true,
          reduceCtorEq, Nat.reduceOr, keepImage_nx, plUp_nx, *]; done)
      | (with_reducible refine Only.foldl _ _ ?_ (fun t x ht => ?_)) | split | (dsimp only; split)
      | (with_reducible refine keepImage_nx ?_ rfl) | (with_reducible refine plUp_nx ?_ rfl))
theorem acceptPorts_nx {M : Nat} {s tS : State} {xs ys : List Word} (hOnly : Only M s tS) (hSub : M ||| 81920 = M) :
    Only M s (acceptPorts xs ys tS) :=
  hOnly.step (acceptPorts_only ..) hSub
theorem comparePayload_only (xs ys : List Word) (s : State) : Only 1044478 s (comparePayload xs ys s) := by
  unfold comparePayload
  repeat' (first
      | (with_reducible exact Only.refl _ _) | (with_reducible assumption)
      | (simp (maxDischargeDepth := 20) (contextual := true) only [Only.ite, Only.refl, Only.foldl, implies_true,
          reduceCtorEq, Nat.reduceOr, modPl_nx, recordFault_nx, *]; done)
      | (with_reducible refine Only.foldl _ _ ?_ (fun t x ht => ?_)) | split | (dsimp only; split)
      | (with_reducible refine modPl_nx ?_ rfl) | (with_reducible refine recordFault_nx ?_ rfl))
theorem comparePayload_nx {M : Nat} {s tS : State} {xs ys : List Word} (hOnly : Only M s tS) (hSub : M ||| 1044478 = M) :
    Only M s (comparePayload xs ys tS) :=
  hOnly.step (comparePayload_only ..) hSub
theorem postPayload_only (c : Side) (s : State) : Only 1044478 s (postPayload c s) := by
  unfold postPayload
  repeat' (first
      | (with_reducible exact Only.refl _ _) | (with_reducible assumption)
      | (simp (maxDischargeDepth := 20) (contextual := true) only [Only.ite, Only.refl, Only.foldl, implies_true,
          reduceCtorEq, Nat.reduceOr, acceptPorts_nx, comparePayload_nx, modPl_nx, *]; done)
      | (with_reducible refine Only.foldl _ _ ?_ (fun t x ht => ?_)) | split | (dsimp only; split)
      | (with_reducible refine acceptPorts_nx ?_ rfl) | (with_reducible refine comparePayload_nx ?_ rfl)
      | (with_reducible refine modPl_nx ?_ rfl))
theorem postPayload_nx {M : Nat} {s tS : State} {c : Side} (hOnly : Only M s tS) (hSub : M ||| 1044478 = M) :
    Only M s (postPayload c tS) :=
  hOnly.step (postPayload_only ..) hSub
end Sys2Proof.Machine
end

