-- ==== Sys2Proof/Laws/FrameTimers.lean ====
section
/-!
SUPPORT. Sys2Proof/Laws/FrameTimers.lean: the frames of the operations and commands of Machine/Timers.lean: `op_only` names all that an
operation can change; `op_nx` is the same at the end of a chain of operations.
-/
set_option linter.unusedSimpArgs false
set_option linter.unusedVariables false
namespace Sys2Proof.Machine
theorem pgEvent_only (g : Fin 16) (at_ : Tick) (s : State) : Only 278912 s (pgEvent g at_ s) := by
  unfold pgEvent
  repeat' (first
      | (with_reducible exact Only.refl _ _) | (with_reducible assumption)
      | (simp (maxDischargeDepth := 20) (contextual := true) only [Only.ite, Only.refl, Only.foldl, implies_true,
          reduceCtorEq, Nat.reduceOr, modMs_nx, modSt_nx, modTb_nx, raiseEventIrq_nx, tbEvent_nx, *]; done)
      | (with_reducible refine Only.foldl _ _ ?_ (fun t x ht => ?_)) | split | (dsimp only; split)
      | (with_reducible refine modMs_nx ?_ rfl) | (with_reducible refine modSt_nx ?_ rfl)
      | (with_reducible refine modTb_nx ?_ rfl) | (with_reducible refine raiseEventIrq_nx ?_ rfl)
      | (with_reducible refine tbEvent_nx ?_ rfl))
theorem pgEvent_nx {M : Nat} {s tS : State} {g : Fin 16} {at_ : Tick} (hOnly : Only M s tS) (hSub : M ||| 278912 = M) :
    Only M s (pgEvent g at_ tS) :=
  hOnly.step (pgEvent_only ..) hSub
theorem pgDue_only (g : Fin 16) (s : State) : Only 278912 s (pgDue g s) := by
  unfold pgDue
  repeat' (first
      | (with_reducible exact Only.refl _ _) | (with_reducible assumption)
      | (simp (maxDischargeDepth := 20) (contextual := true) only [Only.ite, Only.refl, Only.foldl, implies_true,
          reduceCtorEq, Nat.reduceOr, modTb_nx, pgEvent_nx, *]; done)
      | (with_reducible refine Only.foldl _ _ ?_ (fun t x ht => ?_)) | split | (dsimp only; split)
      | (with_reducible refine modTb_nx ?_ rfl) | (with_reducible refine pgEvent_nx ?_ rfl))
theorem pgDue_nx {M : Nat} {s tS : State} {g : Fin 16} (hOnly : Only M s tS) (hSub : M ||| 278912 = M) :
    Only M s (pgDue g tS) :=
  hOnly.step (pgDue_only ..) hSub
theorem execPgWrap_only (g : Fin 16) (s : State) : OnlyO 278912 s (execPgWrap g s) := by
  unfold execPgWrap
  refine OnlyO.next ?_
  repeat' (first
      | (with_reducible exact Only.refl _ _) | (with_reducible assumption)
      | (simp (maxDischargeDepth := 20) (contextual := true) only [Only.ite, Only.refl, Only.foldl, implies_true,
          reduceCtorEq, Nat.reduceOr, pgDue_nx, *]; done)
      | (with_reducible refine Only.foldl _ _ ?_ (fun t x ht => ?_)) | split | (dsimp only; split)
      | (with_reducible refine pgDue_nx ?_ rfl))
theorem pgHost_nx {M : Nat} {s t : State} {p : Side} {g : Fin 16} {f : State → State} (h : Only M s t) (hp :
    M ||| 16384 = M) (hq : M ||| 278912 = M) (hf : ∀ u, Only M s u → Only M s (f u)) : Only M s (pgHost p g f t) := by
  unfold pgHost; split
  · exact countRefused_nx h hp
  · exact hf _ (pgDue_nx h hq)

theorem pgReloadWrite_only (port : Side) (g : Fin 16) (v : Word) (s : State) : Only 385424 s (pgReloadWrite port g v s) := by
  unfold pgReloadWrite
  repeat' (first
      | (with_reducible exact Only.refl _ _) | (with_reducible assumption)
      | (simp (maxDischargeDepth := 20) (contextual := true) only [Only.ite, Only.refl, Only.foldl, implies_true,
          reduceCtorEq, Nat.reduceOr, modTb_nx, pgHost_nx, recordAccess_nx, *]; done)
      | (with_reducible refine Only.foldl _ _ ?_ (fun t x ht => ?_)) | split | (dsimp only; split)
      | (with_reducible refine modTb_nx ?_ rfl) | (with_reducible refine pgHost_nx ?_ rfl rfl (fun u hu => ?_))
      | (with_reducible refine recordAccess_nx ?_ rfl))
theorem pgReloadWrite_nx {M : Nat} {s tS : State} {port : Side} {g : Fin 16} {v : Word} (hOnly : Only M s tS) (hSub :
    M ||| 385424 = M) : Only M s (pgReloadWrite port g v tS) :=
  hOnly.step (pgReloadWrite_only ..) hSub
theorem pgNow_only (port : Side) (g : Fin 16) (s : State) : Only 278912 s (pgNow port g s) := by
  unfold pgNow
  repeat' (first
      | (with_reducible exact Only.refl _ _) | (with_reducible assumption)
      | (simp (maxDischargeDepth := 20) (contextual := true) only [Only.ite, Only.refl, Only.foldl, implies_true,
          reduceCtorEq, Nat.reduceOr, modTb_nx, pgEvent_nx, pgHost_nx, *]; done)
      | (with_reducible refine Only.foldl _ _ ?_ (fun t x ht => ?_)) | split | (dsimp only; split)
      | (with_reducible refine modTb_nx ?_ rfl) | (with_reducible refine pgEvent_nx ?_ rfl)
      | (with_reducible refine pgHost_nx ?_ rfl rfl (fun u hu => ?_)))
theorem pgNow_nx {M : Nat} {s tS : State} {port : Side} {g : Fin 16} (hOnly : Only M s tS) (hSub : M ||| 278912 = M) :
    Only M s (pgNow port g tS) :=
  hOnly.step (pgNow_only ..) hSub
theorem pgEnable_only (port : Side) (g : Fin 16) (en : Bool) (s : State) : Only 278912 s (pgEnable port g en s) := by
  unfold pgEnable
  repeat' (first
      | (with_reducible exact Only.refl _ _) | (with_reducible assumption)
      | (simp (maxDischargeDepth := 20) (contextual := true) only [Only.ite, Only.refl, Only.foldl, implies_true,
          reduceCtorEq, Nat.reduceOr, modTb_nx, pgHost_nx, *]; done)
      | (with_reducible refine Only.foldl _ _ ?_ (fun t x ht => ?_)) | split | (dsimp only; split)
      | (with_reducible refine modTb_nx ?_ rfl) | (with_reducible refine pgHost_nx ?_ rfl rfl (fun u hu => ?_)))
theorem pgEnable_nx {M : Nat} {s tS : State} {port : Side} {g : Fin 16} {en : Bool} (hOnly : Only M s tS) (hSub :
    M ||| 278912 = M) : Only M s (pgEnable port g en tS) :=
  hOnly.step (pgEnable_only ..) hSub
theorem pgGo_only (port : Side) (mask : BitVec 16) (s : State) : Only 278912 s (pgGo port mask s) := by
  unfold pgGo
  repeat' (first
      | (with_reducible exact Only.refl _ _) | (with_reducible assumption)
      | (simp (maxDischargeDepth := 20) (contextual := true) only [Only.ite, Only.refl, Only.foldl, implies_true,
          reduceCtorEq, Nat.reduceOr, countRefused_nx, modTb_nx, pgDue_nx, pgEvent_nx, *]; done)
      | (with_reducible refine Only.foldl _ _ ?_ (fun t x ht => ?_)) | split | (dsimp only; split)
      | (with_reducible refine countRefused_nx ?_ rfl) | (with_reducible refine modTb_nx ?_ rfl)
      | (with_reducible refine pgDue_nx ?_ rfl) | (with_reducible refine pgEvent_nx ?_ rfl))
theorem pgGo_nx {M : Nat} {s tS : State} {port : Side} {mask : BitVec 16} (hOnly : Only M s tS) (hSub : M ||| 278912 = M) :
    Only M s (pgGo port mask tS) :=
  hOnly.step (pgGo_only ..) hSub
theorem cmpDue_only (n : Fin 32) (s : State) : Only 16512 s (cmpDue n s) := by
  unfold cmpDue
  repeat' (first
      | (with_reducible exact Only.refl _ _) | (with_reducible assumption)
      | (simp (maxDischargeDepth := 20) (contextual := true) only [Only.ite, Only.refl, Only.foldl, implies_true,
          reduceCtorEq, Nat.reduceOr, modCmp_nx, modTb_nx, raiseEventIrq_nx, tbEvent_nx, *]; done)
      | (with_reducible refine Only.foldl _ _ ?_ (fun t x ht => ?_)) | split | (dsimp only; split)
      | (with_reducible refine modCmp_nx ?_ rfl) | (with_reducible refine modTb_nx ?_ rfl)
      | (with_reducible refine raiseEventIrq_nx ?_ rfl) | (with_reducible refine tbEvent_nx ?_ rfl))
theorem cmpDue_nx {M : Nat} {s tS : State} {n : Fin 32} (hOnly : Only M s tS) (hSub : M ||| 16512 = M) :
    Only M s (cmpDue n tS) :=
  hOnly.step (cmpDue_only ..) hSub
theorem cmpLoWrite_only (n : Fin 32) (v : Word) (s : State) : Only 128 s (cmpLoWrite n v s) := by
  unfold cmpLoWrite
  repeat' (first
      | (with_reducible exact Only.refl _ _) | (with_reducible assumption)
      | (simp (maxDischargeDepth := 20) (contextual := true) only [Only.ite, Only.refl, Only.foldl, implies_true,
          reduceCtorEq, Nat.reduceOr, modCmp_nx, *]; done)
      | (with_reducible refine Only.foldl _ _ ?_ (fun t x ht => ?_)) | split | (dsimp only; split)
      | (with_reducible refine modCmp_nx ?_ rfl))
theorem cmpLoWrite_nx {M : Nat} {s tS : State} {n : Fin 32} {v : Word} (hOnly : Only M s tS) (hSub : M ||| 128 = M) :
    Only M s (cmpLoWrite n v tS) :=
  hOnly.step (cmpLoWrite_only ..) hSub
theorem cmpHiWrite_only (n : Fin 32) (v : Word) (s : State) : Only 16512 s (cmpHiWrite n v s) := by
  unfold cmpHiWrite
  repeat' (first
      | (with_reducible exact Only.refl _ _) | (with_reducible assumption)
      | (simp (maxDischargeDepth := 20) (contextual := true) only [Only.ite, Only.refl, Only.foldl, implies_true,
          reduceCtorEq, Nat.reduceOr, cmpDue_nx, modCmp_nx, *]; done)
      | (with_reducible refine Only.foldl _ _ ?_ (fun t x ht => ?_)) | split | (dsimp only; split)
      | (with_reducible refine cmpDue_nx ?_ rfl) | (with_reducible refine modCmp_nx ?_ rfl))
theorem cmpHiWrite_nx {M : Nat} {s tS : State} {n : Fin 32} {v : Word} (hOnly : Only M s tS) (hSub : M ||| 16512 = M) :
    Only M s (cmpHiWrite n v tS) :=
  hOnly.step (cmpHiWrite_only ..) hSub
theorem cmpEnable_only (n : Fin 32) (en : Bool) (s : State) : Only 16512 s (cmpEnable n en s) := by
  unfold cmpEnable
  repeat' (first
      | (with_reducible exact Only.refl _ _) | (with_reducible assumption)
      | (simp (maxDischargeDepth := 20) (contextual := true) only [Only.ite, Only.refl, Only.foldl, implies_true,
          reduceCtorEq, Nat.reduceOr, cmpDue_nx, modCmp_nx, *]; done)
      | (with_reducible refine Only.foldl _ _ ?_ (fun t x ht => ?_)) | split | (dsimp only; split)
      | (with_reducible refine cmpDue_nx ?_ rfl) | (with_reducible refine modCmp_nx ?_ rfl))
theorem cmpEnable_nx {M : Nat} {s tS : State} {n : Fin 32} {en : Bool} (hOnly : Only M s tS) (hSub : M ||| 16512 = M) :
    Only M s (cmpEnable n en tS) :=
  hOnly.step (cmpEnable_only ..) hSub
theorem execCmpMatch_only (n : Fin 32) (s : State) : OnlyO 16512 s (execCmpMatch n s) := by
  unfold execCmpMatch
  refine OnlyO.next ?_
  repeat' (first
      | (with_reducible exact Only.refl _ _) | (with_reducible assumption)
      | (simp (maxDischargeDepth := 20) (contextual := true) only [Only.ite, Only.refl, Only.foldl, implies_true,
          reduceCtorEq, Nat.reduceOr, cmpDue_nx, *]; done)
      | (with_reducible refine Only.foldl _ _ ?_ (fun t x ht => ?_)) | split | (dsimp only; split)
      | (with_reducible refine cmpDue_nx ?_ rfl))
theorem execCaptureEvent_only (c : Fin 16) (level : Bool) (s : State) : OnlyO 16512 s (execCaptureEvent c level s) := by
  unfold execCaptureEvent
  refine OnlyO.next ?_
  repeat' (first
      | (with_reducible exact Only.refl _ _) | (with_reducible assumption)
      | (simp (maxDischargeDepth := 20) (contextual := true) only [Only.ite, Only.refl, Only.foldl, implies_true,
          reduceCtorEq, Nat.reduceOr, modCap_nx, raiseEventIrq_nx, *]; done)
      | (with_reducible refine Only.foldl _ _ ?_ (fun t x ht => ?_)) | split | (dsimp only; split)
      | (with_reducible refine modCap_nx ?_ rfl) | (with_reducible refine raiseEventIrq_nx ?_ rfl))
theorem capLoRead_only (port : Side) (c : Fin 16) (s : State) : Only 16512 s (capLoRead port c s) := by
  unfold capLoRead
  repeat' (first
      | (with_reducible exact Only.refl _ _) | (with_reducible assumption)
      | (simp (maxDischargeDepth := 20) (contextual := true) only [Only.ite, Only.refl, Only.foldl, implies_true,
          reduceCtorEq, Nat.reduceOr, latchHigh_nx, modCap_nx, readData_nx, *]; done)
      | (with_reducible refine Only.foldl _ _ ?_ (fun t x ht => ?_)) | split | (dsimp only; split)
      | (with_reducible refine latchHigh_nx ?_ rfl) | (with_reducible refine modCap_nx ?_ rfl)
      | (with_reducible refine readData_nx ?_ rfl))
theorem capLoRead_nx {M : Nat} {s tS : State} {port : Side} {c : Fin 16} (hOnly : Only M s tS) (hSub : M ||| 16512 = M) :
    Only M s (capLoRead port c tS) :=
  hOnly.step (capLoRead_only ..) hSub
theorem capCtlWrite_only (port : Side) (c : Fin 16) (v : Word) (s : State) : Only 385168 s (capCtlWrite port c v s) := by
  unfold capCtlWrite
  repeat' (first
      | (with_reducible exact Only.refl _ _) | (with_reducible assumption)
      | (simp (maxDischargeDepth := 20) (contextual := true) only [Only.ite, Only.refl, Only.foldl, implies_true,
          reduceCtorEq, Nat.reduceOr, modCap_nx, recordAccess_nx, *]; done)
      | (with_reducible refine Only.foldl _ _ ?_ (fun t x ht => ?_)) | split | (dsimp only; split)
      | (with_reducible refine modCap_nx ?_ rfl) | (with_reducible refine recordAccess_nx ?_ rfl))
theorem capCtlWrite_nx {M : Nat} {s tS : State} {port : Side} {c : Fin 16} {v : Word} (hOnly : Only M s tS) (hSub :
    M ||| 385168 = M) : Only M s (capCtlWrite port c v tS) :=
  hOnly.step (capCtlWrite_only ..) hSub
end Sys2Proof.Machine
end

