-- ==== Sys2Proof/Laws/FrameLife.lean ====
section
/-!
SUPPORT. Sys2Proof/Laws/FrameLife.lean: the frames of the operations and commands of Machine/Life.lean: `op_only` names all that an
operation can change; `op_nx` is the same at the end of a chain of operations.
-/
set_option linter.unusedSimpArgs false
set_option linter.unusedVariables false
namespace Sys2Proof.Machine
theorem faultIrq_only (b : Block) (c : FaultClass) (s : State) : Only 16384 s (faultIrq b c s) := by
  unfold faultIrq
  repeat' (first
      | (with_reducible exact Only.refl _ _) | (with_reducible assumption)
      | (simp (maxDischargeDepth := 20) (contextual := true) only [Only.ite, Only.refl, Only.foldl, implies_true,
          reduceCtorEq, Nat.reduceOr, raiseFaultIrq_nx, *]; done)
      | (with_reducible refine Only.foldl _ _ ?_ (fun t x ht => ?_)) | split | (dsimp only; split)
      | (with_reducible refine raiseFaultIrq_nx ?_ rfl))
theorem faultIrq_nx {M : Nat} {s tS : State} {b : Block} {c : FaultClass} (hOnly : Only M s tS) (hSub : M ||| 16384 = M) :
    Only M s (faultIrq b c tS) :=
  hOnly.step (faultIrq_only ..) hSub
theorem execStormExpiry_only (b : Block) (s : State) : OnlyO 16400 s (execStormExpiry b s) := by
  unfold execStormExpiry
  refine OnlyO.next ?_
  repeat' (first
      | (with_reducible exact Only.refl _ _) | (with_reducible assumption)
      | (simp (maxDischargeDepth := 20) (contextual := true) only [Only.ite, Only.refl, Only.foldl, implies_true,
          reduceCtorEq, Nat.reduceOr, faultIrq_nx, modRec_nx, *]; done)
      | (with_reducible refine Only.foldl _ _ ?_ (fun t x ht => ?_)) | split | (dsimp only; split)
      | (with_reducible refine faultIrq_nx ?_ rfl) | (with_reducible refine modRec_nx ?_ rfl))
theorem logCleared_only (b : Block) (i : FaultInst) (s : State) : Only 278544 s (logCleared b i s) := by
  unfold logCleared
  repeat' (first
      | (with_reducible exact Only.refl _ _) | (with_reducible assumption)
      | (simp (maxDischargeDepth := 20) (contextual := true) only [Only.ite, Only.refl, Only.foldl, implies_true,
          reduceCtorEq, Nat.reduceOr, logPush_nx, *]; done)
      | (with_reducible refine Only.foldl _ _ ?_ (fun t x ht => ?_)) | split | (dsimp only; split)
      | (with_reducible refine logPush_nx ?_ rfl))
theorem logCleared_nx {M : Nat} {s tS : State} {b : Block} {i : FaultInst} (hOnly : Only M s tS) (hSub : M ||| 278544 = M) :
    Only M s (logCleared b i tS) :=
  hOnly.step (logCleared_only ..) hSub
theorem storeBack_only (i : Side) (s : State) : Only 262144 s (storeBack i s) := by
  unfold storeBack
  repeat' (first
      | (with_reducible exact Only.refl _ _) | (with_reducible assumption)
      | (simp (maxDischargeDepth := 20) (contextual := true) only [Only.ite, Only.refl, Only.foldl, implies_true,
          reduceCtorEq, Nat.reduceOr, modStore_nx, *]; done)
      | (with_reducible refine Only.foldl _ _ ?_ (fun t x ht => ?_)) | split | (dsimp only; split)
      | (with_reducible refine modStore_nx ?_ rfl))
theorem storeBack_nx {M : Nat} {s tS : State} {i : Side} (hOnly : Only M s tS) (hSub : M ||| 262144 = M) :
    Only M s (storeBack i tS) :=
  hOnly.step (storeBack_only ..) hSub
theorem portBack_only (p : Side) (s : State) : Only 16384 s (portBack p s) := by
  unfold portBack
  repeat' (first
      | (with_reducible exact Only.refl _ _) | (with_reducible assumption)
      | (simp (maxDischargeDepth := 20) (contextual := true) only [Only.ite, Only.refl, Only.foldl, implies_true,
          reduceCtorEq, Nat.reduceOr, modHport_nx, *]; done)
      | (with_reducible refine Only.foldl _ _ ?_ (fun t x ht => ?_)) | split | (dsimp only; split)
      | (with_reducible refine modHport_nx ?_ rfl))
theorem portBack_nx {M : Nat} {s tS : State} {p : Side} (hOnly : Only M s tS) (hSub : M ||| 16384 = M) :
    Only M s (portBack p tS) :=
  hOnly.step (portBack_only ..) hSub
theorem clearedHook_only (b : Block) (i : FaultInst) (s : State) : Only 348160 s (clearedHook b i s) := by
  unfold clearedHook
  repeat' (first
      | (with_reducible exact Only.refl _ _) | (with_reducible assumption)
      | (simp (maxDischargeDepth := 20) (contextual := true) only [Only.ite, Only.refl, Only.foldl, implies_true,
          reduceCtorEq, Nat.reduceOr, afCleared_nx, plRelease_nx, portBack_nx, storeBack_nx, *]; done)
      | (with_reducible refine Only.foldl _ _ ?_ (fun t x ht => ?_)) | split | (dsimp only; split)
      | (with_reducible refine afCleared_nx ?_ rfl) | (with_reducible refine plRelease_nx ?_ rfl)
      | (with_reducible refine portBack_nx ?_ rfl) | (with_reducible refine storeBack_nx ?_ rfl))
theorem clearedHook_nx {M : Nat} {s tS : State} {b : Block} {i : FaultInst} (hOnly : Only M s tS) (hSub :
    M ||| 348160 = M) : Only M s (clearedHook b i tS) :=
  hOnly.step (clearedHook_only ..) hSub
theorem dropInst_only (b : Block) (i : FaultInst) (s : State) : Only 348176 s (dropInst b i s) := by
  unfold dropInst
  repeat' (first
      | (with_reducible exact Only.refl _ _) | (with_reducible assumption)
      | (simp (maxDischargeDepth := 20) (contextual := true) only [Only.ite, Only.refl, Only.foldl, implies_true,
          reduceCtorEq, Nat.reduceOr, clearedHook_nx, modRec_nx, *]; done)
      | (with_reducible refine Only.foldl _ _ ?_ (fun t x ht => ?_)) | split | (dsimp only; split)
      | (with_reducible refine clearedHook_nx ?_ rfl) | (with_reducible refine modRec_nx ?_ rfl))
theorem dropInst_nx {M : Nat} {s tS : State} {b : Block} {i : FaultInst} (hOnly : Only M s tS) (hSub : M ||| 348176 = M) :
    Only M s (dropInst b i tS) :=
  hOnly.step (dropInst_only ..) hSub
theorem conseqEnds_nx {M : Nat} {s t : State} {ends : Resource → State → State} {b : Block} {i : FaultInst} (hs :
    M ||| 348184 = M) (he : ∀ r u, Only M s u → Only M s (ends r u)) (h : Only M s t) :
    Only M s (conseqEnds ends b i t) := by
  have hsub : ∀ m, 348184 ||| m = 348184 → M ||| m = M := by
    intro m hm; rw [← hs, Nat.or_assoc, hm]
  unfold conseqEnds
  split
  · exact modRec_nx h (hsub _ rfl)
  · split
    · have h2 := logCleared_nx (b := b) (i := i) (dropInst_nx (b := b) (i := i) h (hsub _ rfl)) (hsub _ rfl)
      dsimp only
      split
      · exact he _ _ h2
      · exact h2
    · exact faultIrq_nx (modRec_nx h (hsub _ rfl)) (hsub _ rfl)
theorem lineGood_nx {M : Nat} {s t : State} {ends : Resource → State → State} {r : Resource} (hs : M ||| 348184 = M) (he :
    ∀ r u, Only M s u → Only M s (ends r u)) (h : Only M s t) : Only M s (lineGood ends r t) := by
  unfold lineGood
  dsimp only
  have h1 : Only M s { t with bad := t.bad.filter (fun x => x.1 != r) } := by
    refine h.step (m := 8) (by constructor <;> first | exact .inr rfl | exact .inl rfl) ?_
    rw [← hs, Nat.or_assoc]; rfl
  exact Only.foldl _ _ h1 (fun u b hu => Only.foldl _ _ hu (fun v i hv => conseqEnds_nx hs he hv))
theorem turnGood_only (r : Resource) (s : State) : Only 348184 s (turnGood r s) := by
  unfold turnGood
  exact lineGood_nx rfl (fun _ _ h => lineGood_nx rfl (fun _ _ h => lineGood_nx rfl (fun _ _ h => h) h) h) (Only.refl _ _)
theorem turnGood_nx {M : Nat} {s t : State} {r : Resource} (h : Only M s t) (hs : M ||| 348184 = M) :
    Only M s (turnGood r t) :=
  h.step (turnGood_only ..) hs

theorem escalate_only (b : Block) (i : FaultInst) (s : State) : Only 1044470 s (escalate b i s) := by
  unfold escalate
  repeat' (first
      | (with_reducible exact Only.refl _ _) | (with_reducible assumption)
      | (simp (maxDischargeDepth := 20) (contextual := true) only [Only.ite, Only.refl, Only.foldl, implies_true,
          reduceCtorEq, Nat.reduceOr, logFault_nx, recordCore_nx, *]; done)
      | (with_reducible refine Only.foldl _ _ ?_ (fun t x ht => ?_)) | split | (dsimp only; split)
      | (with_reducible refine logFault_nx ?_ rfl) | (with_reducible refine recordCore_nx ?_ rfl))
theorem escalate_nx {M : Nat} {s tS : State} {b : Block} {i : FaultInst} (hOnly : Only M s tS) (hSub : M ||| 1044470 = M) :
    Only M s (escalate b i tS) :=
  hOnly.step (escalate_only ..) hSub
theorem recover_only (b : Block) (i : FaultInst) (s : State) : Only 1048574 s (recover b i s) := by
  unfold recover
  repeat' (first
      | (with_reducible exact Only.refl _ _) | (with_reducible assumption)
      | (simp (maxDischargeDepth := 20) (contextual := true) only [Only.ite, Only.refl, Only.foldl, implies_true,
          reduceCtorEq, Nat.reduceOr, dropInst_nx, escalate_nx, logCleared_nx, modRec_nx, raiseFaultIrq_nx, turnGood_nx, *]; done)
      | (with_reducible refine Only.foldl _ _ ?_ (fun t x ht => ?_)) | split | (dsimp only; split)
      | (with_reducible refine dropInst_nx ?_ rfl) | (with_reducible refine escalate_nx ?_ rfl)
      | (with_reducible refine logCleared_nx ?_ rfl) | (with_reducible refine modRec_nx ?_ rfl)
      | (with_reducible refine raiseFaultIrq_nx ?_ rfl) | (with_reducible refine turnGood_nx ?_ rfl))
theorem recover_nx {M : Nat} {s tS : State} {b : Block} {i : FaultInst} (hOnly : Only M s tS) (hSub : M ||| 1048574 = M) :
    Only M s (recover b i tS) :=
  hOnly.step (recover_only ..) hSub
theorem execQuietExpiry_only (b : Block) (cause : Nat) (item : Nat) (s : State) :
    OnlyO 1048574 s (execQuietExpiry b cause item s) := by
  unfold execQuietExpiry
  refine OnlyO.next ?_
  repeat' (first
      | (with_reducible exact Only.refl _ _) | (with_reducible assumption)
      | (simp (maxDischargeDepth := 20) (contextual := true) only [Only.ite, Only.refl, Only.foldl, implies_true,
          reduceCtorEq, Nat.reduceOr, recover_nx, *]; done)
      | (with_reducible refine Only.foldl _ _ ?_ (fun t x ht => ?_)) | split | (dsimp only; split)
      | (with_reducible refine recover_nx ?_ rfl))
theorem toBlock_nx {M : Nat} {s t : State} {p : Side} {b : Block} {f : State → State} (h : Only M s t) (hp :
    M ||| 16384 = M) (hf : Only M s (f t)) : Only M s (toBlock p b f t) := by
  unfold toBlock; refine fromPort_nx h ?_; split
  · exact modHport_nx h hp
  · exact hf

theorem firstValidClear_only (b : Block) (s : State) : Only 16 s (firstValidClear b s) := by
  unfold firstValidClear
  repeat' (first
      | (with_reducible exact Only.refl _ _) | (with_reducible assumption)
      | (simp (maxDischargeDepth := 20) (contextual := true) only [Only.ite, Only.refl, Only.foldl, implies_true,
          reduceCtorEq, Nat.reduceOr, modRec_nx, *]; done)
      | (with_reducible refine Only.foldl _ _ ?_ (fun t x ht => ?_)) | split | (dsimp only; split)
      | (with_reducible refine modRec_nx ?_ rfl))
theorem firstValidClear_nx {M : Nat} {s tS : State} {b : Block} (hOnly : Only M s tS) (hSub : M ||| 16 = M) :
    Only M s (firstValidClear b tS) :=
  hOnly.step (firstValidClear_only ..) hSub
theorem frQuietWrite_only (port : Side) (b : Block) (v : Word) (s : State) : Only 385040 s (frQuietWrite port b v s) := by
  unfold frQuietWrite
  repeat' (first
      | (with_reducible exact Only.refl _ _) | (with_reducible assumption)
      | (simp (maxDischargeDepth := 20) (contextual := true) only [Only.ite, Only.refl, Only.foldl, implies_true,
          reduceCtorEq, Nat.reduceOr, countRefused_nx, modRec_nx, recordAccess_nx, setIdentities_nx, *]; done)
      | (with_reducible refine Only.foldl _ _ ?_ (fun t x ht => ?_)) | split | (dsimp only; split)
      | (with_reducible refine countRefused_nx ?_ rfl) | (with_reducible refine modRec_nx ?_ rfl)
      | (with_reducible refine recordAccess_nx ?_ rfl) | (with_reducible refine setIdentities_nx ?_ rfl))
theorem frQuietWrite_nx {M : Nat} {s tS : State} {port : Side} {b : Block} {v : Word} (hOnly : Only M s tS) (hSub :
    M ||| 385040 = M) : Only M s (frQuietWrite port b v tS) :=
  hOnly.step (frQuietWrite_only ..) hSub
theorem evClear_only (peak malf : Bool) (s : State) : Only 512 s (evClear peak malf s) := by
  unfold evClear
  repeat' (first
      | (with_reducible exact Only.refl _ _) | (with_reducible assumption)
      | (simp (maxDischargeDepth := 20) (contextual := true) only [Only.ite, Only.refl, Only.foldl, implies_true,
          reduceCtorEq, Nat.reduceOr, modEv_nx, *]; done)
      | (with_reducible refine Only.foldl _ _ ?_ (fun t x ht => ?_)) | split | (dsimp only; split)
      | (with_reducible refine modEv_nx ?_ rfl))
theorem evClear_nx {M : Nat} {s tS : State} {peak malf : Bool} (hOnly : Only M s tS) (hSub : M ||| 512 = M) :
    Only M s (evClear peak malf tS) :=
  hOnly.step (evClear_only ..) hSub
end Sys2Proof.Machine
end

