-- ==== Sys2Proof/Laws/FrameReset.lean ====
section
/-!
SUPPORT. Sys2Proof/Laws/FrameReset.lean: the frames of the operations and commands of Machine/Reset.lean: `op_only` names all that an
operation can change; `op_nx` is the same at the end of a chain of operations.
-/
set_option linter.unusedSimpArgs false
set_option linter.unusedVariables false
namespace Sys2Proof.Machine
theorem portReset_only (p : Side) (s : State) : Only 49408 s (portReset p s) := by
  unfold portReset
  repeat' (first
      | (with_reducible exact Only.refl _ _) | (with_reducible assumption)
      | (simp (maxDischargeDepth := 20) (contextual := true) only [Only.ite, Only.refl, Only.foldl, implies_true,
          reduceCtorEq, Nat.reduceOr, disown_nx, modHport_nx, modWport_nx, *]; done)
      | (with_reducible refine Only.foldl _ _ ?_ (fun t x ht => ?_)) | split | (dsimp only; split)
      | (with_reducible refine disown_nx ?_ rfl) | (with_reducible refine modHport_nx ?_ rfl)
      | (with_reducible refine modWport_nx ?_ rfl))
theorem portReset_nx {M : Nat} {s tS : State} {p : Side} (hOnly : Only M s tS) (hSub : M ||| 49408 = M) :
    Only M s (portReset p tS) :=
  hOnly.step (portReset_only ..) hSub
theorem demoteSlots_only (s : State) : Only 262144 s (demoteSlots s) := by
  unfold demoteSlots
  repeat' (first
      | (with_reducible exact Only.refl _ _) | (with_reducible assumption)
      | (simp (maxDischargeDepth := 20) (contextual := true) only [Only.ite, Only.refl, Only.foldl, implies_true,
          reduceCtorEq, Nat.reduceOr, modMs_nx, *]; done)
      | (with_reducible refine Only.foldl _ _ ?_ (fun t x ht => ?_)) | split | (dsimp only; split)
      | (with_reducible refine modMs_nx ?_ rfl))
theorem demoteSlots_nx {M : Nat} {s tS : State}  (hOnly : Only M s tS) (hSub : M ||| 262144 = M) :
    Only M s (demoteSlots tS) :=
  hOnly.step (demoteSlots_only ..) hSub
theorem endItem_nx_eq (p : Side) (n : Fin 8) (c : Nat) (r : Word) (s : State) : (endItem p n c r s).st = s.st :=
  ((endItem_only p n c r s).st).resolve_left (by decide)
theorem coreResetItems_only (s : State) : Only 98560 s (coreResetItems s) := by
  unfold coreResetItems
  dsimp only
  refine modWq_nx (Only.foldl _ _ (modeDrop_nx ?_ rfl) (fun t x ht => abortSends_nx ht rfl)) rfl
  have key : ∀ u : State, Only 98560 s u → ∀ (p n), Only 98560 s (endItem p n 0x0301 0 { u with st := { u.st with ack := none } }) := by
    intro u h0 p n
    exact endItem_nx (h0.step (m := 256) (by constructor <;> first | exact .inr rfl | exact .inl rfl) rfl) rfl
  cases hf : s.st.full with
  | none =>
    dsimp only
    split
    · exact key _ (Only.refl _ _) _ _
    · exact Only.refl _ _
  | some w =>
    dsimp only
    split
    · exact key _ (endItem_nx (Only.refl _ _) rfl) _ _
    · exact endItem_nx (Only.refl _ _) rfl
theorem coreResetItems_nx {M : Nat} {s t : State} (h : Only M s t) (hs : M ||| 98560 = M) : Only M s (coreResetItems t) :=
  h.step (coreResetItems_only _) hs

theorem toReset_only (s : State) : Only 1044470 s (toReset s) := by
  unfold toReset
  repeat' (first
      | (with_reducible exact Only.refl _ _) | (with_reducible assumption)
      | (simp (maxDischargeDepth := 20) (contextual := true) only [Only.ite, Only.refl, Only.foldl, implies_true,
          reduceCtorEq, Nat.reduceOr, setDev_nx, *]; done)
      | (with_reducible refine Only.foldl _ _ ?_ (fun t x ht => ?_)) | split | (dsimp only; split)
      | (with_reducible refine setDev_nx ?_ rfl))
theorem toReset_nx {M : Nat} {s tS : State}  (hOnly : Only M s tS) (hSub : M ||| 1044470 = M) : Only M s (toReset tS) :=
  hOnly.step (toReset_only ..) hSub
theorem applyCore_pending (s : State) : (applyCore s).pending = s.pending := by
  unfold applyCore
  dsimp only
  have h : Only 1048574 s (idleCells (stopCores (toReset (coreResetItems s)))) :=
    idleCells_nx (stopCores_nx (toReset_nx (coreResetItems_nx (Only.refl _ _) rfl) rfl) rfl) rfl
  exact h.pending.resolve_left (by decide)
theorem Only.all {s t : State} (h : t.pending = s.pending) : Only 1048574 s t := by
  constructor <;> first | exact .inl rfl | exact .inr h
theorem applyCore_nx {M : Nat} {s t : State} (h : Only M s t) (hs : M ||| 1048574 = M) : Only M s (applyCore t) :=
  h.step (Only.all (applyCore_pending t)) hs

theorem applySystem_pending (s : State) : (applySystem s).pending = s.pending := by
  have h : ∀ u, Only 1048574 s u → (demoteSlots (toReset u)).pending = s.pending := by
    intro u hu
    exact ((demoteSlots_nx (toReset_nx hu rfl) rfl).pending).resolve_left (by decide)
  have h2 := h _ (Only.ite (c := s.dev = .reset) (Only.refl _ _) (checkpointWear_nx (Only.refl _ _) rfl))
  unfold applySystem
  dsimp only
  exact h2
theorem applySystem_nx {M : Nat} {s t : State} (h : Only M s t) (hs : M ||| 1048574 = M) : Only M s (applySystem t) :=
  h.step (Only.all (applySystem_pending t)) hs

theorem applyPowerOn_nx {M : Nat} {s t : State} (h : Only M s t) (hs : M ||| 1048574 = M) : Only M s (applyPowerOn t) :=
  h.step (Only.all (applySystem_pending t)) hs

theorem applyLevel_only (l : ResetLevel) (s : State) : Only 1048574 s (applyLevel l s) := by
  unfold applyLevel
  repeat' (first
      | (with_reducible exact Only.refl _ _) | (with_reducible assumption)
      | (simp (maxDischargeDepth := 20) (contextual := true) only [Only.ite, Only.refl, Only.foldl, implies_true,
          reduceCtorEq, Nat.reduceOr, applyCore_nx, applyPowerOn_nx, applySystem_nx, demoteSlots_nx, *]; done)
      | (with_reducible refine Only.foldl _ _ ?_ (fun t x ht => ?_)) | split | (dsimp only; split)
      | (with_reducible refine applyCore_nx ?_ rfl) | (with_reducible refine applyPowerOn_nx ?_ rfl)
      | (with_reducible refine applySystem_nx ?_ rfl) | (with_reducible refine demoteSlots_nx ?_ rfl))
theorem applyLevel_nx {M : Nat} {s tS : State} {l : ResetLevel} (hOnly : Only M s tS) (hSub : M ||| 1048574 = M) :
    Only M s (applyLevel l tS) :=
  hOnly.step (applyLevel_only ..) hSub
theorem histStep_only (cause : Nat) (f : Word → Word) (s : State) : Only 64 s (histStep cause f s) := by
  unfold histStep
  repeat' (first
      | (with_reducible exact Only.refl _ _) | (with_reducible assumption)
      | (simp (maxDischargeDepth := 20) (contextual := true) only [Only.ite, Only.refl, Only.foldl, implies_true,
          reduceCtorEq, Nat.reduceOr, modBackup_nx, *]; done)
      | (with_reducible refine Only.foldl _ _ ?_ (fun t x ht => ?_)) | split | (dsimp only; split)
      | (with_reducible refine modBackup_nx ?_ rfl))
theorem histStep_nx {M : Nat} {s tS : State} {cause : Nat} {f : Word → Word} (hOnly : Only M s tS) (hSub : M ||| 64 = M) :
    Only M s (histStep cause f tS) :=
  hOnly.step (histStep_only ..) hSub
theorem assertReset_only (level : ResetLevel) (cause : Nat) (s : State) : Only 1048574 s (assertReset level cause s) := by
  unfold assertReset
  repeat' (first
      | (with_reducible exact Only.refl _ _) | (with_reducible assumption)
      | (simp (maxDischargeDepth := 20) (contextual := true) only [Only.ite, Only.refl, Only.foldl, implies_true,
          reduceCtorEq, Nat.reduceOr, applyLevel_nx, histStep_nx, logEvent_nx, modBackup_nx, modPcr_nx, *]; done)
      | (with_reducible refine Only.foldl _ _ ?_ (fun t x ht => ?_)) | split | (dsimp only; split)
      | (with_reducible refine applyLevel_nx ?_ rfl) | (with_reducible refine histStep_nx ?_ rfl)
      | (with_reducible refine logEvent_nx ?_ rfl) | (with_reducible refine modBackup_nx ?_ rfl)
      | (with_reducible refine modPcr_nx ?_ rfl))
theorem assertReset_nx {M : Nat} {s tS : State} {level : ResetLevel} {cause : Nat} (hOnly : Only M s tS) (hSub :
    M ||| 1048574 = M) : Only M s (assertReset level cause tS) :=
  hOnly.step (assertReset_only ..) hSub
theorem releaseReset_only (s : State) : Only 1044470 s (releaseReset s) := by
  unfold releaseReset
  repeat' (first
      | (with_reducible exact Only.refl _ _) | (with_reducible assumption)
      | (simp (maxDischargeDepth := 20) (contextual := true) only [Only.ite, Only.refl, Only.foldl, implies_true,
          reduceCtorEq, Nat.reduceOr, modPcr_nx, setDev_nx, *]; done)
      | (with_reducible refine Only.foldl _ _ ?_ (fun t x ht => ?_)) | split | (dsimp only; split)
      | (with_reducible refine modPcr_nx ?_ rfl) | (with_reducible refine setDev_nx ?_ rfl))
theorem releaseReset_nx {M : Nat} {s tS : State}  (hOnly : Only M s tS) (hSub : M ||| 1044470 = M) :
    Only M s (releaseReset tS) :=
  hOnly.step (releaseReset_only ..) hSub
end Sys2Proof.Machine
end

