-- ==== Sys2Proof/Laws/FramePorts.lean ====
section
/-!
SUPPORT. Sys2Proof/Laws/FramePorts.lean: the frames of the operations and commands of Machine/Ports.lean: `op_only` names all that an
operation can change; `op_nx` is the same at the end of a chain of operations.
-/
set_option linter.unusedSimpArgs false
set_option linter.unusedVariables false
namespace Sys2Proof.Machine
theorem execPortReset_only (port : Side) (flr : Bool) (s : State) : OnlyO 49408 s (execPortReset port flr s) := by
  unfold execPortReset
  refine OnlyO.next ?_
  repeat' (first
      | (with_reducible exact Only.refl _ _) | (with_reducible assumption)
      | (simp (maxDischargeDepth := 20) (contextual := true) only [Only.ite, Only.refl, Only.foldl, implies_true,
          reduceCtorEq, Nat.reduceOr, fromPort_nx, modHport_nx, portReset_nx, *]; done)
      | (with_reducible refine Only.foldl _ _ ?_ (fun t x ht => ?_)) | split | (dsimp only; split)
      | (with_reducible refine fromPort_nx ?_ ?_) | (with_reducible refine modHport_nx ?_ rfl)
      | (with_reducible refine portReset_nx ?_ rfl))
theorem execLinkLeavesL0_only (port : Side) (s : State) : OnlyO 16384 s (execLinkLeavesL0 port s) := by
  unfold execLinkLeavesL0
  refine OnlyO.next ?_
  repeat' (first
      | (with_reducible exact Only.refl _ _) | (with_reducible assumption)
      | (simp (maxDischargeDepth := 20) (contextual := true) only [Only.ite, Only.refl, Only.foldl, implies_true,
          reduceCtorEq, Nat.reduceOr, fromPort_nx, modHport_nx, *]; done)
      | (with_reducible refine Only.foldl _ _ ?_ (fun t x ht => ?_)) | split | (dsimp only; split)
      | (with_reducible refine fromPort_nx ?_ ?_) | (with_reducible refine modHport_nx ?_ rfl))
theorem execLinkDown_only (port : Side) (s : State) : OnlyO 385296 s (execLinkDown port s) := by
  unfold execLinkDown
  refine OnlyO.next ?_
  repeat' (first
      | (with_reducible exact Only.refl _ _) | (with_reducible assumption)
      | (simp (maxDischargeDepth := 20) (contextual := true) only [Only.ite, Only.refl, Only.foldl, implies_true,
          reduceCtorEq, Nat.reduceOr, modHport_nx, portReset_nx, recordFault_corr_nx, *]; done)
      | (with_reducible refine Only.foldl _ _ ?_ (fun t x ht => ?_)) | split | (dsimp only; split)
      | (with_reducible refine modHport_nx ?_ rfl) | (with_reducible refine portReset_nx ?_ rfl)
      | (with_reducible refine recordFault_corr_nx ?_ rfl))
theorem flushPending_only (p : Side) (s : State) : Only 16384 s (flushPending p s) := by
  unfold flushPending
  repeat' (first
      | (with_reducible exact Only.refl _ _) | (with_reducible assumption)
      | (simp (maxDischargeDepth := 20) (contextual := true) only [Only.ite, Only.refl, Only.foldl, implies_true,
          reduceCtorEq, Nat.reduceOr, modHport_nx, sendVector_nx, *]; done)
      | (with_reducible refine Only.foldl _ _ ?_ (fun t x ht => ?_)) | split | (dsimp only; split)
      | (with_reducible refine modHport_nx ?_ rfl) | (with_reducible refine sendVector_nx ?_ rfl))
theorem flushPending_nx {M : Nat} {s tS : State} {p : Side} (hOnly : Only M s tS) (hSub : M ||| 16384 = M) :
    Only M s (flushPending p tS) :=
  hOnly.step (flushPending_only ..) hSub
theorem execLinkReturn_only (port : Side) (rate : BitVec 2) (width : BitVec 2) (l1 : Bool) (s : State) :
    OnlyO 16384 s (execLinkReturn port rate width l1 s) := by
  unfold execLinkReturn
  refine OnlyO.next ?_
  repeat' (first
      | (with_reducible exact Only.refl _ _) | (with_reducible assumption)
      | (simp (maxDischargeDepth := 20) (contextual := true) only [Only.ite, Only.refl, Only.foldl, implies_true,
          reduceCtorEq, Nat.reduceOr, flushPending_nx, fromPort_nx, modHport_nx, *]; done)
      | (with_reducible refine Only.foldl _ _ ?_ (fun t x ht => ?_)) | split | (dsimp only; split)
      | (with_reducible refine flushPending_nx ?_ rfl) | (with_reducible refine fromPort_nx ?_ ?_)
      | (with_reducible refine modHport_nx ?_ rfl))
theorem execPowerStateWrite_only (port : Side) (d3 : Bool) (s : State) : OnlyO 16384 s (execPowerStateWrite port d3 s) := by
  unfold execPowerStateWrite
  refine OnlyO.next ?_
  repeat' (first
      | (with_reducible exact Only.refl _ _) | (with_reducible assumption)
      | (simp (maxDischargeDepth := 20) (contextual := true) only [Only.ite, Only.refl, Only.foldl, implies_true,
          reduceCtorEq, Nat.reduceOr, fromPort_nx, modHport_nx, *]; done)
      | (with_reducible refine Only.foldl _ _ ?_ (fun t x ht => ?_)) | split | (dsimp only; split)
      | (with_reducible refine fromPort_nx ?_ ?_) | (with_reducible refine modHport_nx ?_ rfl))
theorem execMsixUnmask_only (port : Side) (vec : Option (Fin 32)) (s : State) :
    OnlyO 16384 s (execMsixUnmask port vec s) := by
  unfold execMsixUnmask
  refine OnlyO.next ?_
  repeat' (first
      | (with_reducible exact Only.refl _ _) | (with_reducible assumption)
      | (simp (maxDischargeDepth := 20) (contextual := true) only [Only.ite, Only.refl, Only.foldl, implies_true,
          reduceCtorEq, Nat.reduceOr, flushPending_nx, fromPort_nx, modHport_nx, *]; done)
      | (with_reducible refine Only.foldl _ _ ?_ (fun t x ht => ?_)) | split | (dsimp only; split)
      | (with_reducible refine flushPending_nx ?_ rfl) | (with_reducible refine fromPort_nx ?_ ?_)
      | (with_reducible refine modHport_nx ?_ rfl))
theorem recordPoisoned_only (p : Side) (s : State) : Only 385040 s (recordPoisoned p s) := by
  unfold recordPoisoned
  repeat' (first
      | (with_reducible exact Only.refl _ _) | (with_reducible assumption)
      | (simp (maxDischargeDepth := 20) (contextual := true) only [Only.ite, Only.refl, Only.foldl, implies_true,
          reduceCtorEq, Nat.reduceOr, recordFault_corr_nx, *]; done)
      | (with_reducible refine Only.foldl _ _ ?_ (fun t x ht => ?_)) | split | (dsimp only; split)
      | (with_reducible refine recordFault_corr_nx ?_ rfl))
theorem recordPoisoned_nx {M : Nat} {s tS : State} {p : Side} (hOnly : Only M s tS) (hSub : M ||| 385040 = M) :
    Only M s (recordPoisoned p tS) :=
  hOnly.step (recordPoisoned_only ..) hSub
theorem abortRead_only (p : Side) (s : State) : Only 16384 s (abortRead p s) := by
  unfold abortRead
  repeat' (first
      | (with_reducible exact Only.refl _ _) | (with_reducible assumption)
      | (simp (maxDischargeDepth := 20) (contextual := true) only [Only.ite, Only.refl, Only.foldl, implies_true,
          reduceCtorEq, Nat.reduceOr, modHport_nx, *]; done)
      | (with_reducible refine Only.foldl _ _ ?_ (fun t x ht => ?_)) | split | (dsimp only; split)
      | (with_reducible refine modHport_nx ?_ rfl))
theorem abortRead_nx {M : Nat} {s tS : State} {p : Side} (hOnly : Only M s tS) (hSub : M ||| 16384 = M) :
    Only M s (abortRead p tS) :=
  hOnly.step (abortRead_only ..) hSub
theorem execIsolatedAccess_only (port : Side) (off : Nat) (write : Bool) (s : State) :
    OnlyO 16384 s (execIsolatedAccess port off write s) := by
  unfold execIsolatedAccess
  refine OnlyO.next ?_
  repeat' (first
      | (with_reducible exact Only.refl _ _) | (with_reducible assumption)
      | (simp (maxDischargeDepth := 20) (contextual := true) only [Only.ite, Only.refl, Only.foldl, implies_true,
          reduceCtorEq, Nat.reduceOr, abortRead_nx, fromPort_nx, modHport_nx, *]; done)
      | (with_reducible refine Only.foldl _ _ ?_ (fun t x ht => ?_)) | split | (dsimp only; split)
      | (with_reducible refine abortRead_nx ?_ rfl) | (with_reducible refine fromPort_nx ?_ ?_)
      | (with_reducible refine modHport_nx ?_ rfl))
theorem cfgClaim_only (port : Side) (key : BitVec 16) (s : State) : Only 16384 s (cfgClaim port key s) := by
  unfold cfgClaim
  repeat' (first
      | (with_reducible exact Only.refl _ _) | (with_reducible assumption)
      | (simp (maxDischargeDepth := 20) (contextual := true) only [Only.ite, Only.refl, Only.foldl, implies_true,
          reduceCtorEq, Nat.reduceOr, countRefused_nx, modHp_nx, *]; done)
      | (with_reducible refine Only.foldl _ _ ?_ (fun t x ht => ?_)) | split | (dsimp only; split)
      | (with_reducible refine countRefused_nx ?_ rfl) | (with_reducible refine modHp_nx ?_ rfl))
theorem cfgClaim_nx {M : Nat} {s tS : State} {port : Side} {key : BitVec 16} (hOnly : Only M s tS) (hSub :
    M ||| 16384 = M) : Only M s (cfgClaim port key tS) :=
  hOnly.step (cfgClaim_only ..) hSub
theorem cfgRelease_only (port : Side) (key : BitVec 16) (s : State) : Only 49408 s (cfgRelease port key s) := by
  unfold cfgRelease
  repeat' (first
      | (with_reducible exact Only.refl _ _) | (with_reducible assumption)
      | (simp (maxDischargeDepth := 20) (contextual := true) only [Only.ite, Only.refl, Only.foldl, implies_true,
          reduceCtorEq, Nat.reduceOr, countRefused_nx, disown_nx, *]; done)
      | (with_reducible refine Only.foldl _ _ ?_ (fun t x ht => ?_)) | split | (dsimp only; split)
      | (with_reducible refine countRefused_nx ?_ rfl) | (with_reducible refine disown_nx ?_ rfl))
theorem cfgRelease_nx {M : Nat} {s tS : State} {port : Side} {key : BitVec 16} (hOnly : Only M s tS) (hSub :
    M ||| 49408 = M) : Only M s (cfgRelease port key tS) :=
  hOnly.step (cfgRelease_only ..) hSub
end Sys2Proof.Machine
end

