-- ==== Sys2Proof/Laws/FrameCompare.lean ====
section
/-!
SUPPORT. Sys2Proof/Laws/FrameCompare.lean: the frames of the operations and commands of Machine/Compare.lean: `op_only` names all that an
operation can change; `op_nx` is the same at the end of a chain of operations.
-/
set_option linter.unusedSimpArgs false
set_option linter.unusedVariables false
namespace Sys2Proof.Machine
theorem scFatal_only (cause init acc kerf : Nat) (s : State) : Only 1044478 s (scFatal cause init acc kerf s) := by
  unfold scFatal
  repeat' (first
      | (with_reducible exact Only.refl _ _) | (with_reducible assumption)
      | (simp (maxDischargeDepth := 20) (contextual := true) only [Only.ite, Only.refl, Only.foldl, implies_true,
          reduceCtorEq, Nat.reduceOr, recordFault_nx, *]; done)
      | (with_reducible refine Only.foldl _ _ ?_ (fun t x ht => ?_)) | split | (dsimp only; split)
      | (with_reducible refine recordFault_nx ?_ rfl))
theorem scFatal_nx {M : Nat} {s tS : State} {cause init acc kerf : Nat} (hOnly : Only M s tS) (hSub : M ||| 1044478 = M) :
    Only M s (scFatal cause init acc kerf tS) :=
  hOnly.step (scFatal_only ..) hSub
theorem sendKerf_only (c : Side) (m : Nat) (sig : Word64) (s : State) : Only 32 s (sendKerf c m sig s) := by
  unfold sendKerf
  repeat' (first
      | (with_reducible exact Only.refl _ _) | (with_reducible assumption)
      | (simp (maxDischargeDepth := 20) (contextual := true) only [Only.ite, Only.refl, Only.foldl, implies_true,
          reduceCtorEq, Nat.reduceOr, modSc_nx, *]; done)
      | (with_reducible refine Only.foldl _ _ ?_ (fun t x ht => ?_)) | split | (dsimp only; split)
      | (with_reducible refine modSc_nx ?_ rfl))
theorem sendKerf_nx {M : Nat} {s tS : State} {c : Side} {m : Nat} {sig : Word64} (hOnly : Only M s tS) (hSub :
    M ||| 32 = M) : Only M s (sendKerf c m sig tS) :=
  hOnly.step (sendKerf_only ..) hSub
theorem exchangeVerdict_only (m : Nat) (s : State) : Only 1044478 s (exchangeVerdict m s) := by
  unfold exchangeVerdict
  repeat' (first
      | (with_reducible exact Only.refl _ _) | (with_reducible assumption)
      | (simp (maxDischargeDepth := 20) (contextual := true) only [Only.ite, Only.refl, Only.foldl, implies_true,
          reduceCtorEq, Nat.reduceOr, modSc_nx, scFatal_nx, *]; done)
      | (with_reducible refine Only.foldl _ _ ?_ (fun t x ht => ?_)) | split | (dsimp only; split)
      | (with_reducible refine modSc_nx ?_ rfl) | (with_reducible refine scFatal_nx ?_ rfl))
theorem exchangeVerdict_nx {M : Nat} {s tS : State} {m : Nat} (hOnly : Only M s tS) (hSub : M ||| 1044478 = M) :
    Only M s (exchangeVerdict m tS) :=
  hOnly.step (exchangeVerdict_only ..) hSub
theorem judgeKerf_only (h : Side) (m : Nat) (a b : Word64) (ta tb : Tick) (s : State) :
    Only 1044478 s (judgeKerf h m a b ta tb s) := by
  unfold judgeKerf
  repeat' (first
      | (with_reducible exact Only.refl _ _) | (with_reducible assumption)
      | (simp (maxDischargeDepth := 20) (contextual := true) only [Only.ite, Only.refl, Only.foldl, implies_true,
          reduceCtorEq, Nat.reduceOr, exchangeVerdict_nx, inhibitSide_nx, modSc_nx, scFatal_nx, tbEvent_nx, *]; done)
      | (with_reducible refine Only.foldl _ _ ?_ (fun t x ht => ?_)) | split | (dsimp only; split)
      | (with_reducible refine exchangeVerdict_nx ?_ rfl) | (with_reducible refine inhibitSide_nx ?_ rfl)
      | (with_reducible refine modSc_nx ?_ rfl) | (with_reducible refine scFatal_nx ?_ rfl)
      | (with_reducible refine tbEvent_nx ?_ rfl))
theorem judgeKerf_nx {M : Nat} {s tS : State} {h : Side} {m : Nat} {a b : Word64} {ta tb : Tick} (hOnly : Only M s tS)
    (hSub : M ||| 1044478 = M) : Only M s (judgeKerf h m a b ta tb tS) :=
  hOnly.step (judgeKerf_only ..) hSub
theorem execKerfSignature_only (half core : Side) (hitT hitC : BitVec 64) (s : State) :
    OnlyO 1044478 s (execKerfSignature half core hitT hitC s) := by
  unfold execKerfSignature
  refine OnlyO.next ?_
  repeat' (first
      | (with_reducible exact Only.refl _ _) | (with_reducible assumption)
      | (simp (maxDischargeDepth := 20) (contextual := true) only [Only.ite, Only.refl, Only.foldl, implies_true,
          reduceCtorEq, Nat.reduceOr, judgeKerf_nx, modSc_nx, scFatal_nx, *]; done)
      | (with_reducible refine Only.foldl _ _ ?_ (fun t x ht => ?_)) | split | (dsimp only; split)
      | (with_reducible refine judgeKerf_nx ?_ rfl) | (with_reducible refine modSc_nx ?_ rfl)
      | (with_reducible refine scFatal_nx ?_ rfl))
theorem execKerfLate_only (half : Side) (s : State) : OnlyO 1044478 s (execKerfLate half s) := by
  unfold execKerfLate
  refine OnlyO.next ?_
  repeat' (first
      | (with_reducible exact Only.refl _ _) | (with_reducible assumption)
      | (simp (maxDischargeDepth := 20) (contextual := true) only [Only.ite, Only.refl, Only.foldl, implies_true,
          reduceCtorEq, Nat.reduceOr, scFatal_nx, *]; done)
      | (with_reducible refine Only.foldl _ _ ?_ (fun t x ht => ?_)) | split | (dsimp only; split)
      | (with_reducible refine scFatal_nx ?_ rfl))
theorem recordCopy_only (die : Side) (b : Fin 14) (w : Nat) (s : State) : Only 1044478 s (recordCopy die b w s) := by
  unfold recordCopy
  repeat' (first
      | (with_reducible exact Only.refl _ _) | (with_reducible assumption)
      | (simp (maxDischargeDepth := 20) (contextual := true) only [Only.ite, Only.refl, Only.foldl, implies_true,
          reduceCtorEq, Nat.reduceOr, fatalAction_nx, inhibitBoth_nx, modSc_nx, recordFault_nx, *]; done)
      | (with_reducible refine Only.foldl _ _ ?_ (fun t x ht => ?_)) | split | (dsimp only; split)
      | (with_reducible refine fatalAction_nx ?_ rfl) | (with_reducible refine inhibitBoth_nx ?_ rfl)
      | (with_reducible refine modSc_nx ?_ rfl) | (with_reducible refine recordFault_nx ?_ rfl))
theorem recordCopy_nx {M : Nat} {s tS : State} {die : Side} {b : Fin 14} {w : Nat} (hOnly : Only M s tS) (hSub :
    M ||| 1044478 = M) : Only M s (recordCopy die b w tS) :=
  hOnly.step (recordCopy_only ..) hSub
theorem execCopyCheckPass_only (die : Side) (bad : List (Fin 14 × Fin 32)) (s : State) :
    OnlyO 1044478 s (execCopyCheckPass die bad s) := by
  unfold execCopyCheckPass
  refine OnlyO.next ?_
  repeat' (first
      | (with_reducible exact Only.refl _ _) | (with_reducible assumption)
      | (simp (maxDischargeDepth := 20) (contextual := true) only [Only.ite, Only.refl, Only.foldl, implies_true,
          reduceCtorEq, Nat.reduceOr, modSc_nx, recordCopy_nx, *]; done)
      | (with_reducible refine Only.foldl _ _ ?_ (fun t x ht => ?_)) | split | (dsimp only; split)
      | (with_reducible refine modSc_nx ?_ rfl) | (with_reducible refine recordCopy_nx ?_ rfl))
end Sys2Proof.Machine
end

