-- ==== Sys2Proof/Laws/FrameCheckUnits.lean ====
section
/-!
SUPPORT. Sys2Proof/Laws/FrameCheckUnits.lean: the frames of the operations and commands of Machine/CheckUnits.lean: `op_only` names all that an
operation can change; `op_nx` is the same at the end of a chain of operations.
-/
set_option linter.unusedSimpArgs false
set_option linter.unusedVariables false
namespace Sys2Proof.Machine
theorem remUncorr_only (p : Side) (page : Nat) (s : State) : Only 385040 s (remUncorr p page s) := by
  unfold remUncorr
  repeat' (first
      | (with_reducible exact Only.refl _ _) | (with_reducible assumption)
      | (simp (maxDischargeDepth := 20) (contextual := true) only [Only.ite, Only.refl, Only.foldl, implies_true,
          reduceCtorEq, Nat.reduceOr, modWport_nx, recordFault_corr_nx, *]; done)
      | (with_reducible refine Only.foldl _ _ ?_ (fun t x ht => ?_)) | split | (dsimp only; split)
      | (with_reducible refine modWport_nx ?_ rfl) | (with_reducible refine recordFault_corr_nx ?_ rfl))
theorem remUncorr_nx {M : Nat} {s tS : State} {p : Side} {page : Nat} (hOnly : Only M s tS) (hSub : M ||| 385040 = M) :
    Only M s (remUncorr p page tS) :=
  hOnly.step (remUncorr_only ..) hSub
end Sys2Proof.Machine
end

