-- ==== Sys2Proof/Laws/FrameRegisters.lean ====
section
/-!
SUPPORT. Sys2Proof/Laws/FrameRegisters.lean: the frames of the operations and commands of Machine/Registers.lean: `op_only` names all that an
operation can change; `op_nx` is the same at the end of a chain of operations.
-/
set_option linter.unusedSimpArgs false
set_option linter.unusedVariables false
namespace Sys2Proof.Machine
theorem marchYield_only (s : State) : Only 132352 s (marchYield s) := by
  unfold marchYield
  repeat' (first
      | (with_reducible exact Only.refl _ _) | (with_reducible assumption)
      | (simp (maxDischargeDepth := 20) (contextual := true) only [Only.ite, Only.refl, Only.foldl, implies_true,
          reduceCtorEq, Nat.reduceOr, cruiseInterrupt_nx, *]; done)
      | (with_reducible refine Only.foldl _ _ ?_ (fun t x ht => ?_)) | split | (dsimp only; split)
      | (with_reducible refine cruiseInterrupt_nx ?_ rfl))
theorem marchYield_nx {M : Nat} {s tS : State}  (hOnly : Only M s tS) (hSub : M ||| 132352 = M) : Only M s (marchYield tS) :=
  hOnly.step (marchYield_only ..) hSub
end Sys2Proof.Machine
end

