-- ==== Sys2Proof/Laws/FrameItems.lean ====
section
/-!
SUPPORT. Sys2Proof/Laws/FrameItems.lean: the frames of the operations and commands of Machine/Items.lean: `op_only` names all that an
operation can change; `op_nx` is the same at the end of a chain of operations.
-/
set_option linter.unusedSimpArgs false
set_option linter.unusedVariables false
namespace Sys2Proof.Machine
theorem hostWrite_only (p : Side) (addr : Nat) (bytes : List Byte) (s : State) :
    Only 32768 s (hostWrite p addr bytes s) := by
  unfold hostWrite
  repeat' (first
      | (with_reducible exact Only.refl _ _) | (with_reducible assumption)
      | (simp (maxDischargeDepth := 20) (contextual := true) only [Only.ite, Only.refl, Only.foldl, implies_true,
          reduceCtorEq, Nat.reduceOr, modWport_nx, *]; done)
      | (with_reducible refine Only.foldl _ _ ?_ (fun t x ht => ?_)) | split | (dsimp only; split)
      | (with_reducible refine modWport_nx ?_ rfl))
theorem hostWrite_nx {M : Nat} {s tS : State} {p : Side} {addr : Nat} {bytes : List Byte} (hOnly : Only M s tS) (hSub :
    M ||| 32768 = M) : Only M s (hostWrite p addr bytes tS) :=
  hOnly.step (hostWrite_only ..) hSub
theorem runItem_nx {M : Nat} {s t : State} {p : Side} {n : Fin 8} {c : Option Nat} {f : State → State} (h : Only M s t)
    (hp : M ||| 32768 = M) (hf : Only M s (f t)) : Only M s (runItem p n c f t) := by
  unfold runItem; split
  · exact endItem_nx h hp
  · exact hf

theorem beginItem_only (p : Side) (n : Fin 8) (d : Desc) (record : Bool) (s : State) :
    Only 294912 s (beginItem p n d record s) := by
  unfold beginItem
  repeat' (first
      | (with_reducible exact Only.refl _ _) | (with_reducible assumption)
      | (simp (maxDischargeDepth := 20) (contextual := true) only [Only.ite, Only.refl, Only.foldl, implies_true,
          reduceCtorEq, Nat.reduceOr, journalWrite_nx, modItem_nx, *]; done)
      | (with_reducible refine Only.foldl _ _ ?_ (fun t x ht => ?_)) | split | (dsimp only; split)
      | (with_reducible refine journalWrite_nx ?_ rfl) | (with_reducible refine modItem_nx ?_ rfl))
theorem beginItem_nx {M : Nat} {s tS : State} {p : Side} {n : Fin 8} {d : Desc} {record : Bool} (hOnly : Only M s tS)
    (hSub : M ||| 294912 = M) : Only M s (beginItem p n d record tS) :=
  hOnly.step (beginItem_only ..) hSub
theorem beginTimed_only (p : Side) (n : Fin 8) (d : Desc) (record : Bool) (s : State) :
    Only 294912 s (beginTimed p n d record s) := by
  unfold beginTimed
  repeat' (first
      | (with_reducible exact Only.refl _ _) | (with_reducible assumption)
      | (simp (maxDischargeDepth := 20) (contextual := true) only [Only.ite, Only.refl, Only.foldl, implies_true,
          reduceCtorEq, Nat.reduceOr, beginItem_nx, modItem_nx, *]; done)
      | (with_reducible refine Only.foldl _ _ ?_ (fun t x ht => ?_)) | split | (dsimp only; split)
      | (with_reducible refine beginItem_nx ?_ rfl) | (with_reducible refine modItem_nx ?_ rfl))
theorem beginTimed_nx {M : Nat} {s tS : State} {p : Side} {n : Fin 8} {d : Desc} {record : Bool} (hOnly : Only M s tS)
    (hSub : M ||| 294912 = M) : Only M s (beginTimed p n d record tS) :=
  hOnly.step (beginTimed_only ..) hSub
theorem verifySnoop_only (d : Desc) (s : State) : Only 131072 s (verifySnoop d s) := by
  unfold verifySnoop
  repeat' (first
      | (with_reducible exact Only.refl _ _) | (with_reducible assumption)
      | (simp (maxDischargeDepth := 20) (contextual := true) only [Only.ite, Only.refl, Only.foldl, implies_true,
          reduceCtorEq, Nat.reduceOr, snoop_nx, *]; done)
      | (with_reducible refine Only.foldl _ _ ?_ (fun t x ht => ?_)) | split | (dsimp only; split)
      | (with_reducible refine snoop_nx ?_ rfl))
theorem verifySnoop_nx {M : Nat} {s tS : State} {d : Desc} (hOnly : Only M s tS) (hSub : M ||| 131072 = M) :
    Only M s (verifySnoop d tS) :=
  hOnly.step (verifySnoop_only ..) hSub
theorem modStaging_only (is : List Side) (f : Side → TableSlot → TableSlot) (s : State) :
    Only 262144 s (modStaging is f s) := by
  unfold modStaging
  repeat' (first
      | (with_reducible exact Only.refl _ _) | (with_reducible assumption)
      | (simp (maxDischargeDepth := 20) (contextual := true) only [Only.ite, Only.refl, Only.foldl, implies_true,
          reduceCtorEq, Nat.reduceOr, modStore_nx, *]; done)
      | (with_reducible refine Only.foldl _ _ ?_ (fun t x ht => ?_)) | split | (dsimp only; split)
      | (with_reducible refine modStore_nx ?_ rfl))
theorem modStaging_nx {M : Nat} {s tS : State} {is : List Side} {f : Side → TableSlot → TableSlot} (hOnly : Only M s tS)
    (hSub : M ||| 262144 = M) : Only M s (modStaging is f tS) :=
  hOnly.step (modStaging_only ..) hSub
theorem commitTable_only (p : Side) (n : Fin 8) (d : Desc) (s : State) : Only 1048574 s (commitTable p n d s) := by
  unfold commitTable
  repeat' (first
      | (with_reducible exact Only.refl _ _) | (with_reducible assumption)
      | (simp (maxDischargeDepth := 20) (contextual := true) only [Only.ite, Only.refl, Only.foldl, implies_true,
          reduceCtorEq, Nat.reduceOr, assertReset_nx, endItem_nx, logEvent_nx, modStore_nx, *]; done)
      | (with_reducible refine Only.foldl _ _ ?_ (fun t x ht => ?_)) | split | (dsimp only; split)
      | (with_reducible refine assertReset_nx ?_ rfl) | (with_reducible refine endItem_nx ?_ rfl)
      | (with_reducible refine logEvent_nx ?_ rfl) | (with_reducible refine modStore_nx ?_ rfl))
theorem commitTable_nx {M : Nat} {s tS : State} {p : Side} {n : Fin 8} {d : Desc} (hOnly : Only M s tS) (hSub :
    M ||| 1048574 = M) : Only M s (commitTable p n d tS) :=
  hOnly.step (commitTable_only ..) hSub
theorem ackWait_only (p : Side) (n : Fin 8) (key : Word) (input : Nat) (s : State) :
    Only 256 s (ackWait p n key input s) := by
  unfold ackWait
  repeat' (first
      | (with_reducible exact Only.refl _ _) | (with_reducible assumption)
      | (simp (maxDischargeDepth := 20) (contextual := true) only [Only.ite, Only.refl, Only.foldl, implies_true,
          reduceCtorEq, Nat.reduceOr, modSt_nx, *]; done)
      | (with_reducible refine Only.foldl _ _ ?_ (fun t x ht => ?_)) | split | (dsimp only; split)
      | (with_reducible refine modSt_nx ?_ rfl))
theorem ackWait_nx {M : Nat} {s tS : State} {p : Side} {n : Fin 8} {key : Word} {input : Nat} (hOnly : Only M s tS) (hSub :
    M ||| 256 = M) : Only M s (ackWait p n key input tS) :=
  hOnly.step (ackWait_only ..) hSub
theorem ackGive_only (s : State) : Only 1048574 s (ackGive s) := by
  unfold ackGive
  repeat' (first
      | (with_reducible exact Only.refl _ _) | (with_reducible assumption)
      | (simp (maxDischargeDepth := 20) (contextual := true) only [Only.ite, Only.refl, Only.foldl, implies_true,
          reduceCtorEq, Nat.reduceOr, ackDrop_nx, changeLc_nx, commitTable_nx, endItem_nx, *]; done)
      | (with_reducible refine Only.foldl _ _ ?_ (fun t x ht => ?_)) | split | (dsimp only; split)
      | (with_reducible refine ackDrop_nx ?_ rfl) | (with_reducible refine changeLc_nx ?_ rfl)
      | (with_reducible refine commitTable_nx ?_ rfl) | (with_reducible refine endItem_nx ?_ rfl))
theorem ackGive_nx {M : Nat} {s tS : State}  (hOnly : Only M s tS) (hSub : M ||| 1048574 = M) : Only M s (ackGive tS) :=
  hOnly.step (ackGive_only ..) hSub
theorem ackJudge_only (c : Side) (s : State) : Only 1048574 s (ackJudge c s) := by
  unfold ackJudge
  repeat' (first
      | (with_reducible exact Only.refl _ _) | (with_reducible assumption)
      | (simp (maxDischargeDepth := 20) (contextual := true) only [Only.ite, Only.refl, Only.foldl, implies_true,
          reduceCtorEq, Nat.reduceOr, ackGive_nx, ackRefuse_nx, modSt_nx, *]; done)
      | (with_reducible refine Only.foldl _ _ ?_ (fun t x ht => ?_)) | split | (dsimp only; split)
      | (with_reducible refine ackGive_nx ?_ rfl) | (with_reducible refine ackRefuse_nx ?_ rfl)
      | (with_reducible refine modSt_nx ?_ rfl))
theorem ackJudge_nx {M : Nat} {s tS : State} {c : Side} (hOnly : Only M s tS) (hSub : M ||| 1048574 = M) :
    Only M s (ackJudge c tS) :=
  hOnly.step (ackJudge_only ..) hSub
theorem execAckTimeout_only (s : State) : OnlyO 33024 s (execAckTimeout s) := by
  unfold execAckTimeout
  refine OnlyO.next ?_
  repeat' (first
      | (with_reducible exact Only.refl _ _) | (with_reducible assumption)
      | (simp (maxDischargeDepth := 20) (contextual := true) only [Only.ite, Only.refl, Only.foldl, implies_true,
          reduceCtorEq, Nat.reduceOr, ackRefuse_nx, *]; done)
      | (with_reducible refine Only.foldl _ _ ?_ (fun t x ht => ?_)) | split | (dsimp only; split)
      | (with_reducible refine ackRefuse_nx ?_ rfl))
theorem ackTap_only (v : Word) (s : State) : Only 1048574 s (ackTap v s) := by
  unfold ackTap
  repeat' (first
      | (with_reducible exact Only.refl _ _) | (with_reducible assumption)
      | (simp (maxDischargeDepth := 20) (contextual := true) only [Only.ite, Only.refl, Only.foldl, implies_true,
          reduceCtorEq, Nat.reduceOr, ackGive_nx, ackRefuse_nx, *]; done)
      | (with_reducible refine Only.foldl _ _ ?_ (fun t x ht => ?_)) | split | (dsimp only; split)
      | (with_reducible refine ackGive_nx ?_ rfl) | (with_reducible refine ackRefuse_nx ?_ rfl))
theorem ackTap_nx {M : Nat} {s tS : State} {v : Word} (hOnly : Only M s tS) (hSub : M ||| 1048574 = M) :
    Only M s (ackTap v tS) :=
  hOnly.step (ackTap_only ..) hSub
theorem execNop_only (port : Side) (n : Fin 8) (s : State) : OnlyO 32768 s (execNop port n s) := by
  unfold execNop
  refine OnlyO.next ?_
  repeat' (first
      | (with_reducible exact Only.refl _ _) | (with_reducible assumption)
      | (simp (maxDischargeDepth := 20) (contextual := true) only [Only.ite, Only.refl, Only.foldl, implies_true,
          reduceCtorEq, Nat.reduceOr, endItem_nx, runItem_nx, *]; done)
      | (with_reducible refine Only.foldl _ _ ?_ (fun t x ht => ?_)) | split | (dsimp only; split)
      | (with_reducible refine endItem_nx ?_ rfl) | (with_reducible refine runItem_nx ?_ rfl ?_))
theorem execFence_only (port : Side) (n : Fin 8) (s : State) : OnlyO 294912 s (execFence port n s) := by
  unfold execFence
  refine OnlyO.next ?_
  repeat' (first
      | (with_reducible exact Only.refl _ _) | (with_reducible assumption)
      | (simp (maxDischargeDepth := 20) (contextual := true) only [Only.ite, Only.refl, Only.foldl, implies_true,
          reduceCtorEq, Nat.reduceOr, beginItem_nx, endItem_nx, runItem_nx, *]; done)
      | (with_reducible refine Only.foldl _ _ ?_ (fun t x ht => ?_)) | split | (dsimp only; split)
      | (with_reducible refine beginItem_nx ?_ rfl) | (with_reducible refine endItem_nx ?_ rfl)
      | (with_reducible refine runItem_nx ?_ rfl ?_))
theorem execTableStage_only (port : Side) (n : Fin 8) (s : State) : OnlyO 294912 s (execTableStage port n s) := by
  unfold execTableStage
  refine OnlyO.next ?_
  repeat' (first
      | (with_reducible exact Only.refl _ _) | (with_reducible assumption)
      | (simp (maxDischargeDepth := 20) (contextual := true) only [Only.ite, Only.refl, Only.foldl, implies_true,
          reduceCtorEq, Nat.reduceOr, beginTimed_nx, endItem_nx, modStaging_nx, modStore_nx, runItem_nx, *]; done)
      | (with_reducible refine Only.foldl _ _ ?_ (fun t x ht => ?_)) | split | (dsimp only; split)
      | (with_reducible refine beginTimed_nx ?_ rfl) | (with_reducible refine endItem_nx ?_ rfl)
      | (with_reducible refine modStaging_nx ?_ rfl) | (with_reducible refine modStore_nx ?_ rfl)
      | (with_reducible refine runItem_nx ?_ rfl ?_))
theorem holdChannel_only (p : Side) (n : Fin 8) (k : Fin 4) (f : Cvw → Cvw) (s : State) :
    Only 131072 s (holdChannel p n k f s) := by
  unfold holdChannel
  repeat' (first
      | (with_reducible exact Only.refl _ _) | (with_reducible assumption)
      | (simp (maxDischargeDepth := 20) (contextual := true) only [Only.ite, Only.refl, Only.foldl, implies_true,
          reduceCtorEq, Nat.reduceOr, modChan_nx, *]; done)
      | (with_reducible refine Only.foldl _ _ ?_ (fun t x ht => ?_)) | split | (dsimp only; split)
      | (with_reducible refine modChan_nx ?_ rfl))
theorem holdChannel_nx {M : Nat} {s tS : State} {p : Side} {n : Fin 8} {k : Fin 4} {f : Cvw → Cvw} (hOnly : Only M s tS)
    (hSub : M ||| 131072 = M) : Only M s (holdChannel p n k f tS) :=
  hOnly.step (holdChannel_only ..) hSub
theorem execTableVerify_only (port : Side) (n : Fin 8) (s : State) : OnlyO 1044478 s (execTableVerify port n s) := by
  unfold execTableVerify
  refine OnlyO.next ?_
  repeat' (first
      | (with_reducible exact Only.refl _ _) | (with_reducible assumption)
      | (simp (maxDischargeDepth := 20) (contextual := true) only [Only.ite, Only.refl, Only.foldl, implies_true,
          reduceCtorEq, Nat.reduceOr, beginItem_nx, endItem_nx, holdChannel_nx, modStaging_nx, runItem_nx, storeFail_nx,
          verifySnoop_nx, *]; done)
      | (with_reducible refine Only.foldl _ _ ?_ (fun t x ht => ?_)) | split | (dsimp only; split)
      | (with_reducible refine beginItem_nx ?_ rfl) | (with_reducible refine endItem_nx ?_ rfl)
      | (with_reducible refine holdChannel_nx ?_ rfl) | (with_reducible refine modStaging_nx ?_ rfl)
      | (with_reducible refine runItem_nx ?_ rfl ?_) | (with_reducible refine storeFail_nx ?_ rfl)
      | (with_reducible refine verifySnoop_nx ?_ rfl))
theorem execTableCommit_only (port : Side) (n : Fin 8) (s : State) : OnlyO 1044478 s (execTableCommit port n s) := by
  unfold execTableCommit
  refine OnlyO.next ?_
  repeat' (first
      | (with_reducible exact Only.refl _ _) | (with_reducible assumption)
      | (simp (maxDischargeDepth := 20) (contextual := true) only [Only.ite, Only.refl, Only.foldl, implies_true,
          reduceCtorEq, Nat.reduceOr, ackWait_nx, beginItem_nx, endItem_nx, runItem_nx, storeFail_nx, verifySnoop_nx, *]; done)
      | (with_reducible refine Only.foldl _ _ ?_ (fun t x ht => ?_)) | split | (dsimp only; split)
      | (with_reducible refine ackWait_nx ?_ rfl) | (with_reducible refine beginItem_nx ?_ rfl)
      | (with_reducible refine endItem_nx ?_ rfl) | (with_reducible refine runItem_nx ?_ rfl ?_)
      | (with_reducible refine storeFail_nx ?_ rfl) | (with_reducible refine verifySnoop_nx ?_ rfl))
theorem keepHost_only (p : Side) (s : State) : Only 16384 s (keepHost p s) := by
  unfold keepHost
  repeat' (first
      | (with_reducible exact Only.refl _ _) | (with_reducible assumption)
      | (simp (maxDischargeDepth := 20) (contextual := true) only [Only.ite, Only.refl, Only.foldl, implies_true,
          reduceCtorEq, Nat.reduceOr, modHport_nx, *]; done)
      | (with_reducible refine Only.foldl _ _ ?_ (fun t x ht => ?_)) | split | (dsimp only; split)
      | (with_reducible refine modHport_nx ?_ rfl))
theorem keepHost_nx {M : Nat} {s tS : State} {p : Side} (hOnly : Only M s tS) (hSub : M ||| 16384 = M) :
    Only M s (keepHost p tS) :=
  hOnly.step (keepHost_only ..) hSub
theorem modeEffect_only (port : Side) (n : Fin 8) (d : Desc) (s : State) : Only 1044470 s (modeEffect port n d s) := by
  unfold modeEffect
  repeat' (first
      | (with_reducible exact Only.refl _ _) | (with_reducible assumption)
      | (simp (maxDischargeDepth := 20) (contextual := true) only [Only.ite, Only.refl, Only.foldl, implies_true,
          reduceCtorEq, Nat.reduceOr, endItem_nx, keepHost_nx, modHport_nx, modItem_nx, setDev_nx, *]; done)
      | (with_reducible refine Only.foldl _ _ ?_ (fun t x ht => ?_)) | split | (dsimp only; split)
      | (with_reducible refine endItem_nx ?_ rfl) | (with_reducible refine keepHost_nx ?_ rfl)
      | (with_reducible refine modHport_nx ?_ rfl) | (with_reducible refine modItem_nx ?_ rfl)
      | (with_reducible refine setDev_nx ?_ rfl))
theorem modeEffect_nx {M : Nat} {s tS : State} {port : Side} {n : Fin 8} {d : Desc} (hOnly : Only M s tS) (hSub :
    M ||| 1044470 = M) : Only M s (modeEffect port n d tS) :=
  hOnly.step (modeEffect_only ..) hSub
theorem applyModeReq_only (s : State) : Only 1044470 s (applyModeReq s) := by
  unfold applyModeReq
  repeat' (first
      | (with_reducible exact Only.refl _ _) | (with_reducible assumption)
      | (simp (maxDischargeDepth := 20) (contextual := true) only [Only.ite, Only.refl, Only.foldl, implies_true,
          reduceCtorEq, Nat.reduceOr, modWq_nx, modeEffect_nx, *]; done)
      | (with_reducible refine Only.foldl _ _ ?_ (fun t x ht => ?_)) | split | (dsimp only; split)
      | (with_reducible refine modWq_nx ?_ rfl) | (with_reducible refine modeEffect_nx ?_ rfl))
theorem applyModeReq_nx {M : Nat} {s tS : State}  (hOnly : Only M s tS) (hSub : M ||| 1044470 = M) :
    Only M s (applyModeReq tS) :=
  hOnly.step (applyModeReq_only ..) hSub
theorem execModeReq_only (port : Side) (n : Fin 8) (s : State) : OnlyO 1044470 s (execModeReq port n s) := by
  unfold execModeReq
  refine OnlyO.next ?_
  repeat' (first
      | (with_reducible exact Only.refl _ _) | (with_reducible assumption)
      | (simp (maxDischargeDepth := 20) (contextual := true) only [Only.ite, Only.refl, Only.foldl, implies_true,
          reduceCtorEq, Nat.reduceOr, beginItem_nx, modWq_nx, modeDrop_nx, modeEffect_nx, runItem_nx, *]; done)
      | (with_reducible refine Only.foldl _ _ ?_ (fun t x ht => ?_)) | split | (dsimp only; split)
      | (with_reducible refine beginItem_nx ?_ rfl) | (with_reducible refine modWq_nx ?_ rfl)
      | (with_reducible refine modeDrop_nx ?_ rfl) | (with_reducible refine modeEffect_nx ?_ rfl)
      | (with_reducible refine runItem_nx ?_ rfl ?_))
theorem execResetReq_only (port : Side) (n : Fin 8) (s : State) : OnlyO 311296 s (execResetReq port n s) := by
  unfold execResetReq
  refine OnlyO.next ?_
  repeat' (first
      | (with_reducible exact Only.refl _ _) | (with_reducible assumption)
      | (simp (maxDischargeDepth := 20) (contextual := true) only [Only.ite, Only.refl, Only.foldl, implies_true,
          reduceCtorEq, Nat.reduceOr, beginItem_nx, modHport_nx, modItem_nx, runItem_nx, *]; done)
      | (with_reducible refine Only.foldl _ _ ?_ (fun t x ht => ?_)) | split | (dsimp only; split)
      | (with_reducible refine beginItem_nx ?_ rfl) | (with_reducible refine modHport_nx ?_ rfl)
      | (with_reducible refine modItem_nx ?_ rfl) | (with_reducible refine runItem_nx ?_ rfl ?_))
theorem execHresetExpiry_only (port : Side) (n : Fin 8) (s : State) : OnlyO 16384 s (execHresetExpiry port n s) := by
  unfold execHresetExpiry
  refine OnlyO.next ?_
  repeat' (first
      | (with_reducible exact Only.refl _ _) | (with_reducible assumption)
      | (simp (maxDischargeDepth := 20) (contextual := true) only [Only.ite, Only.refl, Only.foldl, implies_true,
          reduceCtorEq, Nat.reduceOr, modHport_nx, *]; done)
      | (with_reducible refine Only.foldl _ _ ?_ (fun t x ht => ?_)) | split | (dsimp only; split)
      | (with_reducible refine modHport_nx ?_ rfl))
theorem execSnapshot_only (port : Side) (n : Fin 8) (s : State) : OnlyO 294912 s (execSnapshot port n s) := by
  unfold execSnapshot
  refine OnlyO.next ?_
  repeat' (first
      | (with_reducible exact Only.refl _ _) | (with_reducible assumption)
      | (simp (maxDischargeDepth := 20) (contextual := true) only [Only.ite, Only.refl, Only.foldl, implies_true,
          reduceCtorEq, Nat.reduceOr, beginItem_nx, runItem_nx, *]; done)
      | (with_reducible refine Only.foldl _ _ ?_ (fun t x ht => ?_)) | split | (dsimp only; split)
      | (with_reducible refine beginItem_nx ?_ rfl) | (with_reducible refine runItem_nx ?_ rfl ?_))
theorem execTallyRead_only (port : Side) (n : Fin 8) (s : State) : OnlyO 32768 s (execTallyRead port n s) := by
  unfold execTallyRead
  refine OnlyO.next ?_
  repeat' (first
      | (with_reducible exact Only.refl _ _) | (with_reducible assumption)
      | (simp (maxDischargeDepth := 20) (contextual := true) only [Only.ite, Only.refl, Only.foldl, implies_true,
          reduceCtorEq, Nat.reduceOr, endItem_nx, hostWrite_nx, runItem_nx, *]; done)
      | (with_reducible refine Only.foldl _ _ ?_ (fun t x ht => ?_)) | split | (dsimp only; split)
      | (with_reducible refine endItem_nx ?_ rfl) | (with_reducible refine hostWrite_nx ?_ rfl)
      | (with_reducible refine runItem_nx ?_ rfl ?_))
theorem execLogRead_only (port : Side) (n : Fin 8) (s : State) : OnlyO 32768 s (execLogRead port n s) := by
  unfold execLogRead
  refine OnlyO.next ?_
  repeat' (first
      | (with_reducible exact Only.refl _ _) | (with_reducible assumption)
      | (simp (maxDischargeDepth := 20) (contextual := true) only [Only.ite, Only.refl, Only.foldl, implies_true,
          reduceCtorEq, Nat.reduceOr, endItem_nx, hostWrite_nx, runItem_nx, *]; done)
      | (with_reducible refine Only.foldl _ _ ?_ (fun t x ht => ?_)) | split | (dsimp only; split)
      | (with_reducible refine endItem_nx ?_ rfl) | (with_reducible refine hostWrite_nx ?_ rfl)
      | (with_reducible refine runItem_nx ?_ rfl ?_))
theorem execLinkSend_only (port : Side) (n : Fin 8) (s : State) : OnlyO 360448 s (execLinkSend port n s) := by
  unfold execLinkSend
  refine OnlyO.next ?_
  repeat' (first
      | (with_reducible exact Only.refl _ _) | (with_reducible assumption)
      | (simp (maxDischargeDepth := 20) (contextual := true) only [Only.ite, Only.refl, Only.foldl, implies_true,
          reduceCtorEq, Nat.reduceOr, beginItem_nx, endItem_nx, modPlPort_nx, runItem_nx, *]; done)
      | (with_reducible refine Only.foldl _ _ ?_ (fun t x ht => ?_)) | split | (dsimp only; split)
      | (with_reducible refine beginItem_nx ?_ rfl) | (with_reducible refine endItem_nx ?_ rfl)
      | (with_reducible refine modPlPort_nx ?_ rfl) | (with_reducible refine runItem_nx ?_ rfl ?_))
theorem execLinkDetach_only (port : Side) (n : Fin 8) (s : State) : OnlyO 360448 s (execLinkDetach port n s) := by
  unfold execLinkDetach
  refine OnlyO.next ?_
  repeat' (first
      | (with_reducible exact Only.refl _ _) | (with_reducible assumption)
      | (simp (maxDischargeDepth := 20) (contextual := true) only [Only.ite, Only.refl, Only.foldl, implies_true,
          reduceCtorEq, Nat.reduceOr, beginItem_nx, endItem_nx, keepImage_nx, modPlPort_nx, runItem_nx, *]; done)
      | (with_reducible refine Only.foldl _ _ ?_ (fun t x ht => ?_)) | split | (dsimp only; split)
      | (with_reducible refine beginItem_nx ?_ rfl) | (with_reducible refine endItem_nx ?_ rfl)
      | (with_reducible refine keepImage_nx ?_ rfl) | (with_reducible refine modPlPort_nx ?_ rfl)
      | (with_reducible refine runItem_nx ?_ rfl ?_))
theorem execCvJob_only (port : Side) (n : Fin 8) (s : State) : OnlyO 425984 s (execCvJob port n s) := by
  unfold execCvJob
  refine OnlyO.next ?_
  repeat' (first
      | (with_reducible exact Only.refl _ _) | (with_reducible assumption)
      | (simp (maxDischargeDepth := 20) (contextual := true) only [Only.ite, Only.refl, Only.foldl, implies_true,
          reduceCtorEq, Nat.reduceOr, beginTimed_nx, endItem_nx, holdChannel_nx, runItem_nx, *]; done)
      | (with_reducible refine Only.foldl _ _ ?_ (fun t x ht => ?_)) | split | (dsimp only; split)
      | (with_reducible refine beginTimed_nx ?_ rfl) | (with_reducible refine endItem_nx ?_ rfl)
      | (with_reducible refine holdChannel_nx ?_ rfl) | (with_reducible refine runItem_nx ?_ rfl ?_))
theorem execFullTest_only (port : Side) (n : Fin 8) (s : State) : OnlyO 295168 s (execFullTest port n s) := by
  unfold execFullTest
  refine OnlyO.next ?_
  repeat' (first
      | (with_reducible exact Only.refl _ _) | (with_reducible assumption)
      | (simp (maxDischargeDepth := 20) (contextual := true) only [Only.ite, Only.refl, Only.foldl, implies_true,
          reduceCtorEq, Nat.reduceOr, beginItem_nx, modSt_nx, runItem_nx, *]; done)
      | (with_reducible refine Only.foldl _ _ ?_ (fun t x ht => ?_)) | split | (dsimp only; split)
      | (with_reducible refine beginItem_nx ?_ rfl) | (with_reducible refine modSt_nx ?_ rfl)
      | (with_reducible refine runItem_nx ?_ rfl ?_))
theorem execLcSet_only (port : Side) (n : Fin 8) (s : State) : OnlyO 311568 s (execLcSet port n s) := by
  unfold execLcSet
  refine OnlyO.next ?_
  repeat' (first
      | (with_reducible exact Only.refl _ _) | (with_reducible assumption)
      | (simp (maxDischargeDepth := 20) (contextual := true) only [Only.ite, Only.refl, Only.foldl, implies_true,
          reduceCtorEq, Nat.reduceOr, ackWait_nx, beginItem_nx, changeLc_nx, endItem_nx, runItem_nx, *]; done)
      | (with_reducible refine Only.foldl _ _ ?_ (fun t x ht => ?_)) | split | (dsimp only; split)
      | (with_reducible refine ackWait_nx ?_ rfl) | (with_reducible refine beginItem_nx ?_ rfl)
      | (with_reducible refine changeLc_nx ?_ rfl) | (with_reducible refine endItem_nx ?_ rfl)
      | (with_reducible refine runItem_nx ?_ rfl ?_))
theorem execStoreWrite_only (port : Side) (n : Fin 8) (s : State) : OnlyO 294912 s (execStoreWrite port n s) := by
  unfold execStoreWrite
  refine OnlyO.next ?_
  repeat' (first
      | (with_reducible exact Only.refl _ _) | (with_reducible assumption)
      | (simp (maxDischargeDepth := 20) (contextual := true) only [Only.ite, Only.refl, Only.foldl, implies_true,
          reduceCtorEq, Nat.reduceOr, beginTimed_nx, endItem_nx, modStores_nx, runItem_nx, *]; done)
      | (with_reducible refine Only.foldl _ _ ?_ (fun t x ht => ?_)) | split | (dsimp only; split)
      | (with_reducible refine beginTimed_nx ?_ rfl) | (with_reducible refine endItem_nx ?_ rfl)
      | (with_reducible refine modStores_nx ?_ rfl) | (with_reducible refine runItem_nx ?_ rfl ?_))
theorem execStoreRead_only (port : Side) (n : Fin 8) (s : State) : OnlyO 32768 s (execStoreRead port n s) := by
  unfold execStoreRead
  refine OnlyO.next ?_
  repeat' (first
      | (with_reducible exact Only.refl _ _) | (with_reducible assumption)
      | (simp (maxDischargeDepth := 20) (contextual := true) only [Only.ite, Only.refl, Only.foldl, implies_true,
          reduceCtorEq, Nat.reduceOr, endItem_nx, hostWrite_nx, modItem_nx, runItem_nx, *]; done)
      | (with_reducible refine Only.foldl _ _ ?_ (fun t x ht => ?_)) | split | (dsimp only; split)
      | (with_reducible refine endItem_nx ?_ rfl) | (with_reducible refine hostWrite_nx ?_ rfl)
      | (with_reducible refine modItem_nx ?_ rfl) | (with_reducible refine runItem_nx ?_ rfl ?_))
end Sys2Proof.Machine
end

