-- ==== Sys2Proof/Laws/FrameStart.lean ====
section
/-!
SUPPORT. Sys2Proof/Laws/FrameStart.lean: the frames of the operations and commands of Machine/Start.lean: `op_only` names all that an
operation can change; `op_nx` is the same at the end of a chain of operations.
-/
set_option linter.unusedSimpArgs false
set_option linter.unusedVariables false
namespace Sys2Proof.Machine
theorem journalCheck_only (i : Side) (s : State) : Only 385048 s (journalCheck i s) := by
  unfold journalCheck
  repeat' (first
      | (with_reducible exact Only.refl _ _) | (with_reducible assumption)
      | (simp (maxDischargeDepth := 20) (contextual := true) only [Only.ite, Only.refl, Only.foldl, implies_true,
          reduceCtorEq, Nat.reduceOr, recordPulse_cont_nx, *]; done)
      | (with_reducible refine Only.foldl _ _ ?_ (fun t x ht => ?_)) | split | (dsimp only; split)
      | (with_reducible refine recordPulse_cont_nx ?_ rfl))
theorem journalCheck_nx {M : Nat} {s tS : State} {i : Side} (hOnly : Only M s tS) (hSub : M ||| 385048 = M) :
    Only M s (journalCheck i tS) :=
  hOnly.step (journalCheck_only ..) hSub
theorem rebuildRing_only (rs : List JRec) (r : Side × Fin 8) (s : State) : Only 557056 s (rebuildRing rs r s) := by
  unfold rebuildRing
  repeat' (first
      | (with_reducible exact Only.refl _ _) | (with_reducible assumption)
      | (simp (maxDischargeDepth := 20) (contextual := true) only [Only.ite, Only.refl, Only.foldl, implies_true,
          reduceCtorEq, Nat.reduceOr, modSq_nx, modWq_nx, takeFree_nx, *]; done)
      | (with_reducible refine Only.foldl _ _ ?_ (fun t x ht => ?_)) | split | (dsimp only; split)
      | (with_reducible refine modSq_nx ?_ rfl) | (with_reducible refine modWq_nx ?_ rfl)
      | (with_reducible refine takeFree_nx ?_ rfl))
theorem rebuildRing_nx {M : Nat} {s tS : State} {rs : List JRec} {r : Side × Fin 8} (hOnly : Only M s tS) (hSub :
    M ||| 557056 = M) : Only M s (rebuildRing rs r tS) :=
  hOnly.step (rebuildRing_only ..) hSub
theorem rebuildCqs_only (rs : List JRec) (s : State) : Only 32768 s (rebuildCqs rs s) := by
  unfold rebuildCqs
  repeat' (first
      | (with_reducible exact Only.refl _ _) | (with_reducible assumption)
      | (simp (maxDischargeDepth := 20) (contextual := true) only [Only.ite, Only.refl, Only.foldl, implies_true,
          reduceCtorEq, Nat.reduceOr, modCq_nx, *]; done)
      | (with_reducible refine Only.foldl _ _ ?_ (fun t x ht => ?_)) | split | (dsimp only; split)
      | (with_reducible refine modCq_nx ?_ rfl))
theorem rebuildCqs_nx {M : Nat} {s tS : State} {rs : List JRec} (hOnly : Only M s tS) (hSub : M ||| 32768 = M) :
    Only M s (rebuildCqs rs tS) :=
  hOnly.step (rebuildCqs_only ..) hSub
theorem replayDone_only (r : Side × Fin 8) (s : State) : Only 294912 s (replayDone r s) := by
  unfold replayDone
  repeat' (first
      | (with_reducible exact Only.refl _ _) | (with_reducible assumption)
      | (simp (maxDischargeDepth := 20) (contextual := true) only [Only.ite, Only.refl, Only.foldl, implies_true,
          reduceCtorEq, Nat.reduceOr, journalWrite_nx, *]; done)
      | (with_reducible refine Only.foldl _ _ ?_ (fun t x ht => ?_)) | split | (dsimp only; split)
      | (with_reducible refine journalWrite_nx ?_ rfl))
theorem replayDone_nx {M : Nat} {s tS : State} {r : Side × Fin 8} (hOnly : Only M s tS) (hSub : M ||| 294912 = M) :
    Only M s (replayDone r tS) :=
  hOnly.step (replayDone_only ..) hSub
theorem damageRecord_only (s : State) (e : Side × Nat) : Only 262144 s (damageRecord s e) := by
  unfold damageRecord
  repeat' (first
      | (with_reducible exact Only.refl _ _) | (with_reducible assumption)
      | (simp (maxDischargeDepth := 20) (contextual := true) only [Only.ite, Only.refl, Only.foldl, implies_true,
          reduceCtorEq, Nat.reduceOr, modStore_nx, *]; done)
      | (with_reducible refine Only.foldl _ _ ?_ (fun t x ht => ?_)) | split | (dsimp only; split)
      | (with_reducible refine modStore_nx ?_ rfl))
theorem damageRecord_nx {M : Nat} {s tS : State} {e : Side × Nat} (hOnly : Only M s tS) (hSub : M ||| 262144 = M) :
    Only M s (damageRecord tS e) :=
  hOnly.step (damageRecord_only ..) hSub
theorem execJournalReplay_only (bad : List (Side × Nat)) (s : State) : OnlyO 909400 s (execJournalReplay bad s) := by
  unfold execJournalReplay
  refine OnlyO.next ?_
  repeat' (first
      | (with_reducible exact Only.refl _ _) | (with_reducible assumption)
      | (simp (maxDischargeDepth := 20) (contextual := true) only [Only.ite, Only.refl, Only.foldl, implies_true,
          reduceCtorEq, Nat.reduceOr, damageRecord_nx, journalCheck_nx, modPcr_nx, modStores_nx, modWq_nx, rebuildCqs_nx,
          rebuildRing_nx, replayDone_nx, *]; done)
      | (with_reducible refine Only.foldl _ _ ?_ (fun t x ht => ?_)) | split | (dsimp only; split)
      | (with_reducible refine damageRecord_nx ?_ rfl) | (with_reducible refine journalCheck_nx ?_ rfl)
      | (with_reducible refine modPcr_nx ?_ rfl) | (with_reducible refine modStores_nx ?_ rfl)
      | (with_reducible refine modWq_nx ?_ rfl) | (with_reducible refine rebuildCqs_nx ?_ rfl)
      | (with_reducible refine rebuildRing_nx ?_ rfl) | (with_reducible refine replayDone_nx ?_ rfl))
theorem makeActive_only (i k : Side) (s : State) : Only 262144 s (makeActive i k s) := by
  unfold makeActive
  repeat' (first
      | (with_reducible exact Only.refl _ _) | (with_reducible assumption)
      | (simp (maxDischargeDepth := 20) (contextual := true) only [Only.ite, Only.refl, Only.foldl, implies_true,
          reduceCtorEq, Nat.reduceOr, modStore_nx, *]; done)
      | (with_reducible refine Only.foldl _ _ ?_ (fun t x ht => ?_)) | split | (dsimp only; split)
      | (with_reducible refine modStore_nx ?_ rfl))
theorem makeActive_nx {M : Nat} {s tS : State} {i k : Side} (hOnly : Only M s tS) (hSub : M ||| 262144 = M) :
    Only M s (makeActive i k tS) :=
  hOnly.step (makeActive_only ..) hSub
theorem chooseOne_only (c i k : Side) (s : State) : Only 262656 s (chooseOne c i k s) := by
  unfold chooseOne
  repeat' (first
      | (with_reducible exact Only.refl _ _) | (with_reducible assumption)
      | (simp (maxDischargeDepth := 20) (contextual := true) only [Only.ite, Only.refl, Only.foldl, implies_true,
          reduceCtorEq, Nat.reduceOr, makeActive_nx, modEv_nx, *]; done)
      | (with_reducible refine Only.foldl _ _ ?_ (fun t x ht => ?_)) | split | (dsimp only; split)
      | (with_reducible refine makeActive_nx ?_ rfl) | (with_reducible refine modEv_nx ?_ rfl))
theorem chooseOne_nx {M : Nat} {s tS : State} {c i k : Side} (hOnly : Only M s tS) (hSub : M ||| 262656 = M) :
    Only M s (chooseOne c i k tS) :=
  hOnly.step (chooseOne_only ..) hSub
theorem chooseBoth_only (ka kb : Side) (s : State) : Only 262656 s (chooseBoth ka kb s) := by
  unfold chooseBoth
  repeat' (first
      | (with_reducible exact Only.refl _ _) | (with_reducible assumption)
      | (simp (maxDischargeDepth := 20) (contextual := true) only [Only.ite, Only.refl, Only.foldl, implies_true,
          reduceCtorEq, Nat.reduceOr, chooseOne_nx, *]; done)
      | (with_reducible refine Only.foldl _ _ ?_ (fun t x ht => ?_)) | split | (dsimp only; split)
      | (with_reducible refine chooseOne_nx ?_ rfl))
theorem chooseBoth_nx {M : Nat} {s tS : State} {ka kb : Side} (hOnly : Only M s tS) (hSub : M ||| 262656 = M) :
    Only M s (chooseBoth ka kb tS) :=
  hOnly.step (chooseBoth_only ..) hSub
theorem reconcile_only (s : State) : Only 279056 s (reconcile s) := by
  unfold reconcile
  repeat' (first
      | (with_reducible exact Only.refl _ _) | (with_reducible assumption)
      | (simp (maxDischargeDepth := 20) (contextual := true) only [Only.ite, Only.refl, Only.foldl, implies_true,
          reduceCtorEq, Nat.reduceOr, chooseBoth_nx, logEvent_nx, modStore_nx, *]; done)
      | (with_reducible refine Only.foldl _ _ ?_ (fun t x ht => ?_)) | split | (dsimp only; split)
      | (with_reducible refine chooseBoth_nx ?_ rfl) | (with_reducible refine logEvent_nx ?_ rfl)
      | (with_reducible refine modStore_nx ?_ rfl))
theorem reconcile_nx {M : Nat} {s tS : State}  (hOnly : Only M s tS) (hSub : M ||| 279056 = M) : Only M s (reconcile tS) :=
  hOnly.step (reconcile_only ..) hSub
theorem selectTables_only (s : State) : Only 279056 s (selectTables s) := by
  unfold selectTables
  repeat' (first
      | (with_reducible exact Only.refl _ _) | (with_reducible assumption)
      | (simp (maxDischargeDepth := 20) (contextual := true) only [Only.ite, Only.refl, Only.foldl, implies_true,
          reduceCtorEq, Nat.reduceOr, chooseOne_nx, modEv_nx, reconcile_nx, *]; done)
      | (with_reducible refine Only.foldl _ _ ?_ (fun t x ht => ?_)) | split | (dsimp only; split)
      | (with_reducible refine chooseOne_nx ?_ rfl) | (with_reducible refine modEv_nx ?_ rfl)
      | (with_reducible refine reconcile_nx ?_ rfl))
theorem selectTables_nx {M : Nat} {s tS : State}  (hOnly : Only M s tS) (hSub : M ||| 279056 = M) :
    Only M s (selectTables tS) :=
  hOnly.step (selectTables_only ..) hSub
theorem selectSnoop_only (s : State) : Only 131072 s (selectSnoop s) := by
  unfold selectSnoop
  repeat' (first
      | (with_reducible exact Only.refl _ _) | (with_reducible assumption)
      | (simp (maxDischargeDepth := 20) (contextual := true) only [Only.ite, Only.refl, Only.foldl, implies_true,
          reduceCtorEq, Nat.reduceOr, snoop_nx, *]; done)
      | (with_reducible refine Only.foldl _ _ ?_ (fun t x ht => ?_)) | split | (dsimp only; split)
      | (with_reducible refine snoop_nx ?_ rfl))
theorem selectSnoop_nx {M : Nat} {s tS : State}  (hOnly : Only M s tS) (hSub : M ||| 131072 = M) :
    Only M s (selectSnoop tS) :=
  hOnly.step (selectSnoop_only ..) hSub
theorem execTableSelect_only (s : State) : OnlyO 410192 s (execTableSelect s) := by
  unfold execTableSelect
  refine OnlyO.next ?_
  repeat' (first
      | (with_reducible exact Only.refl _ _) | (with_reducible assumption)
      | (simp (maxDischargeDepth := 20) (contextual := true) only [Only.ite, Only.refl, Only.foldl, implies_true,
          reduceCtorEq, Nat.reduceOr, modPcr_nx, selectSnoop_nx, selectTables_nx, *]; done)
      | (with_reducible refine Only.foldl _ _ ?_ (fun t x ht => ?_)) | split | (dsimp only; split)
      | (with_reducible refine modPcr_nx ?_ rfl) | (with_reducible refine selectSnoop_nx ?_ rfl)
      | (with_reducible refine selectTables_nx ?_ rfl))
theorem releaseCores_only (s : State) : Only 576 s (releaseCores s) := by
  unfold releaseCores
  repeat' (first
      | (with_reducible exact Only.refl _ _) | (with_reducible assumption)
      | (simp (maxDischargeDepth := 20) (contextual := true) only [Only.ite, Only.refl, Only.foldl, implies_true,
          reduceCtorEq, Nat.reduceOr, modCore_nx, modPcr_nx, *]; done)
      | (with_reducible refine Only.foldl _ _ ?_ (fun t x ht => ?_)) | split | (dsimp only; split)
      | (with_reducible refine modCore_nx ?_ rfl) | (with_reducible refine modPcr_nx ?_ rfl))
theorem releaseCores_nx {M : Nat} {s tS : State}  (hOnly : Only M s tS) (hSub : M ||| 576 = M) :
    Only M s (releaseCores tS) :=
  hOnly.step (releaseCores_only ..) hSub
theorem execTableLoad_only (s : State) : OnlyO 576 s (execTableLoad s) := by
  unfold execTableLoad
  refine OnlyO.next ?_
  repeat' (first
      | (with_reducible exact Only.refl _ _) | (with_reducible assumption)
      | (simp (maxDischargeDepth := 20) (contextual := true) only [Only.ite, Only.refl, Only.foldl, implies_true,
          reduceCtorEq, Nat.reduceOr, modCore_nx, modEv_nx, modPcr_nx, releaseCores_nx, *]; done)
      | (with_reducible refine Only.foldl _ _ ?_ (fun t x ht => ?_)) | split | (dsimp only; split)
      | (with_reducible refine modCore_nx ?_ rfl) | (with_reducible refine modEv_nx ?_ rfl)
      | (with_reducible refine modPcr_nx ?_ rfl) | (with_reducible refine releaseCores_nx ?_ rfl))
theorem refCheck_only (q : Fin 4) (ok : Bool) (s : State) : Only 386072 s (refCheck q ok s) := by
  unfold refCheck
  repeat' (first
      | (with_reducible exact Only.refl _ _) | (with_reducible assumption)
      | (simp (maxDischargeDepth := 20) (contextual := true) only [Only.ite, Only.refl, Only.foldl, implies_true,
          reduceCtorEq, Nat.reduceOr, causeAbsent_nx, modIb_nx, recordFault_cont_nx, *]; done)
      | (with_reducible refine Only.foldl _ _ ?_ (fun t x ht => ?_)) | split | (dsimp only; split)
      | (with_reducible refine causeAbsent_nx ?_ rfl) | (with_reducible refine modIb_nx ?_ rfl)
      | (with_reducible refine recordFault_cont_nx ?_ rfl))
theorem refCheck_nx {M : Nat} {s tS : State} {q : Fin 4} {ok : Bool} (hOnly : Only M s tS) (hSub : M ||| 386072 = M) :
    Only M s (refCheck q ok tS) :=
  hOnly.step (refCheck_only ..) hSub
theorem firstPass_only (q : Fin 4) (pair : Fin 17) (bad used : Bool) (s : State) :
    Only 913432 s (firstPass q pair bad used s) := by
  unfold firstPass
  repeat' (first
      | (with_reducible exact Only.refl _ _) | (with_reducible assumption)
      | (simp (maxDischargeDepth := 20) (contextual := true) only [Only.ite, Only.refl, Only.foldl, implies_true,
          reduceCtorEq, Nat.reduceOr, afQuarterFault_nx, axisFault_nx, modAf_nx, takeFree_nx, *]; done)
      | (with_reducible refine Only.foldl _ _ ?_ (fun t x ht => ?_)) | split | (dsimp only; split)
      | (with_reducible refine afQuarterFault_nx ?_ rfl) | (with_reducible refine axisFault_nx ?_ rfl)
      | (with_reducible refine modAf_nx ?_ rfl) | (with_reducible refine takeFree_nx ?_ rfl))
theorem firstPass_nx {M : Nat} {s tS : State} {q : Fin 4} {pair : Fin 17} {bad used : Bool} (hOnly : Only M s tS) (hSub :
    M ||| 913432 = M) : Only M s (firstPass q pair bad used tS) :=
  hOnly.step (firstPass_only ..) hSub
theorem fieldQuarter_only (refOk : BitVec 4) (thrBad : List (Fin 128 × BitVec 5)) (calBad : List (Fin 4 × Fin 17)) (q :
    Fin 4) (s : State) : Only 914456 s (fieldQuarter refOk thrBad calBad q s) := by
  unfold fieldQuarter
  repeat' (first
      | (with_reducible exact Only.refl _ _) | (with_reducible assumption)
      | (simp (maxDischargeDepth := 20) (contextual := true) only [Only.ite, Only.refl, Only.foldl, implies_true,
          reduceCtorEq, Nat.reduceOr, firstPass_nx, refCheck_nx, thrTest_nx, *]; done)
      | (with_reducible refine Only.foldl _ _ ?_ (fun t x ht => ?_)) | split | (dsimp only; split)
      | (with_reducible refine firstPass_nx ?_ rfl) | (with_reducible refine refCheck_nx ?_ rfl)
      | (with_reducible refine thrTest_nx ?_ rfl))
theorem fieldQuarter_nx {M : Nat} {s tS : State} {refOk : BitVec 4} {thrBad : List (Fin 128 × BitVec 5)} {calBad :
    List (Fin 4 × Fin 17)} {q : Fin 4} (hOnly : Only M s tS) (hSub : M ||| 914456 = M) :
    Only M s (fieldQuarter refOk thrBad calBad q tS) :=
  hOnly.step (fieldQuarter_only ..) hSub
theorem execFieldStep_only (refOk : BitVec 4) (thrBad : List (Fin 128 × BitVec 5)) (calBad : List (Fin 4 × Fin 17)) (s :
    State) : OnlyO 915032 s (execFieldStep refOk thrBad calBad s) := by
  unfold execFieldStep
  refine OnlyO.next ?_
  repeat' (first
      | (with_reducible exact Only.refl _ _) | (with_reducible assumption)
      | (simp (maxDischargeDepth := 20) (contextual := true) only [Only.ite, Only.refl, Only.foldl, implies_true,
          reduceCtorEq, Nat.reduceOr, fieldQuarter_nx, releaseCores_nx, *]; done)
      | (with_reducible refine Only.foldl _ _ ?_ (fun t x ht => ?_)) | split | (dsimp only; split)
      | (with_reducible refine fieldQuarter_nx ?_ rfl) | (with_reducible refine releaseCores_nx ?_ rfl))
end Sys2Proof.Machine
end

