-- ==== Sys2Proof/Laws/FrameRings.lean ====
section
/-!
SUPPORT. Sys2Proof/Laws/FrameRings.lean: the frames of the operations and commands of Machine/Rings.lean: `op_only` names all that an
operation can change; `op_nx` is the same at the end of a chain of operations.
-/
set_option linter.unusedSimpArgs false
set_option linter.unusedVariables false
namespace Sys2Proof.Machine
theorem wqFault_only (p : Side) (cause addr acc : Nat) (s : State) : Only 385040 s (wqFault p cause addr acc s) := by
  unfold wqFault
  repeat' (first
      | (with_reducible exact Only.refl _ _) | (with_reducible assumption)
      | (simp (maxDischargeDepth := 20) (contextual := true) only [Only.ite, Only.refl, Only.foldl, implies_true,
          reduceCtorEq, Nat.reduceOr, recordFault_corr_nx, *]; done)
      | (with_reducible refine Only.foldl _ _ ?_ (fun t x ht => ?_)) | split | (dsimp only; split)
      | (with_reducible refine recordFault_corr_nx ?_ rfl))
theorem wqFault_nx {M : Nat} {s tS : State} {p : Side} {cause addr acc : Nat} (hOnly : Only M s tS) (hSub :
    M ||| 385040 = M) : Only M s (wqFault p cause addr acc tS) :=
  hOnly.step (wqFault_only ..) hSub
theorem doorbell_nx {M : Nat} {s t : State} {p : Side} {off : Nat} {v : Word} {ok : Nat → Bool} {f :
    Nat → State → State} (h : Only M s t) (hp : M ||| 385040 = M) (hf : ∀ n u, Only M s u → Only M s (f n u)) :
    Only M s (doorbell p off v ok f t) := by
  unfold doorbell
  dsimp only
  have h2 : Only M s (if 4096 ≤ v.toNat then recordAccess .wq p off t else t) := Only.ite (recordAccess_nx h hp) h
  split
  · exact hf _ _ h2
  · exact wqFault_nx h2 hp

theorem tailDoorbell_only (port : Side) (n : Fin 8) (v : Word) (s : State) : Only 385040 s (tailDoorbell port n v s) := by
  unfold tailDoorbell
  repeat' (first
      | (with_reducible exact Only.refl _ _) | (with_reducible assumption)
      | (simp (maxDischargeDepth := 20) (contextual := true) only [Only.ite, Only.refl, Only.foldl, implies_true,
          reduceCtorEq, Nat.reduceOr, doorbell_nx, modSq_nx, *]; done)
      | (with_reducible refine Only.foldl _ _ ?_ (fun t x ht => ?_)) | split | (dsimp only; split)
      | (with_reducible refine doorbell_nx ?_ rfl (fun n u hu => ?_)) | (with_reducible refine modSq_nx ?_ rfl))
theorem tailDoorbell_nx {M : Nat} {s tS : State} {port : Side} {n : Fin 8} {v : Word} (hOnly : Only M s tS) (hSub :
    M ||| 385040 = M) : Only M s (tailDoorbell port n v tS) :=
  hOnly.step (tailDoorbell_only ..) hSub
theorem headDoorbell_only (port : Side) (n : Fin 8) (v : Word) (s : State) : Only 385040 s (headDoorbell port n v s) := by
  unfold headDoorbell
  repeat' (first
      | (with_reducible exact Only.refl _ _) | (with_reducible assumption)
      | (simp (maxDischargeDepth := 20) (contextual := true) only [Only.ite, Only.refl, Only.foldl, implies_true,
          reduceCtorEq, Nat.reduceOr, doorbell_nx, modCq_nx, *]; done)
      | (with_reducible refine Only.foldl _ _ ?_ (fun t x ht => ?_)) | split | (dsimp only; split)
      | (with_reducible refine doorbell_nx ?_ rfl (fun n u hu => ?_)) | (with_reducible refine modCq_nx ?_ rfl))
theorem headDoorbell_nx {M : Nat} {s tS : State} {port : Side} {n : Fin 8} {v : Word} (hOnly : Only M s tS) (hSub :
    M ||| 385040 = M) : Only M s (headDoorbell port n v tS) :=
  hOnly.step (headDoorbell_only ..) hSub
theorem execSqTailDoorbell_only (port : Side) (n : Fin 8) (v : BitVec 32) (s : State) :
    OnlyO 385040 s (execSqTailDoorbell port n v s) := by
  unfold execSqTailDoorbell
  refine OnlyO.next ?_
  repeat' (first
      | (with_reducible exact Only.refl _ _) | (with_reducible assumption)
      | (simp (maxDischargeDepth := 20) (contextual := true) only [Only.ite, Only.refl, Only.foldl, implies_true,
          reduceCtorEq, Nat.reduceOr, tailDoorbell_nx, toBlock_nx, *]; done)
      | (with_reducible refine Only.foldl _ _ ?_ (fun t x ht => ?_)) | split | (dsimp only; split)
      | (with_reducible refine tailDoorbell_nx ?_ rfl) | (with_reducible refine toBlock_nx ?_ rfl ?_))
theorem execCqHeadDoorbell_only (port : Side) (n : Fin 8) (v : BitVec 32) (s : State) :
    OnlyO 385040 s (execCqHeadDoorbell port n v s) := by
  unfold execCqHeadDoorbell
  refine OnlyO.next ?_
  repeat' (first
      | (with_reducible exact Only.refl _ _) | (with_reducible assumption)
      | (simp (maxDischargeDepth := 20) (contextual := true) only [Only.ite, Only.refl, Only.foldl, implies_true,
          reduceCtorEq, Nat.reduceOr, headDoorbell_nx, modHp_nx, toBlock_nx, *]; done)
      | (with_reducible refine Only.foldl _ _ ?_ (fun t x ht => ?_)) | split | (dsimp only; split)
      | (with_reducible refine headDoorbell_nx ?_ rfl) | (with_reducible refine modHp_nx ?_ rfl)
      | (with_reducible refine toBlock_nx ?_ rfl ?_))
theorem headFirst_only (port : Side) (k : Fin 8) (s : State) : Only 385040 s (headFirst port k s) := by
  unfold headFirst
  repeat' (first
      | (with_reducible exact Only.refl _ _) | (with_reducible assumption)
      | (simp (maxDischargeDepth := 20) (contextual := true) only [Only.ite, Only.refl, Only.foldl, implies_true,
          reduceCtorEq, Nat.reduceOr, headDoorbell_nx, modHp_nx, toBlock_nx, *]; done)
      | (with_reducible refine Only.foldl _ _ ?_ (fun t x ht => ?_)) | split | (dsimp only; split)
      | (with_reducible refine headDoorbell_nx ?_ rfl) | (with_reducible refine modHp_nx ?_ rfl)
      | (with_reducible refine toBlock_nx ?_ rfl ?_))
theorem headFirst_nx {M : Nat} {s tS : State} {port : Side} {k : Fin 8} (hOnly : Only M s tS) (hSub : M ||| 385040 = M) :
    Only M s (headFirst port k tS) :=
  hOnly.step (headFirst_only ..) hSub
theorem execDescriptorFetch_only (port : Side) (s : State) : OnlyO 32768 s (execDescriptorFetch port s) := by
  unfold execDescriptorFetch
  refine OnlyO.next ?_
  repeat' (first
      | (with_reducible exact Only.refl _ _) | (with_reducible assumption)
      | (simp (maxDischargeDepth := 20) (contextual := true) only [Only.ite, Only.refl, Only.foldl, implies_true,
          reduceCtorEq, Nat.reduceOr, modWport_nx, *]; done)
      | (with_reducible refine Only.foldl _ _ ?_ (fun t x ht => ?_)) | split | (dsimp only; split)
      | (with_reducible refine modWport_nx ?_ rfl))
theorem takeSlot_only (p : Side) (n : Fin 8) (d : Desc) (code : Option Nat) (s : State) :
    Only 294912 s (takeSlot p n d code s) := by
  unfold takeSlot
  repeat' (first
      | (with_reducible exact Only.refl _ _) | (with_reducible assumption)
      | (simp (maxDischargeDepth := 20) (contextual := true) only [Only.ite, Only.refl, Only.foldl, implies_true,
          reduceCtorEq, Nat.reduceOr, journalWrite_nx, modSq_nx, modWq_nx, *]; done)
      | (with_reducible refine Only.foldl _ _ ?_ (fun t x ht => ?_)) | split | (dsimp only; split)
      | (with_reducible refine journalWrite_nx ?_ rfl) | (with_reducible refine modSq_nx ?_ rfl)
      | (with_reducible refine modWq_nx ?_ rfl))
theorem takeSlot_nx {M : Nat} {s tS : State} {p : Side} {n : Fin 8} {d : Desc} {code : Option Nat} (hOnly : Only M s tS)
    (hSub : M ||| 294912 = M) : Only M s (takeSlot p n d code tS) :=
  hOnly.step (takeSlot_only ..) hSub
theorem execDescriptorArrival_only (port : Side) (n : Fin 8) (bytes : Option (List Byte)) (s : State) :
    OnlyO 385040 s (execDescriptorArrival port n bytes s) := by
  unfold execDescriptorArrival
  refine OnlyO.next ?_
  repeat' (first
      | (with_reducible exact Only.refl _ _) | (with_reducible assumption)
      | (simp (maxDischargeDepth := 20) (contextual := true) only [Only.ite, Only.refl, Only.foldl, implies_true,
          reduceCtorEq, Nat.reduceOr, modSq_nx, takeSlot_nx, wqFault_nx, *]; done)
      | (with_reducible refine Only.foldl _ _ ?_ (fun t x ht => ?_)) | split | (dsimp only; split)
      | (with_reducible refine modSq_nx ?_ rfl) | (with_reducible refine takeSlot_nx ?_ rfl)
      | (with_reducible refine wqFault_nx ?_ rfl))
theorem returnPages_only (p : Side) (s : State) : Only 32768 s (returnPages p s) := by
  unfold returnPages
  repeat' (first
      | (with_reducible exact Only.refl _ _) | (with_reducible assumption)
      | (simp (maxDischargeDepth := 20) (contextual := true) only [Only.ite, Only.refl, Only.foldl, implies_true,
          reduceCtorEq, Nat.reduceOr, modWport_nx, *]; done)
      | (with_reducible refine Only.foldl _ _ ?_ (fun t x ht => ?_)) | split | (dsimp only; split)
      | (with_reducible refine modWport_nx ?_ rfl))
theorem returnPages_nx {M : Nat} {s tS : State} {p : Side} (hOnly : Only M s tS) (hSub : M ||| 32768 = M) :
    Only M s (returnPages p tS) :=
  hOnly.step (returnPages_only ..) hSub
theorem releaseChannel_only (p : Side) (n : Fin 8) (s : State) : Only 131072 s (releaseChannel p n s) := by
  unfold releaseChannel
  repeat' (first
      | (with_reducible exact Only.refl _ _) | (with_reducible assumption)
      | (simp (maxDischargeDepth := 20) (contextual := true) only [Only.ite, Only.refl, Only.foldl, implies_true,
          reduceCtorEq, Nat.reduceOr, modCv_nx, *]; done)
      | (with_reducible refine Only.foldl _ _ ?_ (fun t x ht => ?_)) | split | (dsimp only; split)
      | (with_reducible refine modCv_nx ?_ rfl))
theorem releaseChannel_nx {M : Nat} {s tS : State} {p : Side} {n : Fin 8} (hOnly : Only M s tS) (hSub : M ||| 131072 = M) :
    Only M s (releaseChannel p n tS) :=
  hOnly.step (releaseChannel_only ..) hSub
theorem execItemComplete_only (port : Side) (n : Fin 8) (xferOk : Bool) (s : State) :
    OnlyO 516112 s (execItemComplete port n xferOk s) := by
  unfold execItemComplete
  refine OnlyO.next ?_
  repeat' (first
      | (with_reducible exact Only.refl _ _) | (with_reducible assumption)
      | (simp (maxDischargeDepth := 20) (contextual := true) only [Only.ite, Only.refl, Only.foldl, implies_true,
          reduceCtorEq, Nat.reduceOr, journalWrite_nx, modItem_nx, modWport_nx, releaseChannel_nx, returnPages_nx, wqFault_nx, *]; done)
      | (with_reducible refine Only.foldl _ _ ?_ (fun t x ht => ?_)) | split | (dsimp only; split)
      | (with_reducible refine journalWrite_nx ?_ rfl) | (with_reducible refine modItem_nx ?_ rfl)
      | (with_reducible refine modWport_nx ?_ rfl) | (with_reducible refine releaseChannel_nx ?_ rfl)
      | (with_reducible refine returnPages_nx ?_ rfl) | (with_reducible refine wqFault_nx ?_ rfl))
theorem cqSignal_only (p : Side) (k : Fin 8) (s : State) : Only 49152 s (cqSignal p k s) := by
  unfold cqSignal
  repeat' (first
      | (with_reducible exact Only.refl _ _) | (with_reducible assumption)
      | (simp (maxDischargeDepth := 20) (contextual := true) only [Only.ite, Only.refl, Only.foldl, implies_true,
          reduceCtorEq, Nat.reduceOr, modCq_nx, sendVector_nx, *]; done)
      | (with_reducible refine Only.foldl _ _ ?_ (fun t x ht => ?_)) | split | (dsimp only; split)
      | (with_reducible refine modCq_nx ?_ rfl) | (with_reducible refine sendVector_nx ?_ rfl))
theorem cqSignal_nx {M : Nat} {s tS : State} {p : Side} {k : Fin 8} (hOnly : Only M s tS) (hSub : M ||| 49152 = M) :
    Only M s (cqSignal p k tS) :=
  hOnly.step (cqSignal_only ..) hSub
theorem cqCount_only (p : Side) (k : Fin 8) (irq : Bool) (s : State) : Only 49152 s (cqCount p k irq s) := by
  unfold cqCount
  repeat' (first
      | (with_reducible exact Only.refl _ _) | (with_reducible assumption)
      | (simp (maxDischargeDepth := 20) (contextual := true) only [Only.ite, Only.refl, Only.foldl, implies_true,
          reduceCtorEq, Nat.reduceOr, cqSignal_nx, modCq_nx, *]; done)
      | (with_reducible refine Only.foldl _ _ ?_ (fun t x ht => ?_)) | split | (dsimp only; split)
      | (with_reducible refine cqSignal_nx ?_ rfl) | (with_reducible refine modCq_nx ?_ rfl))
theorem cqCount_nx {M : Nat} {s tS : State} {p : Side} {k : Fin 8} {irq : Bool} (hOnly : Only M s tS) (hSub :
    M ||| 49152 = M) : Only M s (cqCount p k irq tS) :=
  hOnly.step (cqCount_only ..) hSub
theorem writePosted_only (p : Side) (k : Fin 8) (s : State) : Only 294912 s (writePosted p k s) := by
  unfold writePosted
  repeat' (first
      | (with_reducible exact Only.refl _ _) | (with_reducible assumption)
      | (simp (maxDischargeDepth := 20) (contextual := true) only [Only.ite, Only.refl, Only.foldl, implies_true,
          reduceCtorEq, Nat.reduceOr, journalWrite_nx, modCq_nx, modWport_nx, *]; done)
      | (with_reducible refine Only.foldl _ _ ?_ (fun t x ht => ?_)) | split | (dsimp only; split)
      | (with_reducible refine journalWrite_nx ?_ rfl) | (with_reducible refine modCq_nx ?_ rfl)
      | (with_reducible refine modWport_nx ?_ rfl))
theorem writePosted_nx {M : Nat} {s tS : State} {p : Side} {k : Fin 8} (hOnly : Only M s tS) (hSub : M ||| 294912 = M) :
    Only M s (writePosted p k tS) :=
  hOnly.step (writePosted_only ..) hSub
theorem postEntry_only (p : Side) (n k : Fin 8) (i : Item) (code : Nat) (res : Word) (replay : Bool) (s : State) :
    Only 311296 s (postEntry p n k i code res replay s) := by
  unfold postEntry
  repeat' (first
      | (with_reducible exact Only.refl _ _) | (with_reducible assumption)
      | (simp (maxDischargeDepth := 20) (contextual := true) only [Only.ite, Only.refl, Only.foldl, implies_true,
          reduceCtorEq, Nat.reduceOr, cqCount_nx, hostWrite_nx, modCq_nx, modSq_nx, writePosted_nx, *]; done)
      | (with_reducible refine Only.foldl _ _ ?_ (fun t x ht => ?_)) | split | (dsimp only; split)
      | (with_reducible refine cqCount_nx ?_ rfl) | (with_reducible refine hostWrite_nx ?_ rfl)
      | (with_reducible refine modCq_nx ?_ rfl) | (with_reducible refine modSq_nx ?_ rfl)
      | (with_reducible refine writePosted_nx ?_ rfl))
theorem postEntry_nx {M : Nat} {s tS : State} {p : Side} {n k : Fin 8} {i : Item} {code : Nat} {res : Word} {replay :
    Bool} (hOnly : Only M s tS) (hSub : M ||| 311296 = M) : Only M s (postEntry p n k i code res replay tS) :=
  hOnly.step (postEntry_only ..) hSub
theorem execCompletionPost_only (port : Side) (n : Fin 8) (s : State) : OnlyO 385040 s (execCompletionPost port n s) := by
  unfold execCompletionPost
  refine OnlyO.next ?_
  repeat' (first
      | (with_reducible exact Only.refl _ _) | (with_reducible assumption)
      | (simp (maxDischargeDepth := 20) (contextual := true) only [Only.ite, Only.refl, Only.foldl, implies_true,
          reduceCtorEq, Nat.reduceOr, headFirst_nx, postEntry_nx, *]; done)
      | (with_reducible refine Only.foldl _ _ ?_ (fun t x ht => ?_)) | split | (dsimp only; split)
      | (with_reducible refine headFirst_nx ?_ rfl) | (with_reducible refine postEntry_nx ?_ rfl))
theorem execPostedTimer_only (port : Side) (n : Fin 8) (s : State) : OnlyO 294912 s (execPostedTimer port n s) := by
  unfold execPostedTimer
  refine OnlyO.next ?_
  repeat' (first
      | (with_reducible exact Only.refl _ _) | (with_reducible assumption)
      | (simp (maxDischargeDepth := 20) (contextual := true) only [Only.ite, Only.refl, Only.foldl, implies_true,
          reduceCtorEq, Nat.reduceOr, writePosted_nx, *]; done)
      | (with_reducible refine Only.foldl _ _ ?_ (fun t x ht => ?_)) | split | (dsimp only; split)
      | (with_reducible refine writePosted_nx ?_ rfl))
theorem execCqCoalesceTimer_only (port : Side) (n : Fin 8) (s : State) : OnlyO 49152 s (execCqCoalesceTimer port n s) := by
  unfold execCqCoalesceTimer
  refine OnlyO.next ?_
  repeat' (first
      | (with_reducible exact Only.refl _ _) | (with_reducible assumption)
      | (simp (maxDischargeDepth := 20) (contextual := true) only [Only.ite, Only.refl, Only.foldl, implies_true,
          reduceCtorEq, Nat.reduceOr, cqSignal_nx, *]; done)
      | (with_reducible refine Only.foldl _ _ ?_ (fun t x ht => ?_)) | split | (dsimp only; split)
      | (with_reducible refine cqSignal_nx ?_ rfl))
theorem sqEnable_only (port : Side) (n : Fin 8) (resume : Bool) (s : State) : Only 311296 s (sqEnable port n resume s) := by
  unfold sqEnable
  repeat' (first
      | (with_reducible exact Only.refl _ _) | (with_reducible assumption)
      | (simp (maxDischargeDepth := 20) (contextual := true) only [Only.ite, Only.refl, Only.foldl, implies_true,
          reduceCtorEq, Nat.reduceOr, countRefused_nx, journalWrite_nx, modSq_nx, *]; done)
      | (with_reducible refine Only.foldl _ _ ?_ (fun t x ht => ?_)) | split | (dsimp only; split)
      | (with_reducible refine countRefused_nx ?_ rfl) | (with_reducible refine journalWrite_nx ?_ rfl)
      | (with_reducible refine modSq_nx ?_ rfl))
theorem sqEnable_nx {M : Nat} {s tS : State} {port : Side} {n : Fin 8} {resume : Bool} (hOnly : Only M s tS) (hSub :
    M ||| 311296 = M) : Only M s (sqEnable port n resume tS) :=
  hOnly.step (sqEnable_only ..) hSub
theorem sqDisable_only (port : Side) (n : Fin 8) (s : State) : Only 32768 s (sqDisable port n s) := by
  unfold sqDisable
  repeat' (first
      | (with_reducible exact Only.refl _ _) | (with_reducible assumption)
      | (simp (maxDischargeDepth := 20) (contextual := true) only [Only.ite, Only.refl, Only.foldl, implies_true,
          reduceCtorEq, Nat.reduceOr, modSq_nx, *]; done)
      | (with_reducible refine Only.foldl _ _ ?_ (fun t x ht => ?_)) | split | (dsimp only; split)
      | (with_reducible refine modSq_nx ?_ rfl))
theorem sqDisable_nx {M : Nat} {s tS : State} {port : Side} {n : Fin 8} (hOnly : Only M s tS) (hSub : M ||| 32768 = M) :
    Only M s (sqDisable port n tS) :=
  hOnly.step (sqDisable_only ..) hSub
theorem sqErrClear_only (port : Side) (n : Fin 8) (s : State) : Only 32768 s (sqErrClear port n s) := by
  unfold sqErrClear
  repeat' (first
      | (with_reducible exact Only.refl _ _) | (with_reducible assumption)
      | (simp (maxDischargeDepth := 20) (contextual := true) only [Only.ite, Only.refl, Only.foldl, implies_true,
          reduceCtorEq, Nat.reduceOr, modSq_nx, *]; done)
      | (with_reducible refine Only.foldl _ _ ?_ (fun t x ht => ?_)) | split | (dsimp only; split)
      | (with_reducible refine modSq_nx ?_ rfl))
theorem sqErrClear_nx {M : Nat} {s tS : State} {port : Side} {n : Fin 8} (hOnly : Only M s tS) (hSub : M ||| 32768 = M) :
    Only M s (sqErrClear port n tS) :=
  hOnly.step (sqErrClear_only ..) hSub
theorem cqEnable_only (port : Side) (n : Fin 8) (resume : Bool) (s : State) : Only 32768 s (cqEnable port n resume s) := by
  unfold cqEnable
  repeat' (first
      | (with_reducible exact Only.refl _ _) | (with_reducible assumption)
      | (simp (maxDischargeDepth := 20) (contextual := true) only [Only.ite, Only.refl, Only.foldl, implies_true,
          reduceCtorEq, Nat.reduceOr, modCq_nx, *]; done)
      | (with_reducible refine Only.foldl _ _ ?_ (fun t x ht => ?_)) | split | (dsimp only; split)
      | (with_reducible refine modCq_nx ?_ rfl))
theorem cqEnable_nx {M : Nat} {s tS : State} {port : Side} {n : Fin 8} {resume : Bool} (hOnly : Only M s tS) (hSub :
    M ||| 32768 = M) : Only M s (cqEnable port n resume tS) :=
  hOnly.step (cqEnable_only ..) hSub
theorem execSqEnable_only (port : Side) (n : Fin 8) (resume : Bool) (s : State) :
    OnlyO 311296 s (execSqEnable port n resume s) := by
  unfold execSqEnable
  refine OnlyO.next ?_
  repeat' (first
      | (with_reducible exact Only.refl _ _) | (with_reducible assumption)
      | (simp (maxDischargeDepth := 20) (contextual := true) only [Only.ite, Only.refl, Only.foldl, implies_true,
          reduceCtorEq, Nat.reduceOr, sqEnable_nx, toBlock_nx, *]; done)
      | (with_reducible refine Only.foldl _ _ ?_ (fun t x ht => ?_)) | split | (dsimp only; split)
      | (with_reducible refine sqEnable_nx ?_ rfl) | (with_reducible refine toBlock_nx ?_ rfl ?_))
theorem execSqDisable_only (port : Side) (n : Fin 8) (s : State) : OnlyO 49152 s (execSqDisable port n s) := by
  unfold execSqDisable
  refine OnlyO.next ?_
  repeat' (first
      | (with_reducible exact Only.refl _ _) | (with_reducible assumption)
      | (simp (maxDischargeDepth := 20) (contextual := true) only [Only.ite, Only.refl, Only.foldl, implies_true,
          reduceCtorEq, Nat.reduceOr, sqDisable_nx, toBlock_nx, *]; done)
      | (with_reducible refine Only.foldl _ _ ?_ (fun t x ht => ?_)) | split | (dsimp only; split)
      | (with_reducible refine sqDisable_nx ?_ rfl) | (with_reducible refine toBlock_nx ?_ rfl ?_))
theorem execSqErrClear_only (port : Side) (n : Fin 8) (s : State) : OnlyO 49152 s (execSqErrClear port n s) := by
  unfold execSqErrClear
  refine OnlyO.next ?_
  repeat' (first
      | (with_reducible exact Only.refl _ _) | (with_reducible assumption)
      | (simp (maxDischargeDepth := 20) (contextual := true) only [Only.ite, Only.refl, Only.foldl, implies_true,
          reduceCtorEq, Nat.reduceOr, sqErrClear_nx, toBlock_nx, *]; done)
      | (with_reducible refine Only.foldl _ _ ?_ (fun t x ht => ?_)) | split | (dsimp only; split)
      | (with_reducible refine sqErrClear_nx ?_ rfl) | (with_reducible refine toBlock_nx ?_ rfl ?_))
theorem execCqEnable_only (port : Side) (n : Fin 8) (resume : Bool) (s : State) :
    OnlyO 49152 s (execCqEnable port n resume s) := by
  unfold execCqEnable
  refine OnlyO.next ?_
  repeat' (first
      | (with_reducible exact Only.refl _ _) | (with_reducible assumption)
      | (simp (maxDischargeDepth := 20) (contextual := true) only [Only.ite, Only.refl, Only.foldl, implies_true,
          reduceCtorEq, Nat.reduceOr, cqEnable_nx, toBlock_nx, *]; done)
      | (with_reducible refine Only.foldl _ _ ?_ (fun t x ht => ?_)) | split | (dsimp only; split)
      | (with_reducible refine cqEnable_nx ?_ rfl) | (with_reducible refine toBlock_nx ?_ rfl ?_))
theorem landingDrop_only (p : Side) (page : Nat) (s : State) : Only 385040 s (landingDrop p page s) := by
  unfold landingDrop
  repeat' (first
      | (with_reducible exact Only.refl _ _) | (with_reducible assumption)
      | (simp (maxDischargeDepth := 20) (contextual := true) only [Only.ite, Only.refl, Only.foldl, implies_true,
          reduceCtorEq, Nat.reduceOr, modWq_nx, wqFault_nx, *]; done)
      | (with_reducible refine Only.foldl _ _ ?_ (fun t x ht => ?_)) | split | (dsimp only; split)
      | (with_reducible refine modWq_nx ?_ rfl) | (with_reducible refine wqFault_nx ?_ rfl))
theorem landingDrop_nx {M : Nat} {s tS : State} {p : Side} {page : Nat} (hOnly : Only M s tS) (hSub : M ||| 385040 = M) :
    Only M s (landingDrop p page tS) :=
  hOnly.step (landingDrop_only ..) hSub
theorem holdWrite_only (p : Side) (page off : Nat) (bytes : List Byte) (s : State) :
    Only 32768 s (holdWrite p page off bytes s) := by
  unfold holdWrite
  repeat' (first
      | (with_reducible exact Only.refl _ _) | (with_reducible assumption)
      | (simp (maxDischargeDepth := 20) (contextual := true) only [Only.ite, Only.refl, Only.foldl, implies_true,
          reduceCtorEq, Nat.reduceOr, modWport_nx, *]; done)
      | (with_reducible refine Only.foldl _ _ ?_ (fun t x ht => ?_)) | split | (dsimp only; split)
      | (with_reducible refine modWport_nx ?_ rfl))
theorem holdWrite_nx {M : Nat} {s tS : State} {p : Side} {page off : Nat} {bytes : List Byte} (hOnly : Only M s tS) (hSub :
    M ||| 32768 = M) : Only M s (holdWrite p page off bytes tS) :=
  hOnly.step (holdWrite_only ..) hSub
theorem judgeEntry_only (p : Side) (page : Fin 512) (lo : Nat) (bytes : List Byte) (s : State) :
    Only 516112 s (judgeEntry p page lo bytes s) := by
  unfold judgeEntry
  repeat' (first
      | (with_reducible exact Only.refl _ _) | (with_reducible assumption)
      | (simp (maxDischargeDepth := 20) (contextual := true) only [Only.ite, Only.refl, Only.foldl, implies_true,
          reduceCtorEq, Nat.reduceOr, landingDrop_nx, modWport_nx, snoop_nx, wqFault_nx, *]; done)
      | (with_reducible refine Only.foldl _ _ ?_ (fun t x ht => ?_)) | split | (dsimp only; split)
      | (with_reducible refine landingDrop_nx ?_ rfl) | (with_reducible refine modWport_nx ?_ rfl)
      | (with_reducible refine snoop_nx ?_ rfl) | (with_reducible refine wqFault_nx ?_ rfl))
theorem judgeEntry_nx {M : Nat} {s tS : State} {p : Side} {page : Fin 512} {lo : Nat} {bytes : List Byte} (hOnly :
    Only M s tS) (hSub : M ||| 516112 = M) : Only M s (judgeEntry p page lo bytes tS) :=
  hOnly.step (judgeEntry_only ..) hSub
theorem entryWrite_only (p : Side) (page : Fin 512) (lo : Nat) (bytes : List Byte) (s : State) :
    Only 516112 s (entryWrite p page lo bytes s) := by
  unfold entryWrite
  repeat' (first
      | (with_reducible exact Only.refl _ _) | (with_reducible assumption)
      | (simp (maxDischargeDepth := 20) (contextual := true) only [Only.ite, Only.refl, Only.foldl, implies_true,
          reduceCtorEq, Nat.reduceOr, holdWrite_nx, judgeEntry_nx, landingDrop_nx, modWport_nx, wqFault_nx, *]; done)
      | (with_reducible refine Only.foldl _ _ ?_ (fun t x ht => ?_)) | split | (dsimp only; split)
      | (with_reducible refine holdWrite_nx ?_ rfl) | (with_reducible refine judgeEntry_nx ?_ rfl)
      | (with_reducible refine landingDrop_nx ?_ rfl) | (with_reducible refine modWport_nx ?_ rfl)
      | (with_reducible refine wqFault_nx ?_ rfl))
theorem entryWrite_nx {M : Nat} {s tS : State} {p : Side} {page : Fin 512} {lo : Nat} {bytes : List Byte} (hOnly :
    Only M s tS) (hSub : M ||| 516112 = M) : Only M s (entryWrite p page lo bytes tS) :=
  hOnly.step (entryWrite_only ..) hSub
theorem pageWrite_only (p : Side) (page off : Nat) (bytes : List Byte) (s : State) :
    Only 385040 s (pageWrite p page off bytes s) := by
  unfold pageWrite
  repeat' (first
      | (with_reducible exact Only.refl _ _) | (with_reducible assumption)
      | (simp (maxDischargeDepth := 20) (contextual := true) only [Only.ite, Only.refl, Only.foldl, implies_true,
          reduceCtorEq, Nat.reduceOr, holdWrite_nx, landingDrop_nx, modWport_nx, *]; done)
      | (with_reducible refine Only.foldl _ _ ?_ (fun t x ht => ?_)) | split | (dsimp only; split)
      | (with_reducible refine holdWrite_nx ?_ rfl) | (with_reducible refine landingDrop_nx ?_ rfl)
      | (with_reducible refine modWport_nx ?_ rfl))
theorem pageWrite_nx {M : Nat} {s tS : State} {p : Side} {page off : Nat} {bytes : List Byte} (hOnly : Only M s tS) (hSub :
    M ||| 385040 = M) : Only M s (pageWrite p page off bytes tS) :=
  hOnly.step (pageWrite_only ..) hSub
theorem windowWrite_only (p : Side) (n : Nat) (off : Nat) (bs : List Byte) (s : State) :
    Only 516112 s (windowWrite p n off bs s) := by
  induction n generalizing off bs s with
  | zero => exact Only.refl _ _
  | succ n ih =>
    unfold windowWrite
    split
    · exact Only.refl _ _
    · dsimp only
      refine Only.step ?_ (ih _ _ _) rfl
      exact Only.ite (entryWrite_nx (Only.refl _ _) rfl) (pageWrite_nx (Only.refl _ _) rfl)
theorem windowWrite_nx {M : Nat} {s t : State} {p : Side} {n off : Nat} {bs : List Byte} (h : Only M s t) (hs :
    M ||| 516112 = M) : Only M s (windowWrite p n off bs t) :=
  h.step (windowWrite_only ..) hs

theorem hostWindowWrite_only (p : Side) (off : Nat) (bytes : List Byte) (s : State) :
    Only 516112 s (hostWindowWrite p off bytes s) := by
  unfold hostWindowWrite
  repeat' (first
      | (with_reducible exact Only.refl _ _) | (with_reducible assumption)
      | (simp (maxDischargeDepth := 20) (contextual := true) only [Only.ite, Only.refl, Only.foldl, implies_true,
          reduceCtorEq, Nat.reduceOr, windowWrite_nx, *]; done)
      | (with_reducible refine Only.foldl _ _ ?_ (fun t x ht => ?_)) | split | (dsimp only; split)
      | (with_reducible refine windowWrite_nx ?_ rfl))
theorem hostWindowWrite_nx {M : Nat} {s tS : State} {p : Side} {off : Nat} {bytes : List Byte} (hOnly : Only M s tS) (hSub :
    M ||| 516112 = M) : Only M s (hostWindowWrite p off bytes tS) :=
  hOnly.step (hostWindowWrite_only ..) hSub
theorem remFound_only (p : Side) (page : Nat) (bad : Bool) (s : State) : Only 385040 s (remFound p page bad s) := by
  unfold remFound
  repeat' (first
      | (with_reducible exact Only.refl _ _) | (with_reducible assumption)
      | (simp (maxDischargeDepth := 20) (contextual := true) only [Only.ite, Only.refl, Only.foldl, implies_true,
          reduceCtorEq, Nat.reduceOr, remUncorr_nx, *]; done)
      | (with_reducible refine Only.foldl _ _ ?_ (fun t x ht => ?_)) | split | (dsimp only; split)
      | (with_reducible refine remUncorr_nx ?_ rfl))
theorem remFound_nx {M : Nat} {s tS : State} {p : Side} {page : Nat} {bad : Bool} (hOnly : Only M s tS) (hSub :
    M ||| 385040 = M) : Only M s (remFound p page bad tS) :=
  hOnly.step (remFound_only ..) hSub
theorem execRemainderRebuild_only (port : Side) (page : Fin 512) (s : State) :
    OnlyO 163840 s (execRemainderRebuild port page s) := by
  unfold execRemainderRebuild
  refine OnlyO.next ?_
  repeat' (first
      | (with_reducible exact Only.refl _ _) | (with_reducible assumption)
      | (simp (maxDischargeDepth := 20) (contextual := true) only [Only.ite, Only.refl, Only.foldl, implies_true,
          reduceCtorEq, Nat.reduceOr, modCv_nx, modWport_nx, *]; done)
      | (with_reducible refine Only.foldl _ _ ?_ (fun t x ht => ?_)) | split | (dsimp only; split)
      | (with_reducible refine modCv_nx ?_ rfl) | (with_reducible refine modWport_nx ?_ rfl))
theorem landWrite_only (p : Side) (page off : Nat) (bytes : List Byte) (remBad : Bool) (s : State) :
    Only 516112 s (landWrite p page off bytes remBad s) := by
  unfold landWrite
  repeat' (first
      | (with_reducible exact Only.refl _ _) | (with_reducible assumption)
      | (simp (maxDischargeDepth := 20) (contextual := true) only [Only.ite, Only.refl, Only.foldl, implies_true,
          reduceCtorEq, Nat.reduceOr, hostWindowWrite_nx, modWport_nx, remFound_nx, *]; done)
      | (with_reducible refine Only.foldl _ _ ?_ (fun t x ht => ?_)) | split | (dsimp only; split)
      | (with_reducible refine hostWindowWrite_nx ?_ rfl) | (with_reducible refine modWport_nx ?_ rfl)
      | (with_reducible refine remFound_nx ?_ rfl))
theorem landWrite_nx {M : Nat} {s tS : State} {p : Side} {page off : Nat} {bytes : List Byte} {remBad : Bool} (hOnly :
    Only M s tS) (hSub : M ||| 516112 = M) : Only M s (landWrite p page off bytes remBad tS) :=
  hOnly.step (landWrite_only ..) hSub
theorem execEntryWrite_only (port : Side) (off : Nat) (bytes : List Byte) (remBad : Bool) (s : State) :
    OnlyO 516112 s (execEntryWrite port off bytes remBad s) := by
  unfold execEntryWrite
  refine OnlyO.next ?_
  repeat' (first
      | (with_reducible exact Only.refl _ _) | (with_reducible assumption)
      | (simp (maxDischargeDepth := 20) (contextual := true) only [Only.ite, Only.refl, Only.foldl, implies_true,
          reduceCtorEq, Nat.reduceOr, fromPort_nx, landWrite_nx, *]; done)
      | (with_reducible refine Only.foldl _ _ ?_ (fun t x ht => ?_)) | split | (dsimp only; split)
      | (with_reducible refine fromPort_nx ?_ ?_) | (with_reducible refine landWrite_nx ?_ rfl))
theorem execFlipVerdict_only (port : Side) (s : State) : OnlyO 516112 s (execFlipVerdict port s) := by
  unfold execFlipVerdict
  refine OnlyO.next ?_
  repeat' (first
      | (with_reducible exact Only.refl _ _) | (with_reducible assumption)
      | (simp (maxDischargeDepth := 20) (contextual := true) only [Only.ite, Only.refl, Only.foldl, implies_true,
          reduceCtorEq, Nat.reduceOr, hostWindowWrite_nx, modWport_nx, *]; done)
      | (with_reducible refine Only.foldl _ _ ?_ (fun t x ht => ?_)) | split | (dsimp only; split)
      | (with_reducible refine hostWindowWrite_nx ?_ rfl) | (with_reducible refine modWport_nx ?_ rfl))
theorem execLandingWrite_only (port : Side) (off : Nat) (bytes : List Byte) (poisoned : Bool) (remBad : Bool) (s : State) :
    OnlyO 516112 s (execLandingWrite port off bytes poisoned remBad s) := by
  unfold execLandingWrite
  refine OnlyO.next ?_
  repeat' (first
      | (with_reducible exact Only.refl _ _) | (with_reducible assumption)
      | (simp (maxDischargeDepth := 20) (contextual := true) only [Only.ite, Only.refl, Only.foldl, implies_true,
          reduceCtorEq, Nat.reduceOr, fromPort_nx, landWrite_nx, recordPoisoned_nx, *]; done)
      | (with_reducible refine Only.foldl _ _ ?_ (fun t x ht => ?_)) | split | (dsimp only; split)
      | (with_reducible refine fromPort_nx ?_ ?_) | (with_reducible refine landWrite_nx ?_ rfl)
      | (with_reducible refine recordPoisoned_nx ?_ rfl))
end Sys2Proof.Machine
end

