-- ==== Sys2Proof/Laws/FrameTally.lean ====
section
/-!
SUPPORT. Sys2Proof/Laws/FrameTally.lean: the frames of the operations and commands of Machine/Tally.lean: `op_only` names all that an
operation can change; `op_nx` is the same at the end of a chain of operations.
-/
set_option linter.unusedSimpArgs false
set_option linter.unusedVariables false
namespace Sys2Proof.Machine
theorem assembleTally_only (scan : Nat) (temps : List (BitVec 16)) (s : State) :
    Only 262144 s (assembleTally scan temps s) := by
  unfold assembleTally
  repeat' (first
      | (with_reducible exact Only.refl _ _) | (with_reducible assumption)
      | (simp (maxDischargeDepth := 20) (contextual := true) only [Only.ite, Only.refl, Only.foldl, implies_true,
          reduceCtorEq, Nat.reduceOr, modMs_nx, *]; done)
      | (with_reducible refine Only.foldl _ _ ?_ (fun t x ht => ?_)) | split | (dsimp only; split)
      | (with_reducible refine modMs_nx ?_ rfl))
theorem assembleTally_nx {M : Nat} {s tS : State} {scan : Nat} {temps : List (BitVec 16)} (hOnly : Only M s tS) (hSub :
    M ||| 262144 = M) : Only M s (assembleTally scan temps tS) :=
  hOnly.step (assembleTally_only ..) hSub
theorem execTallyPublish_only (s : State) : OnlyO 262144 s (execTallyPublish s) := by
  unfold execTallyPublish
  refine OnlyO.next ?_
  repeat' (first
      | (with_reducible exact Only.refl _ _) | (with_reducible assumption)
      | (simp (maxDischargeDepth := 20) (contextual := true) only [Only.ite, Only.refl, Only.foldl, implies_true,
          reduceCtorEq, Nat.reduceOr, modMs_nx, modStores_nx, *]; done)
      | (with_reducible refine Only.foldl _ _ ?_ (fun t x ht => ?_)) | split | (dsimp only; split)
      | (with_reducible refine modMs_nx ?_ rfl) | (with_reducible refine modStores_nx ?_ rfl))
end Sys2Proof.Machine
end

