-- ==== Sys2Proof/Laws/FrameFabric.lean ====
section
/-!
SUPPORT. Sys2Proof/Laws/FrameFabric.lean: the frames of the operations and commands of Machine/Fabric.lean: `op_only` names all that an
operation can change; `op_nx` is the same at the end of a chain of operations.
-/
set_option linter.unusedSimpArgs false
set_option linter.unusedVariables false
namespace Sys2Proof.Machine
theorem evFatal_only (cause init addr acc : Nat) (s : State) : Only 1044478 s (evFatal cause init addr acc s) := by
  unfold evFatal
  repeat' (first
      | (with_reducible exact Only.refl _ _) | (with_reducible assumption)
      | (simp (maxDischargeDepth := 20) (contextual := true) only [Only.ite, Only.refl, Only.foldl, implies_true,
          reduceCtorEq, Nat.reduceOr, recordFault_nx, *]; done)
      | (with_reducible refine Only.foldl _ _ ?_ (fun t x ht => ?_)) | split | (dsimp only; split)
      | (with_reducible refine recordFault_nx ?_ rfl))
theorem evFatal_nx {M : Nat} {s tS : State} {cause init addr acc : Nat} (hOnly : Only M s tS) (hSub : M ||| 1044478 = M) :
    Only M s (evFatal cause init addr acc tS) :=
  hOnly.step (evFatal_only ..) hSub
theorem applyDebugWrites_only (s : State) : Only 768 s (applyDebugWrites s) := by
  unfold applyDebugWrites
  repeat' (first
      | (with_reducible exact Only.refl _ _) | (with_reducible assumption)
      | (simp (maxDischargeDepth := 20) (contextual := true) only [Only.ite, Only.refl, Only.foldl, implies_true,
          reduceCtorEq, Nat.reduceOr, modCore_nx, modDbg_nx, *]; done)
      | (with_reducible refine Only.foldl _ _ ?_ (fun t x ht => ?_)) | split | (dsimp only; split)
      | (with_reducible refine modCore_nx ?_ rfl) | (with_reducible refine modDbg_nx ?_ rfl))
theorem applyDebugWrites_nx {M : Nat} {s tS : State}  (hOnly : Only M s tS) (hSub : M ||| 768 = M) :
    Only M s (applyDebugWrites tS) :=
  hOnly.step (applyDebugWrites_only ..) hSub
theorem haltA_only (s : State) : Only 141056 s (haltA s) := by
  unfold haltA
  repeat' (first
      | (with_reducible exact Only.refl _ _) | (with_reducible assumption)
      | (simp (maxDischargeDepth := 20) (contextual := true) only [Only.ite, Only.refl, Only.foldl, implies_true,
          reduceCtorEq, Nat.reduceOr, inhibitSide_nx, marchYield_nx, modCore_nx, modDbg_nx, modEv_nx, *]; done)
      | (with_reducible refine Only.foldl _ _ ?_ (fun t x ht => ?_)) | split | (dsimp only; split)
      | (with_reducible refine inhibitSide_nx ?_ rfl) | (with_reducible refine marchYield_nx ?_ rfl)
      | (with_reducible refine modCore_nx ?_ rfl) | (with_reducible refine modDbg_nx ?_ rfl)
      | (with_reducible refine modEv_nx ?_ rfl))
theorem haltA_nx {M : Nat} {s tS : State}  (hOnly : Only M s tS) (hSub : M ||| 141056 = M) : Only M s (haltA tS) :=
  hOnly.step (haltA_only ..) hSub
theorem haltB_only (s : State) : Only 1044470 s (haltB s) := by
  unfold haltB
  repeat' (first
      | (with_reducible exact Only.refl _ _) | (with_reducible assumption)
      | (simp (maxDischargeDepth := 20) (contextual := true) only [Only.ite, Only.refl, Only.foldl, implies_true,
          reduceCtorEq, Nat.reduceOr, applyDebugWrites_nx, inhibitSide_nx, modCore_nx, modDbg_nx, setDev_nx, *]; done)
      | (with_reducible refine Only.foldl _ _ ?_ (fun t x ht => ?_)) | split | (dsimp only; split)
      | (with_reducible refine applyDebugWrites_nx ?_ rfl) | (with_reducible refine inhibitSide_nx ?_ rfl)
      | (with_reducible refine modCore_nx ?_ rfl) | (with_reducible refine modDbg_nx ?_ rfl)
      | (with_reducible refine setDev_nx ?_ rfl))
theorem haltB_nx {M : Nat} {s tS : State}  (hOnly : Only M s tS) (hSub : M ||| 1044470 = M) : Only M s (haltB tS) :=
  hOnly.step (haltB_only ..) hSub
theorem tryA_only (s : State) : Only 141056 s (tryA s) := by
  unfold tryA
  repeat' (first
      | (with_reducible exact Only.refl _ _) | (with_reducible assumption)
      | (simp (maxDischargeDepth := 20) (contextual := true) only [Only.ite, Only.refl, Only.foldl, implies_true,
          reduceCtorEq, Nat.reduceOr, haltA_nx, modCore_nx, modDbg_nx, modEv_nx, *]; done)
      | (with_reducible refine Only.foldl _ _ ?_ (fun t x ht => ?_)) | split | (dsimp only; split)
      | (with_reducible refine haltA_nx ?_ rfl) | (with_reducible refine modCore_nx ?_ rfl)
      | (with_reducible refine modDbg_nx ?_ rfl) | (with_reducible refine modEv_nx ?_ rfl))
theorem tryA_nx {M : Nat} {s tS : State}  (hOnly : Only M s tS) (hSub : M ||| 141056 = M) : Only M s (tryA tS) :=
  hOnly.step (tryA_only ..) hSub
theorem launch_only (c : Side) (s : State) : Only 1048574 s (launch c s) := by
  unfold launch
  repeat' (first
      | (with_reducible exact Only.refl _ _) | (with_reducible assumption)
      | (simp (maxDischargeDepth := 20) (contextual := true) only [Only.ite, Only.refl, Only.foldl, implies_true,
          reduceCtorEq, Nat.reduceOr, ackJudge_nx, evFatal_nx, modCore_nx, *]; done)
      | (with_reducible refine Only.foldl _ _ ?_ (fun t x ht => ?_)) | split | (dsimp only; split)
      | (with_reducible refine ackJudge_nx ?_ rfl) | (with_reducible refine evFatal_nx ?_ rfl)
      | (with_reducible refine modCore_nx ?_ rfl))
theorem launch_nx {M : Nat} {s tS : State} {c : Side} (hOnly : Only M s tS) (hSub : M ||| 1048574 = M) :
    Only M s (launch c tS) :=
  hOnly.step (launch_only ..) hSub
theorem tryB_only (s : State) : Only 1048574 s (tryB s) := by
  unfold tryB
  repeat' (first
      | (with_reducible exact Only.refl _ _) | (with_reducible assumption)
      | (simp (maxDischargeDepth := 20) (contextual := true) only [Only.ite, Only.refl, Only.foldl, implies_true,
          reduceCtorEq, Nat.reduceOr, applyDebugWrites_nx, haltA_nx, haltB_nx, launch_nx, modCore_nx, *]; done)
      | (with_reducible refine Only.foldl _ _ ?_ (fun t x ht => ?_)) | split | (dsimp only; split)
      | (with_reducible refine applyDebugWrites_nx ?_ rfl) | (with_reducible refine haltA_nx ?_ rfl)
      | (with_reducible refine haltB_nx ?_ rfl) | (with_reducible refine launch_nx ?_ rfl)
      | (with_reducible refine modCore_nx ?_ rfl))
theorem tryB_nx {M : Nat} {s tS : State}  (hOnly : Only M s tS) (hSub : M ||| 1048574 = M) : Only M s (tryB tS) :=
  hOnly.step (tryB_only ..) hSub
theorem tryCore_only (c : Side) (s : State) : Only 1048574 s (tryCore c s) := by
  unfold tryCore
  repeat' (first
      | (with_reducible exact Only.refl _ _) | (with_reducible assumption)
      | (simp (maxDischargeDepth := 20) (contextual := true) only [Only.ite, Only.refl, Only.foldl, implies_true,
          reduceCtorEq, Nat.reduceOr, tryA_nx, tryB_nx, *]; done)
      | (with_reducible refine Only.foldl _ _ ?_ (fun t x ht => ?_)) | split | (dsimp only; split)
      | (with_reducible refine tryA_nx ?_ rfl) | (with_reducible refine tryB_nx ?_ rfl))
theorem tryCore_nx {M : Nat} {s tS : State} {c : Side} (hOnly : Only M s tS) (hSub : M ||| 1048574 = M) :
    Only M s (tryCore c tS) :=
  hOnly.step (tryCore_only ..) hSub
theorem execScanLaunch_only (core : Side) (s : State) : OnlyO 1048574 s (execScanLaunch core s) := by
  unfold execScanLaunch
  refine OnlyO.next ?_
  repeat' (first
      | (with_reducible exact Only.refl _ _) | (with_reducible assumption)
      | (simp (maxDischargeDepth := 20) (contextual := true) only [Only.ite, Only.refl, Only.foldl, implies_true,
          reduceCtorEq, Nat.reduceOr, launch_nx, modEv_nx, tryB_nx, tryCore_nx, *]; done)
      | (with_reducible refine Only.foldl _ _ ?_ (fun t x ht => ?_)) | split | (dsimp only; split)
      | (with_reducible refine launch_nx ?_ rfl) | (with_reducible refine modEv_nx ?_ rfl)
      | (with_reducible refine tryB_nx ?_ rfl) | (with_reducible refine tryCore_nx ?_ rfl))
theorem afterRankA_only (t : Table) (k : Nat) (s : State) : Only 1048574 s (afterRankA t k s) := by
  unfold afterRankA
  repeat' (first
      | (with_reducible exact Only.refl _ _) | (with_reducible assumption)
      | (simp (maxDischargeDepth := 20) (contextual := true) only [Only.ite, Only.refl, Only.foldl, implies_true,
          reduceCtorEq, Nat.reduceOr, haltA_nx, modCore_nx, modDbg_nx, tryB_nx, tryCore_nx, *]; done)
      | (with_reducible refine Only.foldl _ _ ?_ (fun t x ht => ?_)) | split | (dsimp only; split)
      | (with_reducible refine haltA_nx ?_ rfl) | (with_reducible refine modCore_nx ?_ rfl)
      | (with_reducible refine modDbg_nx ?_ rfl) | (with_reducible refine tryB_nx ?_ rfl)
      | (with_reducible refine tryCore_nx ?_ rfl))
theorem afterRankA_nx {M : Nat} {s tS : State} {t : Table} {k : Nat} (hOnly : Only M s tS) (hSub : M ||| 1048574 = M) :
    Only M s (afterRankA t k tS) :=
  hOnly.step (afterRankA_only ..) hSub
theorem afterRankB_only (t : Table) (k : Nat) (s : State) : Only 1048574 s (afterRankB t k s) := by
  unfold afterRankB
  repeat' (first
      | (with_reducible exact Only.refl _ _) | (with_reducible assumption)
      | (simp (maxDischargeDepth := 20) (contextual := true) only [Only.ite, Only.refl, Only.foldl, implies_true,
          reduceCtorEq, Nat.reduceOr, modCore_nx, tryB_nx, *]; done)
      | (with_reducible refine Only.foldl _ _ ?_ (fun t x ht => ?_)) | split | (dsimp only; split)
      | (with_reducible refine modCore_nx ?_ rfl) | (with_reducible refine tryB_nx ?_ rfl))
theorem afterRankB_nx {M : Nat} {s tS : State} {t : Table} {k : Nat} (hOnly : Only M s tS) (hSub : M ||| 1048574 = M) :
    Only M s (afterRankB t k tS) :=
  hOnly.step (afterRankB_only ..) hSub
theorem execRankComplete_only (core : Side) (errs : List MemErr) (s : State) :
    OnlyO 1048574 s (execRankComplete core errs s) := by
  unfold execRankComplete
  refine OnlyO.next ?_
  repeat' (first
      | (with_reducible exact Only.refl _ _) | (with_reducible assumption)
      | (simp (maxDischargeDepth := 20) (contextual := true) only [Only.ite, Only.refl, Only.foldl, implies_true,
          reduceCtorEq, Nat.reduceOr, afterRankA_nx, afterRankB_nx, evFatal_nx, modCore_nx, recordCorrected_nx, *]; done)
      | (with_reducible refine Only.foldl _ _ ?_ (fun t x ht => ?_)) | split | (dsimp only; split)
      | (with_reducible refine afterRankA_nx ?_ rfl) | (with_reducible refine afterRankB_nx ?_ rfl)
      | (with_reducible refine evFatal_nx ?_ rfl) | (with_reducible refine modCore_nx ?_ rfl)
      | (with_reducible refine recordCorrected_nx ?_ rfl))
theorem execRankToken_only (close ok : Bool) (s : State) : OnlyO 1048574 s (execRankToken close ok s) := by
  unfold execRankToken
  refine OnlyO.next ?_
  repeat' (first
      | (with_reducible exact Only.refl _ _) | (with_reducible assumption)
      | (simp (maxDischargeDepth := 20) (contextual := true) only [Only.ite, Only.refl, Only.foldl, implies_true,
          reduceCtorEq, Nat.reduceOr, evFatal_nx, modEv_nx, tryB_nx, *]; done)
      | (with_reducible refine Only.foldl _ _ ?_ (fun t x ht => ?_)) | split | (dsimp only; split)
      | (with_reducible refine evFatal_nx ?_ rfl) | (with_reducible refine modEv_nx ?_ rfl)
      | (with_reducible refine tryB_nx ?_ rfl))
theorem execCompletionToken_only (ok : Bool) (s : State) : OnlyO 1048574 s (execCompletionToken ok s) := by
  unfold execCompletionToken
  refine OnlyO.next ?_
  repeat' (first
      | (with_reducible exact Only.refl _ _) | (with_reducible assumption)
      | (simp (maxDischargeDepth := 20) (contextual := true) only [Only.ite, Only.refl, Only.foldl, implies_true,
          reduceCtorEq, Nat.reduceOr, evFatal_nx, modEv_nx, tryCore_nx, *]; done)
      | (with_reducible refine Only.foldl _ _ ?_ (fun t x ht => ?_)) | split | (dsimp only; split)
      | (with_reducible refine evFatal_nx ?_ rfl) | (with_reducible refine modEv_nx ?_ rfl)
      | (with_reducible refine tryCore_nx ?_ rfl))
theorem execLagOverrun_only (s : State) : OnlyO 1044478 s (execLagOverrun s) := by
  unfold execLagOverrun
  refine OnlyO.next ?_
  repeat' (first
      | (with_reducible exact Only.refl _ _) | (with_reducible assumption)
      | (simp (maxDischargeDepth := 20) (contextual := true) only [Only.ite, Only.refl, Only.foldl, implies_true,
          reduceCtorEq, Nat.reduceOr, evFatal_nx, *]; done)
      | (with_reducible refine Only.foldl _ _ ?_ (fun t x ht => ?_)) | split | (dsimp only; split)
      | (with_reducible refine evFatal_nx ?_ rfl))
theorem execScanOver_only (core : Side) (s : State) : OnlyO 1044478 s (execScanOver core s) := by
  unfold execScanOver
  refine OnlyO.next ?_
  repeat' (first
      | (with_reducible exact Only.refl _ _) | (with_reducible assumption)
      | (simp (maxDischargeDepth := 20) (contextual := true) only [Only.ite, Only.refl, Only.foldl, implies_true,
          reduceCtorEq, Nat.reduceOr, evFatal_nx, modCore_nx, *]; done)
      | (with_reducible refine Only.foldl _ _ ?_ (fun t x ht => ?_)) | split | (dsimp only; split)
      | (with_reducible refine evFatal_nx ?_ rfl) | (with_reducible refine modCore_nx ?_ rfl))
theorem cellCmdFault_only (init cell : Nat) (s : State) : Only 1044478 s (cellCmdFault init cell s) := by
  unfold cellCmdFault
  repeat' (first
      | (with_reducible exact Only.refl _ _) | (with_reducible assumption)
      | (simp (maxDischargeDepth := 20) (contextual := true) only [Only.ite, Only.refl, Only.foldl, implies_true,
          reduceCtorEq, Nat.reduceOr, recordFault_nx, *]; done)
      | (with_reducible refine Only.foldl _ _ ?_ (fun t x ht => ?_)) | split | (dsimp only; split)
      | (with_reducible refine recordFault_nx ?_ rfl))
theorem cellCmdFault_nx {M : Nat} {s tS : State} {init cell : Nat} (hOnly : Only M s tS) (hSub : M ||| 1044478 = M) :
    Only M s (cellCmdFault init cell tS) :=
  hOnly.step (cellCmdFault_only ..) hSub
theorem postCells_only (c : Side) (s : State) : Only 128 s (postCells c s) := by
  unfold postCells
  repeat' (first
      | (with_reducible exact Only.refl _ _) | (with_reducible assumption)
      | (simp (maxDischargeDepth := 20) (contextual := true) only [Only.ite, Only.refl, Only.foldl, implies_true,
          reduceCtorEq, Nat.reduceOr, modTb_nx, *]; done)
      | (with_reducible refine Only.foldl _ _ ?_ (fun t x ht => ?_)) | split | (dsimp only; split)
      | (with_reducible refine modTb_nx ?_ rfl))
theorem postCells_nx {M : Nat} {s tS : State} {c : Side} (hOnly : Only M s tS) (hSub : M ||| 128 = M) :
    Only M s (postCells c tS) :=
  hOnly.step (postCells_only ..) hSub
theorem comparePosts_only (n : Nat) (cmds : List (Nat × Nat)) (s : State) : Only 128 s (comparePosts n cmds s).1 := by
  unfold comparePosts
  repeat' (first
      | (with_reducible exact Only.refl _ _) | (with_reducible refine modTb_nx ?_ rfl) | split | (dsimp only; split))
theorem takePosts_only (c : Side) (s : State) : Only 1044478 s (takePosts c s) := by
  unfold takePosts
  split
  · exact Only.refl _ _
  · dsimp only
    refine Only.ite ?_ ?_
    · exact Only.foldl (m := 1044478) _ _ (modTb_nx (Only.refl _ _) rfl) (fun t x ht => cellCmdFault_nx ht rfl)
    · refine Only.foldl (m := 1044478) _ _ ?_ (fun t x ht => cellCmdFault_nx ht rfl)
      refine Only.step (M := 1044478) ?_ (comparePosts_only ..) rfl
      exact Only.foldl (m := 1044478) _ _ (modTb_nx (Only.refl _ _) rfl) (fun t x ht => cellCmdFault_nx ht rfl)
theorem takePosts_nx {M : Nat} {s t : State} {c : Side} (h : Only M s t) (hs : M ||| 1044478 = M) :
    Only M s (takePosts c t) :=
  h.step (takePosts_only ..) hs

theorem execCellExpiry_only (die : Side) (cell : Fin 256) (s : State) : OnlyO 128 s (execCellExpiry die cell s) := by
  unfold execCellExpiry
  refine OnlyO.next ?_
  repeat' (first
      | (with_reducible exact Only.refl _ _) | (with_reducible assumption)
      | (simp (maxDischargeDepth := 20) (contextual := true) only [Only.ite, Only.refl, Only.foldl, implies_true,
          reduceCtorEq, Nat.reduceOr, modTb_nx, *]; done)
      | (with_reducible refine Only.foldl _ _ ?_ (fun t x ht => ?_)) | split | (dsimp only; split)
      | (with_reducible refine modTb_nx ?_ rfl))
theorem closeSig_only (c : Side) (t : Table) (s : State) : Only 544 s (closeSig c t s) := by
  unfold closeSig
  repeat' (first
      | (with_reducible exact Only.refl _ _) | (with_reducible assumption)
      | (simp (maxDischargeDepth := 20) (contextual := true) only [Only.ite, Only.refl, Only.foldl, implies_true,
          reduceCtorEq, Nat.reduceOr, modCore_nx, sendKerf_nx, *]; done)
      | (with_reducible refine Only.foldl _ _ ?_ (fun t x ht => ?_)) | split | (dsimp only; split)
      | (with_reducible refine modCore_nx ?_ rfl) | (with_reducible refine sendKerf_nx ?_ rfl))
theorem closeSig_nx {M : Nat} {s tS : State} {c : Side} {t : Table} (hOnly : Only M s tS) (hSub : M ||| 544 = M) :
    Only M s (closeSig c t tS) :=
  hOnly.step (closeSig_only ..) hSub
theorem closePeriod_only (c : Side) (t : Table) (s : State) : Only 512 s (closePeriod c t s).1 := by
  unfold closePeriod
  repeat' (first
      | (with_reducible exact Only.refl _ _) | (with_reducible assumption)
      | (simp (maxDischargeDepth := 20) (contextual := true) only [Only.ite, Only.refl, Only.foldl, implies_true,
          reduceCtorEq, Nat.reduceOr, modCore_nx, *]; done)
      | (with_reducible refine Only.foldl _ _ ?_ (fun t x ht => ?_)) | split | (dsimp only; split)
      | (with_reducible refine modCore_nx ?_ rfl))
theorem closePeriod_nx {M : Nat} {s tS : State} {c : Side} {t : Table} (hOnly : Only M s tS) (hSub : M ||| 512 = M) :
    Only M s (closePeriod c t tS).1 :=
  hOnly.step (closePeriod_only ..) hSub
theorem closeMirror_only (s : State) : Only 544 s (closeMirror s) := by
  unfold closeMirror
  repeat' (first
      | (with_reducible exact Only.refl _ _) | (with_reducible assumption)
      | (simp (maxDischargeDepth := 20) (contextual := true) only [Only.ite, Only.refl, Only.foldl, implies_true,
          reduceCtorEq, Nat.reduceOr, modEv_nx, modSc_nx, *]; done)
      | (with_reducible refine Only.foldl _ _ ?_ (fun t x ht => ?_)) | split | (dsimp only; split)
      | (with_reducible refine modEv_nx ?_ rfl) | (with_reducible refine modSc_nx ?_ rfl))
theorem closeMirror_nx {M : Nat} {s tS : State}  (hOnly : Only M s tS) (hSub : M ||| 544 = M) : Only M s (closeMirror tS) :=
  hOnly.step (closeMirror_only ..) hSub
theorem closeSnapshots_only (s : State) : Only 32768 s (closeSnapshots s) := by
  unfold closeSnapshots
  repeat' (first
      | (with_reducible exact Only.refl _ _) | (with_reducible assumption)
      | (simp (maxDischargeDepth := 20) (contextual := true) only [Only.ite, Only.refl, Only.foldl, implies_true,
          reduceCtorEq, Nat.reduceOr, endItem_nx, hostWrite_nx, *]; done)
      | (with_reducible refine Only.foldl _ _ ?_ (fun t x ht => ?_)) | split | (dsimp only; split)
      | (with_reducible refine endItem_nx ?_ rfl) | (with_reducible refine hostWrite_nx ?_ rfl))
theorem closeSnapshots_nx {M : Nat} {s tS : State}  (hOnly : Only M s tS) (hSub : M ||| 32768 = M) :
    Only M s (closeSnapshots tS) :=
  hOnly.step (closeSnapshots_only ..) hSub
theorem finishStart_only (s : State) : Only 1044470 s (finishStart s) := by
  unfold finishStart
  repeat' (first
      | (with_reducible exact Only.refl _ _) | (with_reducible assumption)
      | (simp (maxDischargeDepth := 20) (contextual := true) only [Only.ite, Only.refl, Only.foldl, implies_true,
          reduceCtorEq, Nat.reduceOr, modBackup_nx, modPcr_nx, modTb_nx, plRelease_nx, setDev_nx, *]; done)
      | (with_reducible refine Only.foldl _ _ ?_ (fun t x ht => ?_)) | split | (dsimp only; split)
      | (with_reducible refine modBackup_nx ?_ rfl) | (with_reducible refine modPcr_nx ?_ rfl)
      | (with_reducible refine modTb_nx ?_ rfl) | (with_reducible refine plRelease_nx ?_ rfl)
      | (with_reducible refine setDev_nx ?_ rfl))
theorem finishStart_nx {M : Nat} {s tS : State}  (hOnly : Only M s tS) (hSub : M ||| 1044470 = M) :
    Only M s (finishStart tS) :=
  hOnly.step (finishStart_only ..) hSub
theorem execScanClose_only (core : Side) (s : State) : OnlyO 1048574 s (execScanClose core s) := by
  unfold execScanClose
  refine OnlyO.next ?_
  repeat' (first
      | (with_reducible exact Only.refl _ _) | (with_reducible assumption)
      | (simp (maxDischargeDepth := 20) (contextual := true) only [Only.ite, Only.refl, Only.foldl, implies_true,
          reduceCtorEq, Nat.reduceOr, bowClose_nx, closeMirror_nx, closePeriod_nx, closeSig_nx, closeSnapshots_nx,
          evFatal_nx, finishStart_nx, launch_nx, modCore_nx, modEv_nx, postCells_nx, postPayload_nx, tbEvent_nx, tryCore_nx, *]; done)
      | (with_reducible refine Only.foldl _ _ ?_ (fun t x ht => ?_)) | split | (dsimp only; split)
      | (with_reducible refine bowClose_nx ?_ rfl) | (with_reducible refine closeMirror_nx ?_ rfl)
      | (with_reducible refine closePeriod_nx ?_ rfl) | (with_reducible refine closeSig_nx ?_ rfl)
      | (with_reducible refine closeSnapshots_nx ?_ rfl) | (with_reducible refine evFatal_nx ?_ rfl)
      | (with_reducible refine finishStart_nx ?_ rfl) | (with_reducible refine launch_nx ?_ rfl)
      | (with_reducible refine modCore_nx ?_ rfl) | (with_reducible refine modEv_nx ?_ rfl)
      | (with_reducible refine postCells_nx ?_ rfl) | (with_reducible refine postPayload_nx ?_ rfl)
      | (with_reducible refine tbEvent_nx ?_ rfl) | (with_reducible refine tryCore_nx ?_ rfl))
theorem beginConfigured_only (s : State) : Only 7680 s (beginConfigured s) := by
  unfold beginConfigured
  repeat' (first
      | (with_reducible exact Only.refl _ _) | (with_reducible assumption)
      | (simp (maxDischargeDepth := 20) (contextual := true) only [Only.ite, Only.refl, Only.foldl, implies_true,
          reduceCtorEq, Nat.reduceOr, configureAxes_nx, modEv_nx, modInput_nx, modPs_nx, modSource_nx, *]; done)
      | (with_reducible refine Only.foldl _ _ ?_ (fun t x ht => ?_)) | split | (dsimp only; split)
      | (with_reducible refine configureAxes_nx ?_ rfl) | (with_reducible refine modEv_nx ?_ rfl)
      | (with_reducible refine modInput_nx ?_ rfl) | (with_reducible refine modPs_nx ?_ rfl)
      | (with_reducible refine modSource_nx ?_ rfl))
theorem beginConfigured_nx {M : Nat} {s tS : State}  (hOnly : Only M s tS) (hSub : M ||| 7680 = M) :
    Only M s (beginConfigured tS) :=
  hOnly.step (beginConfigured_only ..) hSub
theorem judgeTransfers_only (fail : BitVec 4) (s : State) : Only 385560 s (judgeTransfers fail s) := by
  unfold judgeTransfers
  repeat' (first
      | (with_reducible exact Only.refl _ _) | (with_reducible assumption)
      | (simp (maxDischargeDepth := 20) (contextual := true) only [Only.ite, Only.refl, Only.foldl, implies_true,
          reduceCtorEq, Nat.reduceOr, causeAbsent_nx, modEv_nx, recordFault_cont_nx, *]; done)
      | (with_reducible refine Only.foldl _ _ ?_ (fun t x ht => ?_)) | split | (dsimp only; split)
      | (with_reducible refine causeAbsent_nx ?_ rfl) | (with_reducible refine modEv_nx ?_ rfl)
      | (with_reducible refine recordFault_cont_nx ?_ rfl))
theorem judgeTransfers_nx {M : Nat} {s tS : State} {fail : BitVec 4} (hOnly : Only M s tS) (hSub : M ||| 385560 = M) :
    Only M s (judgeTransfers fail tS) :=
  hOnly.step (judgeTransfers_only ..) hSub
theorem sealIn_only (c : Side) (n : Nat) (ws : List Word × List Word) (hits : List (Nat × Word)) (cv : Word) (s : State) :
    Only 512 s (sealIn c n ws hits cv s) := by
  unfold sealIn
  repeat' (first
      | (with_reducible exact Only.refl _ _) | (with_reducible assumption)
      | (simp (maxDischargeDepth := 20) (contextual := true) only [Only.ite, Only.refl, Only.foldl, implies_true,
          reduceCtorEq, Nat.reduceOr, modCore_nx, *]; done)
      | (with_reducible refine Only.foldl _ _ ?_ (fun t x ht => ?_)) | split | (dsimp only; split)
      | (with_reducible refine modCore_nx ?_ rfl))
theorem sealIn_nx {M : Nat} {s tS : State} {c : Side} {n : Nat} {ws : List Word × List Word} {hits : List (Nat × Word)}
    {cv : Word} (hOnly : Only M s tS) (hSub : M ||| 512 = M) : Only M s (sealIn c n ws hits cv tS) :=
  hOnly.step (sealIn_only ..) hSub
theorem checkFlags_only (s : State) : Only 1044478 s (checkFlags s) := by
  unfold checkFlags
  repeat' (first
      | (with_reducible exact Only.refl _ _) | (with_reducible assumption)
      | (simp (maxDischargeDepth := 20) (contextual := true) only [Only.ite, Only.refl, Only.foldl, implies_true,
          reduceCtorEq, Nat.reduceOr, modTb_nx, recordFault_nx, *]; done)
      | (with_reducible refine Only.foldl _ _ ?_ (fun t x ht => ?_)) | split | (dsimp only; split)
      | (with_reducible refine modTb_nx ?_ rfl) | (with_reducible refine recordFault_nx ?_ rfl))
theorem checkFlags_nx {M : Nat} {s tS : State}  (hOnly : Only M s tS) (hSub : M ||| 1044478 = M) :
    Only M s (checkFlags tS) :=
  hOnly.step (checkFlags_only ..) hSub
theorem endRequests_only (s : State) : Only 49152 s (endRequests s) := by
  unfold endRequests
  repeat' (first
      | (with_reducible exact Only.refl _ _) | (with_reducible assumption)
      | (simp (maxDischargeDepth := 20) (contextual := true) only [Only.ite, Only.refl, Only.foldl, implies_true,
          reduceCtorEq, Nat.reduceOr, endItem_nx, modHport_nx, *]; done)
      | (with_reducible refine Only.foldl _ _ ?_ (fun t x ht => ?_)) | split | (dsimp only; split)
      | (with_reducible refine endItem_nx ?_ rfl) | (with_reducible refine modHport_nx ?_ rfl))
theorem endRequests_nx {M : Nat} {s tS : State}  (hOnly : Only M s tS) (hSub : M ||| 49152 = M) :
    Only M s (endRequests tS) :=
  hOnly.step (endRequests_only ..) hSub
theorem execSampleEdge_only (smp : Sample) (s : State) : OnlyO 1048574 s (execSampleEdge smp s) := by
  unfold execSampleEdge
  refine OnlyO.next ?_
  repeat' (first
      | (with_reducible exact Only.refl _ _) | (with_reducible assumption)
      | (simp (maxDischargeDepth := 20) (contextual := true) only [Only.ite, Only.refl, Only.foldl, implies_true,
          reduceCtorEq, Nat.reduceOr, assembleTally_nx, beginConfigured_nx, checkFlags_nx, endRequests_nx, evFatal_nx,
          freeDrivers_nx, judgeSwitchOn_nx, judgeTransfers_nx, modEv_nx, modOs_nx, sampleOutputs_nx, sealIn_nx, snoop_nx, *]; done)
      | (with_reducible refine Only.foldl _ _ ?_ (fun t x ht => ?_)) | split | (dsimp only; split)
      | (with_reducible refine assembleTally_nx ?_ rfl) | (with_reducible refine beginConfigured_nx ?_ rfl)
      | (with_reducible refine checkFlags_nx ?_ rfl) | (with_reducible refine endRequests_nx ?_ rfl)
      | (with_reducible refine evFatal_nx ?_ rfl) | (with_reducible refine freeDrivers_nx ?_ rfl)
      | (with_reducible refine judgeSwitchOn_nx ?_ rfl) | (with_reducible refine judgeTransfers_nx ?_ rfl)
      | (with_reducible refine modEv_nx ?_ rfl) | (with_reducible refine modOs_nx ?_ rfl)
      | (with_reducible refine sampleOutputs_nx ?_ rfl) | (with_reducible refine sealIn_nx ?_ rfl)
      | (with_reducible refine snoop_nx ?_ rfl))
theorem dbgRefuse_only (s : State) : Only 256 s (dbgRefuse s) := by
  unfold dbgRefuse
  repeat' (first
      | (with_reducible exact Only.refl _ _) | (with_reducible assumption)
      | (simp (maxDischargeDepth := 20) (contextual := true) only [Only.ite, Only.refl, Only.foldl, implies_true,
          reduceCtorEq, Nat.reduceOr, modDbg_nx, *]; done)
      | (with_reducible refine Only.foldl _ _ ?_ (fun t x ht => ?_)) | split | (dsimp only; split)
      | (with_reducible refine modDbg_nx ?_ rfl))
theorem dbgRefuse_nx {M : Nat} {s tS : State}  (hOnly : Only M s tS) (hSub : M ||| 256 = M) : Only M s (dbgRefuse tS) :=
  hOnly.step (dbgRefuse_only ..) hSub
theorem debugHalt_only (s : State) : Only 1048574 s (debugHalt s) := by
  unfold debugHalt
  repeat' (first
      | (with_reducible exact Only.refl _ _) | (with_reducible assumption)
      | (simp (maxDischargeDepth := 20) (contextual := true) only [Only.ite, Only.refl, Only.foldl, implies_true,
          reduceCtorEq, Nat.reduceOr, dbgRefuse_nx, haltA_nx, marchYield_nx, modDbg_nx, tryCore_nx, *]; done)
      | (with_reducible refine Only.foldl _ _ ?_ (fun t x ht => ?_)) | split | (dsimp only; split)
      | (with_reducible refine dbgRefuse_nx ?_ rfl) | (with_reducible refine haltA_nx ?_ rfl)
      | (with_reducible refine marchYield_nx ?_ rfl) | (with_reducible refine modDbg_nx ?_ rfl)
      | (with_reducible refine tryCore_nx ?_ rfl))
theorem debugHalt_nx {M : Nat} {s tS : State}  (hOnly : Only M s tS) (hSub : M ||| 1048574 = M) : Only M s (debugHalt tS) :=
  hOnly.step (debugHalt_only ..) hSub
theorem debugResume_only (s : State) : Only 1048574 s (debugResume s) := by
  unfold debugResume
  repeat' (first
      | (with_reducible exact Only.refl _ _) | (with_reducible assumption)
      | (simp (maxDischargeDepth := 20) (contextual := true) only [Only.ite, Only.refl, Only.foldl, implies_true,
          reduceCtorEq, Nat.reduceOr, dbgRefuse_nx, haltA_nx, haltB_nx, modCore_nx, modDbg_nx, setDev_nx, tryCore_nx, *]; done)
      | (with_reducible refine Only.foldl _ _ ?_ (fun t x ht => ?_)) | split | (dsimp only; split)
      | (with_reducible refine dbgRefuse_nx ?_ rfl) | (with_reducible refine haltA_nx ?_ rfl)
      | (with_reducible refine haltB_nx ?_ rfl) | (with_reducible refine modCore_nx ?_ rfl)
      | (with_reducible refine modDbg_nx ?_ rfl) | (with_reducible refine setDev_nx ?_ rfl)
      | (with_reducible refine tryCore_nx ?_ rfl))
theorem debugResume_nx {M : Nat} {s tS : State}  (hOnly : Only M s tS) (hSub : M ||| 1048574 = M) :
    Only M s (debugResume tS) :=
  hOnly.step (debugResume_only ..) hSub
theorem debugStep_only (s : State) : Only 1044470 s (debugStep s) := by
  unfold debugStep
  repeat' (first
      | (with_reducible exact Only.refl _ _) | (with_reducible assumption)
      | (simp (maxDischargeDepth := 20) (contextual := true) only [Only.ite, Only.refl, Only.foldl, implies_true,
          reduceCtorEq, Nat.reduceOr, dbgRefuse_nx, haltA_nx, haltB_nx, modCore_nx, modDbg_nx, modEv_nx, *]; done)
      | (with_reducible refine Only.foldl _ _ ?_ (fun t x ht => ?_)) | split | (dsimp only; split)
      | (with_reducible refine dbgRefuse_nx ?_ rfl) | (with_reducible refine haltA_nx ?_ rfl)
      | (with_reducible refine haltB_nx ?_ rfl) | (with_reducible refine modCore_nx ?_ rfl)
      | (with_reducible refine modDbg_nx ?_ rfl) | (with_reducible refine modEv_nx ?_ rfl))
theorem debugStep_nx {M : Nat} {s tS : State}  (hOnly : Only M s tS) (hSub : M ||| 1044470 = M) : Only M s (debugStep tS) :=
  hOnly.step (debugStep_only ..) hSub
theorem dbgEcc_only (err : Option Bool) (acc : Nat) (s : State) : Only 1044478 s (dbgEcc err acc s) := by
  unfold dbgEcc
  repeat' (first
      | (with_reducible exact Only.refl _ _) | (with_reducible assumption)
      | (simp (maxDischargeDepth := 20) (contextual := true) only [Only.ite, Only.refl, Only.foldl, implies_true,
          reduceCtorEq, Nat.reduceOr, evFatal_nx, recordCorrected_nx, *]; done)
      | (with_reducible refine Only.foldl _ _ ?_ (fun t x ht => ?_)) | split | (dsimp only; split)
      | (with_reducible refine evFatal_nx ?_ rfl) | (with_reducible refine recordCorrected_nx ?_ rfl))
theorem dbgEcc_nx {M : Nat} {s tS : State} {err : Option Bool} {acc : Nat} (hOnly : Only M s tS) (hSub :
    M ||| 1044478 = M) : Only M s (dbgEcc err acc tS) :=
  hOnly.step (dbgEcc_only ..) hSub
theorem dbgOpdataWrite_only (v : Word) (err : Option Bool) (s : State) : Only 1044478 s (dbgOpdataWrite v err s) := by
  unfold dbgOpdataWrite
  repeat' (first
      | (with_reducible exact Only.refl _ _) | (with_reducible assumption)
      | (simp (maxDischargeDepth := 20) (contextual := true) only [Only.ite, Only.refl, Only.foldl, implies_true,
          reduceCtorEq, Nat.reduceOr, applyDebugWrites_nx, dbgEcc_nx, dbgRefuse_nx, haltA_nx, haltB_nx, modCore_nx, modDbg_nx, *]; done)
      | (with_reducible refine Only.foldl _ _ ?_ (fun t x ht => ?_)) | split | (dsimp only; split)
      | (with_reducible refine applyDebugWrites_nx ?_ rfl) | (with_reducible refine dbgEcc_nx ?_ rfl)
      | (with_reducible refine dbgRefuse_nx ?_ rfl) | (with_reducible refine haltA_nx ?_ rfl)
      | (with_reducible refine haltB_nx ?_ rfl) | (with_reducible refine modCore_nx ?_ rfl)
      | (with_reducible refine modDbg_nx ?_ rfl))
theorem dbgOpdataWrite_nx {M : Nat} {s tS : State} {v : Word} {err : Option Bool} (hOnly : Only M s tS) (hSub :
    M ||| 1044478 = M) : Only M s (dbgOpdataWrite v err tS) :=
  hOnly.step (dbgOpdataWrite_only ..) hSub
end Sys2Proof.Machine
end

