-- ==== Sys2Proof/Laws/FrameDebug.lean ====
section
/-!
SUPPORT. Sys2Proof/Laws/FrameDebug.lean: the frames of the operations and commands of Machine/Debug.lean: `op_only` names all that an
operation can change; `op_nx` is the same at the end of a chain of operations.
-/
set_option linter.unusedSimpArgs false
set_option linter.unusedVariables false
namespace Sys2Proof.Machine
theorem debugSysreset_only (s : State) : Only 1048574 s (debugSysreset s) := by
  unfold debugSysreset
  repeat' (first
      | (with_reducible exact Only.refl _ _) | (with_reducible assumption)
      | (simp (maxDischargeDepth := 20) (contextual := true) only [Only.ite, Only.refl, Only.foldl, implies_true,
          reduceCtorEq, Nat.reduceOr, assertReset_nx, dbgRefuse_nx, *]; done)
      | (with_reducible refine Only.foldl _ _ ?_ (fun t x ht => ?_)) | split | (dsimp only; split)
      | (with_reducible refine assertReset_nx ?_ rfl) | (with_reducible refine dbgRefuse_nx ?_ rfl))
theorem debugSysreset_nx {M : Nat} {s tS : State}  (hOnly : Only M s tS) (hSub : M ||| 1048574 = M) :
    Only M s (debugSysreset tS) :=
  hOnly.step (debugSysreset_only ..) hSub
theorem leaveExtest_only (ir : Two (BitVec 8)) (s : State) : Only 1044470 s (leaveExtest ir s) := by
  unfold leaveExtest
  repeat' (first
      | (with_reducible exact Only.refl _ _) | (with_reducible assumption)
      | (simp (maxDischargeDepth := 20) (contextual := true) only [Only.ite, Only.refl, Only.foldl, implies_true,
          reduceCtorEq, Nat.reduceOr, modPcr_nx, releaseReset_nx, *]; done)
      | (with_reducible refine Only.foldl _ _ ?_ (fun t x ht => ?_)) | split | (dsimp only; split)
      | (with_reducible refine modPcr_nx ?_ rfl) | (with_reducible refine releaseReset_nx ?_ rfl))
theorem leaveExtest_nx {M : Nat} {s tS : State} {ir : Two (BitVec 8)} (hOnly : Only M s tS) (hSub : M ||| 1044470 = M) :
    Only M s (leaveExtest ir tS) :=
  hOnly.step (leaveExtest_only ..) hSub
theorem tapReset_only (s : State) : Only 1044470 s (tapReset s) := by
  unfold tapReset
  repeat' (first
      | (with_reducible exact Only.refl _ _) | (with_reducible assumption)
      | (simp (maxDischargeDepth := 20) (contextual := true) only [Only.ite, Only.refl, Only.foldl, implies_true,
          reduceCtorEq, Nat.reduceOr, leaveExtest_nx, modPcr_nx, *]; done)
      | (with_reducible refine Only.foldl _ _ ?_ (fun t x ht => ?_)) | split | (dsimp only; split)
      | (with_reducible refine leaveExtest_nx ?_ rfl) | (with_reducible refine modPcr_nx ?_ rfl))
theorem tapReset_nx {M : Nat} {s tS : State}  (hOnly : Only M s tS) (hSub : M ||| 1044470 = M) : Only M s (tapReset tS) :=
  hOnly.step (tapReset_only ..) hSub
theorem throughTapA_nx {M : Nat} {s t : State} {i : BitVec 8} {f : State → State} (h : Only M s t) (hp : M ||| 64 = M) (hf :
    ∀ u, Only M s u → Only M s (f u)) : Only M s (throughTapA i f t) := by
  unfold throughTapA; split
  · exact h
  · exact hf _ (modPcr_nx h hp)

theorem throughDebug_nx {M : Nat} {s t : State} {i : Nat} {f : State → State} (h : Only M s t) (hp : M ||| 64 = M) (hf :
    ∀ u, Only M s u → Only M s (f u)) : Only M s (throughDebug i f t) := by
  unfold throughDebug
  exact throughTapA_nx h hp (fun u hu => hf _ (modPcr_nx hu hp))

theorem execExtestLoad_only (tap : Side) (trstN : Bool) (s : State) : OnlyO 1048574 s (execExtestLoad tap trstN s) := by
  unfold execExtestLoad
  refine OnlyO.next ?_
  repeat' (first
      | (with_reducible exact Only.refl _ _) | (with_reducible assumption)
      | (simp (maxDischargeDepth := 20) (contextual := true) only [Only.ite, Only.refl, Only.foldl, implies_true,
          reduceCtorEq, Nat.reduceOr, assertReset_nx, modPcr_nx, tapReset_nx, *]; done)
      | (with_reducible refine Only.foldl _ _ ?_ (fun t x ht => ?_)) | split | (dsimp only; split)
      | (with_reducible refine assertReset_nx ?_ rfl) | (with_reducible refine modPcr_nx ?_ rfl)
      | (with_reducible refine tapReset_nx ?_ rfl))
theorem execExtestExit_only (tap : Side) (ir : BitVec 8) (trstN : Bool) (s : State) :
    OnlyO 1044470 s (execExtestExit tap ir trstN s) := by
  unfold execExtestExit
  refine OnlyO.next ?_
  repeat' (first
      | (with_reducible exact Only.refl _ _) | (with_reducible assumption)
      | (simp (maxDischargeDepth := 20) (contextual := true) only [Only.ite, Only.refl, Only.foldl, implies_true,
          reduceCtorEq, Nat.reduceOr, leaveExtest_nx, modPcr_nx, tapReset_nx, *]; done)
      | (with_reducible refine Only.foldl _ _ ?_ (fun t x ht => ?_)) | split | (dsimp only; split)
      | (with_reducible refine leaveExtest_nx ?_ rfl) | (with_reducible refine modPcr_nx ?_ rfl)
      | (with_reducible refine tapReset_nx ?_ rfl))
theorem execAckTap_only (v : BitVec 32) (s : State) : OnlyO 1048574 s (execAckTap v s) := by
  unfold execAckTap
  refine OnlyO.next ?_
  repeat' (first
      | (with_reducible exact Only.refl _ _) | (with_reducible assumption)
      | (simp (maxDischargeDepth := 20) (contextual := true) only [Only.ite, Only.refl, Only.foldl, implies_true,
          reduceCtorEq, Nat.reduceOr, ackTap_nx, throughTapA_nx, *]; done)
      | (with_reducible refine Only.foldl _ _ ?_ (fun t x ht => ?_)) | split | (dsimp only; split)
      | (with_reducible refine ackTap_nx ?_ rfl) | (with_reducible refine throughTapA_nx ?_ rfl (fun u hu => ?_)))
theorem execDebugHalt_only (s : State) : OnlyO 1048574 s (execDebugHalt s) := by
  unfold execDebugHalt
  refine OnlyO.next ?_
  repeat' (first
      | (with_reducible exact Only.refl _ _) | (with_reducible assumption)
      | (simp (maxDischargeDepth := 20) (contextual := true) only [Only.ite, Only.refl, Only.foldl, implies_true,
          reduceCtorEq, Nat.reduceOr, debugHalt_nx, throughDebug_nx, *]; done)
      | (with_reducible refine Only.foldl _ _ ?_ (fun t x ht => ?_)) | split | (dsimp only; split)
      | (with_reducible refine debugHalt_nx ?_ rfl) | (with_reducible refine throughDebug_nx ?_ rfl (fun u hu => ?_)))
theorem execDebugResume_only (s : State) : OnlyO 1048574 s (execDebugResume s) := by
  unfold execDebugResume
  refine OnlyO.next ?_
  repeat' (first
      | (with_reducible exact Only.refl _ _) | (with_reducible assumption)
      | (simp (maxDischargeDepth := 20) (contextual := true) only [Only.ite, Only.refl, Only.foldl, implies_true,
          reduceCtorEq, Nat.reduceOr, debugResume_nx, throughDebug_nx, *]; done)
      | (with_reducible refine Only.foldl _ _ ?_ (fun t x ht => ?_)) | split | (dsimp only; split)
      | (with_reducible refine debugResume_nx ?_ rfl) | (with_reducible refine throughDebug_nx ?_ rfl (fun u hu => ?_)))
theorem execDebugStep_only (s : State) : OnlyO 1044470 s (execDebugStep s) := by
  unfold execDebugStep
  refine OnlyO.next ?_
  repeat' (first
      | (with_reducible exact Only.refl _ _) | (with_reducible assumption)
      | (simp (maxDischargeDepth := 20) (contextual := true) only [Only.ite, Only.refl, Only.foldl, implies_true,
          reduceCtorEq, Nat.reduceOr, debugStep_nx, throughDebug_nx, *]; done)
      | (with_reducible refine Only.foldl _ _ ?_ (fun t x ht => ?_)) | split | (dsimp only; split)
      | (with_reducible refine debugStep_nx ?_ rfl) | (with_reducible refine throughDebug_nx ?_ rfl (fun u hu => ?_)))
theorem execDebugSysreset_only (s : State) : OnlyO 1048574 s (execDebugSysreset s) := by
  unfold execDebugSysreset
  refine OnlyO.next ?_
  repeat' (first
      | (with_reducible exact Only.refl _ _) | (with_reducible assumption)
      | (simp (maxDischargeDepth := 20) (contextual := true) only [Only.ite, Only.refl, Only.foldl, implies_true,
          reduceCtorEq, Nat.reduceOr, debugSysreset_nx, throughDebug_nx, *]; done)
      | (with_reducible refine Only.foldl _ _ ?_ (fun t x ht => ?_)) | split | (dsimp only; split)
      | (with_reducible refine debugSysreset_nx ?_ rfl) | (with_reducible refine throughDebug_nx ?_ rfl (fun u hu => ?_)))
theorem execDbgOpdataWrite_only (v : BitVec 32) (err : Option Bool) (s : State) :
    OnlyO 1044478 s (execDbgOpdataWrite v err s) := by
  unfold execDbgOpdataWrite
  refine OnlyO.next ?_
  repeat' (first
      | (with_reducible exact Only.refl _ _) | (with_reducible assumption)
      | (simp (maxDischargeDepth := 20) (contextual := true) only [Only.ite, Only.refl, Only.foldl, implies_true,
          reduceCtorEq, Nat.reduceOr, dbgOpdataWrite_nx, throughDebug_nx, *]; done)
      | (with_reducible refine Only.foldl _ _ ?_ (fun t x ht => ?_)) | split | (dsimp only; split)
      | (with_reducible refine dbgOpdataWrite_nx ?_ rfl) | (with_reducible refine throughDebug_nx ?_ rfl (fun u hu => ?_)))
theorem dbgCmdWrite_only (v : Word) (s : State) : Only 1048574 s (dbgCmdWrite v s) := by
  unfold dbgCmdWrite
  repeat' (first
      | (with_reducible exact Only.refl _ _) | (with_reducible assumption)
      | (simp (maxDischargeDepth := 20) (contextual := true) only [Only.ite, Only.refl, Only.foldl, implies_true,
          reduceCtorEq, Nat.reduceOr, dbgRefuse_nx, debugHalt_nx, debugResume_nx, debugStep_nx, debugSysreset_nx, *]; done)
      | (with_reducible refine Only.foldl _ _ ?_ (fun t x ht => ?_)) | split | (dsimp only; split)
      | (with_reducible refine dbgRefuse_nx ?_ rfl) | (with_reducible refine debugHalt_nx ?_ rfl)
      | (with_reducible refine debugResume_nx ?_ rfl) | (with_reducible refine debugStep_nx ?_ rfl)
      | (with_reducible refine debugSysreset_nx ?_ rfl))
theorem dbgCmdWrite_nx {M : Nat} {s tS : State} {v : Word} (hOnly : Only M s tS) (hSub : M ||| 1048574 = M) :
    Only M s (dbgCmdWrite v tS) :=
  hOnly.step (dbgCmdWrite_only ..) hSub
theorem dbgWrite_only (index : Nat) (v : Word) (s : State) : Only 1048574 s (dbgWrite index v s) := by
  unfold dbgWrite
  repeat' (first
      | (with_reducible exact Only.refl _ _) | (with_reducible assumption)
      | (simp (maxDischargeDepth := 20) (contextual := true) only [Only.ite, Only.refl, Only.foldl, implies_true,
          reduceCtorEq, Nat.reduceOr, dbgCmdWrite_nx, dbgOpdataWrite_nx, dbgRefuse_nx, modDbg_nx, recordAccess_nx, *]; done)
      | (with_reducible refine Only.foldl _ _ ?_ (fun t x ht => ?_)) | split | (dsimp only; split)
      | (with_reducible refine dbgCmdWrite_nx ?_ rfl) | (with_reducible refine dbgOpdataWrite_nx ?_ rfl)
      | (with_reducible refine dbgRefuse_nx ?_ rfl) | (with_reducible refine modDbg_nx ?_ rfl)
      | (with_reducible refine recordAccess_nx ?_ rfl))
theorem dbgWrite_nx {M : Nat} {s tS : State} {index : Nat} {v : Word} (hOnly : Only M s tS) (hSub : M ||| 1048574 = M) :
    Only M s (dbgWrite index v tS) :=
  hOnly.step (dbgWrite_only ..) hSub
theorem debugWrite_only (index : Nat) (v : Word) (s : State) : Only 1048574 s (debugWrite index v s) := by
  unfold debugWrite
  repeat' (first
      | (with_reducible exact Only.refl _ _) | (with_reducible assumption)
      | (simp (maxDischargeDepth := 20) (contextual := true) only [Only.ite, Only.refl, Only.foldl, implies_true,
          reduceCtorEq, Nat.reduceOr, dbgWrite_nx, throughDebug_nx, *]; done)
      | (with_reducible refine Only.foldl _ _ ?_ (fun t x ht => ?_)) | split | (dsimp only; split)
      | (with_reducible refine dbgWrite_nx ?_ rfl) | (with_reducible refine throughDebug_nx ?_ rfl (fun u hu => ?_)))
theorem debugWrite_nx {M : Nat} {s tS : State} {index : Nat} {v : Word} (hOnly : Only M s tS) (hSub : M ||| 1048574 = M) :
    Only M s (debugWrite index v tS) :=
  hOnly.step (debugWrite_only ..) hSub
theorem dbgRead_only (index : Nat) (err : Option Bool) (s : State) : Only 1044478 s (dbgRead index err s) := by
  unfold dbgRead
  repeat' (first
      | (with_reducible exact Only.refl _ _) | (with_reducible assumption)
      | (simp (maxDischargeDepth := 20) (contextual := true) only [Only.ite, Only.refl, Only.foldl, implies_true,
          reduceCtorEq, Nat.reduceOr, dbgEcc_nx, haltA_nx, modPcr_nx, *]; done)
      | (with_reducible refine Only.foldl _ _ ?_ (fun t x ht => ?_)) | split | (dsimp only; split)
      | (with_reducible refine dbgEcc_nx ?_ rfl) | (with_reducible refine haltA_nx ?_ rfl)
      | (with_reducible refine modPcr_nx ?_ rfl))
theorem dbgRead_nx {M : Nat} {s tS : State} {index : Nat} {err : Option Bool} (hOnly : Only M s tS) (hSub :
    M ||| 1044478 = M) : Only M s (dbgRead index err tS) :=
  hOnly.step (dbgRead_only ..) hSub
theorem debugRead_only (index : Nat) (err : Option Bool) (s : State) : Only 1044478 s (debugRead index err s) := by
  unfold debugRead
  repeat' (first
      | (with_reducible exact Only.refl _ _) | (with_reducible assumption)
      | (simp (maxDischargeDepth := 20) (contextual := true) only [Only.ite, Only.refl, Only.foldl, implies_true,
          reduceCtorEq, Nat.reduceOr, dbgRead_nx, throughDebug_nx, *]; done)
      | (with_reducible refine Only.foldl _ _ ?_ (fun t x ht => ?_)) | split | (dsimp only; split)
      | (with_reducible refine dbgRead_nx ?_ rfl) | (with_reducible refine throughDebug_nx ?_ rfl (fun u hu => ?_)))
theorem debugRead_nx {M : Nat} {s tS : State} {index : Nat} {err : Option Bool} (hOnly : Only M s tS) (hSub :
    M ||| 1044478 = M) : Only M s (debugRead index err tS) :=
  hOnly.step (debugRead_only ..) hSub
theorem idcodeRead_only (tap : Side) (s : State) : Only 64 s (idcodeRead tap s) := by
  unfold idcodeRead
  repeat' (first
      | (with_reducible exact Only.refl _ _) | (with_reducible assumption)
      | (simp (maxDischargeDepth := 20) (contextual := true) only [Only.ite, Only.refl, Only.foldl, implies_true,
          reduceCtorEq, Nat.reduceOr, modPcr_nx, *]; done)
      | (with_reducible refine Only.foldl _ _ ?_ (fun t x ht => ?_)) | split | (dsimp only; split)
      | (with_reducible refine modPcr_nx ?_ rfl))
theorem idcodeRead_nx {M : Nat} {s tS : State} {tap : Side} (hOnly : Only M s tS) (hSub : M ||| 64 = M) :
    Only M s (idcodeRead tap tS) :=
  hOnly.step (idcodeRead_only ..) hSub
end Sys2Proof.Machine
end

