-- ==== Sys2Proof/Laws/FramePower.lean ====
section
/-!
SUPPORT. Sys2Proof/Laws/FramePower.lean: the frames of the operations and commands of Machine/Power.lean: `op_only` names all that an
operation can change; `op_nx` is the same at the end of a chain of operations.
-/
set_option linter.unusedSimpArgs false
set_option linter.unusedVariables false
namespace Sys2Proof.Machine
theorem vlOutside_only (side : Side) (lv : VlLevel) (cause : Nat) (mv : BitVec 16) (s : State) :
    Only 1048574 s (vlOutside side lv cause mv s) := by
  unfold vlOutside
  repeat' (first
      | (with_reducible exact Only.refl _ _) | (with_reducible assumption)
      | (simp (maxDischargeDepth := 20) (contextual := true) only [Only.ite, Only.refl, Only.foldl, implies_true,
          reduceCtorEq, Nat.reduceOr, assertReset_nx, inhibitSide_nx, modHport_nx, modPcr_nx, pcrFatal_nx, portReset_nx, *]; done)
      | (with_reducible refine Only.foldl _ _ ?_ (fun t x ht => ?_)) | split | (dsimp only; split)
      | (with_reducible refine assertReset_nx ?_ rfl) | (with_reducible refine inhibitSide_nx ?_ rfl)
      | (with_reducible refine modHport_nx ?_ rfl) | (with_reducible refine modPcr_nx ?_ rfl)
      | (with_reducible refine pcrFatal_nx ?_ rfl) | (with_reducible refine portReset_nx ?_ rfl))
theorem vlOutside_nx {M : Nat} {s tS : State} {side : Side} {lv : VlLevel} {cause : Nat} {mv : BitVec 16} (hOnly :
    Only M s tS) (hSub : M ||| 1048574 = M) : Only M s (vlOutside side lv cause mv tS) :=
  hOnly.step (vlOutside_only ..) hSub
theorem loseBackup_only (s : State) : Only 64 s (loseBackup s) := by
  unfold loseBackup
  repeat' (first
      | (with_reducible exact Only.refl _ _) | (with_reducible assumption)
      | (simp (maxDischargeDepth := 20) (contextual := true) only [Only.ite, Only.refl, Only.foldl, implies_true,
          reduceCtorEq, Nat.reduceOr, modPcr_nx, *]; done)
      | (with_reducible refine Only.foldl _ _ ?_ (fun t x ht => ?_)) | split | (dsimp only; split)
      | (with_reducible refine modPcr_nx ?_ rfl))
theorem loseBackup_nx {M : Nat} {s tS : State}  (hOnly : Only M s tS) (hSub : M ||| 64 = M) : Only M s (loseBackup tS) :=
  hOnly.step (loseBackup_only ..) hSub
theorem execVlUndervoltage_only (side : Side) (mv : BitVec 16) (tearA tearB : Tear) (s : State) :
    OnlyO 1048574 s (execVlUndervoltage side mv tearA tearB s) := by
  unfold execVlUndervoltage
  refine OnlyO.next ?_
  repeat' (first
      | (with_reducible exact Only.refl _ _) | (with_reducible assumption)
      | (simp (maxDischargeDepth := 20) (contextual := true) only [Only.ite, Only.refl, Only.foldl, implies_true,
          reduceCtorEq, Nat.reduceOr, loseBackup_nx, tearJournals_nx, vlOutside_nx, *]; done)
      | (with_reducible refine Only.foldl _ _ ?_ (fun t x ht => ?_)) | split | (dsimp only; split)
      | (with_reducible refine loseBackup_nx ?_ rfl) | (with_reducible refine tearJournals_nx ?_ rfl)
      | (with_reducible refine vlOutside_nx ?_ rfl))
theorem execVlOvervoltage_only (side : Side) (mv : BitVec 16) (s : State) :
    OnlyO 1048574 s (execVlOvervoltage side mv s) := by
  unfold execVlOvervoltage
  refine OnlyO.next ?_
  repeat' (first
      | (with_reducible exact Only.refl _ _) | (with_reducible assumption)
      | (simp (maxDischargeDepth := 20) (contextual := true) only [Only.ite, Only.refl, Only.foldl, implies_true,
          reduceCtorEq, Nat.reduceOr, vlOutside_nx, *]; done)
      | (with_reducible refine Only.foldl _ _ ?_ (fun t x ht => ?_)) | split | (dsimp only; split)
      | (with_reducible refine vlOutside_nx ?_ rfl))
theorem execVlRange_only (side : Side) (mv : BitVec 16) (s : State) : OnlyO 385104 s (execVlRange side mv s) := by
  unfold execVlRange
  refine OnlyO.next ?_
  repeat' (first
      | (with_reducible exact Only.refl _ _) | (with_reducible assumption)
      | (simp (maxDischargeDepth := 20) (contextual := true) only [Only.ite, Only.refl, Only.foldl, implies_true,
          reduceCtorEq, Nat.reduceOr, modPcr_nx, pcrCorrected_nx, *]; done)
      | (with_reducible refine Only.foldl _ _ ?_ (fun t x ht => ?_)) | split | (dsimp only; split)
      | (with_reducible refine modPcr_nx ?_ rfl) | (with_reducible refine pcrCorrected_nx ?_ rfl))
theorem execVlRestore_only (side : Side) (mv : BitVec 16) (s : State) : OnlyO 1044470 s (execVlRestore side mv s) := by
  unfold execVlRestore
  refine OnlyO.next ?_
  repeat' (first
      | (with_reducible exact Only.refl _ _) | (with_reducible assumption)
      | (simp (maxDischargeDepth := 20) (contextual := true) only [Only.ite, Only.refl, Only.foldl, implies_true,
          reduceCtorEq, Nat.reduceOr, modPcr_nx, releaseReset_nx, *]; done)
      | (with_reducible refine Only.foldl _ _ ?_ (fun t x ht => ?_)) | split | (dsimp only; split)
      | (with_reducible refine modPcr_nx ?_ rfl) | (with_reducible refine releaseReset_nx ?_ rfl))
theorem vfFault_only (q : Fin 4) (cause : Nat) (s : State) : Only 385048 s (vfFault q cause s) := by
  unfold vfFault
  repeat' (first
      | (with_reducible exact Only.refl _ _) | (with_reducible assumption)
      | (simp (maxDischargeDepth := 20) (contextual := true) only [Only.ite, Only.refl, Only.foldl, implies_true,
          reduceCtorEq, Nat.reduceOr, recordFault_cont_nx, *]; done)
      | (with_reducible refine Only.foldl _ _ ?_ (fun t x ht => ?_)) | split | (dsimp only; split)
      | (with_reducible refine recordFault_cont_nx ?_ rfl))
theorem vfFault_nx {M : Nat} {s tS : State} {q : Fin 4} {cause : Nat} (hOnly : Only M s tS) (hSub : M ||| 385048 = M) :
    Only M s (vfFault q cause tS) :=
  hOnly.step (vfFault_only ..) hSub
theorem vfOutside_only (q : Fin 4) (cause : Nat) (mv : BitVec 16) (s : State) : Only 385112 s (vfOutside q cause mv s) := by
  unfold vfOutside
  repeat' (first
      | (with_reducible exact Only.refl _ _) | (with_reducible assumption)
      | (simp (maxDischargeDepth := 20) (contextual := true) only [Only.ite, Only.refl, Only.foldl, implies_true,
          reduceCtorEq, Nat.reduceOr, modPcr_nx, vfFault_nx, *]; done)
      | (with_reducible refine Only.foldl _ _ ?_ (fun t x ht => ?_)) | split | (dsimp only; split)
      | (with_reducible refine modPcr_nx ?_ rfl) | (with_reducible refine vfFault_nx ?_ rfl))
theorem vfOutside_nx {M : Nat} {s tS : State} {q : Fin 4} {cause : Nat} {mv : BitVec 16} (hOnly : Only M s tS) (hSub :
    M ||| 385112 = M) : Only M s (vfOutside q cause mv tS) :=
  hOnly.step (vfOutside_only ..) hSub
theorem execVfLoss_only (q : Fin 4) (mv : BitVec 16) (s : State) : OnlyO 385112 s (execVfLoss q mv s) := by
  unfold execVfLoss
  refine OnlyO.next ?_
  repeat' (first
      | (with_reducible exact Only.refl _ _) | (with_reducible assumption)
      | (simp (maxDischargeDepth := 20) (contextual := true) only [Only.ite, Only.refl, Only.foldl, implies_true,
          reduceCtorEq, Nat.reduceOr, vfOutside_nx, *]; done)
      | (with_reducible refine Only.foldl _ _ ?_ (fun t x ht => ?_)) | split | (dsimp only; split)
      | (with_reducible refine vfOutside_nx ?_ rfl))
theorem execVfOver_only (q : Fin 4) (mv : BitVec 16) (s : State) : OnlyO 385112 s (execVfOver q mv s) := by
  unfold execVfOver
  refine OnlyO.next ?_
  repeat' (first
      | (with_reducible exact Only.refl _ _) | (with_reducible assumption)
      | (simp (maxDischargeDepth := 20) (contextual := true) only [Only.ite, Only.refl, Only.foldl, implies_true,
          reduceCtorEq, Nat.reduceOr, vfOutside_nx, *]; done)
      | (with_reducible refine Only.foldl _ _ ?_ (fun t x ht => ?_)) | split | (dsimp only; split)
      | (with_reducible refine vfOutside_nx ?_ rfl))
theorem execVfRestore_only (q : Fin 4) (mv : BitVec 16) (s : State) : OnlyO 80 s (execVfRestore q mv s) := by
  unfold execVfRestore
  refine OnlyO.next ?_
  repeat' (first
      | (with_reducible exact Only.refl _ _) | (with_reducible assumption)
      | (simp (maxDischargeDepth := 20) (contextual := true) only [Only.ite, Only.refl, Only.foldl, implies_true,
          reduceCtorEq, Nat.reduceOr, causeAbsent_nx, modPcr_nx, *]; done)
      | (with_reducible refine Only.foldl _ _ ?_ (fun t x ht => ?_)) | split | (dsimp only; split)
      | (with_reducible refine causeAbsent_nx ?_ rfl) | (with_reducible refine modPcr_nx ?_ rfl))
theorem bakFault_only (addr : Nat) (s : State) : Only 385104 s (bakFault addr s) := by
  unfold bakFault
  repeat' (first
      | (with_reducible exact Only.refl _ _) | (with_reducible assumption)
      | (simp (maxDischargeDepth := 20) (contextual := true) only [Only.ite, Only.refl, Only.foldl, implies_true,
          reduceCtorEq, Nat.reduceOr, modPcr_nx, pcrCorrected_nx, *]; done)
      | (with_reducible refine Only.foldl _ _ ?_ (fun t x ht => ?_)) | split | (dsimp only; split)
      | (with_reducible refine modPcr_nx ?_ rfl) | (with_reducible refine pcrCorrected_nx ?_ rfl))
theorem bakFault_nx {M : Nat} {s tS : State} {addr : Nat} (hOnly : Only M s tS) (hSub : M ||| 385104 = M) :
    Only M s (bakFault addr tS) :=
  hOnly.step (bakFault_only ..) hSub
theorem execBakFail_only (mv : BitVec 16) (s : State) : OnlyO 385104 s (execBakFail mv s) := by
  unfold execBakFail
  refine OnlyO.next ?_
  repeat' (first
      | (with_reducible exact Only.refl _ _) | (with_reducible assumption)
      | (simp (maxDischargeDepth := 20) (contextual := true) only [Only.ite, Only.refl, Only.foldl, implies_true,
          reduceCtorEq, Nat.reduceOr, bakFault_nx, loseBackup_nx, modPcr_nx, *]; done)
      | (with_reducible refine Only.foldl _ _ ?_ (fun t x ht => ?_)) | split | (dsimp only; split)
      | (with_reducible refine bakFault_nx ?_ rfl) | (with_reducible refine loseBackup_nx ?_ rfl)
      | (with_reducible refine modPcr_nx ?_ rfl))
theorem execBakEdgeTimeout_only (s : State) : OnlyO 385104 s (execBakEdgeTimeout s) := by
  unfold execBakEdgeTimeout
  refine OnlyO.next ?_
  repeat' (first
      | (with_reducible exact Only.refl _ _) | (with_reducible assumption)
      | (simp (maxDischargeDepth := 20) (contextual := true) only [Only.ite, Only.refl, Only.foldl, implies_true,
          reduceCtorEq, Nat.reduceOr, bakFault_nx, modPcr_nx, *]; done)
      | (with_reducible refine Only.foldl _ _ ?_ (fun t x ht => ?_)) | split | (dsimp only; split)
      | (with_reducible refine bakFault_nx ?_ rfl) | (with_reducible refine modPcr_nx ?_ rfl))
theorem execPowerOnReset_only (s : State) : OnlyO 1048574 s (execPowerOnReset s) := by
  unfold execPowerOnReset
  refine OnlyO.next ?_
  repeat' (first
      | (with_reducible exact Only.refl _ _) | (with_reducible assumption)
      | (simp (maxDischargeDepth := 20) (contextual := true) only [Only.ite, Only.refl, Only.foldl, implies_true,
          reduceCtorEq, Nat.reduceOr, assertReset_nx, modPcr_nx, *]; done)
      | (with_reducible refine Only.foldl _ _ ?_ (fun t x ht => ?_)) | split | (dsimp only; split)
      | (with_reducible refine assertReset_nx ?_ rfl) | (with_reducible refine modPcr_nx ?_ rfl))
theorem execPorRelease_only (strap : Bool) (s : State) : OnlyO 1044470 s (execPorRelease strap s) := by
  unfold execPorRelease
  refine OnlyO.next ?_
  repeat' (first
      | (with_reducible exact Only.refl _ _) | (with_reducible assumption)
      | (simp (maxDischargeDepth := 20) (contextual := true) only [Only.ite, Only.refl, Only.foldl, implies_true,
          reduceCtorEq, Nat.reduceOr, modPcr_nx, modSt_nx, releaseReset_nx, *]; done)
      | (with_reducible refine Only.foldl _ _ ?_ (fun t x ht => ?_)) | split | (dsimp only; split)
      | (with_reducible refine modPcr_nx ?_ rfl) | (with_reducible refine modSt_nx ?_ rfl)
      | (with_reducible refine releaseReset_nx ?_ rfl))
theorem compareBackup_only (s : State) : Only 64 s (compareBackup s) := by
  unfold compareBackup
  repeat' (first
      | (with_reducible exact Only.refl _ _) | (with_reducible assumption)
      | (simp (maxDischargeDepth := 20) (contextual := true) only [Only.ite, Only.refl, Only.foldl, implies_true,
          reduceCtorEq, Nat.reduceOr, modPcr_nx, *]; done)
      | (with_reducible refine Only.foldl _ _ ?_ (fun t x ht => ?_)) | split | (dsimp only; split)
      | (with_reducible refine modPcr_nx ?_ rfl))
theorem compareBackup_nx {M : Nat} {s tS : State}  (hOnly : Only M s tS) (hSub : M ||| 64 = M) :
    Only M s (compareBackup tS) :=
  hOnly.step (compareBackup_only ..) hSub
theorem tbReleased_only (s : State) : Only 1044478 s (tbReleased s) := by
  unfold tbReleased
  repeat' (first
      | (with_reducible exact Only.refl _ _) | (with_reducible assumption)
      | (simp (maxDischargeDepth := 20) (contextual := true) only [Only.ite, Only.refl, Only.foldl, implies_true,
          reduceCtorEq, Nat.reduceOr, compareBackup_nx, modPcr_nx, modTb_nx, setDev_nx, vfFault_nx, *]; done)
      | (with_reducible refine Only.foldl _ _ ?_ (fun t x ht => ?_)) | split | (dsimp only; split)
      | (with_reducible refine compareBackup_nx ?_ rfl) | (with_reducible refine modPcr_nx ?_ rfl)
      | (with_reducible refine modTb_nx ?_ rfl) | (with_reducible refine setDev_nx ?_ rfl)
      | (with_reducible refine vfFault_nx ?_ rfl))
theorem tbReleased_nx {M : Nat} {s tS : State}  (hOnly : Only M s tS) (hSub : M ||| 1044478 = M) :
    Only M s (tbReleased tS) :=
  hOnly.step (tbReleased_only ..) hSub
theorem execClockSteady_only (clk : ClockName) (s : State) : OnlyO 1044478 s (execClockSteady clk s) := by
  unfold execClockSteady
  refine OnlyO.next ?_
  repeat' (first
      | (with_reducible exact Only.refl _ _) | (with_reducible assumption)
      | (simp (maxDischargeDepth := 20) (contextual := true) only [Only.ite, Only.refl, Only.foldl, implies_true,
          reduceCtorEq, Nat.reduceOr, causeAbsent_nx, modHport_nx, modPcr_nx, modPl_nx, releaseReset_nx, tbReleased_nx, *]; done)
      | (with_reducible refine Only.foldl _ _ ?_ (fun t x ht => ?_)) | split | (dsimp only; split)
      | (with_reducible refine causeAbsent_nx ?_ rfl) | (with_reducible refine modHport_nx ?_ rfl)
      | (with_reducible refine modPcr_nx ?_ rfl) | (with_reducible refine modPl_nx ?_ rfl)
      | (with_reducible refine releaseReset_nx ?_ rfl) | (with_reducible refine tbReleased_nx ?_ rfl))
theorem execClkMon_only (clk : MonClock) (s : State) : OnlyO 1048574 s (execClkMon clk s) := by
  unfold execClkMon
  refine OnlyO.next ?_
  repeat' (first
      | (with_reducible exact Only.refl _ _) | (with_reducible assumption)
      | (simp (maxDischargeDepth := 20) (contextual := true) only [Only.ite, Only.refl, Only.foldl, implies_true,
          reduceCtorEq, Nat.reduceOr, assertReset_nx, clockLostInStart_nx, modPcr_nx, modTb_nx, *]; done)
      | (with_reducible refine Only.foldl _ _ ?_ (fun t x ht => ?_)) | split | (dsimp only; split)
      | (with_reducible refine assertReset_nx ?_ rfl) | (with_reducible refine clockLostInStart_nx ?_ rfl)
      | (with_reducible refine modPcr_nx ?_ rfl) | (with_reducible refine modTb_nx ?_ rfl))
theorem execPlkLock_only (s : State) : OnlyO 1044478 s (execPlkLock s) := by
  unfold execPlkLock
  refine OnlyO.next ?_
  repeat' (first
      | (with_reducible exact Only.refl _ _) | (with_reducible assumption)
      | (simp (maxDischargeDepth := 20) (contextual := true) only [Only.ite, Only.refl, Only.foldl, implies_true,
          reduceCtorEq, Nat.reduceOr, clockLostInStart_nx, modPl_nx, plOff_nx, recordFault_cont_nx, *]; done)
      | (with_reducible refine Only.foldl _ _ ?_ (fun t x ht => ?_)) | split | (dsimp only; split)
      | (with_reducible refine clockLostInStart_nx ?_ rfl) | (with_reducible refine modPl_nx ?_ rfl)
      | (with_reducible refine plOff_nx ?_ rfl) | (with_reducible refine recordFault_cont_nx ?_ rfl))
theorem execPortClock_only (port : Side) (s : State) : OnlyO 385368 s (execPortClock port s) := by
  unfold execPortClock
  refine OnlyO.next ?_
  repeat' (first
      | (with_reducible exact Only.refl _ _) | (with_reducible assumption)
      | (simp (maxDischargeDepth := 20) (contextual := true) only [Only.ite, Only.refl, Only.foldl, implies_true,
          reduceCtorEq, Nat.reduceOr, modHport_nx, modPcr_nx, portReset_nx, recordFault_cont_nx, *]; done)
      | (with_reducible refine Only.foldl _ _ ?_ (fun t x ht => ?_)) | split | (dsimp only; split)
      | (with_reducible refine modHport_nx ?_ rfl) | (with_reducible refine modPcr_nx ?_ rfl)
      | (with_reducible refine portReset_nx ?_ rfl) | (with_reducible refine recordFault_cont_nx ?_ rfl))
theorem execStrClock_only (side : Side) (s : State) : OnlyO 1044478 s (execStrClock side s) := by
  unfold execStrClock
  refine OnlyO.next ?_
  repeat' (first
      | (with_reducible exact Only.refl _ _) | (with_reducible assumption)
      | (simp (maxDischargeDepth := 20) (contextual := true) only [Only.ite, Only.refl, Only.foldl, implies_true,
          reduceCtorEq, Nat.reduceOr, clockLostInStart_nx, modPcr_nx, modStore_nx, recordFault_cont_nx, *]; done)
      | (with_reducible refine Only.foldl _ _ ?_ (fun t x ht => ?_)) | split | (dsimp only; split)
      | (with_reducible refine clockLostInStart_nx ?_ rfl) | (with_reducible refine modPcr_nx ?_ rfl)
      | (with_reducible refine modStore_nx ?_ rfl) | (with_reducible refine recordFault_cont_nx ?_ rfl))
theorem execSoscFail_only (side : Side) (stops : Bool) (s : State) : OnlyO 1044478 s (execSoscFail side stops s) := by
  unfold execSoscFail
  refine OnlyO.next ?_
  repeat' (first
      | (with_reducible exact Only.refl _ _) | (with_reducible assumption)
      | (simp (maxDischargeDepth := 20) (contextual := true) only [Only.ite, Only.refl, Only.foldl, implies_true,
          reduceCtorEq, Nat.reduceOr, modPcr_nx, pcrFatal_nx, *]; done)
      | (with_reducible refine Only.foldl _ _ ?_ (fun t x ht => ?_)) | split | (dsimp only; split)
      | (with_reducible refine modPcr_nx ?_ rfl) | (with_reducible refine pcrFatal_nx ?_ rfl))
theorem execTbFreqWindow_only (s : State) : OnlyO 1044478 s (execTbFreqWindow s) := by
  unfold execTbFreqWindow
  refine OnlyO.next ?_
  repeat' (first
      | (with_reducible exact Only.refl _ _) | (with_reducible assumption)
      | (simp (maxDischargeDepth := 20) (contextual := true) only [Only.ite, Only.refl, Only.foldl, implies_true,
          reduceCtorEq, Nat.reduceOr, modPcr_nx, pcrFatal_nx, *]; done)
      | (with_reducible refine Only.foldl _ _ ?_ (fun t x ht => ?_)) | split | (dsimp only; split)
      | (with_reducible refine modPcr_nx ?_ rfl) | (with_reducible refine pcrFatal_nx ?_ rfl))
theorem tbCheckBad_only (addr : Nat) (s : State) : Only 1044478 s (tbCheckBad addr s) := by
  unfold tbCheckBad
  repeat' (first
      | (with_reducible exact Only.refl _ _) | (with_reducible assumption)
      | (simp (maxDischargeDepth := 20) (contextual := true) only [Only.ite, Only.refl, Only.foldl, implies_true,
          reduceCtorEq, Nat.reduceOr, modTb_nx, recordFault_nx, *]; done)
      | (with_reducible refine Only.foldl _ _ ?_ (fun t x ht => ?_)) | split | (dsimp only; split)
      | (with_reducible refine modTb_nx ?_ rfl) | (with_reducible refine recordFault_nx ?_ rfl))
theorem tbCheckBad_nx {M : Nat} {s tS : State} {addr : Nat} (hOnly : Only M s tS) (hSub : M ||| 1044478 = M) :
    Only M s (tbCheckBad addr tS) :=
  hOnly.step (tbCheckBad_only ..) hSub
theorem execTbCheck_only (drift : Int) (pair : Option (BitVec 64 × BitVec 64)) (s : State) :
    OnlyO 1044478 s (execTbCheck drift pair s) := by
  unfold execTbCheck
  refine OnlyO.next ?_
  repeat' (first
      | (with_reducible exact Only.refl _ _) | (with_reducible assumption)
      | (simp (maxDischargeDepth := 20) (contextual := true) only [Only.ite, Only.refl, Only.foldl, implies_true,
          reduceCtorEq, Nat.reduceOr, modTb_nx, tbCheckBad_nx, *]; done)
      | (with_reducible refine Only.foldl _ _ ?_ (fun t x ht => ?_)) | split | (dsimp only; split)
      | (with_reducible refine modTb_nx ?_ rfl) | (with_reducible refine tbCheckBad_nx ?_ rfl))
theorem execFatalQuietExpiry_only (s : State) : OnlyO 1048574 s (execFatalQuietExpiry s) := by
  unfold execFatalQuietExpiry
  refine OnlyO.next ?_
  repeat' (first
      | (with_reducible exact Only.refl _ _) | (with_reducible assumption)
      | (simp (maxDischargeDepth := 20) (contextual := true) only [Only.ite, Only.refl, Only.foldl, implies_true,
          reduceCtorEq, Nat.reduceOr, assertReset_nx, *]; done)
      | (with_reducible refine Only.foldl _ _ ?_ (fun t x ht => ?_)) | split | (dsimp only; split)
      | (with_reducible refine assertReset_nx ?_ rfl))
theorem execResetNAssert_only (tearA tearB : Tear) (s : State) : OnlyO 1048574 s (execResetNAssert tearA tearB s) := by
  unfold execResetNAssert
  refine OnlyO.next ?_
  repeat' (first
      | (with_reducible exact Only.refl _ _) | (with_reducible assumption)
      | (simp (maxDischargeDepth := 20) (contextual := true) only [Only.ite, Only.refl, Only.foldl, implies_true,
          reduceCtorEq, Nat.reduceOr, assertReset_nx, modPcr_nx, tearJournals_nx, *]; done)
      | (with_reducible refine Only.foldl _ _ ?_ (fun t x ht => ?_)) | split | (dsimp only; split)
      | (with_reducible refine assertReset_nx ?_ rfl) | (with_reducible refine modPcr_nx ?_ rfl)
      | (with_reducible refine tearJournals_nx ?_ rfl))
theorem execResetNRelease_only (s : State) : OnlyO 1044470 s (execResetNRelease s) := by
  unfold execResetNRelease
  refine OnlyO.next ?_
  repeat' (first
      | (with_reducible exact Only.refl _ _) | (with_reducible assumption)
      | (simp (maxDischargeDepth := 20) (contextual := true) only [Only.ite, Only.refl, Only.foldl, implies_true,
          reduceCtorEq, Nat.reduceOr, modPcr_nx, releaseReset_nx, *]; done)
      | (with_reducible refine Only.foldl _ _ ?_ (fun t x ht => ?_)) | split | (dsimp only; split)
      | (with_reducible refine modPcr_nx ?_ rfl) | (with_reducible refine releaseReset_nx ?_ rfl))
theorem execSoscWdog_only (_side : Side) (s : State) : OnlyO 1048574 s (execSoscWdog _side s) := by
  unfold execSoscWdog
  refine OnlyO.next ?_
  repeat' (first
      | (with_reducible exact Only.refl _ _) | (with_reducible assumption)
      | (simp (maxDischargeDepth := 20) (contextual := true) only [Only.ite, Only.refl, Only.foldl, implies_true,
          reduceCtorEq, Nat.reduceOr, assertReset_nx, *]; done)
      | (with_reducible refine Only.foldl _ _ ?_ (fun t x ht => ?_)) | split | (dsimp only; split)
      | (with_reducible refine assertReset_nx ?_ rfl))
theorem execStartLimit_only (s : State) : OnlyO 1044478 s (execStartLimit s) := by
  unfold execStartLimit
  refine OnlyO.next ?_
  repeat' (first
      | (with_reducible exact Only.refl _ _) | (with_reducible assumption)
      | (simp (maxDischargeDepth := 20) (contextual := true) only [Only.ite, Only.refl, Only.foldl, implies_true,
          reduceCtorEq, Nat.reduceOr, pcrFatal_nx, *]; done)
      | (with_reducible refine Only.foldl _ _ ?_ (fun t x ht => ?_)) | split | (dsimp only; split)
      | (with_reducible refine pcrFatal_nx ?_ rfl))
theorem rstRefuse_only (port : Side) (s : State) : Only 16448 s (rstRefuse port s) := by
  unfold rstRefuse
  repeat' (first
      | (with_reducible exact Only.refl _ _) | (with_reducible assumption)
      | (simp (maxDischargeDepth := 20) (contextual := true) only [Only.ite, Only.refl, Only.foldl, implies_true,
          reduceCtorEq, Nat.reduceOr, countRefused_nx, modPcr_nx, *]; done)
      | (with_reducible refine Only.foldl _ _ ?_ (fun t x ht => ?_)) | split | (dsimp only; split)
      | (with_reducible refine countRefused_nx ?_ rfl) | (with_reducible refine modPcr_nx ?_ rfl))
theorem rstRefuse_nx {M : Nat} {s tS : State} {port : Side} (hOnly : Only M s tS) (hSub : M ||| 16448 = M) :
    Only M s (rstRefuse port tS) :=
  hOnly.step (rstRefuse_only ..) hSub
theorem pcrRstArm_only (port : Side) (s : State) : Only 16448 s (pcrRstArm port s) := by
  unfold pcrRstArm
  repeat' (first
      | (with_reducible exact Only.refl _ _) | (with_reducible assumption)
      | (simp (maxDischargeDepth := 20) (contextual := true) only [Only.ite, Only.refl, Only.foldl, implies_true,
          reduceCtorEq, Nat.reduceOr, modPcr_nx, rstRefuse_nx, *]; done)
      | (with_reducible refine Only.foldl _ _ ?_ (fun t x ht => ?_)) | split | (dsimp only; split)
      | (with_reducible refine modPcr_nx ?_ rfl) | (with_reducible refine rstRefuse_nx ?_ rfl))
theorem pcrRstArm_nx {M : Nat} {s tS : State} {port : Side} (hOnly : Only M s tS) (hSub : M ||| 16448 = M) :
    Only M s (pcrRstArm port tS) :=
  hOnly.step (pcrRstArm_only ..) hSub
theorem assertDue_only (s : State) : Only 1048574 s (assertDue s) := by
  unfold assertDue
  repeat' (first
      | (with_reducible exact Only.refl _ _) | (with_reducible assumption)
      | (simp (maxDischargeDepth := 20) (contextual := true) only [Only.ite, Only.refl, Only.foldl, implies_true,
          reduceCtorEq, Nat.reduceOr, assertReset_nx, modPcr_nx, rstRefuse_nx, *]; done)
      | (with_reducible refine Only.foldl _ _ ?_ (fun t x ht => ?_)) | split | (dsimp only; split)
      | (with_reducible refine assertReset_nx ?_ rfl) | (with_reducible refine modPcr_nx ?_ rfl)
      | (with_reducible refine rstRefuse_nx ?_ rfl))
theorem assertDue_nx {M : Nat} {s tS : State}  (hOnly : Only M s tS) (hSub : M ||| 1048574 = M) : Only M s (assertDue tS) :=
  hOnly.step (assertDue_only ..) hSub
theorem pcrRstReset_only (port : Side) (level : BitVec 2) (s : State) : Only 385104 s (pcrRstReset port level s) := by
  unfold pcrRstReset
  repeat' (first
      | (with_reducible exact Only.refl _ _) | (with_reducible assumption)
      | (simp (maxDischargeDepth := 20) (contextual := true) only [Only.ite, Only.refl, Only.foldl, implies_true,
          reduceCtorEq, Nat.reduceOr, modBackup_nx, modPcr_nx, recordAccess_nx, rstRefuse_nx, *]; done)
      | (with_reducible refine Only.foldl _ _ ?_ (fun t x ht => ?_)) | split | (dsimp only; split)
      | (with_reducible refine modBackup_nx ?_ rfl) | (with_reducible refine modPcr_nx ?_ rfl)
      | (with_reducible refine recordAccess_nx ?_ rfl) | (with_reducible refine rstRefuse_nx ?_ rfl))
theorem pcrRstReset_nx {M : Nat} {s tS : State} {port : Side} {level : BitVec 2} (hOnly : Only M s tS) (hSub :
    M ||| 385104 = M) : Only M s (pcrRstReset port level tS) :=
  hOnly.step (pcrRstReset_only ..) hSub
theorem execPcrRstArmTimeout_only (s : State) : OnlyO 16448 s (execPcrRstArmTimeout s) := by
  unfold execPcrRstArmTimeout
  refine OnlyO.next ?_
  repeat' (first
      | (with_reducible exact Only.refl _ _) | (with_reducible assumption)
      | (simp (maxDischargeDepth := 20) (contextual := true) only [Only.ite, Only.refl, Only.foldl, implies_true,
          reduceCtorEq, Nat.reduceOr, rstRefuse_nx, *]; done)
      | (with_reducible refine Only.foldl _ _ ?_ (fun t x ht => ?_)) | split | (dsimp only; split)
      | (with_reducible refine rstRefuse_nx ?_ rfl))
theorem storeUnreadable_only (i : Side) (s : State) : Only 1044478 s (storeUnreadable i s) := by
  unfold storeUnreadable
  repeat' (first
      | (with_reducible exact Only.refl _ _) | (with_reducible assumption)
      | (simp (maxDischargeDepth := 20) (contextual := true) only [Only.ite, Only.refl, Only.foldl, implies_true,
          reduceCtorEq, Nat.reduceOr, storeFail_nx, *]; done)
      | (with_reducible refine Only.foldl _ _ ?_ (fun t x ht => ?_)) | split | (dsimp only; split)
      | (with_reducible refine storeFail_nx ?_ rfl))
theorem storeUnreadable_nx {M : Nat} {s tS : State} {i : Side} (hOnly : Only M s tS) (hSub : M ||| 1044478 = M) :
    Only M s (storeUnreadable i tS) :=
  hOnly.step (storeUnreadable_only ..) hSub
theorem execIdentityRead_only (s : State) : OnlyO 1044478 s (execIdentityRead s) := by
  unfold execIdentityRead
  refine OnlyO.next ?_
  refine Only.iteD ?_ (fun _ => Only.refl _ _)
  intro _
  have h1 : Only 1044478 s (if (s.store .a).absent then storeUnreadable .a s else s) :=
    Only.ite (storeUnreadable_nx (Only.refl _ _) rfl) (Only.refl _ _)
  dsimp only
  revert h1
  generalize (if (s.store .a).absent then storeUnreadable .a s else s) = u
  intro h1
  have h2 : Only 1044478 s (if (u.store .b).absent then storeUnreadable .b u else u) :=
    Only.ite (storeUnreadable_nx h1 rfl) h1
  revert h2
  generalize (if (u.store .b).absent then storeUnreadable .b u else u) = v
  intro h2
  refine Only.iteD (fun _ => h2) (fun _ => ?_)
  refine modPcr_nx ?_ rfl
  have key : ∀ w : State, Only 1044478 s w → ∀ g, Only 1044478 s { w with fr := g } := by
    intro w hw g
    exact hw.step (m := 16) (by constructor <;> first | exact .inr rfl | exact .inl rfl) rfl
  refine key _ ?_ _
  simp (maxDischargeDepth := 20) only [Only.ite, Only.refl, Nat.reduceOr, changeLc_nx, modSt_nx, h2]

end Sys2Proof.Machine
end

