-- ==== Sys2Proof/Laws/FrameStoreRows.lean ====
section
/-!
SUPPORT. Sys2Proof/Laws/FrameStoreRows.lean: the frames of the operations and commands of Machine/StoreRows.lean: `op_only` names all that an
operation can change; `op_nx` is the same at the end of a chain of operations.
-/
set_option linter.unusedSimpArgs false
set_option linter.unusedVariables false
namespace Sys2Proof.Machine
theorem scrubSingle_only (die : Side) (pos : Nat) (s : State) : Only 385040 s (scrubSingle die pos s) := by
  unfold scrubSingle
  repeat' (first
      | (with_reducible exact Only.refl _ _) | (with_reducible assumption)
      | (simp (maxDischargeDepth := 20) (contextual := true) only [Only.ite, Only.refl, Only.foldl, implies_true,
          reduceCtorEq, Nat.reduceOr, modMs_nx, recordFault_corr_nx, *]; done)
      | (with_reducible refine Only.foldl _ _ ?_ (fun t x ht => ?_)) | split | (dsimp only; split)
      | (with_reducible refine modMs_nx ?_ rfl) | (with_reducible refine recordFault_corr_nx ?_ rfl))
theorem scrubSingle_nx {M : Nat} {s tS : State} {die : Side} {pos : Nat} (hOnly : Only M s tS) (hSub : M ||| 385040 = M) :
    Only M s (scrubSingle die pos tS) :=
  hOnly.step (scrubSingle_only ..) hSub
theorem scrubDouble_only (die : Side) (pos : Nat) (s : State) : Only 1044478 s (scrubDouble die pos s) := by
  unfold scrubDouble
  repeat' (first
      | (with_reducible exact Only.refl _ _) | (with_reducible assumption)
      | (simp (maxDischargeDepth := 20) (contextual := true) only [Only.ite, Only.refl, Only.foldl, implies_true,
          reduceCtorEq, Nat.reduceOr, modMs_nx, modWport_nx, portReset_nx, recordFault_nx, takeFree_nx, *]; done)
      | (with_reducible refine Only.foldl _ _ ?_ (fun t x ht => ?_)) | split | (dsimp only; split)
      | (with_reducible refine modMs_nx ?_ rfl) | (with_reducible refine modWport_nx ?_ rfl)
      | (with_reducible refine portReset_nx ?_ rfl) | (with_reducible refine recordFault_nx ?_ rfl)
      | (with_reducible refine takeFree_nx ?_ rfl))
theorem scrubDouble_nx {M : Nat} {s tS : State} {die : Side} {pos : Nat} (hOnly : Only M s tS) (hSub : M ||| 1044478 = M) :
    Only M s (scrubDouble die pos tS) :=
  hOnly.step (scrubDouble_only ..) hSub
theorem scrubNext_only (die : Side) (s : State) : Only 262160 s (scrubNext die s) := by
  unfold scrubNext
  repeat' (first
      | (with_reducible exact Only.refl _ _) | (with_reducible assumption)
      | (simp (maxDischargeDepth := 20) (contextual := true) only [Only.ite, Only.refl, Only.foldl, implies_true,
          reduceCtorEq, Nat.reduceOr, causeAbsent_nx, modMs_nx, *]; done)
      | (with_reducible refine Only.foldl _ _ ?_ (fun t x ht => ?_)) | split | (dsimp only; split)
      | (with_reducible refine causeAbsent_nx ?_ rfl) | (with_reducible refine modMs_nx ?_ rfl))
theorem scrubNext_nx {M : Nat} {s tS : State} {die : Side} (hOnly : Only M s tS) (hSub : M ||| 262160 = M) :
    Only M s (scrubNext die tS) :=
  hOnly.step (scrubNext_only ..) hSub
theorem execScrubStep_only (die : Side) (found : ScrubFind) (s : State) : OnlyO 1044478 s (execScrubStep die found s) := by
  unfold execScrubStep
  refine OnlyO.next ?_
  repeat' (first
      | (with_reducible exact Only.refl _ _) | (with_reducible assumption)
      | (simp (maxDischargeDepth := 20) (contextual := true) only [Only.ite, Only.refl, Only.foldl, implies_true,
          reduceCtorEq, Nat.reduceOr, modMs_nx, scrubDouble_nx, scrubNext_nx, scrubSingle_nx, *]; done)
      | (with_reducible refine Only.foldl _ _ ?_ (fun t x ht => ?_)) | split | (dsimp only; split)
      | (with_reducible refine modMs_nx ?_ rfl) | (with_reducible refine scrubDouble_nx ?_ rfl)
      | (with_reducible refine scrubNext_nx ?_ rfl) | (with_reducible refine scrubSingle_nx ?_ rfl))
theorem execReadScrub_only (s : State) : OnlyO 786432 s (execReadScrub s) := by
  unfold execReadScrub
  refine OnlyO.next ?_
  repeat' (first
      | (with_reducible exact Only.refl _ _) | (with_reducible assumption)
      | (simp (maxDischargeDepth := 20) (contextual := true) only [Only.ite, Only.refl, Only.foldl, implies_true,
          reduceCtorEq, Nat.reduceOr, modMs_nx, takeFree_nx, *]; done)
      | (with_reducible refine Only.foldl _ _ ?_ (fun t x ht => ?_)) | split | (dsimp only; split)
      | (with_reducible refine modMs_nx ?_ rfl) | (with_reducible refine takeFree_nx ?_ rfl))
theorem execStoreTimeout_only (store : Side) (event : StoreEvent) (addr : Nat) (s : State) :
    OnlyO 1044478 s (execStoreTimeout store event addr s) := by
  unfold execStoreTimeout
  refine OnlyO.next ?_
  repeat' (first
      | (with_reducible exact Only.refl _ _) | (with_reducible assumption)
      | (simp (maxDischargeDepth := 20) (contextual := true) only [Only.ite, Only.refl, Only.foldl, implies_true,
          reduceCtorEq, Nat.reduceOr, modMs_nx, modStore_nx, recordFault_corr_nx, storeFail_nx, *]; done)
      | (with_reducible refine Only.foldl _ _ ?_ (fun t x ht => ?_)) | split | (dsimp only; split)
      | (with_reducible refine modMs_nx ?_ rfl) | (with_reducible refine modStore_nx ?_ rfl)
      | (with_reducible refine recordFault_corr_nx ?_ rfl) | (with_reducible refine storeFail_nx ?_ rfl))
theorem execStoreResyncStart_only (store : Side) (s : State) : OnlyO 262144 s (execStoreResyncStart store s) := by
  unfold execStoreResyncStart
  refine OnlyO.next ?_
  repeat' (first
      | (with_reducible exact Only.refl _ _) | (with_reducible assumption)
      | (simp (maxDischargeDepth := 20) (contextual := true) only [Only.ite, Only.refl, Only.foldl, implies_true,
          reduceCtorEq, Nat.reduceOr, modStore_nx, *]; done)
      | (with_reducible refine Only.foldl _ _ ?_ (fun t x ht => ?_)) | split | (dsimp only; split)
      | (with_reducible refine modStore_nx ?_ rfl))
theorem execResyncComplete_only (store : Side) (s : State) : OnlyO 278544 s (execResyncComplete store s) := by
  unfold execResyncComplete
  refine OnlyO.next ?_
  repeat' (first
      | (with_reducible exact Only.refl _ _) | (with_reducible assumption)
      | (simp (maxDischargeDepth := 20) (contextual := true) only [Only.ite, Only.refl, Only.foldl, implies_true,
          reduceCtorEq, Nat.reduceOr, causeAbsent_nx, logEvent_nx, modStore_nx, storeBack_nx, *]; done)
      | (with_reducible refine Only.foldl _ _ ?_ (fun t x ht => ?_)) | split | (dsimp only; split)
      | (with_reducible refine causeAbsent_nx ?_ rfl) | (with_reducible refine logEvent_nx ?_ rfl)
      | (with_reducible refine modStore_nx ?_ rfl) | (with_reducible refine storeBack_nx ?_ rfl))
theorem execLogEntryWrite_only (s : State) : OnlyO 278544 s (execLogEntryWrite s) := by
  unfold execLogEntryWrite
  refine OnlyO.next ?_
  repeat' (first
      | (with_reducible exact Only.refl _ _) | (with_reducible assumption)
      | (simp (maxDischargeDepth := 20) (contextual := true) only [Only.ite, Only.refl, Only.foldl, implies_true,
          reduceCtorEq, Nat.reduceOr, logEvent_nx, modMs_nx, modStores_nx, *]; done)
      | (with_reducible refine Only.foldl _ _ ?_ (fun t x ht => ?_)) | split | (dsimp only; split)
      | (with_reducible refine logEvent_nx ?_ rfl) | (with_reducible refine modMs_nx ?_ rfl)
      | (with_reducible refine modStores_nx ?_ rfl))
theorem execWearCheckpoint_only (s : State) : OnlyO 262144 s (execWearCheckpoint s) := by
  unfold execWearCheckpoint
  refine OnlyO.next ?_
  repeat' (first
      | (with_reducible exact Only.refl _ _) | (with_reducible assumption)
      | (simp (maxDischargeDepth := 20) (contextual := true) only [Only.ite, Only.refl, Only.foldl, implies_true,
          reduceCtorEq, Nat.reduceOr, checkpointWear_nx, *]; done)
      | (with_reducible refine Only.foldl _ _ ?_ (fun t x ht => ?_)) | split | (dsimp only; split)
      | (with_reducible refine checkpointWear_nx ?_ rfl))
theorem execCorrectedSummary_only (s : State) : OnlyO 278544 s (execCorrectedSummary s) := by
  unfold execCorrectedSummary
  refine OnlyO.next ?_
  repeat' (first
      | (with_reducible exact Only.refl _ _) | (with_reducible assumption)
      | (simp (maxDischargeDepth := 20) (contextual := true) only [Only.ite, Only.refl, Only.foldl, implies_true,
          reduceCtorEq, Nat.reduceOr, logEvent_nx, modMs_nx, *]; done)
      | (with_reducible refine Only.foldl _ _ ?_ (fun t x ht => ?_)) | split | (dsimp only; split)
      | (with_reducible refine logEvent_nx ?_ rfl) | (with_reducible refine modMs_nx ?_ rfl))
end Sys2Proof.Machine
end

