-- ==== Sys2Proof/Laws/FrameCruise.lean ====
section
/-!
SUPPORT. Sys2Proof/Laws/FrameCruise.lean: the frames of the operations and commands of Machine/Cruise.lean: `op_only` names all that an
operation can change; `op_nx` is the same at the end of a chain of operations.
-/
set_option linter.unusedSimpArgs false
set_option linter.unusedVariables false
namespace Sys2Proof.Machine
theorem stFault_only (cause : Nat) (cls : FaultClass) (scope item addr acc : Nat) (q : Option (Fin 4)) (s : State) :
    Only 1044478 s (stFault cause cls scope item addr acc q s) := by
  unfold stFault
  repeat' (first
      | (with_reducible exact Only.refl _ _) | (with_reducible assumption)
      | (simp (maxDischargeDepth := 20) (contextual := true) only [Only.ite, Only.refl, Only.foldl, implies_true,
          reduceCtorEq, Nat.reduceOr, recordFault_nx, *]; done)
      | (with_reducible refine Only.foldl _ _ ?_ (fun t x ht => ?_)) | split | (dsimp only; split)
      | (with_reducible refine recordFault_nx ?_ rfl))
theorem stFault_nx {M : Nat} {s tS : State} {cause : Nat} {cls : FaultClass} {scope item addr acc : Nat} {q :
    Option (Fin 4)} (hOnly : Only M s tS) (hSub : M ||| 1044478 = M) :
    Only M s (stFault cause cls scope item addr acc q tS) :=
  hOnly.step (stFault_only ..) hSub
theorem judgeClk_only (k : Nat) (counts : List Nat) (s : State) : Only 1044478 s (judgeClk k counts s) := by
  unfold judgeClk
  repeat' (first
      | (with_reducible exact Only.refl _ _) | (with_reducible assumption)
      | (simp (maxDischargeDepth := 20) (contextual := true) only [Only.ite, Only.refl, Only.foldl, implies_true,
          reduceCtorEq, Nat.reduceOr, causeAbsentIn_nx, modHport_nx, plOff_nx, portReset_nx, stFault_nx, *]; done)
      | (with_reducible refine Only.foldl _ _ ?_ (fun t x ht => ?_)) | split | (dsimp only; split)
      | (with_reducible refine causeAbsentIn_nx ?_ rfl) | (with_reducible refine modHport_nx ?_ rfl)
      | (with_reducible refine plOff_nx ?_ rfl) | (with_reducible refine portReset_nx ?_ rfl)
      | (with_reducible refine stFault_nx ?_ rfl))
theorem judgeClk_nx {M : Nat} {s tS : State} {k : Nat} {counts : List Nat} (hOnly : Only M s tS) (hSub :
    M ||| 1044478 = M) : Only M s (judgeClk k counts tS) :=
  hOnly.step (judgeClk_only ..) hSub
theorem judgeKat_only (k : Nat) (ok : Bool) (s : State) : Only 516120 s (judgeKat k ok s) := by
  unfold judgeKat
  repeat' (first
      | (with_reducible exact Only.refl _ _) | (with_reducible assumption)
      | (simp (maxDischargeDepth := 20) (contextual := true) only [Only.ite, Only.refl, Only.foldl, implies_true,
          reduceCtorEq, Nat.reduceOr, causeAbsent_nx, modChan_nx, modCv_nx, plOff_nx, recordFault_cont_nx, recordFault_corr_nx, *]; done)
      | (with_reducible refine Only.foldl _ _ ?_ (fun t x ht => ?_)) | split | (dsimp only; split)
      | (with_reducible refine causeAbsent_nx ?_ rfl) | (with_reducible refine modChan_nx ?_ rfl)
      | (with_reducible refine modCv_nx ?_ rfl) | (with_reducible refine plOff_nx ?_ rfl)
      | (with_reducible refine recordFault_cont_nx ?_ rfl) | (with_reducible refine recordFault_corr_nx ?_ rfl))
theorem judgeKat_nx {M : Nat} {s tS : State} {k : Nat} {ok : Bool} (hOnly : Only M s tS) (hSub : M ||| 516120 = M) :
    Only M s (judgeKat k ok tS) :=
  hOnly.step (judgeKat_only ..) hSub
theorem judgeMarch_only (m : Nat) (r : SliceResult) (s : State) : Only 1044478 s (judgeMarch m r s) := by
  unfold judgeMarch
  repeat' (first
      | (with_reducible exact Only.refl _ _) | (with_reducible assumption)
      | (simp (maxDischargeDepth := 20) (contextual := true) only [Only.ite, Only.refl, Only.foldl, implies_true,
          reduceCtorEq, Nat.reduceOr, causeAbsentIn_nx, modWport_nx, stFault_nx, takeFree_nx, *]; done)
      | (with_reducible refine Only.foldl _ _ ?_ (fun t x ht => ?_)) | split | (dsimp only; split)
      | (with_reducible refine causeAbsentIn_nx ?_ rfl) | (with_reducible refine modWport_nx ?_ rfl)
      | (with_reducible refine stFault_nx ?_ rfl) | (with_reducible refine takeFree_nx ?_ rfl))
theorem judgeMarch_nx {M : Nat} {s tS : State} {m : Nat} {r : SliceResult} (hOnly : Only M s tS) (hSub :
    M ||| 1044478 = M) : Only M s (judgeMarch m r tS) :=
  hOnly.step (judgeMarch_only ..) hSub
theorem judgeSlice_only (c k : Nat) (r : SliceResult) (s : State) : Only 1044478 s (judgeSlice c k r s) := by
  unfold judgeSlice
  repeat' (first
      | (with_reducible exact Only.refl _ _) | (with_reducible assumption)
      | (simp (maxDischargeDepth := 20) (contextual := true) only [Only.ite, Only.refl, Only.foldl, implies_true,
          reduceCtorEq, Nat.reduceOr, causeAbsent_nx, judgeClk_nx, judgeKat_nx, judgeMarch_nx, refCheck_nx, stFault_nx,
          storeFail_nx, thrTest_nx, *]; done)
      | (with_reducible refine Only.foldl _ _ ?_ (fun t x ht => ?_)) | split | (dsimp only; split)
      | (with_reducible refine causeAbsent_nx ?_ rfl) | (with_reducible refine judgeClk_nx ?_ rfl)
      | (with_reducible refine judgeKat_nx ?_ rfl) | (with_reducible refine judgeMarch_nx ?_ rfl)
      | (with_reducible refine refCheck_nx ?_ rfl) | (with_reducible refine stFault_nx ?_ rfl)
      | (with_reducible refine storeFail_nx ?_ rfl) | (with_reducible refine thrTest_nx ?_ rfl))
theorem judgeSlice_nx {M : Nat} {s tS : State} {c k : Nat} {r : SliceResult} (hOnly : Only M s tS) (hSub :
    M ||| 1044478 = M) : Only M s (judgeSlice c k r tS) :=
  hOnly.step (judgeSlice_only ..) hSub
theorem katHold_only (c k : Nat) (s : State) : Only 131072 s (katHold c k s) := by
  unfold katHold
  repeat' (first
      | (with_reducible exact Only.refl _ _) | (with_reducible assumption)
      | (simp (maxDischargeDepth := 20) (contextual := true) only [Only.ite, Only.refl, Only.foldl, implies_true,
          reduceCtorEq, Nat.reduceOr, modChan_nx, *]; done)
      | (with_reducible refine Only.foldl _ _ ?_ (fun t x ht => ?_)) | split | (dsimp only; split)
      | (with_reducible refine modChan_nx ?_ rfl))
theorem katHold_nx {M : Nat} {s tS : State} {c k : Nat} (hOnly : Only M s tS) (hSub : M ||| 131072 = M) :
    Only M s (katHold c k tS) :=
  hOnly.step (katHold_only ..) hSub
theorem takePlace_only (s : State) : Only 256 s (takePlace s) := by
  unfold takePlace
  repeat' (first
      | (with_reducible exact Only.refl _ _) | (with_reducible assumption)
      | (simp (maxDischargeDepth := 20) (contextual := true) only [Only.ite, Only.refl, Only.foldl, implies_true,
          reduceCtorEq, Nat.reduceOr, modSt_nx, *]; done)
      | (with_reducible refine Only.foldl _ _ ?_ (fun t x ht => ?_)) | split | (dsimp only; split)
      | (with_reducible refine modSt_nx ?_ rfl))
theorem takePlace_nx {M : Nat} {s tS : State}  (hOnly : Only M s tS) (hSub : M ||| 256 = M) : Only M s (takePlace tS) :=
  hOnly.step (takePlace_only ..) hSub
theorem heldEnd_only (s : State) : Only 256 s (heldEnd s) := by
  unfold heldEnd
  repeat' (first
      | (with_reducible exact Only.refl _ _) | (with_reducible assumption)
      | (simp (maxDischargeDepth := 20) (contextual := true) only [Only.ite, Only.refl, Only.foldl, implies_true,
          reduceCtorEq, Nat.reduceOr, modSt_nx, *]; done)
      | (with_reducible refine Only.foldl _ _ ?_ (fun t x ht => ?_)) | split | (dsimp only; split)
      | (with_reducible refine modSt_nx ?_ rfl))
theorem heldEnd_nx {M : Nat} {s tS : State}  (hOnly : Only M s tS) (hSub : M ||| 256 = M) : Only M s (heldEnd tS) :=
  hOnly.step (heldEnd_only ..) hSub
theorem heldBegin_only (s : State) : Only 256 s (heldBegin s) := by
  unfold heldBegin
  repeat' (first
      | (with_reducible exact Only.refl _ _) | (with_reducible assumption)
      | (simp (maxDischargeDepth := 20) (contextual := true) only [Only.ite, Only.refl, Only.foldl, implies_true,
          reduceCtorEq, Nat.reduceOr, modSt_nx, *]; done)
      | (with_reducible refine Only.foldl _ _ ?_ (fun t x ht => ?_)) | split | (dsimp only; split)
      | (with_reducible refine modSt_nx ?_ rfl))
theorem heldBegin_nx {M : Nat} {s tS : State}  (hOnly : Only M s tS) (hSub : M ||| 256 = M) : Only M s (heldBegin tS) :=
  hOnly.step (heldBegin_only ..) hSub
theorem fullEnd_only (complete : Bool) (s : State) : Only 33024 s (fullEnd complete s) := by
  unfold fullEnd
  repeat' (first
      | (with_reducible exact Only.refl _ _) | (with_reducible assumption)
      | (simp (maxDischargeDepth := 20) (contextual := true) only [Only.ite, Only.refl, Only.foldl, implies_true,
          reduceCtorEq, Nat.reduceOr, endItem_nx, modSt_nx, *]; done)
      | (with_reducible refine Only.foldl _ _ ?_ (fun t x ht => ?_)) | split | (dsimp only; split)
      | (with_reducible refine endItem_nx ?_ rfl) | (with_reducible refine modSt_nx ?_ rfl))
theorem fullEnd_nx {M : Nat} {s tS : State} {complete : Bool} (hOnly : Only M s tS) (hSub : M ||| 33024 = M) :
    Only M s (fullEnd complete tS) :=
  hOnly.step (fullEnd_only ..) hSub
theorem execCruiseSliceStart_only (s : State) : OnlyO 164096 s (execCruiseSliceStart s) := by
  unfold execCruiseSliceStart
  refine OnlyO.next ?_
  repeat' (first
      | (with_reducible exact Only.refl _ _) | (with_reducible assumption)
      | (simp (maxDischargeDepth := 20) (contextual := true) only [Only.ite, Only.refl, Only.foldl, implies_true,
          reduceCtorEq, Nat.reduceOr, fullEnd_nx, heldBegin_nx, heldEnd_nx, katHold_nx, modSt_nx, takePlace_nx, *]; done)
      | (with_reducible refine Only.foldl _ _ ?_ (fun t x ht => ?_)) | split | (dsimp only; split)
      | (with_reducible refine fullEnd_nx ?_ rfl) | (with_reducible refine heldBegin_nx ?_ rfl)
      | (with_reducible refine heldEnd_nx ?_ rfl) | (with_reducible refine katHold_nx ?_ rfl)
      | (with_reducible refine modSt_nx ?_ rfl) | (with_reducible refine takePlace_nx ?_ rfl))
theorem roundEnd_only (s : State) : Only 256 s (roundEnd s) := by
  unfold roundEnd
  repeat' (first
      | (with_reducible exact Only.refl _ _) | (with_reducible assumption)
      | (simp (maxDischargeDepth := 20) (contextual := true) only [Only.ite, Only.refl, Only.foldl, implies_true,
          reduceCtorEq, Nat.reduceOr, modSt_nx, *]; done)
      | (with_reducible refine Only.foldl _ _ ?_ (fun t x ht => ?_)) | split | (dsimp only; split)
      | (with_reducible refine modSt_nx ?_ rfl))
theorem roundEnd_nx {M : Nat} {s tS : State}  (hOnly : Only M s tS) (hSub : M ||| 256 = M) : Only M s (roundEnd tS) :=
  hOnly.step (roundEnd_only ..) hSub
theorem sliceDone_only (full fails : Bool) (c : Nat) (s : State) : Only 33024 s (sliceDone full fails c s) := by
  unfold sliceDone
  repeat' (first
      | (with_reducible exact Only.refl _ _) | (with_reducible assumption)
      | (simp (maxDischargeDepth := 20) (contextual := true) only [Only.ite, Only.refl, Only.foldl, implies_true,
          reduceCtorEq, Nat.reduceOr, fullEnd_nx, modSt_nx, roundEnd_nx, *]; done)
      | (with_reducible refine Only.foldl _ _ ?_ (fun t x ht => ?_)) | split | (dsimp only; split)
      | (with_reducible refine fullEnd_nx ?_ rfl) | (with_reducible refine modSt_nx ?_ rfl)
      | (with_reducible refine roundEnd_nx ?_ rfl))
theorem sliceDone_nx {M : Nat} {s tS : State} {full fails : Bool} {c : Nat} (hOnly : Only M s tS) (hSub : M ||| 33024 = M) :
    Only M s (sliceDone full fails c tS) :=
  hOnly.step (sliceDone_only ..) hSub
theorem execCruiseSliceEnd_only (r : SliceResult) (s : State) : OnlyO 1044478 s (execCruiseSliceEnd r s) := by
  unfold execCruiseSliceEnd
  refine OnlyO.next ?_
  repeat' (first
      | (with_reducible exact Only.refl _ _) | (with_reducible assumption)
      | (simp (maxDischargeDepth := 20) (contextual := true) only [Only.ite, Only.refl, Only.foldl, implies_true,
          reduceCtorEq, Nat.reduceOr, cruiseInterrupt_nx, heldBegin_nx, judgeSlice_nx, katRelease_nx, modPcr_nx,
          sliceDone_nx, stFault_nx, *]; done)
      | (with_reducible refine Only.foldl _ _ ?_ (fun t x ht => ?_)) | split | (dsimp only; split)
      | (with_reducible refine cruiseInterrupt_nx ?_ rfl) | (with_reducible refine heldBegin_nx ?_ rfl)
      | (with_reducible refine judgeSlice_nx ?_ rfl) | (with_reducible refine katRelease_nx ?_ rfl)
      | (with_reducible refine modPcr_nx ?_ rfl) | (with_reducible refine sliceDone_nx ?_ rfl)
      | (with_reducible refine stFault_nx ?_ rfl))
theorem execCruiseLate_only (s : State) : OnlyO 1044478 s (execCruiseLate s) := by
  unfold execCruiseLate
  refine OnlyO.next ?_
  repeat' (first
      | (with_reducible exact Only.refl _ _) | (with_reducible assumption)
      | (simp (maxDischargeDepth := 20) (contextual := true) only [Only.ite, Only.refl, Only.foldl, implies_true,
          reduceCtorEq, Nat.reduceOr, modSt_nx, stFault_nx, *]; done)
      | (with_reducible refine Only.foldl _ _ ?_ (fun t x ht => ?_)) | split | (dsimp only; split)
      | (with_reducible refine modSt_nx ?_ rfl) | (with_reducible refine stFault_nx ?_ rfl))
theorem execCruiseStall_only (s : State) : OnlyO 1044478 s (execCruiseStall s) := by
  unfold execCruiseStall
  refine OnlyO.next ?_
  repeat' (first
      | (with_reducible exact Only.refl _ _) | (with_reducible assumption)
      | (simp (maxDischargeDepth := 20) (contextual := true) only [Only.ite, Only.refl, Only.foldl, implies_true,
          reduceCtorEq, Nat.reduceOr, modSt_nx, stFault_nx, *]; done)
      | (with_reducible refine Only.foldl _ _ ?_ (fun t x ht => ?_)) | split | (dsimp only; split)
      | (with_reducible refine modSt_nx ?_ rfl) | (with_reducible refine stFault_nx ?_ rfl))
end Sys2Proof.Machine
end

