-- ==== Sys2Proof/Laws/FrameRegWrite.lean ====
section
/-!
SUPPORT. Sys2Proof/Laws/FrameRegWrite.lean: the frames of the operations and commands of Machine/RegWrite.lean: `op_only` names all that an
operation can change; `op_nx` is the same at the end of a chain of operations.
-/
set_option linter.unusedSimpArgs false
set_option linter.unusedVariables false
namespace Sys2Proof.Machine
theorem cvwWrite_only (port : Side) (n : Fin 4) (f : Feed) (ticks : Nat) (s : State) :
    Only 147456 s (cvwWrite port n f ticks s) := by
  unfold cvwWrite
  repeat' (first
      | (with_reducible exact Only.refl _ _) | (with_reducible assumption)
      | (simp (maxDischargeDepth := 20) (contextual := true) only [Only.ite, Only.refl, Only.foldl, implies_true,
          reduceCtorEq, Nat.reduceOr, countRefused_nx, modChan_nx, *]; done)
      | (with_reducible refine Only.foldl _ _ ?_ (fun t x ht => ?_)) | split | (dsimp only; split)
      | (with_reducible refine countRefused_nx ?_ rfl) | (with_reducible refine modChan_nx ?_ rfl))
theorem cvwWrite_nx {M : Nat} {s tS : State} {port : Side} {n : Fin 4} {f : Feed} {ticks : Nat} (hOnly : Only M s tS)
    (hSub : M ||| 147456 = M) : Only M s (cvwWrite port n f ticks tS) :=
  hOnly.step (cvwWrite_only ..) hSub
theorem cvwFeed_only (port : Side) (n : Fin 4) (width : Fin 3) (v : Word) (s : State) :
    Only 147456 s (cvwFeed port n width v s) := by
  unfold cvwFeed
  repeat' (first
      | (with_reducible exact Only.refl _ _) | (with_reducible assumption)
      | (simp (maxDischargeDepth := 20) (contextual := true) only [Only.ite, Only.refl, Only.foldl, implies_true,
          reduceCtorEq, Nat.reduceOr, cvwWrite_nx, *]; done)
      | (with_reducible refine Only.foldl _ _ ?_ (fun t x ht => ?_)) | split | (dsimp only; split)
      | (with_reducible refine cvwWrite_nx ?_ rfl))
theorem cvwFeed_nx {M : Nat} {s tS : State} {port : Side} {n : Fin 4} {width : Fin 3} {v : Word} (hOnly : Only M s tS)
    (hSub : M ||| 147456 = M) : Only M s (cvwFeed port n width v tS) :=
  hOnly.step (cvwFeed_only ..) hSub
theorem cvwCtlWrite_only (port : Side) (n : Fin 4) (v : Word) (s : State) : Only 516112 s (cvwCtlWrite port n v s) := by
  unfold cvwCtlWrite
  repeat' (first
      | (with_reducible exact Only.refl _ _) | (with_reducible assumption)
      | (simp (maxDischargeDepth := 20) (contextual := true) only [Only.ite, Only.refl, Only.foldl, implies_true,
          reduceCtorEq, Nat.reduceOr, cvwWrite_nx, recordAccess_nx, *]; done)
      | (with_reducible refine Only.foldl _ _ ?_ (fun t x ht => ?_)) | split | (dsimp only; split)
      | (with_reducible refine cvwWrite_nx ?_ rfl) | (with_reducible refine recordAccess_nx ?_ rfl))
theorem cvwCtlWrite_nx {M : Nat} {s tS : State} {port : Side} {n : Fin 4} {v : Word} (hOnly : Only M s tS) (hSub :
    M ||| 516112 = M) : Only M s (cvwCtlWrite port n v tS) :=
  hOnly.step (cvwCtlWrite_only ..) hSub
theorem withReserved_only (b : Block) (p : Side) (off : Nat) (used v : Word) (s : State) :
    Only 385040 s (withReserved b p off used v s) := by
  unfold withReserved
  repeat' (first
      | (with_reducible exact Only.refl _ _) | (with_reducible assumption)
      | (simp (maxDischargeDepth := 20) (contextual := true) only [Only.ite, Only.refl, Only.foldl, implies_true,
          reduceCtorEq, Nat.reduceOr, recordAccess_nx, *]; done)
      | (with_reducible refine Only.foldl _ _ ?_ (fun t x ht => ?_)) | split | (dsimp only; split)
      | (with_reducible refine recordAccess_nx ?_ rfl))
theorem withReserved_nx {M : Nat} {s tS : State} {b : Block} {p : Side} {off : Nat} {used v : Word} (hOnly : Only M s tS)
    (hSub : M ||| 385040 = M) : Only M s (withReserved b p off used v tS) :=
  hOnly.step (withReserved_only ..) hSub
structure Act (M : Nat) (r : RegAct) : Prop where
  only : ∀ f, r = some f → ∀ s, Only M s (f s)
theorem Act.none (M : Nat) : Act M none := ⟨by intro f h; cases h⟩
theorem Act.some {M : Nat} {f : State → State} (h : ∀ s, Only M s (f s)) : Act M (some f) :=
  ⟨by intro g hg; cases hg; exact h⟩
theorem Act.mono {M N : Nat} {r : RegAct} (h : Act M r) (hs : N ||| M = N) : Act N r := ⟨by
  intro f hf s; exact (Only.refl N s).step (h.only f hf s) hs⟩
theorem Act.reg {M : Nat} {b : Block} {p : Side} {o : Nat} {used v : Word} {f : State → State} (hs : M ||| 385040 = M) (h :
    ∀ s, Only M s (f s)) : Act M (reg b p o used v f) := by
  unfold Sys2Proof.Machine.reg; refine Act.some (fun s => ?_)
  exact withReserved_nx (h s) hs
theorem Act.bind {M : Nat} {α : Type} {o : Option α} {g : α → RegAct} (h : ∀ b, Act M (g b)) : Act M (o.bind g) := by
  cases o with
  | none => exact Act.none _
  | some b => exact h b

theorem Act.actReg {M : Nat} {b : Block} {p : Side} {o : Nat} {used acts v : Word} {f : State → State} (hs :
    M ||| 385040 = M) (hc : M ||| 16384 = M) (h : ∀ s, Only M s (f s)) : Act M (actReg b p o used acts v f) := by
  unfold Sys2Proof.Machine.actReg
  refine Act.reg hs (fun s => ?_)
  split
  · exact countRefused_nx (Only.refl _ _) hc
  · exact h s

theorem frWrite_act (b : Block) (p : Side) (o : Nat) (v : Word) : Act 385040 (frWrite b p o v) := by
  unfold frWrite
  repeat' (first
      | (with_reducible exact Only.refl _ _) | (with_reducible exact Act.none _)
      | (with_reducible refine Act.reg rfl (fun s => ?_)) | (with_reducible refine Act.actReg rfl rfl (fun s => ?_))
      | (with_reducible refine Only.ite ?_ ?_) | (with_reducible refine Act.some (fun s => ?_))
      | (simp (maxDischargeDepth := 20) (contextual := true) only [Only.ite, Only.refl, Only.foldl, implies_true,
          reduceCtorEq, Nat.reduceOr, withReserved_nx, firstValidClear_nx, frQuietWrite_nx, modRec_nx]; done)
      | (refine Act.bind (fun b => ?_)) | split | (dsimp only; split) | (with_reducible refine firstValidClear_nx ?_ rfl)
      | (with_reducible refine frQuietWrite_nx ?_ rfl) | (with_reducible refine modRec_nx ?_ rfl))
theorem evWrite_act (p : Side) (o : Nat) (v : Word) : Act 385552 (evWrite p o v) := by
  unfold evWrite
  repeat' (first
      | (with_reducible exact Only.refl _ _) | (with_reducible exact Act.none _)
      | (with_reducible refine Act.reg rfl (fun s => ?_)) | (with_reducible refine Act.actReg rfl rfl (fun s => ?_))
      | (with_reducible refine Only.ite ?_ ?_) | (with_reducible refine Act.some (fun s => ?_))
      | (simp (maxDischargeDepth := 20) (contextual := true) only [Only.ite, Only.refl, Only.foldl, implies_true,
          reduceCtorEq, Nat.reduceOr, withReserved_nx, evClear_nx]; done)
      | (refine Act.bind (fun b => ?_)) | split | (dsimp only; split) | (with_reducible refine evClear_nx ?_ rfl))
theorem pgCtlWrite_only (p : Side) (g : Fin 16) (o : Nat) (v : Word) (s : State) : Only 385424 s (pgCtlWrite p g o v s) := by
  unfold pgCtlWrite
  repeat' (first
      | (with_reducible exact Only.refl _ _) | (with_reducible assumption)
      | (simp (maxDischargeDepth := 20) (contextual := true) only [Only.ite, Only.refl, Only.foldl, implies_true,
          reduceCtorEq, Nat.reduceOr, countRefused_nx, pgEnable_nx, pgNow_nx, withReserved_nx, *]; done)
      | (with_reducible refine Only.foldl _ _ ?_ (fun t x ht => ?_)) | split | (dsimp only; split)
      | (with_reducible refine countRefused_nx ?_ rfl) | (with_reducible refine pgEnable_nx ?_ rfl)
      | (with_reducible refine pgNow_nx ?_ rfl) | (with_reducible refine withReserved_nx ?_ rfl))
theorem pgCtlWrite_nx {M : Nat} {s tS : State} {p : Side} {g : Fin 16} {o : Nat} {v : Word} (hOnly : Only M s tS) (hSub :
    M ||| 385424 = M) : Only M s (pgCtlWrite p g o v tS) :=
  hOnly.step (pgCtlWrite_only ..) hSub
theorem cmpFlagClear_only (v : Word) (s : State) : Only 16512 s (cmpFlagClear v s) := by
  unfold cmpFlagClear
  repeat' (first
      | (with_reducible exact Only.refl _ _) | (with_reducible assumption)
      | (simp (maxDischargeDepth := 20) (contextual := true) only [Only.ite, Only.refl, Only.foldl, implies_true,
          reduceCtorEq, Nat.reduceOr, cmpDue_nx, modTb_nx, *]; done)
      | (with_reducible refine Only.foldl _ _ ?_ (fun t x ht => ?_)) | split | (dsimp only; split)
      | (with_reducible refine cmpDue_nx ?_ rfl) | (with_reducible refine modTb_nx ?_ rfl))
theorem cmpFlagClear_nx {M : Nat} {s tS : State} {v : Word} (hOnly : Only M s tS) (hSub : M ||| 16512 = M) :
    Only M s (cmpFlagClear v tS) :=
  hOnly.step (cmpFlagClear_only ..) hSub
theorem pgFlagClear_only (v : BitVec 16) (s : State) : Only 278912 s (pgFlagClear v s) := by
  unfold pgFlagClear
  repeat' (first
      | (with_reducible exact Only.refl _ _) | (with_reducible assumption)
      | (simp (maxDischargeDepth := 20) (contextual := true) only [Only.ite, Only.refl, Only.foldl, implies_true,
          reduceCtorEq, Nat.reduceOr, modTb_nx, pgDue_nx, *]; done)
      | (with_reducible refine Only.foldl _ _ ?_ (fun t x ht => ?_)) | split | (dsimp only; split)
      | (with_reducible refine modTb_nx ?_ rfl) | (with_reducible refine pgDue_nx ?_ rfl))
theorem pgFlagClear_nx {M : Nat} {s tS : State} {v : BitVec 16} (hOnly : Only M s tS) (hSub : M ||| 278912 = M) :
    Only M s (pgFlagClear v tS) :=
  hOnly.step (pgFlagClear_only ..) hSub
theorem cmpCtlWrite_only (p : Side) (n : Fin 32) (o : Nat) (v : Word) (s : State) :
    Only 385168 s (cmpCtlWrite p n o v s) := by
  unfold cmpCtlWrite
  repeat' (first
      | (with_reducible exact Only.refl _ _) | (with_reducible assumption)
      | (simp (maxDischargeDepth := 20) (contextual := true) only [Only.ite, Only.refl, Only.foldl, implies_true,
          reduceCtorEq, Nat.reduceOr, cmpEnable_nx, modCmp_nx, withReserved_nx, *]; done)
      | (with_reducible refine Only.foldl _ _ ?_ (fun t x ht => ?_)) | split | (dsimp only; split)
      | (with_reducible refine cmpEnable_nx ?_ rfl) | (with_reducible refine modCmp_nx ?_ rfl)
      | (with_reducible refine withReserved_nx ?_ rfl))
theorem cmpCtlWrite_nx {M : Nat} {s tS : State} {p : Side} {n : Fin 32} {o : Nat} {v : Word} (hOnly : Only M s tS) (hSub :
    M ||| 385168 = M) : Only M s (cmpCtlWrite p n o v tS) :=
  hOnly.step (cmpCtlWrite_only ..) hSub
theorem tbWrite_act (p : Side) (o : Nat) (v : Word) : Act 385424 (tbWrite p o v) := by
  unfold tbWrite
  repeat' (first
      | (with_reducible exact Only.refl _ _) | (with_reducible exact Act.none _)
      | (with_reducible refine Act.reg rfl (fun s => ?_)) | (with_reducible refine Act.actReg rfl rfl (fun s => ?_))
      | (with_reducible refine Only.ite ?_ ?_) | (with_reducible refine Act.some (fun s => ?_))
      | (simp (maxDischargeDepth := 20) (contextual := true) only [Only.ite, Only.refl, Only.foldl, implies_true,
          reduceCtorEq, Nat.reduceOr, withReserved_nx, capCtlWrite_nx, cmpCtlWrite_nx, cmpFlagClear_nx, cmpHiWrite_nx,
          cmpLoWrite_nx, modCap_nx, modTb_nx, pgCtlWrite_nx, pgFlagClear_nx, pgGo_nx, pgReloadWrite_nx]; done)
      | (refine Act.bind (fun b => ?_)) | split | (dsimp only; split) | (with_reducible refine capCtlWrite_nx ?_ rfl)
      | (with_reducible refine cmpCtlWrite_nx ?_ rfl) | (with_reducible refine cmpFlagClear_nx ?_ rfl)
      | (with_reducible refine cmpHiWrite_nx ?_ rfl) | (with_reducible refine cmpLoWrite_nx ?_ rfl)
      | (with_reducible refine modCap_nx ?_ rfl) | (with_reducible refine modTb_nx ?_ rfl)
      | (with_reducible refine pgCtlWrite_nx ?_ rfl) | (with_reducible refine pgFlagClear_nx ?_ rfl)
      | (with_reducible refine pgGo_nx ?_ rfl) | (with_reducible refine pgReloadWrite_nx ?_ rfl))
theorem hpWrite_act (p : Side) (o : Nat) (v : Word) : Act 385040 (hpWrite p o v) := by
  unfold hpWrite
  repeat' (first
      | (with_reducible exact Only.refl _ _) | (with_reducible exact Act.none _)
      | (with_reducible refine Act.reg rfl (fun s => ?_)) | (with_reducible refine Act.actReg rfl rfl (fun s => ?_))
      | (with_reducible refine Only.ite ?_ ?_) | (with_reducible refine Act.some (fun s => ?_))
      | (simp (maxDischargeDepth := 20) (contextual := true) only [Only.ite, Only.refl, Only.foldl, implies_true,
          reduceCtorEq, Nat.reduceOr, withReserved_nx, modHport_nx]; done)
      | (refine Act.bind (fun b => ?_)) | split | (dsimp only; split) | (with_reducible refine modHport_nx ?_ rfl))
theorem plWrite_act (p : Side) (o : Nat) (v : Word) : Act 385040 (plWrite p o v) := by
  unfold plWrite
  repeat' (first
      | (with_reducible exact Only.refl _ _) | (with_reducible exact Act.none _)
      | (with_reducible refine Act.reg rfl (fun s => ?_)) | (with_reducible refine Act.actReg rfl rfl (fun s => ?_))
      | (with_reducible refine Only.ite ?_ ?_) | (with_reducible refine Act.some (fun s => ?_))
      | (simp (maxDischargeDepth := 20) (contextual := true) only [Only.ite, Only.refl, Only.foldl, implies_true,
          reduceCtorEq, Nat.reduceOr, withReserved_nx, modPl_nx, modPlPort_nx]; done)
      | (refine Act.bind (fun b => ?_)) | split | (dsimp only; split) | (with_reducible refine modPl_nx ?_ rfl)
      | (with_reducible refine modPlPort_nx ?_ rfl))
theorem cvWrite_act (p : Side) (o : Nat) (v : Word) : Act 516112 (cvWrite p o v) := by
  unfold cvWrite
  repeat' (first
      | (with_reducible exact Only.refl _ _) | (with_reducible exact Act.none _)
      | (with_reducible refine Act.reg rfl (fun s => ?_)) | (with_reducible refine Act.actReg rfl rfl (fun s => ?_))
      | (with_reducible refine Only.ite ?_ ?_) | (with_reducible refine Act.some (fun s => ?_))
      | (simp (maxDischargeDepth := 20) (contextual := true) only [Only.ite, Only.refl, Only.foldl, implies_true,
          reduceCtorEq, Nat.reduceOr, withReserved_nx, cvwCtlWrite_nx, cvwFeed_nx, cvwWrite_nx]; done)
      | (refine Act.bind (fun b => ?_)) | split | (dsimp only; split) | (with_reducible refine cvwCtlWrite_nx ?_ rfl)
      | (with_reducible refine cvwFeed_nx ?_ rfl) | (with_reducible refine cvwWrite_nx ?_ rfl))
theorem pcrRstWrite_only (p : Side) (v : Word) (s : State) : Only 385104 s (pcrRstWrite p v s) := by
  unfold pcrRstWrite
  repeat' (first
      | (with_reducible exact Only.refl _ _) | (with_reducible assumption)
      | (simp (maxDischargeDepth := 20) (contextual := true) only [Only.ite, Only.refl, Only.foldl, implies_true,
          reduceCtorEq, Nat.reduceOr, pcrRstArm_nx, pcrRstReset_nx, rstRefuse_nx, withReserved_nx, *]; done)
      | (with_reducible refine Only.foldl _ _ ?_ (fun t x ht => ?_)) | split | (dsimp only; split)
      | (with_reducible refine pcrRstArm_nx ?_ rfl) | (with_reducible refine pcrRstReset_nx ?_ rfl)
      | (with_reducible refine rstRefuse_nx ?_ rfl) | (with_reducible refine withReserved_nx ?_ rfl))
theorem pcrRstWrite_nx {M : Nat} {s tS : State} {p : Side} {v : Word} (hOnly : Only M s tS) (hSub : M ||| 385104 = M) :
    Only M s (pcrRstWrite p v tS) :=
  hOnly.step (pcrRstWrite_only ..) hSub
theorem pcrWrite_act (p : Side) (o : Nat) (v : Word) : Act 385104 (pcrWrite p o v) := by
  unfold pcrWrite
  split
  · refine Act.some (fun s => ?_)
    dsimp only
    generalize (decide (1 ≤ v.toNat % 16) && decide (v.toNat % 16 ≤ 9)) = ok
    have h : Only 385104 s (if ok = true then s.modPcr (fun x => { x with histSel := BitVec.ofNat 4 (v.toNat % 16) }) else s) :=
      Only.ite (modPcr_nx (Only.refl _ _) rfl) (Only.refl _ _)
    exact Only.ite (recordAccess_nx h rfl) h
  · exact Act.some (fun s => pcrRstWrite_nx (Only.refl _ _) rfl)
  · exact Act.none _

theorem blockWrite_act (b : Block) (p : Side) (o : Nat) (v : Word) : Act 522192 (blockWrite b p o v) := by
  unfold blockWrite
  repeat' (first
      | (with_reducible exact Only.refl _ _) | (with_reducible exact Act.none _)
      | (with_reducible refine Act.reg rfl (fun s => ?_)) | (with_reducible refine Act.actReg rfl rfl (fun s => ?_))
      | (with_reducible refine Only.ite ?_ ?_) | (with_reducible refine Act.some (fun s => ?_))
      | (exact Act.mono (cvWrite_act ..) rfl) | (exact Act.mono (evWrite_act ..) rfl) | (exact Act.mono (frWrite_act ..) rfl)
      | (exact Act.mono (hpWrite_act ..) rfl) | (exact Act.mono (pcrWrite_act ..) rfl)
      | (exact Act.mono (plWrite_act ..) rfl) | (exact Act.mono (tbWrite_act ..) rfl)
      | (simp (maxDischargeDepth := 20) (contextual := true) only [Only.ite, Only.refl, Only.foldl, implies_true,
          reduceCtorEq, Nat.reduceOr, withReserved_nx, modAf_nx, modIb_nx, modMs_nx]; done)
      | (refine Act.bind (fun b => ?_)) | split | (dsimp only; split) | (with_reducible refine modAf_nx ?_ rfl)
      | (with_reducible refine modIb_nx ?_ rfl) | (with_reducible refine modMs_nx ?_ rfl))
theorem cfgOwnerWrite_only (p : Side) (v : Word) (s : State) : Only 385296 s (cfgOwnerWrite p v s) := by
  unfold cfgOwnerWrite
  repeat' (first
      | (with_reducible exact Only.refl _ _) | (with_reducible assumption)
      | (simp (maxDischargeDepth := 20) (contextual := true) only [Only.ite, Only.refl, Only.foldl, implies_true,
          reduceCtorEq, Nat.reduceOr, cfgClaim_nx, cfgRelease_nx, countRefused_nx, recordAccess_nx, withReserved_nx, *]; done)
      | (with_reducible refine Only.foldl _ _ ?_ (fun t x ht => ?_)) | split | (dsimp only; split)
      | (with_reducible refine cfgClaim_nx ?_ rfl) | (with_reducible refine cfgRelease_nx ?_ rfl)
      | (with_reducible refine countRefused_nx ?_ rfl) | (with_reducible refine recordAccess_nx ?_ rfl)
      | (with_reducible refine withReserved_nx ?_ rfl))
theorem cfgOwnerWrite_nx {M : Nat} {s tS : State} {p : Side} {v : Word} (hOnly : Only M s tS) (hSub : M ||| 385296 = M) :
    Only M s (cfgOwnerWrite p v tS) :=
  hOnly.step (cfgOwnerWrite_only ..) hSub
theorem locked_nx {M : Nat} {s t : State} {p : Side} {en : Bool} {f : State → State} (h : Only M s t) (hp :
    M ||| 16384 = M) (hf : Only M s (f t)) : Only M s (locked p en f t) := by
  unfold locked; split
  · exact countRefused_nx h hp
  · exact hf

theorem sqWrite_act (p : Side) (n : Fin 8) (r : Nat) (v : Word) : Act 385040 (sqWrite p n r v) := by
  unfold sqWrite
  repeat' (first
      | (with_reducible exact Only.refl _ _) | (with_reducible exact Act.none _)
      | (with_reducible refine Act.reg rfl (fun s => ?_)) | (with_reducible refine Act.actReg rfl rfl (fun s => ?_))
      | (with_reducible refine Only.ite ?_ ?_) | (with_reducible refine Act.some (fun s => ?_))
      | (simp (maxDischargeDepth := 20) (contextual := true) only [Only.ite, Only.refl, Only.foldl, implies_true,
          reduceCtorEq, Nat.reduceOr, withReserved_nx, locked_nx, modSq_nx, recordAccess_nx, sqDisable_nx, sqEnable_nx,
          sqErrClear_nx, withReserved_nx]; done)
      | (refine Act.bind (fun b => ?_)) | split | (dsimp only; split) | (with_reducible refine locked_nx ?_ rfl ?_)
      | (with_reducible refine modSq_nx ?_ rfl) | (with_reducible refine recordAccess_nx ?_ rfl)
      | (with_reducible refine sqDisable_nx ?_ rfl) | (with_reducible refine sqEnable_nx ?_ rfl)
      | (with_reducible refine sqErrClear_nx ?_ rfl) | (with_reducible refine withReserved_nx ?_ rfl))
theorem cqWrite_act (p : Side) (n : Fin 8) (r : Nat) (v : Word) : Act 385040 (cqWrite p n r v) := by
  unfold cqWrite
  repeat' (first
      | (with_reducible exact Only.refl _ _) | (with_reducible exact Act.none _)
      | (with_reducible refine Act.reg rfl (fun s => ?_)) | (with_reducible refine Act.actReg rfl rfl (fun s => ?_))
      | (with_reducible refine Only.ite ?_ ?_) | (with_reducible refine Act.some (fun s => ?_))
      | (simp (maxDischargeDepth := 20) (contextual := true) only [Only.ite, Only.refl, Only.foldl, implies_true,
          reduceCtorEq, Nat.reduceOr, withReserved_nx, cqEnable_nx, locked_nx, modCq_nx, recordAccess_nx, withReserved_nx]; done)
      | (refine Act.bind (fun b => ?_)) | split | (dsimp only; split) | (with_reducible refine cqEnable_nx ?_ rfl)
      | (with_reducible refine locked_nx ?_ rfl ?_) | (with_reducible refine modCq_nx ?_ rfl)
      | (with_reducible refine recordAccess_nx ?_ rfl) | (with_reducible refine withReserved_nx ?_ rfl))
theorem doorbellWrite_act (p : Side) (o : Nat) (v : Word) : Act 385040 (doorbellWrite p o v) := by
  unfold doorbellWrite
  repeat' (first
      | (with_reducible exact Only.refl _ _) | (with_reducible exact Act.none _)
      | (with_reducible refine Act.reg rfl (fun s => ?_)) | (with_reducible refine Act.actReg rfl rfl (fun s => ?_))
      | (with_reducible refine Only.ite ?_ ?_) | (with_reducible refine Act.some (fun s => ?_))
      | (simp (maxDischargeDepth := 20) (contextual := true) only [Only.ite, Only.refl, Only.foldl, implies_true,
          reduceCtorEq, Nat.reduceOr, withReserved_nx, headDoorbell_nx, tailDoorbell_nx]; done)
      | (refine Act.bind (fun b => ?_)) | split | (dsimp only; split) | (with_reducible refine headDoorbell_nx ?_ rfl)
      | (with_reducible refine tailDoorbell_nx ?_ rfl))
theorem msixWrite_act (p : Side) (o : Nat) (v : Word) : Act 16384 (msixWrite p o v) := by
  unfold msixWrite
  repeat' (first
      | (with_reducible exact Only.refl _ _) | (with_reducible exact Act.none _)
      | (with_reducible refine Act.reg rfl (fun s => ?_)) | (with_reducible refine Act.actReg rfl rfl (fun s => ?_))
      | (with_reducible refine Only.ite ?_ ?_) | (with_reducible refine Act.some (fun s => ?_))
      | (simp (maxDischargeDepth := 20) (contextual := true) only [Only.ite, Only.refl, Only.foldl, implies_true,
          reduceCtorEq, Nat.reduceOr, withReserved_nx, flushPending_nx, modHport_nx]; done)
      | (refine Act.bind (fun b => ?_)) | split | (dsimp only; split) | (with_reducible refine flushPending_nx ?_ rfl)
      | (with_reducible refine modHport_nx ?_ rfl))
theorem bar0Write_act (p : Side) (off : Nat) (v : Word) : Act 522192 (bar0Write p off v) := by
  unfold bar0Write
  split
  · split
    · exact Act.some (fun s => cfgOwnerWrite_nx (Only.refl _ _) rfl)
    · exact Act.none _
  split
  · exact Act.bind (fun b => Act.mono (blockWrite_act b p _ v) rfl)
  split
  · exact Act.mono (sqWrite_act ..) rfl
  split
  · exact Act.mono (cqWrite_act ..) rfl
  split
  · exact Act.mono (doorbellWrite_act ..) rfl
  split
  · exact Act.mono (msixWrite_act ..) rfl
  · exact Act.none _

theorem roWrite_only (p : Side) (off : Nat) (v : Word) (s : State) : Only 385040 s (roWrite p off v s) := by
  unfold roWrite
  repeat' (first
      | (with_reducible exact Only.refl _ _) | (with_reducible assumption)
      | (simp (maxDischargeDepth := 20) (contextual := true) only [Only.ite, Only.refl, Only.foldl, implies_true,
          reduceCtorEq, Nat.reduceOr, countRefused_nx, withReserved_nx, *]; done)
      | (with_reducible refine Only.foldl _ _ ?_ (fun t x ht => ?_)) | split | (dsimp only; split)
      | (with_reducible refine countRefused_nx ?_ rfl) | (with_reducible refine withReserved_nx ?_ rfl))
theorem roWrite_nx {M : Nat} {s tS : State} {p : Side} {off : Nat} {v : Word} (hOnly : Only M s tS) (hSub :
    M ||| 385040 = M) : Only M s (roWrite p off v tS) :=
  hOnly.step (roWrite_only ..) hSub
theorem discardWrite_only (p : Side) (s : State) : Only 16384 s (discardWrite p s) := by
  unfold discardWrite
  repeat' (first
      | (with_reducible exact Only.refl _ _) | (with_reducible assumption)
      | (simp (maxDischargeDepth := 20) (contextual := true) only [Only.ite, Only.refl, Only.foldl, implies_true,
          reduceCtorEq, Nat.reduceOr, modHport_nx, *]; done)
      | (with_reducible refine Only.foldl _ _ ?_ (fun t x ht => ?_)) | split | (dsimp only; split)
      | (with_reducible refine modHport_nx ?_ rfl))
theorem discardWrite_nx {M : Nat} {s tS : State} {p : Side} (hOnly : Only M s tS) (hSub : M ||| 16384 = M) :
    Only M s (discardWrite p tS) :=
  hOnly.step (discardWrite_only ..) hSub
theorem regWriteAct_only (p : Side) (off : Nat) (v : Word) (kind : WriteKind) (s : State) :
    Only 522192 s (regWriteAct p off v kind s) := by
  unfold regWriteAct
  cases kind with
  | poisoned => exact recordFault_corr_nx (Only.refl _ _) rfl rfl
  | partialBytes => exact recordAccess_nx (discardWrite_nx (Only.refl _ _) rfl) rfl
  | whole =>
    dsimp only
    refine Only.ite (discardWrite_nx (Only.refl _ _) rfl)
        (Only.ite (recordAccess_nx (discardWrite_nx (Only.refl _ _) rfl) rfl) ?_)
    cases hb : bar0Write p off v with
    | none => exact roWrite_nx (Only.refl _ _) rfl
    | some f => exact (bar0Write_act p off v).only f hb s
theorem regWriteAct_nx {M : Nat} {s tS : State} {p : Side} {off : Nat} {v : Word} {kind : WriteKind} (hOnly : Only M s tS)
    (hSub : M ||| 522192 = M) : Only M s (regWriteAct p off v kind tS) :=
  hOnly.step (regWriteAct_only ..) hSub

theorem configWrite_only (p : Side) (r : CfgReg) (v : Word) (kind : WriteKind) (s : State) :
    Only 385040 s (configWrite p r v kind s) := by
  unfold configWrite
  repeat' (first
      | (with_reducible exact Only.refl _ _) | (with_reducible assumption)
      | (simp (maxDischargeDepth := 20) (contextual := true) only [Only.ite, Only.refl, Only.foldl, implies_true,
          reduceCtorEq, Nat.reduceOr, flushPending_nx, modHport_nx, recordPoisoned_nx, *]; done)
      | (with_reducible refine Only.foldl _ _ ?_ (fun t x ht => ?_)) | split | (dsimp only; split)
      | (with_reducible refine flushPending_nx ?_ rfl) | (with_reducible refine modHport_nx ?_ rfl)
      | (with_reducible refine recordPoisoned_nx ?_ rfl))
theorem configWrite_nx {M : Nat} {s tS : State} {p : Side} {r : CfgReg} {v : Word} {kind : WriteKind} (hOnly :
    Only M s tS) (hSub : M ||| 385040 = M) : Only M s (configWrite p r v kind tS) :=
  hOnly.step (configWrite_only ..) hSub
theorem hostReadAct_only (p : Side) (off : Nat) (s : State) : Only 16512 s (hostReadAct p off s) := by
  unfold hostReadAct
  repeat' (first
      | (with_reducible exact Only.refl _ _) | (with_reducible assumption)
      | (simp (maxDischargeDepth := 20) (contextual := true) only [Only.ite, Only.refl, Only.foldl, implies_true,
          reduceCtorEq, Nat.reduceOr, abortRead_nx, capLoRead_nx, latchHigh_nx, readData_nx, *]; done)
      | (with_reducible refine Only.foldl _ _ ?_ (fun t x ht => ?_)) | split | (dsimp only; split)
      | (with_reducible refine abortRead_nx ?_ rfl) | (with_reducible refine capLoRead_nx ?_ rfl)
      | (with_reducible refine latchHigh_nx ?_ rfl) | (with_reducible refine readData_nx ?_ rfl))
theorem hostReadAct_nx {M : Nat} {s tS : State} {p : Side} {off : Nat} (hOnly : Only M s tS) (hSub : M ||| 16512 = M) :
    Only M s (hostReadAct p off tS) :=
  hOnly.step (hostReadAct_only ..) hSub
theorem execCapLoRead_only (port : Side) (c : Fin 16) (s : State) : OnlyO 16512 s (execCapLoRead port c s) := by
  unfold execCapLoRead
  refine OnlyO.next ?_
  repeat' (first
      | (with_reducible exact Only.refl _ _) | (with_reducible assumption)
      | (simp (maxDischargeDepth := 20) (contextual := true) only [Only.ite, Only.refl, Only.foldl, implies_true,
          reduceCtorEq, Nat.reduceOr, fromPort_nx, hostReadAct_nx, *]; done)
      | (with_reducible refine Only.foldl _ _ ?_ (fun t x ht => ?_)) | split | (dsimp only; split)
      | (with_reducible refine fromPort_nx ?_ ?_) | (with_reducible refine hostReadAct_nx ?_ rfl))
theorem windowRead_only (p : Side) (off : Nat) (s : State) : Only 49152 s (windowRead p off s) := by
  unfold windowRead
  repeat' (first
      | (with_reducible exact Only.refl _ _) | (with_reducible assumption)
      | (simp (maxDischargeDepth := 20) (contextual := true) only [Only.ite, Only.refl, Only.foldl, implies_true,
          reduceCtorEq, Nat.reduceOr, modWport_nx, readData_nx, *]; done)
      | (with_reducible refine Only.foldl _ _ ?_ (fun t x ht => ?_)) | split | (dsimp only; split)
      | (with_reducible refine modWport_nx ?_ rfl) | (with_reducible refine readData_nx ?_ rfl))
theorem windowRead_nx {M : Nat} {s tS : State} {p : Side} {off : Nat} (hOnly : Only M s tS) (hSub : M ||| 49152 = M) :
    Only M s (windowRead p off tS) :=
  hOnly.step (windowRead_only ..) hSub
theorem heldAccess_only (p : Side) (e : Nat × Option (List Byte × Bool)) (s : State) : Only 516112 s (heldAccess p e s) := by
  unfold heldAccess
  repeat' (first
      | (with_reducible exact Only.refl _ _) | (with_reducible assumption)
      | (simp (maxDischargeDepth := 20) (contextual := true) only [Only.ite, Only.refl, Only.foldl, implies_true,
          reduceCtorEq, Nat.reduceOr, hostWindowWrite_nx, readData_nx, remFound_nx, *]; done)
      | (with_reducible refine Only.foldl _ _ ?_ (fun t x ht => ?_)) | split | (dsimp only; split)
      | (with_reducible refine hostWindowWrite_nx ?_ rfl) | (with_reducible refine readData_nx ?_ rfl)
      | (with_reducible refine remFound_nx ?_ rfl))
theorem heldAccess_nx {M : Nat} {s tS : State} {p : Side} {e : Nat × Option (List Byte × Bool)} (hOnly : Only M s tS)
    (hSub : M ||| 516112 = M) : Only M s (heldAccess p e tS) :=
  hOnly.step (heldAccess_only ..) hSub
theorem marchRelease_only (p : Side) (s : State) : Only 516112 s (marchRelease p s) := by
  unfold marchRelease
  repeat' (first
      | (with_reducible exact Only.refl _ _) | (with_reducible assumption)
      | (simp (maxDischargeDepth := 20) (contextual := true) only [Only.ite, Only.refl, Only.foldl, implies_true,
          reduceCtorEq, Nat.reduceOr, heldAccess_nx, modWport_nx, *]; done)
      | (with_reducible refine Only.foldl _ _ ?_ (fun t x ht => ?_)) | split | (dsimp only; split)
      | (with_reducible refine heldAccess_nx ?_ rfl) | (with_reducible refine modWport_nx ?_ rfl))
theorem marchRelease_nx {M : Nat} {s tS : State} {p : Side} (hOnly : Only M s tS) (hSub : M ||| 516112 = M) :
    Only M s (marchRelease p tS) :=
  hOnly.step (marchRelease_only ..) hSub
theorem execLowHalfRead_only (port : Side) (space : Space) (s : State) : OnlyO 1044478 s (execLowHalfRead port space s) := by
  unfold execLowHalfRead
  refine OnlyO.next ?_
  repeat' (first
      | (with_reducible exact Only.refl _ _) | (with_reducible assumption)
      | (simp (maxDischargeDepth := 20) (contextual := true) only [Only.ite, Only.refl, Only.foldl, implies_true,
          reduceCtorEq, Nat.reduceOr, debugRead_nx, fromPort_nx, hostReadAct_nx, idcodeRead_nx, readData_nx, windowRead_nx, *]; done)
      | (with_reducible refine Only.foldl _ _ ?_ (fun t x ht => ?_)) | split | (dsimp only; split)
      | (with_reducible refine debugRead_nx ?_ rfl) | (with_reducible refine fromPort_nx ?_ ?_)
      | (with_reducible refine hostReadAct_nx ?_ rfl) | (with_reducible refine idcodeRead_nx ?_ rfl)
      | (with_reducible refine readData_nx ?_ rfl) | (with_reducible refine windowRead_nx ?_ rfl))
end Sys2Proof.Machine
end

