-- ==== Sys2Proof/Laws/HostWrites.lean ====
section
/-!
SUPPORT. Sys2Proof/Laws/HostWrites.lean: what a host's register write does where no other write of its tick goes ahead of it
(R285, R293), and where it reaches its block (R301).
-/
namespace Sys2Proof.Machine

/-- In its place, a write does exactly what it does at its target. -/
theorem inOrder_inTurn {i : Instr} {s : State} {w : HostWrite} (h : hostWriteOf i = some w) (k : s.inTurn i) :
    inOrder i s = w.act s := by
  obtain ⟨a, b⟩ := k w h
  rcases w with ⟨p, off, act⟩
  cases p
  · simp_all [inOrder]
  · simp_all [inOrder]

theorem fromPort_live {p : Side} {f : State → State} {s : State} (l : s.live p) : fromPort p f s = f s := by
  simp_all [fromPort, State.live]

/-- A write that reaches its block does exactly what it does there. -/
theorem inOrder_reaches {i : Instr} {s : State} {p : Side} {b : Block} {o : Nat} {f : State → State}
    (h : hostWriteOf i = blockHostWrite p b o f) (r : s.reaches p b i) : inOrder i s = f s := by
  obtain ⟨l, e, k⟩ := r
  rw [inOrder_inTurn h k]
  show toBlock p b f s = f s
  simp [toBlock, fromPort_live l, e]

end Sys2Proof.Machine
end

