-- ==== Sys2Proof/Laws/Memory.lean ====
section
/-!
SUPPORT. Sys2Proof/Laws/Memory.lean: the laws of the addressed memories: every operation keeps the canonical form, a read after a
write gives what was written, and a write leaves every other address alone.
-/
namespace Sys2Proof.Machine

/-! ## The canonical form -/

theorem wfFrom_mono {w : Nat} {d : BitVec w} {lo lo' : Nat} {m : Mem w} (h : Memory.wfFrom d lo' m = true) (hl : lo ≤ lo') :
    Memory.wfFrom d lo m = true := by
  cases m with
  | nil => rfl
  | cons e m =>
    obtain ⟨k, v⟩ := e
    simp only [Memory.wfFrom, Bool.and_eq_true, decide_eq_true_eq] at h ⊢
    exact ⟨⟨by omega, h.1.2⟩, h.2⟩

/-- A list whose entries rise from `lo` and differ from `d` is canonical; each entry is at `lo` or above. -/
theorem mem_ge_of_wfFrom {w : Nat} {d : BitVec w} {lo : Nat} {m : Mem w} (h : Memory.wfFrom d lo m = true) {e : Nat × BitVec w}
    (he : e ∈ m) : lo ≤ e.1 ∧ e.2 ≠ d := by
  induction m generalizing lo with
  | nil => cases he
  | cons x m ih =>
    obtain ⟨k, v⟩ := x
    simp only [Memory.wfFrom, Bool.and_eq_true, decide_eq_true_eq] at h
    cases he with
    | head => exact ⟨h.1.1, h.1.2⟩
    | tail _ he => have := ih h.2 he; exact ⟨by omega, this.2⟩

theorem mset_wfFrom {w : Nat} {d : BitVec w} {lo : Nat} {m : Mem w} (h : Memory.wfFrom d lo m = true) {a : Nat} (ha : lo ≤ a)
    (x : BitVec w) : Memory.wfFrom d lo (mset d m a x) = true := by
  induction m generalizing lo with
  | nil => unfold mset; split <;> simp_all [Memory.wfFrom]
  | cons e m ih =>
    obtain ⟨k, v⟩ := e
    have hk := h
    simp only [Memory.wfFrom, Bool.and_eq_true, decide_eq_true_eq] at hk
    unfold mset
    split
    · split
      · exact h
      · rename_i hlt hx
        simp only [Memory.wfFrom, Bool.and_eq_true, decide_eq_true_eq]
        exact ⟨⟨ha, hx⟩, ⟨by omega, hk.1.2⟩, hk.2⟩
    · split
      · split
        · exact wfFrom_mono hk.2 (by omega)
        · rename_i hlt heq hx
          simp only [Memory.wfFrom, Bool.and_eq_true, decide_eq_true_eq]
          exact ⟨⟨ha, hx⟩, by rw [heq]; exact hk.2⟩
      · simp only [Memory.wfFrom, Bool.and_eq_true, decide_eq_true_eq]
        exact ⟨hk.1, ih hk.2 (by omega)⟩

/-- A write keeps the canonical form. -/
theorem mset_wf {w : Nat} {d : BitVec w} {m : Mem w} (h : Memory.wf d m = true) (a : Nat) (x : BitVec w) :
    Memory.wf d (mset d m a x) = true := mset_wfFrom h (Nat.zero_le a) x

/-- A write of consecutive units keeps the canonical form. -/
theorem msetList_wf {w : Nat} {d : BitVec w} {m : Mem w} (h : Memory.wf d m = true) (a : Nat) (xs : List (BitVec w)) :
    Memory.wf d (msetList d m a xs) = true := by
  induction xs generalizing m a with
  | nil => exact h
  | cons x xs ih => exact ih (mset_wf h a x) (a + 1)

/-- An empty memory is canonical. -/
@[simp] theorem wf_nil {w : Nat} (d : BitVec w) : Memory.wf d [] = true := rfl

/-- Words a disturbance changes leave a bank canonical. -/
theorem disturb_wf {c : Side} {hits : List (Nat × Word)} {m : Mem 32} (h : Memory.wf (maskOf c) m = true) :
    Memory.wf (maskOf c) (disturb c hits m) = true := by
  unfold disturb
  induction hits generalizing m with
  | nil => exact h
  | cons e hs ih =>
    simp only [List.foldl_cons]
    split
    · exact ih (mset_wf h _ _)
    · exact ih h

/-- Consecutive addresses from `base`, the entries that read as unlisted left out. -/
theorem wfFrom_filter_zip {w : Nat} (d : BitVec w) (f : BitVec w → BitVec w) (base j : Nat) (l : List (BitVec w)) (rest : Mem w)
    (hr : Memory.wfFrom d (base + j + l.length) rest = true) :
    Memory.wfFrom d (base + j)
      ((((List.range' j l.length).zipWith (fun k x => (base + k, f x)) l).filter (fun e => e.2 != d)) ++ rest) = true := by
  induction l generalizing j with
  | nil => simpa using hr
  | cons x l ih =>
    have hl := ih (j + 1) (by simpa [Nat.add_assoc, Nat.add_comm 1] using hr)
    simp only [List.length_cons, List.range'_succ, List.zipWith_cons_cons, List.filter_cons]
    split
    · rename_i hx
      simp only [List.cons_append, Memory.wfFrom, Bool.and_eq_true, decide_eq_true_eq]
      exact ⟨⟨Nat.le_refl _, by simpa using hx⟩, hl⟩
    · exact wfFrom_mono hl (by omega)

/-- A bank formed from snapshot words is canonical. -/
theorem bankOf_wf (c : Side) (ws : List Word × List Word) : Memory.wf (maskOf c) (bankOf c ws) = true := by
  have hi := wfFrom_filter_zip (maskOf c) (fun w => w ^^^ maskOf c) 0x800 0 (ws.2.take 0x800) [] rfl
  have lo := wfFrom_filter_zip (maskOf c) (fun w => w ^^^ maskOf c) 0 0 (ws.1.take 0x400) _
    (wfFrom_mono hi (by have := List.length_take_le 0x400 ws.1; omega))
  simpa [bankOf, Memory.wf, List.range_eq_range'] using lo

/-- A word poked into a core keeps its memories canonical. -/
theorem poke_wf {c : Side} {x : CoreSt} (h : Memory.wf (maskOf c) x.opMem = true) (a : Nat) (v : Word) :
    Memory.wf (maskOf c) (x.poke c a v).opMem = true := mset_wf h a _

@[simp] theorem poke_live (c : Side) (x : CoreSt) (a : Nat) (v : Word) : (x.poke c a v).live = x.live := rfl
@[simp] theorem poke_fill (c : Side) (x : CoreSt) (a : Nat) (v : Word) : (x.poke c a v).fill = x.fill := rfl

/-! ## Reading after writing -/

/-- Nothing is listed below the first address. -/
theorem mget_of_lt {w : Nat} {d : BitVec w} {lo : Nat} {m : Mem w} (h : Memory.wfFrom d lo m = true) {a : Nat} (ha : a < lo) :
    mget d m a = d := by
  induction m generalizing lo with
  | nil => rfl
  | cons e m ih =>
    obtain ⟨k, v⟩ := e
    simp only [Memory.wfFrom, Bool.and_eq_true, decide_eq_true_eq] at h
    unfold mget
    rw [if_neg (by omega), ih h.2 (by omega)]

theorem mget_mset_same_from {w : Nat} {d : BitVec w} {lo : Nat} {m : Mem w} (h : Memory.wfFrom d lo m = true) (a : Nat)
    (x : BitVec w) : mget d (mset d m a x) a = x := by
  induction m generalizing lo with
  | nil => unfold mset; split <;> simp_all [mget]
  | cons e m ih =>
    obtain ⟨k, v⟩ := e
    have hk := h
    simp only [Memory.wfFrom, Bool.and_eq_true, decide_eq_true_eq] at hk
    unfold mset
    split
    · split
      · rename_i hlt hx
        rw [hx]; unfold mget; rw [if_neg (by omega), mget_of_lt hk.2 (by omega)]
      · simp [mget]
    · split
      · split
        · rename_i hlt heq hx
          rw [hx, heq]; exact mget_of_lt hk.2 (by omega)
        · simp [mget]
      · rename_i hlt hne
        unfold mget; rw [if_neg (fun h => hne h.symm)]; exact ih hk.2

/-- A read after a write to the same address gives the value written. -/
theorem mget_mset_same {w : Nat} {d : BitVec w} {m : Mem w} (h : Memory.wf d m = true) (a : Nat) (x : BitVec w) :
    mget d (mset d m a x) a = x := mget_mset_same_from h a x

theorem mget_mset_other_from {w : Nat} {d : BitVec w} {lo : Nat} {m : Mem w} (h : Memory.wfFrom d lo m = true) {a b : Nat}
    (hab : b ≠ a) (x : BitVec w) : mget d (mset d m a x) b = mget d m b := by
  induction m generalizing lo with
  | nil =>
    unfold mset; split
    · rfl
    · simp only [mget]; rw [if_neg (fun h => hab h.symm)]
  | cons e m ih =>
    obtain ⟨k, v⟩ := e
    have hk := h
    simp only [Memory.wfFrom, Bool.and_eq_true, decide_eq_true_eq] at hk
    unfold mset
    split
    · split
      · rfl
      · simp only [mget]; rw [if_neg (fun h => hab h.symm)]
    · split
      · rename_i hlt heq
        split
        · simp only [mget]; rw [if_neg (by omega)]
        · simp only [mget]; rw [if_neg (fun h => hab h.symm), if_neg (by omega)]
      · simp only [mget]; rw [ih hk.2]

/-- A write leaves every other address alone. -/
theorem mget_mset_other {w : Nat} {d : BitVec w} {m : Mem w} (h : Memory.wf d m = true) {a b : Nat} (hab : b ≠ a)
    (x : BitVec w) : mget d (mset d m a x) b = mget d m b := mget_mset_other_from h hab x

/-- A write of consecutive units leaves every address outside them alone. -/
theorem mget_msetList_other {w : Nat} {d : BitVec w} {m : Mem w} (h : Memory.wf d m = true) {a b : Nat} (xs : List (BitVec w))
    (hab : b < a ∨ a + xs.length ≤ b) : mget d (msetList d m a xs) b = mget d m b := by
  induction xs generalizing m a with
  | nil => rfl
  | cons x xs ih =>
    simp only [List.length_cons] at hab
    unfold msetList
    rw [ih (mset_wf h a x) (by omega), mget_mset_other h (by omega)]

/-- A read inside the units written gives the unit written. -/
theorem mget_msetList {w : Nat} {d : BitVec w} {m : Mem w} (h : Memory.wf d m = true) (a : Nat) (xs : List (BitVec w)) {k : Nat}
    (hk : k < xs.length) : mget d (msetList d m a xs) (a + k) = xs[k] := by
  induction xs generalizing m a k with
  | nil => simp at hk
  | cons x xs ih =>
    unfold msetList
    cases k with
    | zero => rw [mget_msetList_other (mset_wf h a x) xs (by omega)]; exact mget_mset_same h a x
    | succ k =>
      have := ih (mset_wf h a x) (a + 1) (k := k) (by simpa using hk)
      simpa [Nat.add_assoc, Nat.add_comm 1] using this

end Sys2Proof.Machine
end

