-- ==== Sys2Proof/WellFormed.lean ====
section
/-!
DEFINITION. Sys2Proof/WellFormed.lean: which commands can come about at all: lists no longer than what they report on, and
offsets and addresses inside the space the spec lays out for them. exec is total and does not ask for it.
-/
namespace Sys2Proof

/-- The offset of a 32-bit register in BAR0, which spans 0x0_0000 to 0x3_FFFF (R291). -/
def regOffset (off : Nat) : Bool := decide (off < 0x40000) && off % 4 == 0

/-- A register write addresses BAR0 at a register's offset (R291) or one of the debug registers (R446). -/
def Target.wf : Target → Bool
  | .bar0 _ off => regOffset off
  | .debug i => decide (i < 256)
  | .config _ _ => true

/-- A read addresses a register of BAR0, an aligned word of the 2 MiB landing window, or a configuration register. -/
def Space.wf : Space → Bool
  | .bar0 off => regOffset off
  | .bar2 off => decide (off < 0x200000) && off % 4 == 0
  | .config _ => true
  | .debug i _ => decide (i < 256)
  | .idcode _ => true

/-- A bit error lies in the 8,192 words of operand memory or the rows of the 256 ranks, found by one of the three accesses
(R34). -/
def MemErr.wf (e : MemErr) : Bool := decide (e.addr < 8192) && (e.acc == 1 || e.acc == 2 || e.acc == 3)

/-- An address of the snapshot regions, 0x0000 to 0x03FF and 0x0800 to 0x0FFF (R35). -/
def snapshotAddr (a : Nat) : Bool := decide (a < 0x400) || (decide (0x800 ≤ a) && decide (a < 0x1000))

/-- A sample reports on the 144 outputs and twelve temperatures at most (R211, R394), and disturbs snapshot words only (R38). -/
def Sample.wf (x : Sample) : Bool :=
  decide (x.outs.length ≤ 144) && decide (x.temps.length ≤ 12) &&
  x.hitA.all (fun e => snapshotAddr e.1) && x.hitB.all (fun e => snapshotAddr e.1)

/-- A command that can come about. -/
def Instr.wf (i : Instr) : Bool :=
  match i with
  | .vlUndervoltage _ _ _ _ => true
  | .vlOvervoltage _ _ => true
  | .vlRange _ _ => true
  | .vlRestore _ _ => true
  | .vfLoss _ _ => true
  | .vfOver _ _ => true
  | .vfRestore _ _ => true
  | .bakFail _ => true
  | .bakEdgeTimeout => true
  | .powerOnReset => true
  | .porRelease _ => true
  | .clockSteady _ => true
  | .identityRead => true
  | .journalReplay bad => bad.all (fun e => decide (e.2 < 43690))
  | .tableSelect => true
  | .tableLoad => true
  | .fieldStep _ thrBad calBad => decide (thrBad.length ≤ 128 ∧ calBad.length ≤ 68)
  | .startLimit => true
  | .fatalQuietExpiry => true
  | .resetNAssert _ _ => true
  | .resetNRelease => true
  | .soscWdog _ => true
  | .clkMon _ => true
  | .plkLock => true
  | .portClock _ => true
  | .strClock _ => true
  | .soscFail _ _ => true
  | .tbFreqWindow => true
  | .tbCheck _ _ => true
  | .pcrRstArm _ => true
  | .pcrRstReset _ _ => true
  | .pcrRstArmTimeout => true
  | .sampleEdge smp => smp.wf
  | .scanLaunch _ => true
  | .rankComplete _ errs => errs.all MemErr.wf
  | .rankToken _ _ => true
  | .completionToken _ => true
  | .lagOverrun => true
  | .scanClose _ => true
  | .scanOver _ => true
  | .cellExpiry _ _ => true
  | .kerfSignature _ _ _ _ => true
  | .kerfLate _ => true
  | .copyCheckPass _ bad => decide (bad.length ≤ 14 * 32)
  | .pgWrap _ => true
  | .pgReloadWrite _ _ _ => true
  | .pgNow _ _ => true
  | .pgEnable _ _ _ => true
  | .pgGo _ _ => true
  | .cmpLoWrite _ _ _ => true
  | .cmpHiWrite _ _ _ => true
  | .cmpEnable _ _ _ => true
  | .cmpMatch _ => true
  | .captureEvent _ _ => true
  | .capLoRead _ _ => true
  | .capCtlWrite _ _ _ => true
  | .inputChange _ _ _ _ => true
  | .inputFilterExpiry _ => true
  | .ossdBridgeRelease _ => true
  | .ossdGapExpiry _ => true
  | .tpSeenExpiry _ => true
  | .band _ => true
  | .overvolt _ => true
  | .thrHandover _ => true
  | .thrHandoverTimeout _ => true
  | .comparatorDisagree _ => true
  | .pg00Release => true
  | .dipWindowOpen _ _ _ => true
  | .dipOffEnd _ _ _ => true
  | .dipWindowEnd _ => true
  | .srcOverload _ _ => true
  | .srcRetry _ _ _ => true
  | .measurementInstant _ samples spares => decide (samples.length ≤ 64 ∧ spares.length ≤ 4)
  | .axisBufferSwap _ => true
  | .encoderEdge _ _ _ => true
  | .level _ => true
  | .adcClock _ => true
  | .calibrationPass _ _ _ _ _ => true
  | .calHandover _ => true
  | .calHandoverTimeout _ => true
  | .bowStopState _ _ => true
  | .bowHoldTimeout _ _ => true
  | .switchClosed _ _ => true
  | .bowMismatch _ _ => true
  | .darkTestDue _ => true
  | .darkWindowStart _ => true
  | .darkWindowEnd _ _ _ _ iL => decide (iL < 0x10000)
  | .darkForce _ => true
  | .staticCheckStart _ => true
  | .overload _ _ => true
  | .short _ iH iL _ => decide (iH < 0x10000 ∧ iL < 0x10000)
  | .openLoad _ iL _ => decide (iL < 0x10000)
  | .auxSum _ sum _ => decide (sum < 0x10000)
  | .noOutput _ _ _ => true
  | .overtemp _ _ => true
  | .stormExpiry _ => true
  | .quietExpiry _ cause _ => decide (cause < 256)
  | .firstValidClear _ _ => true
  | .frQuietWrite _ _ _ => true
  | .peakClr _ => true
  | .malfClr _ => true
  | .registerWrite target _ _ => target.wf
  | .portReset _ _ => true
  | .linkDown _ => true
  | .linkReturn _ _ _ _ => true
  | .powerStateWrite _ _ => true
  | .isolatedAccess _ off _ => regOffset off
  | .cfgClaim _ _ => true
  | .cfgRelease _ _ => true
  | .msixUnmask _ _ => true
  | .sqTailDoorbell _ _ _ => true
  | .cqHeadDoorbell _ _ _ => true
  | .descriptorFetch _ => true
  | .descriptorArrival _ _ bytes => match bytes with | some b => b.length == 64 | none => true
  | .nop _ _ => true
  | .fence _ _ => true
  | .tableStage _ _ => true
  | .tableVerify _ _ => true
  | .tableCommit _ _ => true
  | .modeReq _ _ => true
  | .resetReq _ _ => true
  | .hresetExpiry _ _ => true
  | .snapshot _ _ => true
  | .tallyRead _ _ => true
  | .logRead _ _ => true
  | .linkSend _ _ => true
  | .linkDetach _ _ => true
  | .cvJob _ _ => true
  | .fullTest _ _ => true
  | .lcSet _ _ => true
  | .storeWrite _ _ => true
  | .storeRead _ _ => true
  | .itemComplete _ _ _ => true
  | .completionPost _ _ => true
  | .postedTimer _ _ => true
  | .cqCoalesceTimer _ _ => true
  | .sqEnable _ _ _ => true
  | .sqDisable _ _ => true
  | .sqErrClear _ _ => true
  | .cqEnable _ _ _ => true
  | .entryWrite _ off bytes _ => decide (off + bytes.length ≤ 4096 ∧ 0 < bytes.length ∧ off / 8 = (off + bytes.length - 1) / 8)
  | .flipVerdict _ => true
  | .landingWrite _ off bytes _ _ => decide (4096 ≤ off ∧ 0 < bytes.length ∧ off + bytes.length ≤ 0x200000)
  | .remainderRebuild _ _ => true
  | .ackTimeout => true
  | .ackTap _ => true
  | .linkSignalPresent _ => true
  | .linkSignalLoss _ => true
  | .linkAligned _ => true
  | .linkCycle _ => true
  | .frameReceived _ _ _ => true
  | .tuneTimeout _ => true
  | .linkWatchdog _ => true
  | .lostExpiry _ => true
  | .detachWindowExpiry _ => true
  | .cvwFeed _ _ _ _ => true
  | .cvwCtlWrite _ _ _ => true
  | .cvwValWrite _ _ _ => true
  | .scrubStep _ _ => true
  | .readScrub => true
  | .storeTimeout _ _ addr => decide (addr < 0x800000)
  | .resyncComplete _ => true
  | .logEntryWrite => true
  | .tallyPublish => true
  | .wearCheckpoint => true
  | .correctedSummary => true
  | .cruiseSliceStart => true
  | .cruiseSliceEnd r => decide (r.addr < 0x800000)
  | .cruiseLate => true
  | .cruiseStall => true
  | .debugHalt => true
  | .debugResume => true
  | .debugStep => true
  | .debugSysreset => true
  | .dbgOpdataWrite _ _ => true
  | .extestLoad _ _ => true
  | .extestExit _ _ _ => true
  | .lowHalfRead _ space => space.wf
  | .linkLeavesL0 _ => true
  | .residual _ r => decide (r.current < 0x10000 ∧ r.currentH < 0x10000)
  | .overtempClear _ => true
  | .levelRestore _ => true
  | .storeResyncStart _ => true
  | .calibrationWrite => true

end Sys2Proof
end

