-- ==== Sys2Proof/Tests/Slice0.lean ====
section
/-!
SUPPORT. Sys2Proof/Tests/Slice0.lean: ill-formed commands that WellFormed refuses, small tests of single steps with results
taken from the spec, and for each statement with hypotheses a state and operands that meet them.
-/
namespace Sys2Proof.Tests
open Sys2Proof Sys2Proof.Machine

-- One theorem after the other: each evaluation in the kernel waits for the declarations before it.
set_option Elab.async false

/-! ## A state to start from -/

/-- The null table with every terminal, source and link port in use. -/
def tab : Table :=
  { Table.null with
    inputs := Vector.replicate 128 { (default : InputCfg) with mode := 3, filter := 1 },
    strums := Vector.replicate 32 ⟨true, 1000, 0, [(10, 100)]⟩,
    outputs := Vector.replicate 144 { (default : OutputCfg) with enable := true, dark := 1, darkInt := 1, iMin := 1 },
    partners := Vector.replicate 4 { (default : PartnerCfg) with type := 1, detach := true, cycle := 1, wdog := 3, peerAddr := 9 } }

/-- RUN at TB_NOW 10^12 with the clocks released, both ports live and HP0 the owner, in DEVELOP, both cores stopped. -/
def base : State :=
  let s := { State.reset with dev := .run }
  let s := s.modPcr (fun x => { x with phase := .done, clk := ⟨true, ⟨true, true⟩, Vector.replicate 4 true, true, ⟨true, true⟩⟩ })
  let s := s.modTb (fun t => { t with now := 1000000000000, chk := 1000000000000 })
  let s := s.modHp (fun h => { h with owner := some .a, port := ⟨{ h.port.a with inReset := false, link := .l0, msixEn := true },
                                                                  { h.port.b with inReset := false, link := .l0, msixEn := true }⟩ })
  let s := s.modSt (fun x => { x with lc := .develop })
  s.modEv (fun e => { e with sampleAt := some 0, core := ⟨{ e.core.a with table := some tab, undef := none },
                                                        { e.core.b with table := some tab, undef := none }⟩ })

/-- The same table with this many ranks. -/
def tabOf (n : Nat) : Table := { tab with ranks := n }

/-- With no command behind it and none drawn ahead, a write stands in its place. -/
theorem inTurn_of (s : State) (i : Instr) (h : s.pending = []) (k : s.hp.hoisted = []) : s.inTurn i := by
  intro w _
  simp [State.waitingHp0, h, k]

theorem reaches_of (s : State) (p : Side) (b : Block) (i : Instr) (h : s.pending = []) (k : s.hp.hoisted = []) (l : s.live p)
    (f : isolated b s = false) : s.reaches p b i := ⟨l, f, inTurn_of s i h k⟩

def d0 : Desc :=
  { opc := 0, flags := 0, resv := false, seq := 1, tag := 0, winOff := 0, len := 0, hostAddr := 0, arg0 := 0, arg1 := 0, arg2 := 0,
    arg3 := 0 }

/-- An accepted item of this opcode. -/
def item (opc : Nat) (d : Desc) : Item :=
  { d := { d with opc := opc }, skip := false, sqhd := 0, jseq := 0, stage := .accepted, mark := 0, old := false }

/-- The one item of HP0's ring 0. -/
def one (i : Item) (s : State) : State := s.modSq .a 0 (fun q => { q with items := [i] })

/-- A contained fault whose quiet period runs from tick 0. -/
def inst (cause item : Nat) : FaultInst :=
  { cause := cause, scope := 2, item := item, cls := .contained, quarter := none, life := .quiet 0, conseq := none, withheld := false,
    at_ := 0, addr := 0, init := 0, acc := 0 }

def rep (c : FaultClass) : FaultRep :=
  { block := .ib, cause := 3, cls := c, scope := 2, item := 5, addr := 5, init := 0x20, acc := 0 }

def smp : Sample := { xferFail := 0, outs := [], psOut := 0, psLate := 0, temps := [], hitA := [], hitB := [] }

def ackw : AckWait :=
  { port := .a, ring := 0, since := 999999999999, tap := true, key := 7, input := 0, press := ⟨0, 0⟩, pressAt := ⟨0, 0⟩, accepted := ⟨none, none⟩ }

def logE : LogEntry :=
  { eseq := 0, time := 0, kind := 8, block := 12, cause := 0, cls := 0, init := 0, acc := 0, addr := 0, data16 := 0, data32 := 0 }

def slice (mv : BitVec 16) (sig : Word) : SliceResult :=
  { steps := classSteps 2, sig := sig, readings := 31, counts := [], values := [], shadowOk := true, addr := 0, uncorr := none,
    vl := (mv, 5250) }

/-- A NOP descriptor of HP0's ring 0 with SEQ 0 and its DCRC (R306, R307). -/
def descBytes : List Byte := List.replicate 60 0 ++ leBytes 4 (dcrcOf .a 0 (List.replicate 60 0)).toNat

/-- A safety frame from partner 9 with SEQX 1 (R344, R345). -/
def safetyFrame : List Byte :=
  let b : List Byte := [0x3C, 9, 1, 0, 0, 0] ++ List.replicate 22 0
  b ++ leBytes 4 (frameCrc 9 0 1 b).toNat

/-- A table image of one rank whose one row drives AX00_TA from the constant true, as its bytes other than 0. -/
def image : Mem 8 := 
  [(0,69), (1,85), (2,84), (3,66), (4,1), (8,144), (9,17), (12,16), (14,1), (16,14), (18,9), (20,1), (33,1), (36,128),
  (37,1), (40,4), (44,136), (45,1), (48,128), (49,15), (52,8), (53,17), (56,4), (60,16), (61,17), (64,128), (240,174),
  (241,87), (242,205), (243,71), (244,54), (245,66), (246,102), (247,158), (259,64), (262,32), (263,96), (392,1),
  (394,64), (396,1), (904,16), (905,39), (906,34), (914,200), (2184,1)]

/-- Both staging slots hold the image. -/
def staged (st : SlotState) : State :=
  [Side.a, .b].foldl (fun s j => s.modStore j (fun x => { x with
    slot := ⟨{ x.slot.a with bytes := [] }, { x.slot.b with st := st, stagedEnd := 4496, bytes := image }⟩,
    active1 := false })) base

theorem ne_succ (v : Word) : v + 1 ≠ v := by bv_omega

/-- CRC-32C as a recursion over numbers, which the kernel evaluates byte by byte. -/
def crcFrom : List Byte → Nat → Nat
  | [], n => n
  | b :: t, n => match n with
    | 0 => crcFrom t (crc32cByte (BitVec.ofNat 32 0) b).toNat
    | k + 1 => crcFrom t (crc32cByte (BitVec.ofNat 32 (k + 1)) b).toNat

theorem crcFrom_cons (b : Byte) (t : List Byte) (n : Nat) :
    crcFrom (b :: t) n = crcFrom t (crc32cByte (BitVec.ofNat 32 n) b).toNat := by
  cases n <;> rfl

theorem crcFrom_eq (l : List Byte) (r : BitVec 32) : BitVec.ofNat 32 (crcFrom l r.toNat) = crc32cState r l := by
  induction l generalizing r with
  | nil => simp [crcFrom, crc32cState]
  | cons b t ih => rw [crcFrom_cons, BitVec.ofNat_toNat, BitVec.setWidth_eq, ih]; rfl

theorem crc_of_from (l : List Byte) (n : Nat) (h : crcFrom l 0xFFFFFFFF = n) :
    crc32c l = BitVec.ofNat 32 n ^^^ 0xFFFFFFFF#32 := by
  rw [crc32c, ← crcFrom_eq, ← h]; rfl

theorem image_cvA : cvA image = BitVec.ofNat 32 (u32 (imageOf image) 0x0F0) :=
  (crc_of_from _ 3090327633 (by decide +kernel)).trans (by decide +kernel)

theorem image_cvB : cvB image = BitVec.ofNat 32 (u32 (imageOf image) 0x0F4) :=
  (crc_of_from _ 1637465545 (by decide +kernel)).trans (by decide +kernel)

theorem image_verifies :
    verifyCopy ⟨4496, false, false, none, some (BitVec.ofNat 32 (u32 (imageOf image) 0x0F4))⟩ (imageOf image) = (0, 0) ∧
    verifyCopy ⟨4496, false, false, some (BitVec.ofNat 32 (u32 (imageOf image) 0x0F0)), none⟩ (imageOf image) = (0, 0) := by
  decide +kernel

theorem verify_staged (d : Desc) (s : State) (h : s.tableStores d = [.a, .b]) (p : s.split = false)
    (k : (s.cv.ch[3] : Cvw).katBad = false) (x : ∀ i, (s.store i).staging.bytes = image)
    (y : ∀ i, (s.store i).staging.stagedEnd = 4496) : verifyStaging d s = (0, 0, none) := by
  simp [verifyStaging, State.cvw3Value, cvBad, h, p, k, x, y, image_cvA, image_cvB, image_verifies]

theorem sigOk_sliceSig (mv : BitVec 16) : sigOk 2 (slice mv (sliceSig 2 (classSteps 2))) = true := by simp [sigOk, slice]

theorem sigOk_other (mv : BitVec 16) : sigOk 2 (slice mv (sliceSig 2 (classSteps 2) + 1)) = false := by
  simp [sigOk, slice]

/-! ## States that meet the statements' hypotheses -/

theorem witness_StepOnAnEmptyQueueEndsATick :
    (∃ (s : State), s.pending = []) ∧
    (∃ (s : State), s.nothingDue ∧ s.pending = []) :=
  ⟨⟨base, by decide +kernel⟩,
   ⟨base, ⟨rfl, (fun p => by cases p <;> decide +kernel), rfl, rfl, rfl⟩, by decide +kernel⟩⟩

theorem witness_CorrectedFaultIsOnlyCounted :
    ∃ (f : FaultRep) (s : State), f.cls = .corrected ∧ s.bad = [] :=
  ⟨rep .corrected, base, by decide +kernel⟩

theorem witness_RecordedFaultIsUncleared :
    ∃ (f : FaultRep), f.cls ≠ .corrected :=
  ⟨rep .fatal, by decide +kernel⟩

theorem witness_ContainedFaultIsRecorded :
    ∃ (f : FaultRep) (s : State), f.cls = .contained ∧ f.sticky = false ∧ s.bad = [] ∧ resourceOf f.block f.cause f.item =
        none ∧ s.ms.logBuf.length < 256 ∧ ((s.frOf f.block).insts.any (fun i => i.cause == f.cause && i.scope == f.scope &&
        i.item == f.item && i.cls == .contained)) = false :=
  ⟨rep .contained, base, by decide +kernel⟩

theorem witness_FatalFaultEntersHold :
    ∃ (f : FaultRep) (s : State), f.cls = .fatal ∧ s.bad = [] ∧ (s.dev = .start ∨ s.dev = .idle ∨ s.dev = .run) :=
  ⟨rep .fatal, base, by decide +kernel⟩

theorem witness_FaultRecordWrites :
    (∃ (s : State) (p : Side) (b : Block), s.reaches p b (.firstValidClear p b)) ∧
    (∃ (s : State) (p : Side) (b : Block) (c f : BitVec 16), s.reaches p b (.frQuietWrite p b (f ++ c)) ∧ (s.st.lc = .develop
        ∨ s.st.lc = .commission) ∧ 1 ≤ c.toNat ∧ c.toNat ≤ 60000 ∧ (f = 0 ∨ 100 ≤ f.toNat) ∧ f.toNat ≤ 60000) ∧
    (∃ (s : State) (p : Side) (b : Block) (v : BitVec 32), s.reaches p b (.frQuietWrite p b v) ∧ s.st.lc ≠ .develop ∧ s.st.lc
        ≠ .commission) ∧
    (∃ (s : State) (p : Side), s.reaches p .ev (.peakClr p)) ∧
    (∃ (s : State) (p : Side), s.reaches p .ev (.malfClr p)) ∧
    (∃ (s : State) (p : Side) (b : Block) (v : BitVec 32), s.inTurn (.firstValidClear p b) ∧ s.inTurn (.frQuietWrite p b v) ∧
        s.live p ∧ isolated b s = true) :=
  ⟨⟨base, .a, .ib, reaches_of _ _ _ _ rfl rfl (by unfold State.live; decide +kernel) (by decide +kernel)⟩,
   ⟨base, .a, .ib, 60000, 0, reaches_of _ _ _ _ rfl rfl (by unfold State.live; decide +kernel) (by decide +kernel),
       by decide +kernel⟩,
   ⟨base.modSt (fun x => { x with lc := .safeRun }), .b, .st, 0, reaches_of _ _ _ _ rfl rfl
       (by unfold State.live; decide +kernel) (by decide +kernel), by decide +kernel⟩,
   ⟨base, .b, reaches_of _ _ _ _ rfl rfl (by unfold State.live; decide +kernel) (by decide +kernel)⟩,
   ⟨base, .b, reaches_of _ _ _ _ rfl rfl (by unfold State.live; decide +kernel) (by decide +kernel)⟩,
   ⟨base.modPcr (fun x => { x with asserted := some .core }), .b, .sc, 0, inTurn_of _ _ rfl rfl, inTurn_of _ _ rfl rfl,
       by unfold State.live; decide +kernel⟩⟩

theorem witness_QuietPeriodEndsAFault :
    ∃ (s : State) (i : FaultInst) (q : Tick), (s.frOf .ib).insts = [i] ∧ i.cls = .contained ∧ i.conseq = none ∧ i.cause ≠ 1 ∧
        i.life = .quiet q ∧ 100000 * (s.frOf .ib).cq.toNat ≤ elapsed s.tb.now q ∧ s.bad = [] ∧ (s.frOf .ib).recovAt.length <
        7 ∧ s.ms.logBuf.length < 256 :=
  ⟨base.modRec .ib (fun r => { r with insts := [inst 3 0] }), inst 3 0, 0, by decide +kernel⟩

theorem witness_GeneratorNowRestartsThePeriod :
    ∃ (s : State) (p : Side) (g : Fin 16), s.reaches p .tb (.pgNow p g) ∧ 3 ≤ g.val :=
  ⟨base, .a, 3, reaches_of _ _ _ _ rfl rfl (by unfold State.live; decide +kernel) (by decide +kernel), by decide +kernel⟩

theorem witness_GeneratorsStartStopAndResume :
    (∃ (s : State) (p : Side) (m : BitVec 16), s.reaches p .tb (.pgGo p m)) ∧
    (∃ (s : State) (p : Side) (g : Fin 16) (en : Bool) (x : Pg), s.reaches p .tb (.pgEnable p g en) ∧ x = (s.tb.pg[g] :
        Pg).seen s.tb.now ∧ 3 ≤ g.val) :=
  ⟨⟨base, .a, 0xFFF8, reaches_of _ _ _ _ rfl rfl (by unfold State.live; decide +kernel) (by decide +kernel)⟩,
   ⟨base, .b, 15, true, Pg.seen base.tb.now base.tb.pg[(15 : Fin 16)], reaches_of _ _ _ _ rfl rfl
       (by unfold State.live; decide +kernel) (by decide +kernel), rfl, by decide +kernel⟩⟩

theorem witness_GeneratorReloadAppliesAtTheWrap :
    (∃ (s : State) (p : Side) (g : Fin 16) (v : BitVec 32), s.reaches p .tb (.pgReloadWrite p g v) ∧ 3 ≤ g.val ∧ v ≠ 0) ∧
    (∃ (s : State) (p : Side) (g : Fin 16), s.reaches p .tb (.pgReloadWrite p g 0) ∧ 3 ≤ g.val ∧ s.bad = [] ∧ (s.tb.pg[g] :
        Pg).due s.tb.now = false) ∧
    (∃ (s : State) (p : Side) (g : Fin 16) (v : BitVec 32) (en : Bool), s.reaches p .tb (.pgReloadWrite p g v) ∧ s.reaches p
        .tb (.pgNow p g) ∧ s.reaches p .tb (.pgEnable p g en) ∧ g.val < 3) ∧
    (∃ (s : State) (g : Fin 16), (s.tb.pg[g] : Pg).en = true ∧ (s.tb.pg[g] : Pg).reload.toNat + 1 ≤ elapsed s.tb.now
        (s.tb.pg[g] : Pg).base) ∧
    (∃ (s : State) (g : Fin 16), (s.tb.pg[g] : Pg).due s.tb.now = false) :=
  ⟨⟨base, .a, 3, 1, reaches_of _ _ _ _ rfl rfl (by unfold State.live; decide +kernel) (by decide +kernel), by decide +kernel⟩,
   ⟨base, .a, 15, reaches_of _ _ _ _ rfl rfl (by unfold State.live; decide +kernel) (by decide +kernel), by decide +kernel⟩,
   ⟨base, .a, 2, 1, true, reaches_of _ _ _ _ rfl rfl (by unfold State.live; decide +kernel) (by decide +kernel), reaches_of _
       _ _ _ rfl rfl (by unfold State.live; decide +kernel) (by decide +kernel), reaches_of _ _ _ _ rfl rfl
       (by unfold State.live; decide +kernel) (by decide +kernel), by decide +kernel⟩,
   ⟨base.modTb (fun t => { t with now := 1000000, pg := upd t.pg 2 (fun x => { x with en := true }) }), 2, by decide +kernel⟩,
   ⟨base, 15, by decide +kernel⟩⟩

theorem witness_CompareChannelsLoadArmAndMatch :
    (∃ (s : State) (p : Side) (n : Fin 32) (v : BitVec 32), s.inTurn (.cmpLoWrite p n v) ∧ s.live p ∧ isolated .tb s = false) ∧
    (∃ (s : State) (p : Side) (n : Fin 32) (v : BitVec 32), s.inTurn (.cmpHiWrite p n v) ∧ s.live p ∧ isolated .tb s = false) ∧
    (∃ (s : State) (p : Side) (n : Fin 32) (en : Bool), s.inTurn (.cmpEnable p n en) ∧ s.live p ∧ isolated .tb s = false) ∧
    (∃ (s : State) (n : Fin 32), (s.tb.cmp[n] : Cmp).en = true ∧ (s.tb.cmp[n] : Cmp).loadedAt ≠ s.tb.now ∧ (s.tb.cmp[n] :
        Cmp).value.toNat ≤ s.tb.now.toNat) ∧
    (∃ (s : State) (n : Fin 32), (s.tb.cmp[n] : Cmp).due s.tb.now = false) :=
  ⟨⟨base, .a, 31, 0, inTurn_of _ _ rfl rfl, by unfold State.live; decide +kernel⟩,
   ⟨base, .a, 31, 0, inTurn_of _ _ rfl rfl, by unfold State.live; decide +kernel⟩,
   ⟨base, .a, 31, true, inTurn_of _ _ rfl rfl, by unfold State.live; decide +kernel⟩,
   ⟨base.modCmp 0 (fun x => { x with en := true, value := base.tb.now }), 0, by decide +kernel⟩,
   ⟨base.modCmp 31 (fun x => { x with en := true, value := base.tb.now + 1 }), 31, by decide +kernel⟩⟩

theorem witness_CaptureQueueReadAndControl :
    (∃ (s : State) (p : Side) (c : Fin 16) (e : Word64) (q : List Word64), s.live p ∧ isolated .tb s = false ∧ (s.tb.cap[c] :
        Cap).queue = e :: q) ∧
    (∃ (s : State) (p : Side) (c : Fin 16), s.live p ∧ isolated .tb s = false ∧ (s.tb.cap[c] : Cap).queue = []) ∧
    (∃ (s : State) (p : Side) (c : Fin 16) (v : BitVec 32), s.reaches p .tb (.capCtlWrite p c v) ∧ (v.extractLsb' 0 8).toNat
        ≤ 0xB6 ∧ v.extractLsb' 10 2 ≠ 3 ∧ v.toNat < 4096) :=
  ⟨⟨base.modCap 15 (fun x => { x with queue := [7] }), .a, 15, 7, [], by unfold State.live; decide +kernel⟩,
   ⟨base, .a, 0, by unfold State.live; decide +kernel⟩,
   ⟨base, .a, 0, 0x9B6, reaches_of _ _ _ _ rfl rfl (by unfold State.live; decide +kernel) (by decide +kernel),
       by decide +kernel⟩⟩

theorem witness_CapturedEventIsTickAndLevel :
    (∃ (s : State) (c : Fin 16) (lv : Bool), s.pcr.clk.tb = true ∧ (s.tb.cap[c] : Cap).edge ≠ 0 ∧ (s.tb.cap[c] : Cap).setAt ≠
        some s.tb.now ∧ (s.tb.cap[c] : Cap).lastAt ≠ some s.tb.now ∧ captures (s.tb.cap[c] : Cap) lv s = true ∧ (s.tb.cap[c]
        : Cap).queue.length < (if s.capReadWaits c then 5 else 4)) ∧
    (∃ (s : State) (c : Fin 16) (lv : Bool), s.pcr.clk.tb = true ∧ (s.tb.cap[c] : Cap).edge ≠ 0 ∧ (s.tb.cap[c] : Cap).setAt ≠
        some s.tb.now ∧ (s.tb.cap[c] : Cap).lastAt ≠ some s.tb.now ∧ captures (s.tb.cap[c] : Cap) lv s = true ∧ 4 ≤
        (s.tb.cap[c] : Cap).queue.length ∧ s.capReadWaits c = false) :=
  ⟨⟨(base.modCap 0 (fun x => { x with src := 0x80, edge := 1, queue := [1, 2, 3] })).modTb (fun t =>
      { t with events := [(0x80, t.now)] }), 0, false, by decide +kernel⟩,
   ⟨(base.modCap 0 (fun x => { x with src := 0x80, edge := 1, queue := [1, 2, 3, 4] })).modTb (fun t =>
       { t with events := [(0x80, t.now)] }), 0, true, by decide +kernel⟩⟩

theorem witness_TimeBaseCheckAndCellExpiry :
    (∃ (s : State) (k : Int) (d : Int), s.pcr.clk.tb = true ∧ s.tb.now.toNat % 1000 = 0 ∧ s.tb.checkAt ≠ some s.tb.now ∧ d =
        (s.tb.chk + BitVec.ofInt 64 k - s.tb.now).toInt ∧ d.natAbs ≤ 2) ∧
    (∃ (s : State) (k : Int) (d : Int), s.pcr.clk.tb = true ∧ s.tb.now.toNat % 1000 = 0 ∧ s.tb.checkAt ≠ some s.tb.now ∧ d =
        (s.tb.chk + BitVec.ofInt 64 k - s.tb.now).toInt ∧ 2 < d.natAbs) ∧
    (∃ (s : State) (k : Int) (d : Int) (x y : BitVec 64), s.pcr.clk.tb = true ∧ s.tb.now.toNat % 1000 = 0 ∧ s.tb.checkAt ≠
        some s.tb.now ∧ d = (s.tb.chk + BitVec.ofInt 64 k - s.tb.now).toInt ∧ x ≠ y) ∧
    (∃ (s : State), s.pcr.clk.tb = true ∧ s.tb.now.toNat % 1000 = 20 ∧ s.tb.checkAt ≠ some (s.tb.now - 20)) ∧
    (∃ (s : State), s.tb.now.toNat % 1000 ≠ 0 ∧ s.tb.now.toNat % 1000 ≠ 20) ∧
    (∃ (s : State) (d : Side) (k : Fin 256) (at_ : Tick) (n : Nat),
        (match d with | .a => s.tb.master[k] | .b => s.tb.shadow[k]) = Cell.running at_ n ∧ at_.toNat ≤ s.tb.now.toNat) ∧
    (∃ (s : State) (d : Side) (k : Fin 256) (at_ : Tick) (n : Nat),
        (match d with | .a => s.tb.master[k] | .b => s.tb.shadow[k]) = Cell.running at_ n ∧ s.tb.now.toNat < at_.toNat) :=
  ⟨⟨base, -2, -2, by decide +kernel⟩,
   ⟨base, 3, 3, by decide +kernel⟩,
   ⟨base, 0, 0, 1, 2, by decide +kernel⟩,
   ⟨(base.modTb (fun t => { t with now := 1000000000020 })), by decide +kernel⟩,
   ⟨(base.modTb (fun t => { t with now := 1000000000021 })), by decide +kernel⟩,
   ⟨base.modTb (fun t => { t with master := vset t.master 255 (.running t.now 0) }), .a, 255, base.tb.now, 0,
       by decide +kernel⟩,
   ⟨base.modTb (fun t => { t with shadow := vset t.shadow 255 (.running (t.now + 1) 0) }), .b, 255, base.tb.now + 1, 0,
       by decide +kernel⟩⟩

theorem witness_SampleEdgeSealsOneSnapshot :
    ∃ (s : State), s.sampleDue = true :=
  ⟨base.modCore .a (fun x => { x with seq := .wait, closed := 1, closeAt := some (base.tb.now - 3) }), by decide +kernel⟩

theorem witness_LaunchSwapsBanksOrRecordsSnapCheck :
    (∃ (s : State) (n : Nat) (u : Tick), snapCheck n (snapWords .a (s.core .a).fill) = (s.core .a).fillCv ∧ (s.core .a).seq =
        .wait ∧ (s.core .a).sealed = some n ∧ n = (s.core .a).expect ∧ s.ev.sampleAt = some u ∧ 8 ≤ elapsed s.tb.now u ∧
        (s.split = true ∨ ((s.core .a).closed ≤ (s.core .b).closed ∧ s.ev.issuedA < s.ev.completedB + 24 ∧ s.gateB 0 =
        false)) ∧ 0 < (s.core .a).ranks ∧ s.st.ack = none ∧ (s.mayHalt = false ∨ (s.st.dbg.pendHalt = false ∧ ∀ k : Fin 4,
        (s.st.dbg.brks[k] : Brk).en = false)) ∧ (s.core .b).seq = .wait) ∧
    (∃ (s : State) (n : Nat) (u : Tick), snapCheck n (snapWords .b (s.core .b).fill) = (s.core .b).fillCv ∧ s.split = true ∧
        (s.core .b).seq = .wait ∧ (s.core .b).sealed = some n ∧ n = (s.core .b).expect ∧ s.ev.sampleAt = some u ∧ 8 ≤ elapsed
        s.tb.now u ∧ 0 < (s.core .b).ranks ∧ s.st.ack = none ∧ s.st.dbg.haltA = false ∧ s.st.dbg.queue = []) ∧
    (∃ (s : State) (n : Nat) (u : Tick), (s.core .a).seq = .wait ∧ (s.core .a).sealed = some n ∧ s.ev.sampleAt = some u ∧ 8 ≤
        elapsed s.tb.now u ∧ s.split = false ∧ (s.core .b).closed < (s.core .a).closed ∧ s.ev.waitSince = none) ∧
    (∃ (s : State), s.split = false ∧ (s.core .b).seq = .wait ∧ s.gateB 0 = false) ∧
    (∃ (s : State) (c : Side) (n : Nat) (u : Tick), (snapCheck n (snapWords c (s.core c).fill) ≠ (s.core c).fillCv ∨ n ≠
        (s.core c).expect) ∧ (s.core c).seq = .wait ∧ (s.core c).sealed = some n ∧ s.ev.sampleAt = some u ∧ 8 ≤ elapsed
        s.tb.now u ∧ (s.split = true ∨ (c = .a ∧ (s.core .a).closed ≤ (s.core .b).closed)) ∧ s.bad = [] ∧ (s.dev = .idle ∨
        s.dev = .run)) :=
  ⟨⟨(((base.modCore .a (fun x =>
      { x with seq := .wait, sealed := some 5, expect := 5, fill := [], fillCv := snapCheck 5 (snapWords .a []) })).modCore
      .b (fun x => { x with seq := .wait })).modEv (fun e => { e with sampleAt := some (base.tb.now - 8) })).modSt (fun x =>
      { x with lc := .safeRun }), 5, base.tb.now - 8, rfl, by decide +kernel⟩,
   ⟨((base.modCore .b (fun x =>
       { x with seq := .wait, sealed := some 5, expect := 5, fill := [], fillCv := snapCheck 5 (snapWords .b []) })).modEv
       (fun e => { e with sampleAt := some (base.tb.now - 8) })).modSt (fun x => { x with lc := .split }), 5, base.tb.now -
       8, rfl, by decide +kernel⟩,
   ⟨(base.modCore .a (fun x => { x with seq := .wait, sealed := some 5, closed := 1 })).modEv (fun e =>
       { e with sampleAt := some (base.tb.now - 8) }), 5, base.tb.now - 8, by decide +kernel⟩,
   ⟨base.modCore .b (fun x => { x with seq := .wait }), by decide +kernel⟩,
   ⟨(base.modCore .a (fun x =>
       { x with seq := .wait, sealed := some 5, expect := 5, fill := [], fillCv := snapCheck 5 (snapWords .a []) + 1 })).modEv (fun e => { e with sampleAt := some (base.tb.now - 8) }), .a, 5, base.tb.now - 8, .inl (ne_succ _).symm, by decide +kernel⟩⟩

theorem witness_RankCompleteWritesResults :
    (∃ (s : State) (tab : Table), (s.core .a).table = some tab ∧ (s.core .a).seq = .scan ∧ (s.core .a).issued = true ∧
        (runRank .a tab (s.core .a)).faults = [] ∧ (s.mayHalt = false ∨ ∀ w : Fin 2, (s.st.dbg.wps[w] : Wp).en = false) ∧
        s.st.dbg.step = false ∧ tab.ranks = (s.core .a).rank + 1) ∧
    (∃ (s : State) (tab : Table), (s.core .a).table = some tab ∧ (s.core .a).seq = .scan ∧ (s.core .a).issued = true ∧
        (runRank .a tab (s.core .a)).faults = [] ∧ (s.mayHalt = false ∨ ∀ w : Fin 2, (s.st.dbg.wps[w] : Wp).en = false) ∧
        s.st.dbg.step = false ∧ (s.core .a).rank + 1 < tab.ranks ∧ (s.split = true ∨ s.ev.issuedA < s.ev.completedB + 24) ∧
        (s.core .b).seq = .close ∧ (s.mayHalt = false ∨ (s.st.dbg.pendHalt = false ∧ ∀ k : Fin 4, (s.st.dbg.brks[k] : Brk).en
        = false))) ∧
    (∃ (s : State) (tab : Table), (s.core .b).table = some tab ∧ (s.core .b).seq = .scan ∧ (s.core .b).issued = true ∧
        (runRank .b tab (s.core .b)).faults = [] ∧ s.st.dbg.haltA = false ∧ tab.ranks = (s.core .b).rank + 1) ∧
    (∃ (s : State) (tab : Table) (c : Side), (s.core c).table = some tab ∧ (s.core c).seq = .scan ∧ (s.core c).issued = true
        ∧ (runRank c tab (s.core c)).faults = [] ∧ s.mayHalt = false ∧ s.st.dbg.step = false ∧ s.st.dbg.haltA = false ∧ s.bad
        = [] ∧ tab.ranks = (s.core c).rank + 1) ∧
    (∃ (s : State) (c : Side) (tab : Table), (s.core c).table = some tab ∧ (s.core c).seq = .scan ∧ (s.core c).issued = true
        ∧ s.bad = [] ∧ (s.dev = .idle ∨ s.dev = .run)) :=
  ⟨⟨(base.modCore .a (fun x => { x with seq := .scan, issued := true, table := some (tabOf 1) })).modSt (fun x =>
      { x with lc := .safeRun }), tabOf 1, by decide +kernel⟩,
   ⟨((base.modCore .a (fun x => { x with seq := .scan, issued := true, table := some (tabOf 2) })).modCore .b (fun x =>
       { x with seq := .close })).modSt (fun x => { x with lc := .safeRun }), tabOf 2, by decide +kernel⟩,
   ⟨(base.modCore .b (fun x => { x with seq := .scan, issued := true, table := some (tabOf 1) })).modSt (fun x =>
       { x with lc := .safeRun }), tabOf 1, by decide +kernel⟩,
   ⟨(base.modCore .a (fun x => { x with seq := .scan, issued := true, table := some (tabOf 1) })).modSt (fun x =>
       { x with lc := .safeRun }), tabOf 1, .a, by decide +kernel⟩,
   ⟨base.modCore .b (fun x => { x with seq := .scan, issued := true }), .b, tab, by decide +kernel⟩⟩

theorem witness_TokensAndScanLimits :
    (∃ (s : State), s.split = false ∧ ((s.core .b).seq = .close ∨ (s.core .b).seq = .halted ∨ ((s.core .b).seq = .scan ∧
        (s.core .b).issued = true) ∨ ((s.core .b).seq = .wait ∧ (s.core .b).sealed = none)) ∧ s.ev.tokensIn < s.ev.issuedA) ∧
    (∃ (s : State), s.split = false ∧ ((s.core .b).seq = .close ∨ (s.core .b).seq = .halted ∨ ((s.core .b).seq = .scan ∧
        (s.core .b).issued = true) ∨ ((s.core .b).seq = .wait ∧ (s.core .b).sealed = none)) ∧ s.ev.completedB < s.ev.issuedA
        ∧ ((s.core .a).seq = .wait ∨ (s.core .a).seq = .close ∨ (s.core .a).seq = .halted ∨ ((s.core .a).seq = .scan ∧
        (s.core .a).issued = true))) ∧
    (∃ (s : State), s.split = false ∧ ((s.core .b).seq = .close ∨ (s.core .b).seq = .halted ∨ ((s.core .b).seq = .scan ∧
        (s.core .b).issued = true) ∨ ((s.core .b).seq = .wait ∧ (s.core .b).sealed = none))) ∧
    (∃ (s : State), s.split = false ∧ (s.core .b).seq = .scan ∧ (s.core .b).issued = false ∧ (s.core .b).rank < (s.core
        .b).ranks ∧ s.st.dbg.haltA = false ∧ s.st.dbg.queue = [] ∧ s.ev.tokensIn < s.ev.issuedA ∧ (s.core .b).rank + 16 ≤
        s.ev.tokens + 1) ∧
    (∃ (s : State), s.split = false ∧ (s.core .a).seq = .scan ∧ (s.core .a).issued = false ∧ (s.core .a).rank < (s.core
        .a).ranks ∧ s.mayHalt = false ∧ s.ev.completedB < s.ev.issuedA ∧ s.ev.issuedA = s.ev.completedB + 24 ∧ (s.core
        .b).seq = .close) ∧
    (∃ (s : State), s.split = false ∧ (s.core .a).seq ≠ .stopped ∧ (s.core .b).seq ≠ .stopped ∧ s.bad = [] ∧ (s.dev = .idle ∨
        s.dev = .run)) ∧
    (∃ (s : State), s.split = false ∧ (s.core .a).seq ≠ .stopped ∧ (s.core .b).seq ≠ .stopped ∧ s.bad = [] ∧ (s.dev = .idle ∨
        s.dev = .run) ∧ s.ev.issuedA ≤ s.ev.tokensIn) ∧
    (∃ (s : State), s.split = false ∧ (s.core .a).seq ≠ .stopped ∧ (s.core .b).seq ≠ .stopped ∧ s.bad = [] ∧ (s.dev = .idle ∨
        s.dev = .run) ∧ s.ev.issuedA ≤ s.ev.completedB) ∧
    (∃ (s : State), (∃ u, s.ev.waitSince = some u ∧ 16 < elapsed s.tb.now u) ∧ s.bad = [] ∧ (s.dev = .idle ∨ s.dev = .run)) ∧
    (∃ (s : State), (∀ u, s.ev.waitSince = some u → elapsed s.tb.now u ≤ 16) ∧ s.bad = [] ∧ (s.dev = .idle ∨ s.dev = .run)) ∧
    (∃ (s : State) (c : Side) (tab : Table) (u : Tick), (s.core c).table = some tab ∧ (s.core c).timed = some u ∧ (s.core
        c).seq ≠ .stopped ∧ (s.core c).overRec = false ∧ tab.scanMax + 1 ≤ elapsed s.tb.now u ∧ s.bad = [] ∧ (s.dev = .idle ∨
        s.dev = .run)) ∧
    (∃ (s : State) (c : Side) (tab : Table) (u : Tick), (s.core c).table = some tab ∧ (s.core c).timed = some u ∧ (s.core
        c).seq ≠ .stopped ∧ (s.core c).overRec = false ∧ elapsed s.tb.now u ≤ tab.scanMax) :=
  ⟨⟨(base.modCore .b (fun x => { x with seq := .wait })).modEv (fun e => { e with issuedA := 1 }), by decide +kernel⟩,
   ⟨((base.modCore .b (fun x => { x with seq := .wait })).modCore .a (fun x => { x with seq := .wait })).modEv (fun e =>
       { e with issuedA := 1 }), by decide +kernel⟩,
   ⟨base.modCore .b (fun x => { x with seq := .close }), by decide +kernel⟩,
   ⟨(base.modCore .b (fun x => { x with seq := .scan, table := some (tabOf 1) })).modEv (fun e =>
       { e with issuedA := 16, tokens := 15, tokensIn := 15 }), by decide +kernel⟩,
   ⟨(((base.modCore .a (fun x => { x with seq := .scan, table := some (tabOf 1) })).modCore .b (fun x =>
       { x with seq := .close })).modEv (fun e =>
       { e with issuedA := 24, tokensIn := 24, waitSince := some (base.tb.now - 3) })).modSt (fun x =>
       { x with lc := .safeRun }), by decide +kernel⟩,
   ⟨(base.modCore .b (fun x => { x with seq := .wait })).modCore .a (fun x => { x with seq := .wait }), by decide +kernel⟩,
   ⟨(base.modCore .b (fun x => { x with seq := .wait })).modCore .a (fun x => { x with seq := .wait }), by decide +kernel⟩,
   ⟨(base.modCore .b (fun x => { x with seq := .wait })).modCore .a (fun x => { x with seq := .wait }), by decide +kernel⟩,
   ⟨base.modEv (fun e => { e with waitSince := some (base.tb.now - 17) }), ⟨base.tb.now - 17, by decide +kernel⟩,
       by decide +kernel⟩,
   ⟨base, (fun _ e => nomatch e), by decide +kernel⟩,
   ⟨base.modCore .b (fun x => { x with seq := .scan, timed := some (base.tb.now - 15) }), .b, tab, base.tb.now - 15,
       by decide +kernel⟩,
   ⟨base.modCore .b (fun x => { x with seq := .scan, timed := some (base.tb.now - 14) }), .b, tab, base.tb.now - 14,
       by decide +kernel⟩⟩

theorem witness_CloseEndsTheScan :
    (∃ (s : State) (c : Side) (tab : Table) (u : Tick), (s.core c).table = some tab ∧ (s.core c).seq = .close ∧ (s.core
        c).timed = some u ∧ (s.dev = .idle ∨ s.dev = .run) ∧ s.split = false ∧ (s.core c).overRec = false ∧ tab.scanMin ≤
        elapsed s.tb.now u ∧ elapsed s.tb.now u ≤ tab.scanMax ∧ s.ev.peakClr = false ∧ s.ev.malfClr = false ∧ s.pl.differed =
        false ∧ (c = .b → s.ev.launchHeld = false)) ∧
    (∃ (s : State) (n : Nat) (cmds : List (Nat × Nat)), (∀ p, (s.wport p).held = []) ∧ s.pending = [] ∧ s.pcr.clk.tb = true ∧
        s.wq.modeReq = none ∧ s.pcr.rstDue = none ∧ s.st.dbg.holdNext = false ∧ s.tb.posts = ⟨some (n, cmds), none⟩ ∧ (∀ e ∈
        cmds, e.2 ≤ 100000000)) :=
  ⟨⟨base.modCore .a (fun x => { x with seq := .close, timed := some (base.tb.now - 9) }), .a, tab, base.tb.now - 9,
      by decide +kernel⟩,
   ⟨base.modTb (fun t => { t with posts := ⟨some (1, [(255, 100000000), (7, 0)]), none⟩ }), 1, [(255, 100000000), (7, 0)],
       by intro j; cases j <;> decide +kernel, by decide +kernel⟩⟩

theorem witness_CloseStopsUncommandedLines :
    ∃ (s : State) (c : Side) (tab : Table) (u : Tick), (s.core c).table = some tab ∧ (s.core c).seq = .close ∧ (s.core
        c).timed = some u ∧ (s.dev = .idle ∨ s.dev = .run) ∧ s.split = false ∧ (s.core c).overRec = false ∧ tab.scanMin ≤
        elapsed s.tb.now u ∧ elapsed s.tb.now u ≤ tab.scanMax ∧ s.pl.differed = false ∧ (c = .b → s.ev.launchHeld = false) :=
  ⟨base.modCore .a (fun x => { x with seq := .close, timed := some (base.tb.now - 14) }), .a, tab, base.tb.now - 14,
      by decide +kernel⟩

theorem witness_KerfSignaturesAreCompared :
    (∃ (s : State) (h : Side) (m : Nat) (a b : Word64) (u : Tick), s.comparesSent = true ∧ s.sc.flight = [(h, .b, m, b)] ∧
        (s.sc.half.get h).heldA = [(m, a, u)] ∧ (s.sc.half.get h).heldB = [] ∧ (∀ v ∈ (s.sc.half.get h.other).verdicts, v.1 ≠
        m)) ∧
    (∃ (s : State) (h c : Side) (m : Nat) (sig hit : Word64), s.comparesSent = true ∧ s.sc.flight = [(h, c, m, sig)] ∧ hit ≠
        0) ∧
    (∃ (s : State) (h : Side) (m : Nat) (sig : Word64) (u : Tick), s.comparesNow = true ∧ ((s.sc.half.get h).heldA = [(m,
        sig, u)] ∨ (s.sc.half.get h).heldB = [(m, sig, u)]) ∧ s.kerfLimit ≤ elapsed s.tb.now u) :=
  ⟨⟨base.modSc (fun c =>
      { c with flight := [(.a, .b, 1, 5)], half := c.half.upd .a (fun y => { y with heldA := [(1, 6, 0)] }) }), .a, 1, 6, 5,
      0, by decide +kernel⟩,
   ⟨{ base.modSc (fun c => { c with flight := [(.a, .b, 1, 5)] }) with dev := .hold }, .a, .b, 1, 5, 1, by decide +kernel⟩,
   ⟨base.modSc (fun c => { c with half := c.half.upd .b (fun y => { y with heldB := [(1, 6, base.tb.now - 30)] }) }), .b, 1,
       6, base.tb.now - 30, by decide +kernel⟩⟩

theorem witness_CopyCheckFindsBadPairs :
    (∃ (s : State) (d : Side), s.pcr.clk.tb = true ∧ s.sc.passAt.get d ≠ some s.tb.now ∧ s.tb.now.toNat % 512 = 0) ∧
    (∃ (s : State) (d : Side) (b : Fin 14), s.pcr.clk.tb = true ∧ s.sc.passAt.get d ≠ some s.tb.now ∧ s.checksCopy d b = true
        ∧ b ≠ Block.sc.idx) ∧
    (∃ (s : State), s.tb.now.toNat % 512 ≠ 0) :=
  ⟨⟨base, .a, by decide +kernel⟩,
   ⟨base, .b, 13, by decide +kernel⟩,
   ⟨(base.modTb (fun t => { t with now := 1000000000001 })), by decide +kernel⟩⟩

theorem witness_ReceiversOpenAndClose :
    (∃ (s : State) (k : Fin 144) (d : Side) (u : Tick), ((s.os.out[k] : Output).recv.get d).stopSince = some u ∧ (if 128 ≤
        k.val then 50 else 1) ≤ elapsed s.tb.now u) ∧
    (∃ (s : State) (k : Fin 144) (d : Side) (u : Tick), ((s.os.out[k] : Output).recv.get d).toggledAt = some u ∧ 340 ≤
        elapsed s.tb.now u) ∧
    (∃ (s : State) (k : Fin 144) (d : Side) (u : Tick), 4 ≤ ((s.os.out[k] : Output).recv.get d).toggles ∧ ((s.os.out[k] :
        Output).recv.get d).closed = false ∧ ((s.os.out[k] : Output).recv.get d).stopSince = none ∧ ((s.os.out[k] :
        Output).recv.get d).fourthAt = some u ∧ 30 ≤ elapsed s.tb.now u) ∧
    (∃ (s : State) (k : Fin 144) (d : Side) (u : Tick), 4 ≤ ((s.os.out[k] : Output).recv.get d).toggles ∧ ((s.os.out[k] :
        Output).recv.get d).closed = false ∧ ((s.os.out[k] : Output).recv.get d).stopSince = none ∧ ((s.os.out[k] :
        Output).recv.get d).fourthAt = some u ∧ elapsed s.tb.now u < 30) :=
  ⟨⟨base, 0, .a, 0, by decide +kernel⟩,
   ⟨base.modOut 143 (fun x => { x with recv := x.recv.upd .b (fun r => { r with toggledAt := some (base.tb.now - 340) }) }),
       143, .b, base.tb.now - 340, by decide +kernel⟩,
   ⟨base.modOut 1 (fun x =>
       { x with recv := x.recv.upd .a (fun r => { r with stopSince := none, toggles := 4, fourthAt := some (base.tb.now - 30) }) }), 1, .a, base.tb.now - 30, by decide +kernel⟩,
   ⟨base.modOut 1 (fun x =>
       { x with recv := x.recv.upd .a (fun r => { r with stopSince := none, toggles := 4, fourthAt := some (base.tb.now - 29) }) }), 1, .a, base.tb.now - 29, by decide +kernel⟩⟩

theorem witness_OutputFaultsAreRecorded :
    (∃ (s : State) (k : Fin 144) (d : Side) (u : Tick), s.switchOn k d = true ∧ ((s.os.out[k] : Output).recv.get d).offSince
        = some u ∧ 100 < elapsed s.tb.now u ∧ s.bad = [] ∧ s.dev = .run) ∧
    (∃ (s : State) (k : Fin 144) (f e : Tick), k.val < 128 ∧ s.outputOn k = true ∧ (s.os.out[k] : Output).energisedAt = some
        e ∧ elapsed s.tb.now f ≤ elapsed s.tb.now e ∧ 10000 ≤ elapsed s.tb.now f) ∧
    (∃ (s : State) (k : Fin 144) (iH iL : Nat) (f : Tick), 128 ≤ k.val ∧ (s.outputCfg k).enable = true ∧ 1000 ≤ elapsed
        s.tb.now f ∧ ((s.outputCfg k).iMax < iL ∧ (s.outputCfg k).load ≠ 2 ∨ iL + 50 < iH ∨ iH + 50 < iL)) ∧
    (∃ (s : State) (k : Fin 144) (iL : Nat) (f e : Tick), 128 ≤ k.val ∧ s.outputOn k = true ∧ (s.os.out[k] :
        Output).energisedAt = some e ∧ elapsed s.tb.now f ≤ elapsed s.tb.now e ∧ iL < (s.outputCfg k).iMin ∧ (if (s.outputCfg
        k).load = 0 then 100000 else if (s.outputCfg k).load = 1 then 1000000 else 5000000) ≤ elapsed s.tb.now f) ∧
    (∃ (s : State) (k : Fin 144) (e : Tick), s.outputOn k = true ∧ (s.os.out[k] : Output).energisedAt = some e ∧ 2050 ≤
        elapsed s.tb.now e) ∧
    (∃ (hi lim : Bool), (hi = true ∨ lim = true)) ∧
    (∃ (s : State) (q : Fin 4) (m : Nat) (f : Tick), s.configured = true ∧ 2000 < m ∧ 100000 ≤ elapsed s.tb.now f ∧
        s.uncleared .os 7 q.val = false) ∧
    (∃ (s : State) (f : Tick), s.pcr.clk.tb = true ∧ 100000 ≤ elapsed s.tb.now f) :=
  ⟨⟨base.modOut 0 (fun x =>
      { x with recv := x.recv.upd .b (fun r => { r with closed := true, offSince := some (base.tb.now - 101) }) }), 0, .b,
      base.tb.now - 101, by decide +kernel⟩,
   ⟨base.modOut 127 (fun x =>
       { x with recv := ⟨{ x.recv.a with closed := true }, { x.recv.b with closed := true }⟩, energisedAt := some 0 }), 127,
       base.tb.now - 10000, 0, by decide +kernel⟩,
   ⟨base, 128, 0, 51, base.tb.now - 1000, by decide +kernel⟩,
   ⟨base.modOut 128 (fun x =>
       { x with recv := ⟨{ x.recv.a with closed := true }, { x.recv.b with closed := true }⟩, energisedAt := some 0 }), 128,
       0, base.tb.now - 100000, 0, by decide +kernel⟩,
   ⟨base.modOut 0 (fun x =>
       { x with recv := ⟨{ x.recv.a with closed := true }, { x.recv.b with closed := true }⟩, energisedAt := some (base.tb.now - 2050) }), 0, base.tb.now - 2050, by decide +kernel⟩,
   ⟨true, false, by decide +kernel⟩,
   ⟨base, 3, 2001, base.tb.now - 100000, by decide +kernel⟩,
   ⟨base, base.tb.now - 100000, by decide +kernel⟩⟩

theorem witness_DarkTestsRun :
    (∃ (s : State) (k : Fin 144), (s.outputCfg k).enable = true ∧ (s.outputCfg k).dark ≠ 0 ∧ (s.os.out[k] :
        Output).energisedAt.isSome = true ∧ s.dev = .run ∧ 100000 * (s.outputCfg k).darkInt ≤ elapsed s.tb.now (s.os.out[k] :
        Output).darkFrom ∧ (s.os.out[k] : Output).due = none) ∧
    (∃ (s : State) (q : Fin 4) (k : Fin 144), s.dev = .run ∧ ((s.os.q[q] : OsQuarter).win = none ∨ ∃ w, (s.os.q[q] :
        OsQuarter).win = some w ∧ w.verdict.isSome = true ∧ w.len ≤ elapsed s.tb.now w.openAt) ∧ ((s.os.q[q] :
        OsQuarter).winEnd = none ∨ ∃ u, (s.os.q[q] : OsQuarter).winEnd = some u ∧ 5000 ≤ elapsed s.tb.now u) ∧ s.nextDark q =
        some k) ∧
    (∃ (s : State) (q : Fin 4) (w : DarkWin) (hi lo hLow : Bool) (iL : Nat) (ok : Bool), ok = darkPasses (isAux w.out.val)
        w.side hi lo hLow iL ∧ (s.os.q[q] : OsQuarter).win = some w ∧ w.verdict = none ∧ w.len ≤ elapsed s.tb.now w.openAt +
        1) ∧
    (∃ (s : State) (k : Fin 144) (u v : Tick), (s.os.out[k] : Output).due = some u ∧ (s.os.out[k] : Output).deferred = some v
        ∧ (s.os.out[k] : Output).forced = false ∧ 6000000000 ≤ elapsed s.tb.now v) :=
  ⟨⟨base.modOut 5 (fun x => { x with energisedAt := some 0 }), 5, by decide +kernel⟩,
   ⟨base.modOut 5 (fun x => { x with due := some 0 }), 0, 5, by decide +kernel⟩,
   ⟨base.modOs (fun o => { o with q := upd o.q 0 (fun y => { y with win := some ⟨5, .a, base.tb.now - 99, 100, none⟩ }) }),
       0, ⟨5, .a, base.tb.now - 99, 100, none⟩, false, false, false, 0, darkPasses false .a false false false 0, rfl,
       by decide +kernel⟩,
   ⟨base.modOut 5 (fun x => { x with due := some 0, deferred := some (base.tb.now - 6000000000) }), 5, 0, base.tb.now -
       6000000000, by decide +kernel⟩⟩

theorem witness_StaticChecksJudgeReadBacks :
    (∃ (s : State) (q : Fin 4), s.quarterOff q 5000 = true) ∧
    (∃ (s : State) (k : Fin 144) (r : OutSense), s.staticOn k = true ∧ k.val < 128 ∧ s.outFault 3 k = false ∧ r.hi = true) ∧
    (∃ (s : State) (k : Fin 144) (r : OutSense), s.staticOn k = true ∧ k.val < 128 ∧ r.lo = false) ∧
    (∃ (s : State) (k : Fin 144) (r : OutSense), s.staticOn k = true ∧ 128 ≤ k.val ∧ (20 < r.current ∨ 20 < r.currentH)) ∧
    (∃ (s : State) (k : Fin 144) (r : OutSense), (s.os.q[quarterOfOutput k.val] : OsQuarter).static = false ∧ r.lo = false) :=
  ⟨⟨base, 1, by decide +kernel⟩,
   ⟨base.modOs (fun o => { o with q := o.q.map (fun y => { y with static := true }) }), 127, ⟨true, false, true, 0, 0⟩,
       by decide +kernel⟩,
   ⟨base.modOs (fun o => { o with q := o.q.map (fun y => { y with static := true }) }), 0, ⟨false, false, false, 0, 0⟩,
       by decide +kernel⟩,
   ⟨base.modOs (fun o => { o with q := o.q.map (fun y => { y with static := true }) }), 143, ⟨false, false, true, 0, 21⟩,
       by decide +kernel⟩,
   ⟨base, 143, ⟨true, false, false, 0, 0⟩, by decide +kernel⟩⟩

theorem witness_InputsFilterAndBridge :
    (∃ (s : State) (i : Fin 128) (h : Bool), (s.ib.inp[i] : Input).on = false ∧ (s.ib.inp[i] : Input).live ≠ h) ∧
    (∃ (s : State) (i : Fin 128), (s.ib.inp[i] : Input).on = true ∧ (s.ib.inp[i] : Input).live = true ∧ (s.ib.inp[i] :
        Input).onAt ≠ some s.tb.now ∧ (s.ib.inp[i] : Input).onAt ≠ some (s.tb.now - 1) ∧ (s.inputCfg i).mode = 3 ∧
        (s.ib.inp[i] : Input).gapFrom = none) ∧
    (∃ (s : State) (i : Fin 128) (u : Tick), (s.ib.inp[i] : Input).runs s.tb.now = true ∧ (s.ib.inp[i] : Input).diffSince =
        some u ∧ (s.ib.inp[i] : Input).step2 s.tb.now ≠ (s.ib.inp[i] : Input).filt ∧ s.filterTicks i = elapsed s.tb.now u + 1) ∧
    (∃ (s : State) (i : Fin 128) (u : Tick), (s.ib.inp[i] : Input).runs s.tb.now = true ∧ (s.ib.inp[i] : Input).diffSince =
        some u ∧ (s.ib.inp[i] : Input).step2 s.tb.now ≠ (s.ib.inp[i] : Input).filt ∧ elapsed s.tb.now u + 1 < s.filterTicks i) ∧
    (∃ (s : State) (i : Fin 128) (u : Tick), (s.ib.inp[i] : Input).bridge = some u ∧ 39999 ≤ elapsed s.tb.now u ∧
        (s.ib.inp[i] : Input).live = false) ∧
    (∃ (s : State) (i : Fin 128) (u : Tick), (s.ib.inp[i] : Input).gapFrom = some u ∧ 100000 ≤ elapsed s.tb.now u) ∧
    (∃ (s : State) (i : Fin 128) (u : Tick), (s.ib.inp[i] : Input).tpSeen = some u ∧ 10000000 ≤ elapsed s.tb.now u) :=
  ⟨⟨base, 0, true, by decide +kernel⟩,
   ⟨base.modInput 127 (fun x => { x with on := true, live := true }), 127, by decide +kernel⟩,
   ⟨base.modInput 3 (fun x => { x with on := true, live := true, diffSince := some (base.tb.now - 99) }), 3, base.tb.now -
       99, by decide +kernel⟩,
   ⟨base.modInput 3 (fun x => { x with on := true, live := true, diffSince := some (base.tb.now - 98) }), 3, base.tb.now -
       98, by decide +kernel⟩,
   ⟨base.modInput 3 (fun x => { x with bridge := some (base.tb.now - 39999) }), 3, base.tb.now - 39999, by decide +kernel⟩,
   ⟨base.modInput 3 (fun x => { x with gapFrom := some (base.tb.now - 100000) }), 3, base.tb.now - 100000, by decide +kernel⟩,
   ⟨base.modInput 3 (fun x => { x with tpSeen := some (base.tb.now - 10000000) }), 3, base.tb.now - 10000000,
       by decide +kernel⟩⟩

theorem witness_InputFaultsInvalidateTheInput :
    (∃ (s : State) (i : Fin 128), (s.ib.inp[i] : Input).on = true ∧ (s.ib.inp[i] : Input).runs s.tb.now = true ∧ (s.ib.inp[i]
        : Input).zone = .band ∧ s.causePresent .ib 3 i.val = false ∧ 10000 + s.filterTicks i ≤ (s.ib.inp[i] : Input).bandRun
        s.tb.now) ∧
    (∃ (s : State) (i : Fin 128), (s.ib.inp[i] : Input).on = true ∧ (s.ib.inp[i] : Input).runs s.tb.now = true ∧ (s.ib.inp[i]
        : Input).zone = .band ∧ s.causePresent .ib 3 i.val = false ∧ (s.ib.inp[i] : Input).bandRun s.tb.now < 10000 +
        s.filterTicks i) ∧
    (∃ (s : State) (i : Fin 128), (s.ib.inp[i] : Input).on = true ∧ (s.ib.inp[i] : Input).ranFor 10 s.tb.now = true ∧
        (s.ib.inp[i] : Input).zone = .over ∧ 9 ≤ elapsed s.tb.now (s.ib.inp[i] : Input).zoneAt ∧ s.causePresent .ib 4 i.val =
        false) ∧
    (∃ (s : State) (i : Fin 128), (s.ib.inp[i] : Input).on = true ∧ (s.ib.inp[i] : Input).runs s.tb.now = true ∧ (s.ib.inp[i]
        : Input).zone ≠ .band ∧ (s.ib.inp[i] : Input).live ≠ (s.ib.inp[i] : Input).chk ∧ 99 ≤ elapsed s.tb.now (s.ib.inp[i] :
        Input).cmpAt ∧ 99 ≤ elapsed s.tb.now (s.ib.inp[i] : Input).joinAt ∧ 99 ≤ elapsed s.tb.now (s.ib.inp[i] :
        Input).bandEnd ∧ s.thrUnder ≠ some i ∧ (s.ib.inp[i] : Input).disDone = false) ∧
    (∃ (s : State) (i : Fin 128) (u : Tick), (s.ib.inp[i] : Input).handover = some u ∧ 2000 ≤ elapsed s.tb.now u) ∧
    (∃ (s : State) (i : Fin 128) (u : Tick), (s.ib.inp[i] : Input).handover = some u ∧ (s.ib.inp[i] : Input).live =
        (s.ib.inp[i] : Input).chk ∧ 99 ≤ elapsed s.tb.now (s.ib.inp[i] : Input).cmpAt ∧ 99 ≤ elapsed s.tb.now (s.ib.inp[i] :
        Input).joinAt) ∧
    (∃ (s : State) (i : Fin 128) (u : Tick), (s.ib.inp[i] : Input).handover = some u ∧ ((s.ib.inp[i] : Input).live ≠
        (s.ib.inp[i] : Input).chk ∨ elapsed s.tb.now (s.ib.inp[i] : Input).cmpAt < 99)) :=
  ⟨⟨base.modInput 3 (fun x => { x with on := true, zone := .band, bandFrom := some (base.tb.now - 10100) }), 3,
      by decide +kernel⟩,
   ⟨base.modInput 3 (fun x => { x with on := true, zone := .band, bandFrom := some (base.tb.now - 10099) }), 3,
       by decide +kernel⟩,
   ⟨base.modInput 3 (fun x => { x with on := true, zone := .over, zoneAt := base.tb.now - 9 }), 3, by decide +kernel⟩,
   ⟨base.modInput 3 (fun x => { x with on := true, zone := .high, live := true }), 3, by decide +kernel⟩,
   ⟨base.modInput 3 (fun x => { x with handover := some (base.tb.now - 2000) }), 3, base.tb.now - 2000, by decide +kernel⟩,
   ⟨base.modInput 3 (fun x => { x with handover := some (base.tb.now - 200), cmpAt := base.tb.now - 99 }), 3, base.tb.now -
       200, by decide +kernel⟩,
   ⟨base.modInput 3 (fun x => { x with handover := some (base.tb.now - 200), cmpAt := base.tb.now - 98 }), 3, base.tb.now -
       200, by decide +kernel⟩⟩

theorem witness_PulseSourcesDipAndRetry :
    (∃ (s : State) (u : Tick), s.ps.switchedAt = some u ∧ s.ps.frameAt = none ∧ 100000 ≤ elapsed s.tb.now u) ∧
    (∃ (s : State) (k : Fin 32) (d : Fin 8) (a w : Nat), windowDue s (s.strumCfg k) d.val = some (a, w) ∧ (s.ps.src[k] :
        Source).on = true ∧ (s.ps.src[k] : Source).win = none) ∧
    (∃ (s : State) (k : Fin 32) (w : DipWin), (s.ps.src[k] : Source).win = some w ∧ (s.ps.src[k] : Source).inOff = true ∧
        elapsed w.offEnd w.openAt ≤ elapsed s.tb.now w.openAt) ∧
    (∃ (s : State) (k : Fin 32) (w : DipWin), (s.ps.src[k] : Source).win = some w ∧ elapsed w.closeAt w.openAt ≤ elapsed
        s.tb.now w.openAt) ∧
    (∃ (s : State) (k : Fin 32) (f : Tick), (s.ps.src[k] : Source).on = true ∧ (s.ps.src[k] : Source).offSince = none ∧
        (s.ps.src[k] : Source).offPart s.tb.now = false ∧ elapsed s.tb.now f ≤ elapsed s.tb.now (s.ps.src[k] : Source).onAt ∧
        10000 ≤ (s.ps.src[k] : Source).overRun s.tb.now f) ∧
    (∃ (s : State) (k : Fin 32) (f : Tick), (s.ps.src[k] : Source).on = true ∧ (s.ps.src[k] : Source).offSince = none ∧
        (s.ps.src[k] : Source).offPart s.tb.now = false ∧ elapsed s.tb.now f ≤ elapsed s.tb.now (s.ps.src[k] : Source).onAt ∧
        (s.ps.src[k] : Source).overRun s.tb.now f < 10000) ∧
    (∃ (s : State) (k : Fin 32) (u : Tick), (s.ps.src[k] : Source).offSince = some u ∧ 10000000 ≤ elapsed s.tb.now u) :=
  ⟨⟨base.modPs (fun x => { x with switchedAt := some (base.tb.now - 100000) }), base.tb.now - 100000, by decide +kernel⟩,
   ⟨(base.modSource 0 (fun x => { x with on := true })).modPs (fun x => { x with frameAt := some (base.tb.now - 1000) }), 0,
       0, 10, 100, by decide +kernel⟩,
   ⟨base.modSource 31 (fun x => { x with inOff := true, win := some ⟨0, base.tb.now - 100, base.tb.now - 50, base.tb.now⟩ }),
       31, ⟨0, base.tb.now - 100, base.tb.now - 50, base.tb.now⟩, by decide +kernel⟩,
   ⟨base.modSource 31 (fun x => { x with win := some ⟨0, base.tb.now - 100, base.tb.now - 50, base.tb.now⟩ }), 31, ⟨0,
       base.tb.now - 100, base.tb.now - 50, base.tb.now⟩, by decide +kernel⟩,
   ⟨base.modSource 1 (fun x => { x with on := true }), 1, base.tb.now - 10000, by decide +kernel⟩,
   ⟨base.modSource 1 (fun x => { x with on := true }), 1, base.tb.now - 9999, by decide +kernel⟩,
   ⟨base.modSource 1 (fun x => { x with on := true, offSince := some (base.tb.now - 10000000) }), 1, base.tb.now - 10000000,
       by decide +kernel⟩⟩

theorem witness_EncoderEdgesAreCounted :
    (∃ (s : State) (a : Fin 64) (p : Fin 2) (q : Fin 4), (s.af.ax[a] : Axis).entry.mode ≠ 0 ∧ (s.path a p).started = true ∧
        (s.path a p).held = false ∧ ((q.val + 4 - (s.path a p).quad.val) % 4 = 1 ∨ (q.val + 4 - (s.path a p).quad.val) % 4 =
        3)) ∧
    (∃ (s : State) (a : Fin 64) (p : Fin 2) (q : Fin 4), (s.af.ax[a] : Axis).entry.mode ≠ 0 ∧ (s.path a p).started = true ∧
        (s.path a p).held = false ∧ (q.val + 4 - (s.path a p).quad.val) % 4 = 2) ∧
    (∃ (s : State) (a : Fin 64) (p : Fin 2) (q : Fin 4), (s.af.ax[a] : Axis).entry.mode ≠ 0 ∧ (s.path a p).started = true ∧
        (s.path a p).held = false ∧ q = (s.path a p).quad) ∧
    (∃ (s : State) (a : Fin 64) (p : Fin 2), ((s.af.ax[a] : Axis).entry.mode = 0 ∨ (s.path a p).started = false ∨ (s.path a
        p).held = true)) :=
  ⟨⟨(base.modAxis 63 (fun x => { x with cfg := some { (default : AxisCfg) with mode := 2 } })).modPath 63 1 (fun x =>
      { x with started := true }), 63, 1, 1, by decide +kernel⟩,
   ⟨(base.modAxis 63 (fun x => { x with cfg := some { (default : AxisCfg) with mode := 2 } })).modPath 63 1 (fun x =>
       { x with started := true }), 63, 1, 2, by decide +kernel⟩,
   ⟨(base.modAxis 63 (fun x => { x with cfg := some { (default : AxisCfg) with mode := 2 } })).modPath 63 1 (fun x =>
       { x with started := true }), 63, 1, 0, by decide +kernel⟩,
   ⟨base, 0, 0, by decide +kernel⟩⟩

theorem witness_MeasurementLatchesCounters :
    (∃ (s : State), s.pcr.clk.tb = true ∧ s.tb.now.toNat % 320 = 0) ∧
    (∃ (s : State), (s.pcr.clk.tb = false ∨ s.tb.now.toNat % 320 ≠ 0)) ∧
    (∃ (s : State) (q : Fin 4), (s.af.q[q] : AfQuarter).fresh = true ∧ 290 ≤ elapsed s.tb.now (s.af.q[q] : AfQuarter).measAt) :=
  ⟨⟨base, by decide +kernel⟩,
   ⟨(base.modTb (fun t => { t with now := 1000000000001 })), by decide +kernel⟩,
   ⟨base.modAf (fun x => { x with q := upd x.q 1 (fun y => { y with fresh := true }) }), 1, by decide +kernel⟩⟩

theorem witness_AxisFaultsAndCalibration :
    (∃ (s : State) (a : Fin 64), (s.af.ax[a] : Axis).entry.mode ≠ 0 ∧ s.afPresent 2 4 a.val = false) ∧
    (∃ (s : State) (a : Fin 64), s.afPresent 2 4 a.val = true) ∧
    (∃ (s : State) (q : Fin 4), s.dev ≠ .start ∧ s.configured = true ∧ 960 ≤ elapsed s.tb.now (s.af.q[q] : AfQuarter).measAt
        ∧ s.afPresent 1 1 q.val = false) ∧
    (∃ (s : State) (q : Fin 4) (x y z w : Int), s.configured = true ∧ (s.af.q[q] : AfQuarter).pass = none ∧ 2000000 ≤ elapsed
        s.tb.now (s.af.q[q] : AfQuarter).passAt ∧ x.natAbs ≤ 100 ∧ y.natAbs ≤ 100 ∧ z.natAbs ≤ 60 ∧ w.natAbs ≤ 60) ∧
    (∃ (s : State) (q : Fin 4) (p : CalPass) (k : Fin 17), (s.af.q[q] : AfQuarter).pass = some p ∧ p.good = true ∧ k.val =
        p.pair ∧ p.agree < 8) ∧
    (∃ (s : State) (q : Fin 4) (p : CalPass) (k : Fin 17), (s.af.q[q] : AfQuarter).pass = some p ∧ p.good = true ∧ k.val =
        p.pair ∧ 8 ≤ p.agree ∧ p.taken = false) ∧
    (∃ (s : State) (q : Fin 4) (p : CalPass) (k : Fin 17), (s.af.q[q] : AfQuarter).pass = some p ∧ p.good = true ∧ k.val =
        p.pair ∧ 8 ≤ p.agree ∧ p.taken = true) ∧
    (∃ (s : State) (q : Fin 4) (p : CalPass) (a : Fin 64), (s.af.q[q] : AfQuarter).pass = some p ∧ pairAxis q p.pair = some a
        ∧ (s.af.ax[a] : Axis).entry.mode ≠ 0 ∧ 64 ≤ p.instants ∧ p.agree < 8) ∧
    (∃ (s : State) (q : Fin 4) (p : CalPass) (a : Fin 64), (s.af.q[q] : AfQuarter).pass = some p ∧ pairAxis q p.pair = some a
        ∧ (s.af.ax[a] : Axis).entry.mode ≠ 0 ∧ p.instants < 64) :=
  ⟨⟨(base.modAxis 63 (fun x => { x with cfg := some { (default : AxisCfg) with mode := 2 } })), 63, by decide +kernel⟩,
   ⟨base.modRec .af (fun r => { r with insts := [{ inst 2 63 with scope := 4, life := .present }] }), 63, by decide +kernel⟩,
   ⟨base, 3, by decide +kernel⟩,
   ⟨base, 3, 100, -100, 60, -60, by decide +kernel⟩,
   ⟨base.modAf (fun x => { x with q := upd x.q 3 (fun y => { y with pass := some ⟨15, false, ⟨1, 2, 3, 4⟩, true, 7, 0⟩ }) }),
       3, ⟨15, false, ⟨1, 2, 3, 4⟩, true, 7, 0⟩, 15, by decide +kernel⟩,
   ⟨base.modAf (fun x => { x with q := upd x.q 3 (fun y => { y with pass := some ⟨15, false, ⟨1, 2, 3, 4⟩, true, 8, 0⟩ }) }),
       3, ⟨15, false, ⟨1, 2, 3, 4⟩, true, 8, 0⟩, 15, by decide +kernel⟩,
   ⟨base.modAf (fun x => { x with q := upd x.q 3 (fun y => { y with pass := some ⟨15, true, ⟨1, 2, 3, 4⟩, true, 8, 0⟩ }) }),
       3, ⟨15, true, ⟨1, 2, 3, 4⟩, true, 8, 0⟩, 15, by decide +kernel⟩,
   ⟨(base.modAxis 63 (fun x => { x with cfg := some { (default : AxisCfg) with mode := 2 } })).modAf (fun x =>
       { x with q := upd x.q 3 (fun y => { y with pass := some ⟨15, true, ⟨1, 2, 3, 4⟩, true, 7, 64⟩ }) }), 3, ⟨15, true, ⟨1,
       2, 3, 4⟩, true, 7, 64⟩, 63, by decide +kernel⟩,
   ⟨(base.modAxis 63 (fun x => { x with cfg := some { (default : AxisCfg) with mode := 2 } })).modAf (fun x =>
       { x with q := upd x.q 3 (fun y => { y with pass := some ⟨15, true, ⟨1, 2, 3, 4⟩, true, 7, 63⟩ }) }), 3, ⟨15, true, ⟨1,
       2, 3, 4⟩, true, 7, 63⟩, 63, by decide +kernel⟩⟩

theorem witness_LinkStatesFollowSignalAndTime :
    (∃ (s : State) (n : Fin 4), (s.pl.port[n] : PlPort).st = .down ∧ (s.pl.port[n] : PlPort).aligned = false) ∧
    (∃ (s : State) (n : Fin 4), ((s.pl.port[n] : PlPort).st = .align ∨ (s.pl.port[n] : PlPort).st = .tune ∨ (s.pl.port[n] :
        PlPort).st = .check ∨ (s.pl.port[n] : PlPort).st = .rejected)) ∧
    (∃ (s : State) (n : Fin 4), (s.pl.port[n] : PlPort).st = .align) ∧
    (∃ (s : State) (n : Fin 4), (s.pl.port[n] : PlPort).st = .tune) ∧
    (∃ (s : State) (n : Fin 4), (s.pl.port[n] : PlPort).st = .lost ∧ 100000 ≤ elapsed s.tb.now (s.pl.port[n] : PlPort).since
        ∧ (s.pl.port[n] : PlPort).aligned = false) ∧
    (∃ (s : State) (n : Fin 4) (u : Tick), (s.pl.port[n] : PlPort).st = .up ∧ (s.pl.port[n] : PlPort).rxAt = some u ∧ 100 *
        (s.partner n).wdog * (s.partner n).cycle ≤ elapsed s.tb.now u ∧ (s.pl.port[n] : PlPort).win = none ∧ (s.pl.port[n] :
        PlPort).sends = [] ∧ s.frameDue n = false ∧ s.detachDue n = false ∧ s.bad = []) ∧
    (∃ (s : State) (n : Fin 4) (u : Tick) (k : Nat), (s.pl.port[n] : PlPort).win = some (u, k) ∧ k ≤ elapsed s.tb.now u) :=
  ⟨⟨base.modPlPort 0 (fun x => { x with st := .down }), 0, by decide +kernel⟩,
   ⟨base.modPlPort 0 (fun x => { x with st := .check }), 0, by decide +kernel⟩,
   ⟨base.modPlPort 3 (fun x => { x with st := .align }), 3, by decide +kernel⟩,
   ⟨base.modPlPort 3 (fun x => { x with st := .tune }), 3, by decide +kernel⟩,
   ⟨base.modPlPort 3 (fun x => { x with st := .lost }), 3, by decide +kernel⟩,
   ⟨base.modPlPort 3 (fun x => { x with st := .up, rxAt := some 0 }), 3, 0, by decide +kernel⟩,
   ⟨base.modPlPort 3 (fun x => { x with win := some (0, 5) }), 3, 0, 5, by decide +kernel⟩⟩

theorem witness_FramesSentAndReceived :
    (∃ (s : State) (n : Fin 4), (∀ u, (s.pl.port[n] : PlPort).cycleAt = some u → 100 * (s.partner n).cycle ≤ elapsed s.tb.now
        u) ∧ (s.partner n).type ≠ 0 ∧ (s.pl.port[n] : PlPort).sends = [] ∧ ((s.pl.port[n] : PlPort).st = .check ∨
        (s.pl.port[n] : PlPort).st = .waitAccept ∨ (s.pl.port[n] : PlPort).st = .up)) ∧
    (∃ (s : State) (n : Fin 4), (∀ u, (s.pl.port[n] : PlPort).cycleAt = some u → 100 * (s.partner n).cycle ≤ elapsed s.tb.now
        u) ∧ (s.partner n).type ≠ 0 ∧ (s.pl.port[n] : PlPort).sends = [] ∧ ((s.pl.port[n] : PlPort).st = .down ∨
        (s.pl.port[n] : PlPort).st = .align ∨ (s.pl.port[n] : PlPort).st = .tune)) ∧
    (∃ (s : State) (n : Fin 4) (fr : Bool) (bs : List Byte), (s.partner n).type ≠ 0 ∧ s.bad = [] ∧ (fr = false ∨ bs.length ≠
        32)) ∧
    (∃ (s : State) (n : Fin 4) (bs : List Byte) (x : Word), (s.partner n).type ≠ 0 ∧ (s.pl.port[n] : PlPort).st = .up ∧
        judgeFrame (s.partner n) (s.pl.port[n] : PlPort) true bs = .safety x) :=
  ⟨⟨base.modPlPort 3 (fun x => { x with st := .up }), 3, (fun _ e => nomatch e), by decide +kernel⟩,
   ⟨base.modPlPort 3 (fun x => { x with st := .tune }), 3, (fun _ e => nomatch e), by decide +kernel⟩,
   ⟨base.modPlPort 3 (fun x => { x with st := .up }), 3, true, [], by decide +kernel⟩,
   ⟨base.modPlPort 3 (fun x => { x with st := .up, rxAny := true }), 3, safetyFrame, 1, by decide +kernel⟩⟩

theorem witness_SuppliesAreReportedAndRecorded :
    (∃ (s : State) (d : Side), s.pcr.clk.tb = true ∧ s.bad = [] ∧ s.pcr.vl.get d = .good) ∧
    (∃ (s : State), s.pcr.clk.tb = true) ∧
    (∃ (s : State), s.pcr.clk.tb = true ∧ s.bad = []) ∧
    (∃ (s : State), s.pcr.asserted = none) ∧
    (∃ (s : State) (k : Nat), s.pcr.clk.tb = true ∧ s.pcr.bakFail = false ∧ elapsed s.tb.now s.pcr.freqFrom = k ∧ k ≤ 3140625
        ∧ 3109375 ≤ k) ∧
    (∃ (s : State) (k : Nat), s.pcr.clk.tb = true ∧ s.pcr.bakFail = false ∧ elapsed s.tb.now s.pcr.freqFrom = k ∧ (3187500 <
        k ∨ k < 3062500)) :=
  ⟨⟨base, .a, by decide +kernel⟩,
   ⟨base, by decide +kernel⟩,
   ⟨base, by decide +kernel⟩,
   ⟨base, by decide +kernel⟩,
   ⟨base.modPcr (fun x => { x with freqFrom := base.tb.now - 3140625 }), 3140625, by decide +kernel⟩,
   ⟨base.modPcr (fun x => { x with freqFrom := base.tb.now - 3187501 }), 3187501, by decide +kernel⟩⟩

theorem witness_ResetSourcesAssertTheirLevel :
    (∃ (s : State), s.settled ∧ s.pcr.resetNLow = false) ∧
    (∃ (s : State), s.settled ∧ s.pcr.clk.tb = true) ∧
    (∃ (s : State), s.settled ∧ s.dev ≠ .start ∧ s.dev ≠ .reset) ∧
    (∃ (s : State), s.settled ∧ s.dev = .hold ∧ s.fatalQuiets.all (fun q => q != 0) = true ∧ s.fatalQuietOver = true) ∧
    (∃ (s : State) (p : Side) (u : Tick), s.reaches p .pcr (.pcrRstReset p 2) ∧ s.hp.owner = some p ∧ s.pcr.armed = some (p,
        u) ∧ elapsed s.tb.now u ≤ 100000 ∧ s.dev ≠ .recovery) ∧
    (∃ (s : State) (p : Side), State.nothingDue { s with pcr := { s.pcr with rstDue := none } } ∧ s.settled ∧ s.pending = []
        ∧ s.pcr.rstDue = some (p, .system)) ∧
    (∃ (s : State), s.settled ∧ s.dbgAvail = true ∧ s.pcr.extest = ⟨false, false⟩ ∧ s.pcr.trstN = true) ∧
    (∃ (s : State), s.settled ∧ s.dbgAvail = true ∧ s.pcr.extest = ⟨false, false⟩) ∧
    (∃ (s : State), s.settled) :=
  ⟨⟨base, by unfold State.settled; decide +kernel⟩,
   ⟨base, by unfold State.settled; decide +kernel⟩,
   ⟨base, by unfold State.settled; decide +kernel⟩,
   ⟨{ base.modRec .ev (fun r => { r with insts := [{ inst 1 0 with cls := .fatal }] }) with dev := .hold },
       by unfold State.settled; decide +kernel⟩,
   ⟨base.modPcr (fun x => { x with armed := some (.a, base.tb.now - 100000) }), .a, base.tb.now - 100000, reaches_of _ _ _ _
       rfl rfl (by unfold State.live; decide +kernel) (by decide +kernel), by decide +kernel⟩,
   ⟨base.modPcr (fun x => { x with rstDue := some (.a, .system) }), .a, ⟨rfl, (fun p => by cases p <;> decide +kernel), rfl,
       rfl, rfl⟩, by unfold State.settled; decide +kernel⟩,
   ⟨base.modPcr (fun x => { x with trstN := true }), by unfold State.settled; decide +kernel⟩,
   ⟨base, by unfold State.settled; decide +kernel⟩,
   ⟨base, by unfold State.settled; decide +kernel⟩⟩

theorem witness_SideResetArmingAndRelease :
    (∃ (s : State) (d : Side), s.pcr.asserted = none ∧ s.pcr.vl.get d.other = .good) ∧
    (∃ (s : State) (p : Side), s.reaches p .pcr (.pcrRstArm p) ∧ s.hp.owner = some p ∧ s.pcr.armed = none) ∧
    (∃ (s : State) (p : Side) (u : Tick), s.pcr.armed = some (p, u) ∧ 100000 ≤ elapsed s.tb.now u) ∧
    (∃ (s : State), s.pcr.asserted = some .powerOn ∧ s.pcr.vl = ⟨.good, .good⟩ ∧ s.pcr.resetNLow = false ∧ s.pcr.extest =
        ⟨false, false⟩ ∧ s.pcr.soscStop = ⟨false, false⟩) ∧
    (∃ (s : State), s.pcr.asserted = some .system ∧ s.pcr.vl = ⟨.good, .good⟩ ∧ s.pcr.extest = ⟨false, false⟩ ∧
        s.pcr.soscStop = ⟨false, false⟩) ∧
    (∃ (s : State) (tap : Side) (ir : BitVec 8) (trstN : Bool), s.pcr.asserted = some .system ∧ s.pcr.vl = ⟨.good, .good⟩ ∧
        s.pcr.resetNLow = false ∧ s.pcr.soscStop = ⟨false, false⟩ ∧ s.pcr.extest.get tap = true ∧ s.pcr.extest.get tap.other
        = false ∧ (ir ≠ 0 ∨ trstN = false)) :=
  ⟨⟨base, .a, by decide +kernel⟩,
   ⟨base, .a, reaches_of _ _ _ _ rfl rfl (by unfold State.live; decide +kernel) (by decide +kernel), by decide +kernel⟩,
   ⟨base.modPcr (fun x => { x with armed := some (.a, base.tb.now - 100000) }), .a, base.tb.now - 100000, by decide +kernel⟩,
   ⟨base.modPcr (fun x => { x with asserted := some .powerOn }), by decide +kernel⟩,
   ⟨base.modPcr (fun x => { x with asserted := some .system, resetNLow := true }), by decide +kernel⟩,
   ⟨base.modPcr (fun x => { x with asserted := some .system, extest := ⟨true, false⟩ }), .a, 0x10, true, by decide +kernel⟩⟩

theorem witness_ClocksComeAndGo :
    (∃ (s : State), s.dev = .start ∧ s.pcr.phase = .pll ∧ s.pcr.asserted = none ∧ s.pcr.clk.tb = false) ∧
    (∃ (s : State) (n : Fin 4), s.pcr.clk.tb = true ∧ s.dev ≠ .start ∧ (s.partner n).type ≠ 0) ∧
    (∃ (s : State) (p : Side), s.pcr.clk.hp.get p = true ∧ (p = .b → s.dev ≠ .recovery)) ∧
    (∃ (s : State), s.pcr.clk.tb = true ∧ s.dev ≠ .start) ∧
    (∃ (s : State), s.pcr.asserted = none) ∧
    (∃ (s : State), s.dev = .start ∧ s.startLimitOver = true) :=
  ⟨⟨State.reset, by decide +kernel⟩,
   ⟨base, 3, by decide +kernel⟩,
   ⟨base, .a, by decide +kernel⟩,
   ⟨base, by decide +kernel⟩,
   ⟨base, by decide +kernel⟩,
   ⟨State.reset, by decide +kernel⟩⟩

theorem witness_StartStepsFollow :
    (∃ (s : State), s.startStep .identity = true ∧ strFirst s = true ∧ s.bothStores = true ∧ (s.store .a).identity = (s.store
        .b).identity ∧ s.pcr.level ≠ .powerOn) ∧
    (∃ (s : State), s.startStep .replay = true) ∧
    (∃ (s : State), s.startStep .select = true ∧ (s.st.lc = .blank ∨ s.st.lc = .retired)) ∧
    (∃ (s : State), s.startStep .load = true ∧ s.ev.chosen = ⟨none, none⟩) ∧
    (∃ (s : State), s.startStep .field = true ∧ s.ev.fieldQ = 0) :=
  ⟨⟨{ base.modPcr (fun x => { x with phase := .identity, level := .system }) with dev := .start }, by decide +kernel⟩,
   ⟨{ base.modPcr (fun x => { x with phase := .replay, level := .system }) with dev := .start }, by decide +kernel⟩,
   ⟨{ (base.modPcr (fun x => { x with phase := .select })).modSt (fun x => { x with lc := .blank }) with dev := .start },
       by decide +kernel⟩,
   ⟨{ base.modPcr (fun x => { x with phase := .load, level := .system }) with dev := .start }, by decide +kernel⟩,
   ⟨{ base.modPcr (fun x => { x with phase := .field, level := .system }) with dev := .start }, by decide +kernel⟩⟩

theorem witness_HostPortsChangeAlone :
    (∃ (s : State) (p : Side), s.live p ∧ ((s.hport p).link = .l0 ∨ (s.hport p).link = .l1)) ∧
    (∃ (s : State) (p : Side) (r w : BitVec 2), s.live p ∧ r ≠ 0 ∧ w ≠ 0 ∧ w ≠ 3) ∧
    (∃ (s : State) (p : Side), s.live p ∧ (s.hport p).link = .l0) ∧
    (∃ (s : State) (p : Side), s.live p) ∧
    (∃ (s : State) (p : Side), s.live p ∧ s.dev ≠ .recovery) ∧
    (∃ (s : State) (p : Side) (u : Tick), (s.hport p).link = .out u ∧ 2400000 ≤ elapsed s.tb.now u ∧ s.bad = []) ∧
    (∃ (s : State) (p : Side) (k : BitVec 16), s.inTurn (.cfgClaim p k) ∧ s.inTurn (.cfgRelease p k) ∧ s.live p ∧ k = 0xC1A1
        ∧ (s.hp.owner = none ∨ s.hp.owner = some p)) ∧
    (∃ (s : State) (p : Side) (k : BitVec 16), s.inTurn (.cfgClaim p k) ∧ s.inTurn (.cfgRelease p k) ∧ s.live p ∧ k = 0xC1A1
        ∧ s.hp.owner = some p ∧ s.dev ≠ .recovery) ∧
    (∃ (s : State) (p : Side) (k : BitVec 16), s.inTurn (.cfgClaim p k) ∧ s.inTurn (.cfgRelease p k) ∧ s.live p ∧ (k ≠ 0xC1A1
        ∨ s.hp.owner = some p.other)) ∧
    (∃ (s : State) (p : Side) (b : Block) (o : Nat), s.live p ∧ isolated b s = true ∧ o < 0x1000) :=
  ⟨⟨base, .a, by unfold State.live; decide +kernel⟩,
   ⟨base, .a, 1, 2, by unfold State.live; decide +kernel⟩,
   ⟨base, .a, by unfold State.live; decide +kernel⟩,
   ⟨base, .a, by unfold State.live; decide +kernel⟩,
   ⟨base, .a, by unfold State.live; decide +kernel⟩,
   ⟨base.modHport .a (fun h => { h with link := .out (base.tb.now - 2400000) }), .a, base.tb.now - 2400000, by decide +kernel⟩,
   ⟨base, .a, 0xC1A1, inTurn_of _ _ rfl rfl, inTurn_of _ _ rfl rfl, by unfold State.live; decide +kernel⟩,
   ⟨base, .a, 0xC1A1, inTurn_of _ _ rfl rfl, inTurn_of _ _ rfl rfl, by unfold State.live; decide +kernel⟩,
   ⟨base, .b, 0xC1A1, inTurn_of _ _ rfl rfl, inTurn_of _ _ rfl rfl, by unfold State.live; decide +kernel⟩,
   ⟨base.modPcr (fun x => { x with asserted := some .core }), .a, .ev, 0xFFC, by unfold State.live; decide +kernel⟩⟩

theorem witness_UnmaskSendsThePendingMessage :
    (∃ (s : State) (p : Side) (v : Fin 32), s.live p ∧ (s.hport p).link = .l0 ∧ (s.hport p).msixEn = true ∧ (s.hport
        p).fnMask = false ∧ (s.hport p).pend = BitVec.ofNat 32 (2 ^ v.val)) ∧
    (∃ (s : State) (p : Side) (v : Fin 32), s.live p ∧ (s.hport p).link = .l0 ∧ (s.hport p).msixEn = true ∧ ((s.hport
        p).msix[v] : MsixEntry).mask = false ∧ (s.hport p).pend = BitVec.ofNat 32 (2 ^ v.val)) ∧
    (∃ (s : State) (p : Side), s.live p ∧ (s.hport p).link = .l0 ∧ (s.hport p).msixEn = true ∧ (s.hport p).pend = 0) :=
  ⟨⟨base.modHport .a (fun h => { h with pend := 0x80000000 }), .a, 31, by unfold State.live; decide +kernel⟩,
   ⟨base.modHport .a (fun h => { h with pend := 1, msix := upd h.msix 0 (fun e => { e with mask := false }) }), .a, 0,
       by unfold State.live; decide +kernel⟩,
   ⟨base, .a, by unfold State.live; decide +kernel⟩⟩

theorem witness_DoorbellsAndRingControls :
    (∃ (s : State) (p : Side) (n : Fin 8) (v : BitVec 32), s.live p ∧ isolated .wq s = false ∧ s.hp.hoisted.contains
        (.cqHeadDoorbell p n v) = false ∧ (s.sq p n).en = true ∧ s.disableWaits p n = false ∧ v.toNat < 2 ^ (s.sq p
        n).size.toNat ∧ v.toNat < 4096) ∧
    (∃ (s : State) (p : Side) (n : Fin 8) (v : BitVec 32), s.live p ∧ isolated .wq s = false ∧ s.hp.hoisted.contains
        (.cqHeadDoorbell p n v) = false ∧ ((s.sq p n).en = false ∨ s.disableWaits p n = true) ∧ s.bad = [] ∧ v.toNat < 4096) ∧
    (∃ (s : State) (p : Side) (n : Fin 8) (v : BitVec 32), s.live p ∧ isolated .wq s = false ∧ s.hp.hoisted.contains
        (.cqHeadDoorbell p n v) = false ∧ (s.cq p n).en = true ∧ v.toNat < 2 ^ (s.cq p n).size.toNat ∧ v.toNat < 4096 ∧
        v.toNat = (s.cq p n).tail) ∧
    (∃ (s : State) (p : Side) (n : Fin 8) (v : BitVec 32), s.live p ∧ isolated .wq s = false ∧ s.hp.hoisted.contains
        (.cqHeadDoorbell p n v) = false ∧ (s.cq p n).en = false ∧ s.bad = [] ∧ v.toNat < 4096) ∧
    (∃ (s : State) (p : Side) (n : Fin 8), s.live p ∧ isolated .wq s = false ∧ (s.sq p n).en = false ∧ s.wq.replayed = true ∧
        (s.sq p n).items = []) ∧
    (∃ (s : State) (p : Side) (n : Fin 8), s.live p ∧ isolated .wq s = false ∧ (s.sq p n).en = false ∧ s.wq.replayed = true) ∧
    (∃ (s : State) (p : Side) (n : Fin 8), s.live p ∧ isolated .wq s = false ∧ (s.cq p n).en = false) ∧
    (∃ (s : State) (p : Side), s.live p ∧ isolated .wq s = false) :=
  ⟨⟨base.modSq .a 7 (fun q => { q with en := true }), .a, 7, 15, by unfold State.live; decide +kernel⟩,
   ⟨base, .a, 7, 0, by unfold State.live; decide +kernel⟩,
   ⟨base.modCq .a 7 (fun q => { q with en := true }), .a, 7, 0, by unfold State.live; decide +kernel⟩,
   ⟨base, .a, 7, 4095, by unfold State.live; decide +kernel⟩,
   ⟨base.modWq (fun x => { x with replayed := true }), .b, 7, by unfold State.live; decide +kernel⟩,
   ⟨base.modWq (fun x => { x with replayed := true }), .b, 7, by unfold State.live; decide +kernel⟩,
   ⟨base.modWq (fun x => { x with replayed := true }), .b, 7, by unfold State.live; decide +kernel⟩,
   ⟨base.modWq (fun x => { x with replayed := true }), .b, by unfold State.live; decide +kernel⟩⟩

theorem witness_DescriptorsAcceptedOrSkipped :
    (∃ (s : State) (p : Side) (n : Fin 8), s.live p ∧ (s.hport p).link = .l0 ∧ (s.hport p).d3 = false ∧ (s.wport p).openItems
        < 2048 ∧ (∀ m, (s.sq p m).fetching = none) ∧ (s.wport p).nextSq = some n) ∧
    (∃ (s : State) (p : Side) (n : Fin 8) (bs : List Byte) (k : Nat), (s.sq p n).fetching = some k ∧ bs.length = 64 ∧ judge p
        n bs (s.sq p n).nextSeq = none) ∧
    (∃ (s : State) (p : Side) (n : Fin 8) (bs : List Byte) (k : Nat), (s.sq p n).fetching = some k ∧ bs.length = 64 ∧ judge p
        n bs (s.sq p n).nextSeq = some 0x0103 ∧ s.bad = []) ∧
    (∃ (s : State) (p : Side) (n : Fin 8) (k : Nat), (s.sq p n).fetching = some k ∧ s.bad = []) :=
  ⟨⟨base.modSq .a 6 (fun q => { q with en := true, tail := 1 }), .a, 6, by unfold State.live; decide +kernel⟩,
   ⟨base.modSq .a 0 (fun q => { q with fetching := some 0 }), .a, 0, descBytes, 0, by decide +kernel⟩,
   ⟨base.modSq .a 0 (fun q => { q with fetching := some 0 }), .a, 0, descBytes.set 0 1, 0, by decide +kernel⟩,
   ⟨base.modSq .a 0 (fun q => { q with fetching := some 0 }), .a, 0, 0, by decide +kernel⟩⟩

theorem witness_ItemsCompleteAndPost :
    (∃ (s : State) (p : Side) (n : Fin 8) (i : Item) (c : Nat) (r : Word) (x : Bool), (s.sq p n).items = [i] ∧ i.stage =
        .ended c r ∧ (c = 0 → i.mark + i.d.least ≤ s.tb.now.toNat ∧ (x = true ∨ isOut i.d.opc = false)) ∧ bitOf i.d.flags 1 =
        false ∧ (s.wport p).returns = []) ∧
    (∃ (s : State) (p : Side) (n k : Fin 8) (i : Item) (c : Nat) (r : Word), s.live p ∧ (s.hport p).link = .l0 ∧ (s.sq p
        n).cq = k ∧ (s.sq p n).items = [i] ∧ i.stage = .ready c r false ∧ i.old = false ∧ (s.cq p k).en = true ∧ (s.cq p
        k).ien = false ∧ ((s.cq p k).tail + 1) % 2 ^ (s.cq p k).size.toNat ≠ (s.cq p k).head ∧ (s.cq p k).postings = (s.cq p
        k).covered ∧ (s.cq p k).tail < 2 ^ (s.cq p k).size.toNat) ∧
    (∃ (s : State) (p : Side) (n : Fin 8) (u : Tick), (s.cq p n).uncoveredAt = some u ∧ 1000 ≤ elapsed s.tb.now u) ∧
    (∃ (s : State) (p : Side) (n : Fin 8) (u : Tick), (s.cq p n).unsignalledAt = some u ∧ (s.cq p n).ien = true ∧ (s.cq p
        n).coalT ≠ 0 ∧ 100 * (s.cq p n).coalT.toNat ≤ elapsed s.tb.now u) :=
  ⟨⟨one { item 0 d0 with stage := .ended 1 0 } base, .a, 0, { item 0 d0 with stage := .ended 1 0 }, 1, 0, true,
      by decide +kernel⟩,
   ⟨(one { item 0 d0 with stage := .ready 0 7 false } base).modCq .a 0 (fun q =>
       { q with en := true, tail := 15, head := 1 }), .a, 0, 0, { item 0 d0 with stage := .ready 0 7 false }, 0, 7,
       by unfold State.live; decide +kernel⟩,
   ⟨base.modCq .b 1 (fun q => { q with uncoveredAt := some (base.tb.now - 1000) }), .b, 1, base.tb.now - 1000,
       by decide +kernel⟩,
   ⟨base.modCq .b 1 (fun q => { q with unsignalledAt := some (base.tb.now - 100), ien := true, coalT := 1 }), .b, 1,
       base.tb.now - 100, by decide +kernel⟩⟩

theorem witness_LandingWindowWritesAndFlips :
    (∃ (s : State) (p : Side) (off : Nat) (bs : List Byte), s.live p ∧ 4096 ≤ off ∧ bs ≠ [] ∧ off % 4096 + bs.length ≤ 4096 ∧
        off + bs.length ≤ 0x200000 ∧ s.flipping p (off / 4096) = false ∧ s.marchHolds p off bs.length = false ∧ bs.length ≤
        256 ∧ (s.wport p).owned (off / 4096) = false ∧ Memory.wf 0 (s.wport p).landing = true) ∧
    (∃ (s : State) (p : Side) (off : Nat) (bs : List Byte), s.live p ∧ 4096 ≤ off ∧ bs ≠ [] ∧ off % 4096 + bs.length ≤ 4096 ∧
        off + bs.length ≤ 0x200000 ∧ s.flipping p (off / 4096) = false ∧ s.marchHolds p off bs.length = false ∧ bs.length ≤
        256 ∧ (s.wport p).owned (off / 4096) = false) ∧
    (∃ (s : State) (p : Side) (off : Nat) (bs : List Byte), s.live p ∧ 4096 ≤ off ∧ bs ≠ [] ∧ off % 4096 + bs.length ≤ 4096 ∧
        off + bs.length ≤ 0x200000 ∧ s.flipping p (off / 4096) = false ∧ s.marchHolds p off bs.length = false ∧ bs.length ≤
        256 ∧ (s.wport p).owned (off / 4096) = true ∧ s.bad = []) ∧
    (∃ (s : State) (p : Side) (off : Nat) (bs : List Byte) (x : Bool), s.live p ∧ 4096 ≤ off ∧ bs ≠ [] ∧ off % 4096 +
        bs.length ≤ 4096 ∧ off + bs.length ≤ 0x200000 ∧ s.flipping p (off / 4096) = false ∧ s.marchHolds p off bs.length =
        false ∧ (x = true ∨ 256 < bs.length) ∧ s.bad = []) ∧
    (∃ (s : State) (p : Side) (g : Fin 512) (bs : List Byte), s.live p ∧ g.val ≠ 0 ∧ bs.length = 8 ∧ bs.getD 0 0 = 0 ∧
        s.flipping p g.val = false ∧ s.marchHolds p (8 * g.val) 8 = false ∧ mget 0 (s.wport p).landing (8 * g.val) ≠ 0xD5) ∧
    (∃ (s : State) (p : Side) (f : Flip) (fs : List Flip), (s.wport p).flips = f :: fs ∧ f.writes = [] ∧ f.entry.length = 8 ∧
        Memory.wf 0 (s.wport p).landing = true) ∧
    (∃ (s : State) (p : Side) (g : Fin 512), (s.wport p).remBad.contains g.val = true ∧ s.marchMeets p (4096 * g.val) 4096 =
        false) :=
  ⟨⟨base, .a, 0x1FFFFF, [5], by unfold State.live; decide +kernel⟩,
   ⟨base, .a, 0x1FFFFF, [5], by unfold State.live; decide +kernel⟩,
   ⟨base.modWport .a (fun x => { x with landing := [(8, 0xD5), (16, 0xD5), (4088, 0xD5)] }), .a, 0x1FFFFF, [5],
       by unfold State.live; decide +kernel⟩,
   ⟨base, .a, 0x1FFFFF, [5], true, by unfold State.live; decide +kernel⟩,
   ⟨base, .a, 511, [0, 1, 2, 3, 4, 5, 6, 7], by unfold State.live; decide +kernel⟩,
   ⟨base.modWport .a (fun x => { x with flips := [⟨3, [0, 0, 2, 3, 4, 5, 6, 7], true, []⟩] }), .a, ⟨3, [0, 0, 2, 3, 4, 5, 6,
       7], true, []⟩, [], by decide +kernel⟩,
   ⟨base.modWport .a (fun x => { x with remBad := [511] }), .a, 511, by decide +kernel⟩⟩

theorem witness_RegisterAccesses :
    (∃ (s : State) (p : Side) (o : Nat) (v : BitVec 32), (∀ k, s.inTurn (.registerWrite (.bar0 p o) v k)) ∧ s.live p ∧
        s.isolatedAt o = false ∧ s.bad = [] ∧ bar0Reg p s o = none) ∧
    (∃ (s : State) (p : Side) (o : Nat) (v : BitVec 32), (∀ k, s.inTurn (.registerWrite (.bar0 p o) v k)) ∧ s.live p ∧
        s.isolatedAt o = false ∧ s.bad = []) ∧
    (∃ (s : State) (p : Side) (o : Nat) (v : BitVec 32), (∀ k, s.inTurn (.registerWrite (.bar0 p o) v k)) ∧ s.live p ∧
        s.isolatedAt o = false ∧ s.bad = [] ∧ (bar0Reg p s o).isSome = true ∧ bar0Write p o v = none ∧ v = 0) ∧
    (∃ (s : State) (p : Side) (b : Block) (v : BitVec 32), s.inTurn (.registerWrite (.bar0 p (0x1000 * b.id + 0x140)) v
        .whole) ∧ s.live p ∧ isolated b s = false ∧ v.toNat < 16) ∧
    (∃ (s : State) (p : Side) (v : BitVec 32), s.reaches p .tb (.registerWrite (.bar0 p 0x7020) v .whole) ∧ s.live p) ∧
    (∃ (s : State) (p : Side) (n : Fin 8), s.live p ∧ isolated .wq s = false ∧ (s.sq p n).en = false) ∧
    (∃ (s : State) (p : Side) (n : Fin 8), s.live p ∧ isolated .wq s = false ∧ (s.sq p n).en = true) ∧
    (∃ (s : State) (p : Side), s.live p ∧ isolated .wq s = false ∧ (s.hport p).pend = 0) ∧
    (∃ (s : State) (p : Side) (v : BitVec 32), s.live p ∧ isolated .wq s = false ∧ (v.toNat % 4 = 0 ∨ v.toNat % 4 = 3)) ∧
    (∃ (s : State) (p : Side) (o : Nat), s.live p ∧ isolated .wq s = false ∧ s.marchHolds p o 4 = false) ∧
    (∃ (s : State) (p : Side), s.live p ∧ isolated .wq s = false) ∧
    (∃ (s : State) (p : Side), s.live p ∧ isolated .wq s = false ∧ isolated .tb s = false) ∧
    (∃ (s : State), s.tapOpen ∧ s.dbgAvail = false) ∧
    (∃ (s : State), s.tapOpen) :=
  ⟨⟨base, .a, 0x3FFFC, 0, (fun _ => inTurn_of _ _ rfl rfl), by unfold State.live; decide +kernel⟩,
   ⟨base, .a, 0, 0, (fun _ => inTurn_of _ _ rfl rfl), by unfold State.live; decide +kernel⟩,
   ⟨base, .a, 0, 0, (fun _ => inTurn_of _ _ rfl rfl), by unfold State.live; decide +kernel⟩,
   ⟨base, .a, .st, 15, inTurn_of _ _ rfl rfl, by unfold State.live; decide +kernel⟩,
   ⟨base, .a, 0xFFFFFFFF, reaches_of _ _ _ _ rfl rfl (by unfold State.live; decide +kernel) (by decide +kernel),
       by unfold State.live; decide +kernel⟩,
   ⟨base, .a, 7, by unfold State.live; decide +kernel⟩,
   ⟨base.modSq .a 7 (fun q => { q with en := true }), .a, 7, by unfold State.live; decide +kernel⟩,
   ⟨base, .b, by unfold State.live; decide +kernel⟩,
   ⟨base, .b, 0, by unfold State.live; decide +kernel⟩,
   ⟨base, .b, 0x1FFFFC, by unfold State.live; decide +kernel⟩,
   ⟨base, .b, by unfold State.live; decide +kernel⟩,
   ⟨base, .b, by unfold State.live; decide +kernel⟩,
   ⟨(base.modPcr (fun x => { x with trstN := true })).modSt (fun x => { x with lc := .safeRun }),
       by unfold State.tapOpen; decide +kernel⟩,
   ⟨base.modPcr (fun x => { x with trstN := true }), by unfold State.tapOpen; decide +kernel⟩⟩

theorem witness_ReadingAndRequestingItems :
    (∃ (s : State) (p : Side) (n : Fin 8) (i : Item), i.d.arg1 = 0 ∧ i.d.arg2 = 0 ∧ i.d.arg3 = 0 ∧ s.itemWaits p n i 0x00 ∧
        i.d.arg0 = 0 ∧ i.d.noData) ∧
    (∃ (s : State) (p : Side) (n : Fin 8) (i : Item), i.d.arg1 = 0 ∧ i.d.arg2 = 0 ∧ i.d.arg3 = 0 ∧ s.itemWaits p n i 0x01 ∧
        i.d.arg0 < 65536 ∧ i.d.noData) ∧
    (∃ (s : State) (p : Side) (n : Fin 8) (i : Item), i.d.arg1 = 0 ∧ i.d.arg2 = 0 ∧ i.d.arg3 = 0 ∧ s.itemWaits p n i 0x20 ∧
        i.d.arg0 = 1 ∧ i.d.noData ∧ s.dev = .run ∧ s.devAt ≠ some s.tb.now ∧ s.wq.modeReq = none) ∧
    (∃ (s : State) (p : Side) (n : Fin 8) (i : Item), State.nothingDue { s with wq := { s.wq with modeReq := none } } ∧
        i.d.arg1 = 0 ∧ i.d.arg2 = 0 ∧ i.d.arg3 = 0 ∧ s.pending = [] ∧ s.wq.modeReq = some (p, n) ∧ (s.sq p n).items = [i] ∧
        i.stage = .begun ∧ i.d.arg0 = 1 ∧ s.dev = .run ∧ s.st.ack = none) ∧
    (∃ (s : State) (p : Side) (n : Fin 8) (i : Item), i.d.arg1 = 0 ∧ i.d.arg2 = 0 ∧ i.d.arg3 = 0 ∧ s.itemWaits p n i 0x20 ∧
        i.d.arg0 = 0 ∧ i.d.noData ∧ (s.dev = .idle ∨ s.dev = .run ∨ s.dev = .halt)) ∧
    (∃ (s : State) (p : Side) (n : Fin 8) (i : Item), i.d.arg1 = 0 ∧ i.d.arg2 = 0 ∧ i.d.arg3 = 0 ∧ s.itemWaits p n i 0x21 ∧ 1
        ≤ i.d.arg0 ∧ i.d.arg0 ≤ 10000 ∧ i.d.noData ∧ (s.dev = .idle ∨ s.dev = .run ∨ s.dev = .halt) ∧ (s.hport p).hreset = []) ∧
    (∃ (s : State) (p : Side) (n : Fin 8) (i : Item), i.d.arg1 = 0 ∧ i.d.arg2 = 0 ∧ i.d.arg3 = 0 ∧ s.itemWaits p n i 0x30 ∧
        i.d.arg0 = 0 ∧ i.d.outOk 12288 ∧ (s.dev = .idle ∨ s.dev = .run)) ∧
    (∃ (s : State) (p : Side) (n : Fin 8) (i : Item), i.d.arg1 = 0 ∧ i.d.arg2 = 0 ∧ i.d.arg3 = 0 ∧ s.itemWaits p n i 0x31 ∧
        i.d.arg0 = 0 ∧ i.d.outOk 4096 ∧ s.ms.tally.length = 4096) ∧
    (∃ (s : State) (p : Side) (n : Fin 8) (i : Item), i.d.arg1 = 0 ∧ i.d.arg2 = 0 ∧ i.d.arg3 = 0 ∧ s.itemWaits p n i 0x71 ∧
        i.d.arg0 % 8 = 0 ∧ i.d.len % 8 = 0 ∧ i.d.arg0 + i.d.len ≤ 524288 ∧ i.d.outOk i.d.len) ∧
    (∃ (s : State) (p : Side) (n : Fin 8) (i : Item), i.d.arg1 = 1 ∧ i.d.arg2 = 0 ∧ i.d.arg3 = 0 ∧ s.itemWaits p n i 0x32 ∧
        i.d.outOk 32) ∧
    (∃ (s : State) (p : Side) (n : Fin 8) (u : Tick), (s.hport p).hreset = [(n, u, false)] ∧ u.toNat ≤ s.tb.now.toNat) :=
  ⟨⟨one (item 0x0 d0) base, .a, 0, item 0x0 d0, by unfold State.itemWaits Desc.noData; decide +kernel⟩,
   ⟨one (item 0x1 { d0 with arg0 := 65535 }) base, .a, 0, item 0x1 { d0 with arg0 := 65535 },
       by unfold State.itemWaits Desc.noData; decide +kernel⟩,
   ⟨one (item 0x20 { d0 with arg0 := 1 }) base, .a, 0, item 0x20 { d0 with arg0 := 1 },
       by unfold State.itemWaits Desc.noData; decide +kernel⟩,
   ⟨(one { item 0x20 { d0 with arg0 := 1 } with stage := .begun } base).modWq (fun x => { x with modeReq := some (.a, 0) }),
       .a, 0, { item 0x20 { d0 with arg0 := 1 } with stage := .begun }, ⟨rfl, (fun p => by cases p <;> decide +kernel), rfl,
       rfl, rfl⟩, by decide +kernel⟩,
   ⟨one (item 0x20 d0) base, .a, 0, item 0x20 d0, by unfold State.itemWaits Desc.noData; decide +kernel⟩,
   ⟨one (item 0x21 { d0 with arg0 := 10000 }) base, .a, 0, item 0x21 { d0 with arg0 := 10000 },
       by unfold State.itemWaits Desc.noData; decide +kernel⟩,
   ⟨one (item 0x30 { d0 with len := 12288, hostAddr := 2 ^ 64 - 12288 }) base, .a, 0, item 0x30
       { d0 with len := 12288, hostAddr := 2 ^ 64 - 12288 }, by unfold State.itemWaits Desc.outOk; decide +kernel⟩,
   ⟨one (item 0x31 { d0 with len := 4096 }) (base.modMs (fun m => { m with tally := List.replicate 4096 0 })), .a, 0, item
       0x31 { d0 with len := 4096 }, by unfold State.itemWaits Desc.outOk; decide +kernel⟩,
   ⟨one (item 0x71 { d0 with arg0 := 524280, len := 8 }) base, .a, 0, item 0x71 { d0 with arg0 := 524280, len := 8 },
       by unfold State.itemWaits Desc.outOk; decide +kernel⟩,
   ⟨one (item 0x32 { d0 with arg1 := 1, len := 32 }) base, .a, 0, item 0x32 { d0 with arg1 := 1, len := 32 },
       by unfold State.itemWaits Desc.outOk; decide +kernel⟩,
   ⟨base.modHport .a (fun h => { h with hreset := [(7, base.tb.now, false)] }), .a, 7, base.tb.now, by decide +kernel⟩⟩

theorem witness_TablesAreStagedVerifiedAndCommitted :
    (∃ (s : State) (p : Side) (n : Fin 8) (i : Item), (∀ j, (s.store j).written = true) ∧ s.split = false ∧ s.hp.owner = some
        p ∧ (s.st.lc = .develop ∨ s.st.lc = .commission) ∧ i.d.arg2 = 0 ∧ i.d.arg3 = 0 ∧ s.itemWaits p n i 0x10 ∧ i.d.arg1 =
        0 ∧ i.d.arg0 % 8 = 0 ∧ i.d.arg0 + i.d.len ≤ 262144 ∧ s.inRangeOk p i.d ∧ s.marchMeets p i.d.winOff i.d.len = false) ∧
    (∃ (s : State) (p : Side) (n : Fin 8) (i : Item), (∀ j, (s.store j).written = true) ∧ (verifyStaging i.d s).2.2 = none ∧
        s.split = false ∧ s.hp.owner = some p ∧ (s.st.lc = .develop ∨ s.st.lc = .commission) ∧ i.d.arg2 = 0 ∧ i.d.arg3 = 0 ∧
        s.itemWaits p n i 0x11 ∧ i.d.arg0 = 0 ∧ i.d.arg1 = 0 ∧ i.d.noData ∧ (s.store .a).staging.st ≠ .empty ∧ s.cvw3Busy =
        false) ∧
    (∃ (s : State) (p : Side) (n : Fin 8) (i : Item), (∀ j, (s.store j).written = true) ∧ (verifyStaging i.d s).1 = 0 ∧
        s.split = false ∧ s.hp.owner = some p ∧ (s.st.lc = .develop ∨ s.st.lc = .commission) ∧ i.d.arg2 = 0 ∧ i.d.arg3 = 0 ∧
        s.itemWaits p n i 0x12 ∧ i.d.arg0 = 0 ∧ i.d.arg1 = 0 ∧ i.d.noData ∧ (s.store .a).staging.st = .verified ∧ s.cvw3Busy
        = false ∧ (s.dev = .idle ∨ s.dev = .recovery) ∧ s.st.ack = none) ∧
    (∃ (s : State) (p : Side) (n : Fin 8) (i : Item) (w : AckWait) (v : BitVec 32), s.st.ack = some w ∧ w.port = p ∧ w.ring =
        n.val ∧ (s.sq p n).items = [i] ∧ i.stage = .begun ∧ s.tapOpen ∧ w.tap = true ∧ v ≠ w.key ∧ s.ackClosed w = false) ∧
    (∃ (s : State) (p : Side) (n : Fin 8) (i : Item) (w : AckWait), s.st.ack = some w ∧ w.port = p ∧ w.ring = n.val ∧ (s.sq p
        n).items = [i] ∧ i.stage = .begun ∧ s.tapOpen ∧ 3000000000 ≤ elapsed s.tb.now w.since) ∧
    (∃ (s : State) (p : Side) (n : Fin 8) (i : Item) (w : AckWait) (v : BitVec 32), (∀ j, (s.store j).written = true) ∧
        s.st.ack = some w ∧ w.port = p ∧ w.ring = n.val ∧ (s.sq p n).items = [i] ∧ i.stage = .begun ∧ s.tapOpen ∧ w.tap =
        true ∧ v = w.key ∧ s.ackClosed w = false ∧ i.d.opc = 0x12 ∧ s.split = false ∧ s.hp.owner = some p ∧ (s.store
        .a).staging.st = .verified ∧ s.dev = .recovery) ∧
    (∃ (s : State) (p : Side) (n : Fin 8) (i : Item) (w : AckWait) (v : BitVec 32), (∀ j, (s.store j).written = true) ∧
        s.st.ack = some w ∧ w.port = p ∧ w.ring = n.val ∧ (s.sq p n).items = [i] ∧ i.stage = .begun ∧ s.tapOpen ∧ w.tap =
        true ∧ v = w.key ∧ s.ackClosed w = false ∧ i.d.opc = 0x12 ∧ s.split = false ∧ s.hp.owner = some p ∧ (s.store
        .a).staging.st = .verified ∧ s.dev = .idle ∧ s.settled) :=
  ⟨⟨one (item 0x10 { d0 with arg0 := 262136, len := 8, winOff := 0x1FFFF8 }) (base.modWport .a (fun x =>
      { x with landing := [(8, 0xD5), (16, 0xD5), (4088, 0xD5)] })), .a, 0, item 0x10
      { d0 with arg0 := 262136, len := 8, winOff := 0x1FFFF8 }, by intro j; cases j <;> decide +kernel,
      by unfold State.itemWaits State.inRangeOk; decide +kernel⟩,
   ⟨one (item 0x11 d0) (staged .loaded), .a, 0, item 0x11 d0, by intro j; cases j <;> decide +kernel, by rw [verify_staged _
       _ rfl rfl rfl (fun i => by cases i <;> rfl) (fun i => by cases i <;> rfl)],
       by unfold State.itemWaits Desc.noData; decide +kernel⟩,
   ⟨one (item 0x12 d0) ({ staged .verified with dev := .idle }), .a, 0, item 0x12 d0, by intro j; cases j <;> decide +kernel,
       by rw [verify_staged _ _ rfl rfl rfl (fun i => by cases i <;> rfl) (fun i => by cases i <;> rfl)],
       by unfold State.itemWaits Desc.noData; decide +kernel⟩,
   ⟨one { item 0x12 d0 with stage := .begun }
       { ((staged .verified).modSt (fun x => { x with ack := some ackw })).modPcr (fun x => { x with trstN := true }) with dev := .run }, .a, 0, { item 0x12 d0 with stage := .begun }, ackw, 8, by unfold State.tapOpen; decide +kernel⟩,
   ⟨(one { item 0x12 d0 with stage := .begun }
       { ((staged .verified).modSt (fun x => { x with ack := some ackw })).modPcr (fun x => { x with trstN := true }) with dev := .run }).modSt (fun x => { x with ack := some { ackw with since := base.tb.now - 3000000000 } }), .a, 0, { item 0x12 d0 with stage := .begun }, { ackw with since := base.tb.now - 3000000000 }, by unfold State.tapOpen; decide +kernel⟩,
   ⟨one { item 0x12 d0 with stage := .begun }
       { ((staged .verified).modSt (fun x => { x with ack := some ackw })).modPcr (fun x => { x with trstN := true }) with dev := .recovery }, .a, 0, { item 0x12 d0 with stage := .begun }, ackw, 7, by intro j; cases j <;> decide +kernel, by unfold State.tapOpen; decide +kernel⟩,
   ⟨one { item 0x12 d0 with stage := .begun }
       { ((staged .verified).modSt (fun x => { x with ack := some ackw })).modPcr (fun x => { x with trstN := true }) with dev := .idle }, .a, 0, { item 0x12 d0 with stage := .begun }, ackw, 7, by intro j; cases j <;> decide +kernel, by unfold State.tapOpen State.settled; decide +kernel⟩⟩

theorem witness_ActingItems :
    (∃ (s : State) (p : Side) (n : Fin 8) (i : Item) (k : Fin 4), i.d.arg0 = k.val ∧ i.d.arg1 = 0 ∧ i.d.arg2 = 0 ∧ i.d.arg3 =
        0 ∧ (s.dev = .idle ∨ s.dev = .run) ∧ (s.pl.port[k] : PlPort).st = .up ∧ s.itemWaits p n i 0x40 ∧ s.inRangeOk p i.d ∧
        i.d.len ≤ 4096 ∧ s.marchMeets p i.d.winOff i.d.len = false) ∧
    (∃ (s : State) (p : Side) (n : Fin 8) (i : Item) (k : Fin 4), i.d.arg0 = k.val ∧ i.d.arg1 = 0 ∧ i.d.arg2 = 0 ∧ i.d.arg3 =
        0 ∧ (s.dev = .idle ∨ s.dev = .run) ∧ (s.pl.port[k] : PlPort).st = .up ∧ s.itemWaits p n i 0x41 ∧ i.d.noData ∧
        (s.partner k).type = 1 ∧ (s.partner k).detach = true) ∧
    (∃ (s : State) (p : Side) (n : Fin 8) (i : Item) (k : Fin 4), s.itemWaits p n i 0x50 ∧ i.d.arg0 = k.val + 4 ∧ i.d.arg1 =
        0 ∧ i.d.arg2 = 0 ∧ i.d.arg3 = 0 ∧ s.inRangeOk p i.d ∧ s.dev ≠ .recovery ∧ (s.cv.ch[k] : Cvw).queue = [] ∧ s.chanHeld
        k = false ∧ (s.cv.ch[k] : Cvw).katBad = false ∧ s.marchMeets p i.d.winOff i.d.len = false) ∧
    (∃ (s : State) (p : Side) (n : Fin 8) (i : Item), s.itemWaits p n i 0x60 ∧ s.hp.owner = some p ∧ s.dev = .idle ∧
        i.d.noData ∧ i.d.arg2 = 0 ∧ i.d.arg3 = 0 ∧ i.d.arg0 = 1 ∧ i.d.arg1 = 0 ∧ (s.st.lc = .develop ∨ s.st.lc = .commission)
        ∧ s.st.full = none) ∧
    (∃ (s : State) (p : Side) (n : Fin 8) (i : Item), s.itemWaits p n i 0x60 ∧ s.hp.owner = some p ∧ s.dev = .idle ∧
        i.d.noData ∧ i.d.arg2 = 0 ∧ i.d.arg3 = 0 ∧ i.d.arg0 = 0x10 ∧ i.d.arg1 = 1 ∧ s.st.lc = .blank ∧ s.ms.logBuf.length <
        256) ∧
    (∃ (s : State) (p : Side) (n : Fin 8) (i : Item), s.itemWaits p n i 0x70 ∧ i.d.arg1 = 0 ∧ i.d.arg2 = 0 ∧ i.d.arg3 = 0 ∧
        i.d.arg0 % 8 = 0 ∧ i.d.len % 8 = 0 ∧ i.d.arg0 + i.d.len ≤ 524288 ∧ s.inRangeOk p i.d ∧ s.dev ≠ .recovery ∧
        s.marchMeets p i.d.winOff i.d.len = false) :=
  ⟨⟨one (item 0x40 { d0 with arg0 := 3, len := 4096, winOff := 4096 }) ((base.modWport .a (fun x =>
      { x with landing := [(8, 0xD5), (16, 0xD5), (4088, 0xD5)] })).modPlPort 3 (fun x => { x with st := .up })), .a, 0, item
      0x40 { d0 with arg0 := 3, len := 4096, winOff := 4096 }, 3, by unfold State.itemWaits State.inRangeOk; decide +kernel⟩,
   ⟨one (item 0x41 { d0 with arg0 := 3 }) (base.modPlPort 3 (fun x => { x with st := .up })), .a, 0, item 0x41
       { d0 with arg0 := 3 }, 3, by unfold State.itemWaits Desc.noData; decide +kernel⟩,
   ⟨one (item 0x50 { d0 with arg0 := 7, len := 1, winOff := 4096 }) (base.modWport .a (fun x =>
       { x with landing := [(8, 0xD5), (16, 0xD5), (4088, 0xD5)] })), .a, 0, item 0x50
       { d0 with arg0 := 7, len := 1, winOff := 4096 }, 3, by unfold State.itemWaits State.inRangeOk; decide +kernel⟩,
   ⟨one (item 0x60 { d0 with arg0 := 1 }) ({ base with dev := .idle }), .a, 0, item 0x60 { d0 with arg0 := 1 },
       by unfold State.itemWaits Desc.noData; decide +kernel⟩,
   ⟨one (item 0x60 { d0 with arg0 := 0x10, arg1 := 1 })
       ({ base.modSt (fun x => { x with lc := .blank }) with dev := .idle }), .a, 0, item 0x60
       { d0 with arg0 := 0x10, arg1 := 1 }, by unfold State.itemWaits Desc.noData; decide +kernel⟩,
   ⟨one (item 0x70 { d0 with arg0 := 524280, len := 8, winOff := 4096 }) (base.modWport .a (fun x =>
       { x with landing := [(8, 0xD5), (16, 0xD5), (4088, 0xD5)] })), .a, 0, item 0x70
       { d0 with arg0 := 524280, len := 8, winOff := 4096 }, by unfold State.itemWaits State.inRangeOk; decide +kernel⟩⟩

theorem witness_WriteFedChannels :
    (∃ (s : State) (p : Side) (n : Fin 4) (w : Fin 3) (v : BitVec 32), s.inTurn (.cvwFeed p n w v) ∧ s.live p ∧ isolated .cv
        s = false ∧ cvwRefused p n s = false ∧ (s.cv.ch[n] : Cvw).queue = [] ∧ s.tb.now.toNat + 4 < 2 ^ 64) ∧
    (∃ (s : State) (p : Side) (n : Fin 4) (mode init : Bool), s.inTurn (.cvwCtlWrite p n (BitVec.ofNat 32 (bit mode + 2 * bit
        init))) ∧ s.live p ∧ isolated .cv s = false ∧ cvwRefused p n s = false ∧ (s.cv.ch[n] : Cvw).queue = []) ∧
    (∃ (s : State) (p : Side) (n : Fin 4) (v : BitVec 32), s.inTurn (.cvwValWrite p n v) ∧ s.live p ∧ isolated .cv s = false
        ∧ cvwRefused p n s = false ∧ (s.cv.ch[n] : Cvw).queue = []) ∧
    (∃ (s : State) (p : Side) (n : Fin 4) (w : Fin 3) (v : BitVec 32), s.inTurn (.cvwFeed p n w v) ∧ s.inTurn (.cvwCtlWrite p
        n v) ∧ s.inTurn (.cvwValWrite p n v) ∧ s.live p ∧ isolated .cv s = false ∧ cvwRefused p n s = true) :=
  ⟨⟨base, .a, 3, 2, 0, inTurn_of _ _ rfl rfl, by unfold State.live; decide +kernel⟩,
   ⟨base, .a, 3, true, false, inTurn_of _ _ rfl rfl, by unfold State.live; decide +kernel⟩,
   ⟨base, .a, 3, 0, inTurn_of _ _ rfl rfl, by unfold State.live; decide +kernel⟩,
   ⟨base, .b, 3, 0, 0, inTurn_of _ _ rfl rfl, inTurn_of _ _ rfl rfl, inTurn_of _ _ rfl rfl,
       by unfold State.live; decide +kernel⟩⟩

theorem witness_StoresLogAndTally :
    (∃ (s : State) (d : Side), s.pcr.clk.tb = true ∧ s.tb.now.toNat % 9 = 0 ∧ s.ms.scrubAt.get d ≠ some s.tb.now ∧
        s.ms.scrubPos.get d + 1 < 540672) ∧
    (∃ (s : State) (d : Side), s.pcr.clk.tb = true ∧ s.tb.now.toNat % 9 = 0 ∧ s.ms.scrubAt.get d ≠ some s.tb.now ∧
        s.ms.scrubPos.get d + 1 < 540672 ∧ s.bad = []) ∧
    (∃ (s : State) (d : Side), s.pcr.clk.tb = true ∧ s.tb.now.toNat % 9 = 0 ∧ s.ms.scrubAt.get d ≠ some s.tb.now ∧
        s.ms.scrubPos.get d + 1 < 540672 ∧ s.ms.scrubPos.get d < 16384 ∧ s.bad = [] ∧ (s.dev = .idle ∨ s.dev = .run)) ∧
    (∃ (s : State), s.pcr.clk.tb = true ∧ s.everyTicks 8640000000000 = true) ∧
    (∃ (s : State), s.pcr.clk.tb = true ∧ s.bad = []) ∧
    (∃ (s : State) (i : Side), s.pcr.clk.tb = true ∧ s.bad = [] ∧ s.uncleared .ms 3 i.other.num = false ∧ s.uncleared .pcr 7
        i.other.num = false ∧ s.uncleared .ms 3 i.num = false) ∧
    (∃ (s : State) (i : Side), s.pcr.clk.tb = true ∧ (s.store i).st = .failed ∧ (s.store i.other).st = .sound ∧ (s.store
        i.other).readable = true ∧ s.pcr.strOk.get i = true) ∧
    (∃ (s : State) (i : Side), s.pcr.clk.tb = true ∧ (s.store i).st = .resync) ∧
    (∃ (s : State) (e : LogEntry) (es : List LogEntry), s.pcr.clk.tb = true ∧ s.ms.logBuf = e :: es ∧ s.ms.logLost = 0) ∧
    (∃ (s : State) (b : List Byte), s.pcr.clk.tb = true ∧ s.ms.tallyNew = some b) ∧
    (∃ (s : State), s.pcr.clk.tb = true ∧ s.everyTicks 360000000000 = true ∧ s.ms.wearAt ≠ some s.tb.now) ∧
    (∃ (s : State), s.pcr.clk.tb = true ∧ s.everyTicks 360000000000 = true) ∧
    (∃ (s : State), (∀ b, (s.frOf b).cntCorr = s.ms.corrAt[b.idx]) ∧ s.pcr.clk.tb = true ∧ s.everyTicks 360000000000 = true) :=
  ⟨⟨(base.modTb (fun t => { t with now := 900000000000 })), .a, by decide +kernel⟩,
   ⟨(base.modTb (fun t => { t with now := 900000000000 })), .a, by decide +kernel⟩,
   ⟨(base.modTb (fun t => { t with now := 900000000000 })), .a, by decide +kernel⟩,
   ⟨(base.modTb (fun t => { t with now := 8640000000000 })), by decide +kernel⟩,
   ⟨base, by decide +kernel⟩,
   ⟨base, .b, by decide +kernel⟩,
   ⟨(base.modStore .a (fun x => { x with st := .failed })).modPcr (fun x => { x with strOk := ⟨true, true⟩ }), .a,
       by decide +kernel⟩,
   ⟨base.modStore .b (fun x => { x with st := .resync }), .b, by decide +kernel⟩,
   ⟨base.modMs (fun m => { m with logBuf := [logE] }), logE, [], by decide +kernel⟩,
   ⟨base.modMs (fun m => { m with tallyNew := some [] }), [], by decide +kernel⟩,
   ⟨(base.modTb (fun t => { t with now := 360000000000 })), by decide +kernel⟩,
   ⟨(base.modTb (fun t => { t with now := 360000000000 })), by decide +kernel⟩,
   ⟨(base.modTb (fun t => { t with now := 360000000000 })), by intro b; cases b <;> decide +kernel, by decide +kernel⟩⟩

theorem witness_CruiseAndDebug :
    (∃ (s : State), s.sliceDue = true ∧ s.st.full = none ∧ s.cruiseMay = true ∧ s.katHeld (sliceAt s.marchSlices s.st.pos).1
        (sliceAt s.marchSlices s.st.pos).2 = false ∧ s.pslWaits (sliceAt s.marchSlices s.st.pos).1 (sliceAt s.marchSlices
        s.st.pos).2 = false) ∧
    (∃ (s : State), s.sliceDue = true ∧ s.st.full = none ∧ s.cruiseMay = false) ∧
    (∃ (s : State) (r : SliceResult) (k : Nat) (u : Tick), s.st.slice = some (k, u, false) ∧ 50 ≤ elapsed s.tb.now u ∧
        elapsed s.tb.now u ≤ 500 ∧ inRange 4850 5250 r.vl.1 = false) ∧
    (∃ (s : State) (r : SliceResult) (k : Nat) (u : Tick), sigOk 2 r = true ∧ s.st.slice = some (k, u, false) ∧ 50 ≤ elapsed
        s.tb.now u ∧ elapsed s.tb.now u ≤ 500 ∧ s.pcr.tbfOk = true ∧ inRange 4850 5250 r.vl.1 = true ∧ inRange 4850 5250
        r.vl.2 = true ∧ (sliceAt s.marchSlices k).1 = 2 ∧ allRead 5 r.readings = true ∧ s.st.pos + 1 < s.sliceCounts.sum) ∧
    (∃ (s : State) (r : SliceResult) (k : Nat) (u : Tick), sigOk 2 r = false ∧ s.st.slice = some (k, u, false) ∧ 50 ≤ elapsed
        s.tb.now u ∧ elapsed s.tb.now u ≤ 500 ∧ s.pcr.tbfOk = true ∧ inRange 4850 5250 r.vl.1 = true ∧ inRange 4850 5250
        r.vl.2 = true ∧ (sliceAt s.marchSlices k).1 = 2 ∧ allRead 5 r.readings = true ∧ s.st.pos + 1 < s.sliceCounts.sum ∧
        s.bad = [] ∧ (s.dev = .idle ∨ s.dev = .run)) ∧
    (∃ (s : State), s.st.cruise = true ∧ s.st.lateRec = false ∧ s.bad = [] ∧ 60000000000 ≤ elapsed s.tb.now s.st.roundAt) ∧
    (∃ (s : State), s.st.cruise = true ∧ s.st.stallRec = false ∧ 420000000000 + s.heldTime ≤ elapsed s.tb.now s.st.roundAt ∧
        s.bad = [] ∧ (s.dev = .idle ∨ s.dev = .run)) ∧
    (∃ (s : State), s.tapOpen ∧ s.dbgAvail = false) ∧
    (∃ (s : State), s.tapOpen ∧ s.dbgAvail = true ∧ (s.dev = .start ∨ s.dev = .hold ∨ s.dev = .recovery) ∧ s.st.dbg.haltA =
        false) ∧
    (∃ (s : State), s.tapOpen ∧ s.dbgAvail = true ∧ s.dev = .run ∧ (s.core .a).seq = .wait ∧ s.st.dbg.haltA = false ∧ (s.core
        .b).seq = .wait ∧ (s.core .b).sealed = none) ∧
    (∃ (s : State), s.tapOpen ∧ s.dbgAvail = true ∧ s.dev = .halt ∧ s.st.dbg.haltA = true ∧ s.st.dbg.haltB = true ∧ s.st.ack
        = none ∧ s.st.dbg.pendHalt = false) ∧
    (∃ (s : State), s.tapOpen ∧ s.dbgAvail = true ∧ s.dev = .halt ∧ s.st.dbg.haltA = true ∧ s.st.dbg.haltB = true ∧ s.st.ack
        = none ∧ (s.core .a).rank < (s.core .a).ranks) ∧
    (∃ (s : State), s.tapOpen ∧ s.dbgAvail = true ∧ s.dev = .halt ∧ s.st.dbg.haltA = true ∧ s.st.dbg.haltB = true ∧ s.st.ack
        = none ∧ (s.core .a).ranks ≤ (s.core .a).rank) ∧
    (∃ (s : State), s.tapOpen ∧ s.dbgAvail = true ∧ s.st.dbg.haltA = true ∧ s.st.dbg.haltB = false ∧ s.st.dbg.queue.length <
        16) :=
  ⟨⟨(base.modSt (fun x => { x with cruise := true, batch := some (1, base.tb.now - 5000) })).modPcr (fun x =>
      { x with tbfOk := true, vlMv := ⟨4850, 5250⟩ }), by decide +kernel⟩,
   ⟨base.modSt (fun x => { x with cruise := true, batch := some (1, base.tb.now - 5000) }), by decide +kernel⟩,
   ⟨base.modSt (fun x => { x with slice := some (0, base.tb.now - 500, false) }), slice 4849 (sliceSig 2 (classSteps 2)), 0,
       base.tb.now - 500, by decide +kernel⟩,
   ⟨(base.modSt (fun x => { x with slice := some (1056, base.tb.now - 50, false), pos := 1056 })).modPcr (fun x =>
       { x with tbfOk := true }), slice 4850 (sliceSig 2 (classSteps 2)), 1056, base.tb.now - 50, sigOk_sliceSig _,
       by decide +kernel⟩,
   ⟨(base.modSt (fun x => { x with slice := some (1056, base.tb.now - 50, false), pos := 1056 })).modPcr (fun x =>
       { x with tbfOk := true }), slice 4850 (sliceSig 2 (classSteps 2) + 1), 1056, base.tb.now - 50, sigOk_other _,
       by decide +kernel⟩,
   ⟨base.modSt (fun x => { x with cruise := true }), by decide +kernel⟩,
   ⟨base.modSt (fun x => { x with cruise := true }), by decide +kernel⟩,
   ⟨(base.modPcr (fun x => { x with trstN := true })).modSt (fun x => { x with lc := .safeRun }),
       by unfold State.tapOpen; decide +kernel⟩,
   ⟨{ base.modPcr (fun x => { x with trstN := true }) with dev := .hold }, by unfold State.tapOpen; decide +kernel⟩,
   ⟨((base.modPcr (fun x => { x with trstN := true })).modCore .a (fun x => { x with seq := .wait })).modCore .b (fun x =>
       { x with seq := .wait }), by unfold State.tapOpen; decide +kernel⟩,
   ⟨{ (base.modPcr (fun x => { x with trstN := true })).modSt (fun x => { x with dbg := { x.dbg with haltA := true, haltB := true } }) with dev := .halt }, by unfold State.tapOpen; decide +kernel⟩,
   ⟨{ (base.modPcr (fun x => { x with trstN := true })).modSt (fun x => { x with dbg := { x.dbg with haltA := true, haltB := true } }) with dev := .halt }, by unfold State.tapOpen; decide +kernel⟩,
   ⟨({ (base.modPcr (fun x => { x with trstN := true })).modSt (fun x => { x with dbg := { x.dbg with haltA := true, haltB := true } }) with dev := .halt }).modCore .a (fun x => { x with rank := 1 }), by unfold State.tapOpen; decide +kernel⟩,
   ⟨(base.modPcr (fun x => { x with trstN := true })).modSt (fun x => { x with dbg := { x.dbg with haltA := true } }),
       by unfold State.tapOpen; decide +kernel⟩⟩

theorem witness_NoCommandTouchesTheQueue : ∃ (c : Instr) (s t : State), exec c s = .next t ∧ t.hp.owner = some .b :=
  ⟨.cfgClaim .b 0xC1A1, { base with hp := { base.hp with owner := none } }, _, rfl, by decide +kernel⟩

theorem witness_StepKeepsMemoriesCanonical : ∃ s t : State, s.memOk ∧ step s = .next t ∧ s.pending ≠ [] :=
  ⟨{ State.reset with pending := [.cfgClaim .b 0] }, _,
   ⟨fun c => by cases c <;> (unfold CoreSt.memOk; decide +kernel), fun i => by cases i <;> (unfold Store.memOk; decide +kernel),
    fun p => by cases p <;> (unfold State.portMemOk; decide +kernel)⟩, rfl, by decide +kernel⟩

theorem witness_StepKeepsDriversInhibitedOutsideRun : ∃ s t : State, s.driversSafe ∧ step s = .next t ∧ s.pending ≠ [] :=
  ⟨{ State.reset with pending := [.cfgClaim .b 0] }, _, fun _ => rfl, rfl, by decide +kernel⟩

/-! ## Ill-formed commands, one for each check of WellFormed -/

/-- Register offsets: inside BAR0, a multiple of 4; a debug register below 256 (R291, R446). -/
theorem refused_targets :
    (Instr.registerWrite (.bar0 .a 0x40000) 0 .whole).wf = false ∧ (Instr.registerWrite (.bar0 .a 6) 0 .whole).wf = false ∧
    (Instr.registerWrite (.debug 256) 0 .whole).wf = false ∧ (Instr.isolatedAccess .b 0x40000 true).wf = false ∧
    (Instr.lowHalfRead .a (.bar0 2)).wf = false ∧ (Instr.lowHalfRead .a (.bar2 0x200000)).wf = false ∧
    (Instr.lowHalfRead .a (.debug 256 none)).wf = false ∧ (Instr.registerWrite (.bar0 .a 0x3FFFC) 0 .whole).wf = true := by decide

/-- Journal records, bit errors, samples and lists no longer than what they report on. -/
theorem refused_reports :
    (Instr.journalReplay [(.a, 43690)]).wf = false ∧
    (Instr.rankComplete .a [⟨true, 8192, 1⟩]).wf = false ∧ (Instr.rankComplete .a [⟨true, 5, 4⟩]).wf = false ∧
    (Instr.sampleEdge { smp with outs := List.replicate 145 ⟨true, true, true, 0, 0⟩ }).wf = false ∧
    (Instr.sampleEdge { smp with temps := List.replicate 13 0 }).wf = false ∧
    (Instr.sampleEdge { smp with hitA := [(0x400, 0)] }).wf = false ∧
    (Instr.sampleEdge { smp with hitB := [(0x1000, 0)] }).wf = false ∧
    (Instr.fieldStep 0 (List.replicate 129 (0, 0)) []).wf = false ∧
    (Instr.fieldStep 0 [] (List.replicate 69 (0, 0))).wf = false ∧
    (Instr.copyCheckPass .a (List.replicate 449 (0, 0))).wf = false ∧
    (Instr.measurementInstant 0 (List.replicate 65 ⟨0, 0, true⟩) []).wf = false ∧
    (Instr.measurementInstant 0 [] (List.replicate 5 ⟨0, 0, true⟩)).wf = false ∧
    (Instr.quietExpiry .ib 256 0).wf = false := by decide +kernel

/-- Currents and store addresses inside their fields. -/
theorem refused_ranges :
    (Instr.darkWindowEnd 0 true true true 0x10000).wf = false ∧ (Instr.residual 0 ⟨true, true, true, 0x10000, 0⟩).wf = false ∧
    (Instr.residual 0 ⟨true, true, true, 0, 0x10000⟩).wf = false ∧ (Instr.short 0 0x10000 0 0).wf = false ∧
    (Instr.openLoad 0 0x10000 0).wf = false ∧ (Instr.auxSum 0 0x10000 0).wf = false ∧
    (Instr.storeTimeout .a .noAnswer 0x800000).wf = false ∧
    (Instr.cruiseSliceEnd { slice 4850 0 with addr := 0x800000 }).wf = false := by decide

/-- The landing window, descriptors and entries (R306, R336, R334). -/
theorem refused_window :
    (Instr.descriptorArrival .a 0 (some [1, 2])).wf = false ∧ (Instr.entryWrite .a 6 [1, 2, 3] false).wf = false ∧
    (Instr.entryWrite .a 4096 [1] false).wf = false ∧ (Instr.entryWrite .a 0 [] false).wf = false ∧
    (Instr.landingWrite .a 4095 [1] false false).wf = false ∧ (Instr.landingWrite .a 4096 [] false false).wf = false ∧
    (Instr.landingWrite .a 0x1FFFFF [1, 2] false false).wf = false := by decide

/-! ## Worked examples of the spec -/

/-- The state a command answers. -/
def after : Host.Outcome State Fault Refusal → State
  | .next t => t
  | _ => State.reset

/-- The two checks over "123456789" (R367), and VAL before the final XOR (the example of chapter 15). -/
theorem test_crc_checks :
    crc32c [0x31, 0x32, 0x33, 0x34, 0x35, 0x36, 0x37, 0x38, 0x39] = 0xE3069283 ∧
    crc32cState 0xFFFFFFFF [0x31, 0x32, 0x33, 0x34, 0x35, 0x36, 0x37, 0x38, 0x39] = 0x1CF96D7C ∧
    [0x31, 0x32, 0x33, 0x34, 0x35, 0x36, 0x37, 0x38, 0x39].foldl (cvStep true) 0xFFFF = 0x29B1 := by decide +kernel

/-- CAP_CTL 0x0000_071D is SRC 0x1D, EDGE 0b11, TAP 0b01 (the example of chapter 11). -/
theorem test_cap_ctl :
    let x : Cap := (after (exec (.capCtlWrite .a 0 0x071D) base)).tb.cap[(0 : Fin 16)]
    x.src = 0x1D ∧ x.edge = 3 ∧ x.tap = 1 := by decide +kernel

/-- Input 29 after its comparator has gone to this level on the present tick. -/
def edge29 (lv : Bool) (s : State) : State :=
  s.modInput 29 (fun x => { x with on := true, live := lv, liveAt := s.tb.now, c2 := !lv })

/-- The rising edge at t0 = 0x2_0000_0000 and the falling one 30,000 ticks later (the same example). -/
theorem test_capture_entries :
    let s := (base.modCap 0 (fun x => { x with src := 0x1D, edge := 3, tap := 1 })).modTb (fun t => { t with now := 0x200000000 })
    let t := after (exec (.captureEvent 0 true) (edge29 true s))
    (t.tb.cap[(0 : Fin 16)] : Cap).queue = [0x8000000200000000] ∧
    ((after (exec (.captureEvent 0 false) (edge29 false (t.modTb (fun t => { t with now := t.now + 30000 }))))).tb.cap[(0 : Fin 16)]
      : Cap).queue = [0x8000000200000000, 0x0000000200007530] := by decide +kernel

/-- The read on the tick of the fifth edge returns 0x0000_0000 and leaves three entries (the same example). -/
theorem test_cap_read :
    let s := base.modCap 0 (fun x => { x with queue := [0x8000000200000000, 1, 2, 3] })
    ((after (exec (.capLoRead .a 0) s)).tb.cap[(0 : Fin 16)] : Cap).queue = [1, 2, 3] := by decide +kernel

/-- 3,250,000 ticks in a BAK window is +40,000 ppm: PCR_FREQ 0x0000_9C40 (the example of chapter 17). -/
theorem test_tb_freq : (after (exec .tbFreqWindow (base.modPcr (fun x => { x with freqFrom := base.tb.now - 3250000 })))).pcr.freq = 0x00009C40 := by decide +kernel

/-- 0xC1A1_0004 written to CFG_OWNER by HP1: OWNER reads HP1 (the example of chapter 12). -/
theorem test_claim :
    (after (exec (.cfgClaim .b 0xC1A1) { base with hp := { base.hp with owner := none } })).hp.owner = some .b := by decide +kernel

/-- IN000's entry 0x40C0_0001 and IN032's 0x5080_0003 (the examples of chapter 5). -/
theorem test_input_entries :
    inputEntry 0x40C00001 = { mode := 1, filter := 0, source := 0, pulsed := true, partner := 1, paired := true } ∧
    (inputEntry 0x50800003).mode = 3 ∧ (inputEntry 0x50800003).partner = 33 ∧ (inputEntry 0x50800003).paired = true := by
  decide +kernel

/-- Words as an image's bytes. -/
def wordsAt (ws : List Nat) : Bytes := fun a => ws.getD (a / 4) 0 / 256 ^ (a % 4) % 256

/-- PS01's entry (the example of chapter 6) and AUX08's (the example of chapter 8). -/
theorem test_entries :
    strumEntry (wordsAt [0x00222710, 0x0000012C, 0x00C80000]) 0 = ⟨true, 10000, 300, [(0, 100)]⟩ ∧
    outputEntry (wordsAt [0x010FA191, 0x02BC00FA]) 0 =
      { enable := true, dark := 200, darkInt := 1000, load := 1, iMin := 250, iMax := 700 } := by decide +kernel

end Sys2Proof.Tests
end

section
/-!
PROOFS about register accesses: what recording a corrected fault leaves of the ports, where a BAR0 offset leads, and what a
write or read that reaches its register does. They settle O54.
-/
namespace Sys2Proof

@[simp] theorem Block.ofId_id (b : Block) : Block.ofId b.id = some b := by cases b <;> rfl

theorem Block.id_pos (b : Block) : 1 ≤ b.id := by cases b <;> decide
theorem Block.id_le (b : Block) : b.id ≤ 14 := by cases b <;> decide

end Sys2Proof

namespace Sys2Proof.Machine

/-! ## A corrected fault while no resource is bad (R250, R265) -/

/-- What differs by the fault records and the ports alone is the state with these two replaced. -/
theorem Only.eq_of_fr_hp {s t : State} (h : Only 16400 s t) : t = { s with fr := t.fr, hp := t.hp } := by
  cases s
  cases t
  simp only [State.mk.injEq, true_and]
  exact ⟨h.pending.resolve_left (by decide), h.dev.resolve_left (by decide), h.devAt.resolve_left (by decide),
    h.bad.resolve_left (by decide), h.sc.resolve_left (by decide), h.pcr.resolve_left (by decide),
    h.tb.resolve_left (by decide), h.st.resolve_left (by decide), h.ev.resolve_left (by decide),
    h.ib.resolve_left (by decide), h.ps.resolve_left (by decide), h.af.resolve_left (by decide),
    h.os.resolve_left (by decide), h.wq.resolve_left (by decide), h.pl.resolve_left (by decide),
    h.cv.resolve_left (by decide), h.ms.resolve_left (by decide), h.free.resolve_left (by decide)⟩

/-- Interrupts change only what a port has sent and what it holds pending. -/
structure HpPort.SameButIrqs (h k : HpPort) : Prop where
  eq : k = { h with sent := k.sent, pend := k.pend }

theorem HpPort.SameButIrqs.refl (h : HpPort) : h.SameButIrqs h := ⟨rfl⟩

theorem HpPort.SameButIrqs.trans {h k l : HpPort} (hk : h.SameButIrqs k) (kl : k.SameButIrqs l) : h.SameButIrqs l :=
  ⟨by rw [kl.eq, hk.eq]⟩

theorem HpPort.SameButIrqs.disc {h k : HpPort} (e : h.SameButIrqs k) : k.disc = h.disc := by rw [e.eq]

theorem HpPort.SameButIrqs.refused {h k : HpPort} (e : h.SameButIrqs k) : k.refused = h.refused := by rw [e.eq]

theorem sendVector_sameButIrqs (p q : Side) (v : Fin 32) (s : State) :
    (s.hport q).SameButIrqs ((sendVector p v s).hport q) := by
  unfold sendVector
  by_cases hq : q = p
  · subst hq
    rw [hport_modHport]
    dsimp only
    split <;> exact ⟨rfl⟩
  · rw [hport_modHport_ne _ _ hq]
    exact .refl _

theorem raiseFaultIrq_sameButIrqs (b : Block) (q : Side) (s : State) :
    (s.hport q).SameButIrqs ((raiseFaultIrq b s).hport q) := by
  have one : ∀ (p : Side) (t : State), (t.hport q).SameButIrqs
      ((if ((t.hport p).vmap[b.idx]).fen then sendVector p ((t.hport p).vmap[b.idx]).fvec.toFin t else t).hport q) := by
    intro p t
    split
    · exact sendVector_sameButIrqs ..
    · exact .refl _
  exact (one .a s).trans (one .b _)

theorem recordPlain_sameButIrqs (f : FaultRep) (q : Side) (s : State) :
    (s.hport q).SameButIrqs ((recordPlain f s).hport q) := by
  unfold recordPlain
  dsimp only
  split
  · exact raiseFaultIrq_sameButIrqs f.block q (s.modRec _ _)
  · exact .refl _

theorem recordPlain_cntCorr (f : FaultRep) (s : State) :
    ((recordPlain f s).frOf f.block).cntCorr = satInc (s.frOf f.block).cntCorr := by
  have e : (recordPlain f s).fr = (s.modRec f.block (recordIn (slotOf { f with cls := .corrected } .corrected none s.now) s.now)).fr := by
    unfold recordPlain
    dsimp only
    split
    · exact raiseFaultIrq_f_fr
    · rfl
  rw [frOf_of_fr e, frOf_modRec]
  simp [recordIn, slotOf]

theorem recordCorrected_of_bad_nil {f : FaultRep} {s : State} (h : s.bad = []) : recordCorrected f s = recordPlain f s := by
  simp [recordCorrected, badFor, h]

/-- A corrected fault of HP while no resource is bad: counted, and of the rest only fault records and interrupts change. -/
theorem recordCorrected_hp {f : FaultRep} {s : State} (h : s.bad = []) (hb : f.block = .hp) :
    ((recordCorrected f s).frOf .hp).cntCorr = satInc (s.frOf .hp).cntCorr ∧
    (∀ q, (s.hport q).SameButIrqs ((recordCorrected f s).hport q)) ∧
    recordCorrected f s = { s with fr := (recordCorrected f s).fr, hp := (recordCorrected f s).hp } := by
  rw [recordCorrected_of_bad_nil h]
  exact ⟨hb ▸ recordPlain_cntCorr f s, fun q => recordPlain_sameButIrqs f q s, (recordPlain_only f s).eq_of_fr_hp⟩

theorem recordPoisoned_hp (p : Side) {s : State} (h : s.bad = []) :
    ((recordPoisoned p s).frOf .hp).cntCorr = satInc (s.frOf .hp).cntCorr ∧
    (∀ q, (s.hport q).SameButIrqs ((recordPoisoned p s).hport q)) ∧
    recordPoisoned p s = { s with fr := (recordPoisoned p s).fr, hp := (recordPoisoned p s).hp } :=
  recordCorrected_hp h rfl

theorem recordAccess_hp (p : Side) (o : Nat) {s : State} (h : s.bad = []) :
    ((recordAccess .hp p o s).frOf .hp).cntCorr = satInc (s.frOf .hp).cntCorr ∧
    (∀ q, (s.hport q).SameButIrqs ((recordAccess .hp p o s).hport q)) ∧
    recordAccess .hp p o s = { s with fr := (recordAccess .hp p o s).fr, hp := (recordAccess .hp p o s).hp } :=
  recordCorrected_hp h rfl

/-- A write discarded, counted and recorded as ACCESS in HP (R292). -/
theorem recordAccess_hp_discardWrite (p : Side) (o : Nat) {s : State} (h : s.bad = []) :
    ((recordAccess .hp p o (discardWrite p s)).frOf .hp).cntCorr = satInc (s.frOf .hp).cntCorr ∧
    ((recordAccess .hp p o (discardWrite p s)).hport p).disc = satInc (s.hport p).disc ∧
    ((recordAccess .hp p o (discardWrite p s)).hport p).refused = (s.hport p).refused ∧
    recordAccess .hp p o (discardWrite p s) = { s with
      fr := (recordAccess .hp p o (discardWrite p s)).fr, hp := (recordAccess .hp p o (discardWrite p s)).hp } := by
  have hbad : (discardWrite p s).bad = [] := h
  obtain ⟨cnt, same, frame⟩ := recordAccess_hp p o hbad
  refine ⟨cnt, ?_, ?_, frame⟩
  · exact (same p).disc.trans (by simp [discardWrite])
  · exact (same p).refused.trans (by simp [discardWrite])

/-! ## A write in its turn from a live port (R285, R293, R301) -/

theorem hostWriteOf_registerWrite_bar0 (p : Side) (o : Nat) (v : Word) (k : WriteKind) :
    hostWriteOf (.registerWrite (.bar0 p o) v k) =
      if o < 0xF000 ∧ o / 0x1000 ≠ 8 then some ⟨p, o, fromPort p (regWriteAct p o v k)⟩ else none := rfl

theorem exec_registerWrite_bar0 {s : State} {p : Side} {o : Nat} {v : Word} {k : WriteKind} (l : s.live p)
    (turn : s.inTurn (.registerWrite (.bar0 p o) v k)) :
    exec (.registerWrite (.bar0 p o) v k) s = .next (regWriteAct p o v k s) := by
  show Host.Outcome.next (if (hostWriteOf _).isSome then inOrder _ s else fromPort p (regWriteAct p o v k) s) = _
  have e := hostWriteOf_registerWrite_bar0 p o v k
  by_cases c : o < 0xF000 ∧ o / 0x1000 ≠ 8
  · rw [if_pos c] at e
    rw [e, inOrder_inTurn e turn]
    exact congrArg _ (fromPort_live l)
  · rw [if_neg c] at e
    rw [e]
    exact congrArg _ (fromPort_live l)

/-- No other write goes ahead of one to the rings, the doorbells or the MSI-X table. -/
theorem inTurn_of_ge {s : State} {p : Side} {o : Nat} {v : Word} {k : WriteKind} (h : 0xF000 ≤ o) :
    s.inTurn (.registerWrite (.bar0 p o) v k) := by
  intro w e
  rw [hostWriteOf_registerWrite_bar0, if_neg (by omega)] at e
  cases e

/-! ## What a register write does at its offset (R7 to R9, R292) -/

theorem regWriteAct_reserved {p : Side} {o : Nat} {v : Word} {s : State} (iso : s.isolatedAt o = false)
    (reserved : bar0Reg p s o = none) : regWriteAct p o v .whole s = recordAccess .hp p o (discardWrite p s) := by
  simp [regWriteAct, iso, reserved]

theorem regWriteAct_register {p : Side} {o : Nat} {v : Word} {s : State} {f : State → State} (iso : s.isolatedAt o = false)
    (reg : (bar0Reg p s o).isSome = true) (w : bar0Write p o v = some f) : regWriteAct p o v .whole s = f s := by
  have : (bar0Reg p s o).isNone = false := by simpa using reg
  simp [regWriteAct, iso, this, w]

theorem regWriteAct_readOnly {p : Side} {o : Nat} {v : Word} {s : State} (iso : s.isolatedAt o = false)
    (reg : (bar0Reg p s o).isSome = true) (w : bar0Write p o v = none) : regWriteAct p o v .whole s = roWrite p o v s := by
  have : (bar0Reg p s o).isNone = false := by simpa using reg
  simp [regWriteAct, iso, this, w]

/-- A value below 2^k sets no bit outside the low k. -/
theorem and_not_lowMask {v : Word} {k : Nat} (h : v.toNat < 2 ^ k) : v &&& ~~~BitVec.ofNat 32 (2 ^ k - 1) = 0 := by
  refine BitVec.eq_of_getLsbD_eq fun i _ => ?_
  have high : k ≤ i → v.getLsbD i = false := fun hk =>
    Nat.testBit_lt_two_pow (Nat.lt_of_lt_of_le h (Nat.pow_le_pow_right (by decide) hk))
  by_cases hk : k ≤ i
  · simp [high hk]
  · simp [BitVec.getLsbD_ofNat, Nat.testBit_two_pow_sub_one, show i < k by omega]

theorem withReserved_of_fits {b : Block} {p : Side} {o : Nat} {used v : Word} {s : State} (h : v &&& ~~~used = 0) :
    withReserved b p o used v s = s := if_pos h

/-- Zeros set no reserved bit. -/
@[simp] theorem withReserved_zero (b : Block) (p : Side) (o : Nat) (used : Word) (s : State) :
    withReserved b p o used 0 s = s := withReserved_of_fits (BitVec.zero_and ..)

/-- A register with 32 bits in use has no reserved one. -/
@[simp] theorem withReserved_full (b : Block) (p : Side) (o : Nat) (v : Word) (s : State) :
    withReserved b p o 0xFFFFFFFF v s = s := withReserved_of_fits (BitVec.and_zero ..)

theorem roWrite_zero (p : Side) (o : Nat) (s : State) : roWrite p o 0 s = countRefused p s := by
  unfold roWrite
  simp only [withReserved_zero]
  cases Block.ofId (o / 0x1000) <;> simp

/-! ## Registers of a block -/

section
variable {b : Block} {o : Nat} (ho : o < 0x1000)
include ho

theorem blockOffset_div : (0x1000 * b.id + o) / 0x1000 = b.id := by omega
theorem blockOffset_mod : (0x1000 * b.id + o) % 0x1000 = o := by omega

theorem isolatedAt_block (s : State) : s.isolatedAt (0x1000 * b.id + o) = isolated b s := by
  have := b.id_le
  rw [State.isolatedAt, if_pos (by omega), blockAt, blockOffset_div ho, Block.ofId_id]

theorem bar0Reg_block (p : Side) (s : State) (h4 : o % 4 = 0) : bar0Reg p s (0x1000 * b.id + o) = blockReg b p s o := by
  have := b.id_le
  have := b.id_pos
  rw [bar0Reg, if_neg (by omega), if_neg (by omega), if_pos (by omega), blockOffset_div ho, Block.ofId_id, blockOffset_mod ho]
  rfl

theorem bar0Write_block (p : Side) (v : Word) : bar0Write p (0x1000 * b.id + o) v = blockWrite b p o v := by
  have := b.id_le
  have := b.id_pos
  rw [bar0Write, if_neg (by omega), if_pos (by omega), blockOffset_div ho, Block.ofId_id, blockOffset_mod ho]
  rfl

theorem regWriteAct_block {p : Side} {v : Word} {s : State} {f : State → State} (h4 : o % 4 = 0) (iso : isolated b s = false)
    (reg : (blockReg b p s o).isSome = true) (w : blockWrite b p o v = some f) :
    regWriteAct p (0x1000 * b.id + o) v .whole s = f s :=
  regWriteAct_register ((isolatedAt_block ho s).trans iso) ((bar0Reg_block ho p s h4).symm ▸ reg)
    ((bar0Write_block ho p v).trans w)

end

theorem exec_registerWrite_block {s : State} {p : Side} {b : Block} {o : Nat} {v : Word} {f : State → State}
    (r : s.reaches p b (.registerWrite (.bar0 p (0x1000 * b.id + o)) v .whole)) (ho : o < 0x1000) (h4 : o % 4 = 0)
    (reg : (blockReg b p s o).isSome = true) (w : blockWrite b p o v = some f) :
    exec (.registerWrite (.bar0 p (0x1000 * b.id + o)) v .whole) s = .next (f s) := by
  obtain ⟨l, iso, turn⟩ := r
  rw [exec_registerWrite_bar0 l turn, regWriteAct_block ho h4 iso reg w]

theorem blockReg_frIen_isSome (b : Block) (p : Side) (s : State) : (blockReg b p s 0x140).isSome = true := rfl

/-- A write to FR_IEN sets the record's enables alone (R265). -/
theorem exec_frIen_write {s : State} {p : Side} {b : Block} {v : Word}
    (r : s.reaches p b (.registerWrite (.bar0 p (0x1000 * b.id + 0x140)) v .whole)) (hv : v.toNat < 16) :
    exec (.registerWrite (.bar0 p (0x1000 * b.id + 0x140)) v .whole) s =
      .next (s.modRec b (fun r => { r with ien := v.extractLsb' 0 4 })) := by
  rw [exec_registerWrite_block r (by decide) (by decide) (blockReg_frIen_isSome b p s) rfl]
  exact congrArg _ (withReserved_of_fits (and_not_lowMask (k := 4) hv))

/-- A write to the compare enables sets them alone (R288). -/
theorem exec_ienCmp_write {s : State} {p : Side} {v : Word}
    (r : s.reaches p .tb (.registerWrite (.bar0 p 0x7020) v .whole)) :
    exec (.registerWrite (.bar0 p 0x7020) v .whole) s = .next (s.modTb (fun t => { t with ienCmp := v })) :=
  exec_registerWrite_block (b := .tb) (o := 0x020) r (by decide) (by decide) rfl rfl

/-! ## SQ_SEQ0 (R339) -/

theorem isolatedAt_ring {s : State} {o : Nat} (h : 0x10000 ≤ o) (k : o < 0x13000) : s.isolatedAt o = isolated .wq s := by
  simp [State.isolatedAt, show ¬ o < 0xF000 by omega, h, k]

theorem bar0Reg_sqSeq0_isSome (p : Side) (s : State) : ∀ n : Fin 8, (bar0Reg p s (0x10010 + 0x40 * n.val)).isSome = true
  | 0 | 1 | 2 | 3 | 4 | 5 | 6 | 7 => rfl

theorem bar0Write_sqSeq0 (p : Side) (v : Word) : ∀ n : Fin 8, bar0Write p (0x10010 + 0x40 * n.val) v = sqWrite p n 0x10 v
  | 0 | 1 | 2 | 3 | 4 | 5 | 6 | 7 => rfl

theorem sqWrite_seq0 (p : Side) (n : Fin 8) (v : Word) :
    sqWrite p n 0x10 v =
      some (fun s => locked p (s.sq p n).en (fun s => s.modSq p n (fun q => { q with seq0 := v })) s) := by
  simp only [sqWrite, withReserved_full]

/-- SQ_SEQ0 takes any value while its ring is disabled, and is locked while it is enabled. -/
theorem exec_sqSeq0_write {s : State} {p : Side} {n : Fin 8} {v : Word} (l : s.live p) (iso : isolated .wq s = false) :
    exec (.registerWrite (.bar0 p (0x10010 + 0x40 * n.val)) v .whole) s =
      .next (locked p (s.sq p n).en (fun s => s.modSq p n (fun q => { q with seq0 := v })) s) := by
  have := n.isLt
  rw [exec_registerWrite_bar0 l (inTurn_of_ge (by omega)),
    regWriteAct_register ((isolatedAt_ring (by omega) (by omega)).trans iso) (bar0Reg_sqSeq0_isSome p s n)
      ((bar0Write_sqSeq0 p v n).trans (sqWrite_seq0 p n v))]

/-! ## Configuration space (R289, R290, R298) -/

theorem exec_registerWrite_config {s : State} {p : Side} {r : CfgReg} {v : Word} {k : WriteKind} (l : s.live p) :
    exec (.registerWrite (.config p r) v k) s = .next (configWrite p r v k s) :=
  congrArg _ (fromPort_live l)

/-- With no bit pending there is nothing to send. -/
theorem flushPending_of_pend_zero {p : Side} {s : State} (h : (s.hport p).pend = 0) : flushPending p s = s := by
  unfold flushPending
  induction fins 32 with
  | nil => rfl
  | cons v vs ih => simpa [h] using ih

theorem configWrite_msix {p : Side} {v : Word} {s : State} (h : (s.hport p).pend = 0) :
    configWrite p .msix v .whole s = s.modHport p (fun x => { x with msixEn := v.getLsbD 15, fnMask := v.getLsbD 14 }) := by
  have pend : ((s.modHport p (fun x => { x with msixEn := v.getLsbD 15, fnMask := v.getLsbD 14 })).hport p).pend = 0 := by
    rw [hport_modHport]
    exact h
  simp only [configWrite, reduceCtorEq, if_false]
  exact flushPending_of_pend_zero pend

theorem configWrite_power {p : Side} {v : Word} {s : State} (h : v.toNat % 4 = 0 ∨ v.toNat % 4 = 3) :
    configWrite p .power v .whole s = s.modHport p (fun x => { x with d3 := decide (v.toNat % 4 = 3) }) := by
  have e : v.extractLsb' 0 2 = BitVec.ofNat 2 (v.toNat % 4) := by
    apply BitVec.eq_of_toNat_eq
    simp
  rcases h with h | h <;> simp [configWrite, e, h]

/-! ## Reads through a port (R6, R290, R294) -/

theorem exec_landing_read {s : State} {p : Side} {o : Nat} (l : s.live p) (h : s.marchHolds p o 4 = false) :
    exec (.lowHalfRead p (.bar2 o)) s = .next (readData p (landingRead p o s) s) := by
  refine congrArg _ ((fromPort_live l).trans ?_)
  simp [windowRead, h]

theorem exec_config_read {s : State} {p : Side} {r : CfgReg} (l : s.live p) :
    exec (.lowHalfRead p (.config r)) s = .next (readData p (configRead p r s) s) :=
  congrArg _ (fromPort_live l)

/-- A read of TB_NOW_LO captures TB_NOW_HI in the port's holding register. -/
theorem exec_tbNowLo_read {s : State} {p : Side} (l : s.live p) (iso : isolated .tb s = false) :
    exec (.lowHalfRead p (.bar0 0x7008)) s =
      .next (readData p (loHalf s.tb.now) (latchHigh p 0x700C (hiHalf s.tb.now) s)) := by
  have iso' : s.isolatedAt 0x7008 = false := (isolatedAt_block (b := .tb) (o := 8) (by decide) s).trans iso
  have lo : bar0Reg p s 0x7008 = some (loHalf s.tb.now).toNat := rfl
  have hi : bar0Reg p s 0x700C = some (hiHalf s.tb.now).toNat := rfl
  have notHigh : highHalf 0x7008 = false := by decide
  have isLow : lowHalf 0x7008 = true := by decide
  refine congrArg _ ((fromPort_live l).trans ?_)
  simp [hostReadAct, iso', hostRead, notHigh, isLow, lo, hi]

/-! ## Debug registers and IDCODE through TAP A (R445, R446) -/

theorem throughDebug_of_tapOpen {s : State} {k : Nat} {f : State → State} (h : s.tapOpen) :
    throughDebug k f s = f (s.viaTap 0x21 (BitVec.ofNat 8 k)) := by
  obtain ⟨trst, extest⟩ := h
  simp only [throughDebug, throughTapA, trst, extest]
  rfl

theorem dbgReg_viaTap (k : Nat) (s : State) (ir a : BitVec 8) : dbgReg k (s.viaTap ir a) = dbgReg k s := rfl

theorem dbgWrite_unavailable {k : Nat} {v : Word} {s : State} (h : s.dbgAvail = false) : dbgWrite k v s = dbgRefuse s := by
  simp [dbgWrite, h]

theorem dbgRead_sound (k : Nat) (s : State) : dbgRead k none s = s.modPcr (fun p => { p with tdo := some (dbgReg k s) }) := by
  simp [dbgRead, dbgEcc]

theorem exec_debug_write {s : State} {k : Nat} {v : Word} (h : s.tapOpen) :
    exec (.registerWrite (.debug k) v .whole) s = .next (dbgWrite k v (s.viaTap 0x21 (BitVec.ofNat 8 k))) :=
  congrArg _ (throughDebug_of_tapOpen h)

theorem exec_debug_read {s : State} {p : Side} {k : Nat} (h : s.tapOpen) :
    exec (.lowHalfRead p (.debug k none)) s =
      .next ((s.viaTap 0x21 (BitVec.ofNat 8 k)).modPcr (fun x => { x with tdo := some (dbgReg k s) })) := by
  rw [← dbgReg_viaTap k s 0x21 (BitVec.ofNat 8 k)]
  exact congrArg _ ((throughDebug_of_tapOpen h).trans (dbgRead_sound ..))

theorem exec_idcode_read {s : State} {p : Side} (h : s.tapOpen) :
    exec (.lowHalfRead p (.idcode .a)) s =
      .next (s.modPcr (fun x => { x with ir := x.ir.set .a 1, tdo := some 0x1E064573 })) := by
  obtain ⟨trst, extest⟩ := h
  exact congrArg Host.Outcome.next (if_neg (by simp [trst, extest]))

/-! ## The statement -/

/-- Settles O54: each access, from a live port in its turn or through an open TAP A, comes down to what it does at its register,
and a corrected fault of HP is counted with no more than interrupts beside it. -/
theorem registerAccesses : Obligations.RegisterAccesses := by
  refine ⟨?_, ?_, ?_, ?_⟩
  · intro s p o v l iso bad turn
    refine ⟨fun reserved => ?_, ?_, ?_, fun reg ro zero => ?_⟩
    · obtain ⟨cnt, disc, refused, frame⟩ := recordAccess_hp_discardWrite p o bad
      exact ⟨_, (exec_registerWrite_bar0 l (turn .whole)).trans (congrArg _ (regWriteAct_reserved iso reserved)),
        disc, refused, cnt, frame⟩
    · obtain ⟨cnt, disc, -, frame⟩ := recordAccess_hp_discardWrite p o bad
      exact ⟨_, exec_registerWrite_bar0 l (turn .partialBytes), disc, cnt, frame⟩
    · obtain ⟨cnt, same, frame⟩ := recordPoisoned_hp p bad
      exact ⟨_, exec_registerWrite_bar0 l (turn .poisoned), (same p).disc, (same p).refused, cnt, frame⟩
    · subst zero
      rw [exec_registerWrite_bar0 l (turn .whole), regWriteAct_readOnly iso reg ro, roWrite_zero]
      rfl
  · intro s p b v l
    refine ⟨fun iso turn hv => ⟨_, exec_frIen_write ⟨l, iso, turn⟩ hv, ?_, fun c hc => frOf_modRec_ne s _ hc, rfl⟩,
      exec_ienCmp_write⟩
    rw [frOf_modRec]
  · intro s p n v l iso
    refine ⟨fun dis => ?_, fun en => ?_, fun pend => ?_, fun d => ?_, fun o => exec_landing_read l, fun r => exec_config_read l,
      fun tb => ⟨_, exec_tbNowLo_read l tb, ?_, ?_, ?_, rfl⟩⟩
    · rw [exec_sqSeq0_write l iso, dis]; rfl
    · rw [exec_sqSeq0_write l iso, en]; rfl
    · rw [exec_registerWrite_config l, configWrite_msix pend]
    · rw [exec_registerWrite_config l, configWrite_power d]
    · rw [readData, hport_modHport]
    · simp [readData, latchHigh]
    · simp [readData, latchHigh]
  · intro s p k v h
    refine ⟨fun closed => ?_, ⟨_, exec_debug_read h, rfl, rfl⟩, ⟨_, exec_idcode_read h, rfl, rfl⟩⟩
    rw [exec_debug_write h]
    exact congrArg _ (dbgWrite_unavailable closed)

end Sys2Proof.Machine
end

section
/-!
PROOFS about the entry to HOLD: what it leaves of drivers, cores, cells, sources and links, how a fatal fault comes to it, and
what a fatal fault of EV leaves. The proofs about the fabric use them.
-/
namespace Sys2Proof.Machine

/-! ## The parts of the entry (R26, R206, R273, R353) -/

@[simp] theorem since_isSome (now : Tick) (o : Option Tick) : (since now o).isSome = true := by cases o <;> rfl

theorem inhibitBoth_linesStopped (s : State) : (inhibitBoth s).linesStopped := by
  intro k d
  cases d <;> simp [inhibitBoth, inhibitSide, stopLine, Two.upd, Two.set, Two.get]

theorem inhibitBoth_inhib (s : State) : (inhibitBoth s).os.inhib = ⟨true, true⟩ := rfl

/-- A core as the entry to HOLD leaves it, its operand memory undefined from the count `k` on (R59). -/
def CoreSt.stop (k : Nat) (x : CoreSt) : CoreSt := { x with seq := .stopped, issued := false, timed := none, undef := some k }

theorem core_stopCores (c : Side) (s : State) : (stopCores s).core c = (s.core c).stop s.free := Two.get_map _ _ c

theorem idleCells_cells (s : State) (k : Fin 256) : (idleCells s).tb.master[k] = .idle ∧ (idleCells s).tb.shadow[k] = .idle := by
  simp [idleCells]

theorem sourcesOff_src_on (s : State) (k : Fin 32) : ((sourcesOff s).ps.src[k] : Source).on = false := by simp [sourcesOff]

theorem port_of_pl {s t : State} (h : t.pl = s.pl) (m : Fin 4) : (t.pl.port[m] : PlPort) = s.pl.port[m] := by simp [h]

/-- A change of a port that keeps its link state keeps that of every port. -/
theorem linkSt_modPlPort {n : Fin 4} {f : PlPort → PlPort} (s : State) (h : (f s.pl.port[n]).st = (s.pl.port[n] : PlPort).st)
    (m : Fin 4) : ((s.modPlPort n f).pl.port[m] : PlPort).st = (s.pl.port[m] : PlPort).st := by
  by_cases e : m = n
  · subst e
    rw [port_modPlPort, h]
  · rw [port_modPlPort_ne _ _ e]

@[simp] theorem linkSt_keepImage (n m : Fin 4) (s : State) :
    ((keepImage n s).pl.port[m] : PlPort).st = (s.pl.port[m] : PlPort).st := by
  refine linkSt_modPlPort s ?_ m
  split <;> rfl

theorem linkSt_plState (n m : Fin 4) (st : PlState) (s : State) :
    ((plState n st s).pl.port[m] : PlPort).st = if m = n then st else (s.pl.port[m] : PlPort).st := by
  unfold plState
  split
  · next same =>
    split
    · next e => rw [e, same]
    · rfl
  · have moved (f : PlPort → PlPort) (h : ∀ p, (f p).st = st) :
        (((keepImage n s).modPlPort n f).pl.port[m] : PlPort).st = if m = n then st else (s.pl.port[m] : PlPort).st := by
      split
      · next e => rw [e, port_modPlPort, h]
      · next e => rw [port_modPlPort_ne _ _ e, linkSt_keepImage]
    dsimp only
    split
    · rw [port_of_pl raiseEventIrq_f_pl]
      exact moved _ (fun _ => rfl)
    · exact moved _ (fun _ => rfl)

theorem linkSt_plOff (n m : Fin 4) (s : State) :
    ((plOff n s).pl.port[m] : PlPort).st = if m = n then .off else (s.pl.port[m] : PlPort).st := by
  unfold plOff
  rw [linkSt_modPlPort _ rfl, linkSt_plState, linkSt_keepImage]

theorem linkSt_plAllOff (s : State) (m : Fin 4) : ((plAllOff s).pl.port[m] : PlPort).st = .off := by
  have all : fins 4 = [0, 1, 2, 3] := rfl
  simp only [plAllOff, all, List.foldl_cons, List.foldl_nil, linkSt_plOff]
  match m with
  | 0 | 1 | 2 | 3 => rfl

/-! ## What a record holds uncleared (R252, R257) -/

@[simp] theorem recordIn_insts (e : Slot) (now : Tick) (r : FaultRecord) : (recordIn e now r).insts = r.insts := rfl

@[simp] theorem slotCause_insts (bad : List (Resource × Nat × Tick)) (now : Tick) (r : FaultRecord) :
    (slotCause bad now r).insts = r.insts := by
  unfold slotCause
  dsimp only
  split <;> rfl

theorem modRec_insts {s : State} {b : Block} {f : FaultRecord → FaultRecord} (h : ∀ r, (f r).insts = r.insts) (c : Block) :
    ((s.modRec b f).frOf c).insts = (s.frOf c).insts := by
  by_cases e : c = b
  · subst e
    rw [frOf_modRec]
    exact h _
  · rw [frOf_modRec_ne _ _ e]

theorem recordPlain_insts (f : FaultRep) (s : State) (c : Block) : ((recordPlain f s).frOf c).insts = (s.frOf c).insts := by
  rw [← modRec_insts (s := s) (b := f.block) (fun _ => recordIn_insts ..) c]
  unfold recordPlain
  dsimp only
  split
  · rw [frOf_of_fr raiseFaultIrq_f_fr]
  · rfl

theorem logPush_insts (e : LogEntry) (s : State) (c : Block) : ((logPush e s).frOf c).insts = (s.frOf c).insts := by
  unfold logPush
  split
  · rfl
  · exact recordPlain_insts _ _ c

theorem uncleared_of_insts {s t : State} {b : Block} (h : (t.frOf b).insts = (s.frOf b).insts) (cause item : Nat) :
    t.uncleared b cause item = s.uncleared b cause item := by simp only [State.uncleared, h]

/-- A line that turns bad marks faults consequential and leaves their causes and items. -/
theorem stormMark_any (bad : List (Resource × Nat × Tick)) (b : Block) (r : Resource) (code : Nat) (now : Tick)
    (fr : FaultRecord) (cause item : Nat) :
    (stormMark bad b r code now fr).insts.any (fun i => i.cause == cause && i.item == item) =
      fr.insts.any (fun i => i.cause == cause && i.item == item) := by
  simp only [stormMark, slotCause_insts, List.any_map]
  congr 1
  funext i
  simp only [Function.comp_apply]
  split <;> rfl

/-! ## The entry (R26 to R28) -/

/-- The entry to HOLD ends with these steps, from a state whose cores and uncleared faults are still as they were. -/
theorem setDev_hold (s : State) : ∃ u : State, u.dev = .hold ∧ u.ev = s.ev ∧ (∀ b, (u.frOf b).insts = (s.frOf b).insts) ∧
    setDev .hold s = ackCheck (plAllOff (sourcesOff (idleCells (stopCores (cruiseStop (inhibitBoth u)))))) := by
  unfold setDev
  simp only [reduceCtorEq, if_false]
  refine ⟨_, ?_, ?_, ?_, rfl⟩
  · simp
  · simp
  · intro b
    rw [frOf_of_fr (cruiseInterrupt_f_fr.trans backupState_f_fr)]
    exact (logPush_insts _ _ b).trans (by rw [frOf_of_fr modeDrop_f_fr])

theorem setDev_hold_inHold (s : State) : (setDev .hold s).inHold := by
  obtain ⟨u, dev, -, -, e⟩ := setDev_hold s
  have os : (setDev .hold s).os = (inhibitBoth u).os := by simp [e]
  have cores (c : Side) : (setDev .hold s).core c = (stopCores (cruiseStop (inhibitBoth u))).core c := core_of_ev (by simp [e]) c
  refine ⟨by simp [e, dev], by rw [os, inhibitBoth_inhib], ?_, fun c => by rw [cores, core_stopCores]; rfl, fun k => ?_, fun k => ?_,
    fun n => ?_⟩
  · unfold State.linesStopped
    rw [os]
    exact inhibitBoth_linesStopped u
  · rw [e, ackCheck_f_tb, plAllOff_f_tb, sourcesOff_f_tb]
    exact idleCells_cells _ k
  · rw [e, ackCheck_f_ps, plAllOff_f_ps]
    exact sourcesOff_src_on _ k
  · rw [e, ackCheck_f_pl]
    exact linkSt_plAllOff _ n

theorem setDev_hold_core (s : State) : ∃ k, ∀ c, (setDev .hold s).core c = (s.core c).stop k := by
  obtain ⟨u, -, ev, -, e⟩ := setDev_hold s
  refine ⟨(cruiseStop (inhibitBoth u)).free, fun c => ?_⟩
  rw [core_of_ev (t := setDev .hold s) (s := stopCores (cruiseStop (inhibitBoth u))) (by simp [e]), core_stopCores,
    core_of_ev (t := cruiseStop (inhibitBoth u)) (s := s) (by simp [ev])]

theorem setDev_hold_insts (s : State) (b : Block) : ((setDev .hold s).frOf b).insts = (s.frOf b).insts := by
  obtain ⟨u, -, -, insts, e⟩ := setDev_hold s
  rw [← insts b, frOf_of_fr (t := setDev .hold s) (s := u) (by simp [e])]

theorem enterHold_eq (s : State) : ∃ u, enterHold s = setDev .hold u ∧ u.fr = s.fr ∧ u.ev = s.ev := by
  have sends (t : State) : Only 65536 t ((fins 4).foldl (fun s n => s.modPlPort n (fun p => { p with sends := [] })) t) :=
    Only.foldl _ _ (Only.refl _ _) (fun _ _ h => modPlPort_nx h rfl)
  unfold enterHold
  dsimp only
  refine ⟨_, rfl, ?_, ?_⟩
  · simp only [modDbg_fr, modPcr_fr, modHp_fr, (sends _).fr.resolve_left (by decide), modSt_fr, ackDrop_f_fr, abortBegun_f_fr]
    split <;> simp
  · simp only [modDbg_ev, modPcr_ev, modHp_ev, (sends _).ev.resolve_left (by decide), modSt_ev, ackDrop_f_ev, abortBegun_f_ev]
    split <;> simp

theorem fatalAction_eq {s : State} (h : s.dev = .start ∨ s.dev = .idle ∨ s.dev = .run) :
    ∃ u, fatalAction s = setDev .hold u ∧ u.fr = s.fr ∧ u.ev = s.ev := by
  obtain ⟨u, e, fr, ev⟩ := enterHold_eq (inhibitBoth (s.modPcr (fun p => { p with fatalAt := s.now })))
  refine ⟨u, ?_, by simp [fr], by simp [ev]⟩
  rw [← e]
  unfold fatalAction
  rcases h with h | h | h <;> simp [h]

/-! ## A fatal fault while no resource is bad (R250, R255, R260) -/

/-- The recording of a fatal fault enters HOLD from a state in which it is uncleared and the cores are still as they were. -/
theorem recordCore_fatal {f : FaultRep} {s : State} (hc : f.cls = .fatal) (hb : s.bad = [])
    (hd : s.dev = .start ∨ s.dev = .idle ∨ s.dev = .run) :
    ∃ u, recordCore f s = setDev .hold u ∧ u.ev = s.ev ∧ u.uncleared f.block f.cause f.item = true := by
  have nobad : badFor f.block f.quarter s = none := by simp [badFor, hb]
  have eq : ∃ e g, recordCore f s = fatalAction (logFault 1 e f.block (s.modRec f.block g)) ∧
      ((g (s.frOf f.block)).insts.any (fun i => i.cause == f.cause && i.item == f.item)) = true := by
    simp only [recordCore, nobad, hc, Option.map_none]
    exact ⟨_, _, rfl, by simp⟩
  obtain ⟨e, g, eq, any⟩ := eq
  obtain ⟨u, hold, fr, ev⟩ := fatalAction_eq (s := logFault 1 e f.block (s.modRec f.block g)) (by simpa using hd)
  refine ⟨u, eq.trans hold, by simp [ev], ?_⟩
  have insts : (u.frOf f.block).insts = (g (s.frOf f.block)).insts := by
    rw [frOf_of_fr fr]
    exact (logPush_insts _ _ _).trans (by rw [frOf_modRec])
  rw [State.uncleared, insts, any]

theorem turnBad_snap_only (code : Nat) (s : State) : Only 24 s (turnBad .snap code s) := by
  unfold turnBad
  split
  · exact Only.refl _ _
  · constructor <;> first | exact .inr rfl | exact .inl rfl

theorem turnBad_snap_uncleared (code : Nat) (s : State) (b : Block) (cause item : Nat) :
    (turnBad .snap code s).uncleared b cause item = s.uncleared b cause item := by
  unfold turnBad
  split
  · rfl
  · simp only [State.uncleared, State.frOf, vmapIdx_get]
    split
    · exact stormMark_any ..
    · rfl

theorem inHold_of_only {s t : State} (h : Only 24 s t) (hold : s.inHold) : t.inHold := by
  simp only [State.inHold, State.linesStopped, State.core, h.dev.resolve_left (by decide), h.os.resolve_left (by decide),
    h.ev.resolve_left (by decide), h.tb.resolve_left (by decide), h.ps.resolve_left (by decide), h.pl.resolve_left (by decide)]
  exact hold

/-- The report of a fatal fault of EV. -/
def evReport (cause init addr acc : Nat) : FaultRep :=
  { block := .ev, cause := cause, cls := .fatal, scope := 0, item := 0, addr := addr, init := init, acc := acc }

theorem evFatal_eq (cause init addr acc : Nat) (s : State) :
    evFatal cause init addr acc s = recordFault (evReport cause init addr acc) s := rfl

/-- A fatal fault of EV other than a quarter's transfer, from START, IDLE or RUN: it stands uncleared, the module is in HOLD, and
both cores stop with their banks as they were. -/
theorem evFatal_enters {cause init addr acc : Nat} {s : State} (hq : cause ≠ 0x0A) (hb : s.bad = [])
    (hd : s.dev = .start ∨ s.dev = .idle ∨ s.dev = .run) :
    (evFatal cause init addr acc s).uncleared .ev cause 0 = true ∧ (evFatal cause init addr acc s).inHold ∧
    ∃ k, ∀ c, (evFatal cause init addr acc s).core c = (s.core c).stop k := by
  obtain ⟨u, eq, ev, uncl⟩ := recordCore_fatal (f := evReport cause init addr acc) rfl hb hd
  have uncl : (setDev .hold u).uncleared .ev cause 0 = true :=
    (uncleared_of_insts (setDev_hold_insts u .ev) cause 0).trans uncl
  obtain ⟨k, cores⟩ := setDev_hold_core u
  have cores (c : Side) : (setDev .hold u).core c = (s.core c).stop k := by rw [cores, core_of_ev ev]
  rw [evFatal_eq, recordFault, if_neg (show (evReport cause init addr acc).cls ≠ .corrected by simp [evReport])]
  dsimp only
  by_cases h3 : cause = 3
  · have line : resourceOf (evReport cause init addr acc).block (evReport cause init addr acc).cause
        (evReport cause init addr acc).item = some .snap := by simp [evReport, resourceOf, h3]
    have only := turnBad_snap_only cause (setDev .hold u)
    simp only [line, eq]
    exact ⟨(turnBad_snap_uncleared ..).trans uncl, inHold_of_only only (setDev_hold_inHold u), k, fun c => by
      rw [← cores]
      exact core_of_ev (only.ev.resolve_left (by decide)) c⟩
  · have line : resourceOf (evReport cause init addr acc).block (evReport cause init addr acc).cause
        (evReport cause init addr acc).item = none := by simp [evReport, resourceOf, h3, hq]
    simp only [line, eq]
    exact ⟨uncl, setDev_hold_inHold u, k, cores⟩

end Sys2Proof.Machine
end

section
/-!
PROOFS about the fabric: when a core issues its next rank or goes on waiting, what a launch does with a sealed snapshot, and what
the tokens between the cores and the two time limits bring. They settle O24 and O26.
-/
namespace Sys2Proof.Machine

/-! ## The next rank of EA (R33, R47, R447) -/

theorem tryA_of_nothing {s : State}
    (h : (s.core .a).seq ≠ .scan ∨ (s.core .a).issued = true ∨ (s.core .a).ranks ≤ (s.core .a).rank) : tryA s = s := if_pos h

theorem breakAt_of_disabled {s : State} (h : ∀ k : Fin 4, (s.st.dbg.brks[k] : Brk).en = false) (scan k : Nat) :
    s.breakAt scan k = none := by
  unfold State.breakAt
  split
  · rfl
  · exact List.find?_eq_none.mpr fun n _ => by
      dsimp only
      rw [h n, Bool.false_and]
      exact Bool.false_ne_true

/-- Nothing of the debugger halts EA before its next rank. -/
def State.undisturbed (s : State) : Prop :=
  s.mayHalt = false ∨ (s.st.dbg.pendHalt = false ∧ ∀ k : Fin 4, (s.st.dbg.brks[k] : Brk).en = false)

/-- EA has issued its next rank. -/
def State.issuesA (s : State) : State :=
  ((s.modCore .a (fun x => { x with issued := true })).modDbg (fun d => { d with skip := none })).modEv
    (fun e => { e with issuedA := e.issuedA + 1, waitSince := none })

theorem tryA_issues {s : State} (hs : (s.core .a).seq = .scan) (hi : (s.core .a).issued = false)
    (hr : (s.core .a).rank < (s.core .a).ranks) (quiet : s.undisturbed)
    (lead : s.split = true ∨ s.ev.issuedA < s.ev.completedB + 24) : tryA s = s.issuesA := by
  have todo : ¬((s.core .a).seq ≠ .scan ∨ (s.core .a).issued = true ∨ (s.core .a).ranks ≤ (s.core .a).rank) := by
    simp [hs, hi, hr]
  have nohalt : (s.st.dbg.pendHalt && s.mayHalt) = false := by
    rcases quiet with h | ⟨h, -⟩ <;> simp [h]
  have nobreak : (if s.mayHalt = true then s.breakAt (s.core .a).scan (s.core .a).rank else none) = none := by
    rcases quiet with h | ⟨-, h⟩
    · simp [h]
    · simp [breakAt_of_disabled h]
  unfold tryA
  simp only [if_neg todo, nohalt, nobreak, if_pos lead]
  rfl

/-! ## The next rank of EB (R46, R448) -/

/-- EB launches nothing by its tokens: it does not wait, nothing is sealed, its gate is closed, or split mode holds. -/
def State.noLaunchB (s : State) : Prop :=
  (s.core .b).seq ≠ .wait ∨ (s.core .b).sealed = none ∨ s.gateB 0 = false ∨ s.split = true

theorem tryB_of_noLaunch {s : State} (h : s.noLaunchB) : ¬((s.core .b).seq = .wait ∧ (s.core .b).sealed.isSome = true ∧
    s.gateB 0 = true ∧ (!s.split) = true) := by
  rintro ⟨hw, hs, hg, hp⟩
  rcases h with h | h | h | h <;> simp_all

theorem tryB_of_nothing {s : State} (h : s.noLaunchB) (hn : (s.core .b).seq ≠ .scan ∨ (s.core .b).issued = true) :
    tryB s = s := by
  simp only [tryB, if_neg (tryB_of_noLaunch h), if_pos hn]

theorem applyDebugWrites_nil {s : State} (h : s.st.dbg.queue = []) : applyDebugWrites s = s := by
  have kept : ({ s.st.dbg with queue := [] } : Dbg) = s.st.dbg := by rw [← h]
  simp only [applyDebugWrites, State.modDbg, h, List.filter_nil, List.foldl_nil, kept]

theorem tryB_issues {s : State} (hs : (s.core .b).seq = .scan) (hi : (s.core .b).issued = false)
    (hr : (s.core .b).rank < (s.core .b).ranks) (gate : s.gateB (s.core .b).rank = true) (free : s.st.dbg.haltA = false)
    (empty : s.st.dbg.queue = []) : tryB s = s.modCore .b (fun x => { x with issued := true }) := by
  have noLaunch : s.noLaunchB := .inl (by simp [hs])
  have todo : ¬((s.core .b).seq ≠ .scan ∨ (s.core .b).issued = true) := by simp [hs, hi]
  simp only [tryB, if_neg (tryB_of_noLaunch noLaunch), if_neg todo, free, Bool.false_and, Bool.false_eq_true, if_false,
    if_pos (And.intro hr gate), applyDebugWrites_nil empty]

/-- Cores that are stopped do not go on. -/
theorem tryCore_of_stopped {s : State} (h : ∀ c, (s.core c).seq = .stopped) (c : Side) : tryCore c s = s := by
  have b : tryB s = s := tryB_of_nothing (.inl (by simp [h])) (.inl (by simp [h]))
  cases c
  · show tryB (tryA s) = s
    rw [tryA_of_nothing (.inl (by simp [h])), b]
  · exact b

/-! ## A launch (R36, R38, R40, R42) -/

/-- A core that has launched scan `n`, its banks swapped. -/
def CoreSt.launched (n : Nat) (x : CoreSt) : CoreSt :=
  { x with live := x.fill, fill := x.live, liveIdx := !x.liveIdx, liveCv := x.fillCv, sealed := none, scan := n, expect := n + 1,
           seq := .scan, rank := 0, issued := false, defer := [] }

theorem ackJudge_of_none {s : State} (c : Side) (h : s.st.ack = none) : ackJudge c s = s := by simp [ackJudge, h]

section
variable {s : State} {c : Side} {n : Nat} (hs : (s.core c).sealed = some n)
include hs

theorem launch_sound (hv : snapCheck n (snapWords c (s.core c).fill) = (s.core c).fillCv) (he : n = (s.core c).expect)
    (ack : s.st.ack = none) : launch c s = s.modCore c (CoreSt.launched n) := by
  have sound : ¬(snapCheck n (snapWords c (s.core c).fill) ≠ (s.core c).fillCv ∨ n ≠ (s.core c).expect) := by
    simp only [hv, ← he, ne_eq, not_true, or_self, not_false_eq_true]
  simp only [launch, hs, if_neg sound]
  exact ackJudge_of_none c ack

theorem launch_refused (h : snapCheck n (snapWords c (s.core c).fill) ≠ (s.core c).fillCv ∨ n ≠ (s.core c).expect) :
    launch c s = evFatal 3 (coreInit c) 0 4 s := by
  simp only [launch, hs, if_pos h]

/-- A refused launch from IDLE or RUN: SNAP_CHECK and HOLD, with the live bank left as it was. -/
theorem launch_refused_enters (h : snapCheck n (snapWords c (s.core c).fill) ≠ (s.core c).fillCv ∨ n ≠ (s.core c).expect)
    (hb : s.bad = []) (hd : s.dev = .idle ∨ s.dev = .run) :
    (launch c s).uncleared .ev 3 0 = true ∧ (launch c s).inHold ∧ ∀ d, ((launch c s).core d).live = (s.core d).live := by
  rw [launch_refused hs h]
  obtain ⟨uncl, hold, k, cores⟩ :=
    evFatal_enters (cause := 3) (init := coreInit c) (addr := 0) (acc := 4) (by decide) hb (.inr hd)
  exact ⟨uncl, hold, fun d => by rw [cores]; rfl⟩

end

/-! ## The launch edge (R42, R47, R454) -/

theorem exec_scanLaunch_split {s : State} {c : Side} {n : Nat} {u : Tick} (hw : (s.core c).seq = .wait)
    (hs : (s.core c).sealed = some n) (hu : s.ev.sampleAt = some u) (he : 8 ≤ elapsed s.tb.now u) (hp : s.split = true) :
    exec (.scanLaunch c) s = .next (tryCore c (launch c s)) := by
  show execScanLaunch c s = _
  cases c <;> simp [execScanLaunch, hw, hs, hu, he, hp, tryCore]

section
variable {s : State} {n : Nat} {u : Tick} (hw : (s.core .a).seq = .wait) (hs : (s.core .a).sealed = some n)
  (hu : s.ev.sampleAt = some u) (he : 8 ≤ elapsed s.tb.now u)
include hw hs hu he

theorem exec_scanLaunch_a (hc : (s.core .a).closed ≤ (s.core .b).closed) :
    exec (.scanLaunch .a) s = .next (tryCore .a (launch .a s)) := by
  show execScanLaunch .a s = _
  simp [execScanLaunch, hw, hs, hu, he, Nat.not_lt.mpr hc]

theorem exec_scanLaunch_held (hp : s.split = false) (hc : (s.core .b).closed < (s.core .a).closed) (hn : s.ev.waitSince = none) :
    exec (.scanLaunch .a) s = .next { s with ev := { s.ev with launchHeld := true, waitSince := some s.tb.now } } := by
  show execScanLaunch .a s = _
  simp [execScanLaunch, hw, hs, hu, he, hp, hc, State.modEv, hn]

end

theorem exec_scanLaunch_b_closedGate {s : State} (hp : s.split = false) (hw : (s.core .b).seq = .wait) (hg : s.gateB 0 = false) :
    exec (.scanLaunch .b) s = .next s := by
  have nothing : tryB s = s := tryB_of_nothing (.inr (.inr (.inl hg))) (.inl (by simp [hw]))
  show execScanLaunch .b s = _
  simp [execScanLaunch, hp, nothing]

/-- EA launches and issues rank 0; EB, which waits at a closed gate or on its own in split mode, stays. -/
theorem tryCore_launch_a {s : State} {n : Nat} (hs : (s.core .a).sealed = some n) (he : n = (s.core .a).expect)
    (hv : snapCheck n (snapWords .a (s.core .a).fill) = (s.core .a).fillCv)
    (lead : s.split = true ∨ (s.ev.issuedA < s.ev.completedB + 24 ∧ s.gateB 0 = false)) (hr : 0 < (s.core .a).ranks)
    (ack : s.st.ack = none) (quiet : s.undisturbed) (hb : (s.core .b).seq = .wait) :
    tryCore .a (launch .a s) = (s.modCore .a (CoreSt.launched n)).issuesA := by
  have a : tryA (s.modCore .a (CoreSt.launched n)) = (s.modCore .a (CoreSt.launched n)).issuesA :=
    tryA_issues rfl rfl hr quiet (lead.imp_right And.left)
  have waits : ((s.modCore .a (CoreSt.launched n)).issuesA.core .b).seq = .wait := hb
  have b : tryB (s.modCore .a (CoreSt.launched n)).issuesA = (s.modCore .a (CoreSt.launched n)).issuesA :=
    tryB_of_nothing (.inr (.inr (lead.symm.imp_left And.right))) (.inl (by simp [waits]))
  rw [launch_sound hs hv he ack]
  show tryB (tryA _) = _
  rw [a, b]

/-- In split mode EB launches and issues rank 0 by itself. -/
theorem tryCore_launch_b {s : State} {n : Nat} (hp : s.split = true) (hs : (s.core .b).sealed = some n)
    (he : n = (s.core .b).expect) (hv : snapCheck n (snapWords .b (s.core .b).fill) = (s.core .b).fillCv)
    (hr : 0 < (s.core .b).ranks) (ack : s.st.ack = none) (free : s.st.dbg.haltA = false) (empty : s.st.dbg.queue = []) :
    tryCore .b (launch .b s) = (s.modCore .b (CoreSt.launched n)).modCore .b (fun x => { x with issued := true }) := by
  have gate : (s.modCore .b (CoreSt.launched n)).gateB ((s.modCore .b (CoreSt.launched n)).core .b).rank = true := by
    have : (s.modCore .b (CoreSt.launched n)).split = true := hp
    simp [State.gateB, this]
  rw [launch_sound hs hv he ack]
  exact tryB_issues (s := s.modCore .b (CoreSt.launched n)) rfl rfl hr gate free empty

/-- Settles O24: on the edge a sound seal swaps the banks and the core issues rank 0; a seal refused leads to HOLD, in which no
core goes on. -/
theorem launchSwapsBanksOrRecordsSnapCheck : Obligations.LaunchSwapsBanksOrRecordsSnapCheck := by
  refine ⟨?_, ?_, ?_, ?_, ?_⟩
  · intro s n u hw hs he hu due hv lead hr ack quiet hb
    have edge : exec (.scanLaunch .a) s = .next (tryCore .a (launch .a s)) := by
      rcases lead with hp | ⟨hc, -⟩
      · exact exec_scanLaunch_split hw hs hu due hp
      · exact exec_scanLaunch_a hw hs hu due hc
    rw [tryCore_launch_a hs he hv (lead.imp_right And.right) hr ack quiet hb] at edge
    exact ⟨_, edge, rfl, rfl, rfl, rfl, rfl, rfl, rfl, rfl, rfl, rfl, rfl, rfl⟩
  · intro s n u hp hw hs he hu due hv hr ack free empty
    have edge := exec_scanLaunch_split hw hs hu due hp
    rw [tryCore_launch_b hp hs he hv hr ack free empty] at edge
    exact ⟨_, edge, rfl, rfl, rfl, rfl, rfl, rfl, rfl, rfl, rfl, rfl, rfl⟩
  · intro s n u hw hs hu due hp hc hn
    exact exec_scanLaunch_held hw hs hu due hp hc hn
  · intro s hp hw hg
    exact exec_scanLaunch_b_closedGate hp hw hg
  · intro s c n u hw hs hu due mode hb hd bad
    have edge : exec (.scanLaunch c) s = .next (tryCore c (launch c s)) := by
      rcases mode with hp | ⟨rfl, hc⟩
      · exact exec_scanLaunch_split hw hs hu due hp
      · exact exec_scanLaunch_a hw hs hu due hc
    obtain ⟨uncl, hold, live⟩ := launch_refused_enters hs bad hb hd
    obtain ⟨dev, inhib, -, stopped, -⟩ := id hold
    rw [tryCore_of_stopped stopped] at edge
    exact ⟨_, edge, live c, uncl, dev, inhib⟩

/-! ## Tokens (R46, R47) -/

/-- EB is busy, or nothing is sealed for it: a token makes it neither launch nor issue a rank. -/
def State.busyB (s : State) : Prop :=
  (s.core .b).seq = .close ∨ (s.core .b).seq = .halted ∨ ((s.core .b).seq = .scan ∧ (s.core .b).issued = true) ∨
    ((s.core .b).seq = .wait ∧ (s.core .b).sealed = none)

theorem State.busyB.seq_ne_stopped {s : State} (h : s.busyB) : (s.core .b).seq ≠ .stopped := by
  rcases h with h | h | ⟨h, -⟩ | ⟨h, -⟩ <;> simp [h]

theorem tryB_of_busy {s : State} (h : s.busyB) : tryB s = s := by
  rcases h with h | h | ⟨h, hi⟩ | ⟨h, hn⟩
  · exact tryB_of_nothing (.inl (by simp [h])) (.inl (by simp [h]))
  · exact tryB_of_nothing (.inl (by simp [h])) (.inl (by simp [h]))
  · exact tryB_of_nothing (.inl (by simp [h])) (.inr hi)
  · exact tryB_of_nothing (.inr (.inl hn)) (.inl (by simp [h]))

/-- A rank token counted at EB, and a completion token at EA. -/
def State.tokenAtB (s : State) : State := s.modEv (fun e => { e with tokens := e.tokens + 1, tokensIn := e.tokensIn + 1 })
def State.tokenAtA (s : State) : State := s.modEv (fun e => { e with completedB := e.completedB + 1 })

section
variable {s : State} (hp : s.split = false) (hb : (s.core .b).seq ≠ .stopped)
include hp hb

theorem exec_rankToken_runs (close ok : Bool) : exec (.rankToken close ok) s = .next (
    if (!ok) = true then evFatal 2 (coreInit .b) 0 5 s
    else if close = true then tryB (s.modEv (fun e => { e with closeTokens := e.closeTokens + 1 }))
    else if s.tokenAtB.ev.issuedA < s.tokenAtB.ev.tokensIn then evFatal 2 (coreInit .b) 0 5 s.tokenAtB else tryB s.tokenAtB) :=
  congrArg Host.Outcome.next (if_neg (by simp [hp, hb]))

theorem exec_rankToken_unlike (close : Bool) : exec (.rankToken close false) s = .next (evFatal 2 (coreInit .b) 0 5 s) :=
  exec_rankToken_runs hp hb close false

theorem exec_closeToken_sound :
    exec (.rankToken true true) s = .next (tryB (s.modEv (fun e => { e with closeTokens := e.closeTokens + 1 }))) :=
  exec_rankToken_runs hp hb true true

theorem exec_rankToken_sound (ht : s.ev.tokensIn < s.ev.issuedA) : exec (.rankToken false true) s = .next (tryB s.tokenAtB) :=
  (exec_rankToken_runs hp hb false true).trans (congrArg Host.Outcome.next (if_neg (Nat.not_lt.mpr ht)))

theorem exec_rankToken_unsent (ht : s.ev.issuedA ≤ s.ev.tokensIn) :
    exec (.rankToken false true) s = .next (evFatal 2 (coreInit .b) 0 5 s.tokenAtB) :=
  (exec_rankToken_runs hp hb false true).trans (congrArg Host.Outcome.next (if_pos (Nat.lt_succ_of_le ht)))

end

section
variable {s : State} (hp : s.split = false) (ha : (s.core .a).seq ≠ .stopped)
include hp ha

theorem exec_completionToken_runs (ok : Bool) : exec (.completionToken ok) s = .next (
    if (!ok) = true then evFatal 2 (coreInit .a) 0 5 s
    else if s.tokenAtA.ev.issuedA < s.tokenAtA.ev.completedB then evFatal 2 (coreInit .a) 0 5 s.tokenAtA
    else tryCore .a s.tokenAtA) :=
  congrArg Host.Outcome.next (if_neg (by simp [hp, ha]))

theorem exec_completionToken_unlike : exec (.completionToken false) s = .next (evFatal 2 (coreInit .a) 0 5 s) :=
  exec_completionToken_runs hp ha false

theorem exec_completionToken_sound (ht : s.ev.completedB < s.ev.issuedA) :
    exec (.completionToken true) s = .next (tryB (tryA s.tokenAtA)) :=
  (exec_completionToken_runs hp ha true).trans (congrArg Host.Outcome.next (if_neg (Nat.not_lt.mpr ht)))

theorem exec_completionToken_unsent (ht : s.ev.issuedA ≤ s.ev.completedB) :
    exec (.completionToken true) s = .next (evFatal 2 (coreInit .a) 0 5 s.tokenAtA) :=
  (exec_completionToken_runs hp ha true).trans (congrArg Host.Outcome.next (if_pos (Nat.lt_succ_of_le ht)))

end

/-- A command that comes down to a fatal fault of EV in IDLE or RUN records it and leads to HOLD. -/
theorem exec_evFatal_enters {i : Instr} {s u : State} {cause init addr acc : Nat}
    (e : exec i s = .next (evFatal cause init addr acc u)) (hq : cause ≠ 0x0A) (hb : u.bad = []) (hd : u.dev = .idle ∨ u.dev = .run) :
    ∃ t, exec i s = .next t ∧ t.uncleared .ev cause 0 = true ∧ t.inHold := by
  obtain ⟨uncl, hold, -⟩ := evFatal_enters (init := init) (addr := addr) (acc := acc) hq hb (.inr hd)
  exact ⟨_, e, uncl, hold⟩

/-! ## The two limits (R47, R52) -/

theorem exec_lagOverrun_late {s : State} {u : Tick} (hu : s.ev.waitSince = some u) (h : 16 < elapsed s.tb.now u) :
    exec .lagOverrun s = .next (evFatal 6 (coreInit .b) s.ev.lag.toNat 6 s) := by
  show execLagOverrun s = _
  simp only [execLagOverrun, hu]
  exact congrArg Host.Outcome.next (if_pos h)

theorem exec_lagOverrun_inTime {s : State} (h : ∀ u, s.ev.waitSince = some u → elapsed s.tb.now u ≤ 16) :
    exec .lagOverrun s = .next s := by
  show execLagOverrun s = _
  unfold execLagOverrun
  split
  · next u hu => exact congrArg Host.Outcome.next (if_neg (Nat.not_lt.mpr (h u hu)))
  · rfl

theorem exec_scanOver_late {s : State} {c : Side} {tab : Table} {u : Tick} (ht : (s.core c).table = some tab)
    (hu : (s.core c).timed = some u) (hs : (s.core c).seq ≠ .stopped) (ho : (s.core c).overRec = false)
    (h : tab.scanMax + 1 ≤ elapsed s.tb.now u) :
    exec (.scanOver c) s =
      .next (evFatal 4 (coreInit c) (s.core c).per.toNat 6 (s.modCore c (fun x => { x with overRec := true }))) := by
  show execScanOver c s = _
  simp [execScanOver, ht, hu, hs, ho, h]

theorem exec_scanOver_inTime {s : State} {c : Side} {tab : Table} {u : Tick} (ht : (s.core c).table = some tab)
    (hu : (s.core c).timed = some u) (h : elapsed s.tb.now u ≤ tab.scanMax) : exec (.scanOver c) s = .next s := by
  show execScanOver c s = _
  have : ¬tab.scanMax + 1 ≤ elapsed s.tb.now u := by omega
  simp [execScanOver, ht, hu, this]

/-- Settles O26: a sound token counts, and lets a core go on that waits for it alone; an unsound one, and a limit that has
passed, is a fatal fault of EV. -/
theorem tokensAndScanLimits : Obligations.TokensAndScanLimits := by
  refine ⟨?_, ?_, ?_, ?_, ?_, ?_⟩
  · intro s hp busy
    have hb := State.busyB.seq_ne_stopped busy
    refine ⟨fun ht => ?_, ?_, fun ht busyA => ?_⟩
    · exact (exec_rankToken_sound hp hb ht).trans (congrArg Host.Outcome.next (tryB_of_busy busy))
    · exact (exec_closeToken_sound hp hb).trans (congrArg Host.Outcome.next (tryB_of_busy busy))
    · have ha : (s.core .a).seq ≠ .stopped := by rcases busyA with h | h | h | ⟨h, -⟩ <;> simp [h]
      have still : (s.core .a).seq ≠ .scan ∨ (s.core .a).issued = true := by
        rcases busyA with h | h | h | ⟨-, h⟩ <;> simp [h]
      have idle : tryA s.tokenAtA = s.tokenAtA := tryA_of_nothing (still.imp_right .inl)
      rw [exec_completionToken_sound hp ha ht, idle]
      exact congrArg Host.Outcome.next (tryB_of_busy busy)
  · intro s hp hs hi hr free empty ht gate
    have gate : s.tokenAtB.gateB (s.core .b).rank = true := by simp [State.gateB, State.tokenAtB, gate]
    have issues := tryB_issues (s := s.tokenAtB) hs hi hr gate free empty
    refine ⟨_, (exec_rankToken_sound hp (by simp [hs]) ht).trans (congrArg _ issues), rfl, rfl, rfl, rfl⟩
  · intro s hp hs hi hr quiet ht lead hb
    have lead : s.tokenAtA.ev.issuedA < s.tokenAtA.ev.completedB + 24 := by simp only [State.tokenAtA, modEv_ev]; omega
    have issues : tryA s.tokenAtA = s.tokenAtA.issuesA := tryA_issues hs hi hr (.inl quiet) (.inr lead)
    have waits : tryB s.tokenAtA.issuesA = s.tokenAtA.issuesA := tryB_of_busy (.inl hb)
    have token := exec_completionToken_sound hp (by simp [hs]) ht
    rw [issues, waits] at token
    exact ⟨_, token, rfl, rfl, rfl, rfl, rfl⟩
  · intro s close hp ha hb bad hd
    exact ⟨exec_evFatal_enters (exec_rankToken_unlike hp hb close) (by decide) bad hd,
      exec_evFatal_enters (exec_completionToken_unlike hp ha) (by decide) bad hd,
      fun ht => exec_evFatal_enters (exec_rankToken_unsent hp hb ht) (by decide) bad hd,
      fun ht => exec_evFatal_enters (exec_completionToken_unsent hp ha ht) (by decide) bad hd⟩
  · intro s bad hd
    refine ⟨fun ⟨u, hu, late⟩ => ?_, exec_lagOverrun_inTime⟩
    exact exec_evFatal_enters (exec_lagOverrun_late hu late) (by decide) bad hd
  · intro s c tab u ht hu hs ho
    exact ⟨fun late bad hd => exec_evFatal_enters (exec_scanOver_late ht hu hs ho late) (by decide) bad hd,
      exec_scanOver_inTime ht hu⟩

end Sys2Proof.Machine
end

section
/-!
PROOFS about the close of a scan: what it makes of its core, of the kerf signature and of the posted cell commands, that the
drivers, registers and payload it brings with it leave the rest, and what the TB edge after it takes. They settle O27.
-/
namespace Sys2Proof.Machine

theorem modCore_congr {s : State} {c : Side} {f g : CoreSt → CoreSt} (h : f (s.core c) = g (s.core c)) :
    s.modCore c f = s.modCore c g :=
  congrArg (fun x => { s with ev := { s.ev with core := s.ev.core.set c x } }) h

theorem modCore_modCore (s : State) (c : Side) (f g : CoreSt → CoreSt) :
    (s.modCore c f).modCore c g = s.modCore c (fun x => g (f x)) := by cases c <;> rfl

/-! ## The core and its signature (R42, R52, R242, R243) -/

/-- The signature with the closing fold (R242). -/
def CoreSt.closingSig (t : Table) (x : CoreSt) : Word64 := sigFold x.sig (BitVec.ofNat 64 (t.ranks * 2 ^ 32 + x.liveCv.toNat))

/-- The accumulator of a core after its close: the closing fold, or the seed of the next kerf. -/
def CoreSt.refolded (t : Table) (x : CoreSt) : CoreSt :=
  if x.kerfScans + 1 < t.kerf then { x with sig := x.closingSig t, kerfScans := x.kerfScans + 1 }
  else { x with sig := t.seed ^^^ BitVec.ofNat 64 (x.scan + 1), kerfScans := 0, kerf := x.kerf + 1 }

/-- The signature of a kerf that ends with the close is on its way to both halves of SC. -/
def State.kerfSent (c : Side) (t : Table) (s : State) : State :=
  if (s.core c).kerfScans + 1 < t.kerf then s
  else s.modSc (fun x => { x with flight := x.flight ++
    [(.a, c, (s.core c).kerf, (s.core c).closingSig t), (.b, c, (s.core c).kerf, (s.core c).closingSig t)] })

theorem kerfSent_only (c : Side) (t : Table) (s : State) : Only 32 s (s.kerfSent c t) :=
  .ite (.refl _ _) (modSc_only ..)

theorem closeSig_eq {s : State} (hp : s.split = false) (c : Side) (t : Table) :
    closeSig c t s = (s.kerfSent c t).modCore c (CoreSt.refolded t) := by
  by_cases h : (s.core c).kerfScans + 1 < t.kerf
  · rw [State.kerfSent, if_pos h]
    exact (if_pos h).trans (modCore_congr (if_pos h).symm)
  · have sent (m : Nat) (sig : Word64) :
        sendKerf c m sig s = s.modSc (fun x => { x with flight := x.flight ++ [(.a, c, m, sig), (.b, c, m, sig)] }) := by
      simp [sendKerf, hp]
    have ends : closeSig c t s = (sendKerf c (s.core c).kerf ((s.core c).closingSig t) s).modCore c (fun x =>
        { x with sig := t.seed ^^^ BitVec.ofNat 64 (x.scan + 1), kerfScans := 0, kerf := x.kerf + 1 }) := if_neg h
    rw [ends, sent, State.kerfSent, if_neg h]
    exact modCore_congr (if_neg h).symm

/-- The period of a scan measured at its close (R52). -/
def CoreSt.measured (now u : Tick) (x : CoreSt) : CoreSt :=
  let p := elapsed now u
  { x with per := BitVec.ofNat 16 p, pmax := if x.pmax.toNat < p then BitVec.ofNat 16 p else x.pmax,
           pmin := if p < x.pmin.toNat then BitVec.ofNat 16 p else x.pmin, timed := some now, first := false, overRec := false }

theorem closePeriod_within {s : State} {c : Side} {t : Table} {u : Tick} (hu : (s.core c).timed = some u)
    (hmin : t.scanMin ≤ elapsed s.tb.now u) (hmax : elapsed s.tb.now u ≤ t.scanMax) :
    closePeriod c t s = (s.modCore c (CoreSt.measured s.tb.now u), none) := by
  have inTime : ¬t.scanMax < elapsed s.tb.now u := Nat.not_lt.mpr hmax
  have slow : ¬elapsed s.tb.now u < t.scanMin := Nat.not_lt.mpr hmin
  simp only [closePeriod, hu, now_eq, inTime, slow, false_and, if_false]
  rfl

/-- A core after its close. -/
def CoreSt.afterClose (t : Table) (now u : Tick) (x : CoreSt) : CoreSt :=
  { (x.refolded t).measured now u with seq := .wait, closed := x.closed + 1, closeAt := some now }

/-- The core has closed its scan and posted its cell commands; nothing else of the close is done. -/
def State.scanClosed (c : Side) (t : Table) (u : Tick) (s : State) : State :=
  ((s.kerfSent c t).modTb (fun y =>
    { y with posts := y.posts.set c (some ((s.core c).scan, cellCommands c (s.core c))) })).modCore c
    (CoreSt.afterClose t s.tb.now u)

theorem scanClosed_only (c : Side) (t : Table) (u : Tick) (s : State) : Only 672 s (s.scanClosed c t u) :=
  modCore_nx (modTb_nx ((Only.refl _ _).step (kerfSent_only ..) rfl) rfl) rfl

theorem refolded_keeps (c : Side) (t : Table) (x : CoreSt) : (x.refolded t).scan = x.scan ∧ (x.refolded t).timed = x.timed ∧
    (x.refolded t).closed = x.closed ∧ cellCommands c (x.refolded t) = cellCommands c x := by
  unfold CoreSt.refolded
  split <;> exact ⟨rfl, rfl, rfl, rfl⟩

section
variable {s : State} {c : Side} {tab : Table} {u : Tick}

theorem core_kerfSent (d : Side) : (s.kerfSent c tab).core d = s.core d :=
  core_of_ev ((kerfSent_only ..).ev.resolve_left (by decide)) d

theorem postCells_closeSig (hp : s.split = false) : postCells c (closeSig c tab s) = ((s.kerfSent c tab).modTb (fun y =>
    { y with posts := y.posts.set c (some ((s.core c).scan, cellCommands c (s.core c))) })).modCore c (CoreSt.refolded tab) := by
  obtain ⟨scan, -, -, cells⟩ := refolded_keeps c tab (s.core c)
  rw [closeSig_eq hp, postCells]
  simp only [core_modCore, core_kerfSent, scan, cells]
  rfl

/-- The first steps of a close within the limits show no fault and lead to `scanClosed`. -/
theorem closePeriod_postCells (hp : s.split = false) (hu : (s.core c).timed = some u)
    (hmin : tab.scanMin ≤ elapsed s.tb.now u) (hmax : elapsed s.tb.now u ≤ tab.scanMax) :
    ∃ v, closePeriod c tab (postCells c (closeSig c tab s)) = (v, none) ∧
      v.modCore c (fun x => { x with seq := .wait, closed := x.closed + 1, closeAt := some v.now }) = s.scanClosed c tab u := by
  obtain ⟨-, timed, closed, -⟩ := refolded_keeps c tab (s.core c)
  have core : (postCells c (closeSig c tab s)).core c = (s.core c).refolded tab := by
    rw [postCells_closeSig hp, core_modCore]
    exact congrArg _ (core_kerfSent c)
  have now : (postCells c (closeSig c tab s)).tb.now = s.tb.now := by
    rw [postCells_closeSig hp]
    show (s.kerfSent c tab).tb.now = s.tb.now
    rw [(kerfSent_only c tab s).tb.resolve_left (by decide)]
  refine ⟨_, closePeriod_within (u := u) (by rw [core, timed, hu]) (by rwa [now]) (by rwa [now]), ?_⟩
  rw [now_eq, modCore_tb, now, postCells_closeSig hp, modCore_modCore, modCore_modCore]
  refine modCore_congr ?_
  have core : (((s.kerfSent c tab).modTb (fun y => { y with posts := y.posts.set c (some ((s.core c).scan,
      cellCommands c (s.core c))) })).core c) = s.core c := core_kerfSent c
  simp only [core, CoreSt.afterClose, CoreSt.measured, closed]

end

/-! ## What else the close brings (R42, R60, R203, R347) -/

theorem closeMirror_core {s : State} (hk : s.ev.peakClr = false) (hm : s.ev.malfClr = false) (d : Side) :
    (closeMirror s).core d = s.core d := by
  cases d <;> simp [closeMirror, State.core, hk, hm]

theorem closeMirror_sc {s : State} (hk : s.ev.peakClr = false) : (closeMirror s).sc = s.sc := by simp [closeMirror, hk]

/-- What a close brings to the registers: EA's to those of the fabric and to SNAPSHOT items, EB's to its tokens. -/
def State.closeRegs (c : Side) (t : Table) (s : State) : State :=
  match c with
  | .a => closeSnapshots (closeMirror (tbEvent 0xB0 s.now s))
  | .b => s.modEv (fun e => { e with tokens := e.tokens - t.ranks, closeTokens := e.closeTokens - 1 })

theorem closeRegs_a (t : Table) (s : State) : s.closeRegs .a t = closeSnapshots (closeMirror (tbEvent 0xB0 s.now s)) := rfl

theorem closeRegs_b (t : Table) (s : State) : s.closeRegs .b t =
    s.modEv (fun e => { e with tokens := e.tokens - t.ranks, closeTokens := e.closeTokens - 1 }) := rfl

theorem closeRegs_only (c : Side) (t : Table) (s : State) : Only 33440 s (s.closeRegs c t) := by
  cases c
  · rw [closeRegs_a]
    exact closeSnapshots_nx (closeMirror_nx (tbEvent_nx (.refl _ _) rfl) rfl) rfl
  · rw [closeRegs_b]
    exact modEv_nx (.refl _ _) rfl

section
variable {s : State} {c : Side} {t : Table} (hk : s.ev.peakClr = false) (hm : s.ev.malfClr = false)
include hk

theorem closeRegs_sc : (s.closeRegs c t).sc = s.sc := by
  cases c
  · rw [closeRegs_a, (closeSnapshots_only _).sc.resolve_left (by decide)]
    exact closeMirror_sc (s := tbEvent 0xB0 s.now s) hk
  · rfl

include hm

theorem closeRegs_core (d : Side) : (s.closeRegs c t).core d = s.core d := by
  cases c
  · rw [closeRegs_a, core_of_ev ((closeSnapshots_only _).ev.resolve_left (by decide))]
    exact closeMirror_core (s := tbEvent 0xB0 s.now s) hk hm d
  · rfl

end

/-- A close changes nothing of the time base but the events it reports. -/
theorem closeRegs_tb (c : Side) (t : Table) (s : State) :
    (s.closeRegs c t).tb = { s.tb with events := (s.closeRegs c t).tb.events } := by
  cases c
  · rw [closeRegs_a, (closeSnapshots_only _).tb.resolve_left (by decide), (closeMirror_only _).tb.resolve_left (by decide)]
    rfl
  · rfl

theorem comparePayload_first_only {s : State} (h : s.pl.differed = false) (xs ys : List Word) :
    Only 65536 s (comparePayload xs ys s) := by
  unfold comparePayload
  split
  · exact modPl_only ..
  · rw [if_neg (by simp [h])]
    exact modPl_only ..

/-- Payloads that do not differ a second time change the links and their interrupts alone (R347). -/
theorem postPayload_first_only {s : State} (h : s.pl.differed = false) (c : Side) : Only 81920 s (postPayload c s) := by
  have compared (xs ys : List Word) (f : Pl → Pl) (hf : (f s.pl).differed = s.pl.differed) :
      Only 81920 s (acceptPorts xs ys (comparePayload xs ys (s.modPl f))) :=
    acceptPorts_nx ((modPl_nx (.refl _ _) rfl).step (comparePayload_first_only (hf.trans h) ..) rfl) rfl
  unfold postPayload
  dsimp only
  split
  · exact .ite (acceptPorts_nx (modPl_nx (.refl _ _) rfl) rfl) (.refl _ _)
  · split
    · exact compared _ _ _ rfl
    · exact modPl_nx (.refl _ _) rfl

/-! ## The close as a whole -/

/-- The end of a close: a START ends with scan 0 of both cores (R423), and EB's close lets EA's held launch go ahead (R47). -/
def State.closeEnd (c : Side) (s : State) : State :=
  let s := if s.dev = .start ∧ s.pcr.phase = .firstScan ∧ 1 ≤ (s.core .a).closed ∧ 1 ≤ (s.core .b).closed
    then finishStart s else s
  if c = .b ∧ s.ev.launchHeld = true ∧ (s.core .a).seq = .wait ∧ (s.core .a).closed ≤ (s.core .b).closed then
    tryCore .a (launch .a (s.modEv (fun e => { e with launchHeld := false, waitSince := none })))
  else s

theorem closeEnd_of_nothing {c : Side} {s : State} (hd : s.dev = .idle ∨ s.dev = .run) (hl : c = .b → s.ev.launchHeld = false) :
    s.closeEnd c = s := by
  have running : s.dev ≠ .start := by rcases hd with h | h <;> simp [h]
  have nothingHeld : ¬(c = .b ∧ s.ev.launchHeld = true) := fun ⟨hc, held⟩ => by simp [hl hc] at held
  simp only [State.closeEnd, running, false_and, if_false]
  exact if_neg fun h => nothingHeld ⟨h.1, h.2.1⟩

/-- The state after a close within its limits. -/
def State.scanEnded (c : Side) (t : Table) (u : Tick) (s : State) : State :=
  postPayload c ((bowClose c (s.scanClosed c t u)).closeRegs c t)

section
variable {s : State} {c : Side} {tab : Table} {u : Tick}

theorem scanClosed_tb : (s.scanClosed c tab u).tb =
    { s.tb with posts := s.tb.posts.set c (some ((s.core c).scan, cellCommands c (s.core c))) } := by
  show ({ (s.kerfSent c tab).tb with posts := _ } : Tb) = _
  rw [(kerfSent_only c tab s).tb.resolve_left (by decide)]

theorem beforePayload_only : Only 565920 s ((bowClose c (s.scanClosed c tab u)).closeRegs c tab) :=
  (((Only.refl _ _).step (scanClosed_only c tab u s) rfl).step (bowClose_only ..) rfl).step (closeRegs_only ..) rfl

section
variable (hf : s.pl.differed = false)
include hf

theorem scanEnded_payload : Only 81920 ((bowClose c (s.scanClosed c tab u)).closeRegs c tab) (s.scanEnded c tab u) :=
  postPayload_first_only (by rw [beforePayload_only.pl.resolve_left (by decide), hf]) c

theorem scanEnded_only : Only 647840 s (s.scanEnded c tab u) :=
  ((Only.refl _ _).step beforePayload_only rfl).step (scanEnded_payload hf) rfl

/-- Of the time base a close changes the core's posted commands and the events it reports. -/
theorem scanEnded_tb : (s.scanEnded c tab u).tb = { s.tb with
    posts := s.tb.posts.set c (some ((s.core c).scan, cellCommands c (s.core c))), events := (s.scanEnded c tab u).tb.events } := by
  rw [(scanEnded_payload hf).tb.resolve_left (by decide), closeRegs_tb, (bowClose_only ..).tb.resolve_left (by decide),
    scanClosed_tb]

end

theorem scanClosed_ev : (s.scanClosed c tab u).ev = { s.ev with core := (s.scanClosed c tab u).ev.core } := by
  show ({ (s.kerfSent c tab).ev with core := _ } : Ev) = _
  rw [(kerfSent_only c tab s).ev.resolve_left (by decide)]
  rfl

theorem bowClose_scanClosed_ev : (bowClose c (s.scanClosed c tab u)).ev = (s.scanClosed c tab u).ev :=
  (bowClose_only ..).ev.resolve_left (by decide)

section
variable (hf : s.pl.differed = false) (hk : s.ev.peakClr = false) (hm : s.ev.malfClr = false)
include hf hk

/-- SC takes from a close the signature of a kerf that ends, and nothing else. -/
theorem scanEnded_sc : (s.scanEnded c tab u).sc = (s.kerfSent c tab).sc := by
  rw [(scanEnded_payload hf).sc.resolve_left (by decide), closeRegs_sc (by rw [bowClose_scanClosed_ev, scanClosed_ev, hk]),
    (bowClose_only ..).sc.resolve_left (by decide)]
  rfl

include hm

theorem scanEnded_core (d : Side) : (s.scanEnded c tab u).core d = (s.scanClosed c tab u).core d := by
  rw [core_of_ev ((scanEnded_payload hf).ev.resolve_left (by decide)),
    closeRegs_core (by rw [bowClose_scanClosed_ev, scanClosed_ev, hk]) (by rw [bowClose_scanClosed_ev, scanClosed_ev, hm]),
    core_of_ev bowClose_scanClosed_ev]

theorem scanEnded_core_self : (s.scanEnded c tab u).core c = (s.core c).afterClose tab s.tb.now u := by
  rw [scanEnded_core hf hk hm, State.scanClosed, core_modCore]
  exact congrArg _ (core_kerfSent c)

theorem scanEnded_core_other : (s.scanEnded c tab u).core c.other = s.core c.other := by
  rw [scanEnded_core hf hk hm, State.scanClosed, core_modCore_other]
  exact core_kerfSent c.other

end

theorem scanEnded_launchHeld (hf : s.pl.differed = false) (hl : c = .b → s.ev.launchHeld = false) :
    c = .b → (s.scanEnded c tab u).ev.launchHeld = false := by
  rintro rfl
  rw [(scanEnded_payload hf).ev.resolve_left (by decide), closeRegs_b, modEv_ev, bowClose_scanClosed_ev, scanClosed_ev]
  exact hl rfl

theorem exec_scanClose_within (ht : (s.core c).table = some tab) (hc : (s.core c).seq = .close) (hu : (s.core c).timed = some u)
    (hp : s.split = false) (hmin : tab.scanMin ≤ elapsed s.tb.now u) (hmax : elapsed s.tb.now u ≤ tab.scanMax) :
    exec (.scanClose c) s = .next ((s.scanEnded c tab u).closeEnd c) := by
  obtain ⟨v, period, closed⟩ := closePeriod_postCells (c := c) (tab := tab) hp hu hmin hmax
  show execScanClose c s = _
  unfold execScanClose
  simp only [ht, hc, ne_eq, not_true, if_false, period, closed]
  cases c
  · dsimp only [State.scanEnded, closeRegs_a]
    generalize postPayload .a _ = w
    rfl
  · dsimp only [State.scanEnded, closeRegs_b]
    generalize postPayload .b _ = w
    rfl

end

/-! ## The TB edge after a close (R271) -/

theorem marchRelease_nil {p : Side} {s : State} (h : (s.wport p).held = []) : marchRelease p s = s := by
  have kept : ({ s.wport p with held := [] } : WqPort) = s.wport p := by rw [← h]
  unfold marchRelease
  split
  · rfl
  · rw [h]
    show ({ s with wq := { s.wq with port := s.wq.port.set p { s.wport p with held := [] } } } : State) = s
    rw [kept, show s.wq.port.set p (s.wport p) = s.wq.port from Two.upd_get_self ..]

theorem takePosts_none {c : Side} {s : State} (h : s.tb.posts.get c = none) : takePosts c s = s := by simp only [takePosts, h]

/-- Defined commands of EA's close at the master cells: each cell takes its own, and EB's are still to be compared with them. -/
theorem takePosts_a {s : State} {n : Nat} {cmds : List (Nat × Nat)} (h : s.tb.posts.a = some (n, cmds))
    (fits : ∀ e ∈ cmds, e.2 ≤ 100000000) : takePosts .a s = s.modTb (fun t => { t with
      posts := t.posts.set .a none, master := vmapIdx t.master (fun k y => y.post s.tb.now (postedTo cmds k.val)),
      postedA := if s.split = true then t.postedA else t.postedA ++ [(n, cmds)] }) := by
  have defined : cmds.filter (fun e => decide (100000000 < e.2)) = [] :=
    List.filter_eq_nil_iff.mpr fun e he => by simp [fits e he]
  simp only [takePosts, Two.get_a, h, defined, List.foldl_nil, true_or, if_true]
  rfl

/-- The state of a tick that ends with nothing due but the posted commands, once TB_NOW has gone on. -/
def State.nextEdge (s : State) : State :=
  advanceTime (keepHlink ((s.modPcr (fun p => { p with fresh := false })).modHp (fun h => { h with hoisted := [] })))

theorem keepHlink_only (s : State) : Only 16384 s (keepHlink s) :=
  Only.foldl _ _ (.refl _ _) fun _ _ h => modHport_nx h rfl

theorem nextEdge_only (s : State) : Only 16576 s s.nextEdge := by
  unfold State.nextEdge advanceTime
  exact modTb_nx ((modHp_nx (modPcr_nx (.refl _ _) rfl) rfl).step (keepHlink_only _) rfl) rfl

theorem assertDue_none {s : State} (h : s.pcr.rstDue = none) : assertDue s = s := by simp only [assertDue, h]

/-- The cells of LA take the commands of EA's close on the edge after it. -/
theorem tick_takes_posts {s : State} {n : Nat} {cmds : List (Nat × Nat)} (clk : s.pcr.clk.tb = true) (mode : s.wq.modeReq = none)
    (held : ∀ p, (s.wport p).held = []) (rst : s.pcr.rstDue = none) (hold : s.st.dbg.holdNext = false)
    (posts : s.tb.posts = ⟨some (n, cmds), none⟩) (fits : ∀ e ∈ cmds, e.2 ≤ 100000000) :
    tick s = s.nextEdge.modTb (fun t => { t with
      posts := t.posts.set .a none, master := vmapIdx t.master (fun k y => y.post (s.tb.now + 1) (postedTo cmds k.val)),
      postedA := if s.split = true then t.postedA else t.postedA ++ [(n, cmds)] }) := by
  have request : applyModeReq s = s := by simp only [applyModeReq, mode]
  have a := takePosts_a (s := s.nextEdge) (congrArg Two.a posts) fits
  have b : takePosts .b (takePosts .a s.nextEdge) = takePosts .a s.nextEdge := by
    rw [a]
    exact takePosts_none (congrArg Two.b posts)
  have stays : holdAfterHalt (takePosts .a s.nextEdge) = takePosts .a s.nextEdge := by
    rw [a]
    exact if_neg (ne_true_of_eq_false hold)
  have clocked : (keepHlink ((s.modPcr (fun p => { p with fresh := false })).modHp (fun h => { h with hoisted := [] }))).pcr.clk.tb =
      true := clk
  unfold tick
  dsimp only
  rw [request, marchRelease_nil (held .a), marchRelease_nil (held .b), if_pos clocked]
  show assertDue (holdAfterHalt (takePosts .b (takePosts .a s.nextEdge))) = _
  rw [b, stays, a]
  exact assertDue_none rst

/-! ## The statement -/

/-- Settles O27: the close is `scanEnded`, whose parts are read off one by one, and the edge after it is `tick_takes_posts`. -/
theorem closeEndsTheScan : Obligations.CloseEndsTheScan := by
  refine ⟨?_, ?_⟩
  · intro s c tab u ht hc hu hd hp _ hmin hmax hk hm hf hl
    have only := scanEnded_only (c := c) (tab := tab) (u := u) hf
    have dev : (s.scanEnded c tab u).dev = s.dev := only.dev.resolve_left (by decide)
    have ends : (s.scanEnded c tab u).closeEnd c = s.scanEnded c tab u :=
      closeEnd_of_nothing (by rwa [dev]) (scanEnded_launchHeld hf hl)
    have self := scanEnded_core_self (c := c) (tab := tab) (u := u) hf hk hm
    have sc := scanEnded_sc (c := c) (tab := tab) (u := u) hf hk
    have tb := scanEnded_tb (c := c) (tab := tab) (u := u) hf
    refine ⟨_, (exec_scanClose_within ht hc hu hp hmin hmax).trans (congrArg _ ends), ?_, ?_, ?_, ?_, fun more => ?_,
      fun last => ?_, ?_, ?_, ?_, scanEnded_core_other hf hk hm, dev, only.fr.resolve_left (by decide), ?_⟩
    · rw [self]; rfl
    · rw [self]; rfl
    · rw [self]; rfl
    · rw [self]; rfl
    · rw [self, sc, State.kerfSent, CoreSt.afterClose, CoreSt.refolded, if_pos more, if_pos more]
      exact ⟨rfl, rfl, rfl⟩
    · have last : ¬(s.core c).kerfScans + 1 < tab.kerf := Nat.not_lt.mpr last
      rw [self, sc, State.kerfSent, CoreSt.afterClose, CoreSt.refolded, if_neg last, if_neg last]
      exact ⟨rfl, rfl, rfl, rfl⟩
    · rw [tb]
      exact Two.get_set ..
    · rw [tb]
    · rw [tb]
    · rw [only.ms.resolve_left (by decide)]
  · intro s n cmds empty clk mode held rst hold posts fits
    have edge : step s = .next (tick s) := by simp only [step, empty]
    rw [tick_takes_posts clk mode held rst hold posts fits] at edge
    refine ⟨_, edge, rfl, ?_, fun k => ?_, rfl, (nextEdge_only s).fr.resolve_left (by decide),
      (nextEdge_only s).dev.resolve_left (by decide)⟩
    · show s.tb.posts.set .a none = _
      rw [posts]
      rfl
    · exact vmapIdx_get ..

end Sys2Proof.Machine
end

section
/-!
PROOFS about work items, journals and stores: the one open item of a ring through the operations of an item, the checks of
R316 that pass, what a journal write changes, and the BEGIN record it leaves. The proofs about starts and tables use them.
-/
namespace Sys2Proof.Machine

/-! ## The rings through a journal write (R326, R327) -/

theorem journalRaw_wq (r : JRec) (s : State) :
    (journalRaw r s).wq = { s.wq with jseq := s.wq.jseq + 1, journalAt := some s.now } := rfl

theorem copyForward_wq (n : Nat) (s : State) : (copyForward n s).wq =
    { s.wq with jseq := (copyForward n s).wq.jseq, journalAt := (copyForward n s).wq.journalAt } := by
  induction n generalizing s with
  | zero => rfl
  | succ n ih =>
    unfold copyForward
    dsimp only
    split
    · next o _ _ =>
      split
      · exact (ih (journalRaw o s)).trans (by rw [journalRaw_wq])
      · rfl
    · rfl

/-- Of the rings and the landing a journal write changes the number and the tick of the last record alone. -/
theorem journalWrite_wq (r : JRec) (s : State) : (journalWrite r s).wq =
    { s.wq with jseq := (journalWrite r s).wq.jseq, journalAt := (journalWrite r s).wq.journalAt } := by
  have e : (journalWrite r s).wq = _ := journalRaw_wq r (copyForward (s.store s.survivor).journal.length s)
  rw [e, copyForward_wq]

theorem journalWrite_ports (r : JRec) (s : State) : (journalWrite r s).wq.port = s.wq.port := by rw [journalWrite_wq]

/-! ## The one open item of a ring (R306, R314) -/

/-- The ring holds one item, and no other ring has changed. -/
def State.ringHolds (s t : State) (p : Side) (n : Fin 8) (j : Item) : Prop :=
  (t.sq p n).items = [j] ∧ ∀ q m, (q ≠ p ∨ m ≠ n) → t.sq q m = s.sq q m

theorem itemAt_iff {s t : State} {p : Side} {n : Fin 8} {i : Item} {st : Stage} :
    s.itemAt t p n i st ↔ s.ringHolds t p n { i with stage := st } := Iff.rfl

theorem itemTimed_iff {s t : State} {p : Side} {n : Fin 8} {i : Item} {st : Stage} :
    s.itemTimed t p n i st ↔ s.ringHolds t p n { i with stage := st, mark := s.tb.now.toNat } := Iff.rfl

theorem ringHolds_self {s : State} {p : Side} {n : Fin 8} {i : Item} (h : (s.sq p n).items = [i]) : s.ringHolds s p n i :=
  ⟨h, fun _ _ _ => rfl⟩

theorem State.ringHolds.of_ports {s t u : State} {p : Side} {n : Fin 8} {j : Item} (h : s.ringHolds t p n j)
    (same : u.wq.port = t.wq.port) : s.ringHolds u p n j := by
  have sq (q : Side) (m : Fin 8) : u.sq q m = t.sq q m := by simp only [State.sq, State.wport, same]
  obtain ⟨items, others⟩ := h
  exact ⟨(congrArg Sq.items (sq p n)).trans items, fun q m ne => (sq q m).trans (others q m ne)⟩

theorem State.ringHolds.of_wq {s t u : State} {p : Side} {n : Fin 8} {j : Item} (h : s.ringHolds t p n j)
    (same : u.wq = t.wq) : s.ringHolds u p n j := h.of_ports (congrArg Wq.port same)

theorem modCurItem_single {i : Item} (h : curItem [i] = some i) (f : Item → Item) : modCurItem f [i] = [f i] := by
  unfold curItem curItem at h
  unfold modCurItem modCurItem
  split at h <;> simp_all

theorem curItem_accepted {i : Item} (h : i.stage = .accepted) : curItem [i] = some i := by simp [curItem, h]
theorem curItem_begun {i : Item} (h : i.stage = .begun) : curItem [i] = some i := by simp [curItem, h]

theorem State.ringHolds.of_modItem {s t : State} {p : Side} {n : Fin 8} {j : Item} (h : s.ringHolds t p n j)
    (cur : curItem [j] = some j) (f : Item → Item) : s.ringHolds (t.modItem p n f) p n (f j) := by
  obtain ⟨items, others⟩ := h
  refine ⟨?_, fun q m ne => (sq_modSq_ne t _ ne).trans (others q m ne)⟩
  rw [State.modItem, sq_modSq, items, modCurItem_single cur]

theorem State.ringHolds.of_endItem {s t : State} {p : Side} {n : Fin 8} {j : Item} (h : s.ringHolds t p n j)
    (cur : curItem [j] = some j) (code : Nat) (result : Word) :
    s.ringHolds (endItem p n code result t) p n { j with stage := .ended code result } := h.of_modItem cur _

theorem State.ringHolds.of_beginItem {s t : State} {p : Side} {n : Fin 8} {j : Item} (h : s.ringHolds t p n j)
    (cur : curItem [j] = some j) (d : Desc) (record : Bool) :
    s.ringHolds (beginItem p n d record t) p n { j with stage := .begun } := by
  cases record
  · exact h.of_modItem cur _
  · exact (h.of_ports (journalWrite_ports _ t)).of_modItem cur _

theorem State.ringHolds.of_beginTimed {s t : State} {p : Side} {n : Fin 8} {j : Item} (h : s.ringHolds t p n j)
    (cur : curItem [j] = some j) (d : Desc) (record : Bool) :
    s.ringHolds (beginTimed p n d record t) p n { j with stage := .begun, mark := t.tb.now.toNat } :=
  (h.of_beginItem cur d record).of_modItem (curItem_begun rfl) _

/-! ## What R316 checks -/

theorem beginning_of_itemWaits {s : State} {p : Side} {n : Fin 8} {i : Item} {opc : Nat} (h : s.itemWaits p n i opc) :
    s.beginning p n opc = some i.d := by
  obtain ⟨items, stage, skip, op, runs, -, -⟩ := h
  simp [State.beginning, State.waiting, frontItem, runs, items, stage, skip, op]

/-- An item of which no rule of R316 applies is carried out. -/
theorem itemCheck_passes {s : State} {p : Side} {d : Desc} {args limits stateOk : Bool} {u : DataUse} (flags : d.flags < 4)
    (resv : d.resv = false) (argsOk : args = true) (len : lenOk u d = true) (lim : limits = true)
    (win : (s.wport p).winBad (rangeOf u d).1 (rangeOf u d).2 = false) (ok : stateOk = true) :
    itemCheck p d args u limits stateOk s = none := by
  simp [itemCheck, Nat.not_le.mpr flags, resv, argsOk, len, lim, win, ok]

theorem lenOk_in {s : State} {p : Side} {d : Desc} (h : s.inRangeOk p d) : lenOk .in_ d = true := by
  obtain ⟨len, addr, inside, -⟩ := h
  simp [lenOk, len, addr, inside]

theorem lenOk_none {d : Desc} (h : d.noData) : lenOk .none d = true := by
  obtain ⟨len, off, addr⟩ := h
  simp [lenOk, len, off, addr]

@[simp] theorem winBad_empty (w : WqPort) : w.winBad 0 0 = false := rfl

/-! ## The stores through a journal write and a wear count (R326, R389) -/

/-- The stores differ in journal and wear counts alone. -/
structure Store.SameTables (x y : Store) : Prop where
  eq : y = { x with journal := y.journal, jwritten := y.jwritten, wear := y.wear }

theorem Store.SameTables.refl (x : Store) : x.SameTables x := ⟨rfl⟩
theorem Store.SameTables.trans {x y z : Store} (h : x.SameTables y) (k : y.SameTables z) : x.SameTables z := by
  have e := k.eq
  rw [h.eq] at e
  exact ⟨e⟩

theorem Store.SameTables.slot {x y : Store} (h : x.SameTables y) : y.slot = x.slot := by rw [h.eq]
theorem Store.SameTables.active1 {x y : Store} (h : x.SameTables y) : y.active1 = x.active1 := by rw [h.eq]
theorem Store.SameTables.user {x y : Store} (h : x.SameTables y) : y.user = x.user := by rw [h.eq]
theorem Store.SameTables.written {x y : Store} (h : x.SameTables y) : y.written = x.written := by rw [h.eq]; rfl
theorem Store.SameTables.staging {x y : Store} (h : x.SameTables y) : y.staging = x.staging := by rw [h.eq]; rfl
theorem Store.SameTables.active {x y : Store} (h : x.SameTables y) : y.active = x.active := by rw [h.eq]; rfl

theorem wearRange_eq (a n : Nat) (x : Store) : wearRange a n x = { x with wear := (wearRange a n x).wear } := by
  unfold wearRange
  split <;> rfl

theorem wearRange_sameTables (a n : Nat) (x : Store) : x.SameTables (wearRange a n x) := by
  constructor
  rw [wearRange_eq]

theorem wearRange_journal (a n : Nat) (x : Store) : (wearRange a n x).journal = x.journal := by rw [wearRange_eq]

theorem store_modStores (f : Side → Store → Store) (s : State) (j : Side) :
    (modStores f s).store j = if (s.store j).written = true then f j (s.store j) else s.store j := by
  cases j <;> rfl

theorem store_journalRaw (r : JRec) (s : State) (j : Side) : (journalRaw r s).store j =
    if (s.store j).written = true then journalPut (({ r with jseq := s.wq.jseq } : JRec).seal j) (s.store j) else s.store j := by
  unfold journalRaw
  dsimp only
  rw [store_of_ms (modWq_ms _ _), store_modStores]

theorem journalRaw_sameTables (r : JRec) (s : State) (j : Side) : (s.store j).SameTables ((journalRaw r s).store j) := by
  rw [store_journalRaw]
  split
  · exact ⟨rfl⟩
  · exact .refl _

theorem copyForward_sameTables (n : Nat) (s : State) (j : Side) : (s.store j).SameTables ((copyForward n s).store j) := by
  induction n generalizing s with
  | zero => exact .refl _
  | succ n ih =>
    unfold copyForward
    dsimp only
    split
    · next o _ _ =>
      split
      · exact (journalRaw_sameTables o s j).trans (ih _)
      · exact .refl _
    · exact .refl _

theorem journalWrite_sameTables (r : JRec) (s : State) (j : Side) : (s.store j).SameTables ((journalWrite r s).store j) :=
  (copyForward_sameTables _ s j).trans (journalRaw_sameTables r _ j)

theorem journalPut_getLast (r : JRec) (x : Store) : (journalPut r x).journal.getLast? = some r := by
  simp only [journalPut, List.getLast?_append, List.getLast?_singleton, Option.some_or]

/-- The record stands last in the journal of a store that is written, with its JSEQ and RCRC. -/
theorem journalWrite_getLast {s : State} {j : Side} (r : JRec) (h : (s.store j).written = true) :
    ∃ q : Word, ((journalWrite r s).store j).journal.getLast? = some (({ r with jseq := q } : JRec).seal j) := by
  have written := (copyForward_sameTables (s.store s.survivor).journal.length s j).written.trans h
  refine ⟨(copyForward (s.store s.survivor).journal.length s).wq.jseq, ?_⟩
  rw [journalWrite, store_journalRaw, if_pos written, journalPut_getLast]

/-! ## The BEGIN record (R326) -/

theorem store_modItem (s : State) (p : Side) (n : Fin 8) (f : Item → Item) (j : Side) :
    (s.modItem p n f).store j = s.store j := rfl

theorem store_endItem (s : State) (p : Side) (n : Fin 8) (code : Nat) (result : Word) (j : Side) :
    (endItem p n code result s).store j = s.store j := rfl

theorem store_beginItem (p : Side) (n : Fin 8) (d : Desc) (s : State) (j : Side) :
    (beginItem p n d true s).store j = (journalWrite (jrec .begin p n d.opc 0 d.seq 0) s).store j := by
  unfold beginItem
  rw [if_pos rfl, store_modItem]

theorem beginItem_sameTables (p : Side) (n : Fin 8) (d : Desc) (s : State) (j : Side) :
    (s.store j).SameTables ((beginItem p n d true s).store j) := by
  rw [store_beginItem]
  exact journalWrite_sameTables _ s j

theorem beginItem_begun {s : State} (p : Side) (n : Fin 8) (i : Item) (h : ∀ j, (s.store j).written = true) :
    (beginItem p n i.d true s).begun p n i := by
  intro j _
  obtain ⟨q, last⟩ := journalWrite_getLast (jrec .begin p n i.d.opc 0 i.d.seq 0) (h j)
  rw [store_beginItem]
  exact ⟨_, last, rfl, rfl, rfl, rfl⟩

/-- A BEGIN record stays last while nothing is written to a journal. -/
theorem State.begun.of_journals {s t : State} {p : Side} {n : Fin 8} {i : Item} (h : s.begun p n i)
    (same : ∀ j, (t.store j).journal = (s.store j).journal) (written : ∀ j, (s.store j).written = true) : t.begun p n i := by
  intro j _
  rw [same]
  exact h j (written j)

/-! ## The stores through other changes (R390) -/

/-- Both stores changed, one after the other. -/
theorem store_foldl_modStore (f : Side → Store → Store) (s : State) (j : Side) :
    (([Side.a, .b].foldl (fun s i => s.modStore i (f i)) s).store j) = f j (s.store j) := by
  cases j <;> rfl

theorem foldl_modStore_only (is : List Side) (f : Side → Store → Store) (s : State) :
    Only 262144 s (is.foldl (fun s i => s.modStore i (f i)) s) :=
  Only.foldl _ _ (.refl _ _) fun _ _ h => modStore_nx h rfl

theorem store_logPush (e : LogEntry) (s : State) (j : Side) : (logPush e s).store j = s.store j := by
  unfold logPush
  split
  · rfl
  · exact store_of_ms ((recordPlain_only ..).ms.resolve_left (by decide)) j

theorem store_logEvent (kind block data16 data32 : Nat) (s : State) (j : Side) :
    (logEvent kind block data16 data32 s).store j = s.store j := store_logPush _ s j

end Sys2Proof.Machine
end

section
/-!
PROOFS about the steps of a start: the identity step over stores that agree, the journal replay, and selection, loading and
the field step where no table is chosen and no quarter is due. They settle O47.
-/
namespace Sys2Proof.Machine

/-! ## The identity step (R388, R422, R440) -/

/-- The fault records with the FR_QUIET values of an identity area (R388). -/
def Identity.restoreQuiet (x : Identity) (fr : Vector FaultRecord 14) : Vector FaultRecord 14 :=
  vmapIdx fr (fun i r => match x.quiet[i] with | some (c, f) => { r with cq := c, fq := f } | none => r)

theorem startStep_iff {s : State} {ph : StartPhase} :
    s.startStep ph = true ↔ s.dev = .start ∧ s.pcr.phase = ph ∧ s.pcr.asserted = none := by
  simp [State.startStep, and_assoc]

/-- Stores in service are read, and SA serves. -/
theorem bothStores_read {s : State} (h : s.bothStores = true) :
    (s.store .a).absent = false ∧ (s.store .b).absent = false ∧ s.survivor = .a := by
  simp only [State.bothStores, Bool.and_eq_true, beq_iff_eq] at h
  obtain ⟨⟨⟨soundA, soundB⟩, readA⟩, readB⟩ := h
  simp [Store.absent, State.survivor, soundA, soundB, readA, readB]

/-- Stores that agree, at a start that is no power-on reset's: nothing differs and no strap moves the life cycle. -/
theorem exec_identityRead_agreeing {s : State} (step : s.startStep .identity = true) (str : strFirst s = true)
    (both : s.bothStores = true) (agree : (s.store .a).identity = (s.store .b).identity) (level : s.pcr.level ≠ .powerOn) :
    exec .identityRead s = .next { s with
      st := { s.st with lc := (s.store .a).identity.lc }, fr := (s.store .a).identity.restoreQuiet s.fr,
      pcr := { s.pcr with phase := .replay } } := by
  have now : s.dev = .start ∧ s.pcr.phase = .identity ∧ s.pcr.asserted = none ∧ strFirst s = true := by
    simpa [str] using startStep_iff.mp step
  have running : ¬ s.dev ≠ .start := fun stopped => stopped now.1
  obtain ⟨readA, readB, serves⟩ := bothStores_read both
  show execIdentityRead s = _
  unfold execIdentityRead
  rw [if_pos now]
  simp only [readA, readB, serves, running, ← agree, bne_self_eq_false, Bool.and_false, Bool.false_eq_true, if_false, modSt_pcr,
    level]
  rfl

/-! ## The journal replay (R329, R330) -/

/-- Recording a contained fault inhibits no driver. -/
theorem recordCore_contained_inhib {f : FaultRep} (h : f.cls = .contained) (s : State) :
    (recordCore f s).os.inhib = s.os.inhib := by
  have stays (b : Bool) : (if b = true then FaultClass.contained else f.cls) = .contained := by simp [h]
  unfold recordCore
  simp only [stays]
  split
  · rfl
  · simp [markRearm]

theorem journalCheck_inhib (i : Side) (s : State) : (journalCheck i s).os.inhib = s.os.inhib := by
  unfold journalCheck
  dsimp only
  split
  · split
    · exact recordCore_contained_inhib rfl s
    · rfl
  · rfl

theorem replayDone_replayed (r : Side × Fin 8) (s : State) : (replayDone r s).wq.replayed = s.wq.replayed := by
  unfold replayDone
  induction (s.sq r.1 r.2).items generalizing s with
  | nil => rfl
  | cons i is ih =>
    refine (ih _).trans ?_
    dsimp only
    split
    · rw [journalWrite_wq]
    · rfl

theorem foldl_replayDone_replayed (rs : List (Side × Fin 8)) (s : State) :
    (rs.foldl (fun s r => replayDone r s) s).wq.replayed = s.wq.replayed := by
  induction rs generalizing s with
  | nil => rfl
  | cons r rs ih => exact (ih _).trans (replayDone_replayed r s)

/-- The state of a replay from which the rings are rebuilt: both journals judged, and no broken newest record in them. -/
def State.judged (bad : List (Side × Nat)) (s : State) : State :=
  modStores Store.dropBroken (journalCheck .b (journalCheck .a (bad.foldl damageRecord s)))

theorem judged_only (bad : List (Side × Nat)) (s : State) : Only 385048 s (s.judged bad) :=
  modStores_nx (journalCheck_nx (journalCheck_nx
    (Only.foldl _ _ (.refl _ _) fun _ _ h => damageRecord_nx h rfl) rfl) rfl) rfl

theorem judged_inhib (bad : List (Side × Nat)) (s : State) : (s.judged bad).os.inhib = s.os.inhib := by
  have damaged : Only 262144 s (bad.foldl damageRecord s) :=
    Only.foldl _ _ (.refl _ _) fun _ _ h => damageRecord_nx h rfl
  rw [State.judged, modStores_f_os, journalCheck_inhib, journalCheck_inhib, damaged.os.resolve_left (by decide)]

/-- A replay leaves the rings rebuilt from the judged journals, with REPLAYED set and the selection next. -/
theorem exec_journalReplay_eq {s : State} {bad : List (Side × Nat)} (step : s.startStep .replay = true) :
    ∃ t, exec (.journalReplay bad) s = .next (t.modPcr (fun p => { p with phase := .select })) ∧ t.wq.replayed = true ∧
      Only 819200 (s.judged bad) t := by
  show ∃ t, execJournalReplay bad s = _ ∧ _
  unfold execJournalReplay
  rw [if_pos step]
  refine ⟨_, rfl, ?_, ?_⟩
  · exact foldl_replayDone_replayed _ _
  · refine Only.foldl _ _ (modWq_nx (rebuildCqs_nx ?_ rfl) rfl) fun _ _ h => replayDone_nx h rfl
    exact Only.foldl _ _ (.refl _ _) fun _ _ h => rebuildRing_nx h rfl

/-! ## Selection and loading in a start without a table (R59, R93, R422, R439) -/

theorem exec_tableSelect_null {s : State} (step : s.startStep .select = true) (lc : s.st.lc = .blank ∨ s.st.lc = .retired) :
    exec .tableSelect s = .next (((selectSnoop s).modEv (fun e => { e with chosen := ⟨none, none⟩ })).modPcr
      (fun p => { p with phase := .load })) := by
  have st : (selectSnoop s).st = s.st := (selectSnoop_only s).st.resolve_left (by decide)
  have empty : selectTables (selectSnoop s) = (selectSnoop s).modEv (fun e => { e with chosen := ⟨none, none⟩ }) :=
    if_pos (by rwa [modEv_st, st])
  show execTableSelect s = _
  rw [execTableSelect, if_pos step, empty]

/-- Both cores with the null table loaded. -/
def State.nullLoaded (s : State) : State :=
  (s.modCore .a (CoreSt.load .a Table.null)).modCore .b (CoreSt.load .b Table.null)

theorem nullLoaded_core (s : State) (c : Side) : s.nullLoaded.core c = CoreSt.load c Table.null (s.core c) := by
  cases c <;> rfl

theorem load_null (c : Side) (x : CoreSt) :
    CoreSt.load c Table.null x = { x with table := some Table.null, opMem := [], undef := none, sig := 0 } := rfl

theorem releaseCores_core (s : State) (c : Side) : (releaseCores s).core c = { s.core c with seq := .wait } := by
  cases c <;> rfl

theorem exec_tableLoad_null {s : State} (step : s.startStep .load = true) (chosen : s.ev.chosen = ⟨none, none⟩) :
    ∃ u : State, (∀ c, u.core c = CoreSt.load c Table.null (s.core c)) ∧ u.dev = s.dev ∧
      (exec .tableLoad s = .next (releaseCores u) ∨
        exec .tableLoad s = .next (u.modPcr (fun p => { p with phase := .field }))) := by
  refine ⟨s.nullLoaded.modEv (fun e => { e with fieldQ := fieldQuarters s s.nullLoaded, chosen := ⟨none, none⟩ }),
    nullLoaded_core s, rfl, ?_⟩
  show execTableLoad s = _ ∨ execTableLoad s = _
  unfold execTableLoad
  rw [if_pos step]
  simp only [chosen, Option.getD_none]
  by_cases due : fieldQuarters s s.nullLoaded = 0
  · exact .inl (congrArg _ (if_pos due))
  · exact .inr (congrArg _ (if_neg due))

/-- With no quarter due a field step changes nothing but the cores it releases. -/
theorem exec_fieldStep_nothingDue {s : State} {ok : BitVec 4} {thrBad : List (Fin 128 × BitVec 5)}
    {calBad : List (Fin 4 × Fin 17)} (step : s.startStep .field = true) (due : s.ev.fieldQ = 0) :
    exec (.fieldStep ok thrBad calBad) s = .next (releaseCores s) := by
  have notDue (q : Fin 4) : s.ev.fieldQ.getLsbD q.val = false := by simp [due]
  have clocks : s.fieldClocks = true := by
    simp only [State.fieldClocks, notDue, Bool.false_and, Bool.not_false, Bool.true_or, List.all_eq_true, implies_true]
  have nothing : (fins 4).foldl (fun t q =>
      if s.ev.fieldQ.getLsbD q.val && t.pcr.vfOk[q] then fieldQuarter ok thrBad calBad q t else t) s = s := by
    induction fins 4 with
    | nil => rfl
    | cons q qs ih => simpa only [List.foldl_cons, notDue, Bool.false_and, Bool.false_eq_true, if_false] using ih
  show execFieldStep ok thrBad calBad s = _
  unfold execFieldStep
  rw [if_pos (by simp [step, clocks])]
  dsimp only
  rw [nothing, if_pos (startStep_iff.mp step).1]

/-! ## The statement -/

/-- Settles O47: each step of the start, read off its command. -/
theorem startStepsFollow : Obligations.StartStepsFollow := by
  refine ⟨?_, ?_, ?_, ?_, ?_⟩
  · intro s step str both agree level
    exact ⟨_, exec_identityRead_agreeing step str both agree level, rfl, rfl, (startStep_iff.mp step).1, rfl⟩
  · intro s bad step
    obtain ⟨t, next, replayed, only⟩ := exec_journalReplay_eq (bad := bad) step
    refine ⟨_, next, replayed, rfl, ?_, ?_⟩
    · show t.dev = .start
      rw [only.dev.resolve_left (by decide), (judged_only bad s).dev.resolve_left (by decide), (startStep_iff.mp step).1]
    · show t.os.inhib = _
      rw [only.os.resolve_left (by decide), judged_inhib]
  · intro s step lc
    have dev : (selectSnoop s).dev = s.dev := (selectSnoop_only s).dev.resolve_left (by decide)
    have ms : (selectSnoop s).ms = s.ms := (selectSnoop_only s).ms.resolve_left (by decide)
    refine ⟨_, exec_tableSelect_null step lc, rfl, rfl, ?_, ?_⟩
    · rw [modPcr_dev, modEv_dev, dev, (startStep_iff.mp step).1]
    · rw [modPcr_ms, modEv_ms, ms]
  · intro s step chosen
    obtain ⟨u, core, dev, next⟩ := exec_tableLoad_null step chosen
    have start : u.dev = .start := dev.trans (startStep_iff.mp step).1
    rcases next with next | next
    · refine ⟨_, next, fun c => ?_, .inl ⟨rfl, fun c => ?_⟩, start⟩
      · rw [releaseCores_core, core, load_null]
        exact ⟨rfl, rfl, rfl⟩
      · rw [releaseCores_core]
    · refine ⟨_, next, fun c => ?_, .inr rfl, start⟩
      rw [show (u.modPcr _).core c = u.core c from rfl, core, load_null]
      exact ⟨rfl, rfl, rfl⟩
  · intro s ok step due
    exact ⟨_, exec_fieldStep_nothingDue step due, rfl, fun c => by rw [releaseCores_core], rfl⟩

end Sys2Proof.Machine
end

section
/-!
PROOFS about a core reset whose source stands alone: the entry to RESET, what the level keeps, and the cause recorded.
-/
namespace Sys2Proof.Machine

/-- The entry to RESET ends with these steps. -/
theorem setDev_reset (s : State) : ∃ u : State, u.dev = .reset ∧ u.pcr.cause = s.pcr.cause ∧ (∀ j, u.store j = s.store j) ∧
    setDev .reset s = ackCheck (stopModulePgs (plAllOff (sourcesOff (cruiseStop (inhibitBoth u))))) := by
  unfold setDev
  simp only [reduceCtorEq, if_false]
  refine ⟨_, ?_, ?_, ?_, rfl⟩
  · simp
  · simp [backupState, modBackup]
  · intro j
    rw [store_of_ms (cruiseInterrupt_f_ms.trans backupState_f_ms)]
    exact (store_logEvent ..).trans (store_of_ms modeDrop_f_ms j)

/-- RESET is entered with the stores and the cause of the reset as they were. -/
theorem toReset_keeps (s : State) : (toReset s).dev = .reset ∧ (toReset s).pcr.cause = s.pcr.cause ∧
    ∀ j, (toReset s).store j = s.store j := by
  unfold toReset
  split
  · next already => exact ⟨already, rfl, fun _ => rfl⟩
  · obtain ⟨u, dev, cause, stores, eq⟩ := setDev_reset s
    refine ⟨by simp [eq, dev], by simp [eq, cause], fun j => ?_⟩
    rw [eq, ← stores j]
    exact store_of_ms (by simp) j

theorem applyCore_keeps (s : State) : (applyCore s).dev = .reset ∧ (applyCore s).pcr.cause = s.pcr.cause ∧
    ∀ j, (applyCore s).store j = s.store j := by
  obtain ⟨dev, cause, stores⟩ := toReset_keeps (coreResetItems s)
  have items := coreResetItems_only s
  unfold applyCore
  dsimp only
  refine ⟨?_, ?_, fun j => ?_⟩
  · rw [idleCells_f_dev, stopCores_f_dev, dev]
  · rw [idleCells_f_pcr, stopCores_f_pcr, cause, items.pcr.resolve_left (by decide)]
  · rw [← store_of_ms (items.ms.resolve_left (by decide)) j, ← stores j]
    simp only [State.store, idleCells_f_ms, stopCores_f_ms]

/-- A slot as a reset of any level leaves it (R91). -/
def TableSlot.demoted (x : TableSlot) : TableSlot := if x.st = .verified then { x with st := .loaded } else x

theorem demoted_gen (x : TableSlot) : x.demoted.gen = x.gen := by
  unfold TableSlot.demoted
  split <;> rfl

theorem store_demoteSlots (s : State) (j : Side) :
    (demoteSlots s).store j = { s.store j with slot := (s.store j).slot.map TableSlot.demoted } := Two.get_map _ _ j

/-- What no reset changes of a store's slots: which one is active, and the generations (R91, R416). -/
theorem demoteSlots_active (s : State) (j : Side) : ((demoteSlots s).store j).active1 = (s.store j).active1 ∧
    ((demoteSlots s).store j).active.gen = (s.store j).active.gen := by
  rw [store_demoteSlots]
  exact ⟨rfl, (congrArg TableSlot.gen (Two.get_map ..)).trans (demoted_gen _)⟩

/-- A reset source that stands alone asserts its level with its cause (R417, R420). -/
theorem assertReset_settled {s : State} (h : s.settled) (level : ResetLevel) (cause : Nat) : ∃ u : State, Only 64 s u ∧
    u.pcr.cause = BitVec.ofNat 8 cause ∧ ∃ data16 data32, assertReset level cause s = logEvent 5 Block.pcr.id data16 data32
      ((applyLevel level u).modPcr (fun p => { p with asserted := some level, fresh := true })) := by
  obtain ⟨asserted, phase⟩ := h
  have notPll : (s.pcr.phase == .pll) = false := by simp [phase]
  unfold assertReset
  simp only [notPll, asserted, Option.isSome_none, Bool.or_self, Bool.false_and, Bool.false_eq_true, if_false]
  exact ⟨_, modPcr_nx (histStep_nx (modBackup_nx (.refl _ _) rfl) rfl) rfl, rfl, _, _, rfl⟩

/-- A core reset whose source stands alone (R28, R416). -/
theorem assertReset_core {s : State} (h : s.settled) (cause : Nat) :
    (assertReset .core cause s).pcr.asserted = some .core ∧ (assertReset .core cause s).pcr.cause = BitVec.ofNat 8 cause ∧
    (assertReset .core cause s).dev = .reset ∧ ∀ j, ((assertReset .core cause s).store j).active1 = (s.store j).active1 ∧
      ((assertReset .core cause s).store j).active.gen = (s.store j).active.gen := by
  obtain ⟨u, only, code, data16, data32, eq⟩ := assertReset_settled h .core cause
  obtain ⟨dev, kept, stores⟩ := applyCore_keeps u
  have level : applyLevel .core u = demoteSlots (applyCore u) := rfl
  rw [eq, logEvent_f_pcr, logEvent_f_dev, modPcr_pcr, modPcr_dev, level]
  refine ⟨rfl, ?_, ?_, fun j => ?_⟩
  · rw [(demoteSlots_only _).pcr.resolve_left (by decide), kept, code]
  · rw [(demoteSlots_only _).dev.resolve_left (by decide), dev]
  · rw [store_logEvent, store_of_ms (modPcr_ms _ _), ← store_of_ms (only.ms.resolve_left (by decide)) j, ← stores j]
    exact demoteSlots_active _ j

end Sys2Proof.Machine
end

section
/-!
PROOFS about the tables of a store: staging, verifying and committing one, the wait for an acknowledgement and its ends, and
the commit that the key brings. They settle O56.
-/
namespace Sys2Proof.Machine

/-! ## The slots of a store (R90 to R92) -/

theorem tableStores_both {s : State} {d : Desc} (split : s.split = false) (written : ∀ j, (s.store j).written = true) :
    s.tableStores d = [.a, .b] := by
  simp [State.tableStores, split, written]

/-- A store with its staging slot changed. -/
def Store.modStaging (f : TableSlot → TableSlot) (x : Store) : Store := { x with slot := x.slot.upd x.stagingIdx f }

theorem Store.activeIdx_eq (x : Store) : x.activeIdx = x.stagingIdx.other := by
  cases h : x.active1 <;> simp [Store.activeIdx, Store.stagingIdx, h, Side.other]

@[simp] theorem modStaging_staging (f : TableSlot → TableSlot) (x : Store) : (x.modStaging f).staging = f x.staging :=
  Two.get_upd x.slot x.stagingIdx f

@[simp] theorem modStaging_active (f : TableSlot → TableSlot) (x : Store) : (x.modStaging f).active = x.active := by
  show (x.slot.upd x.stagingIdx f).get x.activeIdx = x.slot.get x.activeIdx
  rw [Store.activeIdx_eq, Two.get_upd_other]

theorem store_modStaging (f : Side → TableSlot → TableSlot) (s : State) (j : Side) :
    (modStaging [.a, .b] f s).store j = (s.store j).modStaging (f j) :=
  store_foldl_modStore (fun i => Store.modStaging (f i)) s j

/-! ## TABLE_STAGE (R90) -/

/-- The slot with a range staged. -/
def TableSlot.stage (d : Desc) (bytes : List Byte) (x : TableSlot) : TableSlot :=
  { bytes := msetList 0 x.bytes d.arg0 bytes, gen := 0, st := .loaded,
    stagedEnd := if x.st = .empty then d.arg0 + d.len else max x.stagedEnd (d.arg0 + d.len) }

/-- The writes of a staged range counted in both stores. -/
def countStaged (d : Desc) (s : State) : State :=
  [Side.a, .b].foldl (fun s i => s.modStore i (fun x => wearRange (x.stagingAddr + d.arg0) d.len x)) s

theorem store_countStaged (d : Desc) (s : State) (j : Side) :
    (countStaged d s).store j = wearRange ((s.store j).stagingAddr + d.arg0) d.len (s.store j) :=
  store_foldl_modStore (fun _ x => wearRange (x.stagingAddr + d.arg0) d.len x) s j

/-- The state that a staging item leaves. -/
def stageEnded (p : Side) (n : Fin 8) (d : Desc) (s : State) : State :=
  endItem p n 0 (BitVec.ofNat 32 d.len)
    (modStaging [.a, .b] (fun _ => TableSlot.stage d ((s.wport p).data d)) (countStaged d (beginTimed p n d true s)))

/-- The item may be taken for a table: unsplit, of the owning port, both stores written (R90, R91, R297). -/
structure State.takesTables (s : State) (p : Side) (d : Desc) : Prop where
  split : s.split = false
  owner : s.hp.owner = some p
  lc : s.st.lc = .develop ∨ s.st.lc = .commission
  written : ∀ j, (s.store j).written = true
  arg1 : d.arg1 = 0
  arg2 : d.arg2 = 0
  arg3 : d.arg3 = 0

theorem State.takesTables.owns_stageLc {s : State} {p : Side} {d : Desc} (h : s.takesTables p d) :
    (s.owns p && s.stageLc) = true := by
  rcases h.lc with lc | lc <;> simp [State.owns, State.stageLc, h.owner, lc]

theorem State.takesTables.args {s : State} {p : Side} {d : Desc} (h : s.takesTables p d) (first : Bool) :
    tableArgs s d first = true := by
  simp [tableArgs, h.split, h.arg1, h.arg2, h.arg3]

theorem State.takesTables.stores {s t : State} {p : Side} {d : Desc} (h : s.takesTables p d) (st : t.st = s.st)
    (same : ∀ j, (t.store j).written = (s.store j).written) : t.tableStores d = [.a, .b] :=
  tableStores_both (by rw [State.split, st]; exact h.split) fun j => (same j).trans (h.written j)

theorem store_beginTimed (p : Side) (n : Fin 8) (d : Desc) (s : State) (j : Side) :
    (beginTimed p n d true s).store j = (beginItem p n d true s).store j := by
  rw [beginTimed, store_modItem]

theorem exec_tableStage_passes {s : State} {p : Side} {n : Fin 8} {i : Item} (tables : s.takesTables p i.d)
    (waits : s.itemWaits p n i 0x10) (align : i.d.arg0 % 8 = 0) (fits : i.d.arg0 + i.d.len ≤ 262144) (range : s.inRangeOk p i.d)
    (free : s.marchMeets p i.d.winOff i.d.len = false) : exec (.tableStage p n) s = .next (stageEnded p n i.d s) := by
  have begins := beginning_of_itemWaits waits
  obtain ⟨-, -, -, -, -, flags, resv⟩ := waits
  have lenOk := lenOk_in range
  obtain ⟨-, -, -, win⟩ := range
  have passes := itemCheck_passes (s := s) (p := p) (u := .in_) flags resv (tables.args true) lenOk
    (limits := i.d.arg0 % 8 == 0 && decide (i.d.arg0 + i.d.len ≤ 262144)) (by simp [align, fits]) win tables.owns_stageLc
  have first : bitOf i.d.arg1 0 = false := by rw [tables.arg1]; rfl
  have stores : (beginTimed p n i.d true s).tableStores i.d = [.a, .b] :=
    tables.stores ((beginTimed_only ..).st.resolve_left (by decide)) fun j => by
      rw [store_beginTimed]
      exact (beginItem_sameTables p n i.d s j).written
  show execTableStage p n s = _
  unfold execTableStage
  simp only [begins, passes, runItem, free, first, stores, Bool.false_eq_true, if_false, false_or]
  rfl

/-- What staging leaves of a store: the BEGIN record, the writes counted, and the range in the staging slot. -/
theorem store_stageEnded (p : Side) (n : Fin 8) (d : Desc) (s : State) (j : Side) : ∃ x : Store, (s.store j).SameTables x ∧
    x.journal = ((beginTimed p n d true s).store j).journal ∧
    (stageEnded p n d s).store j = x.modStaging (TableSlot.stage d ((s.wport p).data d)) := by
  refine ⟨(countStaged d (beginTimed p n d true s)).store j, ?_, ?_, ?_⟩
  · rw [store_countStaged, store_beginTimed]
    exact (beginItem_sameTables p n d s j).trans (wearRange_sameTables _ _ _)
  · rw [store_countStaged, wearRange_journal]
  · rw [stageEnded, store_endItem, store_modStaging]

theorem stageEnded_itemTimed {s : State} {p : Side} {n : Fin 8} {i : Item} {opc : Nat} (waits : s.itemWaits p n i opc) :
    s.itemTimed (stageEnded p n i.d s) p n i (.ended 0 (BitVec.ofNat 32 i.d.len)) := by
  obtain ⟨items, stage, -⟩ := waits
  have begun := (ringHolds_self items).of_beginTimed (curItem_accepted stage) i.d true
  have only : Only 262144 (beginTimed p n i.d true s) (modStaging [.a, .b] (fun _ => TableSlot.stage i.d ((s.wport p).data i.d))
      (countStaged i.d (beginTimed p n i.d true s))) :=
    modStaging_nx (foldl_modStore_only _ _ _) rfl
  rw [itemTimed_iff, stageEnded]
  exact (begun.of_wq (only.wq.resolve_left (by decide))).of_endItem (curItem_begun rfl) _ _

theorem stageEnded_begun {s : State} {p : Side} {n : Fin 8} {i : Item} (written : ∀ j, (s.store j).written = true) :
    (stageEnded p n i.d s).begun p n i := by
  have kept (j : Side) := (beginItem_sameTables p n i.d s j).written.trans (written j)
  refine (beginItem_begun p n i written).of_journals (fun j => ?_) kept
  obtain ⟨x, -, journal, eq⟩ := store_stageEnded p n i.d s j
  rw [eq, ← store_beginTimed, ← journal]
  rfl

theorem stageEnded_dev (p : Side) (n : Fin 8) (d : Desc) (s : State) : (stageEnded p n d s).dev = s.dev := by
  have only : Only 294912 s (stageEnded p n d s) :=
    endItem_nx (modStaging_nx (((beginTimed_only p n d true s).step (foldl_modStore_only _ _ _) rfl)) rfl) rfl
  exact only.dev.resolve_left (by decide)

/-! ## TABLE_VERIFY (R88, R89) -/

/-- The slot with the outcome of a verification, whose code is 0 where it passes (R88, R91). -/
def TableSlot.judged (code : Nat) (x : TableSlot) : TableSlot := { x with st := if code = 0 then .verified else .loaded }

/-- The state that a verification without a disagreeing store leaves. -/
def verifyEnded (p : Side) (n : Fin 8) (d : Desc) (s : State) : State :=
  endItem p n 0 (verifyWord (verifyStaging d s)) (beginItem p n d false
    (modStaging [.a, .b] (fun _ => TableSlot.judged (verifyStaging d s).1)
      (holdChannel p n 3 id (verifySnoop d s))))

theorem cvw3Held_only (p : Side) (n : Fin 8) (d : Desc) (s : State) :
    Only 131072 s (holdChannel p n 3 id (verifySnoop d s)) := holdChannel_nx (verifySnoop_only d s) rfl

theorem exec_tableVerify_passes {s : State} {p : Side} {n : Fin 8} {i : Item} (tables : s.takesTables p i.d)
    (waits : s.itemWaits p n i 0x11) (arg0 : i.d.arg0 = 0) (empty : i.d.noData) (loaded : (s.store .a).staging.st ≠ .empty)
    (free : s.cvw3Busy = false) (agree : (verifyStaging i.d s).2.2 = none) :
    exec (.tableVerify p n) s = .next (verifyEnded p n i.d s) := by
  have begins := beginning_of_itemWaits waits
  obtain ⟨-, -, -, -, -, flags, resv⟩ := waits
  have stores : s.tableStores i.d = [.a, .b] := tables.stores rfl fun _ => rfl
  have passes : verifyCheck p i.d s = none := by
    simp only [verifyCheck, stores, List.headD_cons]
    exact itemCheck_passes flags resv (by simp [tables.args, arg0]) (lenOk_none empty) rfl (winBad_empty _)
      (by simp [tables.owns_stageLc, loaded])
  have held : (holdChannel p n 3 id (verifySnoop i.d s)).tableStores i.d = [.a, .b] :=
    tables.stores ((cvw3Held_only ..).st.resolve_left (by decide)) fun j =>
      congrArg Store.written (store_of_ms ((cvw3Held_only ..).ms.resolve_left (by decide)) j)
  show execTableVerify p n s = _
  unfold execTableVerify
  simp only [begins, passes, runItem, free, Bool.false_eq_true, if_false, held, agree]
  rfl

theorem verifyEnded_itemAt {s : State} {p : Side} {n : Fin 8} {i : Item} {opc : Nat} (waits : s.itemWaits p n i opc) :
    s.itemAt (verifyEnded p n i.d s) p n i (.ended 0 (verifyWord (verifyStaging i.d s))) := by
  obtain ⟨items, stage, -⟩ := waits
  have only : Only 393216 s (modStaging [.a, .b] (fun _ => TableSlot.judged (verifyStaging i.d s).1)
      (holdChannel p n 3 id (verifySnoop i.d s))) :=
    (modStaging_nx ((Only.refl 393216 s).step (cvw3Held_only ..) rfl) rfl)
  rw [itemAt_iff, verifyEnded]
  have begun := ((ringHolds_self items).of_wq (only.wq.resolve_left (by decide))).of_beginItem (curItem_accepted stage) i.d false
  exact begun.of_endItem (curItem_begun rfl) _ _

theorem store_beginItem_unrecorded (p : Side) (n : Fin 8) (d : Desc) (s : State) (j : Side) :
    (beginItem p n d false s).store j = s.store j := rfl

theorem store_verifyEnded (p : Side) (n : Fin 8) (d : Desc) (s : State) (j : Side) : (verifyEnded p n d s).store j =
    (s.store j).modStaging (TableSlot.judged (verifyStaging d s).1) := by
  rw [verifyEnded, store_endItem, store_beginItem_unrecorded, store_modStaging,
    store_of_ms ((cvw3Held_only p n d s).ms.resolve_left (by decide))]

theorem verifyEnded_dev (p : Side) (n : Fin 8) (d : Desc) (s : State) : (verifyEnded p n d s).dev = s.dev := by
  have only : Only 425984 s (verifyEnded p n d s) :=
    endItem_nx (beginItem_nx (modStaging_nx ((Only.refl 425984 s).step (cvw3Held_only ..) rfl) rfl) rfl) rfl
  exact only.dev.resolve_left (by decide)

/-! ## TABLE_COMMIT (R92, R442) -/

/-- The wait that a commit of a verified slot begins: its form and key, and nothing seen of a press yet. -/
def commitAwaited (p : Side) (n : Fin 8) (d : Desc) (s : State) : State :=
  ackWait p n (tableOf (imageOf (s.store .a).staging.bytes)).cvA (tableOf (imageOf (s.store .a).staging.bytes)).ackInput
    (verifySnoop d (beginItem p n d true s))

theorem exec_tableCommit_waits {s : State} {p : Side} {n : Fin 8} {i : Item} (tables : s.takesTables p i.d)
    (waits : s.itemWaits p n i 0x12) (arg0 : i.d.arg0 = 0) (empty : i.d.noData) (verified : (s.store .a).staging.st = .verified)
    (free : s.cvw3Busy = false) (dev : s.dev = .idle ∨ s.dev = .recovery) (ack : s.st.ack = none)
    (passes : (verifyStaging i.d s).1 = 0) : exec (.tableCommit p n) s = .next (commitAwaited p n i.d s) := by
  have begins := beginning_of_itemWaits waits
  obtain ⟨-, -, -, -, -, flags, resv⟩ := waits
  have stores : s.tableStores i.d = [.a, .b] := tables.stores rfl fun _ => rfl
  have quiet : (s.dev == .idle || s.dev == .recovery) = true := by simpa using dev
  have allowed : commitCheck p i.d s = none := by
    simp only [commitCheck, stores, List.headD_cons]
    exact itemCheck_passes flags resv (by simp [tables.args, arg0]) (lenOk_none empty) rfl (winBad_empty _)
      (by simp [tables.owns_stageLc, verified, quiet])
  show execTableCommit p n s = _
  unfold execTableCommit
  simp only [begins, allowed, runItem, free, ack, passes, stores, List.headD_cons, Option.isSome_none, Bool.false_eq_true,
    or_self, if_false, ne_eq, not_true]
  rfl

theorem commitAwaited_only (p : Side) (n : Fin 8) (d : Desc) (s : State) :
    Only 131328 (beginItem p n d true s) (commitAwaited p n d s) :=
  ackWait_nx (verifySnoop_nx (.refl _ _) rfl) rfl

theorem store_commitAwaited (p : Side) (n : Fin 8) (d : Desc) (s : State) (j : Side) :
    (commitAwaited p n d s).store j = (beginItem p n d true s).store j :=
  store_of_ms ((commitAwaited_only p n d s).ms.resolve_left (by decide)) j

theorem commitAwaited_itemAt {s : State} {p : Side} {n : Fin 8} {i : Item} {opc : Nat} (waits : s.itemWaits p n i opc) :
    s.itemAt (commitAwaited p n i.d s) p n i .begun := by
  obtain ⟨items, stage, -⟩ := waits
  rw [itemAt_iff]
  exact ((ringHolds_self items).of_beginItem (curItem_accepted stage) i.d true).of_wq
    ((commitAwaited_only p n i.d s).wq.resolve_left (by decide))

theorem commitAwaited_begun {s : State} {p : Side} {n : Fin 8} {i : Item} (written : ∀ j, (s.store j).written = true) :
    (commitAwaited p n i.d s).begun p n i :=
  (beginItem_begun p n i written).of_journals (fun j => congrArg _ (store_commitAwaited p n i.d s j))
    fun j => (beginItem_sameTables p n i.d s j).written.trans (written j)

theorem commitAwaited_ack (p : Side) (n : Fin 8) (d : Desc) (s : State) : ∃ w,
    (commitAwaited p n d s).st.ack = some w ∧ w.port = p ∧ w.ring = n.val ∧ w.since = s.tb.now ∧
      w.key = (tableOf (imageOf (s.store .a).staging.bytes)).cvA := by
  have only : Only 425984 s (verifySnoop d (beginItem p n d true s)) :=
    verifySnoop_nx ((Only.refl 425984 s).step (beginItem_only ..) rfl) rfl
  exact ⟨_, rfl, rfl, rfl, congrArg Tb.now (only.tb.resolve_left (by decide)), rfl⟩

theorem commitAwaited_dev (p : Side) (n : Fin 8) (d : Desc) (s : State) : (commitAwaited p n d s).dev = s.dev :=
  ((commitAwaited_only p n d s).dev.resolve_left (by decide)).trans ((beginItem_only p n d true s).dev.resolve_left (by decide))

/-! ## The end of a wait (R442 to R444) -/

theorem throughTapA_of_tapOpen {s : State} {ir : BitVec 8} {f : State → State} (h : s.tapOpen) :
    throughTapA ir f s = f (s.modPcr (fun p => { p with ir := { p.ir with a := ir } })) := by
  obtain ⟨trst, extest⟩ := h
  simp [throughTapA, trst, extest]

/-- The state in which TAP A gives its value: ACK stands in its instruction register. -/
def State.atAck (s : State) : State := s.modPcr (fun p => { p with ir := { p.ir with a := 0x10 } })

theorem exec_ackTap_open {s : State} {v : Word} (h : s.tapOpen) : exec (.ackTap v) s = .next (ackTap v s.atAck) :=
  congrArg _ (throughTapA_of_tapOpen h)

section
variable {s : State} {w : AckWait} {n : Fin 8} (ack : s.st.ack = some w) (ring : w.ring = n.val)
include ack ring

theorem ackRefuse_eq : ackRefuse s = (endItem w.port n 0x0201 0xFF s).modSt (fun c => { c with ack := none }) := by
  have ring : (if h : w.ring < 8 then (⟨w.ring, h⟩ : Fin 8) else 0) = n := by simp [ring]
  simp only [ackRefuse, ack, ring]

theorem ackGive_commit {i : Item} (cur : curItem (s.sq w.port n).items = some i) (opc : i.d.opc = 0x12) :
    ackGive s = commitTable w.port n i.d (ackDrop s) := by
  have ring : (⟨w.ring % 8, Nat.mod_lt _ (by decide)⟩ : Fin 8) = n := Fin.ext (by simp [ring, Nat.mod_eq_of_lt n.isLt])
  have cur : curItem ((ackDrop s).sq w.port n).items = some i := by rw [sq_of_wq ackDrop_f_wq]; exact cur
  simp only [ackGive, ack, ring, cur, opc, if_true]

end

section
variable {s : State} {w : AckWait} {v : Word} (ack : s.st.ack = some w) (tap : w.tap = true) (runs : s.ackClosed w = false)
include ack tap runs

theorem ackTap_other (other : v ≠ w.key) : ackTap v s = ackRefuse s := by simp [ackTap, ack, tap, runs, other]
theorem ackTap_key (key : v = w.key) : ackTap v s = ackGive s := by simp [ackTap, ack, tap, runs, key]

end

/-- Another value than the key ends the wait (R444). -/
theorem exec_ackTap_refused {s : State} {w : AckWait} {n : Fin 8} {v : Word} (isOpen : s.tapOpen) (ack : s.st.ack = some w)
    (ring : w.ring = n.val) (tap : w.tap = true) (runs : s.ackClosed w = false) (other : v ≠ w.key) : exec (.ackTap v) s =
      .next ((endItem w.port n 0x0201 0xFF s.atAck).modSt (fun c => { c with ack := none })) := by
  rw [exec_ackTap_open isOpen, ackTap_other (s := s.atAck) ack tap runs other, ackRefuse_eq (s := s.atAck) ack ring]

theorem exec_ackTimeout_closed {s : State} {w : AckWait} (ack : s.st.ack = some w)
    (closed : 3000000000 ≤ elapsed s.tb.now w.since) : exec .ackTimeout s = .next (ackRefuse s) := by
  have closed : s.ackClosed w = true := decide_eq_true closed
  show execAckTimeout s = _
  simp only [execAckTimeout, ack, closed, if_true]

/-! ## The commit (R66, R92) -/

/-- A commit exchanges the roles of a store's slots: the staged one is active with its generation, the other one empty. -/
structure Store.Exchanged (gen : Word) (x y : Store) : Prop where
  active1 : y.active1 = !x.active1
  gen : y.active.gen = gen
  verified : y.active.st = .verified
  empty : y.staging.st = .empty
  kept : y.staging.bytes = x.active.bytes

theorem commit_exchanged (record : List Byte) (gen : Word) (x : Store) : x.Exchanged gen (x.commit record gen) := by
  unfold Store.commit
  rw [wearRange_eq]
  cases role : x.active1 <;>
    constructor <;> simp [Store.active, Store.staging, Store.activeIdx, Store.stagingIdx, role, Two.set, Two.upd, Two.get]

/-- The commit written to both stores. -/
def exchangeSlots (p : Side) (s : State) : State :=
  [Side.a, .b].foldl (fun s' i => s'.modStore i
    (Store.commit (commitRecord s p (Machine.tableOf (imageOf (s.store .a).staging.bytes))) ((s.store .a).active.gen + 1))) s

theorem exchangeSlots_only (p : Side) (s : State) : Only 262144 s (exchangeSlots p s) := foldl_modStore_only _ (fun _ => _) s

theorem exchangeSlots_exchanged (p : Side) (s : State) (j : Side) :
    (s.store j).Exchanged ((s.store .a).active.gen + 1) ((exchangeSlots p s).store j) := by
  rw [exchangeSlots, store_foldl_modStore (fun _ => Store.commit _ _)]
  exact commit_exchanged ..

/-- The state in which a commit is written, logged and completed, with no reset yet. -/
def commitEnded (p : Side) (n : Fin 8) (s : State) : State :=
  endItem p n 0 0 (logEvent 6 Block.ms.id p.num ((s.store .a).active.gen + 1).toNat (exchangeSlots p s))

/-- What the commit of an acknowledged item still asks (R92). -/
structure State.mayCommit (s : State) (p : Side) : Prop where
  split : s.split = false
  owner : s.hp.owner = some p
  written : ∀ j, (s.store j).written = true
  verified : (s.store .a).staging.st = .verified
  dev : s.dev = .idle ∨ s.dev = .recovery

theorem commitTable_accepted {s : State} {p : Side} {n : Fin 8} {d : Desc} (h : s.mayCommit p) :
    commitTable p n d s =
      if (commitEnded p n s).dev = .recovery then commitEnded p n s else assertReset .core 9 (commitEnded p n s) := by
  have quiet : (s.dev == .idle || s.dev == .recovery) = true := by simpa using h.dev
  have owns : s.owns p = true := by simp [State.owns, h.owner]
  unfold commitTable
  simp only [tableStores_both h.split h.written, List.headD_cons, quiet, owns, h.verified, bne_self_eq_false, Bool.not_true,
    Bool.or_self, Bool.false_eq_true, if_false]
  rfl

theorem commitEnded_only (p : Side) (n : Fin 8) (s : State) : Only 311312 s (commitEnded p n s) :=
  ((((Only.refl 311312 s).step (exchangeSlots_only p s) rfl).step (logEvent_only ..) rfl).step (endItem_only ..) rfl)

theorem commitEnded_exchanged (p : Side) (n : Fin 8) (s : State) (j : Side) :
    (s.store j).Exchanged ((s.store .a).active.gen + 1) ((commitEnded p n s).store j) := by
  rw [commitEnded, store_endItem, store_logEvent]
  exact exchangeSlots_exchanged p s j

theorem commitEnded_ringHolds {s t : State} {p : Side} {n : Fin 8} {i : Item} (h : s.ringHolds t p n i)
    (cur : curItem [i] = some i) : s.ringHolds (commitEnded p n t) p n { i with stage := .ended 0 0 } := by
  have only : Only 278544 t (logEvent 6 Block.ms.id p.num ((t.store .a).active.gen + 1).toNat (exchangeSlots p t)) :=
    ((Only.refl 278544 t).step (exchangeSlots_only p t) rfl).step (logEvent_only ..) rfl
  rw [commitEnded]
  exact (h.of_wq (only.wq.resolve_left (by decide))).of_endItem cur 0 0

/-! ## The key given through TAP A (R92, R444) -/

/-- The state of a commit whose key TAP A gives, with no reset yet. -/
def keyCommitted (p : Side) (n : Fin 8) (s : State) : State := commitEnded p n (ackDrop s.atAck)

theorem keyCommitted_only (p : Side) (n : Fin 8) (s : State) : Only 311632 s (keyCommitted p n s) :=
  (ackDrop_nx (modPcr_nx (.refl _ _) rfl) rfl : Only 311632 s (ackDrop s.atAck)).step (commitEnded_only ..) rfl

theorem keyCommitted_pcr (p : Side) (n : Fin 8) (s : State) :
    (keyCommitted p n s).pcr = { s.pcr with ir := { s.pcr.ir with a := 0x10 } } :=
  (commitEnded_only p n (ackDrop s.atAck)).pcr.resolve_left (by decide)

theorem keyCommitted_ack (p : Side) (n : Fin 8) (s : State) : (keyCommitted p n s).st.ack = none :=
  congrArg St.ack ((commitEnded_only p n (ackDrop s.atAck)).st.resolve_left (by decide))

theorem keyCommitted_exchanged (p : Side) (n : Fin 8) (s : State) (j : Side) :
    (s.store j).Exchanged ((s.store .a).active.gen + 1) ((keyCommitted p n s).store j) :=
  commitEnded_exchanged p n (ackDrop s.atAck) j

theorem keyCommitted_itemAt {s : State} {p : Side} {n : Fin 8} {i : Item} (items : (s.sq p n).items = [i])
    (stage : i.stage = .begun) : s.itemAt (keyCommitted p n s) p n i (.ended 0 0) :=
  commitEnded_ringHolds ((ringHolds_self items).of_wq (u := ackDrop s.atAck) rfl) (curItem_begun stage)

theorem exec_ackTap_commits {s : State} {w : AckWait} {n : Fin 8} {i : Item} {v : Word} (isOpen : s.tapOpen)
    (ack : s.st.ack = some w) (ring : w.ring = n.val) (items : (s.sq w.port n).items = [i]) (stage : i.stage = .begun)
    (tap : w.tap = true) (key : v = w.key) (runs : s.ackClosed w = false) (opc : i.d.opc = 0x12) (may : s.mayCommit w.port) :
    exec (.ackTap v) s = .next
      (if s.dev = .recovery then keyCommitted w.port n s else assertReset .core 9 (keyCommitted w.port n s)) := by
  have cur : curItem (s.atAck.sq w.port n).items = some i := (congrArg curItem items).trans (curItem_begun stage)
  have may : (ackDrop s.atAck).mayCommit w.port := ⟨may.split, may.owner, may.written, may.verified, may.dev⟩
  have dev : (commitEnded w.port n (ackDrop s.atAck)).dev = s.dev := (commitEnded_only ..).dev.resolve_left (by decide)
  rw [exec_ackTap_open isOpen, ackTap_key (s := s.atAck) ack tap runs key, ackGive_commit (s := s.atAck) ack ring cur opc,
    commitTable_accepted may, dev]
  rfl

/-! ## The statement -/

/-- Settles O56: each item passes the checks of R316 and comes to the state named for it, a wait ends as R443 and R444 say, and
the core reset after a commit keeps the active slots. -/
theorem tablesAreStagedVerifiedAndCommitted : Obligations.TablesAreStagedVerifiedAndCommitted := by
  refine ⟨?_, ?_⟩
  · intro s p n i split owner lc written arg2 arg3
    have tables (arg1 : i.d.arg1 = 0) : s.takesTables p i.d := ⟨split, owner, lc, written, arg1, arg2, arg3⟩
    refine ⟨fun waits arg1 align fits range free => ?_, fun waits arg0 arg1 empty loaded free agree => ?_,
      fun waits arg0 arg1 empty verified free dev ack passes => ?_⟩
    · refine ⟨_, exec_tableStage_passes (tables arg1) waits align fits range free, stageEnded_itemTimed waits,
        stageEnded_begun written, fun j => ?_, stageEnded_dev ..⟩
      obtain ⟨x, same, -, eq⟩ := store_stageEnded p n i.d s j
      rw [eq, modStaging_staging, modStaging_active, same.staging, same.active]
      exact ⟨rfl, rfl, rfl, rfl, same.active1, same.user⟩
    · refine ⟨_, exec_tableVerify_passes (tables arg1) waits arg0 empty loaded free agree, verifyEnded_itemAt waits,
        fun j => ?_, verifyEnded_dev ..⟩
      rw [store_verifyEnded, modStaging_staging, modStaging_active]
      exact ⟨rfl, rfl, rfl⟩
    · obtain ⟨w, wait, port, ring, since, key⟩ := commitAwaited_ack p n i.d s
      refine ⟨_, w, exec_tableCommit_waits (tables arg1) waits arg0 empty verified free dev ack passes,
        commitAwaited_itemAt waits, commitAwaited_begun written, wait, port, ring, since, key, fun j => ?_,
        commitAwaited_dev ..⟩
      rw [store_commitAwaited]
      exact (beginItem_sameTables p n i.d s j).slot
  · intro s p n i w v ack port ring items stage tap
    subst port
    have cur := curItem_begun stage
    refine ⟨fun form other runs => ?_, fun closed => ?_, fun form key runs opc split owner written verified dev => ?_,
      fun form key runs opc split owner written verified dev settled => ?_⟩
    · refine ⟨_, exec_ackTap_refused tap ack ring form runs other, ?_, rfl, rfl⟩
      exact (((ringHolds_self items).of_wq (u := s.atAck) rfl).of_endItem cur _ _).of_wq rfl
    · refine ⟨_, (exec_ackTimeout_closed ack closed).trans (congrArg _ (ackRefuse_eq ack ring)), ?_, rfl⟩
      exact ((ringHolds_self items).of_endItem cur _ _).of_wq rfl
    · have may : s.mayCommit w.port := ⟨split, owner, written, verified, .inr dev⟩
      have next := exec_ackTap_commits tap ack ring items stage form key runs opc may
      rw [if_pos dev] at next
      have devs : (keyCommitted w.port n s).dev = s.dev := (keyCommitted_only w.port n s).dev.resolve_left (by decide)
      refine ⟨_, next, keyCommitted_itemAt items stage, keyCommitted_ack .., devs.trans dev, fun j => ?_⟩
      have exchanged := keyCommitted_exchanged w.port n s j
      exact ⟨exchanged.active1, exchanged.gen, exchanged.verified, exchanged.empty, exchanged.kept⟩
    · have may : s.mayCommit w.port := ⟨split, owner, written, verified, .inl dev⟩
      have next := exec_ackTap_commits tap ack ring items stage form key runs opc may
      rw [if_neg (by simp [dev])] at next
      have settled : (keyCommitted w.port n s).settled := by
        rw [State.settled, keyCommitted_pcr]
        exact settled
      obtain ⟨asserted, cause, reset, stores⟩ := assertReset_core settled 9
      refine ⟨_, next, asserted, cause, reset, fun j => ?_⟩
      obtain ⟨role, gen⟩ := stores j
      have exchanged := keyCommitted_exchanged w.port n s j
      exact ⟨role.trans exchanged.active1, gen.trans exchanged.gen⟩

end Sys2Proof.Machine
end

section
/-!
PROOFS about the safety inputs: what the filter does on one edge, the changes of a terminal's comparators, the OSSD bridge and
its expiries. They settle O35.
-/
namespace Sys2Proof.Machine

/-! ## The filter on one edge (R125, R126) -/

/-- The filter and the record of what step 2 presents are all that the filter changes of an input. -/
theorem Input.settle_eq (f : Nat) (now : Tick) (x : Input) : x.settle f now = { x with
    c2 := (x.settle f now).c2, c2At := (x.settle f now).c2At, filt := (x.settle f now).filt,
    filtAt := (x.settle f now).filtAt, diffSince := (x.settle f now).diffSince, changes := (x.settle f now).changes } := by
  unfold Input.settle Input.flip
  dsimp only
  repeat' split
  all_goals rfl

@[simp] theorem Input.settle_live (f : Nat) (now : Tick) (x : Input) : (x.settle f now).live = x.live := by
  rw [x.settle_eq f now]

@[simp] theorem Input.settle_bridge (f : Nat) (now : Tick) (x : Input) : (x.settle f now).bridge = x.bridge := by
  rw [x.settle_eq f now]

/-- An input after the filter has looked at what step 2 presents on an edge. -/
def Input.looked (now : Tick) (x : Input) : Input :=
  if x.step2 now = x.c2 then x else { x with c2 := x.step2 now, c2At := now }

theorem Input.looked_eq (now : Tick) (x : Input) :
    x.looked now = { x with c2 := (x.looked now).c2, c2At := (x.looked now).c2At } := by
  unfold Input.looked
  split <;> rfl

@[simp] theorem Input.looked_filt (now : Tick) (x : Input) : (x.looked now).filt = x.filt := by
  rw [x.looked_eq now]

@[simp] theorem Input.looked_changes (now : Tick) (x : Input) : (x.looked now).changes = x.changes := by
  rw [x.looked_eq now]

@[simp] theorem Input.looked_diffSince (now : Tick) (x : Input) : (x.looked now).diffSince = x.diffSince := by
  rw [x.looked_eq now]

/-- A run of edges on which step 2 differs from the filtered value: on its edge number `f` the filtered value changes, and
before that the run goes on. -/
theorem Input.settle_differing {x : Input} {f : Nat} {now u : Tick} (runs : x.runs now = true) (since : x.diffSince = some u)
    (differs : x.step2 now ≠ x.filt) (within : elapsed now u < f) :
    x.settle f now = if f ≤ elapsed now u + 1 then (x.looked now).flip now else { x.looked now with diffSince := some u } := by
  have notPast : ¬ max 1 f ≤ elapsed now u := by omega
  unfold Input.settle Input.looked
  simp only [runs, since, notPast, Bool.not_true, Bool.false_eq_true, if_false]
  by_cases same : x.step2 now = x.c2
  · simp only [if_pos same, if_neg differs, since]
  · simp only [if_neg same, if_neg differs]

/-- On the edge that completes the filter time the filtered value takes what step 2 presents, and CHANGES counts it. -/
theorem Input.settle_at_filterTime {x : Input} {f : Nat} {now u : Tick} (runs : x.runs now = true)
    (since : x.diffSince = some u) (differs : x.step2 now ≠ x.filt) (time : f = elapsed now u + 1) :
    (x.settle f now).filt = x.step2 now ∧ (x.settle f now).changes = x.changes + 1 := by
  rw [settle_differing runs since differs (by omega), if_pos (Nat.le_of_eq time)]
  simpa [Input.flip] using (Bool.eq_not_of_ne differs).symm

/-- Before that edge neither moves, and the run goes on. -/
theorem Input.settle_before_filterTime {x : Input} {f : Nat} {now u : Tick} (runs : x.runs now = true)
    (since : x.diffSince = some u) (differs : x.step2 now ≠ x.filt) (time : elapsed now u + 1 < f) :
    (x.settle f now).filt = x.filt ∧ (x.settle f now).changes = x.changes ∧ (x.settle f now).diffSince = some u := by
  rw [settle_differing runs since differs (by omega), if_neg (by omega)]
  exact ⟨x.looked_filt now, x.looked_changes now, rfl⟩

/-! ## One input changed -/

theorem modInput_modInput (s : State) (i : Fin 128) (f g : Input → Input) :
    (s.modInput i f).modInput i g = s.modInput i (g ∘ f) := by
  simp [State.modInput, upd]

theorem settleInput_modInput (s : State) (i : Fin 128) (f : Input → Input) :
    settleInput i (s.modInput i f) = s.modInput i ((Input.settle (s.filterTicks i) s.tb.now) ∘ f) :=
  modInput_modInput ..

/-! ## A change at a terminal (R125, R129, R135, R136) -/

/-- The voltage faults of an input whose zone the voltage is not in are over. -/
def zoneFaultsOver (i : Fin 128) (zone : VoltZone) (s : State) : State :=
  let s := if zone = .band then s else causeAbsent .ib 3 i.val s
  if zone = .over then s else causeAbsent .ib 4 i.val s

theorem zoneFaultsOver_eq (i : Fin 128) (zone : VoltZone) (s : State) :
    zoneFaultsOver i zone s = { s with fr := (zoneFaultsOver i zone s).fr } := by
  cases zone <;> rfl

theorem zoneFaultsOver_modInput (i : Fin 128) (zone : VoltZone) (s : State) (f : Input → Input) :
    zoneFaultsOver i zone (s.modInput i f) = (zoneFaultsOver i zone s).modInput i f := by
  cases zone <;> rfl

/-- A change of one input besides the end of its voltage faults: every other input and part of the module stays. -/
theorem zoneFaultsOver_modInput_keeps (i : Fin 128) (zone : VoltZone) (s : State) (f : Input → Input) :
    ((zoneFaultsOver i zone s).modInput i f).ib.inp[i] = f s.ib.inp[i] ∧
    (∀ j, j ≠ i → ((zoneFaultsOver i zone s).modInput i f).ib.inp[j] = s.ib.inp[j]) ∧
    (zoneFaultsOver i zone s).modInput i f = { s with
      fr := ((zoneFaultsOver i zone s).modInput i f).fr,
      ib := { s.ib with inp := ((zoneFaultsOver i zone s).modInput i f).ib.inp } } := by
  rw [zoneFaultsOver_eq]
  exact ⟨inp_modInput .., fun j other => inp_modInput_ne _ _ other, rfl⟩

theorem exec_inputChange_off {s : State} {i : Fin 128} {h c : Bool} {z : VoltZone} (off : (s.ib.inp[i] : Input).on = false)
    (moves : (s.ib.inp[i] : Input).live ≠ h) :
    exec (.inputChange i h c z) s = .next ((zoneFaultsOver i z s).modInput i
      ((fun x => { x with live := h, liveAt := s.tb.now }) ∘ Input.sense h c z s.tb.now)) := by
  rw [← modInput_modInput, ← zoneFaultsOver_modInput]
  show execInputChange i h c z s = _
  unfold execInputChange
  simp only [moves, off, if_false, Bool.not_false, if_true]
  cases z <;> rfl

theorem exec_inputChange_ossd_falls {s : State} {i : Fin 128} {c : Bool} {z : VoltZone}
    (on : (s.ib.inp[i] : Input).on = true) (high : (s.ib.inp[i] : Input).live = true) (mode : (s.inputCfg i).mode = 3) :
    exec (.inputChange i false c z) s = .next ((zoneFaultsOver i z s).modInput i
      (Input.settle (s.filterTicks i) s.tb.now ∘ fallOf true s.tb.now ∘ Input.sense false c z s.tb.now)) := by
  rw [← modInput_modInput, ← modInput_modInput, ← zoneFaultsOver_modInput]
  show execInputChange i false c z s = _
  unfold execInputChange
  simp only [high, on, mode, Bool.true_eq_false, Bool.not_true, Bool.false_eq_true, if_false]
  cases z <;> rfl

/-- A low of an OSSD input outside t_gap that is not its first is bridged from its first edge. -/
theorem fallOf_bridged {x : Input} {now : Tick} (start : x.onAt ≠ some now) (second : x.onAt ≠ some (now - 1))
    (gap : x.gapFrom = none) : (fallOf true now x).bridge = some now ∧ (fallOf true now x).live = false := by
  have first : (x.onAt == some now || x.onAt == some (now - 1)) = false :=
    Bool.or_eq_false_iff.mpr ⟨beq_false_of_ne start, beq_false_of_ne second⟩
  refine ⟨?_, rfl⟩
  simp only [fallOf, first, gap]
  rfl

theorem Input.bridging_of_low {x : Input} {now : Tick} (low : x.live = false) (bridge : x.bridge = some now) :
    x.bridging now = true := by
  simp [Input.bridging, low, bridge]

/-! ## The bridge and its expiries (R129, R130, R133) -/

theorem exec_ossdBridgeRelease_due {s : State} {i : Fin 128} {u : Tick} (bridge : (s.ib.inp[i] : Input).bridge = some u)
    (due : 39999 ≤ elapsed s.tb.now u) (low : (s.ib.inp[i] : Input).live = false) :
    exec (.ossdBridgeRelease i) s = .next (s.modInput i
      (Input.settle (s.filterTicks i) s.tb.now ∘ fun x => { x with bridge := none })) := by
  rw [← settleInput_modInput]
  show execOssdBridgeRelease i s = _
  simp only [execOssdBridgeRelease, bridge, low]
  exact congrArg _ (if_pos ⟨due, rfl⟩)

theorem exec_ossdGapExpiry_due {s : State} {i : Fin 128} {u : Tick} (gap : (s.ib.inp[i] : Input).gapFrom = some u)
    (due : 100000 ≤ elapsed s.tb.now u) :
    exec (.ossdGapExpiry i) s = .next (s.modInput i (fun x => { x with gapFrom := none })) := by
  show execOssdGapExpiry i s = _
  simp only [execOssdGapExpiry, gap]
  exact congrArg _ (if_pos due)

theorem exec_tpSeenExpiry_due {s : State} {i : Fin 128} {u : Tick} (seen : (s.ib.inp[i] : Input).tpSeen = some u)
    (due : 10000000 ≤ elapsed s.tb.now u) :
    exec (.tpSeenExpiry i) s = .next (s.modInput i (fun x => { x with tpSeen := none })) := by
  show execTpSeenExpiry i s = _
  simp only [execTpSeenExpiry, seen]
  exact congrArg _ (if_pos due)

/-! ## The statement -/

/-- Settles O35: what each change and expiry makes of the input, and that it changes that input alone. -/
theorem inputsFilterAndBridge : Obligations.InputsFilterAndBridge := by
  refine ⟨?_, ?_, ?_, ?_⟩
  · intro s i h c z off moves
    obtain ⟨input, others, frame⟩ := zoneFaultsOver_modInput_keeps i z s
      ((fun x => { x with live := h, liveAt := s.tb.now }) ∘ Input.sense h c z s.tb.now)
    refine ⟨_, exec_inputChange_off off moves, ?_, ?_, ?_, ?_, ?_, ?_, ?_, others, frame⟩ <;> exact input ▸ rfl
  · intro s i c z on high start second mode gap
    obtain ⟨input, others, frame⟩ := zoneFaultsOver_modInput_keeps i z s
      (Input.settle (s.filterTicks i) s.tb.now ∘ fallOf true s.tb.now ∘ Input.sense false c z s.tb.now)
    obtain ⟨bridge, low⟩ := fallOf_bridged (x := (s.ib.inp[i] : Input).sense false c z s.tb.now) start second gap
    have low := (congrArg Input.live input).trans ((Input.settle_live ..).trans low)
    have bridge := (congrArg Input.bridge input).trans ((Input.settle_bridge ..).trans bridge)
    refine ⟨_, exec_inputChange_ossd_falls on high mode, low, bridge, ?_, others, frame⟩
    exact Input.bridging_of_low low (bridge.trans (by rw [frame]))
  · intro s i u runs since differs
    have input : (settleInput i s).ib.inp[i] = (s.ib.inp[i]).settle (s.filterTicks i) s.tb.now := inp_modInput ..
    refine ⟨fun time => ?_, fun time => ?_⟩
    · obtain ⟨filt, changes⟩ := Input.settle_at_filterTime runs since differs time
      exact ⟨settleInput i s, rfl, input ▸ filt, input ▸ changes, fun j other => inp_modInput_ne _ _ other, rfl⟩
    · exact ⟨settleInput i s, rfl, input ▸ Input.settle_before_filterTime runs since differs time⟩
  · intro s i u
    refine ⟨fun bridge due low => ?_, fun gap due => ?_, fun seen due => ?_⟩
    · refine ⟨_, exec_ossdBridgeRelease_due bridge due low, ?_, fun j other => inp_modInput_ne _ _ other, rfl⟩
      rw [inp_modInput]
      exact Input.settle_bridge ..
    · exact ⟨_, exec_ossdGapExpiry_due gap due, inp_modInput .., fun j other => inp_modInput_ne _ _ other, rfl⟩
    · exact ⟨_, exec_tpSeenExpiry_due seen due, inp_modInput .., fun j other => inp_modInput_ne _ _ other, rfl⟩

end Sys2Proof.Machine
end

section
/-!
PROOFS about the faults of an input: what a contained fault leaves recorded and what it keeps, and the commands that record the
faults of IB or hand the comparators over. They settle O36.
-/
namespace Sys2Proof.Machine

/-! ## A contained fault that is no resource's (R250, R257) -/

theorem redetect_any (f : FaultRep) (r : FaultRecord) (cause item : Nat) :
    (redetect f r).insts.any (fun i => i.cause == cause && i.item == item) =
      r.insts.any (fun i => i.cause == cause && i.item == item) := by
  simp only [redetect, List.any_map]
  congr 1
  funext i
  simp only [Function.comp_apply]
  split <;> rfl

theorem frOf_scopeAborts_markRearm (scope item : Nat) (s : State) (b : Block) :
    (scopeAborts scope item (markRearm scope item s)).frOf b = s.frOf b :=
  frOf_of_fr (by simp) b

/-- A contained fault stands uncleared once recorded, also where it had already been. -/
theorem recordCore_contained_uncleared {f : FaultRep} (h : f.cls = .contained) (s : State) :
    (recordCore f s).uncleared f.block f.cause f.item = true := by
  have stays (b : Bool) : (if b = true then FaultClass.contained else f.cls) = .contained := by simp [h]
  unfold recordCore
  simp only [stays]
  split
  · next again =>
    rw [State.uncleared, frOf_modRec, redetect_any]
    simp only [beq_self_eq_true, Bool.true_and, List.any_eq_true, Bool.and_eq_true] at again ⊢
    obtain ⟨i, mem, ⟨⟨cause, -⟩, item⟩, -⟩ := again
    exact ⟨i, mem, cause, item⟩
  · rw [State.uncleared, frOf_scopeAborts_markRearm, logFault, logPush_insts, frOf_modRec]
    simp

/-! ## A fault of an input (R134 to R138, R143) -/

/-- The report of a fault of IB with the scope of one input. -/
def ibReport (cause : Nat) (i : Fin 128) : FaultRep :=
  { block := .ib, cause := cause, cls := .contained, scope := 2, item := i.val, addr := i.val,
    init := 0x10 + (quarterOfInput i.val).val, acc := if cause = 2 then 6 else 4, quarter := some (quarterOfInput i.val) }

/-- A fault of IB but REF is no fault of a shared resource: it is recorded, and no status line turns bad. -/
theorem ibFault_eq {cause : Nat} (h : cause ≠ 1) (i : Fin 128) (s : State) :
    ibFault cause i s = recordCore (ibReport cause i) s := by
  have line : resourceOf .ib cause i.val = none := by simp [resourceOf, h]
  show recordFault (ibReport cause i) s = _
  rw [recordFault, if_neg (show (ibReport cause i).cls ≠ .corrected by simp [ibReport])]
  simp only [show resourceOf (ibReport cause i).block (ibReport cause i).cause (ibReport cause i).item = none from line]

theorem ibFault_uncleared {cause : Nat} (h : cause ≠ 1) (i : Fin 128) (s : State) :
    (ibFault cause i s).uncleared .ib cause i.val = true := by
  rw [ibFault_eq h]
  exact recordCore_contained_uncleared (f := ibReport cause i) rfl s

theorem ibFault_inhib {cause : Nat} (h : cause ≠ 1) (i : Fin 128) (s : State) : (ibFault cause i s).os.inhib = s.os.inhib := by
  rw [ibFault_eq h, recordCore_contained_inhib rfl]

theorem inputValid_of_uncleared {s : State} {i : Fin 128} {cause : Nat} (h : cause = 2 ∨ cause = 3 ∨ cause = 4)
    (uncleared : s.uncleared .ib cause i.val = true) : s.inputValid i = false := by
  unfold State.inputValid
  rcases h with rfl | rfl | rfl <;> simp [uncleared]

/-- What a fault that invalidates its input leaves: it stands uncleared, VALID is 0, and the device state, the inhibits and the
inputs are as before. -/
theorem ibFault_invalidates {cause : Nat} (h : cause = 2 ∨ cause = 3 ∨ cause = 4) (i : Fin 128) (s : State) :
    (ibFault cause i s).uncleared .ib cause i.val = true ∧ (ibFault cause i s).inputValid i = false ∧
    (ibFault cause i s).dev = s.dev ∧ (ibFault cause i s).os.inhib = s.os.inhib ∧ (ibFault cause i s).ib = s.ib := by
  have own : cause ≠ 1 := by omega
  have uncleared := ibFault_uncleared own i s
  exact ⟨uncleared, inputValid_of_uncleared h uncleared, (ibFault_only ..).dev.resolve_left (by decide), ibFault_inhib own i s,
    (ibFault_only ..).ib.resolve_left (by decide)⟩

/-! ## The commands that judge an input (R135 to R138) -/

theorem exec_band_due {s : State} {i : Fin 128} (runs : (s.ib.inp[i] : Input).runs s.tb.now = true)
    (zone : (s.ib.inp[i] : Input).zone = .band) (absent : s.causePresent .ib 3 i.val = false)
    (due : 10000 + s.filterTicks i ≤ (s.ib.inp[i] : Input).bandRun s.tb.now) : exec (.band i) s = .next (ibFault 3 i s) := by
  show execBand i s = _
  simp only [execBand, State.now, runs, zone, absent, due]
  rfl

theorem exec_band_early {s : State} {i : Fin 128}
    (early : (s.ib.inp[i] : Input).bandRun s.tb.now < 10000 + s.filterTicks i) : exec (.band i) s = .next s := by
  show execBand i s = _
  refine congrArg _ (if_neg fun met => ?_)
  simp only [Bool.and_eq_true, decide_eq_true_eq] at met
  obtain ⟨⟨-, due⟩, -⟩ := met
  exact Nat.not_le.mpr early due

theorem exec_overvolt_due {s : State} {i : Fin 128} (ran : (s.ib.inp[i] : Input).ranFor 10 s.tb.now = true)
    (zone : (s.ib.inp[i] : Input).zone = .over) (due : 9 ≤ elapsed s.tb.now (s.ib.inp[i] : Input).zoneAt)
    (absent : s.causePresent .ib 4 i.val = false) : exec (.overvolt i) s = .next (ibFault 4 i s) := by
  show execOvervolt i s = _
  simp only [execOvervolt, State.now, ran, zone, absent, due]
  rfl

/-- Both limits of R137 and R138 are met: 100 edges with the comparators as they are, and both connected. -/
theorem Input.sameFor100_iff {x : Input} {now : Tick} :
    x.sameFor100 now = true ↔ 99 ≤ elapsed now x.cmpAt ∧ 99 ≤ elapsed now x.joinAt := by simp [Input.sameFor100]

theorem exec_comparatorDisagree_due {s : State} {i : Fin 128} (runs : (s.ib.inp[i] : Input).runs s.tb.now = true)
    (outside : (s.ib.inp[i] : Input).zone ≠ .band) (differ : (s.ib.inp[i] : Input).live ≠ (s.ib.inp[i] : Input).chk)
    (same : (s.ib.inp[i] : Input).sameFor100 s.tb.now = true) (left : 99 ≤ elapsed s.tb.now (s.ib.inp[i] : Input).bandEnd)
    (connected : s.thrUnder ≠ some i) (fresh : (s.ib.inp[i] : Input).disDone = false) :
    exec (.comparatorDisagree i) s = .next (ibFault 2 i (s.modInput i (fun x => { x with disDone := true }))) := by
  show execComparatorDisagree i s = _
  simp only [execComparatorDisagree, State.now, runs, same, left, fresh, bne_iff_ne.mpr outside, bne_iff_ne.mpr differ,
    bne_iff_ne.mpr connected]
  rfl

theorem exec_thrHandoverTimeout_due {s : State} {i : Fin 128} {u : Tick} (handover : (s.ib.inp[i] : Input).handover = some u)
    (due : 2000 ≤ elapsed s.tb.now u) :
    exec (.thrHandoverTimeout i) s = .next (ibFault 2 i (s.modInput i (fun x => { x with handover := none }))) := by
  show execThrHandoverTimeout i s = _
  simp only [execThrHandoverTimeout, handover]
  exact congrArg _ (if_pos due)

theorem exec_thrHandover_agrees {s : State} {i : Fin 128} {u : Tick} (handover : (s.ib.inp[i] : Input).handover = some u)
    (agree : (s.ib.inp[i] : Input).live = (s.ib.inp[i] : Input).chk) (same : (s.ib.inp[i] : Input).sameFor100 s.tb.now = true) :
    exec (.thrHandover i) s = .next (causeAbsent .ib 2 i.val
      (s.modInput i (fun x => { x with handover := none, pass := true, liveIdx := !x.liveIdx }))) := by
  show execThrHandover i s = _
  simp only [execThrHandover, State.now, handover, same, beq_iff_eq.mpr agree]
  rfl

theorem exec_thrHandover_waits {s : State} {i : Fin 128} (waits : (s.ib.inp[i] : Input).live ≠ (s.ib.inp[i] : Input).chk ∨
    elapsed s.tb.now (s.ib.inp[i] : Input).cmpAt < 99) : exec (.thrHandover i) s = .next s := by
  show execThrHandover i s = _
  have notYet : ((s.ib.inp[i] : Input).live == (s.ib.inp[i] : Input).chk && (s.ib.inp[i] : Input).sameFor100 s.tb.now) = false := by
    rcases waits with differ | short
    · rw [beq_false_of_ne differ, Bool.false_and]
    · rw [Input.sameFor100, decide_eq_false (Nat.not_le.mpr short), Bool.false_and, Bool.and_false]
  simp only [execThrHandover, State.now, Bool.and_assoc, notYet, Bool.and_false, Bool.false_eq_true, if_false]

/-! ## The statement -/

/-- Settles O36: each fault is recorded with the scope of its input, which it invalidates, and a handover ends by agreement or
at its limit. -/
theorem inputFaultsInvalidateTheInput : Obligations.InputFaultsInvalidateTheInput := by
  refine ⟨?_, ?_⟩
  · intro s i _
    refine ⟨fun runs zone absent => ⟨fun due => ?_, exec_band_early⟩, fun ran zone due absent => ?_,
      fun runs outside differ cmp join left connected fresh => ?_⟩
    · exact ⟨_, exec_band_due runs zone absent due, ibFault_invalidates (.inr (.inl rfl)) i s⟩
    · exact ⟨_, exec_overvolt_due ran zone due absent, ibFault_invalidates (.inr (.inr rfl)) i s⟩
    · obtain ⟨uncleared, invalid, dev, inhib, ib⟩ :=
        ibFault_invalidates (.inl rfl) i (s.modInput i (fun x => { x with disDone := true }))
      have same := Input.sameFor100_iff.mpr ⟨cmp, join⟩
      refine ⟨_, exec_comparatorDisagree_due runs outside differ same left connected fresh, uncleared, invalid, dev,
        inhib, ?_, ?_⟩
      · rw [ib, inp_modInput]
      · intro j other
        rw [ib, inp_modInput_ne _ _ other]
  · intro s i u handover
    refine ⟨fun due => ?_, fun agree cmp join => ?_, exec_thrHandover_waits⟩
    · obtain ⟨uncleared, -, dev, -, ib⟩ :=
        ibFault_invalidates (.inl rfl) i (s.modInput i (fun x => { x with handover := none }))
      exact ⟨_, exec_thrHandoverTimeout_due handover due, uncleared, by rw [ib, inp_modInput], dev⟩
    · have same := Input.sameFor100_iff.mpr ⟨cmp, join⟩
      exact ⟨_, exec_thrHandover_agrees handover agree same, inp_modInput .., fun j other => inp_modInput_ne _ _ other, rfl⟩

end Sys2Proof.Machine
end

section
/-!
PROOFS about the pulse sources: the folds over a source's inputs, what a fault of PS leaves recorded and keeps, the windows of a
dip from opening to judgement, and the overload with its retry. They settle O37.
-/
namespace Sys2Proof.Machine

/-! ## The inputs pulsed from a source (R150) -/

theorem mem_inputsOf {s : State} {k : Fin 32} {i : Fin 128} (pulsed : (s.inputCfg i).pulsed = true)
    (source : (s.inputCfg i).source = k.val) : i ∈ s.inputsOf k := by
  simp [State.inputsOf, fins, List.mem_finRange, pulsed, source]

theorem inputsOf_nodup (s : State) (k : Fin 32) : (s.inputsOf k).Nodup := (List.nodup_finRange 128).filter _

/-- A pass over inputs in which each step changes its own input alone reaches an input of the list once, and finds it there as it
was before the pass. -/
theorem inp_foldl_once {g : State → Fin 128 → State} (alone : ∀ t i j, j ≠ i → (g t i).ib.inp[j] = t.ib.inp[j])
    {is : List (Fin 128)} (nodup : is.Nodup) {i : Fin 128} (mem : i ∈ is) (s : State) :
    ∃ t : State, t.ib.inp[i] = s.ib.inp[i] ∧ (is.foldl g s).ib.inp[i] = (g t i).ib.inp[i] := by
  induction is generalizing s with
  | nil => cases mem
  | cons x xs ih =>
    obtain ⟨fresh, nodup⟩ := List.nodup_cons.mp nodup
    by_cases first : i = x
    · subst first
      refine ⟨s, rfl, ?_⟩
      refine List.foldlRecOn xs g (motive := fun t => t.ib.inp[i] = (g s i).ib.inp[i]) rfl fun t kept j later => ?_
      exact (alone t j i fun same => fresh (same ▸ later)).trans kept
    · obtain ⟨t, before, after⟩ := ih nodup ((List.mem_cons.mp mem).resolve_left first) (g s x)
      exact ⟨t, before.trans (alone s x i first), after⟩

/-! ## Faults of PS (R160, R165) -/

/-- A contained fault of PS is no fault of a shared resource: it is recorded, and no status line turns bad. -/
theorem recordFault_ps {f : FaultRep} (contained : f.cls = .contained) (block : f.block = .ps) (s : State) :
    recordFault f s = recordCore f s := by
  have line : resourceOf f.block f.cause f.item = none := by simp [resourceOf, block]
  rw [recordFault, if_neg (show f.cls ≠ .corrected by simp [contained])]
  simp only [line]

theorem recordFault_ps_inhib {f : FaultRep} (contained : f.cls = .contained) (block : f.block = .ps) (s : State) :
    (recordFault f s).os.inhib = s.os.inhib := by
  rw [recordFault_ps contained block, recordCore_contained_inhib contained]

@[simp] theorem dipFault_inhib (cause : Nat) (i : Fin 128) (foreign : Nat) (s : State) :
    (dipFault cause i foreign s).os.inhib = s.os.inhib := recordFault_ps_inhib rfl rfl s

@[simp] theorem dipFault_ib (cause : Nat) (i : Fin 128) (foreign : Nat) (s : State) :
    (dipFault cause i foreign s).ib = s.ib := (dipFault_only ..).ib.resolve_left (by decide)

@[simp] theorem dipFault_ps (cause : Nat) (i : Fin 128) (foreign : Nat) (s : State) :
    (dipFault cause i foreign s).ps = s.ps := (dipFault_only ..).ps.resolve_left (by decide)

@[simp] theorem sourceFault_inhib (cause : Nat) (k : Fin 32) (s : State) : (sourceFault cause k s).os.inhib = s.os.inhib :=
  recordFault_ps_inhib rfl rfl s

@[simp] theorem sourceFault_ib (cause : Nat) (k : Fin 32) (s : State) : (sourceFault cause k s).ib = s.ib :=
  (sourceFault_only ..).ib.resolve_left (by decide)

@[simp] theorem sourceFault_ps (cause : Nat) (k : Fin 32) (s : State) : (sourceFault cause k s).ps = s.ps :=
  (sourceFault_only ..).ps.resolve_left (by decide)

@[simp] theorem sourceFault_dev (cause : Nat) (k : Fin 32) (s : State) : (sourceFault cause k s).dev = s.dev :=
  (sourceFault_only ..).dev.resolve_left (by decide)

/-- SRC_STUCK and SRC_OVERLOAD stand uncleared at their source once recorded. -/
theorem sourceFault_uncleared {cause : Nat} (own : cause ≠ 1) (k : Fin 32) (s : State) :
    (sourceFault cause k s).uncleared .ps cause k.val = true := by
  simp only [sourceFault, if_neg own]
  rw [recordFault_ps rfl rfl]
  exact recordCore_contained_uncleared rfl s

/-! ## The release of PG00 (R163) -/

theorem exec_pg00Release_due {s : State} {u : Tick} (switched : s.ps.switchedAt = some u) (unreleased : s.ps.frameAt = none)
    (due : 100000 ≤ elapsed s.tb.now u) :
    exec .pg00Release s = .next ((s.modPs (fun p => { p with frameAt := some s.tb.now })).modTb
      (fun b => { b with pg := upd b.pg 0 (fun g => { g with en := true, base := s.tb.now }) })) := by
  show execPg00Release s = _
  simp only [execPg00Release, switched, unreleased]
  exact congrArg _ (if_pos due)

/-! ## The opening of a window (R151, R152) -/

/-- The window of `w` µs that dip `d` opens on tick `now`. -/
def DipWin.opened (now : Tick) (d : Fin 8) (w : Nat) : DipWin :=
  ⟨d.val, now, now + BitVec.ofNat 64 ((100 * w + 1) / 2), now + BitVec.ofNat 64 (100 * w)⟩

/-- A source whose window begins. -/
def Source.dip (win : DipWin) (x : Source) : Source :=
  { x with win := some win, inOff := true, dipNo := x.dipNo + 1, highOff := false }

/-- The masking of an input for a window: a processed input holds the value it had. -/
def maskInput (now : Tick) (win : DipWin) (s : State) (i : Fin 128) : State :=
  if (s.ib.inp[i] : Input).on then
    settleInput i (s.modInput i (fun x =>
      { x.suspendBand now (win.closeAt + 5000) with held := some (x.before now), dipSeen := false }))
  else s

theorem exec_dipWindowOpen_due {s : State} {k : Fin 32} {d : Fin 8} {a w : Nat}
    (due : windowDue s (s.strumCfg k) d.val = some (a, w)) (on : (s.ps.src[k] : Source).on = true)
    (closed : (s.ps.src[k] : Source).win = none) :
    exec (.dipWindowOpen k d false) s = .next ((s.inputsOf k).foldl (maskInput s.tb.now (.opened s.tb.now d w))
      (s.modSource k (Source.dip (.opened s.tb.now d w)))) := by
  show execDipWindowOpen k d false s = _
  simp only [execDipWindowOpen, due, on, closed]
  rfl

theorem maskInput_alone (now : Tick) (win : DipWin) (s : State) (i j : Fin 128) (other : j ≠ i) :
    (maskInput now win s i).ib.inp[j] = s.ib.inp[j] := by
  unfold maskInput
  split
  · rw [settleInput_modInput, inp_modInput_ne _ _ other]
  · rfl

@[simp] theorem Input.settle_held (f : Nat) (now : Tick) (x : Input) : (x.settle f now).held = x.held := by
  rw [x.settle_eq f now]

theorem maskInput_held {s : State} {i : Fin 128} (on : (s.ib.inp[i] : Input).on = true) (now : Tick) (win : DipWin) :
    ((maskInput now win s i).ib.inp[i] : Input).held = some ((s.ib.inp[i] : Input).before now) := by
  rw [maskInput, if_pos on, settleInput_modInput, inp_modInput]
  exact Input.settle_held ..

/-- The masking of inputs changes nothing but inputs. -/
theorem foldl_maskInput_inputs (now : Tick) (win : DipWin) (is : List (Fin 128)) (s : State) :
    ∃ v, is.foldl (maskInput now win) s = { s with ib := { s.ib with inp := v } } := by
  refine List.foldlRecOn is _ (motive := fun t : State => ∃ v, t = { s with ib := { s.ib with inp := v } }) ⟨s.ib.inp, rfl⟩ ?_
  rintro _ ⟨v, rfl⟩ i -
  unfold maskInput
  split
  · exact ⟨_, rfl⟩
  · exact ⟨_, rfl⟩

/-! ## The end of an off part and of a window (R151, R153, R154) -/

theorem exec_dipOffEnd_due {s : State} {k : Fin 32} {w : DipWin} {high : Bool} (win : (s.ps.src[k] : Source).win = some w)
    (off : (s.ps.src[k] : Source).inOff = true) (due : elapsed w.offEnd w.openAt ≤ elapsed s.tb.now w.openAt) :
    exec (.dipOffEnd k high false) s = .next (s.modSource k (fun x => { x with inOff := false, highOff := high })) := by
  show execDipOffEnd k high false s = _
  have reached : decide (elapsed s.now w.openAt < elapsed w.offEnd w.openAt) = false := decide_eq_false (Nat.not_lt.mpr due)
  simp only [execDipOffEnd, win, off, reached]
  rfl

/-- What the judgement of an input's dip leaves: the other inputs, the sources and the inhibits are as before. -/
structure JudgesInput (i : Fin 128) (s t : State) : Prop where
  others : ∀ j, j ≠ i → t.ib.inp[j] = s.ib.inp[j]
  src : t.ps.src = s.ps.src
  inhib : t.os.inhib = s.os.inhib

theorem JudgesInput.refl (i : Fin 128) (s : State) : JudgesInput i s s := ⟨fun _ _ => rfl, rfl, rfl⟩

theorem JudgesInput.modInput {i : Fin 128} {s t : State} (h : JudgesInput i s t) (f : Input → Input) :
    JudgesInput i s (t.modInput i f) :=
  ⟨fun j other => (inp_modInput_ne _ _ other).trans (h.others j other), h.src, h.inhib⟩

theorem JudgesInput.dipFault {i : Fin 128} {s t : State} (h : JudgesInput i s t) (cause foreign : Nat) :
    JudgesInput i s (dipFault cause i foreign t) :=
  ⟨by simpa using h.others, by simpa using h.src, by simpa using h.inhib⟩

/-- A change of the fault records and of the sources' counters alone goes with any judgement. -/
theorem JudgesInput.of_eq {i : Fin 128} {s t u : State} (h : JudgesInput i s t) (ib : u.ib = t.ib) (src : u.ps.src = t.ps.src)
    (os : u.os = t.os) : JudgesInput i s u :=
  ⟨ib ▸ h.others, src ▸ h.src, os ▸ h.inhib⟩

theorem JudgesInput.causeAgain {i : Fin 128} {s t : State} (h : JudgesInput i s t) (cause : Nat) :
    JudgesInput i s (causeAgain .ps cause i.val t) := h.of_eq rfl rfl rfl

/-- An input that is not masked is not judged; a masked one is unmasked once its dip has been judged. -/
theorem judgeDip_cases (w : DipWin) (i : Fin 128) (s : State) :
    ((s.ib.inp[i] : Input).held = none ∧ judgeDip w i s = s) ∨
    ∃ u, JudgesInput i s u ∧ judgeDip w i s =
      settleInput i (u.modInput i (fun x => { x with held := none, dipSeen := false, foreignNew := false })) := by
  unfold judgeDip
  dsimp only
  split
  · next unmasked => exact .inl ⟨unmasked, rfl⟩
  · refine .inr ⟨_, ?_, rfl⟩
    split
    · exact (JudgesInput.refl i s).of_eq rfl rfl rfl
    · have counted : JudgesInput i s (s.modPs (fun p => { p with missCnt := satInc p.missCnt })) :=
        (JudgesInput.refl i s).of_eq rfl rfl rfl
      have missed := ((counted.modInput (fun x => { x with misses := min 2 (x.misses + 1) })).causeAgain 4).causeAgain 5
      have seen := (JudgesInput.refl i s).modInput (fun x => { x with misses := 0 })
      split
      · split
        · exact seen
        · exact seen.of_eq rfl rfl rfl
      · split
        · exact missed.dipFault 5 0
        · exact missed

theorem judgeDip_judges (w : DipWin) (i : Fin 128) (s : State) : JudgesInput i s (judgeDip w i s) := by
  rcases judgeDip_cases w i s with ⟨-, same⟩ | ⟨u, judged, eq⟩
  · rw [same]
    exact .refl i s
  · rw [eq]
    exact (judged.modInput _).modInput _

theorem judgeDip_held (w : DipWin) (i : Fin 128) (s : State) : ((judgeDip w i s).ib.inp[i] : Input).held = none := by
  rcases judgeDip_cases w i s with ⟨unmasked, same⟩ | ⟨u, -, eq⟩
  · rw [same, unmasked]
  · rw [eq, settleInput_modInput, inp_modInput]
    exact Input.settle_held ..

/-- The judgement of the dips at the inputs of a source. -/
def judgeDips (k : Fin 32) (w : DipWin) (s : State) : State := (s.inputsOf k).foldl (fun s i => judgeDip w i s) s

theorem judgeDips_src (k : Fin 32) (w : DipWin) (s : State) : (judgeDips k w s).ps.src = s.ps.src :=
  List.foldlRecOn _ _ (motive := fun t => t.ps.src = s.ps.src) rfl fun t kept i _ => (judgeDip_judges w i t).src.trans kept

theorem judgeDips_inhib (k : Fin 32) (w : DipWin) (s : State) : (judgeDips k w s).os.inhib = s.os.inhib :=
  List.foldlRecOn _ _ (motive := fun t => t.os.inhib = s.os.inhib) rfl fun t kept i _ =>
    (judgeDip_judges w i t).inhib.trans kept

theorem judgeDips_held {s : State} {k : Fin 32} {i : Fin 128} (pulsed : (s.inputCfg i).pulsed = true)
    (source : (s.inputCfg i).source = k.val) (w : DipWin) : ((judgeDips k w s).ib.inp[i] : Input).held = none := by
  obtain ⟨t, -, after⟩ := inp_foldl_once (fun t i => (judgeDip_judges w i t).others) (inputsOf_nodup s k)
    (mem_inputsOf pulsed source) s
  exact (congrArg Input.held after).trans (judgeDip_held w i t)

/-- The dip of a source with a foreign match at one of its inputs says nothing about SRC_STUCK. -/
def State.stuckExempt (s : State) (k : Fin 32) : Bool :=
  (s.inputsOf k).any (fun i => s.ib.inp[i].foreignNew || s.uncleared .ps 4 i.val)

/-- A source whose window `w` is over. -/
def Source.closed (w : DipWin) (exempt : Bool) (x : Source) : Source :=
  { x with win := none, inOff := false, lastWin := some w, done := x.done + 1,
           stuck := if exempt then x.stuck else if x.highOff then min 2 (x.stuck + 1) else 0 }

/-- The judgement of a source, which was `x` in its dip, on the first tick after the window. -/
def judgeSource (k : Fin 32) (x : Source) (exempt : Bool) (s : State) : State :=
  if exempt then s
  else if !x.highOff then causeAbsent .ps 2 k.val s
  else if 1 ≤ x.stuck then sourceFault 2 k s else s

theorem judgeSource_keeps (k : Fin 32) (x : Source) (exempt : Bool) (s : State) :
    (judgeSource k x exempt s).ps = s.ps ∧ (judgeSource k x exempt s).ib = s.ib ∧
    (judgeSource k x exempt s).os.inhib = s.os.inhib := by
  unfold judgeSource
  split
  · exact ⟨rfl, rfl, rfl⟩
  · split
    · exact ⟨rfl, rfl, rfl⟩
    · split
      · exact ⟨sourceFault_ps .., sourceFault_ib .., sourceFault_inhib ..⟩
      · exact ⟨rfl, rfl, rfl⟩

theorem exec_dipWindowEnd_due {s : State} {k : Fin 32} {w : DipWin} (win : (s.ps.src[k] : Source).win = some w)
    (due : elapsed w.closeAt w.openAt ≤ elapsed s.tb.now w.openAt) :
    exec (.dipWindowEnd k) s = .next (judgeSource k s.ps.src[k] (s.stuckExempt k)
      ((judgeDips k w s).modSource k (Source.closed w (s.stuckExempt k)))) := by
  show execDipWindowEnd k s = _
  simp only [execDipWindowEnd, win]
  exact congrArg _ (if_neg (Nat.not_lt.mpr due))

theorem exec_dipWindowEnd_keeps {s t : State} {k : Fin 32} (h : exec (.dipWindowEnd k) s = .next t) :
    t.dev = s.dev ∧ t.tb = s.tb := by
  have only : OnlyO 388120 s (exec (.dipWindowEnd k) s) := execDipWindowEnd_only k s
  rw [h] at only
  exact ⟨(Only.dev only).resolve_left (by decide), (Only.tb only).resolve_left (by decide)⟩

/-! ## The overload and its retry (R159, R161) -/

theorem exec_srcOverload_due {s : State} {k : Fin 32} {f : Tick} (on : (s.ps.src[k] : Source).on = true)
    (driven : (s.ps.src[k] : Source).offSince = none) (outside : (s.ps.src[k] : Source).offPart s.tb.now = false)
    (since : elapsed s.tb.now f ≤ elapsed s.tb.now (s.ps.src[k] : Source).onAt)
    (due : 10000 ≤ (s.ps.src[k] : Source).overRun s.tb.now f) :
    exec (.srcOverload k f) s =
      .next (sourceFault 3 k (s.modSource k (fun x => { x with offSince := some s.tb.now }))) :=
  congrArg Host.Outcome.next (if_pos ⟨on, driven, by simpa [State.now] using outside, since, due⟩)

theorem exec_srcOverload_short {s : State} {k : Fin 32} {f : Tick}
    (short : (s.ps.src[k] : Source).overRun s.tb.now f < 10000) : exec (.srcOverload k f) s = .next s :=
  congrArg Host.Outcome.next (if_neg fun ⟨_, _, _, _, due⟩ => Nat.not_le.mpr short due)

theorem exec_srcRetry_due {s : State} {k : Fin 32} {u : Tick} (off : (s.ps.src[k] : Source).offSince = some u)
    (due : 10000000 ≤ elapsed s.tb.now u) (persists : Bool) :
    exec (.srcRetry k persists false) s = .next (
      if persists then s.modSource k (fun x => { x with offSince := none, onAt := s.tb.now })
      else causeAbsent .ps 3 k.val (s.modSource k (fun x => { x with offSince := none, onAt := s.tb.now }))) := by
  show execSrcRetry k persists false s = _
  simp only [execSrcRetry, off]
  exact congrArg _ (if_neg (Nat.not_lt.mpr due))

/-! ## The statement -/

/-- Settles O37: what each command makes of its source and of the inputs pulsed from it, and that the other sources stay. -/
theorem pulseSourcesDipAndRetry : Obligations.PulseSourcesDipAndRetry := by
  refine ⟨?_, ?_, fun s k w high => exec_dipOffEnd_due, ?_, ?_, ?_⟩
  · intro s u switched unreleased due
    refine ⟨_, exec_pg00Release_due switched unreleased due, rfl, ?_, ?_, fun g other => upd_get_ne _ _ other, rfl⟩
    · exact congrArg Pg.en (upd_get ..)
    · exact congrArg Pg.base (upd_get ..)
  · intro s k d a w due on closed
    obtain ⟨v, frame⟩ := foldl_maskInput_inputs s.tb.now (.opened s.tb.now d w) (s.inputsOf k)
      (s.modSource k (Source.dip (.opened s.tb.now d w)))
    refine ⟨_, exec_dipWindowOpen_due due on closed, ?_, ?_, fun i pulsed source processed => ?_, fun j other => ?_, ?_⟩
    · rw [frame]
      exact congrArg Source.inOff (src_modSource ..)
    · rw [frame]
      exact congrArg Source.win (src_modSource ..)
    · obtain ⟨t, before, after⟩ := inp_foldl_once (maskInput_alone s.tb.now (.opened s.tb.now d w)) (inputsOf_nodup s k)
        (mem_inputsOf pulsed source) (s.modSource k (Source.dip (.opened s.tb.now d w)))
      rw [modSource_ib] at before
      rw [after, maskInput_held (before ▸ processed), before]
    · rw [frame]
      exact src_modSource_ne _ _ other
    · rw [frame]
      rfl
  · intro s k w win due
    have run := exec_dipWindowEnd_due win due
    obtain ⟨dev, tb⟩ := exec_dipWindowEnd_keeps run
    obtain ⟨ps, ib, inhib⟩ := judgeSource_keeps k s.ps.src[k] (s.stuckExempt k)
      ((judgeDips k w s).modSource k (Source.closed w (s.stuckExempt k)))
    have src := (congrArg (·.src[k]) ps).trans (src_modSource ..)
    simp only [judgeDips_src] at src
    refine ⟨_, run, src ▸ rfl, src ▸ rfl, src ▸ rfl, fun j other => ?_, fun i pulsed source => ?_, dev,
      inhib.trans (judgeDips_inhib k w s), tb⟩
    · rw [ps, src_modSource_ne _ _ other, judgeDips_src]
    · rw [ib]
      exact judgeDips_held pulsed source w
  · intro s k f on driven outside since
    refine ⟨fun due => ?_, exec_srcOverload_short⟩
    refine ⟨_, exec_srcOverload_due on driven outside since due, ?_, sourceFault_uncleared (by decide) k _,
      sourceFault_dev .., fun j other => ?_⟩
    · rw [sourceFault_ps, src_modSource]
    · rw [sourceFault_ps, src_modSource_ne _ _ other]
  · intro s k u off due
    exact ⟨⟨_, exec_srcRetry_due off due false, src_modSource .., fun j other => src_modSource_ne _ _ other, rfl⟩,
      exec_srcRetry_due off due true⟩

end Sys2Proof.Machine
end

section
/-!
PROOFS about the axes: what an axis, a path or a quarter reads as after a change of one, what a fault of AF leaves, and what a pass
over a list makes of one of its items.
-/
namespace Sys2Proof.Machine

/-! ## Axes and paths read back -/

@[simp] theorem ax_modAxis (s : State) (a : Fin 64) (f : Axis → Axis) : (s.modAxis a f).af.ax[a] = f s.af.ax[a] :=
  upd_get _ _ _

theorem ax_modAxis_ne (s : State) {a b : Fin 64} (f : Axis → Axis) (other : b ≠ a) :
    (s.modAxis a f).af.ax[b] = s.af.ax[b] := upd_get_ne _ _ other

theorem ax_modPath_ne (s : State) {a b : Fin 64} (p : Fin 2) (f : Path → Path) (other : b ≠ a) :
    (s.modPath a p f).af.ax[b] = s.af.ax[b] := ax_modAxis_ne s _ other

@[simp] theorem modAxis_af_q (s : State) (a : Fin 64) (f : Axis → Axis) : (s.modAxis a f).af.q = s.af.q := rfl

@[simp] theorem modPath_af_q (s : State) (a : Fin 64) (p : Fin 2) (f : Path → Path) : (s.modPath a p f).af.q = s.af.q := rfl

@[simp] theorem path_modPath (s : State) (a : Fin 64) (p : Fin 2) (f : Path → Path) :
    (s.modPath a p f).path a p = f (s.path a p) := by
  unfold State.path State.modPath
  rw [ax_modAxis]
  exact upd_get ..

theorem path_modPath_ne (s : State) (a : Fin 64) {p o : Fin 2} (f : Path → Path) (other : o ≠ p) :
    (s.modPath a p f).path a o = s.path a o := by
  unfold State.path State.modPath
  rw [ax_modAxis]
  exact upd_get_ne _ _ other

theorem path_of_ax {s t : State} {a : Fin 64} (same : t.af.ax[a] = s.af.ax[a]) (p : Fin 2) : t.path a p = s.path a p :=
  congrArg (fun x : Axis => x.path[p]) same

theorem path_modAxis_map (s : State) (a : Fin 64) (f : Path → Path) (p : Fin 2) :
    (s.modAxis a (fun x => { x with path := x.path.map f })).path a p = f (s.path a p) := by
  unfold State.path
  rw [ax_modAxis]
  exact Vector.getElem_map ..

@[simp] theorem entry_modPath (s : State) (a : Fin 64) (p : Fin 2) (f : Path → Path) :
    ((s.modPath a p f).af.ax[a] : Axis).entry = (s.af.ax[a] : Axis).entry := by
  unfold State.modPath
  rw [ax_modAxis]
  rfl

/-! ## Faults of AF (R198, R257) -/

/-- A contained fault of AF is no fault of a shared resource: it is recorded, and no status line turns bad. -/
theorem recordFault_af {f : FaultRep} (contained : f.cls = .contained) (block : f.block = .af) (s : State) :
    recordFault f s = recordCore f s := by
  have line : resourceOf f.block f.cause f.item = none := by simp [resourceOf, block]
  rw [recordFault, if_neg (show f.cls ≠ .corrected by simp [contained])]
  simp only [line]

@[simp] theorem axisFault_af (cause : Nat) (a : Fin 64) (path : Nat) (s : State) : (axisFault cause a path s).af = s.af :=
  (axisFault_only ..).af.resolve_left (by decide)

@[simp] theorem path_axisFault (cause : Nat) (b : Fin 64) (path : Nat) (s : State) (a : Fin 64) (p : Fin 2) :
    (axisFault cause b path s).path a p = s.path a p := path_of_ax (congrArg (·.ax[a]) (axisFault_af ..)) p

@[simp] theorem axisFault_dev (cause : Nat) (a : Fin 64) (path : Nat) (s : State) : (axisFault cause a path s).dev = s.dev :=
  (axisFault_only ..).dev.resolve_left (by decide)

theorem axisFault_inhib (cause : Nat) (a : Fin 64) (path : Nat) (s : State) :
    (axisFault cause a path s).os.inhib = s.os.inhib := by
  unfold axisFault
  rw [recordFault_af rfl rfl, recordCore_contained_inhib rfl]

/-- A fault of an axis stands uncleared at it once recorded. -/
theorem axisFault_uncleared (cause : Nat) (a : Fin 64) (path : Nat) (s : State) :
    (axisFault cause a path s).uncleared .af cause a.val = true := by
  unfold axisFault
  rw [recordFault_af rfl rfl]
  exact recordCore_contained_uncleared rfl s

@[simp] theorem afQuarterFault_af (cause : Nat) (q : Fin 4) (s : State) : (afQuarterFault cause q s).af = s.af :=
  (afQuarterFault_only ..).af.resolve_left (by decide)

@[simp] theorem afQuarterFault_dev (cause : Nat) (q : Fin 4) (s : State) : (afQuarterFault cause q s).dev = s.dev :=
  (afQuarterFault_only ..).dev.resolve_left (by decide)

theorem afQuarterFault_uncleared (cause : Nat) (q : Fin 4) (s : State) :
    (afQuarterFault cause q s).uncleared .af cause q.val = true := by
  unfold afQuarterFault
  rw [recordFault_af rfl rfl]
  exact recordCore_contained_uncleared rfl s

@[simp] theorem afAbsent_af (cause scope item : Nat) (s : State) : (afAbsent cause scope item s).af = s.af := rfl

@[simp] theorem path_afAbsent (cause scope item : Nat) (s : State) (a : Fin 64) (p : Fin 2) :
    (afAbsent cause scope item s).path a p = s.path a p := rfl

@[simp] theorem afAbsent_dev (cause scope item : Nat) (s : State) : (afAbsent cause scope item s).dev = s.dev := rfl

@[simp] theorem afAbsent_os (cause scope item : Nat) (s : State) : (afAbsent cause scope item s).os = s.os := rfl

/-- An absent cause stays uncleared until its quiet timer ends. -/
@[simp] theorem uncleared_afAbsent (cause scope item : Nat) (s : State) (c i : Nat) :
    (afAbsent cause scope item s).uncleared .af c i = s.uncleared .af c i := by
  simp only [State.uncleared, afAbsent, frOf_modRec, List.any_map]
  congr 1
  funext x
  simp only [Function.comp_apply]
  split <;> rfl

theorem afPresent_afAbsent (cause scope item : Nat) (s : State) :
    (afAbsent cause scope item s).afPresent cause scope item = false := by
  simp only [State.afPresent, afAbsent, frOf_modRec, List.any_map, List.any_eq_false, Function.comp_apply]
  intro x _
  split
  · simp
  · next other => simpa [and_assoc] using other

/-! ## A pass over a list (the axes of a quarter, the quarters) -/

/-- A pass in which each step changes what is seen of its own item alone reaches an item of the list once: in a state that has
what every step keeps, in which the item is seen as before the pass, and after which nothing more happens to it. -/
theorem foldl_once {ι : Type} {α : ι → Type} {view : State → ∀ i, α i} {P : State → Prop} {g : State → ι → State}
    (alone : ∀ t j i, i ≠ j → view (g t j) i = view t i) (keeps : ∀ t j, P t → P (g t j)) {is : List ι} (nodup : is.Nodup)
    {i : ι} (mem : i ∈ is) {s : State} (start : P s) :
    ∃ t, P t ∧ view t i = view s i ∧ view (is.foldl g s) i = view (g t i) i := by
  induction is generalizing s with
  | nil => cases mem
  | cons x xs ih =>
    obtain ⟨fresh, nodup⟩ := List.nodup_cons.mp nodup
    rcases List.mem_cons.mp mem with rfl | later
    · refine ⟨s, start, rfl, ?_⟩
      exact List.foldlRecOn xs g (motive := fun t => view t i = view (g s i) i) rfl fun t kept j later =>
        (alone t j i fun same => fresh (same ▸ later)).trans kept
    · obtain ⟨t, has, before, after⟩ := ih nodup later (keeps s x start)
      exact ⟨t, has, before.trans (alone s x i fun same => fresh (same ▸ later)), after⟩

/-- What a pass leaves of an item that is not in its list. -/
theorem foldl_other {ι : Type} {α : ι → Type} {view : State → ∀ i, α i} {g : State → ι → State}
    (alone : ∀ t j i, i ≠ j → view (g t j) i = view t i) {is : List ι} {i : ι} (out : i ∉ is) (s : State) :
    view (is.foldl g s) i = view s i :=
  List.foldlRecOn is g (motive := fun t => view t i = view s i) rfl fun t kept j mem =>
    (alone t j i fun same => out (same ▸ mem)).trans kept

theorem mem_axesOf {q : Fin 4} {a : Fin 64} : a ∈ axesOf q ↔ quarterOfAxis a.val = q := by simp [axesOf, fins]

theorem axesOf_nodup (q : Fin 4) : (axesOf q).Nodup := (List.nodup_finRange 64).filter _

/-- A pass over the axes of a quarter in which each step changes no axis but its own:
what it makes of an axis of the quarter. -/
theorem ax_foldl_axesOf {P : State → Prop} {g : State → Fin 64 → State}
    (alone : ∀ t (a b : Fin 64), b ≠ a → (g t a).af.ax[b] = t.af.ax[b]) (keeps : ∀ t a, P t → P (g t a)) {q : Fin 4}
    {a : Fin 64} (own : quarterOfAxis a.val = q) {s : State} (start : P s) :
    ∃ t, P t ∧ t.af.ax[a] = s.af.ax[a] ∧ ((axesOf q).foldl g s).af.ax[a] = (g t a).af.ax[a] :=
  foldl_once (α := fun _ => Axis) (view := fun t (a : Fin 64) => t.af.ax[a]) alone keeps (axesOf_nodup q) (mem_axesOf.mpr own) start

theorem ax_foldl_axesOf_ne {g : State → Fin 64 → State}
    (alone : ∀ t (a b : Fin 64), b ≠ a → (g t a).af.ax[b] = t.af.ax[b]) {q : Fin 4} {a : Fin 64}
    (other : quarterOfAxis a.val ≠ q) (s : State) : ((axesOf q).foldl g s).af.ax[a] = s.af.ax[a] :=
  foldl_other (α := fun _ => Axis) (view := fun t (a : Fin 64) => t.af.ax[a]) alone (fun mem => other (mem_axesOf.mp mem)) s

/-- A pass whose steps change axes alone changes axes alone. -/
theorem foldl_axes {ι : Type} {g : State → ι → State}
    (axes : ∀ t i, ∃ v, g t i = { t with af := { t.af with ax := v } }) (is : List ι) (s : State) :
    ∃ v, is.foldl g s = { s with af := { s.af with ax := v } } := by
  refine List.foldlRecOn is g (motive := fun t : State => ∃ v, t = { s with af := { s.af with ax := v } }) ⟨s.af.ax, rfl⟩ ?_
  rintro _ ⟨v, rfl⟩ i -
  obtain ⟨w, step⟩ := axes { s with af := { s.af with ax := v } } i
  exact ⟨w, step⟩

end Sys2Proof.Machine
end

section
/-!
PROOFS about the edges of an encoder: what each step of a path's quadrant makes of the path, and what its faults leave. They settle
O38.
-/
namespace Sys2Proof.Machine

/-- The steps from a path's quadrant forward to `q`, modulo 4 (R173). -/
def Path.stepsTo (y : Path) (q : Fin 4) : Nat := (q.val + 4 - y.quad.val) % 4

theorem Path.stepsTo_self (y : Path) : y.stepsTo y.quad = 0 := by
  unfold stepsTo
  omega

/-- Path 0 of a sin/cos axis interpolates; the others count (R168). -/
def State.interpolates (s : State) (a : Fin 64) (p : Fin 2) : Bool := (s.af.ax[a] : Axis).entry.mode == 1 && p.val == 0

theorem interpolates_iff {s : State} {a : Fin 64} {p : Fin 2} :
    s.interpolates a p = true ↔ (s.af.ax[a] : Axis).entry.mode = 1 ∧ p = 0 := by
  simp only [State.interpolates, Bool.and_eq_true, beq_iff_eq, Fin.ext_iff]
  rfl

/-- The last edge of a path is less than 100 ns old (R182). -/
def Path.closeEdge (now : Tick) (y : Path) : Bool :=
  match y.edges with | t :: _ => decide (elapsed now t < 10) | [] => false

theorem Path.closeEdge_false {y : Path} {now : Tick} (far : ∀ u us, y.edges = u :: us → 10 ≤ elapsed now u) :
    y.closeEdge now = false := by
  unfold closeEdge
  split
  · next u us edges => exact decide_eq_false (Nat.not_lt.mpr (far u us edges))
  · rfl

theorem Path.closeEdge_true {y : Path} {now u : Tick} {us : List Tick} (edges : y.edges = u :: us) (near : elapsed now u < 10) :
    y.closeEdge now = true := by
  simp only [closeEdge, edges, near, decide_true]

/-! ## What an edge makes of its path (R173, R174, R187) -/

theorem Path.countEdge_count (inv : Bool) (quad : Fin 4) (now : Tick) {d : Nat} (step : d = 1 ∨ d = 3) (y : Path) :
    (y.countEdge inv d quad now).count = if d = 1 ↔ inv = false then y.count + 1 else y.count - 1 := by
  unfold countEdge
  rcases step with rfl | rfl <;> cases inv <;> rfl

theorem exec_encoderEdge_idle {s : State} {a : Fin 64} {p : Fin 2} (q : Fin 4)
    (idle : (s.af.ax[a] : Axis).entry.mode = 0 ∨ (s.path a p).started = false ∨ (s.path a p).held = true) :
    exec (.encoderEdge a p q) s = .next (s.modPath a p (fun y => { y with quad := q })) :=
  congrArg Host.Outcome.next (if_pos (by simpa using idle))

/-- The state with an edge counted that follows the last one in less than 100 ns, and with its break. -/
def State.breakEdge (s : State) (a : Fin 64) (p : Fin 2) (q : Fin 4) : State :=
  (s.modPath a p (Path.countEdge (s.af.ax[a] : Axis).entry.invert ((s.path a p).stepsTo q) q s.tb.now)).modPath a p
    (fun y => { y with freqF := true }.brk s.tb.now)

section
variable {s : State} {a : Fin 64} {p : Fin 2} (used : (s.af.ax[a] : Axis).entry.mode ≠ 0)
  (started : (s.path a p).started = true) (free : (s.path a p).held = false)
include used started free

theorem encoderEdge_not_idle : ¬ ((s.af.ax[a] : Axis).entry.mode = 0 ∨ (!(s.path a p).started) = true ∨ (s.path a p).held = true) := by
  rw [started, free]
  simpa using used

theorem exec_encoderEdge_none : exec (.encoderEdge a p (s.path a p).quad) s = .next s :=
  congrArg Host.Outcome.next
    ((if_neg (encoderEdge_not_idle used started free)).trans (if_pos (s.path a p).stepsTo_self))

theorem exec_encoderEdge_illegal {q : Fin 4} (both : (s.path a p).stepsTo q = 2) :
    exec (.encoderEdge a p q) s = .next (afAbsent 4 4 a.val (axisFault 4 a p.val
      (s.modPath a p (fun y => (y.illegal (s.interpolates a p) (s.af.ax[a] : Axis).entry.invert q).brk s.tb.now)))) := by
  have moved : ¬ (s.path a p).stepsTo q = 0 := by omega
  exact congrArg Host.Outcome.next (((if_neg (encoderEdge_not_idle used started free)).trans (if_neg moved)).trans (if_pos both))

/-- A step to a neighbouring quadrant is counted, and nothing else follows from an edge that is not close to the last one. -/
theorem exec_encoderEdge_counted {q : Fin 4} (step : (s.path a p).stepsTo q = 1 ∨ (s.path a p).stepsTo q = 3)
    (calm : (!s.interpolates a p && (s.path a p).closeEdge s.tb.now) = false) :
    exec (.encoderEdge a p q) s = .next (s.modPath a p
      (Path.countEdge (s.af.ax[a] : Axis).entry.invert ((s.path a p).stepsTo q) q s.tb.now)) := by
  have moved : ¬ (s.path a p).stepsTo q = 0 := by omega
  have single : ¬ (s.path a p).stepsTo q = 2 := by omega
  refine congrArg Host.Outcome.next (((if_neg (encoderEdge_not_idle used started free)).trans (if_neg moved)).trans
    ((if_neg single).trans ?_))
  exact if_neg (by rw [← Bool.not_eq_true] at calm; exact calm)

/-- An edge too close to the last one is counted as well; it breaks the path and is FREQ. -/
theorem exec_encoderEdge_close {q : Fin 4} (step : (s.path a p).stepsTo q = 1 ∨ (s.path a p).stepsTo q = 3)
    (close : (!s.interpolates a p && (s.path a p).closeEdge s.tb.now) = true) :
    ∃ t, exec (.encoderEdge a p q) s = .next t ∧ t.af = (s.breakEdge a p q).af ∧ t.uncleared .af 5 a.val = true ∧
      t.dev = s.dev := by
  have moved : ¬ (s.path a p).stepsTo q = 0 := by omega
  have single : ¬ (s.path a p).stepsTo q = 2 := by omega
  have run : exec (.encoderEdge a p q) s = .next (
      if (axisFault 5 a p.val (s.breakEdge a p q)).af.ax[a].fast then axisFault 5 a p.val (s.breakEdge a p q)
      else afAbsent 5 4 a.val (axisFault 5 a p.val (s.breakEdge a p q))) :=
    congrArg Host.Outcome.next (((if_neg (encoderEdge_not_idle used started free)).trans (if_neg moved)).trans
      ((if_neg single).trans (if_pos close)))
  have uncleared := axisFault_uncleared 5 a p.val (s.breakEdge a p q)
  refine ⟨_, run, ?_⟩
  split
  · exact ⟨axisFault_af .., uncleared, axisFault_dev ..⟩
  · exact ⟨axisFault_af .., (uncleared_afAbsent ..).trans uncleared, axisFault_dev ..⟩

end

theorem path_breakEdge (s : State) (a : Fin 64) (p : Fin 2) (q : Fin 4) :
    (s.breakEdge a p q).path a p = { (s.path a p).countEdge (s.af.ax[a] : Axis).entry.invert ((s.path a p).stepsTo q) q s.tb.now
      with freqF := true }.brk s.tb.now := by
  rw [State.breakEdge, path_modPath, path_modPath]

/-! ## The statement -/

/-- Settles O38: a step to a neighbouring quadrant is counted, with FREQ where it follows too soon, a step across is QUAD, and
a path that is not counting takes its quadrant alone. -/
theorem encoderEdgesAreCounted : Obligations.EncoderEdgesAreCounted := by
  refine ⟨fun s a p q used started free => ⟨fun step => ?_, fun both => ?_, ?_⟩, fun s a p q idle => ?_⟩
  · have count := Path.countEdge_count (s.af.ax[a] : Axis).entry.invert q s.tb.now step (s.path a p)
    cases close : !s.interpolates a p && (s.path a p).closeEdge s.tb.now with
    | false =>
      refine ⟨_, exec_encoderEdge_counted used started free step close, ?_⟩
      rw [path_modPath]
      refine ⟨rfl, count, rfl, rfl, fun o other => path_modPath_ne _ _ _ other, fun b other => ax_modPath_ne _ _ _ other,
        fun _ => rfl, fun u us counts edges near => ?_⟩
      rw [Path.closeEdge_true edges near, Bool.and_true, Bool.not_eq_false'] at close
      exact absurd (interpolates_iff.mp close) counts
    | true =>
      obtain ⟨t, run, af, uncleared, dev⟩ := exec_encoderEdge_close used started free step close
      have path (o : Fin 2) : t.path a o = (s.breakEdge a p q).path a o := path_of_ax (congrArg (·.ax[a]) af) o
      refine ⟨t, run, ?_⟩
      rw [path p, path_breakEdge, af]
      refine ⟨rfl, count, rfl, rfl, fun o other => ?_, fun b other => ?_, fun far => ?_, fun _ _ _ _ _ => ⟨uncleared, rfl, dev⟩⟩
      · rw [path o, State.breakEdge, path_modPath_ne _ _ _ other, path_modPath_ne _ _ _ other]
      · rw [State.breakEdge, ax_modPath_ne _ _ _ other, ax_modPath_ne _ _ _ other]
      · obtain ⟨counts, near⟩ := (Bool.and_eq_true ..).mp close
        rcases far with sin0 | far
        · rw [interpolates_iff.mpr sin0] at counts
          cases counts
        · rw [Path.closeEdge_false far] at near
          cases near
  · refine ⟨_, exec_encoderEdge_illegal used started free both, ?_⟩
    rw [path_afAbsent, path_axisFault, path_modPath, uncleared_afAbsent, afAbsent_os, axisFault_inhib]
    refine ⟨rfl, ?_, rfl, rfl, axisFault_uncleared .., axisFault_dev .., rfl⟩
    exact ite_congr (propext interpolates_iff) (fun _ => rfl) (fun _ => rfl)
  · rintro rfl
    exact exec_encoderEdge_none used started free
  · refine ⟨_, exec_encoderEdge_idle q idle, path_modPath .., fun b other => ax_modPath_ne _ _ _ other, rfl⟩

end Sys2Proof.Machine
end

section
/-!
PROOFS about the measurement instant and the buffer swap: what the measurement of one axis leaves of the rest, the words a counter
forms, the passes over the axes of a quarter and over the quarters. They settle O39.
-/
namespace Sys2Proof.Machine

/-! ## Causes a record holds (R257) -/

/-- No LEVEL stands uncleared. -/
def State.LevelFree (s : State) : Prop := ∀ i ∈ (s.frOf .af).insts, i.cause ≠ 2

theorem State.LevelFree.countStopped {s : State} (free : s.LevelFree) (a : Fin 64) : s.countStopped a 1 = false := by
  have absent : s.afPresent 2 4 a.val = false := List.any_eq_false.mpr fun i mem => by simp [free i mem]
  rw [State.countStopped, absent]
  rfl

theorem State.LevelFree.afAbsent {s : State} (free : s.LevelFree) (cause scope item : Nat) :
    (afAbsent cause scope item s).LevelFree := by
  simp only [State.LevelFree, Machine.afAbsent, frOf_modRec, List.mem_map]
  rintro _ ⟨i, mem, rfl⟩
  split
  · exact free i mem
  · exact free i mem

theorem redetect_cause {f : FaultRep} {r : FaultRecord} {i : FaultInst} (mem : i ∈ (redetect f r).insts) :
    ∃ j ∈ r.insts, i.cause = j.cause := by
  obtain ⟨j, old, rfl⟩ := List.mem_map.mp mem
  refine ⟨j, old, ?_⟩
  split <;> rfl

/-- Recording a contained fault adds its own cause to the record and no other. -/
theorem recordCore_contained_cause {f : FaultRep} (contained : f.cls = .contained) {s : State} {i : FaultInst}
    (mem : i ∈ ((recordCore f s).frOf f.block).insts) : i.cause = f.cause ∨ ∃ j ∈ (s.frOf f.block).insts, i.cause = j.cause := by
  have stays (b : Bool) : (if b = true then FaultClass.contained else f.cls) = .contained := by simp [contained]
  unfold recordCore at mem
  simp only [stays] at mem
  split at mem
  · rw [frOf_modRec] at mem
    exact .inr (redetect_cause mem)
  · rw [frOf_scopeAborts_markRearm, logFault, logPush_insts, frOf_modRec] at mem
    simp only [slotCause_insts, recordIn_insts, List.mem_append, List.mem_singleton] at mem
    rcases mem with old | rfl
    · exact .inr ⟨i, old, rfl⟩
    · exact .inl rfl

theorem State.LevelFree.axisFault {s : State} (free : s.LevelFree) {cause : Nat} (other : cause ≠ 2) (a : Fin 64) (path : Nat) :
    (axisFault cause a path s).LevelFree := by
  intro i mem
  unfold Machine.axisFault at mem
  rw [recordFault_af rfl rfl] at mem
  rcases recordCore_contained_cause rfl mem with own | ⟨j, old, same⟩
  · exact own ▸ other
  · exact same ▸ free j old

/-! ## The measurement of one axis (R171 to R184) -/

/-- What a quarter keeps of a measurement instant: MEAS, the tick, and whether the words wait for the swap. -/
def AfQuarter.instant (x : AfQuarter) : Bool × Tick × Bool := (x.meas, x.measAt, x.fresh)

/-- What the measurement of an axis leaves: the other axes and quarters, of its own quarter all but the calibration pass, and a
record free of LEVEL. -/
structure MeasuresAxis (a : Fin 64) (s t : State) : Prop where
  others : ∀ b : Fin 64, b ≠ a → t.af.ax[b] = s.af.ax[b]
  quarters : ∀ q : Fin 4, q ≠ quarterOfAxis a.val → t.af.q[q] = s.af.q[q]
  quarter : (t.af.q[quarterOfAxis a.val] : AfQuarter).instant = (s.af.q[quarterOfAxis a.val] : AfQuarter).instant
  levelFree : s.LevelFree → t.LevelFree

namespace MeasuresAxis

variable {a : Fin 64} {s t : State}

theorem refl (a : Fin 64) (s : State) : MeasuresAxis a s s := ⟨fun _ _ => rfl, fun _ _ => rfl, rfl, id⟩

/-- A change of what the measurement does not touch goes with it. -/
theorem of_af (h : MeasuresAxis a s t) {u : State} (af : u.af = t.af) (levelFree : t.LevelFree → u.LevelFree) :
    MeasuresAxis a s u :=
  ⟨af ▸ h.others, af ▸ h.quarters, af ▸ h.quarter, levelFree ∘ h.levelFree⟩

theorem modAxis (h : MeasuresAxis a s t) (f : Axis → Axis) : MeasuresAxis a s (t.modAxis a f) :=
  ⟨fun b other => (ax_modAxis_ne _ _ other).trans (h.others b other), h.quarters, h.quarter, h.levelFree⟩

theorem modPath (h : MeasuresAxis a s t) (p : Fin 2) (f : Path → Path) : MeasuresAxis a s (t.modPath a p f) := h.modAxis _

theorem afAbsent (h : MeasuresAxis a s t) (cause scope item : Nat) : MeasuresAxis a s (afAbsent cause scope item t) :=
  h.of_af rfl fun free => free.afAbsent cause scope item

theorem axisFault (h : MeasuresAxis a s t) {cause : Nat} (other : cause ≠ 2) (path : Nat) :
    MeasuresAxis a s (axisFault cause a path t) :=
  h.of_af (axisFault_af ..) fun free => free.axisFault other a path

theorem agreePair (h : MeasuresAxis a s t) (m spare : AxisSample) (bad : Bool) :
    MeasuresAxis a s (agreePair a m spare bad t) :=
  ⟨h.others, fun q other => (upd_get_ne _ _ other).trans (h.quarters q other),
    (congrArg AfQuarter.instant (upd_get ..)).trans h.quarter, h.levelFree⟩

theorem judgeFreq (h : MeasuresAxis a s t) (hi : Bool) : MeasuresAxis a s (judgeFreq a hi t) := by
  unfold Machine.judgeFreq
  dsimp only
  split
  · exact ((h.modAxis _).modPath 0 _).axisFault (by decide) 0
  · split
    · exact h.modAxis _
    · exact (h.modAxis _).afAbsent ..

theorem judgeVector (h : MeasuresAxis a s t) (outside level : Bool) : MeasuresAxis a s (judgeVector a outside level t) := by
  unfold Machine.judgeVector
  extract_lets x hist u many hit
  have counted : MeasuresAxis a s u := h.modAxis _
  split
  · exact counted.afAbsent ..
  · split
    · exact counted
    · exact counted.axisFault (by decide) 0

theorem judgeSync (h : MeasuresAxis a s t) (bad apart : Bool) : MeasuresAxis a s (judgeSync a bad apart t) := by
  unfold Machine.judgeSync
  split
  · exact h
  · split
    · exact h.afAbsent ..
    · split
      · exact h
      · exact (h.modPath 0 _).axisFault (by decide) 0

theorem measureSinCos (h : MeasuresAxis a s t) (m spare : AxisSample) : MeasuresAxis a s (measureSinCos a m spare t) := by
  unfold Machine.measureSinCos
  exact ((((((h.judgeFreq _).of_af (u := (Machine.judgeFreq a _ t).takeFree.2) rfl id).judgeVector _ _).judgeSync _ _).agreePair
    _ _ _).modAxis _).modPath 0 _

theorem formWords (h : MeasuresAxis a s t) (p : Fin 2) : MeasuresAxis a s (formWords a p t) := (h.modPath p _).modPath p _

end MeasuresAxis

theorem measureAxis_measures (m spare : AxisSample) (a : Fin 64) (s : State) :
    MeasuresAxis a s (measureAxis m spare a s) := by
  unfold measureAxis
  dsimp only
  split
  · exact .refl a s
  · split
    · exact ((((MeasuresAxis.refl a s).measureSinCos m spare).modPath 1 _).formWords 0).formWords 1
    · exact ((((MeasuresAxis.refl a s).modPath 0 _).modPath 1 _).formWords 0).formWords 1

theorem measureAxis_unused {s : State} {a : Fin 64} (unused : (s.af.ax[a] : Axis).entry.mode = 0) (m spare : AxisSample) :
    measureAxis m spare a s = s := if_pos unused

/-! ## The position and the words of a counter (R175, R176, R180) -/

theorem path_formWords_ne (s : State) (a : Fin 64) {p o : Fin 2} (other : o ≠ p) :
    (formWords a p s).path a o = s.path a o := by
  unfold formWords
  rw [path_modPath_ne _ _ _ other, path_modPath_ne _ _ _ other]

/-- Forming the words moves SEQ on and leaves the position, which the first word shows. -/
theorem path_formWords (s : State) (a : Fin 64) (p : Fin 2) :
    ((formWords a p s).path a p).pos = (s.path a p).pos ∧ ((formWords a p s).path a p).begun = (s.path a p).begun ∧
    ((formWords a p s).path a p).seq = (s.path a p).seq + 1 ∧
    (((formWords a p s).path a p).words[(0 : Fin 8)] : Word) = (s.path a p).pos := by
  unfold formWords
  extract_lets t x c y sin0 fs status ampl
  have counted : t.path a p = { s.path a p with
      seq := (s.path a p).seq + 1, hist := ((s.path a p).pos :: (s.path a p).hist).take 33 } := path_modPath ..
  rw [path_modPath, counted]
  exact ⟨rfl, rfl, rfl, rfl⟩

/-- A counter that is neither held nor stopped latches its quadrant on its first instant and its count on a later one. -/
theorem Path.latchCounter_counting {y : Path} (free : y.held = false) (q : Nat) :
    (y.latchCounter q false).pos = (if y.begun then y.count else BitVec.ofNat 32 q) ∧
    (y.latchCounter q false).begun = true ∧ (y.latchCounter q false).seq = y.seq := by
  unfold latchCounter
  cases begun : y.begun
  · exact ⟨rfl, rfl, rfl⟩
  · rw [free]
    exact ⟨rfl, rfl, rfl⟩

/-- The latching of a counter on path `p` of an axis under INVERT `inv`. -/
def latchPath (inv : Bool) (a : Fin 64) (p : Fin 2) (s : State) : State :=
  s.modPath a p (fun y => y.latchCounter (quadOf inv y.quad) (s.countStopped a p))

/-- The measurement of an RS-422 axis ends with the words of path 1, latched by then. -/
theorem measureAxis_counters {s : State} {a : Fin 64} (counters : (s.af.ax[a] : Axis).entry.mode = 2) (free : s.LevelFree)
    (m spare : AxisSample) :
    ∃ t : State, measureAxis m spare a s = formWords a 1 t ∧
      t.path a 1 = (s.path a 1).latchCounter (quadOf (s.af.ax[a] : Axis).entry.invert (s.path a 1).quad) false := by
  let inv := (s.af.ax[a] : Axis).entry.invert
  have eq : measureAxis m spare a s = formWords a 1 (formWords a 0 (latchPath inv a 1 (latchPath inv a 0 s))) :=
    (if_neg (by rw [counters]; decide)).trans
      (congrArg (fun t => formWords a 1 (formWords a 0 (latchPath inv a 1 t))) (if_neg (by rw [counters]; decide)))
  have running : (latchPath inv a 0 s).countStopped a 1 = false :=
    State.LevelFree.countStopped (s := latchPath inv a 0 s) free a
  refine ⟨_, eq, ?_⟩
  rw [path_formWords_ne _ _ (by decide), latchPath, path_modPath, running, latchPath, path_modPath_ne _ _ _ (by decide)]

/-- Path 1 of an RS-422 axis after its measurement, while no LEVEL stands. -/
theorem path_measureAxis_counters {s : State} {a : Fin 64} (counters : (s.af.ax[a] : Axis).entry.mode = 2)
    (counting : (s.path a 1).held = false) (free : s.LevelFree) (m spare : AxisSample) :
    ((measureAxis m spare a s).path a 1).pos = (if (s.path a 1).begun then (s.path a 1).count
      else BitVec.ofNat 32 (quadOf (s.af.ax[a] : Axis).entry.invert (s.path a 1).quad)) ∧
    ((measureAxis m spare a s).path a 1).begun = true ∧
    ((measureAxis m spare a s).path a 1).seq = (s.path a 1).seq + 1 ∧
    (((measureAxis m spare a s).path a 1).words[(0 : Fin 8)] : Word) = ((measureAxis m spare a s).path a 1).pos := by
  obtain ⟨t, eq, latched⟩ := measureAxis_counters counters free m spare
  obtain ⟨pos, begun, seq, word⟩ := path_formWords t a 1
  obtain ⟨pos', begun', seq'⟩ := Path.latchCounter_counting counting
    (quadOf (s.af.ax[a] : Axis).entry.invert (s.path a 1).quad)
  rw [latched] at pos begun seq word
  rw [eq]
  exact ⟨pos.trans pos', begun.trans begun', seq.trans (congrArg (· + 1) seq'), word.trans pos.symm⟩

/-! ## The instant of a quarter, and of all four (R171) -/

/-- The measurement of axis `a` with the samples of an instant. -/
def measureOne (smp spare : List AxisSample) (q : Fin 4) (s : State) (a : Fin 64) : State :=
  measureAxis ((smp[a.val]?).getD default) ((spare[q.val]?).getD default) a s

/-- A quarter whose instant completes, before its axes are measured. -/
def markInstant (q : Fin 4) (s : State) : State :=
  (afAbsent 1 1 q.val s).modAf
    (fun f => { f with q := upd f.q q (fun x => { x with meas := true, measAt := s.tb.now, fresh := true }) })

/-- The instant of a quarter. -/
def measureQuarter (done : BitVec 4) (smp spare : List AxisSample) (s : State) (q : Fin 4) : State :=
  if !done.getLsbD q.val then s else (axesOf q).foldl (measureOne smp spare q) (markInstant q s)

theorem exec_measurementInstant_due {s : State} (clock : s.pcr.clk.tb = true) (tick : s.tb.now.toNat % 320 = 0)
    (done : BitVec 4) (smp spare : List AxisSample) :
    exec (.measurementInstant done smp spare) s = .next ((fins 4).foldl (measureQuarter done smp spare) s) :=
  congrArg Host.Outcome.next (if_neg (by simp [clock, tick]))

theorem exec_measurementInstant_idle {s : State} (idle : s.pcr.clk.tb = false ∨ s.tb.now.toNat % 320 ≠ 0)
    (done : BitVec 4) (smp spare : List AxisSample) : exec (.measurementInstant done smp spare) s = .next s :=
  congrArg Host.Outcome.next (if_pos (by simpa using idle))

/-- What every step of the instant keeps: TB_NOW, and a record free of LEVEL. -/
structure KeepsInstant (s t : State) : Prop where
  tb : t.tb = s.tb
  levelFree : s.LevelFree → t.LevelFree

theorem KeepsInstant.refl (s : State) : KeepsInstant s s := ⟨rfl, id⟩

theorem KeepsInstant.measureOne {s t : State} (h : KeepsInstant s t) (smp spare : List AxisSample) (q : Fin 4) (a : Fin 64) :
    KeepsInstant s (measureOne smp spare q t a) :=
  ⟨((measureAxis_only ..).tb.resolve_left (by decide)).trans h.tb, (measureAxis_measures _ _ a t).levelFree ∘ h.levelFree⟩

theorem KeepsInstant.markInstant {s t : State} (h : KeepsInstant s t) (q : Fin 4) : KeepsInstant s (markInstant q t) :=
  ⟨h.tb, fun free => (h.levelFree free).afAbsent 1 1 q.val⟩

theorem KeepsInstant.measureQuarter {s t : State} (h : KeepsInstant s t) (done : BitVec 4) (smp spare : List AxisSample)
    (q : Fin 4) : KeepsInstant s (measureQuarter done smp spare t q) := by
  unfold Machine.measureQuarter
  split
  · exact h
  · exact List.foldlRecOn _ _ (h.markInstant q) fun t kept a _ => kept.measureOne smp spare q a

/-- A quarter with its axes, as the passes over the quarters see them. -/
def State.quarterView (s : State) (q : Fin 4) : AfQuarter × ({a : Fin 64 // quarterOfAxis a.val = q} → Axis) :=
  (s.af.q[q], fun a => s.af.ax[a.val])

theorem measureOne_alone (smp spare : List AxisSample) (q : Fin 4) (s : State) (a b : Fin 64) (other : b ≠ a) :
    (measureOne smp spare q s a).af.ax[b] = s.af.ax[b] := (measureAxis_measures _ _ a s).others b other

theorem measureQuarter_alone (done : BitVec 4) (smp spare : List AxisSample) (s : State) (q r : Fin 4) (other : r ≠ q) :
    (measureQuarter done smp spare s q).quarterView r = s.quarterView r := by
  unfold measureQuarter
  split
  · rfl
  · refine Prod.ext ?_ (funext fun a => ?_)
    · refine List.foldlRecOn _ _ (motive := fun t : State => t.af.q[r] = s.af.q[r]) (upd_get_ne _ _ other) fun t kept a mem => ?_
      exact ((measureAxis_measures _ _ a t).quarters r (mem_axesOf.mp mem ▸ other)).trans kept
    · exact ax_foldl_axesOf_ne (measureOne_alone smp spare q) (fun own => other (a.property.symm.trans own)) (markInstant q s)

/-- The quarter whose instant completes is marked measured. -/
theorem measureQuarter_instant {done : BitVec 4} {q : Fin 4} (completes : done.getLsbD q.val = true)
    (smp spare : List AxisSample) (s : State) :
    ((measureQuarter done smp spare s q).af.q[q] : AfQuarter).instant = (true, s.tb.now, true) := by
  unfold measureQuarter
  rw [completes]
  refine List.foldlRecOn _ _ (motive := fun t : State => (t.af.q[q] : AfQuarter).instant = (true, s.tb.now, true))
    (congrArg AfQuarter.instant (upd_get ..)) fun t kept a mem => ?_
  obtain rfl := mem_axesOf.mp mem
  exact (measureAxis_measures _ _ a t).quarter.trans kept

/-- Each axis of the quarter whose instant completes is measured once. -/
theorem measureQuarter_axis {done : BitVec 4} {q : Fin 4} (completes : done.getLsbD q.val = true)
    (smp spare : List AxisSample) (s : State) {a : Fin 64} (own : quarterOfAxis a.val = q) :
    ∃ t, KeepsInstant s t ∧ t.af.ax[a] = s.af.ax[a] ∧
      (measureQuarter done smp spare s q).af.ax[a] = (measureOne smp spare q t a).af.ax[a] := by
  unfold measureQuarter
  rw [completes]
  exact ax_foldl_axesOf (measureOne_alone smp spare q) (fun _ a kept => kept.measureOne smp spare q a) own
    ((KeepsInstant.refl s).markInstant q)

theorem q_of_quarterView {s t : State} {q : Fin 4} (same : t.quarterView q = s.quarterView q) : t.af.q[q] = s.af.q[q] :=
  congrArg Prod.fst same

theorem ax_of_quarterView {s t : State} {q : Fin 4} (same : t.quarterView q = s.quarterView q) {a : Fin 64}
    (own : quarterOfAxis a.val = q) : t.af.ax[a] = s.af.ax[a] := congrFun (congrArg Prod.snd same) ⟨a, own⟩

/-- The pass over the quarters comes to each once. -/
theorem quarterView_instant (done : BitVec 4) (smp spare : List AxisSample) (s : State) (q : Fin 4) :
    ∃ t, KeepsInstant s t ∧ t.quarterView q = s.quarterView q ∧
      ((fins 4).foldl (measureQuarter done smp spare) s).quarterView q = (measureQuarter done smp spare t q).quarterView q :=
  foldl_once (view := State.quarterView) (measureQuarter_alone done smp spare) (fun _ q kept => kept.measureQuarter done smp spare q)
    (List.nodup_finRange 4) (List.mem_finRange q) (KeepsInstant.refl s)

theorem instant_of_completing {done : BitVec 4} {q : Fin 4} (completes : done.getLsbD q.val = true)
    (smp spare : List AxisSample) (s : State) :
    (((fins 4).foldl (measureQuarter done smp spare) s).af.q[q] : AfQuarter).instant = (true, s.tb.now, true) := by
  obtain ⟨t, kept, -, after⟩ := quarterView_instant done smp spare s q
  rw [q_of_quarterView after, measureQuarter_instant completes, kept.tb]

/-- An axis of a quarter whose instant completes is measured once. -/
theorem ax_of_completing {done : BitVec 4} {a : Fin 64} (completes : done.getLsbD (quarterOfAxis a.val).val = true)
    (smp spare : List AxisSample) (s : State) :
    ∃ t, KeepsInstant s t ∧ t.af.ax[a] = s.af.ax[a] ∧
      ((fins 4).foldl (measureQuarter done smp spare) s).af.ax[a] = (measureOne smp spare (quarterOfAxis a.val) t a).af.ax[a] := by
  obtain ⟨t, kept, before, after⟩ := quarterView_instant done smp spare s (quarterOfAxis a.val)
  obtain ⟨u, still, same, measured⟩ := measureQuarter_axis completes smp spare t rfl
  exact ⟨u, ⟨still.tb.trans kept.tb, still.levelFree ∘ kept.levelFree⟩, same.trans (ax_of_quarterView before rfl),
    (ax_of_quarterView after rfl).trans measured⟩

/-- A quarter whose instant does not complete stays, with its axes. -/
theorem quarterView_of_missing {done : BitVec 4} {q : Fin 4} (missing : done.getLsbD q.val = false)
    (smp spare : List AxisSample) (s : State) :
    ((fins 4).foldl (measureQuarter done smp spare) s).quarterView q = s.quarterView q := by
  obtain ⟨t, -, before, after⟩ := quarterView_instant done smp spare s q
  rw [after, measureQuarter, missing]
  exact before

theorem ax_of_unused {a : Fin 64} {s : State} (unused : (s.af.ax[a] : Axis).entry.mode = 0) (done : BitVec 4)
    (smp spare : List AxisSample) : ((fins 4).foldl (measureQuarter done smp spare) s).af.ax[a] = s.af.ax[a] := by
  cases completes : done.getLsbD (quarterOfAxis a.val).val with
  | false => exact ax_of_quarterView (quarterView_of_missing completes smp spare s) rfl
  | true =>
    obtain ⟨t, -, before, after⟩ := ax_of_completing completes smp spare s
    rw [after, measureOne, measureAxis_unused (before ▸ unused), before]

/-! ## The buffer swap (R178) -/

/-- A quarter whose words go to the distributor's side on this tick. -/
def markSwap (q : Fin 4) (s : State) : State :=
  s.modAf (fun f => { f with q := upd f.q q (fun x => { x with fresh := false, swapAt := some s.tb.now }) })

/-- The words of a path go to the distributor's side. -/
def Path.swapped (y : Path) : Path := { y with prev := y.buf, buf := y.words }

/-- The words of an axis go to the distributor's side. -/
def swapAxis (s : State) (a : Fin 64) : State := s.modAxis a (fun x => { x with path := x.path.map Path.swapped })

theorem swapAxis_alone (s : State) (a b : Fin 64) (other : b ≠ a) : (swapAxis s a).af.ax[b] = s.af.ax[b] :=
  ax_modAxis_ne _ _ other

theorem path_swapAxis (s : State) (a : Fin 64) (p : Fin 2) : (swapAxis s a).path a p = (s.path a p).swapped :=
  path_modAxis_map s a Path.swapped p

theorem exec_axisBufferSwap_due {s : State} {q : Fin 4} (fresh : (s.af.q[q] : AfQuarter).fresh = true)
    (due : 290 ≤ elapsed s.tb.now (s.af.q[q] : AfQuarter).measAt) :
    exec (.axisBufferSwap q) s = .next ((axesOf q).foldl swapAxis (markSwap q s)) :=
  congrArg Host.Outcome.next (if_pos ⟨fresh, due⟩)

/-! ## The statement -/

/-- Settles O39: the pass over the quarters comes to each quarter that completes and to each of its axes once, and the swap to
each axis of its quarter. -/
theorem measurementLatchesCounters : Obligations.MeasurementLatchesCounters := by
  refine ⟨fun s done smp spare a clock tick => ?_, fun s done smp spare idle => exec_measurementInstant_idle idle done smp spare,
    fun s q fresh due => ?_⟩
  · refine ⟨_, exec_measurementInstant_due clock tick done smp spare, fun q completes => ?_,
      fun q missing => q_of_quarterView (quarterView_of_missing missing smp spare s), fun completes counters counting clean => ?_,
      fun unused => ax_of_unused unused done smp spare⟩
    · simpa only [AfQuarter.instant, Prod.mk.injEq] using instant_of_completing completes smp spare s
    · have levelFree : s.LevelFree := fun i mem => absurd (clean ▸ mem) List.not_mem_nil
      obtain ⟨t, kept, before, after⟩ := ax_of_completing completes smp spare s
      have words := path_measureAxis_counters (before ▸ counters) (path_of_ax before 1 ▸ counting) (kept.levelFree levelFree)
        ((smp[a.val]?).getD default) ((spare[(quarterOfAxis a.val).val]?).getD default)
      rw [path_of_ax before 1, before] at words
      rw [path_of_ax after 1]
      exact words
  · obtain ⟨v, frame⟩ := foldl_axes (g := swapAxis) (fun _ _ => ⟨_, rfl⟩) (axesOf q) (markSwap q s)
    refine ⟨_, exec_axisBufferSwap_due fresh due, ?_, ?_, fun a p own => ?_, fun a other => ?_, ?_⟩
    · rw [frame]
      exact congrArg AfQuarter.fresh (upd_get ..)
    · rw [frame]
      exact congrArg AfQuarter.swapAt (upd_get ..)
    · obtain ⟨t, -, before, after⟩ := ax_foldl_axesOf (P := fun _ => True) swapAxis_alone (fun _ _ _ => trivial) own
        (s := markSwap q s) trivial
      have swapped := (path_of_ax after p).trans (path_swapAxis t a p)
      rw [path_of_ax before p] at swapped
      exact ⟨congrArg Path.buf swapped, congrArg Path.prev swapped⟩
    · exact ax_foldl_axesOf_ne swapAxis_alone other _
    · rw [frame]
      rfl

end Sys2Proof.Machine
end

section
/-!
PROOFS about LEVEL, ADC_CLOCK and the calibration passes: what each command makes of its axis or quarter, and what the end of a pass
leaves. They settle O40.
-/
namespace Sys2Proof.Machine

/-! ## LEVEL and its end (R185, R190) -/

/-- A path broken and held by LEVEL. -/
def Path.hold (now : Tick) (y : Path) : Path := { y.brk now with held := true }

/-- An axis whose paths LEVEL breaks and holds. -/
def holdAxis (a : Fin 64) (s : State) : State := s.modAxis a (fun x => { x with path := x.path.map (Path.hold s.tb.now) })

theorem path_level (s : State) (a : Fin 64) (p : Fin 2) :
    (abandonPass a (axisFault 2 a 2 (holdAxis a s))).path a p = (s.path a p).hold s.tb.now :=
  (path_axisFault ..).trans (path_modAxis_map s a (Path.hold s.tb.now) p)

theorem exec_level_due {s : State} {a : Fin 64} (used : (s.af.ax[a] : Axis).entry.mode ≠ 0)
    (absent : s.afPresent 2 4 a.val = false) :
    exec (.level a) s = .next (abandonPass a (axisFault 2 a 2 (holdAxis a s))) :=
  congrArg Host.Outcome.next (if_neg (not_or.mpr ⟨used, by simp [absent]⟩))

/-- Counting of a path resumes from the value nearest to the one held, unless its path interpolates or is stopped still. -/
def resumeCounter (c : AxisCfg) (a : Fin 64) (s : State) (p : Fin 2) : State :=
  if (c.mode = 1 ∧ p.val = 0) ∨ s.countStopped a p then s
  else s.modPath a p (fun y =>
    if y.held then (let v := nearestTo y.pos (quadOf c.invert y.quad) 4; { y with count := v, pos := v, held := false }) else y)

theorem exec_levelRestore_due {s : State} {a : Fin 64} (present : s.afPresent 2 4 a.val = true) :
    exec (.levelRestore a) s =
      .next ((fins 2).foldl (resumeCounter (s.af.ax[a] : Axis).entry a) (afAbsent 2 4 a.val s)) :=
  congrArg Host.Outcome.next (if_neg (by simp [present]))

theorem resumeCounter_axes (c : AxisCfg) (a : Fin 64) (s : State) (p : Fin 2) :
    ∃ v, resumeCounter c a s p = { s with af := { s.af with ax := v } } := by
  unfold resumeCounter
  split
  · exact ⟨_, rfl⟩
  · exact ⟨_, rfl⟩

theorem resumeCounter_alone (c : AxisCfg) {a b : Fin 64} (other : b ≠ a) (s : State) (p : Fin 2) :
    (resumeCounter c a s p).af.ax[b] = s.af.ax[b] := by
  unfold resumeCounter
  split
  · rfl
  · exact ax_modPath_ne _ _ _ other

/-! ## ADC_CLOCK (R190, R198) -/

/-- The break of a path on the loss of the ADC clock, which path 0 counts by. -/
def Path.clockLost (now : Tick) (p : Fin 2) (y : Path) : Path := { y.brk now with held := y.held || p.val == 0 }

/-- The break of a used axis on the loss of the ADC clock. -/
def breakAxis (s : State) (a : Fin 64) : State :=
  if (s.af.ax[a] : Axis).entry.mode = 0 then s
  else s.modAxis a (fun x => { x with path := vmapIdx x.path (Path.clockLost s.tb.now) })

theorem breakAxis_alone (s : State) (a b : Fin 64) (other : b ≠ a) : (breakAxis s a).af.ax[b] = s.af.ax[b] := by
  unfold breakAxis
  split
  · rfl
  · exact ax_modAxis_ne _ _ other

theorem path_breakAxis {s : State} {a : Fin 64} (used : (s.af.ax[a] : Axis).entry.mode ≠ 0) (p : Fin 2) :
    (breakAxis s a).path a p = (s.path a p).clockLost s.tb.now p := by
  unfold breakAxis
  rw [if_neg used]
  unfold State.path
  rw [ax_modAxis]
  exact vmapIdx_get ..

theorem breakAxis_axes (s : State) (a : Fin 64) : ∃ v, breakAxis s a = { s with af := { s.af with ax := v } } := by
  unfold breakAxis
  split
  · exact ⟨_, rfl⟩
  · exact ⟨_, rfl⟩

/-- A quarter that no longer measures. -/
def unmarkMeas (q : Fin 4) (s : State) : State :=
  s.modAf (fun f => { f with q := upd f.q q (fun x => { x with meas := false }) })

theorem exec_adcClock_due {s : State} {q : Fin 4} (started : s.dev ≠ .start) (configured : s.configured = true)
    (due : 960 ≤ elapsed s.tb.now (s.af.q[q] : AfQuarter).measAt) (absent : s.afPresent 1 1 q.val = false) :
    exec (.adcClock q) s = .next (afQuarterFault 1 q ((axesOf q).foldl breakAxis (unmarkMeas q s))) := by
  have runs : ¬ ((!s.configured) = true ∨ elapsed s.tb.now (s.af.q[q] : AfQuarter).measAt < 960 ∨
      s.afPresent 1 1 q.val = true) := by
    rw [configured, absent]
    simpa using due
  exact congrArg Host.Outcome.next ((if_neg started).trans (if_neg runs))

/-! ## The end of a calibration pass (R193, R194) -/

/-- A quarter whose pass `p` has ended, with its corrections where they are good. -/
def AfQuarter.passed (p : CalPass) (x : AfQuarter) : AfQuarter :=
  { x with pass := none, corr := vmapIdx x.corr (fun k c => if k.val = p.pair ∧ p.good then p.corr else c) }

theorem calEnd_af (q : Fin 4) (p : CalPass) (s : State) :
    (calEnd q p s).af =
      { s.af with calCnt := if p.good then satInc s.af.calCnt else s.af.calCnt, q := upd s.af.q q (AfQuarter.passed p) } := by
  unfold calEnd
  dsimp only
  split
  · rfl
  · split <;> rfl

/-- The end of a good pass: it is over, counted, and its pair has the corrections found. -/
theorem calEnd_good {p : CalPass} (good : p.good = true) (q : Fin 4) (s : State) :
    ((calEnd q p s).af.q[q] : AfQuarter) = (s.af.q[q] : AfQuarter).passed p ∧ (calEnd q p s).af.calCnt = satInc s.af.calCnt := by
  rw [calEnd_af]
  exact ⟨upd_get .., if_pos good⟩

theorem AfQuarter.passed_corr {p : CalPass} (good : p.good = true) {k : Fin 17} (own : k.val = p.pair) (x : AfQuarter) :
    ((x.passed p).corr[k] : Corr) = p.corr :=
  (vmapIdx_get ..).trans (if_pos ⟨own, good⟩)

/-! ## Passes and handovers (R193, R194) -/

/-- The corrections that the conversions of a pass give. -/
def foundCorr (x y z w : Int) : Corr := ⟨BitVec.ofInt 8 x, BitVec.ofInt 8 y, BitVec.ofInt 8 z, BitVec.ofInt 8 w⟩

/-- A pass of a pair begun with good corrections. -/
def goodPass (pair : Nat) (corr : Corr) : CalPass :=
  { pair := pair, taken := false, good := true, agree := 0, instants := 0, corr := corr }

/-- A quarter whose rotation begins the pass `p` on this tick. -/
def beginPass (q : Fin 4) (p : CalPass) (s : State) : State :=
  s.modAf (fun f => { f with
    q := upd f.q q (fun x => { x with next := (p.pair + 1) % 17, passAt := s.tb.now, pass := some p }) })

theorem beginPass_quarter (q : Fin 4) (p : CalPass) (s : State) :
    ((beginPass q p s).af.q[q] : AfQuarter) =
      { (s.af.q[q] : AfQuarter) with next := (p.pair + 1) % 17, passAt := s.tb.now, pass := some p } := upd_get ..

theorem exec_calibrationPass_due {s : State} {q : Fin 4} {x y z w : Int} (configured : s.configured = true)
    (idle : (s.af.q[q] : AfQuarter).pass = none) (due : 2000000 ≤ elapsed s.tb.now (s.af.q[q] : AfQuarter).passAt)
    (hx : x.natAbs ≤ 100) (hy : y.natAbs ≤ 100) (hz : z.natAbs ≤ 60) (hw : w.natAbs ≤ 60) :
    exec (.calibrationPass q x y z w) s = .next (
      if s.pairChecked q ((s.af.q[q] : AfQuarter).next % 17) then
        beginPass q (goodPass ((s.af.q[q] : AfQuarter).next % 17) (foundCorr x y z w)) s
      else calEnd q (goodPass ((s.af.q[q] : AfQuarter).next % 17) (foundCorr x y z w))
        (beginPass q (goodPass ((s.af.q[q] : AfQuarter).next % 17) (foundCorr x y z w)) s)) := by
  have good : (decide (x.natAbs ≤ 100) && decide (y.natAbs ≤ 100) && decide (z.natAbs ≤ 60) && decide (w.natAbs ≤ 60)) = true := by
    simp [hx, hy, hz, hw]
  have early : decide (elapsed s.now (s.af.q[q] : AfQuarter).passAt < 2000000) = false := decide_eq_false (Nat.not_lt.mpr due)
  show execCalibrationPass q x y z w s = _
  simp only [execCalibrationPass, configured, idle, early, good]
  rfl

theorem exec_calHandover_waits {s : State} {q : Fin 4} {p : CalPass} (pass : (s.af.q[q] : AfQuarter).pass = some p)
    (few : p.agree < 8) : exec (.calHandover q) s = .next s := by
  show execCalHandover q s = _
  simp only [execCalHandover, pass, if_pos few]

theorem exec_calHandover_takes {s : State} {q : Fin 4} {p : CalPass} (pass : (s.af.q[q] : AfQuarter).pass = some p)
    (good : p.good = true) (agreed : 8 ≤ p.agree) (serving : p.taken = false) :
    exec (.calHandover q) s = .next (s.modAf (fun f => { f with
      q := upd f.q q (fun x => { x with pass := some { p with taken := true, agree := 0, instants := 0 } }) })) := by
  show execCalHandover q s = _
  simp only [execCalHandover, pass, if_neg (Nat.not_lt.mpr agreed), serving, good]
  rfl

theorem exec_calHandover_ends {s : State} {q : Fin 4} {p : CalPass} (pass : (s.af.q[q] : AfQuarter).pass = some p)
    (agreed : 8 ≤ p.agree) (taken : p.taken = true) : exec (.calHandover q) s = .next (calEnd q p s) := by
  show execCalHandover q s = _
  simp only [execCalHandover, pass, if_neg (Nat.not_lt.mpr agreed), if_pos taken]

/-- A quarter whose pass has ended without an effect. -/
def dropPass (q : Fin 4) (s : State) : State :=
  s.modAf (fun f => { f with q := upd f.q q (fun x => { x with pass := none }) })

theorem calFail_used {q : Fin 4} {pair : Nat} {a : Fin 64} (serves : pairAxis q pair = some a) {s : State}
    (used : (s.af.ax[a] : Axis).entry.mode ≠ 0) : calFail q pair s = axisFault 7 a 0 s := by
  unfold calFail
  rw [serves]
  exact if_neg used

theorem exec_calHandoverTimeout_due {s : State} {q : Fin 4} {p : CalPass} {a : Fin 64}
    (pass : (s.af.q[q] : AfQuarter).pass = some p) (serves : pairAxis q p.pair = some a)
    (used : (s.af.ax[a] : Axis).entry.mode ≠ 0) (due : 64 ≤ p.instants) (few : p.agree < 8) :
    exec (.calHandoverTimeout q) s = .next (axisFault 7 a 0 (dropPass q s)) := by
  have ends : ¬ (p.instants < 64 ∨ 8 ≤ p.agree) := by omega
  have fails : calFail q p.pair (dropPass q s) = axisFault 7 a 0 (dropPass q s) := calFail_used serves used
  show execCalHandoverTimeout q s = _
  simp only [execCalHandoverTimeout, pass, if_neg ends]
  exact congrArg _ fails

theorem exec_calHandoverTimeout_waits {s : State} {q : Fin 4} {p : CalPass}
    (pass : (s.af.q[q] : AfQuarter).pass = some p) (early : p.instants < 64) :
    exec (.calHandoverTimeout q) s = .next s := by
  show execCalHandoverTimeout q s = _
  simp only [execCalHandoverTimeout, pass, if_pos (Or.inl early : p.instants < 64 ∨ 8 ≤ p.agree)]

/-! ## The statement -/

/-- Settles O40: LEVEL and ADC_CLOCK hold their paths and are recorded, and a pass ends with its corrections or with CAL. -/
theorem axisFaultsAndCalibration : Obligations.AxisFaultsAndCalibration := by
  refine ⟨?_, ?_, ?_, ?_, ?_, ?_⟩
  · intro s a used absent
    refine ⟨_, exec_level_due used absent, axisFault_uncleared .., axisFault_dev .., fun p => ?_, fun b other => ?_⟩
    · rw [path_level]
      exact ⟨rfl, rfl, rfl⟩
    · exact (congrArg (·.ax[b]) (axisFault_af ..)).trans (ax_modAxis_ne _ _ other)
  · intro s a present
    obtain ⟨v, frame⟩ := foldl_axes (resumeCounter_axes (s.af.ax[a] : Axis).entry a) (fins 2) (afAbsent 2 4 a.val s)
    refine ⟨_, exec_levelRestore_due present, ?_, fun b other => ?_, ?_⟩
    · rw [frame]
      exact afPresent_afAbsent 2 4 a.val s
    · exact List.foldlRecOn _ _ (motive := fun t : State => t.af.ax[b] = s.af.ax[b]) rfl fun t kept p _ =>
        (resumeCounter_alone _ other t p).trans kept
    · rw [frame]
      rfl
  · intro s q started configured due absent
    obtain ⟨v, frame⟩ := foldl_axes breakAxis_axes (axesOf q) (unmarkMeas q s)
    refine ⟨_, exec_adcClock_due started configured due absent, afQuarterFault_uncleared .., ?_, ?_, fun a own used => ?_,
      fun a other => ?_⟩
    · rw [afQuarterFault_af, frame]
      exact congrArg AfQuarter.meas (upd_get ..)
    · rw [afQuarterFault_dev, frame]
      rfl
    · obtain ⟨t, -, before, after⟩ := ax_foldl_axesOf (P := fun _ => True) breakAxis_alone (fun _ _ _ => trivial) own
        (s := unmarkMeas q s) trivial
      have broken := path_breakAxis (before ▸ used : (t.af.ax[a] : Axis).entry.mode ≠ 0) 0
      rw [path_of_ax (congrArg (·.ax[a]) (afQuarterFault_af ..)), path_of_ax after, broken, path_of_ax before]
      exact ⟨Bool.or_true _, rfl⟩
    · rw [afQuarterFault_af]
      exact ax_foldl_axesOf_ne breakAxis_alone other _
  · intro s q x y z w configured idle due hx hy hz hw
    have run := exec_calibrationPass_due configured idle due hx hy hz hw
    have begun := beginPass_quarter q (goodPass ((s.af.q[q] : AfQuarter).next % 17) (foundCorr x y z w)) s
    cases checked : s.pairChecked q ((s.af.q[q] : AfQuarter).next % 17) with
    | true =>
      rw [checked, if_pos rfl] at run
      refine ⟨_, run, ?_⟩
      rw [begun]
      exact ⟨rfl, rfl, fun unchecked => absurd unchecked (by decide), fun _ => ⟨rfl, rfl⟩⟩
    | false =>
      rw [checked, if_neg (by decide)] at run
      obtain ⟨quarter, count⟩ := calEnd_good (p := goodPass ((s.af.q[q] : AfQuarter).next % 17) (foundCorr x y z w)) rfl q
        (beginPass q (goodPass ((s.af.q[q] : AfQuarter).next % 17) (foundCorr x y z w)) s)
      refine ⟨_, run, ?_⟩
      rw [quarter, begun]
      exact ⟨rfl, rfl, fun _ => ⟨rfl, count, fun k own => AfQuarter.passed_corr rfl own _⟩,
        fun impossible => absurd impossible (by decide)⟩
  · intro s q p k pass good own
    refine ⟨exec_calHandover_waits pass, fun agreed serving => ?_, fun agreed taken => ?_⟩
    · exact ⟨_, exec_calHandover_takes pass good agreed serving, congrArg AfQuarter.pass (upd_get ..), rfl⟩
    · obtain ⟨quarter, count⟩ := calEnd_good good q s
      refine ⟨_, exec_calHandover_ends pass agreed taken, ?_⟩
      rw [quarter]
      exact ⟨rfl, AfQuarter.passed_corr good own _, count⟩
  · intro s q p a pass serves used
    refine ⟨fun due few => ?_, exec_calHandoverTimeout_waits pass⟩
    refine ⟨_, exec_calHandoverTimeout_due pass serves used due few, ?_⟩
    have quarter : ((dropPass q s).af.q[q] : AfQuarter) = { (s.af.q[q] : AfQuarter) with pass := none } := upd_get ..
    rw [axisFault_af, quarter]
    exact ⟨rfl, axisFault_uncleared .., rfl, axisFault_dev ..⟩

end Sys2Proof.Machine
end

section
/-!
PROOFS about the outputs: what a change of one output leaves of the others, and what a fault of OS leaves recorded and keeps. The
proofs about receivers, dark tests, static checks and the faults of loads use them.
-/
namespace Sys2Proof.Machine

/-! ## Causes that go absent (R257) -/

/-- An absent cause stays uncleared until its quiet timer ends. -/
@[simp] theorem uncleared_causeAbsent (b c : Block) (cause item other place : Nat) (s : State) :
    (causeAbsent b cause item s).uncleared c other place = s.uncleared c other place := by
  by_cases own : c = b
  · subst own
    simp only [State.uncleared, causeAbsent, frOf_modRec, List.any_map]
    congr 1
    funext x
    simp only [Function.comp_apply]
    split <;> rfl
  · rw [State.uncleared, causeAbsent, frOf_modRec_ne _ _ own]
    rfl

/-! ## A contained fault of OS (R225, R250) -/

/-- A contained fault of OS is no fault of a shared resource: it is recorded, and no status line turns bad. -/
theorem recordFault_os {f : FaultRep} (contained : f.cls = .contained) (block : f.block = .os) (s : State) :
    recordFault f s = recordCore f s := by
  have line : resourceOf f.block f.cause f.item = none := by simp [resourceOf, block]
  rw [recordFault, if_neg (show f.cls ≠ .corrected by simp [contained])]
  simp only [line]

/-- What recording a contained fault of OS leaves: it stands uncleared, and the device state and the inhibits are as before. -/
theorem recordFault_os_leaves {f : FaultRep} (contained : f.cls = .contained) (block : f.block = .os) (s : State) :
    (recordFault f s).uncleared .os f.cause f.item = true ∧ (recordFault f s).dev = s.dev ∧
    (recordFault f s).os.inhib = s.os.inhib := by
  rw [recordFault_os contained block]
  refine ⟨?_, recordCore_cont_f_dev contained, recordCore_contained_inhib contained s⟩
  rw [← block]
  exact recordCore_contained_uncleared contained s

/-- The same where the cause is over as soon as it is recorded. -/
theorem recordPulse_os_leaves {f : FaultRep} (contained : f.cls = .contained) (block : f.block = .os) (s : State) :
    (recordPulse f s).uncleared .os f.cause f.item = true ∧ (recordPulse f s).dev = s.dev ∧
    (recordPulse f s).os.inhib = s.os.inhib := by
  rw [recordPulse, uncleared_causeAbsent]
  exact recordFault_os_leaves contained block s

/-- The windows and checks of the quarters are no part of what a contained fault changes. -/
theorem recordCore_contained_quarters {f : FaultRep} (contained : f.cls = .contained) (s : State) :
    (recordCore f s).os.q = s.os.q := by
  have stays (b : Bool) : (if b = true then FaultClass.contained else f.cls) = .contained := by simp [contained]
  unfold recordCore
  simp only [stays]
  split
  · rfl
  · simp [markRearm]

/-- Recording a contained fault clears no other one. -/
theorem recordCore_contained_keeps {f : FaultRep} (contained : f.cls = .contained) {s : State} {cause item : Nat}
    (before : s.uncleared f.block cause item = true) : (recordCore f s).uncleared f.block cause item = true := by
  have stays (b : Bool) : (if b = true then FaultClass.contained else f.cls) = .contained := by simp [contained]
  unfold recordCore
  simp only [stays]
  split
  · rw [State.uncleared, frOf_modRec, redetect_any]
    exact before
  · rw [State.uncleared, frOf_scopeAborts_markRearm, logFault, logPush_insts, frOf_modRec]
    simp only [slotCause_insts, recordIn_insts, List.any_append, Bool.or_eq_true]
    exact .inl before

/-- A contained fault that was not uncleared before takes its outputs back until they are bowed anew (R226), and stands recorded
with its scope. -/
theorem recordCore_contained_fresh {f : FaultRep} (contained : f.cls = .contained) {s : State}
    (fresh : s.uncleared f.block f.cause f.item = false) :
    (recordCore f s).os = (markRearm f.scope f.item s).os ∧ ∃ i ∈ ((recordCore f s).frOf f.block).insts,
      i.cls = .contained ∧ i.scope = f.scope ∧ i.item = f.item := by
  have stays (b : Bool) : (if b = true then FaultClass.contained else f.cls) = .contained := by simp [contained]
  unfold recordCore
  simp only [stays]
  split
  · next again =>
    simp only [beq_self_eq_true, Bool.true_and, List.any_eq_true, Bool.and_eq_true] at again
    obtain ⟨i, mem, ⟨⟨cause, -⟩, item⟩, -⟩ := again
    exact absurd (show (i.cause == f.cause && i.item == f.item) = true by simp [cause, item]) (List.any_eq_false.mp fresh i mem)
  · refine ⟨by simp [markRearm], ?_⟩
    rw [frOf_scopeAborts_markRearm, logFault, logPush_insts, frOf_modRec]
    simp

theorem openByFault_of_mem {s : State} {b : Block} {i : FaultInst} {k : Nat} (mem : i ∈ (s.frOf b).insts)
    (contained : i.cls = .contained) (covers : scopeCovers i.scope i.item k = true) : s.openByFault k = true := by
  refine List.any_eq_true.mpr ⟨s.frOf b, ?_, List.any_eq_true.mpr ⟨i, mem, by simp [contained, covers]⟩⟩
  simp [State.frOf]

/-! ## The faults with the scope of one output -/

theorem isAux_of_le {k : Fin 144} (aux : 128 ≤ k.val) : isAux k.val = true := decide_eq_true aux

theorem isAux_of_lt {k : Fin 144} (sto : k.val < 128) : isAux k.val = false := decide_eq_false (Nat.not_le.mpr sto)

theorem outputFault_leaves (cause : Nat) (k : Fin 144) (d : Side) (s : State) :
    (outputFault cause k d s).uncleared .os cause k.val = true ∧ (outputFault cause k d s).dev = s.dev ∧
    (outputFault cause k d s).os.inhib = s.os.inhib := recordFault_os_leaves rfl rfl s

theorem outputFault_quarters (cause : Nat) (k : Fin 144) (d : Side) (s : State) : (outputFault cause k d s).os.q = s.os.q := by
  rw [outputFault, recordFault_os rfl rfl, recordCore_contained_quarters rfl]

theorem outputFault_keeps {s : State} {cause item : Nat} (before : s.uncleared .os cause item = true) (other : Nat) (k : Fin 144)
    (d : Side) : (outputFault other k d s).uncleared .os cause item = true := by
  rw [outputFault, recordFault_os rfl rfl]
  exact recordCore_contained_keeps rfl before

theorem outputPulse_leaves (cause : Nat) (k : Fin 144) (s : State) :
    (outputPulse cause k s).uncleared .os cause k.val = true ∧ (outputPulse cause k s).dev = s.dev ∧
    (outputPulse cause k s).os.inhib = s.os.inhib := by
  rw [outputPulse, uncleared_causeAbsent]
  exact outputFault_leaves cause k .a s

end Sys2Proof.Machine
end

section
/-!
PROOFS about the lines at a scan close: when a line stops, which command its output takes, and that the lines and the drivers of the
other die stay. They settle O28.
-/
namespace Sys2Proof.Machine

/-! ## One output at a close (R203, R206) -/

section
variable {c : Side} {go : Bool} {free : Word64} {s : State} {k : Fin 144} {o : Output} (whole : s.split = false)
include whole

theorem bowOutput_cmd : (bowOutput c go free s k o).cmd.get c =
    ((s.outputCfg k).enable && tru ((s.core c).peek c (0x400 + k.val))) := by
  unfold bowOutput
  simp only [whole, Bool.false_and, Bool.false_eq_true, if_false]
  split
  · exact Two.get_set ..
  · exact Two.get_set ..

theorem bowOutput_recv_other : (bowOutput c go free s k o).recv.get c.other = o.recv.get c.other := by
  unfold bowOutput
  simp only [whole, Bool.false_and, Bool.false_eq_true, if_false]
  split
  · exact Two.get_upd_other ..
  · exact Two.get_upd_other ..

/-- Where the drivers do not go, or the image does not command the output, its line is in the stop state. -/
theorem bowOutput_stops (stops : go = false ∨ tru ((s.core c).peek c (0x400 + k.val)) = false) :
    ((bowOutput c go free s k o).recv.get c).stopSince.isSome = true := by
  have still (rearm : Nat) :
      (go && ((s.outputCfg k).enable && tru ((s.core c).peek c (0x400 + k.val))) && rearm == 0) = false := by
    rcases stops with stops | stops <;> simp [stops]
  unfold bowOutput
  simp only [whole, Bool.false_and, Bool.false_eq_true, if_false, still, Two.get_upd]
  exact since_isSome ..

end

/-! ## The lines of a die at a close (R203, R206) -/

/-- The further scan of a core's drivers closes, and nothing inhibits them. -/
def State.driversDue (s : State) (c : Side) : Bool :=
  match s.os.freeFrom.get c with | some m => decide (m ≤ (s.core c).scan) && !s.inhibits c | none => false

/-- The drivers of a core are released where their further scan closes. -/
def releaseDrivers (c : Side) (s : State) : State :=
  if s.driversDue c then s.modOs (fun o => { o with inhib := o.inhib.set c false }) else s

/-- The core's rows let its drivers toggle their lines, and nothing inhibits them. -/
def State.driversGo (s : State) (c : Side) : Bool := tru ((s.core c).peek c 0x304) && !s.os.inhib.get c && !s.inhibits c

/-- Every line of the core's die toggles or stops. -/
def bowLines (c : Side) (s : State) : State :=
  s.takeFree.2.modOs (fun o => { o with out := vmapIdx o.out (bowOutput c (s.driversGo c) s.takeFree.1 s.takeFree.2) })

theorem bowLines_inhib (c : Side) (s : State) : (bowLines c s).os.inhib = s.os.inhib := by
  rw [bowLines, modOs_os]
  rfl

/-- The quarter's window is abandoned where its output is no longer commanded. -/
def endWindow (s : State) (q : Fin 4) : State :=
  let y : OsQuarter := s.os.q[q]
  match y.win with
  | some w =>
    let o : Output := s.os.out[w.out]
    if (o.cmd.a && o.cmd.b) || w.verdict.isSome then s else abandonDark w.out s
  | none => s

/-- The checks of a quarter no longer off end. -/
def endStatics (s : State) : State :=
  s.modOs (fun o => { o with q := vmapIdx o.q (fun q y => { y with static := y.static && s.quarterOff q 0 }) })

theorem bowClose_eq (c : Side) (s : State) :
    bowClose c s = endStatics ((fins 4).foldl endWindow (bowLines c (releaseDrivers c s))) := by
  unfold bowClose
  generalize fins 4 = qs
  rfl

theorem endWindow_keeps (s : State) (q : Fin 4) :
    (endWindow s q).os.out = s.os.out ∧ (endWindow s q).os.inhib = s.os.inhib := by
  unfold endWindow
  dsimp only
  split
  · split
    · exact ⟨rfl, rfl⟩
    · exact ⟨rfl, rfl⟩
  · exact ⟨rfl, rfl⟩

theorem foldl_endWindow_keeps (qs : List (Fin 4)) (s : State) :
    (qs.foldl endWindow s).os.out = s.os.out ∧ (qs.foldl endWindow s).os.inhib = s.os.inhib :=
  List.foldlRecOn qs endWindow (motive := fun t : State => t.os.out = s.os.out ∧ t.os.inhib = s.os.inhib) ⟨rfl, rfl⟩
    fun t ⟨out, inhib⟩ q _ => ⟨(endWindow_keeps t q).1.trans out, (endWindow_keeps t q).2.trans inhib⟩

theorem endStatics_keeps (s : State) : (endStatics s).os.out = s.os.out ∧ (endStatics s).os.inhib = s.os.inhib := ⟨rfl, rfl⟩

/-- The lines and the drivers after a close are those that the bowing of the released die leaves. -/
theorem bowClose_lines (c : Side) (s : State) : (bowClose c s).os.out = (bowLines c (releaseDrivers c s)).os.out ∧
    (bowClose c s).os.inhib = (releaseDrivers c s).os.inhib := by
  obtain ⟨out, inhib⟩ := foldl_endWindow_keeps (fins 4) (bowLines c (releaseDrivers c s))
  rw [bowClose_eq, (endStatics_keeps _).1, (endStatics_keeps _).2]
  exact ⟨out, inhib.trans (bowLines_inhib ..)⟩

theorem releaseDrivers_keeps (c : Side) (s : State) : (releaseDrivers c s).os.out = s.os.out ∧
    (releaseDrivers c s).os.inhib.get c.other = s.os.inhib.get c.other := by
  unfold releaseDrivers
  split
  · exact ⟨rfl, Two.get_set_other ..⟩
  · exact ⟨rfl, rfl⟩

theorem releaseDrivers_only (c : Side) (s : State) : Only 8192 s (releaseDrivers c s) := .ite (modOs_only ..) (.refl _ _)

/-- The state in which a close bows its outputs. -/
def State.bowing (s : State) (c : Side) : State := (releaseDrivers c s).takeFree.2

theorem bowing_only (c : Side) (s : State) : Only 532480 s (s.bowing c) :=
  takeFree_nx ((Only.refl _ _).step (releaseDrivers_only c s) rfl) rfl

/-- Each output after a close, and that inhibited drivers do not go. -/
theorem out_bowClose (c : Side) (s : State) (k : Fin 144) : ∃ go free,
    (bowClose c s).os.out[k] = bowOutput c go free (s.bowing c) k s.os.out[k] ∧
    ((bowClose c s).os.inhib.get c = true → go = false) := by
  obtain ⟨lines, inhib⟩ := bowClose_lines c s
  obtain ⟨out, -⟩ := releaseDrivers_keeps c s
  refine ⟨(releaseDrivers c s).driversGo c, (releaseDrivers c s).takeFree.1, ?_, fun inhibited => ?_⟩
  · rw [lines, ← out]
    exact vmapIdx_get ..
  · rw [inhib] at inhibited
    simp only [State.driversGo, inhibited, Bool.not_true, Bool.and_false, Bool.false_and]

theorem inhib_bowClose_other (c : Side) (s : State) : (bowClose c s).os.inhib.get c.other = s.os.inhib.get c.other := by
  rw [(bowClose_lines c s).2, (releaseDrivers_keeps c s).2]

/-! ## What a close leaves of a core's image and table (R42) -/

/-- What the refolding and the measurement leave of a core, the whole close leaves. -/
theorem afterClose_keeps (t : Table) (now u : Tick) (x : CoreSt) : (x.afterClose t now u).table = x.table ∧
    ∀ c a, (x.afterClose t now u).peek c a = x.peek c a := by
  simp only [CoreSt.afterClose, CoreSt.measured, CoreSt.refolded]
  split <;> exact ⟨rfl, fun _ _ => rfl⟩

section
variable {s : State} {c : Side} {tab : Table} {u : Tick}

theorem scanClosed_keeps (d : Side) : ((s.scanClosed c tab u).core d).table = (s.core d).table ∧
    ∀ a, ((s.scanClosed c tab u).core d).peek d a = (s.core d).peek d a := by
  rcases Side.eq_or_other c d with rfl | rfl
  · obtain ⟨table, peek⟩ := afterClose_keeps tab s.tb.now u (s.core d)
    have core : (s.scanClosed d tab u).core d = (s.core d).afterClose tab s.tb.now u :=
      (core_modCore ..).trans (congrArg _ (core_kerfSent d))
    rw [core]
    exact ⟨table, peek d⟩
  · have core : (s.scanClosed c tab u).core c.other = s.core c.other := (core_modCore_other ..).trans (core_kerfSent c.other)
    rw [core]
    exact ⟨rfl, fun _ => rfl⟩

theorem scanClosed_os : (s.scanClosed c tab u).os = s.os := (scanClosed_only ..).os.resolve_left (by decide)

/-- The configuration of the terminals follows the tables, the device state, the phase of a start and the first sample edge. -/
theorem outputCfg_of_same {t : State} (st : t.st = s.st) (dev : t.dev = s.dev) (pcr : t.pcr = s.pcr)
    (sample : t.ev.sampleAt = s.ev.sampleAt) (table : ∀ d, (t.core d).table = (s.core d).table) (k : Fin 144) :
    t.outputCfg k = s.outputCfg k := by
  have configured : t.configured = s.configured := by
    unfold State.configured
    rw [dev, pcr, sample]
  have owned : t.tableOf (quarterOfOutput k.val) = s.tableOf (quarterOfOutput k.val) := by
    unfold State.tableOf State.ownerOf State.split
    rw [table, st]
  unfold State.outputCfg
  rw [owned, configured]

/-- The state in which the close bows its outputs has their configuration and the core's image as they were. -/
theorem bowing_scanClosed (c : Side) (tab : Table) (u : Tick) (s : State) : ((s.scanClosed c tab u).bowing c).split = s.split ∧
    (∀ k, ((s.scanClosed c tab u).bowing c).outputCfg k = s.outputCfg k) ∧
    ∀ a, (((s.scanClosed c tab u).bowing c).core c).peek c a = (s.core c).peek c a := by
  have only := bowing_only c (s.scanClosed c tab u)
  have closed := scanClosed_only c tab u s
  have core (d : Side) : ((s.scanClosed c tab u).bowing c).core d = (s.scanClosed c tab u).core d :=
    core_of_ev (only.ev.resolve_left (by decide)) d
  have st : ((s.scanClosed c tab u).bowing c).st = s.st :=
    (only.st.resolve_left (by decide)).trans (closed.st.resolve_left (by decide))
  refine ⟨congrArg (fun x : St => x.lc == .split) st, outputCfg_of_same st ?_ ?_ ?_ fun d => ?_, fun a => ?_⟩
  · exact (only.dev.resolve_left (by decide)).trans (closed.dev.resolve_left (by decide))
  · exact (only.pcr.resolve_left (by decide)).trans (closed.pcr.resolve_left (by decide))
  · rw [only.ev.resolve_left (by decide), scanClosed_ev]
  · rw [core]
    exact (scanClosed_keeps d).1
  · rw [core]
    exact (scanClosed_keeps c).2 a

/-- The registers and the payload of a close leave the lines and the drivers. -/
theorem scanEnded_os (same : s.pl.differed = false) : (s.scanEnded c tab u).os = (bowClose c (s.scanClosed c tab u)).os :=
  ((scanEnded_payload same).os.resolve_left (by decide)).trans ((closeRegs_only ..).os.resolve_left (by decide))

end

/-! ## The statement -/

/-- Settles O28: the close is `scanEnded`, whose lines are those of `bowOutput`. -/
theorem closeStopsUncommandedLines : Obligations.CloseStopsUncommandedLines := by
  intro s c tab u k table close timed dev whole _ least most same held
  have stays : (s.scanEnded c tab u).dev = s.dev := (scanEnded_only same).dev.resolve_left (by decide)
  have ends : (s.scanEnded c tab u).closeEnd c = s.scanEnded c tab u :=
    closeEnd_of_nothing (by rwa [stays]) (scanEnded_launchHeld same held)
  obtain ⟨go, free, out, still⟩ := out_bowClose c (s.scanClosed c tab u) k
  obtain ⟨split, cfg, image⟩ := bowing_scanClosed c tab u s
  rw [scanClosed_os] at out
  rw [whole] at split
  refine ⟨_, (exec_scanClose_within table close timed whole least most).trans (congrArg _ ends), ?_⟩
  rw [scanEnded_os same, out, inhib_bowClose_other, scanClosed_os, bowOutput_cmd split, cfg, image]
  refine ⟨fun off => ?_, fun inhibited => ?_, rfl, bowOutput_recv_other split, rfl⟩
  · exact bowOutput_stops split (.inr ((congrArg tru (image _)).trans off))
  · exact bowOutput_stops split (.inl (still inhibited))

end Sys2Proof.Machine
end

section
/-!
PROOFS about the receivers of an output: when one opens, and when it closes its switch and the output is energised. They settle
O31.
-/
namespace Sys2Proof.Machine

/-! ## A receiver that opens (R204, R205, R207) -/

theorem out_openReceiver (k : Fin 144) (d : Side) (s : State) : (openReceiver k d s).os.out[k] =
    { (s.os.out[k] : Output).off with recv := (s.os.out[k] : Output).recv.upd d (Receiver.opens s.tb.now) } := upd_get ..

/-- An opened receiver counts its toggles anew and its output is off; nothing else changes but the dark window it abandons. -/
theorem openReceiver_opens (k : Fin 144) (d : Side) (s : State) :
    (((openReceiver k d s).os.out[k] : Output).recv.get d).closed = false ∧
    (((openReceiver k d s).os.out[k] : Output).recv.get d).toggles = 0 ∧
    ((openReceiver k d s).os.out[k] : Output).energisedAt = none ∧
    ((openReceiver k d s).os.out[k] : Output).recv.get d.other = (s.os.out[k] : Output).recv.get d.other ∧
    (∀ j, j ≠ k → (openReceiver k d s).os.out[j] = s.os.out[j]) ∧
    openReceiver k d s = { s with os := { s.os with out := (openReceiver k d s).os.out, q := (openReceiver k d s).os.q } } := by
  rw [out_openReceiver]
  exact ⟨congrArg Receiver.closed (Two.get_upd ..), congrArg Receiver.toggles (Two.get_upd ..), rfl, Two.get_upd_other ..,
    fun j other => upd_get_ne _ _ other, rfl⟩

theorem exec_bowStopState_due {s : State} {k : Fin 144} {d : Side} {u : Tick}
    (stopped : ((s.os.out[k] : Output).recv.get d).stopSince = some u)
    (due : (if 128 ≤ k.val then 50 else 1) ≤ elapsed s.tb.now u) :
    exec (.bowStopState k d) s = .next (openReceiver k d s) := by
  show execBowStopState k d s = _
  simp only [execBowStopState, stopped, isAux, decide_eq_true_eq]
  exact congrArg _ (if_pos due)

theorem exec_bowHoldTimeout_due {s : State} {k : Fin 144} {d : Side} {u : Tick}
    (toggled : ((s.os.out[k] : Output).recv.get d).toggledAt = some u) (due : 340 ≤ elapsed s.tb.now u) :
    exec (.bowHoldTimeout k d) s = .next (openReceiver k d s) := by
  show execBowHoldTimeout k d s = _
  simp only [execBowHoldTimeout, toggled]
  exact congrArg _ (if_pos due)

/-! ## A switch that closes (R205, R207, R209) -/

/-- The receiver closes its switch. -/
def closeSwitch (k : Fin 144) (d : Side) (s : State) : State :=
  s.modOut k (fun o => { o with recv := o.recv.upd d (fun r => { r with closed := true }) })

/-- The output is energised from the present tick, and its first dark test will open the A side (R213). -/
def energise (k : Fin 144) (s : State) : State :=
  s.modOut k (fun o => { o.off with energisedAt := some s.now, darkFrom := s.now, darkSide := .a })

/-- The switch closes, and the output is energised where the other one is closed and no fault holds the output open. -/
def switchCloses (k : Fin 144) (d : Side) (s : State) : State :=
  if ((s.os.out[k] : Output).recv.get d.other).closed = true ∧ (!s.openByFault k.val) = true then energise k (closeSwitch k d s)
  else closeSwitch k d s

theorem exec_switchClosed_due {s : State} {k : Fin 144} {d : Side} {u : Tick}
    (four : 4 ≤ ((s.os.out[k] : Output).recv.get d).toggles) (opened : ((s.os.out[k] : Output).recv.get d).closed = false)
    (bows : ((s.os.out[k] : Output).recv.get d).stopSince = none)
    (fourth : ((s.os.out[k] : Output).recv.get d).fourthAt = some u) (due : 30 ≤ elapsed s.tb.now u) :
    exec (.switchClosed k d) s = .next (switchCloses k d s) := by
  show execSwitchClosed k d s = _
  simp only [execSwitchClosed, fourth]
  refine congrArg _ (if_neg ?_)
  rintro (few | closed | stopped | early)
  · exact Nat.not_lt.mpr four few
  · exact absurd (opened.symm.trans closed) (by decide)
  · rw [bows] at stopped
    exact absurd stopped (by decide)
  · exact Nat.not_lt.mpr due (of_decide_eq_true early)

theorem exec_switchClosed_early {s : State} {k : Fin 144} {d : Side} {u : Tick}
    (fourth : ((s.os.out[k] : Output).recv.get d).fourthAt = some u) (early : elapsed s.tb.now u < 30) :
    exec (.switchClosed k d) s = .next s := by
  show execSwitchClosed k d s = _
  simp only [execSwitchClosed, fourth]
  exact congrArg _ (if_pos (.inr (.inr (.inr (decide_eq_true early)))))

theorem out_energise (k : Fin 144) (s : State) : (energise k s).os.out[k] =
    { (s.os.out[k] : Output).off with energisedAt := some s.tb.now, darkFrom := s.tb.now, darkSide := .a } := out_modOut ..

/-- The receivers after the close: the one closed, and the other as it was. -/
theorem recv_switchCloses (k : Fin 144) (d : Side) (s : State) : ((switchCloses k d s).os.out[k] : Output).recv =
    (s.os.out[k] : Output).recv.upd d (fun r => { r with closed := true }) := by
  have closes : ((closeSwitch k d s).os.out[k] : Output).recv =
      (s.os.out[k] : Output).recv.upd d (fun r => { r with closed := true }) := congrArg Output.recv (out_modOut ..)
  unfold switchCloses
  split
  · rw [out_energise]
    exact closes
  · exact closes

theorem switchCloses_frame (k : Fin 144) (d : Side) (s : State) : (∀ j, j ≠ k → (switchCloses k d s).os.out[j] = s.os.out[j]) ∧
    switchCloses k d s = { s with os := { s.os with out := (switchCloses k d s).os.out } } := by
  have closes (j : Fin 144) (other : j ≠ k) : (closeSwitch k d s).os.out[j] = s.os.out[j] := out_modOut_ne _ _ other
  unfold switchCloses
  split
  · exact ⟨fun j other => (out_modOut_ne _ _ other).trans (closes j other), rfl⟩
  · exact ⟨closes, rfl⟩

/-! ## The statement -/

/-- Settles O31: both ways of opening are `openReceiver`, and a close in its time is `switchCloses`. -/
theorem receiversOpenAndClose : Obligations.ReceiversOpenAndClose := by
  refine ⟨fun s k d u => ⟨fun stopped due => ?_, fun toggled due => ?_⟩, fun s k d u four opened bows fourth => ⟨fun due => ?_, ?_⟩⟩
  · exact ⟨_, exec_bowStopState_due stopped due, openReceiver_opens k d s⟩
  · exact ⟨_, exec_bowHoldTimeout_due toggled due, openReceiver_opens k d s⟩
  · obtain ⟨others, frame⟩ := switchCloses_frame k d s
    refine ⟨_, exec_switchClosed_due four opened bows fourth due, ?_, ?_, fun closed free => ?_, others, frame⟩
    · rw [recv_switchCloses, Two.get_upd]
    · rw [recv_switchCloses, Two.get_upd_other]
    · have both : switchCloses k d s = energise k (closeSwitch k d s) := if_pos ⟨closed, by rw [free]; rfl⟩
      rw [both, out_energise]
      exact ⟨rfl, rfl⟩
  · exact exec_switchClosed_early fourth

end Sys2Proof.Machine
end

section
/-!
PROOFS about the faults of outputs: the commands that judge a switch, a load, a quarter's auxiliary outputs and its temperature, and
what each leaves recorded. They settle O32.
-/
namespace Sys2Proof.Machine

/-! ## BOW_MISMATCH (R210) -/

/-- The report of a mismatch while no resource of the quarter is bad. -/
def mismatchReport (k : Fin 144) (d : Side) : FaultRep :=
  { block := .os, cause := 1, cls := .fatal, scope := 0, item := k.val, addr := k.val + 256 * d.num, init := 1 + d.num, acc := 6,
    quarter := some (quarterOfOutput k.val) }

theorem exec_bowMismatch_due {s : State} {k : Fin 144} {d : Side} {u : Tick} (on : s.switchOn k d = true)
    (off : ((s.os.out[k] : Output).recv.get d).offSince = some u) (due : 100 < elapsed s.tb.now u) (sound : s.bad = []) :
    exec (.bowMismatch k d) s = .next (recordCore (mismatchReport k d) s) := by
  have mismatch : s.bowMismatch k d = true := by
    simp only [State.bowMismatch, on, off, State.now, due, decide_true, Bool.and_self]
  have alone : badFor .os (some (quarterOfOutput k.val)) s = none := by simp [badFor, sound]
  have line : resourceOf .os 1 k.val = none := by simp [resourceOf]
  show execBowMismatch k d s = _
  simp only [execBowMismatch, mismatch, alone, if_true]
  simp [recordFault, line, mismatchReport]

/-- A fatal fault of a sound module in RUN: it stands uncleared and the module is in HOLD. -/
theorem recordCore_fatal_holds {f : FaultRep} {s : State} (fatal : f.cls = .fatal) (sound : s.bad = []) (run : s.dev = .run) :
    (recordCore f s).uncleared f.block f.cause f.item = true ∧ (recordCore f s).inHold := by
  obtain ⟨u, enters, -, uncleared⟩ := recordCore_fatal fatal sound (.inr (.inr run))
  rw [enters]
  exact ⟨(uncleared_of_insts (setDev_hold_insts u f.block) ..).trans uncleared, setDev_hold_inHold u⟩

/-! ## The loads of one output (R219, R225) -/

section
variable {s : State} {k : Fin 144}

theorem lasted_of {e f : Tick} {n : Nat} (energised : (s.os.out[k] : Output).energisedAt = some e)
    (since : elapsed s.tb.now f ≤ elapsed s.tb.now e) (time : n ≤ elapsed s.tb.now f) : s.lasted k n f = true := by
  simp only [State.lasted, energised, State.now, time, since, decide_true, Bool.and_self]

theorem exec_overload_due {f : Tick} (sto : k.val < 128) (on : s.outputOn k = true) (lasts : s.lasted k 10000 f = true) :
    exec (.overload k f) s = .next (outputPulse 5 k s) := by
  show execOverload k f s = _
  simp only [execOverload, isAux_of_lt sto, on, lasts]
  rfl

theorem isShort_of {iH iL : Nat} {f : Tick} (time : 1000 ≤ elapsed s.tb.now f)
    (short : (s.outputCfg k).iMax < iL ∧ (s.outputCfg k).load ≠ 2 ∨ iL + 50 < iH ∨ iH + 50 < iL) :
    s.isShort k iH iL f = true := by
  unfold State.isShort
  refine Bool.and_eq_true_iff.mpr ⟨decide_eq_true time, ?_⟩
  simp only [Bool.or_eq_true, Bool.and_eq_true, decide_eq_true_eq, bne_iff_ne]
  rcases short with ⟨above, steady⟩ | apart | apart
  · exact .inl (.inl ⟨above, .inl steady⟩)
  · exact .inl (.inr apart)
  · exact .inr apart

theorem exec_short_due {iH iL : Nat} {f : Tick} (aux : 128 ≤ k.val) (enabled : (s.outputCfg k).enable = true)
    (short : s.isShort k iH iL f = true) : exec (.short k iH iL f) s = .next (outputPulse 6 k s) := by
  show execShort k iH iL f s = _
  simp only [execShort, isAux_of_le aux, enabled, short]
  rfl

theorem exec_openLoad_due {iL : Nat} {f : Tick} (aux : 128 ≤ k.val) (on : s.outputOn k = true) (below : iL < (s.outputCfg k).iMin)
    (lasts : s.lasted k (openLoadTicks (s.outputCfg k).load) f = true) :
    exec (.openLoad k iL f) s = .next (outputPulse 8 k s) := by
  show execOpenLoad k iL f s = _
  simp only [execOpenLoad, isAux_of_le aux, on, below, lasts]
  rfl

theorem exec_noOutput_due {e : Tick} (on : s.outputOn k = true) (energised : (s.os.out[k] : Output).energisedAt = some e)
    (late : 2050 ≤ elapsed s.tb.now e) : exec (.noOutput k false false) s = .next (outputPulse 9 k s) := by
  show execNoOutput k false false s = _
  simp only [execNoOutput, on, energised, State.now, late]
  rfl

theorem exec_noOutput_present {hi lim : Bool} (present : hi = true ∨ lim = true) : exec (.noOutput k hi lim) s = .next s := by
  show execNoOutput k hi lim s = _
  refine congrArg _ (if_neg ?_)
  rcases present with rfl | rfl <;> simp

end

/-! ## The faults of a quarter (R220, R224) -/

/-- The report of AUX_SUM. -/
def auxSumReport (q : Fin 4) : FaultRep :=
  { block := .os, cause := 7, cls := .contained, scope := 6, item := q.val, addr := q.val, init := 0x20 + q.val, acc := 4,
    quarter := some q }

theorem exec_auxSum_due {s : State} {m : Nat} {f : Tick} (q : Fin 4) (configured : s.configured = true) (above : 2000 < m)
    (time : 100000 ≤ elapsed s.tb.now f) : exec (.auxSum q m f) s = .next (recordPulse (auxSumReport q) s) := by
  show execAuxSum q m f s = _
  simp only [execAuxSum, configured, above, State.now, time]
  rfl

/-- AUX_SUM covers the auxiliary outputs of its quarter. -/
theorem scopeCovers_aux {k : Fin 144} {q : Fin 4} (aux : 128 ≤ k.val) (own : quarterOfOutput k.val = q) :
    scopeCovers 6 q.val k.val = true := by simp [scopeCovers, aux, own]

theorem out_markRearm {scope item : Nat} {k : Fin 144} (covers : scopeCovers scope item k.val = true) (s : State) :
    ((markRearm scope item s).os.out[k] : Output).rearm = 1 := by
  have marked := vmapIdx_get s.os.out (fun k x => if scopeCovers scope item k.val then
    { x with rearm := 1, energisedAt := none, due := none, deferred := none, forced := false } else x) k
  rw [if_pos covers] at marked
  exact congrArg Output.rearm marked

/-- An absent cause holds its outputs open as a present one does. -/
theorem mem_causeAbsent {b : Block} {cause item : Nat} {s : State} {i : FaultInst} (mem : i ∈ (s.frOf b).insts) :
    ∃ j ∈ ((causeAbsent b cause item s).frOf b).insts, j.cls = i.cls ∧ j.scope = i.scope ∧ j.item = i.item := by
  rw [causeAbsent, frOf_modRec]
  refine ⟨_, List.mem_map_of_mem mem, ?_⟩
  split <;> exact ⟨rfl, rfl, rfl⟩

/-- A first AUX_SUM opens every output it covers, which has then to be bowed anew (R226). -/
theorem auxSum_opens {s : State} {q : Fin 4} (fresh : s.uncleared .os 7 q.val = false) {k : Fin 144} (aux : 128 ≤ k.val)
    (own : quarterOfOutput k.val = q) :
    ((recordPulse (auxSumReport q) s).os.out[k] : Output).rearm = 1 ∧
    (recordPulse (auxSumReport q) s).openByFault k.val = true := by
  have covers := scopeCovers_aux aux own
  obtain ⟨os, i, mem, contained, scope, item⟩ := recordCore_contained_fresh (f := auxSumReport q) rfl fresh
  rw [recordPulse, recordFault_os (f := auxSumReport q) rfl rfl]
  constructor
  · rw [causeAbsent_f_os, os]
    exact out_markRearm covers s
  · obtain ⟨j, mem, cls, place, same⟩ := mem_causeAbsent (cause := 7) (item := q.val) mem
    exact openByFault_of_mem mem (cls.trans contained) (by rw [place, same, scope, item]; exact covers)

/-- The report of OVERTEMP. -/
def overtempReport (q : Fin 4) : FaultRep :=
  { block := .os, cause := 2, cls := .contained, scope := 1, item := q.val, addr := q.val, init := 0x20 + q.val, acc := 4,
    quarter := some q }

theorem exec_overtemp_due {s : State} {f : Tick} (q : Fin 4) (clocked : s.pcr.clk.tb = true)
    (time : 100000 ≤ elapsed s.tb.now f) : exec (.overtemp q f) s = .next (recordFault (overtempReport q) s) := by
  show execOvertemp q f s = _
  simp only [execOvertemp, clocked, State.now, time]
  rfl

/-! ## The statement -/

/-- Settles O32: each command records its fault, whose recording `recordFault_os_leaves` describes for OS, and a mismatch enters
HOLD. -/
theorem outputFaultsAreRecorded : Obligations.OutputFaultsAreRecorded := by
  refine ⟨?_, ?_, ?_, ?_, fun s k => ⟨?_, ?_⟩, ?_, ?_, ?_⟩
  · intro s k d u on off due sound run
    exact ⟨_, exec_bowMismatch_due on off due sound, recordCore_fatal_holds (f := mismatchReport k d) rfl sound run⟩
  · intro s k f e sto on energised since time
    exact ⟨_, exec_overload_due sto on (lasted_of energised since time), outputPulse_leaves 5 k s⟩
  · intro s k iH iL f aux enabled time short
    exact ⟨_, exec_short_due aux enabled (isShort_of time short), outputPulse_leaves 6 k s⟩
  · intro s k iL f e aux on energised since below time
    exact ⟨_, exec_openLoad_due aux on below (lasted_of energised since time), outputPulse_leaves 8 k s⟩
  · intro e on energised late
    exact ⟨_, exec_noOutput_due on energised late, outputPulse_leaves 9 k s⟩
  · intro hi lim
    exact exec_noOutput_present
  · intro s q m f configured above time fresh
    obtain ⟨uncleared, dev, inhib⟩ := recordPulse_os_leaves (f := auxSumReport q) rfl rfl s
    exact ⟨_, exec_auxSum_due q configured above time, uncleared, dev, inhib, fun k aux own => auxSum_opens fresh aux own⟩
  · intro s q f clocked time
    exact ⟨_, exec_overtemp_due q clocked time, recordFault_os_leaves (f := overtempReport q) rfl rfl s⟩
  · intro s q
    refine ⟨causeAbsent .os 2 q.val s, rfl, rfl, fun b other => frOf_modRec_ne _ _ other, ?_⟩
    rw [causeAbsent, frOf_modRec]
    rfl

end Sys2Proof.Machine
end

section
/-!
PROOFS about the dark tests: what the due time, the opening and the judgement of a window and the forcing of a test make of their
output and its quarter. They settle O33.
-/
namespace Sys2Proof.Machine

/-! ## A test falls due, and is forced (R213, R216) -/

/-- The output's test is due from the tick it has been due since, or from now, and deferred where its OUT row defers. -/
def Output.dueAt (now : Tick) (o : Output) : Output :=
  { o with due := match o.due with | some t => some t | none => some now
           darkFrom := now
           deferred := if o.defer then (match o.deferred with | some t => some t | none => some now) else none }

theorem exec_darkTestDue_due {s : State} {k : Fin 144} (enabled : (s.outputCfg k).enable = true) (tests : (s.outputCfg k).dark ≠ 0)
    (energised : (s.os.out[k] : Output).energisedAt.isSome = true) (run : s.dev = .run)
    (time : 100000 * (s.outputCfg k).darkInt ≤ elapsed s.tb.now (s.os.out[k] : Output).darkFrom) :
    exec (.darkTestDue k) s = .next (s.modOut k (Output.dueAt s.tb.now)) := by
  show execDarkTestDue k s = _
  refine congrArg _ (if_pos ?_)
  simp only [Bool.and_eq_true, decide_eq_true_eq, bne_iff_ne, beq_iff_eq]
  exact ⟨⟨⟨⟨enabled, tests⟩, energised⟩, run⟩, time⟩

theorem exec_darkForce_due {s : State} {k : Fin 144} {u v : Tick} (due : (s.os.out[k] : Output).due = some u)
    (deferred : (s.os.out[k] : Output).deferred = some v) (unforced : (s.os.out[k] : Output).forced = false)
    (time : 6000000000 ≤ elapsed s.tb.now v) :
    exec (.darkForce k) s = .next ((s.modOut k (fun o => { o with forced := true })).modOs
      (fun o => { o with forcedCnt := satInc o.forcedCnt })) := by
  show execDarkForce k s = _
  simp only [execDarkForce, due, deferred]
  exact congrArg _ (if_pos ⟨time, by rw [unforced]; rfl⟩)

/-! ## A window opens (R213, R214) -/

/-- The window that the output's due test opens. -/
def State.nextWin (s : State) (k : Fin 144) : DarkWin :=
  ⟨k, (s.os.out[k] : Output).darkSide, s.tb.now, 100 * (s.outputCfg k).dark, none⟩

/-- A window opens on the output, whose next test takes the other side. -/
def openDark (q : Fin 4) (k : Fin 144) (s : State) : State :=
  (s.modOut k (fun o => { o with due := none, deferred := none, forced := false, darkSide := o.darkSide.other })).modOs
    (fun o => { o with q := upd o.q q (fun x => { x with win := some (s.nextWin k) }) })

/-- A window of the quarter is open or unjudged. -/
def OsQuarter.busy (now : Tick) (y : OsQuarter) : Bool :=
  match y.win with | some w => w.verdict.isNone || w.isOpen now | none => false

/-- The last window of the quarter ended less than 50 µs ago. -/
def OsQuarter.resting (now : Tick) (y : OsQuarter) : Bool :=
  match y.winEnd with | some t => decide (elapsed now t < 5000) | none => false

theorem OsQuarter.not_busy {now : Tick} {y : OsQuarter}
    (idle : y.win = none ∨ ∃ w, y.win = some w ∧ w.verdict.isSome = true ∧ w.len ≤ elapsed now w.openAt) :
    y.busy now = false := by
  rcases idle with idle | ⟨w, win, judged, ended⟩
  · simp only [OsQuarter.busy, idle]
  · obtain ⟨verdict, judged⟩ := Option.isSome_iff_exists.mp judged
    simp only [OsQuarter.busy, win, judged, DarkWin.isOpen, Nat.not_lt.mpr ended, decide_false, Option.isNone_some, Bool.or_self]

theorem OsQuarter.not_resting {now : Tick} {y : OsQuarter}
    (rested : y.winEnd = none ∨ ∃ u, y.winEnd = some u ∧ 5000 ≤ elapsed now u) : y.resting now = false := by
  rcases rested with rested | ⟨u, last, rested⟩
  · simp only [OsQuarter.resting, rested]
  · simp only [OsQuarter.resting, last, Nat.not_lt.mpr rested, decide_false]

theorem exec_darkWindowStart_due {s : State} {q : Fin 4} {k : Fin 144} (idle : (s.os.q[q] : OsQuarter).busy s.tb.now = false)
    (rested : (s.os.q[q] : OsQuarter).resting s.tb.now = false) (run : s.dev = .run) (next : s.nextDark q = some k) :
    exec (.darkWindowStart q) s = .next (openDark q k s) := by
  have opens : ¬((s.os.q[q] : OsQuarter).busy s.tb.now || (s.os.q[q] : OsQuarter).resting s.tb.now || s.dev != .run) = true := by
    rw [idle, rested, run]
    decide
  refine congrArg _ ((if_neg opens).trans ?_)
  simp only [next]
  rfl

/-! ## A window is judged (R213) -/

/-- The window of the quarter keeps its verdict, and its end counts from its opening. -/
def judgeDark (q : Fin 4) (w : DarkWin) (ok : Bool) (s : State) : State :=
  s.modOs (fun o => { o with q := upd o.q q (fun x => { x with
    win := some { w with verdict := some ok }, winEnd := some (w.openAt + BitVec.ofNat 64 w.len) }) })

/-- A passed test is counted at its output and in OS_DARK_CNT. -/
def countDark (k : Fin 144) (s : State) : State :=
  (s.modOut k (fun o => { o with darkDone := o.darkDone + 1 })).modOs (fun o => { o with darkCnt := satInc o.darkCnt })

theorem exec_darkWindowEnd_due {s : State} {q : Fin 4} {w : DarkWin} {hi lo hLow : Bool} {iL : Nat}
    (win : (s.os.q[q] : OsQuarter).win = some w) (unjudged : w.verdict = none) (last : w.len ≤ elapsed s.tb.now w.openAt + 1) :
    exec (.darkWindowEnd q hi lo hLow iL) s = .next (
      if darkPasses (isAux w.out.val) w.side hi lo hLow iL then
        countDark w.out (judgeDark q w (darkPasses (isAux w.out.val) w.side hi lo hLow iL) s)
      else outputFault 3 w.out w.side (judgeDark q w (darkPasses (isAux w.out.val) w.side hi lo hLow iL) s)) := by
  show execDarkWindowEnd q hi lo hLow iL s = _
  simp only [execDarkWindowEnd, win]
  refine congrArg _ (if_neg ?_)
  rw [unjudged]
  rintro (early | judged)
  · exact Nat.not_lt.mpr last early
  · exact absurd judged (by decide)

theorem q_judgeDark (q : Fin 4) (w : DarkWin) (ok : Bool) (s : State) : (judgeDark q w ok s).os.q[q] =
    { (s.os.q[q] : OsQuarter) with win := some { w with verdict := some ok },
                                   winEnd := some (w.openAt + BitVec.ofNat 64 w.len) } := upd_get ..

/-! ## The statement -/

/-- Settles O33: each command is one change of its output or its quarter, and a failed test is a fault of its output. -/
theorem darkTestsRun : Obligations.DarkTestsRun := by
  refine ⟨?_, ?_, ?_, ?_⟩
  · intro s k enabled tests energised run time fresh
    refine ⟨_, exec_darkTestDue_due enabled tests energised run time, ?_⟩
    rw [out_modOut, Output.dueAt, fresh]
    exact ⟨rfl, rfl, fun undeferred => if_neg (ne_true_of_eq_false undeferred), fun j other => out_modOut_ne _ _ other, rfl⟩
  · intro s q k run slot rest next
    refine ⟨_, exec_darkWindowStart_due (OsQuarter.not_busy slot) (OsQuarter.not_resting rest) run next, ?_⟩
    have window : (openDark q k s).os.q[q] = { (s.os.q[q] : OsQuarter) with win := some (s.nextWin k) } := upd_get ..
    have output : (openDark q k s).os.out[k] = { (s.os.out[k] : Output) with
      due := none, deferred := none, forced := false, darkSide := (s.os.out[k] : Output).darkSide.other } := out_modOut ..
    rw [window, output]
    exact ⟨rfl, rfl, rfl, rfl, fun j other => out_modOut_ne _ _ other, rfl⟩
  · rintro s q w hi lo hLow iL ok win unjudged last rfl
    refine ⟨_, exec_darkWindowEnd_due win unjudged last, ?_⟩
    generalize darkPasses (isAux w.out.val) w.side hi lo hLow iL = ok
    have judged := q_judgeDark q w ok s
    cases ok with
    | true =>
      rw [if_pos rfl]
      have window : (countDark w.out (judgeDark q w true s)).os.q[q] = _ := judged
      have output : (countDark w.out (judgeDark q w true s)).os.out[w.out] =
        { (s.os.out[w.out] : Output) with darkDone := (s.os.out[w.out] : Output).darkDone + 1 } := out_modOut ..
      rw [window, output]
      exact ⟨rfl, rfl, fun _ => ⟨rfl, rfl, rfl⟩, fun failed => absurd failed (by decide)⟩
    | false =>
      rw [if_neg (by decide)]
      obtain ⟨uncleared, dev, -⟩ := outputFault_leaves 3 w.out w.side (judgeDark q w false s)
      rw [outputFault_quarters, judged]
      exact ⟨rfl, rfl, fun passed => absurd passed (by decide), fun _ => ⟨uncleared, dev⟩⟩
  · intro s k u v due deferred unforced time
    refine ⟨_, exec_darkForce_due due deferred unforced time, ?_, rfl, fun j other => out_modOut_ne _ _ other, rfl⟩
    exact congrArg Output.forced (out_modOut ..)

end Sys2Proof.Machine
end

section
/-!
PROOFS about the static checks: what a changed read-back leaves of the rest, and the faults that its judgement leaves uncleared. They
settle O34.
-/
namespace Sys2Proof.Machine

/-! ## A read-back changes (R211, R215) -/

/-- Whether a quarter is off depends on the device state, the time, and the commands and receivers of the outputs. -/
theorem quarterOff_of_same {s t : State} (dev : t.dev = s.dev) (now : t.tb.now = s.tb.now)
    (cmd : ∀ j : Fin 144, (t.os.out[j] : Output).cmd = (s.os.out[j] : Output).cmd)
    (recv : ∀ j : Fin 144, (t.os.out[j] : Output).recv = (s.os.out[j] : Output).recv) (q : Fin 4) (n : Nat) :
    t.quarterOff q n = s.quarterOff q n := by
  unfold State.quarterOff State.commandedOff State.now
  rw [now, dev]
  simp only [cmd, recv]

/-- A change of one output that keeps its commands and receivers leaves the static checks on or off. -/
theorem staticOn_modOut {f : Output → Output} (k : Fin 144) (s : State) (cmd : ∀ o, (f o).cmd = o.cmd)
    (recv : ∀ o, (f o).recv = o.recv) : (s.modOut k f).staticOn k = s.staticOn k := by
  have kept {α : Type} (field : Output → α) (same : ∀ o, field (f o) = field o) (j : Fin 144) :
      field ((s.modOut k f).os.out[j] : Output) = field (s.os.out[j] : Output) := by
    by_cases own : j = k
    · subst own
      rw [out_modOut, same]
    · rw [out_modOut_ne _ _ own]
  have off := quarterOff_of_same (s := s) (t := s.modOut k f) rfl rfl (kept _ cmd) (kept _ recv) (quarterOfOutput k.val) 0
  simp only [State.staticOn, off]
  rfl

theorem staticOn_sense (k : Fin 144) (r : OutSense) (s : State) : (s.modOut k (Output.sense r)).staticOn k = s.staticOn k :=
  staticOn_modOut k s (fun _ => rfl) fun _ => rfl

theorem exec_residual_on {s : State} {k : Fin 144} {r : OutSense} (on : s.staticOn k = true) :
    exec (.residual k r) s = .next (judgeStatic k (s.modOut k (Output.sense r))) :=
  congrArg Host.Outcome.next (if_pos ((staticOn_sense k r s).trans on))

theorem exec_residual_off {s : State} {k : Fin 144} {r : OutSense} (off : s.staticOn k = false) (high : r.lo = false) :
    exec (.residual k r) s = .next (s.modOut k (Output.sense r)) := by
  have off : (s.modOut k (Output.sense r)).staticOn k = false := (staticOn_sense k r s).trans off
  show execResidual k r s = _
  simp only [execResidual, off, high, Bool.false_and, Bool.false_eq_true, if_false]

/-! ## The judgement (R215) -/

theorem uncleared_of_causePresent {s : State} {b : Block} {cause item : Nat} (present : s.causePresent b cause item = true) :
    s.uncleared b cause item = true := by
  obtain ⟨i, mem, holds⟩ := List.any_eq_true.mp present
  exact List.any_eq_true.mpr ⟨i, mem, (Bool.and_eq_true_iff.mp holds).1⟩

/-- A fault of the output is recorded unless its cause is present already. -/
def outputFaultOnce (cause : Nat) (k : Fin 144) (s : State) : State :=
  if s.causePresent .os cause k.val then s else outputFault cause k .a s

theorem outputFaultOnce_uncleared (cause : Nat) (k : Fin 144) (s : State) :
    (outputFaultOnce cause k s).uncleared .os cause k.val = true := by
  unfold outputFaultOnce
  split
  · next present => exact uncleared_of_causePresent present
  · exact (outputFault_leaves cause k .a s).1

/-- The first part of the judgement: a midpoint that is high while the output is off is a fault of its switch. -/
def judgeMidpoint (k : Fin 144) (s : State) : State :=
  if (s.os.out[k] : Output).hi && !s.outFault 3 k then outputFault 3 k .a s else s

/-- The second part: the terminal of an STO output, and the currents of an auxiliary one. -/
def judgeTerminal (k : Fin 144) (x : Output) (s : State) : State :=
  if isAux k.val then if x.current ≤ 20 ∧ x.currentH ≤ 20 then causeAbsent .os 6 k.val s else outputFaultOnce 6 k s
  else if x.lo then causeAbsent .os 4 k.val s
  else outputFaultOnce 4 k s

theorem judgeStatic_eq (k : Fin 144) (s : State) : judgeStatic k s = judgeTerminal k s.os.out[k] (judgeMidpoint k s) := rfl

theorem judgeMidpoint_uncleared {k : Fin 144} {s : State} (high : (s.os.out[k] : Output).hi = true)
    (sound : s.outFault 3 k = false) : (judgeMidpoint k s).uncleared .os 3 k.val = true := by
  rw [judgeMidpoint, if_pos (by rw [high, sound]; rfl)]
  exact (outputFault_leaves 3 k .a s).1

/-- The second part of the judgement clears no fault. -/
theorem judgeTerminal_keeps {s : State} {cause item : Nat} (before : s.uncleared .os cause item = true) (k : Fin 144) (x : Output) :
    (judgeTerminal k x s).uncleared .os cause item = true := by
  have once (other : Nat) : (outputFaultOnce other k s).uncleared .os cause item = true := by
    unfold outputFaultOnce
    split
    · exact before
    · exact outputFault_keeps before other k .a
  have absent (other : Nat) : (causeAbsent .os other k.val s).uncleared .os cause item = true :=
    (uncleared_causeAbsent ..).trans before
  unfold judgeTerminal
  split
  · split
    · exact absent 6
    · exact once 6
  · split
    · exact absent 4
    · exact once 4

theorem judgeStatic_switch {k : Fin 144} {s : State} (high : (s.os.out[k] : Output).hi = true) (sound : s.outFault 3 k = false) :
    (judgeStatic k s).uncleared .os 3 k.val = true :=
  judgeTerminal_keeps (judgeMidpoint_uncleared high sound) k s.os.out[k]

theorem judgeStatic_residual {k : Fin 144} {s : State} (sto : k.val < 128) (high : (s.os.out[k] : Output).lo = false) :
    (judgeStatic k s).uncleared .os 4 k.val = true := by
  rw [judgeStatic_eq, judgeTerminal, if_neg (ne_true_of_eq_false (isAux_of_lt sto)), if_neg (ne_true_of_eq_false high)]
  exact outputFaultOnce_uncleared ..

theorem judgeStatic_short {k : Fin 144} {s : State} (aux : 128 ≤ k.val)
    (above : 20 < (s.os.out[k] : Output).current ∨ 20 < (s.os.out[k] : Output).currentH) :
    (judgeStatic k s).uncleared .os 6 k.val = true := by
  rw [judgeStatic_eq, judgeTerminal, if_pos (isAux_of_le aux), if_neg (by omega)]
  exact outputFaultOnce_uncleared ..

theorem judgeStatic_dev (k : Fin 144) (s : State) : (judgeStatic k s).dev = s.dev :=
  (judgeStatic_only k s).dev.resolve_left (by decide)

/-- A judgement leaves the windows and the checks of the quarters. -/
theorem judgeStatic_quarters (k : Fin 144) (s : State) : (judgeStatic k s).os.q = s.os.q := by
  have once (cause : Nat) (t : State) : (outputFaultOnce cause k t).os.q = t.os.q := by
    unfold outputFaultOnce
    split
    · rfl
    · exact outputFault_quarters ..
  have terminal (x : Output) (t : State) : (judgeTerminal k x t).os.q = t.os.q := by
    unfold judgeTerminal
    split
    · split
      · rfl
      · exact once 6 t
    · split
      · rfl
      · exact once 4 t
  rw [judgeStatic_eq, terminal, judgeMidpoint]
  split
  · exact outputFault_quarters ..
  · rfl

theorem foldl_judgeStatic_keeps (ks : List (Fin 144)) (s : State) :
    (ks.foldl (fun s k => judgeStatic k s) s).dev = s.dev ∧ (ks.foldl (fun s k => judgeStatic k s) s).os.q = s.os.q :=
  List.foldlRecOn ks _ (motive := fun t : State => t.dev = s.dev ∧ t.os.q = s.os.q) ⟨rfl, rfl⟩ fun t ⟨dev, q⟩ k _ =>
    ⟨(judgeStatic_dev k t).trans dev, (judgeStatic_quarters k t).trans q⟩

/-! ## The checks begin (R215) -/

/-- The static checks of the quarter run. -/
def beginStatic (q : Fin 4) (s : State) : State :=
  s.modOs (fun o => { o with q := upd o.q q (fun x => { x with static := true }) })

/-- The checks of a quarter that is off begin; what else happens is the judgement of outputs already sampled. -/
theorem exec_staticCheckStart_off {s : State} {q : Fin 4} (off : s.quarterOff q 5000 = true) :
    ∃ t, exec (.staticCheckStart q) s = .next t ∧ t.dev = s.dev ∧ t.os.q = (beginStatic q s).os.q ∧
      (s.ev.sampleAt = none → t = beginStatic q s) := by
  refine ⟨_, congrArg Host.Outcome.next (if_pos off), ?_⟩
  dsimp only
  split
  · next sampled =>
    refine and_assoc.mp ⟨?_, fun unsampled => absurd (sampled.symm.trans unsampled) (by simp)⟩
    split
    · exact foldl_judgeStatic_keeps (outputsOf q) (beginStatic q s)
    · exact ⟨rfl, rfl⟩
  · exact ⟨rfl, rfl, fun _ => rfl⟩

/-! ## The statement -/

/-- Settles O34: the checks begin by `beginStatic`, and a read-back is sensed and then judged part by part. -/
theorem staticChecksJudgeReadBacks : Obligations.StaticChecksJudgeReadBacks := by
  refine ⟨?_, ?_, ?_⟩
  · intro s q off
    obtain ⟨t, run, dev, quarters, alone⟩ := exec_staticCheckStart_off off
    refine ⟨t, run, ?_, dev, fun p other => ?_, fun unsampled => ?_⟩
    · rw [quarters]
      exact congrArg OsQuarter.static (upd_get ..)
    · rw [quarters]
      exact upd_get_ne _ _ other
    · rw [alone unsampled]
      rfl
  · intro s k r on
    have sensed : (s.modOut k (Output.sense r)).os.out[k] = (s.os.out[k] : Output).sense r := out_modOut ..
    have dev : (judgeStatic k (s.modOut k (Output.sense r))).dev = s.dev := judgeStatic_dev ..
    refine ⟨fun _ sound high => ⟨_, exec_residual_on on, ?_, dev⟩, fun sto high => ⟨_, exec_residual_on on, ?_, dev⟩,
      fun aux above => ⟨_, exec_residual_on on, ?_, dev⟩⟩
    · exact judgeStatic_switch (by rw [sensed]; exact high) sound
    · exact judgeStatic_residual sto (by rw [sensed]; exact high)
    · exact judgeStatic_short aux (by rw [sensed]; exact above)
  · intro s k r idle high
    have off : s.staticOn k = false := by rw [State.staticOn, idle, Bool.false_and]
    refine ⟨_, exec_residual_off off high, ?_, fun j other => out_modOut_ne _ _ other, rfl⟩
    rw [out_modOut, ← high]
    rfl

end Sys2Proof.Machine
end

section
/-!
PROOFS about the recording of a fatal fault in any state of the module: what its class action keeps and what it stops.
-/
namespace Sys2Proof.Machine

/-! ## The class action of a fatal fault (R26, R206, R250) -/

/-- The drivers of both dies are inhibited and every line is in the stop state. -/
def State.restrained (s : State) : Prop := s.os.inhib = ⟨true, true⟩ ∧ s.linesStopped

theorem inhibitBoth_restrained (s : State) : (inhibitBoth s).restrained := ⟨inhibitBoth_inhib s, inhibitBoth_linesStopped s⟩

theorem restrained_of_os {s t : State} (h : t.os = s.os) (stopped : s.restrained) : t.restrained := by
  simpa only [State.restrained, State.linesStopped, h] using stopped

/-- What the class action of a fatal fault makes of a state: both dies restrained, with the uncleared faults and, but for KOK, the
comparator as they were. -/
structure ClassActed (s t : State) : Prop where
  restrained : t.restrained
  insts : ∀ b, (t.frOf b).insts = (s.frOf b).insts
  sc : ∃ k, t.sc = { s.sc with kok := k }

theorem ClassActed.of_eq {s u t : State} (h : ClassActed u t) (fr : u.fr = s.fr) (sc : u.sc = s.sc) : ClassActed s t :=
  ⟨h.restrained, fun b => (h.insts b).trans (by rw [frOf_of_fr fr]), by simpa only [sc] using h.sc⟩

theorem setDev_hold_sc (s : State) : (setDev .hold s).sc = s.sc := by
  unfold setDev
  simp

theorem setDev_hold_acts (s : State) : ClassActed s (setDev .hold s) := by
  obtain ⟨-, inhib, lines, -⟩ := setDev_hold_inHold s
  exact ⟨⟨inhib, lines⟩, setDev_hold_insts s, s.sc.kok, setDev_hold_sc s⟩

/-- The steps every change of the device state begins with. -/
def State.changing (new : DevState) (s : State) : State :=
  let t := logEvent 4 Block.st.id s.dev.code new.code (modeDrop s)
  cruiseInterrupt (backupState new { t with dev := new, devAt := some t.now })

theorem changing_sc (new : DevState) (s : State) : (s.changing new).sc = s.sc := by simp [State.changing]

theorem changing_insts (new : DevState) (s : State) (b : Block) : ((s.changing new).frOf b).insts = (s.frOf b).insts := by
  unfold State.changing
  rw [frOf_of_fr (cruiseInterrupt_f_fr.trans backupState_f_fr)]
  exact (logPush_insts _ _ b).trans (by rw [frOf_of_fr modeDrop_f_fr])

/-- The entry to IDLE restrains both dies and takes KOK back; of self-test it may begin cruise. -/
theorem setDev_idle (s : State) : ∃ f, setDev .idle s =
    ackCheck (((inhibitBoth (s.changing .idle)).modSc (fun c => { c with kok := false })).modSt f) := by
  by_cases start : s.dev = .start
  · exact ⟨_, congrArg ackCheck (if_pos start)⟩
  · exact ⟨id, congrArg ackCheck (if_neg start)⟩

theorem setDev_idle_acts (s : State) : ClassActed s (setDev .idle s) := by
  obtain ⟨f, idle⟩ := setDev_idle s
  refine ⟨restrained_of_os (s := inhibitBoth (s.changing .idle)) (by simp [idle]) (inhibitBoth_restrained _), fun b => ?_, false, ?_⟩
  · rw [← changing_insts .idle s b, frOf_of_fr (t := setDev .idle s) (s := s.changing .idle) (by simp [idle])]
  · simp [idle, changing_sc]

theorem enterHold_sc (s : State) : (enterHold s).sc = s.sc := by
  have sends (t : State) : Only 65536 t ((fins 4).foldl (fun s n => s.modPlPort n (fun p => { p with sends := [] })) t) :=
    Only.foldl _ _ (Only.refl _ _) (fun _ _ h => modPlPort_nx h rfl)
  unfold enterHold
  simp only [setDev_hold_sc, modDbg_sc, modPcr_sc, modHp_sc, (sends _).sc.resolve_left (by decide), modSt_sc, ackDrop_f_sc,
    abortBegun_f_sc]
  split <;> simp

theorem enterHold_acts (s : State) : ClassActed s (enterHold s) := by
  obtain ⟨u, hold, fr, -⟩ := enterHold_eq s
  obtain ⟨restrained, insts, -⟩ := setDev_hold_acts u
  rw [← hold] at restrained insts
  exact ⟨restrained, fun b => (insts b).trans (by rw [frOf_of_fr fr]), s.sc.kok, enterHold_sc s⟩

/-- The class action restrains both dies from every device state: it enters HOLD, passes from HALT to IDLE, or stays. -/
theorem fatalAction_acts (s : State) : ClassActed s (fatalAction s) := by
  unfold fatalAction
  dsimp only
  split
  · exact (enterHold_acts _).of_eq (by simp) (by simp)
  · exact (enterHold_acts _).of_eq (by simp) (by simp)
  · exact (enterHold_acts _).of_eq (by simp) (by simp)
  · exact (setDev_idle_acts _).of_eq (by simp) (by simp)
  all_goals exact ⟨inhibitBoth_restrained _, fun b => congrArg FaultRecord.insts (frOf_of_fr (by simp) b), s.sc.kok, by simp⟩

/-! ## A fatal fault recorded (R250, R257, R262) -/

/-- A fatal fault is recorded as a contained one where a resource it depends on was bad before this tick (R262), and otherwise ends
in its class action, with the fault in the record. -/
theorem recordCore_fatal_cases {f : FaultRep} (fatal : f.cls = .fatal) (s : State) :
    recordCore f s = recordCore { f with cls := .contained } s ∨
    ∃ e g, recordCore f s = fatalAction (logFault 1 e f.block (s.modRec f.block g)) ∧
      (g (s.frOf f.block)).insts.any (fun i => i.cause == f.cause && i.item == f.item) = true := by
  rcases bad : badFor f.block f.quarter s with _ | ⟨x, t⟩
  · right
    simp only [recordCore, bad, fatal]
    exact ⟨_, _, rfl, by simp⟩
  · by_cases now : t = s.now
    · right
      subst now
      simp only [recordCore, bad, fatal, bne_self_eq_false, Bool.false_eq_true, if_false]
      exact ⟨_, _, rfl, by simp⟩
    · left
      simp only [recordCore, bad, bne_iff_ne.mpr now]
      rfl

/-- What the recording of a fatal fault leaves in whatever state and class it is taken: the fault stands uncleared, of the
comparator KOK alone may change, and no die that was inhibited and no line that was stopped is set free. -/
structure FatalTaken (f : FaultRep) (s t : State) : Prop where
  uncleared : t.uncleared f.block f.cause f.item = true
  sc : ∃ k, t.sc = { s.sc with kok := k }
  inhib : ∀ d, s.os.inhib.get d = true → t.os.inhib.get d = true
  restrained : s.restrained → t.restrained

theorem markRearm_lines {scope item : Nat} {s : State} (stopped : s.linesStopped) : (markRearm scope item s).linesStopped := by
  intro k d
  have mark := vmapIdx_get s.os.out (fun k x => if scopeCovers scope item k.val then
    { x with rearm := 1, energisedAt := none, due := none, deferred := none, forced := false } else x) k
  have recv : ((markRearm scope item s).os.out[k] : Output).recv = (s.os.out[k] : Output).recv := by
    refine (congrArg Output.recv mark).trans ?_
    split <;> rfl
  rw [recv]
  exact stopped k d

theorem recordCore_contained_lines {f : FaultRep} (contained : f.cls = .contained) {s : State} (stopped : s.linesStopped) :
    (recordCore f s).linesStopped := by
  have os : (recordCore f s).os = s.os ∨ (recordCore f s).os = (markRearm f.scope f.item s).os := by
    have stays (b : Bool) : (if b = true then FaultClass.contained else f.cls) = .contained := by simp [contained]
    unfold recordCore
    simp only [stays]
    split
    · exact .inl rfl
    · exact .inr (by simp [markRearm])
  rcases os with os | os
  · simpa only [State.linesStopped, os] using stopped
  · simpa only [State.linesStopped, os] using markRearm_lines stopped

theorem recordCore_fatal_taken {f : FaultRep} (fatal : f.cls = .fatal) (s : State) : FatalTaken f s (recordCore f s) := by
  rcases recordCore_fatal_cases fatal s with eq | ⟨e, g, eq, any⟩
  · have inhib := recordCore_contained_inhib (f := { f with cls := .contained }) rfl s
    rw [eq]
    exact ⟨recordCore_contained_uncleared (f := { f with cls := .contained }) rfl s, ⟨s.sc.kok, recordCore_cont_f_sc rfl⟩,
      fun d on => by rw [inhib, on], fun ⟨both, lines⟩ => ⟨inhib.trans both, recordCore_contained_lines rfl lines⟩⟩
  · obtain ⟨⟨inhib, lines⟩, insts, k, sc⟩ := fatalAction_acts (logFault 1 e f.block (s.modRec f.block g))
    rw [← eq] at inhib lines insts sc
    refine ⟨?_, ⟨k, by simpa using sc⟩, fun d _ => ?_, fun _ => ⟨inhib, lines⟩⟩
    · rw [State.uncleared, insts, logFault, logPush_insts, frOf_modRec]
      exact any
    · rw [inhib]
      cases d <;> rfl

/-! ## A fatal fault of SC (R267, R268) -/

theorem recordFault_sc_fatal {f : FaultRep} (fatal : f.cls = .fatal) (block : f.block = .sc) (s : State) :
    FatalTaken f s (recordFault f s) := by
  have line : resourceOf f.block f.cause f.item = none := by simp [resourceOf, block]
  have eq : recordFault f s = recordCore f s := by
    rw [recordFault, if_neg (show f.cls ≠ .corrected by simp [fatal])]
    simp only [line]
  exact eq ▸ recordCore_fatal_taken fatal s

end Sys2Proof.Machine
end

section
/-!
PROOFS about the comparison of kerf signatures: what a half makes of a signature that reaches it and of one it has held too long.
They settle O29.
-/
namespace Sys2Proof.Machine

/-! ## A fatal fault about a kerf (R268) -/

/-- The report of a fault of SC about a kerf. -/
def kerfReport (cause init acc kerf : Nat) : FaultRep :=
  { block := .sc, cause := cause, cls := .fatal, scope := 0, item := 0, addr := kerf % 2 ^ 32, init := init, acc := acc }

theorem scFatal_taken (cause init acc kerf : Nat) (s : State) :
    FatalTaken (kerfReport cause init acc kerf) s (scFatal cause init acc kerf s) := recordFault_sc_fatal rfl rfl s

theorem scFatal_uncleared (cause init acc kerf : Nat) (s : State) : (scFatal cause init acc kerf s).uncleared .sc cause 0 = true :=
  (scFatal_taken cause init acc kerf s).uncleared

/-! ## The verdict of a half (R244 to R246) -/

/-- A half that has judged kerf `m`. -/
def ScHalf.judged (m : Nat) (matched : Bool) (x : ScHalf) : ScHalf :=
  { x with heldA := x.heldA.filter (fun e => e.1 != m), heldB := x.heldB.filter (fun e => e.1 != m),
           mis := x.mis || !matched, verdicts := x.verdicts ++ [(m, matched)] }

/-- The half has its verdict; SC-A also shows the kerf in SC's registers and announces it as an event. -/
def State.kerfJudged (s : State) (h : Side) (m : Nat) (a b : Word64) (ta tb : Tick) : State :=
  let t := s.modSc (fun c => { c with half := c.half.upd h (ScHalf.judged m (a == b)) })
  if h = .a then tbEvent 0xB1 t.now (t.modSc (scShow a b (min (elapsed ta tb) (elapsed tb ta)) (a == b))) else t

theorem judgeKerf_eq (h : Side) (m : Nat) (a b : Word64) (ta tb : Tick) (s : State) : judgeKerf h m a b ta tb s =
    exchangeVerdict m (if (a == b) = true then s.kerfJudged h m a b ta tb
      else scFatal 4 (dieInit h) 8 m (inhibitSide h (s.kerfJudged h m a b ta tb))) := rfl

theorem scShow_keeps (a b : Word64) (skew : Nat) (matched : Bool) (x : Sc) :
    (scShow a b skew matched x).half = x.half ∧ (scShow a b skew matched x).flight = x.flight := by
  unfold scShow
  split <;> exact ⟨rfl, rfl⟩

section
variable (s : State) (h : Side) (m : Nat) (a b : Word64) (ta tb : Tick)

theorem kerfJudged_sc : (s.kerfJudged h m a b ta tb).sc.half = s.sc.half.upd h (ScHalf.judged m (a == b)) ∧
    (s.kerfJudged h m a b ta tb).sc.flight = s.sc.flight := by
  cases h
  · exact scShow_keeps ..
  · exact ⟨rfl, rfl⟩

theorem kerfJudged_keeps : (s.kerfJudged h m a b ta tb).fr = s.fr ∧ (s.kerfJudged h m a b ta tb).os = s.os ∧
    (s.kerfJudged h m a b ta tb).dev = s.dev := by cases h <;> exact ⟨rfl, rfl, rfl⟩

end

/-- A kerf found equal by SC-A counts and shows, unless a mismatch has frozen the registers (R267). -/
theorem kerfJudged_counts {s : State} (thawed : s.sc.frozen = false) (m : Nat) (a : Word64) (ta tb : Tick) :
    (s.kerfJudged .a m a a ta tb).sc.kok = true ∧ (s.kerfJudged .a m a a ta tb).sc.knum = s.sc.knum + 1 ∧
    (s.kerfJudged .a m a a ta tb).sc.sigA = a ∧ (s.kerfJudged .a m a a ta tb).sc.sigB = a := by
  simp [State.kerfJudged, scShow, thawed]

theorem inhibitSide_inhib (h : Side) (s : State) : (inhibitSide h s).os.inhib.get h = true := Two.get_set ..

/-- A verdict that the other half has not given yet is not exchanged. -/
theorem exchangeVerdict_waits {h : Side} {m : Nat} {s : State} (silent : ∀ v ∈ (s.sc.half.get h).verdicts, v.1 ≠ m) :
    exchangeVerdict m s = s := by
  have missing : ((s.sc.half.get h).verdicts.find? (fun v => v.1 == m)).map (·.2) = .none := by simpa using silent
  cases h
  · simp only [exchangeVerdict, missing]
  · simp only [exchangeVerdict, missing]
    split
    · next _ given => cases given
    · rfl

section
variable {s : State} {h : Side} {m : Nat} (first : ∀ v ∈ (s.sc.half.get h.other).verdicts, v.1 ≠ m) (ta tb : Tick)
include first

theorem judgeKerf_equal (a : Word64) : judgeKerf h m a a ta tb s = s.kerfJudged h m a a ta tb := by
  rw [judgeKerf_eq, if_pos (beq_self_eq_true a)]
  refine exchangeVerdict_waits (h := h.other) ?_
  rw [(kerfJudged_sc ..).1, Two.get_upd_other]
  exact first

theorem judgeKerf_unequal {a b : Word64} (differ : a ≠ b) : judgeKerf h m a b ta tb s =
    scFatal 4 (dieInit h) 8 m (inhibitSide h (s.kerfJudged h m a b ta tb)) := by
  obtain ⟨k, sc⟩ := (scFatal_taken 4 (dieInit h) 8 m (inhibitSide h (s.kerfJudged h m a b ta tb))).sc
  rw [judgeKerf_eq, if_neg (by simpa using differ)]
  refine exchangeVerdict_waits (h := h.other) ?_
  rw [sc, inhibitSide_f_sc]
  dsimp only
  rw [(kerfJudged_sc ..).1, Two.get_upd_other]
  exact first

end

/-! ## A signature that reaches a half (R243 to R245) -/

/-- The one signature on its way has arrived. -/
def State.landed (s : State) : State := s.modSc (fun x => { x with flight := [] })

/-- The half holds EB's signature beside EA's. -/
def State.kerfTaken (s : State) (h : Side) (m : Nat) (b : Word64) : State :=
  s.landed.modSc (fun x => { x with half := x.half.upd h (fun y => { y with heldB := y.heldB ++ [(m, b, s.now)] }) })

/-- A disturbance of one word alone leaves the two not complementary. -/
theorem not_complementary {sig hit : Word64} (changed : hit ≠ 0) : sig ^^^ hit ≠ ~~~(~~~sig ^^^ 0) := by
  intro same
  have unchanged : sig ^^^ hit = sig := same.trans ((congrArg (~~~ ·) BitVec.xor_zero).trans BitVec.not_not)
  have cancelled : hit = sig ^^^ (sig ^^^ hit) := by rw [← BitVec.xor_assoc, BitVec.xor_self, BitVec.zero_xor]
  exact changed (cancelled.trans ((congrArg (sig ^^^ ·) unchanged).trans BitVec.xor_self))

section
variable {s : State} {h c : Side} {m : Nat} {sig : Word64} (sent : s.comparesSent = true) (flight : s.sc.flight = [(h, c, m, sig)])

include flight in
theorem landed_of_flight :
    s.modSc (fun x => { x with flight := x.flight.eraseP (fun f => f.1 == h && f.2.1 == c) }) = s.landed := by
  simp [State.landed, State.modSc, flight]

include sent in
theorem landed_comparesSent : s.landed.comparesSent = true := sent

include sent flight

theorem exec_kerfSignature_disturbed {hit : Word64} (changed : hit ≠ 0) :
    exec (.kerfSignature h c hit 0) s = .next (scFatal 3 (coreInit c) 8 m s.landed) := by
  have found : s.sc.flight.find? (fun f => f.1 == h && f.2.1 == c) = some (h, c, m, sig) := by simp [flight]
  show execKerfSignature h c hit 0 s = _
  simp only [execKerfSignature, found, landed_of_flight flight, landed_comparesSent sent, if_pos (not_complementary changed)]
  rfl

end

/-- An undisturbed signature that reaches a half which holds the other core's is judged. -/
theorem exec_kerfSignature_second {s : State} {h : Side} {m : Nat} {a b : Word64} {u : Tick} (sent : s.comparesSent = true)
    (flight : s.sc.flight = [(h, .b, m, b)]) (heldA : (s.sc.half.get h).heldA = [(m, a, u)]) (heldB : (s.sc.half.get h).heldB = []) :
    exec (.kerfSignature h .b 0 0) s = .next (judgeKerf h m a b u s.now (s.kerfTaken h m b)) := by
  have found : s.sc.flight.find? (fun f => f.1 == h && f.2.1 == .b) = some (h, .b, m, b) := by simp [flight]
  have plain : b ^^^ 0 = b := BitVec.xor_zero
  have whole : b = ~~~(~~~b ^^^ 0) := by simp
  have half : (s.kerfTaken h m b).sc.half.get h = { s.sc.half.get h with heldB := [(m, b, s.now)] } := by
    simp [State.kerfTaken, State.landed, heldB]
  have foundA : ((s.kerfTaken h m b).sc.half.get h).heldA.find? (fun e => e.1 == m) = some (m, a, u) := by simp [half, heldA]
  have foundB : ((s.kerfTaken h m b).sc.half.get h).heldB.find? (fun e => e.1 == m) = some (m, b, s.now) := by simp [half]
  have now : s.landed.now = s.now := rfl
  show execKerfSignature h .b 0 0 s = _
  unfold State.kerfTaken at foundA foundB ⊢
  simp only [execKerfSignature, found, landed_of_flight flight, landed_comparesSent sent, plain, ← whole, now, foundA, foundB,
    Bool.not_true, Bool.false_eq_true, if_false, ne_eq, not_true]

theorem kerfTaken_first {s : State} {h : Side} {m : Nat} {b : Word64}
    (first : ∀ v ∈ (s.sc.half.get h.other).verdicts, v.1 ≠ m) :
    ∀ v ∈ ((s.kerfTaken h m b).sc.half.get h.other).verdicts, v.1 ≠ m := by
  simpa [State.kerfTaken, State.landed] using first

/-! ## A signature held too long (R247) -/

theorem exec_kerfLate_due {s : State} {h : Side} {m : Nat} {sig : Word64} {u : Tick} (compares : s.comparesNow = true)
    (held : (s.sc.half.get h).heldA = [(m, sig, u)] ∨ (s.sc.half.get h).heldB = [(m, sig, u)])
    (late : s.kerfLimit ≤ elapsed s.tb.now u) : ∃ init k, exec (.kerfLate h) s = .next (scFatal 5 init 6 k s) := by
  have found : [(m, sig, u)].find? (fun e : Nat × Word64 × Tick => decide (s.kerfLimit ≤ elapsed s.now e.2.2)) =
      some (m, sig, u) := List.find?_cons_of_pos (decide_eq_true late)
  show ∃ init k, execKerfLate h s = _
  simp only [execKerfLate, compares, Bool.not_true, Bool.false_eq_true, if_false]
  rcases held with heldA | heldB
  · simp only [heldA, found]
    exact ⟨_, _, rfl⟩
  · simp only [heldB, found]
    split
    · exact ⟨_, _, rfl⟩
    · exact ⟨_, _, rfl⟩
    · next missing => cases missing

/-! ## The statement -/

/-- EB's signature has reached the half, which held EA's since tick `u`, and the half has judged the kerf. -/
def State.kerfDecided (s : State) (h : Side) (m : Nat) (a b : Word64) (u : Tick) : State :=
  (s.kerfTaken h m b).kerfJudged h m a b u s.now

section
variable {s : State} {h : Side} {m : Nat} {a b : Word64} {u : Tick} (heldA : (s.sc.half.get h).heldA = [(m, a, u)])
  (heldB : (s.sc.half.get h).heldB = [])
include heldA heldB

theorem kerfDecided_sc : (s.kerfDecided h m a b u).sc.flight = [] ∧ ((s.kerfDecided h m a b u).sc.half.get h).heldA = [] ∧
    ((s.kerfDecided h m a b u).sc.half.get h).heldB = [] ∧
    ((s.kerfDecided h m a b u).sc.half.get h).mis = ((s.sc.half.get h).mis || !(a == b)) := by
  obtain ⟨half, flight⟩ := kerfJudged_sc (s.kerfTaken h m b) h m a b u s.now
  refine ⟨flight, ?_⟩
  rw [State.kerfDecided, half, Two.get_upd]
  simp [State.kerfTaken, State.landed, ScHalf.judged, heldA, heldB]

variable (sent : s.comparesSent = true) (flight : s.sc.flight = [(h, .b, m, b)])
  (first : ∀ v ∈ (s.sc.half.get h.other).verdicts, v.1 ≠ m)
include sent flight first

theorem exec_kerfSignature_equal (same : a = b) :
    exec (.kerfSignature h .b 0 0) s = .next (s.kerfDecided h m a b u) := by
  subst same
  rw [exec_kerfSignature_second sent flight heldA heldB, judgeKerf_equal (kerfTaken_first first)]
  rfl

theorem exec_kerfSignature_unequal (differ : a ≠ b) :
    exec (.kerfSignature h .b 0 0) s = .next (scFatal 4 (dieInit h) 8 m (inhibitSide h (s.kerfDecided h m a b u))) := by
  rw [exec_kerfSignature_second sent flight heldA heldB, judgeKerf_unequal (kerfTaken_first first) _ _ differ]
  rfl

end

/-- Settles O29: the second signature makes the half judge the kerf, which is `kerfDecided` and, on a mismatch, a fatal fault of SC
taken after the die's inhibit; a disturbed signature and one held too long are fatal faults of SC at once. -/
theorem kerfSignaturesAreCompared : Obligations.KerfSignaturesAreCompared := by
  refine ⟨fun s h m a b u sent flight heldA heldB first => ?_, fun s h c m sig hit sent flight changed => ?_,
    fun s h m sig u compares held late => ?_⟩
  · obtain ⟨air, emptyA, emptyB, mis⟩ := kerfDecided_sc (b := b) heldA heldB
    by_cases same : a = b
    · obtain ⟨fr, os, dev⟩ := kerfJudged_keeps (s.kerfTaken h m b) h m a b u s.now
      refine ⟨_, exec_kerfSignature_equal heldA heldB sent flight first same, air, emptyA, emptyB, fun _ => ?_, absurd same⟩
      refine ⟨fr, os, dev, mis.trans (by simp [same]), ?_⟩
      rintro rfl thawed
      subst same
      exact kerfJudged_counts (s := s.kerfTaken .a m a) thawed ..
    · obtain ⟨uncleared, ⟨k, sc⟩, inhib, -⟩ := scFatal_taken 4 (dieInit h) 8 m (inhibitSide h (s.kerfDecided h m a b u))
      rw [inhibitSide_f_sc] at sc
      refine ⟨_, exec_kerfSignature_unequal heldA heldB sent flight first same, ?_⟩
      simp only [sc]
      exact ⟨air, emptyA, emptyB, fun equal => absurd equal same,
        fun _ => ⟨mis.trans (by simp [same]), inhib h (inhibitSide_inhib ..), uncleared⟩⟩
  · exact ⟨_, exec_kerfSignature_disturbed sent flight changed, scFatal_uncleared ..⟩
  · obtain ⟨init, k, run⟩ := exec_kerfLate_due compares held late
    exact ⟨_, run, scFatal_uncleared ..⟩

end Sys2Proof.Machine
end

section
/-!
PROOFS about the check of the fault records' copies: what a pass leaves that finds every pair complementary, and what a pair does
that is not. They settle O30.
-/
namespace Sys2Proof.Machine

/-! ## A pass (R253) -/

/-- A die's checker starts a pass, its pass before having ended; both dies' having ended counts one. -/
def State.passStarted (d : Side) (s : State) : State :=
  let s := s.modSc (fun x => { x with
    started := x.started.set d true, done := x.done.set d (x.started.get d), passAt := x.passAt.set d (some s.now) })
  if s.sc.done.a && s.sc.done.b then s.modSc (fun x => { x with done := ⟨false, false⟩, chkCnt := satInc x.chkCnt }) else s

/-- The state after the pairs that the die's checker finds not complementary. -/
def State.pairsFound (d : Side) (bad : List (Fin 14 × Fin 32)) (s : State) : State :=
  (bad.filter (fun e => s.checksCopy d e.1)).foldl (fun s e => recordCopy d e.1 e.2.val s) s

theorem exec_copyCheckPass_first {s : State} {d : Side} (released : s.pcr.clk.tb = true)
    (first : s.sc.passAt.get d ≠ some s.tb.now) (bad : List (Fin 14 × Fin 32)) : exec (.copyCheckPass d bad) s =
    .next (if s.tb.now.toNat % 512 = 0 then (s.pairsFound d bad).passStarted d else s.pairsFound d bad) := by
  have runs : (!s.pcr.clk.tb || s.sc.passAt.get d == some s.now) = false := by
    rw [released, Bool.not_true, Bool.false_or]
    exact beq_eq_false_iff_ne.mpr first
  show execCopyCheckPass d bad s = .next (if s.now.toNat % 512 = 0 then _ else _)
  simp only [execCopyCheckPass, runs, Bool.false_eq_true, if_false]
  by_cases pass : s.now.toNat % 512 = 0
  · simp only [pass, decide_true, Bool.not_true, Bool.false_eq_true, if_false, if_true]
    rfl
  · simp only [pass, decide_false, Bool.not_false, if_true, if_false]
    rfl

theorem exec_copyCheckPass_between {s : State} (between : s.tb.now.toNat % 512 ≠ 0) (d : Side) :
    exec (.copyCheckPass d []) s = .next s := by
  show execCopyCheckPass d [] s = _
  unfold execCopyCheckPass
  simp [State.now, between]

theorem passStarted_frame (d : Side) (s : State) : s.passStarted d =
    { s with sc := { s.sc with started := (s.passStarted d).sc.started, done := (s.passStarted d).sc.done,
                               chkCnt := (s.passStarted d).sc.chkCnt, passAt := (s.passStarted d).sc.passAt } } := by
  unfold State.passStarted
  dsimp only
  split <;> rfl

theorem passStarted_marks (d : Side) (s : State) :
    (s.passStarted d).sc.started.get d = true ∧ (s.passStarted d).sc.passAt.get d = some s.tb.now := by
  unfold State.passStarted
  dsimp only
  split <;> exact ⟨Two.get_set .., Two.get_set ..⟩

theorem passStarted_counts {d : Side} {s : State} (started : s.sc.started.get d = true) (other : s.sc.done.get d.other = true) :
    (s.passStarted d).sc.chkCnt = satInc s.sc.chkCnt ∧ (s.passStarted d).sc.done = ⟨false, false⟩ := by
  have both : ((s.sc.done.set d true).a && (s.sc.done.set d true).b) = true := by
    cases d
    · exact Bool.and_eq_true_iff.mpr ⟨rfl, other⟩
    · exact Bool.and_eq_true_iff.mpr ⟨other, rfl⟩
  unfold State.passStarted
  dsimp only
  rw [if_pos (by simpa [started] using both)]
  exact ⟨rfl, rfl⟩

/-! ## A pair that is not complementary (R253) -/

/-- What a bad pair of another block's record than SC's leaves. -/
structure State.CopyFaulted (s : State) : Prop where
  restrained : s.restrained
  copyInhibit : s.sc.copyInhibit = true
  uncleared : s.uncleared .sc 1 0 = true

/-- The report of RECORD_COPY. -/
def copyReport (d : Side) (b : Fin 14) (w : Nat) : FaultRep :=
  { block := .sc, cause := 1, cls := .fatal, scope := 0, item := 0, addr := b.val + 1 + 256 * w, init := dieInit d, acc := 9 }

/-- The drivers of both dies are inhibited for a bad pair, before anything is recorded. -/
def State.copyInhibited (s : State) : State := inhibitBoth (s.modSc (fun x => { x with copyInhibit := true }))

theorem recordCopy_foreign {b : Fin 14} (foreign : b ≠ Block.sc.idx) (d : Side) (w : Nat) (s : State) :
    recordCopy d b w s = recordFault (copyReport d b w) s.copyInhibited := if_neg foreign

theorem recordCopy_faulted {b : Fin 14} (foreign : b ≠ Block.sc.idx) (d : Side) (w : Nat) (s : State) :
    (recordCopy d b w s).CopyFaulted := by
  obtain ⟨uncleared, ⟨k, sc⟩, -, restrained⟩ := recordFault_sc_fatal (f := copyReport d b w) rfl rfl s.copyInhibited
  rw [recordCopy_foreign foreign]
  exact ⟨restrained (inhibitBoth_restrained _), by rw [sc]; rfl, uncleared⟩

theorem State.CopyFaulted.passStarted {s : State} (faulted : s.CopyFaulted) (d : Side) : (s.passStarted d).CopyFaulted := by
  rw [passStarted_frame]
  exact ⟨faulted.restrained, faulted.copyInhibit, faulted.uncleared⟩

/-! ## The statement -/

/-- Settles O30: a pass is `pairsFound`, which keeps the state where no pair is bad, and on a multiple of 512 ticks `passStarted`. -/
theorem copyCheckFindsBadPairs : Obligations.CopyCheckFindsBadPairs := by
  refine ⟨fun s d released first pass => ?_, fun s d b w released first checks foreign => ?_,
    fun s d between => exec_copyCheckPass_between between d⟩
  · obtain ⟨started, passAt⟩ := passStarted_marks d s
    exact ⟨_, (exec_copyCheckPass_first released first []).trans (congrArg _ (if_pos pass)), passStarted_frame d s, started, passAt,
      passStarted_counts⟩
  · have found : (s.pairsFound d [(b, w)]).CopyFaulted := by
      rw [State.pairsFound, List.filter_cons_of_pos (a := (b, w)) checks]
      exact recordCopy_faulted foreign d w.val s
    refine ⟨_, exec_copyCheckPass_first released first [(b, w)], ?_⟩
    split
    · obtain ⟨⟨inhib, lines⟩, copyInhibit, uncleared⟩ := found.passStarted d
      exact ⟨inhib, lines, copyInhibit, uncleared⟩
    · obtain ⟨⟨inhib, lines⟩, copyInhibit, uncleared⟩ := found
      exact ⟨inhib, lines, copyInhibit, uncleared⟩

end Sys2Proof.Machine
end

section
/-!
PROOFS about the state after reset: what a bank of equal entries holds in each place. They settle O9.
-/
namespace Sys2Proof.Machine

theorem reset_record (b : Block) : State.reset.frOf b = FaultRecord.reset := Vector.getElem_replicate ..

theorem reset_core (c : Side) : State.reset.core c = CoreSt.reset := by cases c <;> rfl

theorem reset_wport (p : Side) : State.reset.wport p = WqPort.reset := by cases p <;> rfl

theorem reset_sq (p : Side) (n : Fin 8) : State.reset.sq p n = Sq.reset := by
  rw [State.sq, reset_wport]
  exact Vector.getElem_replicate ..

theorem reset_cq (p : Side) (n : Fin 8) : State.reset.cq p n = Cq.reset := by
  rw [State.cq, reset_wport]
  exact Vector.getElem_replicate ..

theorem reset_pg (g : Fin 16) : State.reset.tb.pg[g] = Pg.reset g.val := by simp [State.reset, Tb.reset]

theorem reset_cell (k : Fin 256) : State.reset.tb.master[k] = .idle ∧ State.reset.tb.shadow[k] = .idle :=
  ⟨Vector.getElem_replicate .., Vector.getElem_replicate ..⟩

theorem reset_link (n : Fin 4) : State.reset.pl.port[n] = PlPort.reset := Vector.getElem_replicate ..

theorem reset_channel (n : Fin 4) : State.reset.cv.ch[n] = Cvw.reset := Vector.getElem_replicate ..

/-- Settles O9: each value is one of the reset value of its register's own bank. -/
theorem resetLeavesTheSpecsValues : Obligations.ResetLeavesTheSpecsValues := by
  unfold Obligations.ResetLeavesTheSpecsValues
  simp only [reset_record, reset_pg, reset_core, reset_sq, reset_cq, reset_link, reset_channel]
  exact ⟨rfl, rfl, rfl, rfl, rfl, rfl, rfl, fun _ => ⟨rfl, rfl, rfl, rfl, rfl⟩, rfl, rfl, rfl, rfl, reset_cell, rfl,
    fun _ => ⟨rfl, rfl⟩, fun _ _ => ⟨rfl, rfl, rfl, rfl⟩, fun _ => ⟨rfl, rfl⟩, rfl, rfl, rfl⟩

end Sys2Proof.Machine
end

section
/-!
PROOFS about the period generators: what a wrap does to its generator, to the flags and to the internal events, and what each
write to a generator makes of it. They settle O16, O17 and O18.
-/
namespace Sys2Proof

/-- A change that leaves its entry as it is leaves the bank. -/
theorem upd_of_fixed {α : Type} {n : Nat} {v : Vector α n} {i : Fin n} {f : α → α} (h : f v[i] = v[i]) : upd v i f = v := by
  rw [upd, h]
  exact Vector.set_getElem_self ..

theorem upd_upd {α : Type} {n : Nat} (v : Vector α n) (i : Fin n) (f g : α → α) :
    upd (upd v i f) i g = upd v i (fun x => g (f x)) := by
  simp [upd]

end Sys2Proof

namespace Sys2Proof.Machine

/-! ## Event interrupts (R265) -/

/-- What differs by the ports alone is the state with the ports replaced. -/
theorem Only.eq_of_hp {s t : State} (h : Only 16384 s t) : t = { s with hp := t.hp } := by
  have fr : t.fr = s.fr := h.fr.resolve_left (by decide)
  have frame : t = { s with fr := t.fr, hp := t.hp } := ((Only.refl 16400 s).step h rfl).eq_of_fr_hp
  rwa [fr] at frame

/-- An event interrupt that an enable bit gates touches the ports alone. -/
theorem eventIrq_frame (b : Block) (enabled : Prop) [Decidable enabled] (s : State) :
    (if enabled then raiseEventIrq b s else s) = { s with hp := (if enabled then raiseEventIrq b s else s).hp } :=
  (Only.ite (raiseEventIrq_only b s) (.refl _ s)).eq_of_hp

/-! ## A generator (R274 to R277) -/

/-- A generator started by PG_GO. -/
def Pg.started (now : Tick) (x : Pg) : Pg := { x.restart now with en := true }

theorem Pg.seen_of_not_due {now : Tick} {x : Pg} (h : x.due now = false) : x.seen now = x := by simp [Pg.seen, h]

theorem Pg.seen_of_due {now : Tick} {x : Pg} (h : x.due now = true) : x.seen now = x.wrapped x.wrapAt := by simp [Pg.seen, h]

/-- The wrap of a running generator is due once its count has reached RELOAD. -/
theorem Pg.due_of_reached {now : Tick} {x : Pg} (running : x.en = true) (reached : x.reload.toNat + 1 ≤ elapsed now x.base) :
    x.due now = true := by
  rw [Pg.due, running, Bool.true_and, decide_eq_true reached]

theorem Pg.wrapped_en (w : Tick) (x : Pg) : (x.wrapped w).en = x.en := by
  unfold Pg.wrapped
  split
  · split <;> rfl
  · rfl

/-- A pending value is taken by a wrap on a later tick than its write's. -/
theorem Pg.wrapped_takes {x : Pg} {w u : Tick} (pending : x.pendAt = some u) (before : u ≠ w) :
    (x.wrapped w).reload = x.pend ∧ (x.wrapped w).pendAt = none := by
  simp [Pg.wrapped, pending, before]

theorem Pg.wrapped_keeps {x : Pg} {w : Tick} (pending : x.pendAt = some w) :
    (x.wrapped w).reload = x.reload ∧ (x.wrapped w).pendAt = some w := by
  simp [Pg.wrapped, pending]

theorem Pg.wrapped_reload_of_unwritten {x : Pg} (w : Tick) (unwritten : x.pendAt = none) : (x.wrapped w).reload = x.reload := by
  simp [Pg.wrapped, unwritten]

theorem Pg.wrapped_base (w : Tick) (x : Pg) : (x.wrapped w).base = w := by
  unfold Pg.wrapped
  split
  · split <;> rfl
  · rfl

/-- A restart applies a pending value whether or not a wrap of the tick has taken it first. -/
theorem Pg.restart_wrapped (w t : Tick) (x : Pg) : (x.wrapped w).restart t = x.restart t := by
  unfold Pg.wrapped
  split
  next u pending =>
    split
    · rfl
    · simp [Pg.restart, pending]
  next => rfl

theorem Pg.restart_seen (now t : Tick) (x : Pg) : (x.seen now).restart t = x.restart t := by
  unfold Pg.seen
  split
  · exact restart_wrapped ..
  · rfl

theorem Pg.started_seen (now t : Tick) (x : Pg) : (x.seen now).started t = x.started t := by
  rw [started, restart_seen, started]

/-! ## A wrap (R274, R275, R278) -/

/-- TB as a wrap of generator `g` on tick `u` leaves it: its internal event, and the flag of a host generator. -/
def Tb.wraps (g : Fin 16) (u : Tick) (t : Tb) : Tb :=
  { t with pgFlg := if 3 ≤ g.val then t.pgFlg ||| BitVec.ofNat 16 (2 ^ g.val) else t.pgFlg,
           events := (0xA0 + g.val, u) :: t.events.filter (fun e => e.2 == t.now || e.2 == t.now + 1) }

/-- A host generator's wrap: TB's part, and an interrupt at most. -/
theorem pgEvent_host {g : Fin 16} (host : 3 ≤ g.val) (u : Tick) (s : State) :
    pgEvent g u s = { s with tb := s.tb.wraps g u, hp := (pgEvent g u s).hp } := by
  have flags : s.tb.wraps g u = { s.tb with
      pgFlg := s.tb.pgFlg ||| BitVec.ofNat 16 (2 ^ g.val), events := (s.tb.wraps g u).events } := by simp [Tb.wraps, host]
  unfold pgEvent
  simp only [host, if_true]
  rw [flags]
  exact eventIrq_frame ..

/-- A wrap of any generator: TB's part, an interrupt, a batch of cruise tests, or the tally made due. -/
theorem pgEvent_frame (g : Fin 16) (u : Tick) (s : State) :
    pgEvent g u s = { s with tb := s.tb.wraps g u, hp := (pgEvent g u s).hp,
                             st := { s.st with batch := (pgEvent g u s).st.batch },
                             ms := { s.ms with tallyDue := (pgEvent g u s).ms.tallyDue } } := by
  by_cases host : 3 ≤ g.val
  · rw [pgEvent_host host]
  · have flags : s.tb.wraps g u = { s.tb with events := (s.tb.wraps g u).events } := by simp [Tb.wraps, host]
    rw [flags]
    unfold pgEvent
    simp only [host, if_false]
    split
    · split <;> rfl
    · split <;> rfl

theorem pgEvent_tb (g : Fin 16) (u : Tick) (s : State) : (pgEvent g u s).tb = s.tb.wraps g u := by rw [pgEvent_frame]

/-- PG02 paces the tally (R394). -/
theorem pgEvent_tallyDue {g : Fin 16} (h : g.val = 2) (u : Tick) (s : State) : (pgEvent g u s).ms.tallyDue = true := by
  simp [pgEvent, h]

/-! ## A wrap that has fallen due -/

/-- The state with generator `g` wrapped, before the wrap is flagged. -/
def State.pgWrapped (s : State) (g : Fin 16) : State :=
  s.modTb (fun t => { t with pg := upd t.pg g (Pg.seen t.now) })

theorem pgDue_of_due {g : Fin 16} {s : State} (h : (s.tb.pg[g] : Pg).due s.tb.now = true) :
    pgDue g s = pgEvent g (s.tb.pg[g] : Pg).wrapAt (s.pgWrapped g) := by
  have entry : upd s.tb.pg g (Pg.seen s.tb.now) = upd s.tb.pg g (Pg.wrapped (s.tb.pg[g] : Pg).wrapAt) := by
    simp only [upd, Pg.seen_of_due h]
  unfold pgDue State.pgWrapped
  simp only [now_eq, h, if_true, State.modTb, entry]

theorem pgDue_of_not_due {g : Fin 16} {s : State} (h : (s.tb.pg[g] : Pg).due s.tb.now = false) : pgDue g s = s := by
  unfold pgDue
  simp only [now_eq, h, Bool.false_eq_true, if_false]

/-- `t` differs from `s` in generators, their flags, internal events and interrupts alone. -/
structure State.GeneratorsMove (s t : State) : Prop where
  eq : t = { s with tb := { s.tb with pg := t.tb.pg, pgFlg := t.tb.pgFlg, events := t.tb.events }, hp := t.hp }

namespace State.GeneratorsMove

theorem refl (s : State) : s.GeneratorsMove s := ⟨rfl⟩

theorem trans {s t u : State} (st : s.GeneratorsMove t) (tu : t.GeneratorsMove u) : s.GeneratorsMove u :=
  ⟨by rw [tu.eq, st.eq]⟩

theorem now {s t : State} (st : s.GeneratorsMove t) : t.tb.now = s.tb.now := by rw [st.eq]

end State.GeneratorsMove

theorem modPgs_move (s : State) (f : Vector Pg 16 → Vector Pg 16) :
    s.GeneratorsMove (s.modTb (fun t => { t with pg := f t.pg })) := ⟨rfl⟩

theorem pgEvent_move {g : Fin 16} (host : 3 ≤ g.val) (u : Tick) (s : State) : s.GeneratorsMove (pgEvent g u s) :=
  ⟨by rw [pgEvent_host host]; rfl⟩

theorem pgDue_move {g : Fin 16} (host : 3 ≤ g.val) (s : State) : s.GeneratorsMove (pgDue g s) := by
  by_cases due : (s.tb.pg[g] : Pg).due s.tb.now
  · rw [pgDue_of_due due]
    exact State.GeneratorsMove.trans ⟨rfl⟩ (pgEvent_move host ..)
  · rw [pgDue_of_not_due (Bool.not_eq_true _ ▸ due)]
    exact .refl s

/-- What falls due of generator `g` changes it as `Pg.seen` says, and no other. -/
theorem pgDue_pg (g : Fin 16) (s : State) : (pgDue g s).tb.pg = upd s.tb.pg g (Pg.seen s.tb.now) := by
  by_cases due : (s.tb.pg[g] : Pg).due s.tb.now
  · rw [pgDue_of_due due, pgEvent_tb]
    rfl
  · have due := Bool.not_eq_true _ ▸ due
    rw [pgDue_of_not_due due, upd_of_fixed (Pg.seen_of_not_due due)]

/-- With the flag of `g` set besides, it makes no difference whether a wrap of `g` has set it. -/
theorem pgDue_pgFlg_or {g : Fin 16} (host : 3 ≤ g.val) (s : State) :
    (pgDue g s).tb.pgFlg ||| BitVec.ofNat 16 (2 ^ g.val) = s.tb.pgFlg ||| BitVec.ofNat 16 (2 ^ g.val) := by
  by_cases due : (s.tb.pg[g] : Pg).due s.tb.now
  · rw [pgDue_of_due due, pgEvent_tb]
    simp [Tb.wraps, host, State.pgWrapped, BitVec.or_assoc]
  · rw [pgDue_of_not_due (Bool.not_eq_true _ ▸ due)]

/-! ## Writes to one generator (R274 to R277) -/

theorem pgHost_host {g : Fin 16} (host : 3 ≤ g.val) (p : Side) (f : State → State) (s : State) :
    pgHost p g f s = f (pgDue g s) := if_neg (by omega)

theorem pgHost_module {g : Fin 16} (own : g.val < 3) (p : Side) (f : State → State) (s : State) :
    pgHost p g f s = countRefused p s := if_pos own

theorem exec_pgReloadWrite {s : State} {p : Side} {g : Fin 16} {v : Word} (r : s.reaches p .tb (.pgReloadWrite p g v)) :
    exec (.pgReloadWrite p g v) s = .next (pgReloadWrite p g v s) := congrArg _ (inOrder_reaches rfl r)

theorem exec_pgNow {s : State} {p : Side} {g : Fin 16} (r : s.reaches p .tb (.pgNow p g)) :
    exec (.pgNow p g) s = .next (pgNow p g s) := congrArg _ (inOrder_reaches rfl r)

theorem exec_pgEnable {s : State} {p : Side} {g : Fin 16} {en : Bool} (r : s.reaches p .tb (.pgEnable p g en)) :
    exec (.pgEnable p g en) s = .next (pgEnable p g en s) := congrArg _ (inOrder_reaches rfl r)

theorem exec_pgGo {s : State} {p : Side} {m : BitVec 16} (r : s.reaches p .tb (.pgGo p m)) :
    exec (.pgGo p m) s = .next (pgGo p m s) := congrArg _ (inOrder_reaches rfl r)

/-- Generator `g` changed by `f`, a wrap of the tick taken first. -/
def State.pgAfterWrap (s : State) (g : Fin 16) (f : Pg → Pg) : State :=
  (pgDue g s).modTb (fun t => { t with pg := upd t.pg g f })

theorem pgAfterWrap_pg (s : State) (g : Fin 16) (f : Pg → Pg) :
    (s.pgAfterWrap g f).tb.pg = upd s.tb.pg g (fun x => f (x.seen s.tb.now)) := by
  rw [State.pgAfterWrap, modTb_tb, pgDue_pg, upd_upd]

theorem pgAfterWrap_move {g : Fin 16} (host : 3 ≤ g.val) (s : State) (f : Pg → Pg) : s.GeneratorsMove (s.pgAfterWrap g f) :=
  (pgDue_move host s).trans (modPgs_move _ (upd · g f))

/-- Generator `g` restarted by `f`, which is a wrap. -/
def State.pgRestarts (s : State) (g : Fin 16) (f : Pg → Pg) : State := pgEvent g s.tb.now (s.pgAfterWrap g f)

theorem pgRestarts_pg (s : State) (g : Fin 16) (f : Pg → Pg) :
    (s.pgRestarts g f).tb.pg = upd s.tb.pg g (fun x => f (x.seen s.tb.now)) := by
  rw [State.pgRestarts, pgEvent_tb]
  exact pgAfterWrap_pg ..

theorem pgRestarts_pgFlg {g : Fin 16} (host : 3 ≤ g.val) (s : State) (f : Pg → Pg) :
    (s.pgRestarts g f).tb.pgFlg = s.tb.pgFlg ||| BitVec.ofNat 16 (2 ^ g.val) := by
  rw [State.pgRestarts, pgEvent_tb, ← pgDue_pgFlg_or host]
  exact if_pos host

theorem pgRestarts_events (s : State) (g : Fin 16) (f : Pg → Pg) :
    (0xA0 + g.val, s.tb.now) ∈ (s.pgRestarts g f).tb.events := by
  rw [State.pgRestarts, pgEvent_tb]
  exact List.mem_cons_self

theorem pgRestarts_move {g : Fin 16} (host : 3 ≤ g.val) (s : State) (f : Pg → Pg) : s.GeneratorsMove (s.pgRestarts g f) :=
  (pgAfterWrap_move host s f).trans (pgEvent_move host ..)

theorem pgNow_host {g : Fin 16} (host : 3 ≤ g.val) (p : Side) (s : State) :
    pgNow p g s = s.pgRestarts g (Pg.restart s.tb.now) := by
  rw [pgNow, pgHost_host host, now_eq, (pgDue_move host s).now]
  rfl

theorem pgReloadWrite_host {g : Fin 16} {v : Word} (host : 3 ≤ g.val) (nonzero : v ≠ 0) (p : Side) (s : State) :
    pgReloadWrite p g v s = s.pgAfterWrap g (fun x => { x with pend := v, pendAt := some s.tb.now }) := by
  rw [pgReloadWrite, pgHost_host host, if_neg nonzero, now_eq, (pgDue_move host s).now]
  rfl

/-- ACCESS of TB while no resource is bad: a corrected fault is counted, and fault records and interrupts change alone. -/
theorem recordAccess_tb (p : Side) (o : Nat) {s : State} (h : s.bad = []) :
    ((recordAccess .tb p o s).frOf .tb).cntCorr = satInc (s.frOf .tb).cntCorr ∧
    recordAccess .tb p o s = { s with fr := (recordAccess .tb p o s).fr, hp := (recordAccess .tb p o s).hp } := by
  rw [recordAccess, recordCorrected_of_bad_nil h]
  exact ⟨recordPlain_cntCorr .., (recordPlain_only ..).eq_of_fr_hp⟩

theorem pgReloadWrite_host_zero {g : Fin 16} (host : 3 ≤ g.val) (p : Side) (s : State) :
    pgReloadWrite p g 0 s = recordAccess .tb p (0x404 + 16 * g.val) (pgDue g s) := by
  rw [pgReloadWrite, pgHost_host host, if_pos rfl]

/-- A generator as PG_CTL.EN written `en` on tick `now` leaves it. -/
def Pg.enabled (now : Tick) (en : Bool) (x : Pg) : Pg :=
  if x.en = en then x
  else if en then { x with en := true, base := now - x.stopped.zeroExtend 64 }
  else { x with en := false, stopped := BitVec.ofNat 32 (elapsed now x.base) }

theorem Pg.enabled_same {en : Bool} {x : Pg} (now : Tick) (h : x.en = en) : x.enabled now en = x := if_pos h

theorem Pg.enabled_stops {x : Pg} (now : Tick) (h : x.en = true) :
    x.enabled now false = { x with en := false, stopped := BitVec.ofNat 32 (elapsed now x.base) } := by
  simp [Pg.enabled, h]

theorem Pg.enabled_resumes {x : Pg} (now : Tick) (h : x.en = false) :
    x.enabled now true = { x with en := true, base := now - x.stopped.zeroExtend 64 } := by
  simp [Pg.enabled, h]

/-- A generator resumed from a count shows that count. -/
theorem elapsed_resumed (now : Tick) (n : Word) : elapsed now (now - n.zeroExtend 64) = n.toNat := by
  have count : now - (now - n.zeroExtend 64) = n.zeroExtend 64 := by
    rw [BitVec.sub_eq_iff_eq_add]
    exact (BitVec.sub_add_cancel ..).symm.trans (BitVec.add_comm ..)
  have := n.isLt
  rw [elapsed, count, BitVec.toNat_setWidth]
  exact Nat.mod_eq_of_lt (by omega)

theorem pgEnable_host {g : Fin 16} (host : 3 ≤ g.val) (p : Side) (en : Bool) (s : State) :
    pgEnable p g en s = s.pgAfterWrap g (Pg.enabled s.tb.now en) := by
  rw [pgEnable, pgHost_host host, now_eq, (pgDue_move host s).now]
  rfl

/-! ## PG_GO (R277) -/

/-- PG_GO at generator `g`: one that is selected and not the module's own restarts. -/
def State.pgGoes (m : BitVec 16) (s : State) (g : Fin 16) : State :=
  if 3 ≤ g.val ∧ m.getLsbD g.val = true then s.pgRestarts g (Pg.started s.tb.now) else s

theorem pgGo_eq_foldl (p : Side) (m : BitVec 16) (s : State) :
    pgGo p m s = (fins 16).foldl (State.pgGoes m) (if m.toNat % 8 ≠ 0 then countRefused p s else s) := rfl

section
variable {m : BitVec 16} {g : Fin 16}

theorem pgGoes_of_unselected (unselected : ¬(3 ≤ g.val ∧ m.getLsbD g.val = true)) (s : State) : s.pgGoes m g = s :=
  if_neg unselected

theorem pgGoes_of_selected (selected : 3 ≤ g.val ∧ m.getLsbD g.val = true) (s : State) :
    s.pgGoes m g = s.pgRestarts g (Pg.started s.tb.now) := if_pos selected

theorem pgGoes_pg_selected (selected : 3 ≤ g.val ∧ m.getLsbD g.val = true) (s : State) :
    (s.pgGoes m g).tb.pg[g] = (s.tb.pg[g] : Pg).started s.tb.now := by
  rw [pgGoes_of_selected selected, pgRestarts_pg, upd_get, Pg.started_seen]

theorem pgGoes_pgFlg_selected (selected : 3 ≤ g.val ∧ m.getLsbD g.val = true) (s : State) :
    (s.pgGoes m g).tb.pgFlg.getLsbD g.val = true := by
  have own : (BitVec.ofNat 16 (2 ^ g.val)).getLsbD g.val = true := by
    rw [BitVec.getLsbD_ofNat, Nat.testBit_two_pow_self, decide_eq_true g.isLt, Bool.and_self]
  rw [pgGoes_of_selected selected, pgRestarts_pgFlg selected.1, BitVec.getLsbD_or, own, Bool.or_true]

end

theorem pgGoes_move (m : BitVec 16) (s : State) (g : Fin 16) : s.GeneratorsMove (s.pgGoes m g) := by
  by_cases selected : 3 ≤ g.val ∧ m.getLsbD g.val = true
  · rw [pgGoes_of_selected selected]
    exact pgRestarts_move selected.1 ..
  · rw [pgGoes_of_unselected selected]
    exact .refl s

theorem pgGoes_pg_ne {g h : Fin 16} (ne : h ≠ g) (m : BitVec 16) (s : State) : (s.pgGoes m g).tb.pg[h] = s.tb.pg[h] := by
  by_cases selected : 3 ≤ g.val ∧ m.getLsbD g.val = true
  · rw [pgGoes_of_selected selected, pgRestarts_pg, upd_get_ne _ _ ne]
  · rw [pgGoes_of_unselected selected]

/-- Flags already set stay set. -/
theorem pgGoes_pgFlg_mono (m : BitVec 16) {s : State} {k : Nat} (h : s.tb.pgFlg.getLsbD k = true) (g : Fin 16) :
    (s.pgGoes m g).tb.pgFlg.getLsbD k = true := by
  by_cases selected : 3 ≤ g.val ∧ m.getLsbD g.val = true
  · rw [pgGoes_of_selected selected, pgRestarts_pgFlg selected.1, BitVec.getLsbD_or, h, Bool.true_or]
  · rwa [pgGoes_of_unselected selected]

theorem foldl_pgGoes_move (m : BitVec 16) (gs : List (Fin 16)) (s : State) : s.GeneratorsMove (gs.foldl (State.pgGoes m) s) := by
  induction gs generalizing s with
  | nil => exact .refl s
  | cons g gs ih => exact (pgGoes_move m s g).trans (ih _)

theorem foldl_pgGoes_pg_of_not_mem {m : BitVec 16} {g : Fin 16} {gs : List (Fin 16)} (h : g ∉ gs) (s : State) :
    (gs.foldl (State.pgGoes m) s).tb.pg[g] = s.tb.pg[g] := by
  induction gs generalizing s with
  | nil => rfl
  | cons k gs ih =>
    rw [List.mem_cons, not_or] at h
    obtain ⟨ne, rest⟩ := h
    exact (ih rest _).trans (pgGoes_pg_ne ne m s)

theorem foldl_pgGoes_pg_unselected {m : BitVec 16} {g : Fin 16} (unselected : ¬(3 ≤ g.val ∧ m.getLsbD g.val = true))
    (gs : List (Fin 16)) (s : State) : (gs.foldl (State.pgGoes m) s).tb.pg[g] = s.tb.pg[g] := by
  induction gs generalizing s with
  | nil => rfl
  | cons k gs ih =>
    refine (ih _).trans ?_
    by_cases at_g : g = k
    · rw [← at_g, pgGoes_of_unselected unselected]
    · exact pgGoes_pg_ne at_g m s

/-- Each generator's turn comes once, on the tick of the write. -/
theorem foldl_pgGoes_pg_selected {m : BitVec 16} {g : Fin 16} (selected : 3 ≤ g.val ∧ m.getLsbD g.val = true)
    {gs : List (Fin 16)} (once : gs.Nodup) (mem : g ∈ gs) (s : State) :
    (gs.foldl (State.pgGoes m) s).tb.pg[g] = (s.tb.pg[g] : Pg).started s.tb.now := by
  induction gs generalizing s with
  | nil => cases mem
  | cons k gs ih =>
    obtain ⟨first, rest⟩ := List.nodup_cons.mp once
    by_cases at_g : g = k
    · subst at_g
      exact (foldl_pgGoes_pg_of_not_mem first _).trans (pgGoes_pg_selected selected s)
    · refine (ih rest (List.mem_of_ne_of_mem at_g mem) _).trans ?_
      rw [pgGoes_pg_ne at_g, (pgGoes_move m s k).now]

theorem foldl_pgGoes_pgFlg_mono (m : BitVec 16) (gs : List (Fin 16)) {s : State} {k : Nat} (h : s.tb.pgFlg.getLsbD k = true) :
    (gs.foldl (State.pgGoes m) s).tb.pgFlg.getLsbD k = true := by
  induction gs generalizing s with
  | nil => exact h
  | cons g gs ih => exact ih (pgGoes_pgFlg_mono m h g)

theorem foldl_pgGoes_pgFlg_selected {m : BitVec 16} {g : Fin 16} (selected : 3 ≤ g.val ∧ m.getLsbD g.val = true)
    {gs : List (Fin 16)} (mem : g ∈ gs) (s : State) : (gs.foldl (State.pgGoes m) s).tb.pgFlg.getLsbD g.val = true := by
  induction gs generalizing s with
  | nil => cases mem
  | cons k gs ih =>
    by_cases at_g : g = k
    · subst at_g
      exact foldl_pgGoes_pgFlg_mono m gs (pgGoes_pgFlg_selected selected s)
    · exact ih (List.mem_of_ne_of_mem at_g mem) _

/-- Bits 0 to 2 of the mask are counted, which leaves TB. -/
theorem pgGo_counts (p : Side) (m : BitVec 16) (s : State) :
    ∃ k : Hp, (if m.toNat % 8 ≠ 0 then countRefused p s else s) = { s with hp := k } := by
  split
  · exact ⟨_, rfl⟩
  · exact ⟨_, rfl⟩

/-! ## The statements -/

/-- Settles O16: PG_NOW is a restart of its generator, behind a wrap of the tick. -/
theorem generatorNowRestartsThePeriod : Obligations.GeneratorNowRestartsThePeriod := by
  intro s p g r host
  have entry : ((pgNow p g s).tb.pg[g] : Pg) = (s.tb.pg[g] : Pg).restart s.tb.now := by
    rw [pgNow_host host, pgRestarts_pg, upd_get, Pg.restart_seen]
  refine ⟨_, exec_pgNow r, ?_, ?_, ?_, ?_, ?_, ?_, ?_, fun h ne => ?_, ?_⟩
  · rw [entry]; rfl
  · rw [entry]; rfl
  · rw [entry]; rfl
  · rw [entry]; rfl
  · rw [entry]; rfl
  · rw [pgNow_host host, pgRestarts_pgFlg host]
  · rw [pgNow_host host]
    exact pgRestarts_events ..
  · rw [pgNow_host host, pgRestarts_pg, upd_get_ne _ _ ne]
  · rw [pgNow_host host]
    exact (pgRestarts_move host ..).eq

/-- Settles O17: PG_GO comes to each generator once and on one tick, and EN is one change of its generator behind a wrap. -/
theorem generatorsStartStopAndResume : Obligations.GeneratorsStartStopAndResume := by
  refine ⟨fun s p m r => ?_, fun s p g en x r host seen => ?_⟩
  · obtain ⟨k, counted⟩ := pgGo_counts p m s
    have goes : pgGo p m s = (fins 16).foldl (State.pgGoes m) { s with hp := k } := by rw [pgGo_eq_foldl, counted]
    have every : ∀ g : Fin 16, g ∈ fins 16 := List.mem_finRange
    have once : (fins 16).Nodup := List.nodup_finRange 16
    refine ⟨_, exec_pgGo r, fun g host bit => ?_, fun g unselected => ?_, ?_⟩
    · have entry : ((pgGo p m s).tb.pg[g] : Pg) = (s.tb.pg[g] : Pg).started s.tb.now := by
        rw [goes, foldl_pgGoes_pg_selected ⟨host, bit⟩ once (every g)]
      refine ⟨?_, ?_, ?_, ?_, ?_⟩
      · rw [entry]; rfl
      · rw [entry]; rfl
      · rw [entry]; rfl
      · rw [entry]; rfl
      · rw [goes, foldl_pgGoes_pgFlg_selected ⟨host, bit⟩ (every g)]
    · rw [goes, foldl_pgGoes_pg_unselected unselected]
    · rw [goes]
      exact (State.GeneratorsMove.trans (s := s) ⟨rfl⟩ (foldl_pgGoes_move ..)).eq
  · have entry : ((pgEnable p g en s).tb.pg[g] : Pg) = x.enabled s.tb.now en := by
      rw [pgEnable_host host, pgAfterWrap_pg, upd_get, seen]
    have move : s.GeneratorsMove (pgEnable p g en s) := pgEnable_host host p en s ▸ pgAfterWrap_move host ..
    refine ⟨_, exec_pgEnable r, ?_, ?_, fun same => ?_, fun same idle => ?_, fun h ne => ?_, move.eq⟩
    · rintro running rfl
      rw [entry, Pg.enabled_stops _ running]
    · rintro halted rfl
      rw [entry, Pg.enabled_resumes _ halted, move.now]
      exact ⟨rfl, elapsed_resumed ..⟩
    · rw [entry, Pg.enabled_same _ same]
    · rw [pgEnable_host host, State.pgAfterWrap, pgDue_of_not_due idle]
      simp only [State.modTb, upd_of_fixed (Pg.enabled_same _ same)]
    · rw [pgEnable_host host, pgAfterWrap_pg, upd_get_ne _ _ ne]

/-- Settles O18: a write to PG_RELOAD is one change of its generator behind a wrap, and a wrap is `Pg.wrapped` with its event. -/
theorem generatorReloadAppliesAtTheWrap : Obligations.GeneratorReloadAppliesAtTheWrap := by
  refine ⟨fun s p g v r host nonzero => ?_, fun s p g r host good idle => ?_, fun s p g v en reload now enable own => ?_,
    fun s g running reached => ?_, fun s g idle => congrArg _ (pgDue_of_not_due idle)⟩
  · refine ⟨_, exec_pgReloadWrite r, ?_, fun h ne => ?_, ?_⟩
    · rw [pgReloadWrite_host host nonzero, pgAfterWrap_pg, upd_get]
    · rw [pgReloadWrite_host host nonzero, pgAfterWrap_pg, upd_get_ne _ _ ne]
    · rw [pgReloadWrite_host host nonzero]
      exact (pgAfterWrap_move host ..).eq
  · have writes : exec (.pgReloadWrite p g 0) s = .next (recordAccess .tb p (0x404 + 16 * g.val) s) := by
      rw [exec_pgReloadWrite r, pgReloadWrite_host_zero host, pgDue_of_not_due idle]
    exact ⟨_, writes, recordAccess_tb p _ good⟩
  · refine ⟨countRefused p s, (exec_pgReloadWrite reload).trans (congrArg _ (pgHost_module own ..)),
      (exec_pgNow now).trans (congrArg _ (pgHost_module own ..)), (exec_pgEnable enable).trans (congrArg _ (pgHost_module own ..)),
      ?_, rfl⟩
    rw [countRefused, hport_modHport]
  · have due := Pg.due_of_reached running reached
    have entry : ((pgDue g s).tb.pg[g] : Pg) = (s.tb.pg[g] : Pg).wrapped (s.tb.pg[g] : Pg).wrapAt := by
      rw [pgDue_pg, upd_get, Pg.seen_of_due due]
    refine ⟨pgDue g s, rfl, ?_, ?_, fun unwritten => ?_, fun w pending before => ?_, fun w pending at_ => ?_, fun host => ?_,
      fun two => ?_, fun h ne => ?_, ?_⟩
    · rw [entry, Pg.wrapped_en, running]
    · rw [entry, Pg.wrapped_base, Pg.wrapAt]
    · rw [entry, Pg.wrapped_reload_of_unwritten _ unwritten]
    · rw [entry, Pg.wrapped_base] at before
      rw [entry]
      exact Pg.wrapped_takes pending before
    · rw [entry, Pg.wrapped_base] at at_
      rw [entry]
      exact at_ ▸ Pg.wrapped_keeps (at_ ▸ pending)
    · rw [pgDue_of_due due, pgEvent_tb]
      exact if_pos host
    · rw [pgDue_of_due due, pgEvent_tallyDue two]
    · rw [pgDue_pg, upd_get_ne _ _ ne]
    · rw [pgDue_of_due due, pgEvent_frame]
      rfl

end Sys2Proof.Machine
end

section
/-!
PROOFS about the compare channels: what a match does, and what each write to a channel makes of it behind a match of its tick.
They settle O19.
-/
namespace Sys2Proof.Machine

/-! ## A channel (R279) -/

/-- A channel as a write of `v` to CMP_HI on tick `now` leaves it. -/
def Cmp.loaded (now : Tick) (v : Word) (x : Cmp) : Cmp :=
  let w : Tick := v ++ x.lo
  { x with before := x.old now, value := w, loadedAt := now,
           lateAt := if x.en ∧ w.toNat ≤ now.toNat then some now else none }

/-- A channel as CMP_CTL.EN written `en` on tick `now` leaves it. -/
def Cmp.armed (now : Tick) (en : Bool) (x : Cmp) : Cmp :=
  if en then { x with en := true, before := BitVec.allOnes 64, loadedAt := now,
                      lateAt := if x.value.toNat ≤ now.toNat then some now else none }
  else { x with en := false, lateAt := none }

theorem Cmp.seen_of_due {now : Tick} {x : Cmp} (h : x.due now = true) : x.seen now = x.matched now := by simp [Cmp.seen, h]

theorem Cmp.seen_of_not_due {now : Tick} {x : Cmp} (h : x.due now = false) : x.seen now = x := by simp [Cmp.seen, h]

theorem Cmp.seen_lo (now : Tick) (x : Cmp) : (x.seen now).lo = x.lo := by
  unfold Cmp.seen
  split <;> rfl

theorem Cmp.seen_value (now : Tick) (x : Cmp) : (x.seen now).value = x.value := by
  unfold Cmp.seen
  split <;> rfl

theorem Cmp.armed_en (now : Tick) (en : Bool) (x : Cmp) : (x.armed now en).en = en := by cases en <;> rfl

theorem Cmp.armed_value (now : Tick) (en : Bool) (x : Cmp) : (x.armed now en).value = x.value := by cases en <;> rfl

/-- Arming finds a value that is already reached. -/
theorem Cmp.armed_lateAt (now : Tick) (x : Cmp) :
    (x.armed now true).lateAt.isSome = true ↔ x.value.toNat ≤ now.toNat := by
  simp [Cmp.armed]

/-- An armed channel is due once a value loaded on an earlier tick is reached. -/
theorem Cmp.due_of_reached {now : Tick} {x : Cmp} (armed : x.en = true) (loaded : x.loadedAt ≠ now)
    (reached : x.value.toNat ≤ now.toNat) : x.due now = true := by
  simp [Cmp.due, Cmp.old, armed, loaded, reached]

theorem Cmp.matched_late_of_none {now : Tick} {x : Cmp} (onTime : x.lateAt = none) : (x.matched now).late = x.late := by
  simp [Cmp.matched, Cmp.lateDue, onTime]

theorem Cmp.matched_late_of_earlier {now u : Tick} {x : Cmp} (found : x.lateAt = some u) (earlier : u ≠ now) :
    (x.matched now).late = true := by
  simp [Cmp.matched, Cmp.lateDue, found, earlier]

/-! ## A match that has fallen due (R279, R286) -/

/-- TB as a match of channel `n` leaves it. -/
def Tb.matches (n : Fin 32) (t : Tb) : Tb :=
  { t with cmp := upd t.cmp n (Cmp.seen t.now), cmpFlg := t.cmpFlg ||| BitVec.ofNat 32 (2 ^ n.val),
           events := (0x80 + n.val, t.now + 1) :: t.events.filter (fun e => e.2 == t.now || e.2 == t.now + 1) }

theorem cmpDue_of_due {n : Fin 32} {s : State} (h : (s.tb.cmp[n] : Cmp).due s.tb.now = true) :
    cmpDue n s = { s with tb := s.tb.matches n, hp := (cmpDue n s).hp } := by
  have entry : upd s.tb.cmp n (Cmp.seen s.tb.now) = upd s.tb.cmp n (Cmp.matched s.tb.now) := by
    simp only [upd, Cmp.seen_of_due h]
  have run : cmpDue n s = if s.tb.ienCmp.getLsbD n.val = true then raiseEventIrq .tb (s.modTb (Tb.matches n))
      else s.modTb (Tb.matches n) := by
    unfold cmpDue
    simp only [now_eq, h, if_true, State.modCmp, tbEvent, State.modTb, Tb.matches, entry]
    rfl
  rw [run]
  exact eventIrq_frame ..

theorem cmpDue_of_not_due {n : Fin 32} {s : State} (h : (s.tb.cmp[n] : Cmp).due s.tb.now = false) : cmpDue n s = s := by
  unfold cmpDue
  simp only [now_eq, h, Bool.false_eq_true, if_false]

theorem cmpDue_cmp (n : Fin 32) (s : State) : (cmpDue n s).tb.cmp = upd s.tb.cmp n (Cmp.seen s.tb.now) := by
  by_cases due : (s.tb.cmp[n] : Cmp).due s.tb.now
  · rw [cmpDue_of_due due]
    rfl
  · have due := Bool.not_eq_true _ ▸ due
    rw [cmpDue_of_not_due due, upd_of_fixed (Cmp.seen_of_not_due due)]

/-- `t` differs from `s` in compare channels, their flags, internal events and interrupts alone. -/
def State.ComparesMove (s t : State) : Prop :=
  t = { s with tb := { s.tb with cmp := t.tb.cmp, cmpFlg := t.tb.cmpFlg, events := t.tb.events }, hp := t.hp }

theorem cmpDue_move (n : Fin 32) (s : State) : s.ComparesMove (cmpDue n s) := by
  by_cases due : (s.tb.cmp[n] : Cmp).due s.tb.now
  · rw [cmpDue_of_due due]
    rfl
  · rw [cmpDue_of_not_due (Bool.not_eq_true _ ▸ due)]
    rfl

/-! ## Writes to a channel -/

theorem exec_cmpLoWrite {s : State} {p : Side} {n : Fin 32} {v : Word} (r : s.reaches p .tb (.cmpLoWrite p n v)) :
    exec (.cmpLoWrite p n v) s = .next (cmpLoWrite n v s) := congrArg _ (inOrder_reaches rfl r)

theorem exec_cmpHiWrite {s : State} {p : Side} {n : Fin 32} {v : Word} (r : s.reaches p .tb (.cmpHiWrite p n v)) :
    exec (.cmpHiWrite p n v) s = .next (cmpHiWrite n v s) := congrArg _ (inOrder_reaches rfl r)

theorem exec_cmpEnable {s : State} {p : Side} {n : Fin 32} {en : Bool} (r : s.reaches p .tb (.cmpEnable p n en)) :
    exec (.cmpEnable p n en) s = .next (cmpEnable n en s) := congrArg _ (inOrder_reaches rfl r)

/-- Channel `n` changed by `f`, a match of the tick taken first. -/
def State.cmpAfterMatch (s : State) (n : Fin 32) (f : Cmp → Cmp) : State := (cmpDue n s).modCmp n f

theorem cmpHiWrite_eq (n : Fin 32) (v : Word) (s : State) :
    cmpHiWrite n v s = s.cmpAfterMatch n (Cmp.loaded s.tb.now v) := rfl

theorem cmpEnable_eq (n : Fin 32) (en : Bool) (s : State) : cmpEnable n en s = s.cmpAfterMatch n (Cmp.armed s.tb.now en) := rfl

theorem cmpAfterMatch_cmp (s : State) (n : Fin 32) (f : Cmp → Cmp) :
    (s.cmpAfterMatch n f).tb.cmp = upd s.tb.cmp n (fun x => f (x.seen s.tb.now)) := by
  show upd (cmpDue n s).tb.cmp n f = _
  rw [cmpDue_cmp, upd_upd]

theorem cmpAfterMatch_move (s : State) (n : Fin 32) (f : Cmp → Cmp) : s.ComparesMove (s.cmpAfterMatch n f) := by
  have match_ := cmpDue_move n s
  unfold State.ComparesMove at *
  rw [State.cmpAfterMatch, match_]
  rfl

/-! ## The statement -/

/-- Settles O19: each write is one change of its channel behind a match of the tick, and a match is `Cmp.matched` with its event
and flag. -/
theorem compareChannelsLoadArmAndMatch : Obligations.CompareChannelsLoadArmAndMatch := by
  refine ⟨fun s p n v en l iso => ⟨fun turn => ?_, fun turn => ?_, fun turn => ?_⟩, fun s n armed loaded reached => ?_,
    fun s n idle => congrArg _ (cmpDue_of_not_due idle)⟩
  · exact ⟨_, exec_cmpLoWrite ⟨l, iso, turn⟩, upd_get .., fun m ne => upd_get_ne _ _ ne, rfl⟩
  · have entry : ((cmpHiWrite n v s).tb.cmp[n] : Cmp) = ((s.tb.cmp[n] : Cmp).seen s.tb.now).loaded s.tb.now v := by
      rw [cmpHiWrite_eq, cmpAfterMatch_cmp, upd_get]
    refine ⟨_, exec_cmpHiWrite ⟨l, iso, turn⟩, ?_, ?_, ?_, fun m ne => ?_, cmpAfterMatch_move ..⟩
    · rw [entry, Cmp.loaded, Cmp.seen_lo]
    · rw [entry, Cmp.loaded]
    · rw [entry, Cmp.loaded]
    · rw [cmpHiWrite_eq, cmpAfterMatch_cmp, upd_get_ne _ _ ne]
  · have entry : ((cmpEnable n en s).tb.cmp[n] : Cmp) = ((s.tb.cmp[n] : Cmp).seen s.tb.now).armed s.tb.now en := by
      rw [cmpEnable_eq, cmpAfterMatch_cmp, upd_get]
    refine ⟨_, exec_cmpEnable ⟨l, iso, turn⟩, ?_, ?_, ?_, fun m ne => ?_, cmpAfterMatch_move ..⟩
    · rw [entry, Cmp.armed_en]
    · rw [entry, Cmp.armed_value, Cmp.seen_value]
    · rintro rfl
      rw [entry, Cmp.armed_lateAt, Cmp.seen_value]
    · rw [cmpEnable_eq, cmpAfterMatch_cmp, upd_get_ne _ _ ne]
  · have due := Cmp.due_of_reached armed loaded reached
    have entry : ((cmpDue n s).tb.cmp[n] : Cmp) = (s.tb.cmp[n] : Cmp).matched s.tb.now := by
      rw [cmpDue_cmp, upd_get, Cmp.seen_of_due due]
    refine ⟨cmpDue n s, rfl, ?_, ?_, ?_, fun onTime => ?_, fun u found earlier => ?_, fun m ne => ?_, cmpDue_move n s⟩
    · rw [entry, Cmp.matched]
    · rw [cmpDue_of_due due, Tb.matches]
    · rw [cmpDue_of_due due]
      exact List.mem_cons_self
    · rw [entry, Cmp.matched_late_of_none onTime]
    · rw [entry, Cmp.matched_late_of_earlier found earlier]
    · rw [cmpDue_cmp, upd_get_ne _ _ ne]

end Sys2Proof.Machine
end

section
/-!
PROOFS about the capture channels: what a read of a queue and a write of its control do, and what becomes of an event. They settle
O20 and O21.
-/
namespace Sys2Proof.Machine

@[simp] theorem cap_modCap (s : State) (c : Fin 16) (f : Cap → Cap) : (s.modCap c f).tb.cap[c] = f s.tb.cap[c] := upd_get _ _ _

theorem cap_modCap_ne (s : State) {c d : Fin 16} (f : Cap → Cap) (h : d ≠ c) : (s.modCap c f).tb.cap[d] = s.tb.cap[d] :=
  upd_get_ne _ _ h

theorem modCap_of_fixed {s : State} {c : Fin 16} {f : Cap → Cap} (h : f s.tb.cap[c] = s.tb.cap[c]) : s.modCap c f = s := by
  simp only [State.modCap, State.modTb, upd_of_fixed h]

theorem modCap_modCap (s : State) (c : Fin 16) (f g : Cap → Cap) : (s.modCap c f).modCap c g = s.modCap c (fun x => g (f x)) := by
  simp only [State.modCap, State.modTb, upd_upd]

/-! ## Reads of CAP_LO and CAP_HI (R6, R282) -/

theorem isolatedAt_capture {s : State} (iso : isolated .tb s = false) (c : Fin 16) {o : Nat} (h : o < 16) :
    s.isolatedAt (0x7500 + 16 * c.val + o) = false := by
  have offset : 0x7500 + 16 * c.val + o = 0x1000 * Block.tb.id + (0x500 + 16 * c.val + o) := by
    show _ = 0x1000 * 7 + _
    omega
  rw [offset, isolatedAt_block (by omega), iso]

theorem exec_capLoRead {s : State} {p : Side} (l : s.live p) (iso : isolated .tb s = false) (c : Fin 16) :
    exec (.capLoRead p c) s = .next (capLoRead p c s) := by
  have iso' : s.isolatedAt (0x7508 + 16 * c.val) = false := by
    rw [← isolatedAt_capture iso c (o := 8) (by decide)]
    congr 1
    omega
  have channel : (⟨(0x7508 + 16 * c.val - 0x7500) / 16 % 16, Nat.mod_lt _ (by decide)⟩ : Fin 16) = c := Fin.ext (by simp; omega)
  refine congrArg _ ((fromPort_live l).trans ?_)
  rw [hostReadAct, iso', if_neg (by decide), if_pos (by omega), channel]

/-- A read of CAP_HI returns what the port's last read of CAP_LO has latched. -/
theorem exec_capHi_read {s : State} {p : Side} (l : s.live p) (iso : isolated .tb s = false) {c : Fin 16} {v : Word}
    (held : (s.hport p).holds.find? (fun h => h.1 == 0x750C + 16 * c.val) = some (0x750C + 16 * c.val, v)) :
    ∃ u, exec (.lowHalfRead p (.bar0 (0x750C + 16 * c.val))) s = .next u ∧ (u.hport p).lastRead = some v := by
  have iso' : s.isolatedAt (0x750C + 16 * c.val) = false := by
    rw [← isolatedAt_capture iso c (o := 12) (by decide)]
    congr 1
    omega
  have high : highHalf (0x750C + 16 * c.val) = true := by
    have range : 0x7500 ≤ 0x750C + 16 * c.val ∧ 0x750C + 16 * c.val < 0x7600 ∧ (0x750C + 16 * c.val) % 16 = 0xC := by omega
    simp [highHalf, range]
  have value : hostRead p (0x750C + 16 * c.val) s = v := by simp [hostRead, high, held]
  have read : exec (.lowHalfRead p (.bar0 (0x750C + 16 * c.val))) s = .next (hostReadAct p (0x750C + 16 * c.val) s) :=
    congrArg Host.Outcome.next (fromPort_live l)
  refine ⟨_, read, ?_⟩
  rw [hostReadAct, iso', if_neg (by decide), if_neg (by omega), readData, hport_modHport, value]

/-- A read of CAP_LO returns the low half of the entry at the head, or of 0, and latches the high half. -/
theorem capLoRead_hport (p : Side) (c : Fin 16) (s : State) :
    ((capLoRead p c s).hport p).inReset = (s.hport p).inReset ∧
    ((capLoRead p c s).hport p).lastRead = some (loHalf ((s.tb.cap[c] : Cap).queue.headD 0)) ∧
    ((capLoRead p c s).hport p).holds.find? (fun h => h.1 == 0x750C + 16 * c.val) =
      some (0x750C + 16 * c.val, hiHalf ((s.tb.cap[c] : Cap).queue.headD 0)) := by
  let e := (s.tb.cap[c] : Cap).queue.headD 0
  have port : (capLoRead p c s).hport p = { s.hport p with
      holds := (0x750C + 16 * c.val, hiHalf e) :: (s.hport p).holds.filter (fun h => h.1 != 0x750C + 16 * c.val),
      lastRead := some (loHalf e) } := by
    simp only [capLoRead, readData, latchHigh, hport_modHport]
    rfl
  rw [port]
  exact ⟨rfl, rfl, List.find?_cons_of_pos (by simp)⟩

/-- It removes the oldest entry, and changes only its channel and the ports. -/
theorem capLoRead_eq (p : Side) (c : Fin 16) (s : State) : capLoRead p c s =
    { s.modCap c (fun x => { x with queue := x.queue.drop 1 }) with hp := (capLoRead p c s).hp } := rfl

/-! ## A write of CAP_CTL (R284) -/

theorem exec_capCtlWrite {s : State} {p : Side} {c : Fin 16} {v : Word} (r : s.reaches p .tb (.capCtlWrite p c v)) :
    exec (.capCtlWrite p c v) s = .next (capCtlWrite p c v s) := congrArg _ (inOrder_reaches rfl r)

/-- A channel as a write of `v` to CAP_CTL on tick `now` leaves it, where SRC and TAP are defined. -/
def Cap.set (now : Tick) (v : Word) (x : Cap) : Cap :=
  { x with src := v.extractLsb' 0 8, edge := v.extractLsb' 8 2, tap := v.extractLsb' 10 2, setAt := some now, queue := [],
           ovf := false }

theorem capCtlWrite_defined {v : Word} (src : (v.extractLsb' 0 8).toNat ≤ 0xB6) (tap : v.extractLsb' 10 2 ≠ 3)
    (fits : v.toNat < 4096) (p : Side) (c : Fin 16) (s : State) :
    capCtlWrite p c v s = s.modCap c (Cap.set s.tb.now v) := by
  have lawful : ¬(0xB6 < (v.extractLsb' 0 8).toNat ∨ v.extractLsb' 10 2 = 3 ∨ 4096 ≤ v.toNat) := by
    rintro (h | h | h)
    · omega
    · exact tap h
    · omega
  unfold capCtlWrite
  rw [if_neg lawful]
  simp only [src, if_true, tap, if_false, now_eq]
  rfl

/-! ## An event (R281, R283) -/

/-- The bits of an entry: LEVEL above the tick's low 63. -/
theorem capEntry_bit (x : Cap) (level : Bool) (now : Tick) (i : Nat) : (capEntry x level now).getLsbD i =
    if i < 63 then (now.extractLsb' 0 63).getLsbD i
    else (if x.src.toNat < 128 then BitVec.ofBool level else 1#1).getLsbD (i - 63) := BitVec.getLsbD_append

/-- An entry's low 63 bits are those of the tick. -/
theorem capEntry_time (x : Cap) (level : Bool) (now : Tick) : (capEntry x level now).extractLsb' 0 63 = now.extractLsb' 0 63 := by
  refine BitVec.eq_of_getLsbD_eq fun i below => ?_
  rw [BitVec.getLsbD_extractLsb', Nat.zero_add, capEntry_bit, if_pos below, decide_eq_true below, Bool.true_and]

/-- Its bit 63 is LEVEL. -/
theorem capEntry_level (x : Cap) (level : Bool) (now : Tick) :
    (capEntry x level now).getLsbD 63 = if x.src.toNat < 128 then level else true := by
  rw [capEntry_bit, if_neg (by decide)]
  split
  · cases level <;> rfl
  · rfl

/-- A channel that has taken an event of this level on tick `now`. -/
def Cap.taken (level : Bool) (now : Tick) (x : Cap) : Cap :=
  { x with queue := x.queue ++ [capEntry x level now], lastAt := some now }

/-- A channel that has dropped an event on tick `now`. -/
def Cap.dropped (now : Tick) (x : Cap) : Cap := { x with ovf := true, ovfCnt := satInc x.ovfCnt, lastAt := some now }

/-- A channel takes no event on the tick of a write of its CAP_CTL (R284). -/
theorem exec_captureEvent_on_set {s : State} {c : Fin 16} (lv : Bool) (h : (s.tb.cap[c] : Cap).setAt = some s.tb.now) :
    exec (.captureEvent c lv) s = .next s := by
  show execCaptureEvent c lv s = _
  unfold execCaptureEvent
  exact congrArg Host.Outcome.next (if_pos (by simp only [h, now_eq, beq_self_eq_true, Bool.or_true, Bool.true_or]))

section
variable {s : State} {c : Fin 16} {lv : Bool} (clock : s.pcr.clk.tb = true) (edge : (s.tb.cap[c] : Cap).edge ≠ 0)
  (settled : (s.tb.cap[c] : Cap).setAt ≠ some s.tb.now) (first : (s.tb.cap[c] : Cap).lastAt ≠ some s.tb.now)
  (delivers : captures (s.tb.cap[c] : Cap) lv s = true)
include clock edge settled first delivers

/-- What is left of the command is to drop the event, or to take it with an interrupt for the first entry. -/
theorem exec_captureEvent_attentive : exec (.captureEvent c lv) s = .next (
    if (if s.capReadWaits c then 5 else 4) ≤ (s.tb.cap[c] : Cap).queue.length then s.modCap c (Cap.dropped s.tb.now)
    else if ((s.tb.cap[c] : Cap).queue.isEmpty && s.tb.ienPc.getLsbD (16 + c.val)) = true then
      raiseEventIrq .tb (s.modCap c (Cap.taken lv s.tb.now))
    else s.modCap c (Cap.taken lv s.tb.now)) := by
  have attentive : (!s.pcr.clk.tb || (s.tb.cap[c] : Cap).edge == 0 || (s.tb.cap[c] : Cap).setAt == some s.now ||
      (s.tb.cap[c] : Cap).lastAt == some s.now || !captures (s.tb.cap[c] : Cap) lv s) = false := by
    rw [clock, delivers, beq_eq_false_iff_ne.mpr edge, now_eq, beq_eq_false_iff_ne.mpr settled, beq_eq_false_iff_ne.mpr first]
    rfl
  show execCaptureEvent c lv s = _
  unfold execCaptureEvent
  simp only [attentive, Bool.false_eq_true, if_false, modCap_modCap]
  rfl

theorem exec_captureEvent_taken (room : (s.tb.cap[c] : Cap).queue.length < (if s.capReadWaits c then 5 else 4)) :
    ∃ k : Hp, exec (.captureEvent c lv) s =
      .next { s.modCap c (Cap.taken lv s.tb.now) with hp := k } := by
  rw [exec_captureEvent_attentive clock edge settled first delivers, if_neg (Nat.not_le.mpr room)]
  exact ⟨_, congrArg Host.Outcome.next (eventIrq_frame ..)⟩

theorem exec_captureEvent_dropped (full : 4 ≤ (s.tb.cap[c] : Cap).queue.length) (noRead : s.capReadWaits c = false) :
    exec (.captureEvent c lv) s = .next (s.modCap c (Cap.dropped s.tb.now)) := by
  rw [exec_captureEvent_attentive clock edge settled first delivers, noRead, if_pos (by simpa using full)]

end

/-! ## The statements -/

/-- Settles O20: a read of CAP_LO and a write of CAP_CTL are each one change of the channel, and CAP_HI is read from what CAP_LO
has latched. -/
theorem captureQueueReadAndControl : Obligations.CaptureQueueReadAndControl := by
  refine ⟨fun s p c e q l iso queue => ?_, fun s p c l iso empty => ?_, fun s p c v r src tap fits => ?_⟩
  · obtain ⟨live, low, high⟩ := capLoRead_hport p c s
    rw [queue, List.headD_cons] at low high
    refine ⟨_, exec_capLoRead l iso c, low, high, ?_, fun d ne => cap_modCap_ne s _ ne, ?_, rfl⟩
    · refine (cap_modCap s c _).trans ?_
      rw [queue]
      rfl
    · exact exec_capHi_read (live.trans l) iso high
  · obtain ⟨-, low, high⟩ := capLoRead_hport p c s
    rw [empty, List.headD_nil] at low high
    have frame : capLoRead p c s = { s with hp := (capLoRead p c s).hp } := by
      have fixed : { (s.tb.cap[c] : Cap) with queue := (s.tb.cap[c] : Cap).queue.drop 1 } = (s.tb.cap[c] : Cap) := by
        rw [empty, List.drop_nil, ← empty]
      rw [capLoRead_eq, modCap_of_fixed fixed]
    exact ⟨_, exec_capLoRead l iso c, low, high, by rw [frame], frame⟩
  · rw [exec_capCtlWrite r, capCtlWrite_defined src tap fits]
    refine ⟨_, rfl, ?_⟩
    have entry : ((s.modCap c (Cap.set s.tb.now v)).tb.cap[c] : Cap) = Cap.set s.tb.now v s.tb.cap[c] := cap_modCap ..
    rw [entry]
    refine ⟨rfl, rfl, rfl, rfl, rfl, rfl, fun lv => ?_, fun d ne => cap_modCap_ne s _ ne, rfl⟩
    exact exec_captureEvent_on_set lv (by rw [entry]; rfl)

/-- Settles O21: an event of an attentive channel is `Cap.taken` or `Cap.dropped`, with an interrupt at most. -/
theorem capturedEventIsTickAndLevel : Obligations.CapturedEventIsTickAndLevel := by
  intro s c lv clock edge settled first delivers
  refine ⟨fun room => ?_, fun full noRead => ?_⟩
  · obtain ⟨k, run⟩ := exec_captureEvent_taken clock edge settled first delivers room
    exact ⟨_, capEntry s.tb.cap[c] lv s.tb.now, run, cap_modCap .., capEntry_time .., capEntry_level ..,
      fun d ne => cap_modCap_ne s _ ne, rfl⟩
  · exact ⟨_, exec_captureEvent_dropped clock edge settled first delivers full noRead, cap_modCap ..,
      fun d ne => cap_modCap_ne s _ ne, rfl⟩

end Sys2Proof.Machine
end

section
/-!
PROOFS about the host ports: what a port sends when a vector becomes sendable, what a reset of a port leaves of its rings, its
owner and the rest, and the commands of links, power states, ownership and isolated blocks. They settle O48 and O49.
-/
namespace Sys2Proof.Machine

/-! ## Changes of a port -/

theorem modHport_congr {s : State} {p : Side} {f g : HpPort → HpPort} (h : f (s.hport p) = g (s.hport p)) :
    s.modHport p f = s.modHport p g := by
  have same : f (s.hp.port.get p) = g (s.hp.port.get p) := h
  simp only [State.modHport, Two.upd, same]

theorem modHport_modHport (s : State) (p : Side) (f g : HpPort → HpPort) :
    (s.modHport p f).modHport p g = s.modHport p (fun h => g (f h)) := by
  cases p <;> rfl

/-! ## Pending messages (R298) -/

/-- Nothing holds back a message of the vector. -/
structure HpPort.MaySend (v : Fin 32) (h : HpPort) : Prop where
  enabled : h.msixEn = true
  function : h.fnMask = false
  vector : (h.msix[v] : MsixEntry).mask = false
  link : h.link = .l0 ∨ h.link = .l1
  released : h.inReset = false

/-- The message of a vector handed to the link. -/
def HpPort.sending (v : Fin 32) (h : HpPort) : HpPort :=
  { h with sent := ((h.msix[v] : MsixEntry).addr, (h.msix[v] : MsixEntry).data) :: h.sent }

theorem sendVector_sends {p : Side} {v : Fin 32} {s : State} (may : (s.hport p).MaySend v) :
    sendVector p v s = s.modHport p (HpPort.sending v) := by
  obtain ⟨enabled, function, vector, link, released⟩ := may
  refine modHport_congr (if_pos ?_)
  rw [enabled, function, vector, released]
  simpa using link

/-- One vector's turn in the sending of what is pending. -/
def sendPending (p : Side) (s : State) (v : Fin 32) : State :=
  if (s.hport p).pend.getLsbD v.val then
    sendVector p v (s.modHport p (fun h => { h with pend := h.pend &&& ~~~BitVec.ofNat 32 (2 ^ v.val) }))
  else s

theorem flushPending_eq (p : Side) (s : State) : flushPending p s = (fins 32).foldl (sendPending p) s := rfl

/-- Vectors whose pending bits are clear send nothing. -/
theorem foldl_sendPending_clear {p : Side} {s : State} {vs : List (Fin 32)}
    (clear : ∀ v ∈ vs, (s.hport p).pend.getLsbD v.val = false) : vs.foldl (sendPending p) s = s := by
  induction vs with
  | nil => rfl
  | cons v vs ih =>
    have skipped : sendPending p s v = s := if_neg (Bool.eq_false_iff.mp (clear v List.mem_cons_self))
    rw [List.foldl_cons, skipped]
    exact ih fun w mem => clear w (List.mem_cons_of_mem v mem)

theorem getLsbD_vectorBit (v w : Fin 32) : (BitVec.ofNat 32 (2 ^ v.val)).getLsbD w.val = decide (w = v) := by
  rw [BitVec.getLsbD_ofNat, Nat.testBit_two_pow]
  simp [eq_comm, Fin.ext_iff]

/-- A port on which one vector alone is pending, and can be sent, sends its message once and has nothing pending left. -/
theorem flushPending_single {p : Side} {v : Fin 32} {s : State} (single : (s.hport p).pend = BitVec.ofNat 32 (2 ^ v.val))
    (may : (s.hport p).MaySend v) : flushPending p s = s.modHport p (fun h => { h.sending v with pend := 0 }) := by
  have turn : sendPending p s v = s.modHport p (fun h => { h.sending v with pend := 0 }) := by
    have up : ((s.modHport p (fun h => { h with pend := h.pend &&& ~~~BitVec.ofNat 32 (2 ^ v.val) })).hport p).MaySend v := by
      rw [hport_modHport]
      exact { may with }
    have mine : (s.hport p).pend.getLsbD v.val = true := by rw [single, getLsbD_vectorBit, decide_eq_true rfl]
    rw [sendPending, if_pos mine, sendVector_sends up, modHport_modHport]
    refine modHport_congr ?_
    simp only [HpPort.sending, single, BitVec.and_not_self]
  obtain ⟨before, after, all, fresh⟩ := List.eq_append_cons_of_mem (List.mem_finRange v)
  have quiet : ∀ w ∈ before, (s.hport p).pend.getLsbD w.val = false := fun w mem => by
    rw [single, getLsbD_vectorBit]
    exact decide_eq_false fun same => fresh (same ▸ mem)
  rw [flushPending_eq, fins, all, List.foldl_append, List.foldl_cons, foldl_sendPending_clear quiet, turn]
  exact foldl_sendPending_clear fun w _ => by rw [hport_modHport]; exact BitVec.getLsbD_zero

/-! ## Unmasking (R298) -/

/-- A port with the mask of one vector, or of the function, cleared. -/
def HpPort.unmasked (x : Option (Fin 32)) (h : HpPort) : HpPort :=
  match x with
  | some v => { h with msix := upd h.msix v (fun e => { e with mask := false }) }
  | none => { h with fnMask := false }

theorem exec_msixUnmask {s : State} {p : Side} {x : Option (Fin 32)} (l : s.live p) :
    exec (.msixUnmask p x) s = .next (flushPending p (s.modHport p (HpPort.unmasked x))) := congrArg _ (fromPort_live l)

@[simp] theorem HpPort.unmasked_pend (x : Option (Fin 32)) (h : HpPort) : (h.unmasked x).pend = h.pend := by cases x <;> rfl

@[simp] theorem HpPort.unmasked_sent (x : Option (Fin 32)) (h : HpPort) : (h.unmasked x).sent = h.sent := by cases x <;> rfl

theorem HpPort.unmasked_mask (v : Fin 32) (h : HpPort) : ((h.unmasked (some v)).msix[v] : MsixEntry).mask = false :=
  congrArg MsixEntry.mask (upd_get h.msix v _)

/-- Clearing a mask leaves the message of a vector. -/
theorem HpPort.unmasked_message (x : Option (Fin 32)) (v : Fin 32) (h : HpPort) :
    ((h.unmasked x).sending v).sent = ((h.msix[v] : MsixEntry).addr, (h.msix[v] : MsixEntry).data) :: h.sent := by
  cases x with
  | none => rfl
  | some w =>
    by_cases same : v = w
    · subst same
      simp only [sending, unmasked, upd_get]
    · simp only [sending, unmasked, upd_get_ne _ _ same]

theorem exec_msixUnmask_single {s : State} {p : Side} {x : Option (Fin 32)} {v : Fin 32} (l : s.live p)
    (single : (s.hport p).pend = BitVec.ofNat 32 (2 ^ v.val)) (may : ((s.hport p).unmasked x).MaySend v) :
    exec (.msixUnmask p x) s = .next (s.modHport p (fun h => { (h.unmasked x).sending v with pend := 0 })) := by
  rw [exec_msixUnmask l, flushPending_single (v := v) (by simpa using single) (by simpa using may), modHport_modHport]

theorem exec_msixUnmask_nothing {s : State} {p : Side} {x : Option (Fin 32)} (l : s.live p) (nothing : (s.hport p).pend = 0) :
    exec (.msixUnmask p x) s = .next (s.modHport p (HpPort.unmasked x)) := by
  rw [exec_msixUnmask l, flushPending_of_pend_zero (by simpa using nothing)]

/-- Settles O49: the flush after an unmasking reaches one sendable vector once, and with no bit pending it sends nothing. -/
theorem unmaskSendsThePendingMessage : Obligations.UnmaskSendsThePendingMessage := by
  intro s p v l link enabled
  refine ⟨fun function single => ?_, fun vector single => ?_, fun nothing x => ?_⟩
  · have may : ((s.hport p).unmasked (some v)).MaySend v :=
      ⟨enabled, function, HpPort.unmasked_mask v _, .inl link, l⟩
    refine ⟨_, exec_msixUnmask_single l single may, ?_, ?_, ?_, hport_modHport_other .., rfl⟩
    · rw [hport_modHport]
      exact HpPort.unmasked_mask v (s.hport p)
    · rw [hport_modHport]
    · rw [hport_modHport]
      exact HpPort.unmasked_message (some v) v (s.hport p)
  · have may : ((s.hport p).unmasked none).MaySend v := ⟨enabled, rfl, vector, .inl link, l⟩
    refine ⟨_, exec_msixUnmask_single l single may, ?_, ?_, ?_, hport_modHport_other .., rfl⟩
    · rw [hport_modHport]
      rfl
    · rw [hport_modHport]
    · rw [hport_modHport]
      exact HpPort.unmasked_message none v (s.hport p)
  · exact ⟨_, exec_msixUnmask_nothing l nothing, by simp, by simpa using nothing, hport_modHport_other .., rfl⟩

/-! ## The reset of a port (R299, R328) -/

theorem endItem_keeps (p q : Side) (n m : Fin 8) (code : Nat) (r : Word) (s : State) :
    ((endItem p n code r s).wport q).landing = (s.wport q).landing ∧ ((endItem p n code r s).sq q m).head = (s.sq q m).head := by
  refine ⟨?_, ?_⟩
  · by_cases own : q = p
    · subst own
      simp [endItem, State.modItem, State.modSq]
    · rw [endItem, State.modItem, State.modSq, wport_modWport_ne _ _ own]
  · by_cases port : q = p
    · subst port
      by_cases ring : m = n
      · subst ring
        simp [endItem, State.modItem]
      · rw [endItem, State.modItem, sq_modSq_ne _ _ (.inr ring)]
    · rw [endItem, State.modItem, sq_modSq_ne _ _ (.inl port)]

theorem ackRefuse_keeps (q : Side) (m : Fin 8) (s : State) :
    ((ackRefuse s).wport q).landing = (s.wport q).landing ∧ ((ackRefuse s).sq q m).head = (s.sq q m).head := by
  unfold ackRefuse
  split
  · exact endItem_keeps ..
  · exact ⟨rfl, rfl⟩

/-- A release of ownership refuses the acknowledgement that is awaited or leaves it. -/
theorem disown_cases (s : State) : disown s = (ackRefuse s).modHp (fun h => { h with owner := none }) ∨
    disown s = s.modHp (fun h => { h with owner := none }) := by
  have either (commit : Bool) (f : Hp → Hp) : (if commit = true then ackRefuse s else s).modHp f = (ackRefuse s).modHp f ∨
      (if commit = true then ackRefuse s else s).modHp f = s.modHp f := by
    cases commit
    · exact .inr rfl
    · exact .inl rfl
  unfold disown
  exact either _ _

/-- A release of ownership leaves landing windows and heads. -/
theorem disown_keeps (q : Side) (m : Fin 8) (s : State) :
    ((disown s).wport q).landing = (s.wport q).landing ∧ ((disown s).sq q m).head = (s.sq q m).head := by
  rcases disown_cases s with refused | left
  · rw [refused]
    exact ackRefuse_keeps q m s
  · rw [left]
    exact ⟨rfl, rfl⟩

theorem disown_hp (s : State) : (disown s).hp = { s.hp with owner := none } := by
  rcases disown_cases s with refused | left
  · simp [refused, State.modHp]
  · rw [left]
    rfl

theorem disown_of_no_ack {s : State} (noAck : s.st.ack = none) : disown s = s.modHp (fun h => { h with owner := none }) := by
  simp [disown, noAck]

/-- The state in which a reset of a port reaches its rings: its registers are reset, and outside RECOVERY it has given up ownership. -/
def State.portCleared (s : State) (p : Side) : State :=
  let t := s.modHport p (HpPort.portReset s.now)
  if s.hp.owner = some p ∧ s.dev ≠ .recovery then disown t else t

theorem portReset_eq (p : Side) (s : State) : portReset p s = (s.portCleared p).modWport p (fun w =>
    { w with sq := w.sq.map Sq.portReset, cq := w.cq.map Cq.portReset }) := rfl

theorem portCleared_hp (s : State) (p : Side) : (s.portCleared p).hp =
    { s.hp with port := s.hp.port.upd p (HpPort.portReset s.now)
                owner := if s.hp.owner = some p ∧ s.dev ≠ .recovery then none else s.hp.owner } := by
  unfold State.portCleared
  dsimp only
  split
  · exact disown_hp _
  · rfl

theorem portCleared_keeps (s : State) (p q : Side) (m : Fin 8) :
    ((s.portCleared p).wport q).landing = (s.wport q).landing ∧ ((s.portCleared p).sq q m).head = (s.sq q m).head := by
  unfold State.portCleared
  dsimp only
  split
  · exact disown_keeps q m _
  · exact ⟨rfl, rfl⟩

theorem portCleared_of_no_ack {s : State} (noAck : s.st.ack = none) (p : Side) :
    s.portCleared p = { s with hp := (s.portCleared p).hp } := by
  unfold State.portCleared
  dsimp only
  split
  · rw [disown_of_no_ack (s := s.modHport p (HpPort.portReset s.now)) noAck]
    rfl
  · rfl

theorem portReset_hp (p : Side) (s : State) : (portReset p s).hp = (s.portCleared p).hp := rfl

theorem hport_portReset (p : Side) (s : State) : (portReset p s).hport p = (s.hport p).portReset s.now := by
  rw [State.hport, portReset_hp, portCleared_hp]
  exact Two.get_upd ..

theorem hport_portReset_other (p : Side) (s : State) : (portReset p s).hport p.other = s.hport p.other := by
  rw [State.hport, portReset_hp, portCleared_hp]
  exact Two.get_upd_other ..

theorem owner_portReset (p : Side) (s : State) :
    (portReset p s).hp.owner = if s.hp.owner = some p ∧ s.dev ≠ .recovery then none else s.hp.owner := by
  rw [portReset_hp, portCleared_hp]

/-- A reset of a port disables its rings and leaves their heads (R339). -/
theorem portReset_rings (p : Side) (s : State) (n : Fin 8) : ((portReset p s).sq p n).en = false ∧
    ((portReset p s).cq p n).en = false ∧ ((portReset p s).sq p n).head = (s.sq p n).head := by
  have sq : (portReset p s).sq p n = ((s.portCleared p).sq p n).portReset := by
    rw [portReset_eq, State.sq, wport_modWport]
    exact Vector.getElem_map ..
  have cq : (portReset p s).cq p n = ((s.portCleared p).cq p n).portReset := by
    rw [portReset_eq, State.cq, wport_modWport]
    exact Vector.getElem_map ..
  rw [sq, cq]
  exact ⟨rfl, rfl, (portCleared_keeps s p p n).2⟩

theorem landing_portReset (p : Side) (s : State) : ((portReset p s).wport p).landing = (s.wport p).landing := by
  rw [portReset_eq, wport_modWport]
  exact (portCleared_keeps s p p 0).1

/-- While no acknowledgement is awaited, a reset of a port changes the ports and its own rings alone. -/
theorem portReset_of_no_ack {s : State} (noAck : s.st.ack = none) (p : Side) :
    (portReset p s).wport p.other = s.wport p.other ∧
    portReset p s = { s with hp := (portReset p s).hp, wq := (portReset p s).wq } := by
  have cleared := portCleared_of_no_ack noAck p
  refine ⟨?_, ?_⟩
  · rw [portReset_eq, wport_modWport_other, cleared]
    rfl
  · rw [portReset_eq, cleared]
    rfl

/-- A port after its reset; a function-level reset puts back what was negotiated. -/
def HpPort.relinked (flr : Bool) (before h : HpPort) : HpPort :=
  if flr then { h with link := before.link, rate := before.rate, width := before.width } else h

/-- Of its registers a reset of a port keeps the counters, whatever happens to its link. -/
theorem HpPort.relinked_portReset (flr : Bool) (now : Tick) (h : HpPort) : (relinked flr h (h.portReset now)).image = [] ∧
    (relinked flr h (h.portReset now)).refused = h.refused ∧ (relinked flr h (h.portReset now)).disc = h.disc := by
  cases flr <;> exact ⟨rfl, rfl, rfl⟩

theorem exec_portReset {s : State} {p : Side} {flr : Bool} (l : s.live p) :
    exec (.portReset p flr) s = .next ((portReset p s).modHport p (HpPort.relinked flr (s.hport p))) := by
  refine congrArg _ ((fromPort_live l).trans ?_)
  cases flr
  · cases p <;> rfl
  · rfl

/-! ## Links and power states (R289, R298, R300) -/

theorem sendPending_sameButIrqs (p : Side) (s : State) (v : Fin 32) : (s.hport p).SameButIrqs ((sendPending p s v).hport p) := by
  unfold sendPending
  split
  · refine HpPort.SameButIrqs.trans ?_ (sendVector_sameButIrqs p p v _)
    rw [hport_modHport]
    exact ⟨rfl⟩
  · exact .refl _

theorem flushPending_sameButIrqs (p : Side) (s : State) : (s.hport p).SameButIrqs ((flushPending p s).hport p) :=
  List.foldlRecOn (fins 32) (sendPending p) (motive := fun t => (s.hport p).SameButIrqs (t.hport p)) (.refl _)
    fun t same v _ => same.trans (sendPending_sameButIrqs p t v)

theorem hport_sendPending_other (p : Side) (s : State) (v : Fin 32) : (sendPending p s v).hport p.other = s.hport p.other := by
  unfold sendPending
  split
  · rw [sendVector, hport_modHport_other, hport_modHport_other]
  · rfl

theorem hport_flushPending_other (p : Side) (s : State) : (flushPending p s).hport p.other = s.hport p.other :=
  List.foldlRecOn (fins 32) (sendPending p) (motive := fun t => t.hport p.other = s.hport p.other) rfl
    fun t same v _ => (hport_sendPending_other p t v).trans same

/-- A port whose link has come back to L0. -/
def HpPort.returned (r w : BitVec 2) (h : HpPort) : HpPort := { h with link := .l0, rate := r, width := w }

theorem exec_linkLeavesL0 {s : State} {p : Side} (l : s.live p) (up : (s.hport p).link = .l0 ∨ (s.hport p).link = .l1) :
    exec (.linkLeavesL0 p) s = .next (s.modHport p (fun h => { h with link := .out s.tb.now })) := by
  refine congrArg _ ((fromPort_live l).trans (modHport_congr ?_))
  exact if_pos up

theorem exec_linkReturn_l0 {s : State} {p : Side} {r w : BitVec 2} (l : s.live p) (rate : r ≠ 0) (width : w ≠ 0) (three : w ≠ 3) :
    exec (.linkReturn p r w false) s = .next (flushPending p (s.modHport p (HpPort.returned r w))) := by
  have negotiated : ¬(r = 0 ∨ w = 0 ∨ w = 3) := not_or.mpr ⟨rate, not_or.mpr ⟨width, three⟩⟩
  refine congrArg _ ((fromPort_live l).trans ?_)
  simp only [Bool.false_eq_true, if_false, if_neg negotiated]
  rfl

theorem exec_linkReturn_l1 {s : State} {p : Side} {r w : BitVec 2} (l : s.live p) (l0 : (s.hport p).link = .l0) :
    exec (.linkReturn p r w true) s = .next (s.modHport p (fun h => { h with link := .l1 })) :=
  congrArg _ ((fromPort_live l).trans (if_pos l0))

theorem exec_powerStateWrite {s : State} {p : Side} {d : Bool} (l : s.live p) :
    exec (.powerStateWrite p d) s = .next (s.modHport p (fun h => { h with d3 := d })) := congrArg _ (fromPort_live l)

/-- The report of a lost link (R300, R303). -/
def linkDownReport (p : Side) : FaultRep :=
  { block := .hp, cause := 3, cls := .corrected, scope := 7, item := p.num, addr := p.num, init := 4, acc := 0xC, port := p }

/-- A port whose lost link has been counted and recorded. -/
def State.linkLost (s : State) (p : Side) : State :=
  recordCorrected (linkDownReport p) (s.modHport p (fun h => { h with linkDn := satInc h.linkDn }))

theorem exec_linkDown_due {s : State} {p : Side} {u : Tick} (out : (s.hport p).link = .out u)
    (due : 2400000 ≤ elapsed s.tb.now u) : exec (.linkDown p) s = .next (portReset p (s.linkLost p)) := by
  show execLinkDown p s = _
  simp only [execLinkDown, out]
  exact congrArg _ (if_pos due)

/-! ## Ownership and isolated blocks (R295, R301) -/

theorem exec_cfgClaim {s : State} {p : Side} {k : BitVec 16} (l : s.live p) (turn : s.inTurn (.cfgClaim p k)) :
    exec (.cfgClaim p k) s = .next (cfgClaim p k s) :=
  congrArg _ ((inOrder_inTurn rfl turn).trans (fromPort_live l))

theorem exec_cfgRelease {s : State} {p : Side} {k : BitVec 16} (l : s.live p) (turn : s.inTurn (.cfgRelease p k)) :
    exec (.cfgRelease p k) s = .next (cfgRelease p k s) :=
  congrArg _ ((inOrder_inTurn rfl turn).trans (fromPort_live l))

theorem cfgClaim_refused {s : State} {p : Side} {k : BitVec 16} (h : k ≠ 0xC1A1 ∨ s.hp.owner = some p.other) :
    cfgClaim p k s = countRefused p s := if_neg fun ⟨key, free⟩ => by simp_all

theorem cfgRelease_refused {s : State} {p : Side} {k : BitVec 16} (h : k ≠ 0xC1A1 ∨ s.hp.owner = some p.other) :
    cfgRelease p k s = countRefused p s := if_neg fun ⟨key, own, _⟩ => by simp_all

theorem exec_isolatedAccess {s : State} {p : Side} {b : Block} {o : Nat} {write : Bool} (l : s.live p)
    (iso : isolated b s = true) (ho : o < 0x1000) : exec (.isolatedAccess p (0x1000 * b.id + o) write) s = .next (
      if write then s.modHport p (fun h => { h with disc := satInc h.disc }) else abortRead p s) := by
  refine congrArg _ ((fromPort_live l).trans ?_)
  simp only [blockAt, blockOffset_div ho, Block.ofId_id, iso]
  rfl

/-! ## The statement -/

/-- Settles O48: each command, from a live port in its turn, comes down to one change of its port, and a reset of a port leaves what
it is said to leave. -/
theorem hostPortsChangeAlone : Obligations.HostPortsChangeAlone := by
  refine ⟨?_, ?_, ?_, ?_, ?_⟩
  · intro s p l
    refine ⟨fun up => ⟨_, exec_linkLeavesL0 l up, by rw [hport_modHport], hport_modHport_other .., rfl⟩,
      fun r w rate width three => ?_,
      fun l0 r w => ⟨_, exec_linkReturn_l1 l l0, hport_modHport .., hport_modHport_other .., rfl⟩,
      fun d => ⟨_, exec_powerStateWrite l, hport_modHport .., hport_modHport_other .., rfl⟩⟩
    have same := flushPending_sameButIrqs p (s.modHport p (HpPort.returned r w))
    rw [hport_modHport] at same
    exact ⟨_, exec_linkReturn_l0 l rate width three, by rw [same.eq]; rfl, by rw [same.eq]; rfl, by rw [same.eq]; rfl,
      (hport_flushPending_other ..).trans (hport_modHport_other ..),
      ((modHport_only s p _).step (flushPending_only p _) rfl).eq_of_hp⟩
  · intro s p flr l running
    have port : ((portReset p s).modHport p (HpPort.relinked flr (s.hport p))).hport p =
        HpPort.relinked flr (s.hport p) ((s.hport p).portReset s.now) := by rw [hport_modHport, hport_portReset]
    obtain ⟨image, refused, disc⟩ := HpPort.relinked_portReset flr s.now (s.hport p)
    refine ⟨_, exec_portReset l, portReset_rings p s, ?_, fun other => ?_, port ▸ image, port ▸ refused, port ▸ disc,
      landing_portReset p s, ?_, ?_, (hport_modHport_other ..).trans (hport_portReset_other p s), fun ack => ?_⟩
    · rw [owner_modHport, owner_portReset]
      split
      · simp
      · next kept => exact fun own => kept ⟨own, running⟩
    · rw [owner_modHport, owner_portReset, if_neg (fun ⟨own, _⟩ => other own)]
    · rintro rfl
      rw [port]
      rfl
    · rintro rfl
      rw [port]
      rfl
    · obtain ⟨rings, frame⟩ := portReset_of_no_ack ack p
      refine ⟨rings, ?_⟩
      rw [frame]
      rfl
  · intro s p u out due bad
    obtain ⟨count, same, frame⟩ := recordCorrected_hp (f := linkDownReport p)
      (s := s.modHport p (fun h => { h with linkDn := satInc h.linkDn })) bad rfl
    refine ⟨_, exec_linkDown_due out due, ?_, ?_, ?_, fun n => (portReset_rings p _ n).1, fun ack => ?_⟩
    · rw [hport_portReset]
      rfl
    · have counted := same p
      rw [hport_modHport] at counted
      rw [hport_portReset, State.linkLost, counted.eq]
      rfl
    · rw [frOf_of_fr ((portReset_only ..).fr.resolve_left (by decide))]
      exact count
    · have noAck : (s.linkLost p).st.ack = none := by rw [State.linkLost, frame]; exact ack
      rw [(portReset_of_no_ack noAck p).2, State.linkLost, frame]
      rfl
  · intro s p k l claim release
    refine ⟨fun key free => ?_, fun key own running => ⟨_, exec_cfgRelease l release, ?_⟩, fun refused => ?_⟩
    · rw [exec_cfgClaim l claim, cfgClaim, if_pos ⟨key, free⟩]
      rfl
    · rw [cfgRelease, if_pos ⟨key, own, running⟩, disown_hp]
      exact ⟨rfl, disown_of_no_ack⟩
    · refine ⟨countRefused p s, ?_, ?_, ?_, rfl, rfl⟩
      · rw [exec_cfgClaim l claim, cfgClaim_refused refused]
      · rw [exec_cfgRelease l release, cfgRelease_refused refused]
      · rw [countRefused, hport_modHport]
  · intro s p b o l iso ho
    refine ⟨⟨_, exec_isolatedAccess l iso ho, ?_, ?_, rfl⟩, ⟨_, exec_isolatedAccess l iso ho, hport_modHport .., rfl⟩⟩
    · simp [abortRead]
    · simp [abortRead]

end Sys2Proof.Machine
end

section
/-!
PROOFS about the clocks: what the release of the TB domain makes of the backup halves and where the start goes on, the clocks of
links, ports and stores that are lost, and the fatal faults of oscillators and starts. They settle O46.
-/
namespace Sys2Proof.Machine

/-! ## What a change of the device state does to PCR (R407) -/

/-- A backup half in which the entry to a state has been noted. -/
def BackupHalf.noting (new : DevState) (h : BackupHalf) : BackupHalf :=
  { h with prev := h.last, last := BitVec.ofNat 4 new.code, valid := true }

theorem changing_pcr (new : DevState) (s : State) :
    (s.changing new).pcr = { s.pcr with bk := s.pcr.bk.map (BackupHalf.noting new) } := by
  simp only [State.changing, cruiseInterrupt_f_pcr, backupState, modBackup, modPcr_pcr, logEvent_f_pcr, modeDrop_f_pcr]
  rfl

/-- A change of the device state is noted in the backup domain, and PCR is otherwise as it was. -/
theorem setDev_pcr (new : DevState) (s : State) :
    (setDev new s).pcr = { s.pcr with bk := s.pcr.bk.map (BackupHalf.noting new) } := by
  rw [← changing_pcr]
  unfold setDev State.changing
  cases new <;> simp [apply_ite State.pcr]

theorem setDev_recovery (s : State) : (setDev .recovery s).dev = .recovery ∧ (setDev .recovery s).os.inhib = ⟨true, true⟩ := by
  unfold setDev
  simp [inhibitBoth_inhib]

/-! ## The release of the TB domain (R408, R421, R424) -/

/-- The backup half that both halves take at the release of a system or power-on reset. -/
def BackupHalf.agreed (b : Two BackupHalf) : BackupHalf :=
  let big : Word → Word → Word := fun x y => if x.toNat < y.toNat then y else x
  if !b.a.valid then { b.b with valid := true }
  else if !b.b.valid then b.a
  else { b.a with rcount := if b.a.rcount.toNat < b.b.rcount.toNat then b.b.rcount else b.a.rcount,
                  life := big b.a.life b.b.life, hist := vmapIdx b.a.hist (fun i x => big x b.b.hist[i]) }

theorem compareBackup_pcr (s : State) : (compareBackup s).pcr = { s.pcr with
    bk := ⟨BackupHalf.agreed s.pcr.bk, BackupHalf.agreed s.pcr.bk⟩
    bakValid := s.pcr.bk.a.valid || s.pcr.bk.b.valid } := rfl

/-- The count of failed starts is no smaller in what the halves agree on than in a half whose contents hold. -/
theorem BackupHalf.agreed_rcount_ge {b : Two BackupHalf} (holds : b.a.valid = true) :
    b.a.rcount.toNat ≤ (agreed b).rcount.toNat := by
  simp only [agreed, holds]
  split
  · contradiction
  · split
    · exact Nat.le_refl _
    · dsimp only
      split <;> omega

theorem BackupHalf.agreed_rcount_of_alike {b : Two BackupHalf} (holds : b.a.valid = true) (alike : b.a = b.b) :
    (agreed b).rcount = b.a.rcount := by
  simp [agreed, holds, ← alike]

/-- The TB domain runs: the monitors report, and the halves of the backup domain have been compared. -/
def State.tbRunning (s : State) : State :=
  let t := s.modPcr (fun p => { p with
    clk := { p.clk with tb := true }, refOk := true, soscOk := ⟨true, true⟩, bakRun := true,
    vbakOk := !p.vbakLow, freqFrom := s.now,
    vlOk := ⟨inRange 4750 5250 p.vlMv.a, inRange 4750 5250 p.vlMv.b⟩,
    vfOk := vmapIdx p.vfOk (fun q _ => inRange 18900 31300 p.vfMv[q]) })
  compareBackup (t.modTb (fun b => { b with lock := ⟨true, true⟩ }))

/-- A quarter's field supply that is already outside its range is recorded. -/
def recordField (s : State) (q : Fin 4) : State :=
  let mv := s.pcr.vfMv[q]
  if inRange 18900 31300 mv then s else vfFault q (if mv.toNat < 18900 then 5 else 6) s

/-- The TB domain runs, with the field supplies judged. -/
def State.tbJudged (s : State) : State := (fins 4).foldl recordField s.tbRunning

theorem tbReleased_eq (s : State) : tbReleased s = if 4 ≤ s.tbJudged.pcr.bk.a.rcount.toNat then
    setDev .recovery (s.tbJudged.modPcr (fun p => { p with phase := .done }))
    else s.tbJudged.modPcr (fun p => { p with phase := .identity }) := by
  unfold tbReleased State.tbJudged State.tbRunning
  delta recordField
  dsimp only

theorem recordField_keeps (s : State) (q : Fin 4) : (recordField s q).pcr = s.pcr ∧ (recordField s q).dev = s.dev := by
  unfold recordField
  dsimp only
  split
  · exact ⟨rfl, rfl⟩
  · exact ⟨recordFault_cont_f_pcr rfl, recordFault_cont_f_dev rfl⟩

theorem tbJudged_keeps (s : State) : s.tbJudged.pcr = s.tbRunning.pcr ∧ s.tbJudged.dev = s.dev :=
  List.foldlRecOn (fins 4) recordField (motive := fun t => t.pcr = s.tbRunning.pcr ∧ t.dev = s.dev) ⟨rfl, rfl⟩
    fun t ⟨pcr, dev⟩ q _ => ⟨(recordField_keeps t q).1.trans pcr, (recordField_keeps t q).2.trans dev⟩

theorem tbJudged_clk (s : State) : s.tbJudged.pcr.clk.tb = true := by
  rw [(tbJudged_keeps s).1]
  rfl

theorem tbJudged_bk (s : State) : s.tbJudged.pcr.bk = ⟨BackupHalf.agreed s.pcr.bk, BackupHalf.agreed s.pcr.bk⟩ := by
  rw [(tbJudged_keeps s).1, State.tbRunning, compareBackup_pcr]
  rfl

theorem tbJudged_rcount (s : State) : s.tbJudged.pcr.bk.a.rcount = (BackupHalf.agreed s.pcr.bk).rcount := by rw [tbJudged_bk]

/-- Whichever way the start goes on, TB runs and the halves of the backup domain are alike. -/
theorem tbReleased_runs (s : State) : (tbReleased s).pcr.clk.tb = true ∧ (tbReleased s).pcr.bk.a = (tbReleased s).pcr.bk.b := by
  rw [tbReleased_eq]
  split
  · rw [setDev_pcr]
    simp [tbJudged_clk, tbJudged_bk, Two.map]
  · simp [tbJudged_clk, tbJudged_bk]

theorem tbReleased_goes_on {s : State} (few : (BackupHalf.agreed s.pcr.bk).rcount.toNat < 4) :
    (tbReleased s).dev = s.dev ∧ (tbReleased s).pcr.phase = .identity := by
  rw [tbReleased_eq, tbJudged_rcount, if_neg (Nat.not_le.mpr few)]
  exact ⟨(modPcr_dev ..).trans (tbJudged_keeps s).2, rfl⟩

theorem tbReleased_recovers {s : State} (many : 4 ≤ (BackupHalf.agreed s.pcr.bk).rcount.toNat) :
    (tbReleased s).dev = .recovery ∧ (tbReleased s).os.inhib = ⟨true, true⟩ := by
  rw [tbReleased_eq, tbJudged_rcount, if_pos many]
  exact setDev_recovery _

theorem exec_clockSteady_tb {s : State} (start : s.dev = .start) (pll : s.pcr.phase = .pll) (free : s.pcr.asserted = none)
    (stopped : s.pcr.clk.tb = false) : exec (.clockSteady .tb) s = .next (tbReleased s) := by
  show execClockSteady .tb s = _
  simp [execClockSteady, start, pll, free, stopped]

/-! ## Faults of PCR, HP and PL (R303, R365, R427) -/

/-- A contained or fatal fault that is no fault of a shared resource is recorded, and no status line turns bad. -/
theorem recordFault_unshared {f : FaultRep} (cls : f.cls ≠ .corrected) (unshared : resourceOf f.block f.cause f.item = none)
    (s : State) : recordFault f s = recordCore f s := by
  rw [recordFault, if_neg cls]
  simp only [unshared]

theorem uncleared_of_fr {s t : State} (h : t.fr = s.fr) (b : Block) (cause item : Nat) :
    t.uncleared b cause item = s.uncleared b cause item :=
  uncleared_of_insts (congrArg FaultRecord.insts (frOf_of_fr h b)) cause item

/-- What the lost clock of a port, a store or a link records (R427). -/
def clockReport (b : Block) (cause scope item init : Nat) : FaultRep :=
  { block := b, cause := cause, cls := .contained, scope := scope, item := item, addr := item, init := init, acc := 0xD }

theorem clockReport_recorded {b : Block} {cause scope item init : Nat} (unshared : resourceOf b cause item = none) (s : State) :
    recordFault (clockReport b cause scope item init) s = recordCore (clockReport b cause scope item init) s :=
  recordFault_unshared (f := clockReport b cause scope item init) (by simp [clockReport]) unshared s

theorem resourceOf_storeClock (item : Nat) : resourceOf .pcr 7 item = none := by simp [resourceOf]

/-! ## The clock of a port (R303, R412) -/

/-- A port whose clock is lost, recorded and held in reset, before its own reset. -/
def State.portUnclocked (s : State) (p : Side) : State :=
  (recordCore (clockReport .hp 2 9 p.num (0x50 + p.num))
    (s.modPcr (fun x => { x with clk := { x.clk with hp := x.clk.hp.set p false } }))).modHport p
      (fun h => { h with inReset := true, link := .down })

theorem exec_portClock_released {s : State} {p : Side} (released : s.pcr.clk.hp.get p = true)
    (runs : p = .b → s.dev ≠ .recovery) : exec (.portClock p) s = .next (portReset p (s.portUnclocked p)) := by
  have held : ¬((!s.pcr.clk.hp.get p || (p == .b && s.dev == .recovery)) = true) := by
    simpa [released] using runs
  rw [State.portUnclocked, ← clockReport_recorded rfl]
  exact congrArg _ (if_neg held)

theorem portUnclocked_uncleared (s : State) (p : Side) : (s.portUnclocked p).uncleared .hp 2 p.num = true := by
  rw [State.portUnclocked, uncleared_of_fr (modHport_fr ..)]
  exact recordCore_contained_uncleared (f := clockReport .hp 2 9 p.num (0x50 + p.num)) rfl _

theorem uncleared_portReset (p : Side) (s : State) (b : Block) (cause item : Nat) :
    (portReset p s).uncleared b cause item = s.uncleared b cause item :=
  uncleared_of_fr ((portReset_only ..).fr.resolve_left (by decide)) b cause item

/-! ## The clock of a store (R412) -/

theorem exec_strClock_running {s : State} {d : Side} (tb : s.pcr.clk.tb = true) (started : s.dev ≠ .start) :
    exec (.strClock d) s = .next ((recordCore (clockReport .pcr 7 0xA d.num (0x50 + d.num)) (s.modPcr (fun p =>
      { p with strOk := p.strOk.set d false, clk := { p.clk with str := p.clk.str.set d false } }))).modStore d
        (fun x => { x with st := .failed })) := by
  rw [← clockReport_recorded (resourceOf_storeClock _)]
  show execStrClock d s = _
  simp only [execStrClock, tb]
  exact congrArg _ (if_neg started)

/-! ## The clock of the links (R365, R412) -/

/-- The loss of the PLK clock at one port: recorded and held in OFF where a partner is configured. -/
def plkLost (s : State) (n : Fin 4) : State :=
  if (s.partner n).type = 0 then s else plOff n (recordCore (clockReport .pl 2 8 n.val 0x51) s)

theorem exec_plkLock_running {s : State} (tb : s.pcr.clk.tb = true) (started : s.dev ≠ .start) :
    exec .plkLock s = .next ((fins 4).foldl plkLost (s.modPl (fun p => { p with lock := false }))) := by
  have one : plkLost = fun s n => if (s.partner n).type = 0 then s else plOff n (recordFault
      { block := .pl, cause := 2, cls := .contained, scope := 8, item := n.val, addr := n.val, init := 0x51, acc := 0xD } s) := by
    funext t n
    rw [plkLost, ← clockReport_recorded rfl]
    rfl
  rw [one]
  show execPlkLock s = _
  simp only [execPlkLock, tb]
  exact congrArg _ (if_neg started)

theorem partner_of_ev_st {s t : State} (ev : t.ev = s.ev) (st : t.st = s.st) (n : Fin 4) : t.partner n = s.partner n := by
  rw [State.partner, State.partner, State.split, State.split, State.core, State.core, ev, st]

theorem abortSends_link (n : Fin 4) (code : Nat) (s : State) : (abortSends n code s).pl.lock = s.pl.lock ∧
    ∀ m : Fin 4, ((abortSends n code s).pl.port[m] : PlPort).st = (s.pl.port[m] : PlPort).st := by
  have ends (t : State) (xs : List Send) : (xs.foldl (fun u x => endItem x.port x.ring code 1 u) t).pl = t.pl :=
    List.foldlRecOn xs _ (motive := fun u : State => u.pl = t.pl) rfl fun u same x _ => endItem_f_pl.trans same
  have lock := congrArg Pl.lock (ends s (s.pl.port[n] : PlPort).sends)
  refine ⟨lock, fun m => ?_⟩
  rw [abortSends, linkSt_modPlPort _ rfl, port_of_pl (ends ..)]

theorem scopeAborts_link (scope item : Nat) (s : State) : (scopeAborts scope item s).pl.lock = s.pl.lock ∧
    ∀ n : Fin 4, ((scopeAborts scope item s).pl.port[n] : PlPort).st = (s.pl.port[n] : PlPort).st := by
  unfold scopeAborts
  split
  · exact abortSends_link ..
  · exact ⟨rfl, fun _ => rfl⟩

/-- A contained fault leaves PL_LOCK and the state of every link. -/
theorem recordCore_contained_link {f : FaultRep} (contained : f.cls = .contained) (s : State) :
    (recordCore f s).pl.lock = s.pl.lock ∧ ∀ n : Fin 4, ((recordCore f s).pl.port[n] : PlPort).st = (s.pl.port[n] : PlPort).st := by
  have stays (b : Bool) : (if b = true then FaultClass.contained else f.cls) = .contained := by simp [contained]
  unfold recordCore
  simp only [stays]
  split
  · exact ⟨rfl, fun _ => rfl⟩
  · obtain ⟨lock, links⟩ := scopeAborts_link f.scope f.item (markRearm f.scope f.item (logFault 1 _ f.block (s.modRec f.block _)))
    exact ⟨lock.trans (by simp), fun n => (links n).trans (by rw [port_of_pl (s := s) (by simp)])⟩

theorem plOff_lock (n : Fin 4) (s : State) : (plOff n s).pl.lock = s.pl.lock := by
  have moves (st : PlState) (t : State) : (plState n st t).pl.lock = t.pl.lock := by
    unfold plState
    dsimp only
    split
    · rfl
    · split
      · rw [raiseEventIrq_f_pl]
        rfl
      · rfl
  exact moves .off (keepImage n s)

/-! ## Fatal faults of PCR (R412, R423, R427) -/

/-- What PCR shows of the two oscillators. -/
def Pcr.sosc (p : Pcr) : Two Bool × Two Bool := (p.soscOk, p.soscStop)

theorem setDev_sosc (new : DevState) (s : State) : (setDev new s).pcr.sosc = s.pcr.sosc := by
  rw [setDev_pcr]
  rfl

theorem countFailedStart_sosc (s : State) : (countFailedStart s).pcr.sosc = s.pcr.sosc := by
  unfold countFailedStart
  split <;> rfl

theorem enterHold_sosc (s : State) : (enterHold s).pcr.sosc = s.pcr.sosc := by
  have sends (t : State) : Only 65536 t ((fins 4).foldl (fun s n => s.modPlPort n (fun p => { p with sends := [] })) t) :=
    Only.foldl _ _ (Only.refl _ _) (fun _ _ h => modPlPort_nx h rfl)
  unfold enterHold
  simp only [setDev_sosc, modDbg_pcr, modPcr_pcr, modHp_pcr, (sends _).pcr.resolve_left (by decide), modSt_pcr, ackDrop_f_pcr,
    abortBegun_f_pcr]
  show (if (modeDrop s).dev = .start then countFailedStart (modeDrop s) else modeDrop s).pcr.sosc = s.pcr.sosc
  split
  · rw [countFailedStart_sosc, modeDrop_f_pcr]
  · rw [modeDrop_f_pcr]

theorem fatalAction_sosc (s : State) : (fatalAction s).pcr.sosc = s.pcr.sosc := by
  unfold fatalAction
  dsimp only
  split <;> simp only [enterHold_sosc, setDev_sosc, modDbg_pcr, modEv_pcr, inhibitBoth_f_pcr] <;> rfl

/-- The recording of a fatal fault leaves what PCR shows of the oscillators. -/
theorem recordCore_fatal_sosc {f : FaultRep} (fatal : f.cls = .fatal) (s : State) : (recordCore f s).pcr.sosc = s.pcr.sosc := by
  rcases recordCore_fatal_cases fatal s with contained | ⟨e, g, acts, -⟩
  · rw [contained, recordCore_cont_f_pcr rfl]
  · rw [acts, fatalAction_sosc, logFault_f_pcr]
    rfl

/-- The report of a fatal fault of PCR by side `d` (R427). -/
def pcrReport (d : Side) (cause addr acc : Nat) : FaultRep :=
  { block := .pcr, cause := cause, cls := .fatal, scope := 0, item := addr, addr := addr, init := 0x50 + d.num, acc := acc }

/-- A fatal fault of PCR but for one of a field supply: however it is taken, it stands uncleared, and what PCR shows of the
oscillators stays; in START, while no resource is bad, it brings HOLD. -/
theorem pcrFatal_taken {cause : Nat} (loss : cause ≠ 5) (excess : cause ≠ 6) (d : Side) (addr acc : Nat) (s : State) :
    (pcrFatal d cause addr acc s).uncleared .pcr cause addr = true ∧ (pcrFatal d cause addr acc s).pcr.sosc = s.pcr.sosc ∧
    (s.dev = .start → s.bad = [] → (pcrFatal d cause addr acc s).dev = .hold) := by
  have unshared : resourceOf .pcr cause addr = none := by simp [resourceOf, loss, excess]
  have recorded : pcrFatal d cause addr acc s = recordCore (pcrReport d cause addr acc) s :=
    recordFault_unshared (f := pcrReport d cause addr acc) (by simp [pcrReport]) unshared s
  rw [recorded]
  refine ⟨(recordCore_fatal_taken (f := pcrReport d cause addr acc) rfl s).uncleared, recordCore_fatal_sosc rfl s,
    fun start good => ?_⟩
  obtain ⟨u, hold, -, -⟩ := recordCore_fatal (f := pcrReport d cause addr acc) rfl good (.inl start)
  rw [hold]
  exact (setDev_hold_inHold u).1

/-- The state in which the failed oscillator of a die is recorded. -/
def State.soscFailing (s : State) (d : Side) (stops : Bool) : State :=
  let t := if stops then s.modPcr (fun p => { p with soscStop := p.soscStop.set d true }) else s
  t.modPcr (fun p => { p with soscOk := p.soscOk.set d false })

theorem exec_soscFail_recorded {s : State} {d : Side} {stops : Bool} (free : s.pcr.asserted = none) :
    exec (.soscFail d stops) s = .next (pcrFatal d.other 3 d.num 0xD (s.soscFailing d stops)) := by
  have records : (if stops then s.modPcr (fun p => { p with soscStop := p.soscStop.set d true }) else s).records = true := by
    cases stops <;> simp [State.records, free]
  exact congrArg _ (if_pos records)

theorem exec_startLimit_over {s : State} (start : s.dev = .start) (ended : s.startLimitOver = true) :
    exec .startLimit s = .next (pcrFatal .a 0x0B 0 6 s) := congrArg _ (if_pos ⟨start, ended⟩)

/-! ## The statement -/

/-- What every step of the pass over the links keeps: PL_LOCK is 0, and the links have the partners they had. -/
def State.unlockedAs (s t : State) : Prop := t.pl.lock = false ∧ t.ev = s.ev ∧ t.st = s.st

/-- A link is in OFF, with PLK_LOCK uncleared. -/
def State.linkLockLost (n : Fin 4) (t : State) : Prop := (t.pl.port[n] : PlPort).st = .off ∧ t.uncleared .pl 2 n.val = true

theorem plkLost_unlocked {s t : State} (m : Fin 4) (h : s.unlockedAs t) : s.unlockedAs (plkLost t m) := by
  obtain ⟨lock, ev, st⟩ := h
  unfold plkLost
  split
  · exact ⟨lock, ev, st⟩
  · refine ⟨?_, ?_, ?_⟩
    · rw [plOff_lock, (recordCore_contained_link rfl t).1, lock]
    · rw [plOff_f_ev, recordCore_cont_f_ev rfl, ev]
    · rw [plOff_f_st, recordCore_cont_f_st rfl, st]

/-- A link that has lost its clock stays in OFF, with PLK_LOCK uncleared, while the others lose theirs. -/
theorem linkLockLost_plkLost {n : Fin 4} (m : Fin 4) {t : State} (h : t.linkLockLost n) : (plkLost t m).linkLockLost n := by
  obtain ⟨off, uncleared⟩ := h
  unfold plkLost
  split
  · exact ⟨off, uncleared⟩
  · refine ⟨?_, ?_⟩
    · rw [linkSt_plOff, (recordCore_contained_link rfl t).2, off, ite_self]
    · rw [uncleared_of_fr plOff_f_fr]
      exact recordCore_contained_keeps (f := clockReport .pl 2 8 m.val 0x51) rfl uncleared

theorem plkLost_linkLockLost {n : Fin 4} {t : State} (configured : (t.partner n).type ≠ 0) : (plkLost t n).linkLockLost n := by
  rw [plkLost, if_neg configured]
  refine ⟨?_, ?_⟩
  · rw [linkSt_plOff, if_pos rfl]
  · rw [uncleared_of_fr plOff_f_fr]
    exact recordCore_contained_uncleared (f := clockReport .pl 2 8 n.val 0x51) rfl t

theorem foldl_plkLost_unlocked {s : State} (ns : List (Fin 4)) {t : State} (h : s.unlockedAs t) :
    s.unlockedAs (ns.foldl plkLost t) :=
  List.foldlRecOn ns plkLost (motive := s.unlockedAs) h fun _ kept m _ => plkLost_unlocked m kept

/-- The pass over the links reaches each that has a partner. -/
theorem foldl_plkLost_lost {s : State} {n : Fin 4} (configured : (s.partner n).type ≠ 0) {ns : List (Fin 4)} (mem : n ∈ ns)
    {t : State} (same : s.unlockedAs t) : (ns.foldl plkLost t).linkLockLost n := by
  obtain ⟨before, after, rfl⟩ := List.append_of_mem mem
  obtain ⟨-, ev, st⟩ := foldl_plkLost_unlocked before same
  rw [List.foldl_append, List.foldl_cons]
  refine List.foldlRecOn after plkLost (motive := State.linkLockLost n) (plkLost_linkLockLost ?_)
    fun _ lost m _ => linkLockLost_plkLost m lost
  rwa [partner_of_ev_st ev st]

/-- Settles O46: the release of TB goes on by what the halves of the backup domain agree on, and each lost clock, failed oscillator
and overlong start leaves its fault in the record. -/
theorem clocksComeAndGo : Obligations.ClocksComeAndGo := by
  refine ⟨?_, ?_, ?_, ?_, ?_, ?_⟩
  · intro s start pll free stopped
    obtain ⟨runs, alike⟩ := tbReleased_runs s
    refine ⟨_, exec_clockSteady_tb start pll free stopped, runs, alike, fun same holds few => ?_, fun holds many => ?_⟩
    · have agreed : (BackupHalf.agreed s.pcr.bk).rcount.toNat < 4 := by
        rw [BackupHalf.agreed_rcount_of_alike holds same]
        exact few
      obtain ⟨dev, phase⟩ := tbReleased_goes_on agreed
      exact ⟨dev.trans start, phase⟩
    · exact tbReleased_recovers (Nat.le_trans many (BackupHalf.agreed_rcount_ge holds))
  · intro s n tb started configured
    have unlocked : s.unlockedAs (s.modPl (fun p => { p with lock := false })) := ⟨rfl, rfl, rfl⟩
    obtain ⟨off, uncleared⟩ := foldl_plkLost_lost configured (show n ∈ fins 4 from List.mem_finRange n) unlocked
    exact ⟨_, exec_plkLock_running tb started, (foldl_plkLost_unlocked _ unlocked).1, off, uncleared⟩
  · intro s p released runs
    refine ⟨_, exec_portClock_released released runs, ?_, ?_, ?_, fun n => ?_⟩
    · rw [hport_portReset, State.portUnclocked, hport_modHport]
      rfl
    · rw [hport_portReset]
      rfl
    · rw [uncleared_portReset, portUnclocked_uncleared]
    · obtain ⟨sq, cq, -⟩ := portReset_rings p (s.portUnclocked p) n
      exact ⟨sq, cq⟩
  · intro s d tb started
    refine ⟨_, exec_strClock_running tb started, ?_, ?_, ?_⟩
    · rw [store_modStore]
    · rw [modStore_pcr, recordCore_cont_f_pcr rfl]
      exact Two.get_set ..
    · rw [uncleared_of_fr (modStore_fr ..)]
      exact recordCore_contained_uncleared (f := clockReport .pcr 7 0xA d.num (0x50 + d.num)) rfl _
  · intro s d stops free
    obtain ⟨uncleared, sosc, -⟩ := pcrFatal_taken (cause := 3) (by decide) (by decide) d.other d.num 0xD (s.soscFailing d stops)
    obtain ⟨shown, stopped⟩ := Prod.mk.inj sosc
    refine ⟨_, exec_soscFail_recorded free, ?_, uncleared, fun does => ?_⟩
    · rw [shown]
      exact Two.get_set ..
    · subst does
      rw [stopped]
      exact Two.get_set ..
  · intro s start ended
    obtain ⟨uncleared, -, hold⟩ := pcrFatal_taken (cause := 0x0B) (by decide) (by decide) .a 0 6 s
    exact ⟨_, exec_startLimit_over start ended, uncleared, hold start⟩

end Sys2Proof.Machine
end

section
/-!
PROOFS about the controls of the work rings: what a corrected fault of WQ leaves, a write that reaches its block, doorbells, and
the starts and stops of rings. They settle O50.
-/
namespace Sys2Proof.Machine

/-! ## A corrected fault of WQ (R250, R337) -/

/-- While no resource is bad a corrected fault of WQ is counted, and of the rest only fault records and interrupts change. -/
theorem wqFault_counts {s : State} (bad : s.bad = []) (p : Side) (cause addr acc : Nat) :
    ((wqFault p cause addr acc s).frOf .wq).cntCorr = satInc (s.frOf .wq).cntCorr ∧
    wqFault p cause addr acc s = { s with fr := (wqFault p cause addr acc s).fr, hp := (wqFault p cause addr acc s).hp } := by
  rw [wqFault, recordFault, if_pos rfl, recordCorrected_of_bad_nil bad]
  exact ⟨recordPlain_cntCorr .., (recordPlain_only ..).eq_of_fr_hp⟩

/-! ## A command that reaches WQ from a live port (R301) -/

theorem toBlock_available {p : Side} {b : Block} {s : State} (l : s.live p) (iso : isolated b s = false) (f : State → State) :
    toBlock p b f s = f s := by
  rw [toBlock, fromPort_live l, iso]
  rfl

/-! ## Doorbells (R305) -/

section
variable {p : Side} {off : Nat} {v : Word} {ok : Nat → Bool} {f : Nat → State → State} (fits : v.toNat < 4096) (s : State)
include fits

theorem doorbell_eq : doorbell p off v ok f s = if ok v.toNat then f v.toNat s else wqFault p 6 off 7 s := by
  rw [doorbell, if_neg (Nat.not_le.mpr fits), Nat.mod_eq_of_lt fits]

theorem doorbell_moves (allowed : ok v.toNat = true) : doorbell p off v ok f s = f v.toNat s := by
  rw [doorbell_eq fits, if_pos allowed]

theorem doorbell_refused (refused : ok v.toNat = false) : doorbell p off v ok f s = wqFault p 6 off 7 s := by
  rw [doorbell_eq fits, if_neg (Bool.eq_false_iff.mp refused)]

end

section
variable {s : State} {p : Side} {n : Fin 8} (l : s.live p) (available : isolated .wq s = false)
include l available

theorem exec_sqTailDoorbell (v : Word) : exec (.sqTailDoorbell p n v) s = .next (tailDoorbell p n v s) :=
  congrArg _ (toBlock_available l available _)

theorem exec_cqHeadDoorbell {v : Word} (own : s.hp.hoisted.contains (.cqHeadDoorbell p n v) = false) :
    exec (.cqHeadDoorbell p n v) s = .next (headDoorbell p n v s) :=
  congrArg _ ((if_neg (Bool.eq_false_iff.mp own)).trans (toBlock_available l available _))

theorem exec_sqEnable (resume : Bool) : exec (.sqEnable p n resume) s = .next (sqEnable p n resume s) :=
  congrArg _ (toBlock_available l available _)

theorem exec_cqEnable (resume : Bool) : exec (.cqEnable p n resume) s = .next (cqEnable p n resume s) :=
  congrArg _ (toBlock_available l available _)

end

section
variable {v : Word} (fits : v.toNat < 4096) (p : Side) (n : Fin 8) (s : State)
include fits

theorem tailDoorbell_moves (en : (s.sq p n).en = true) (stays : s.disableWaits p n = false)
    (inside : v.toNat < ringLen (s.sq p n).size) :
    tailDoorbell p n v s = s.modSq p n (fun q => { q with tail := v.toNat }) := by
  rw [tailDoorbell, doorbell_moves fits]
  simp [en, stays, inside]

theorem tailDoorbell_refused (stopped : (s.sq p n).en = false ∨ s.disableWaits p n = true) :
    tailDoorbell p n v s = wqFault p 6 (0x12000 + 8 * n.val) 7 s := by
  rw [tailDoorbell, doorbell_refused fits]
  rcases stopped with h | h <;> simp [h]

theorem headDoorbell_moves (en : (s.cq p n).en = true) (inside : v.toNat < ringLen (s.cq p n).size)
    (all : v.toNat = (s.cq p n).tail) : headDoorbell p n v s = s.modCq p n (fun q => { q with head := v.toNat }) := by
  rw [headDoorbell, doorbell_moves fits]
  simp [en, inside, ← all]

theorem headDoorbell_refused (stopped : (s.cq p n).en = false) :
    headDoorbell p n v s = wqFault p 6 (0x12004 + 8 * n.val) 7 s := by
  rw [headDoorbell, doorbell_refused fits]
  simp [stopped]

end

/-! ## Rings through a journal write (R326) -/

@[simp] theorem wport_journalWrite (r : JRec) (s : State) (p : Side) : (journalWrite r s).wport p = s.wport p := by
  rw [State.wport, State.wport, journalWrite_ports]

@[simp] theorem sq_journalWrite (r : JRec) (s : State) (p : Side) (n : Fin 8) : (journalWrite r s).sq p n = s.sq p n := by
  rw [State.sq, State.sq, wport_journalWrite]

@[simp] theorem cq_journalWrite (r : JRec) (s : State) (p : Side) (n : Fin 8) : (journalWrite r s).cq p n = s.cq p n := by
  rw [State.cq, State.cq, wport_journalWrite]

theorem store_modSq (s : State) (p : Side) (n : Fin 8) (f : Sq → Sq) (j : Side) : (s.modSq p n f).store j = s.store j := rfl

/-- A record sealed for a store is sound there: its RCRC covers the other fields (R326). -/
theorem seal_sound (r : JRec) (j : Side) : (r.seal j).sound j = true := by
  have body : (r.seal j).body = r.body := by simp only [JRec.body, JRec.seal]
  have crc : (r.seal j).crc j = r.crc j := by simp only [JRec.crc, body]
  rw [JRec.sound, crc, JRec.seal, beq_self_eq_true]

/-! ## Starts of rings (R331, R332) -/

/-- The RING_START record that starts a ring afresh. -/
def ringStartRec (p : Side) (n : Fin 8) (s : State) : JRec := jrec .ringStart p n 0 0 (s.sq p n).seq0 0

theorem sqEnable_resumes {s : State} {p : Side} {n : Fin 8} (off : (s.sq p n).en = false) (replayed : s.wq.replayed = true) :
    sqEnable p n true s = s.modSq p n (fun q => { q with en := true, tail := q.head }) := by
  simp [sqEnable, off, replayed]

theorem sqEnable_starts {s : State} {p : Side} {n : Fin 8} (off : (s.sq p n).en = false) (replayed : s.wq.replayed = true)
    (empty : (s.sq p n).items = []) : sqEnable p n false s = (journalWrite (ringStartRec p n s) s).modSq p n (fun q =>
      { q with en := true, head := 0, tail := 0, nextSeq := q.seq0 }) := by
  simp [sqEnable, off, replayed, Sq.open_, empty, ringStartRec]

/-- A completion ring that posts from a slot on, of which the host has consumed nothing. -/
def Cq.startedAt (slot : Nat) (phase : Bool) (c : Cq) : Cq := { c with en := true, tail := slot, head := slot, phase := phase }

theorem cqEnable_resumes {s : State} {p : Side} {n : Fin 8} (off : (s.cq p n).en = false) :
    (cqEnable p n true s).cq p n =
      (s.cq p n).startedAt ((s.cq p n).startIdx % 2 ^ (s.cq p n).size.toNat) (s.cq p n).startPhase := by
  rw [cqEnable, cq_modCq, off]
  rfl

theorem cqEnable_starts {s : State} {p : Side} {n : Fin 8} (off : (s.cq p n).en = false) :
    (cqEnable p n false s).cq p n = (s.cq p n).startedAt 0 true := by
  rw [cqEnable, cq_modCq, off]
  rfl

theorem cqEnable_others {s : State} {p : Side} {n m : Fin 8} (other : m ≠ n) (resume : Bool) :
    (cqEnable p n resume s).cq p m = s.cq p m := cq_modCq_ne s _ (.inr other)

/-! ## The statement -/

/-- Settles O50: each command from a live port comes down to one change of its ring, to a fault counted, or to a RING_START
record and the ring's start. -/
theorem doorbellsAndRingControls : Obligations.DoorbellsAndRingControls := by
  refine ⟨?_, ?_⟩
  · intro s p n v l available own
    refine ⟨fun en stays inside fits => ?_, fun stopped bad fits => ?_, fun en inside fits all => ?_, fun stopped bad fits => ?_⟩
    · rw [exec_sqTailDoorbell l available, tailDoorbell_moves fits p n s en stays inside]
    · rw [exec_sqTailDoorbell l available, tailDoorbell_refused fits p n s stopped]
      exact ⟨_, rfl, wqFault_counts bad ..⟩
    · rw [exec_cqHeadDoorbell l available own, headDoorbell_moves fits p n s en inside all]
    · rw [exec_cqHeadDoorbell l available own, headDoorbell_refused fits p n s stopped]
      exact ⟨_, rfl, wqFault_counts bad ..⟩
  · intro s p n l available
    refine ⟨fun off replayed => ⟨?_, fun empty => ?_⟩, congrArg _ (toBlock_available l available _),
      congrArg _ (toBlock_available l available _), fun off => ⟨?_, ?_⟩⟩
    · rw [exec_sqEnable l available, sqEnable_resumes off replayed]
    · refine ⟨_, (exec_sqEnable l available _).trans (congrArg _ (sqEnable_starts off replayed empty)), ?_, fun m other => ?_,
        fun m => ?_, ?_, fun i written => ?_⟩
      · rw [sq_modSq, sq_journalWrite]
      · rw [sq_modSq_ne _ _ (.inr other), sq_journalWrite]
      · rw [cq_modSq, cq_journalWrite]
      · rw [State.modSq, wport_modWport_other, wport_journalWrite]
      · obtain ⟨q, last⟩ := journalWrite_getLast (ringStartRec p n s) written
        rw [store_modSq]
        exact ⟨_, last, rfl, rfl, rfl, rfl, seal_sound _ i⟩
    · have ring := cqEnable_resumes off
      exact ⟨_, exec_cqEnable l available _, congrArg Cq.en ring, congrArg Cq.tail ring, congrArg Cq.phase ring,
        fun m other => cqEnable_others other _, rfl⟩
    · have ring := cqEnable_starts off
      exact ⟨_, exec_cqEnable l available _, congrArg Cq.en ring, congrArg Cq.tail ring, congrArg Cq.phase ring,
        fun m other => cqEnable_others other _, rfl⟩

end Sys2Proof.Machine
end

section
/-!
PROOFS about descriptors: the ring a port fetches from, the slot that an accepted or skipped descriptor takes with its journal
record, and a fetch that fails. They settle O51.
-/
namespace Sys2Proof.Machine

/-! ## A fetch (R289, R311) -/

/-- The rings of a port from which one descriptor is fetched: the chosen ring fetches, and every other waits one fetch longer. -/
def WqPort.fetchFrom (n : Fin 8) (w : WqPort) : WqPort :=
  { w with sq := vmapIdx w.sq (fun k q =>
      if k = n then { q with fetching := some q.head, starve := 0 } else { q with starve := min 64 (q.starve + 1) }) }

theorem sq_fetchFrom (s : State) (p : Side) (n : Fin 8) : (s.modWport p (WqPort.fetchFrom n)).sq p n =
    { s.sq p n with fetching := some (s.sq p n).head, starve := 0 } := by
  show ((s.modWport p (WqPort.fetchFrom n)).wport p).sq[n] = _
  rw [wport_modWport, WqPort.fetchFrom, vmapIdx_get, if_pos rfl]
  rfl

theorem sq_fetchFrom_other (s : State) (p : Side) {n m : Fin 8} (other : m ≠ n) :
    (s.modWport p (WqPort.fetchFrom n)).sq p m = { s.sq p m with starve := min 64 ((s.sq p m).starve + 1) } := by
  show ((s.modWport p (WqPort.fetchFrom n)).wport p).sq[m] = _
  rw [wport_modWport, WqPort.fetchFrom, vmapIdx_get, if_neg other]
  rfl

theorem noFetch_of_none {w : WqPort} (idle : ∀ m : Fin 8, (w.sq[m] : Sq).fetching = none) :
    w.sq.toList.any (fun q => q.fetching.isSome) = false := by
  rw [List.any_eq_false]
  intro q mem
  obtain ⟨k, bound, rfl⟩ := List.getElem_of_mem mem
  have ring := idle ⟨k, by simpa using bound⟩
  simpa using ring

theorem exec_descriptorFetch_next {s : State} {p : Side} {n : Fin 8} (l : s.live p) (link : (s.hport p).link = .l0)
    (awake : (s.hport p).d3 = false) (room : (s.wport p).openItems < 2048) (idle : ∀ m, (s.sq p m).fetching = none)
    (next : (s.wport p).nextSq = some n) :
    exec (.descriptorFetch p) s = .next (s.modWport p (WqPort.fetchFrom n)) := by
  have reset : (s.hport p).inReset = false := l
  have up : (s.hport p).linkUp = true := by simp [HpPort.linkUp, link]
  have few : decide (2048 ≤ (s.wport p).openItems) = false := decide_eq_false (Nat.not_le.mpr room)
  show execDescriptorFetch p s = _
  simp only [execDescriptorFetch, reset, up, awake, few, noFetch_of_none idle, Bool.not_true, Bool.or_self, Bool.false_eq_true,
    if_false, next]
  rfl

/-! ## A slot is consumed (R312, R313, R326) -/

/-- The record of a slot consumed: ACCEPT, or SKIP with its code. -/
def slotRecord (p : Side) (n : Fin 8) (d : Desc) (after : Nat) : Option Nat → JRec
  | none => jrec .accept p n d.opc after d.seq d.tag
  | some c => jrec .skip p n d.opc c d.seq (BitVec.ofNat 64 (2 ^ 32 * after))

/-- The item that stands for a consumed slot. -/
def slotItem (d : Desc) (after : Nat) (jseq : Word) (code : Option Nat) : Item :=
  { d := d, skip := code.isSome, sqhd := after, jseq := jseq,
    stage := match code with | none => .accepted | some c => .ready c 0 false, mark := 0, old := false }

/-- The consumer index after the next slot. -/
def Sq.after (q : Sq) : Nat := (q.head + 1) % 2 ^ q.size.toNat

/-- A ring with its next slot consumed. -/
def Sq.taking (d : Desc) (code : Option Nat) (jseq : Word) (q : Sq) : Sq :=
  { q with head := q.after, items := q.items ++ [slotItem d q.after jseq code],
           nextSeq := if code.isNone then q.nextSeq + 1 else q.nextSeq }

/-- An accepted descriptor counted (R338). -/
def State.acceptCounted (code : Option Nat) (s : State) : State :=
  if code.isNone then s.modWq (fun w => { w with accCnt := satInc w.accCnt }) else s

@[simp] theorem sq_acceptCounted (code : Option Nat) (s : State) (p : Side) (n : Fin 8) :
    (s.acceptCounted code).sq p n = s.sq p n := by
  cases code <;> rfl

@[simp] theorem store_acceptCounted (code : Option Nat) (s : State) (j : Side) : (s.acceptCounted code).store j = s.store j := by
  cases code <;> rfl

@[simp] theorem fr_acceptCounted (code : Option Nat) (s : State) : (s.acceptCounted code).fr = s.fr := by
  cases code <;> rfl

theorem accCnt_acceptCounted (code : Option Nat) (s : State) :
    (s.acceptCounted code).wq.accCnt = if code.isNone then satInc s.wq.accCnt else s.wq.accCnt := by
  cases code <;> rfl

theorem accCnt_modSq (s : State) (p : Side) (n : Fin 8) (f : Sq → Sq) : (s.modSq p n f).wq.accCnt = s.wq.accCnt := rfl

theorem accCnt_journalWrite (r : JRec) (s : State) : (journalWrite r s).wq.accCnt = s.wq.accCnt := by rw [journalWrite_wq]

section
variable (p : Side) (n : Fin 8) (d : Desc) (code : Option Nat) (s : State)

/-- A slot consumed: its record is written, the ring takes it, and an accepted descriptor is counted. -/
theorem takeSlot_eq : ∃ f jseq, f (s.sq p n) = (s.sq p n).taking d code jseq ∧ takeSlot p n d code s =
    ((journalWrite (slotRecord p n d (s.sq p n).after code) s).modSq p n f).acceptCounted code := by
  refine ⟨fun q => { q with
    head := (s.sq p n).after,
    items := q.items ++ [slotItem d (s.sq p n).after ((journalWrite (slotRecord p n d (s.sq p n).after code) s).wq.jseq - 1) code],
    nextSeq := if code.isNone then q.nextSeq + 1 else q.nextSeq }, _, rfl, ?_⟩
  cases code <;> rfl

theorem takeSlot_sq : ∃ jseq, (takeSlot p n d code s).sq p n = (s.sq p n).taking d code jseq := by
  obtain ⟨f, jseq, ring, eq⟩ := takeSlot_eq p n d code s
  rw [eq, sq_acceptCounted, sq_modSq, sq_journalWrite]
  exact ⟨jseq, ring⟩

theorem takeSlot_sq_other {m : Fin 8} (other : m ≠ n) : (takeSlot p n d code s).sq p m = s.sq p m := by
  obtain ⟨f, -, -, eq⟩ := takeSlot_eq p n d code s
  rw [eq, sq_acceptCounted, sq_modSq_ne _ _ (.inr other), sq_journalWrite]

theorem takeSlot_fr : (takeSlot p n d code s).fr = s.fr := by
  obtain ⟨f, -, -, eq⟩ := takeSlot_eq p n d code s
  rw [eq, fr_acceptCounted, modSq_fr, journalWrite_f_fr]

theorem takeSlot_accCnt : (takeSlot p n d code s).wq.accCnt = if code.isNone then satInc s.wq.accCnt else s.wq.accCnt := by
  obtain ⟨f, -, -, eq⟩ := takeSlot_eq p n d code s
  rw [eq, accCnt_acceptCounted, accCnt_modSq, accCnt_journalWrite]

/-- The record stands last in the journal of a store that is written. -/
theorem takeSlot_getLast {j : Side} (written : (s.store j).written = true) : ∃ q : Word,
    ((takeSlot p n d code s).store j).journal.getLast? =
      some (({ slotRecord p n d (s.sq p n).after code with jseq := q } : JRec).seal j) := by
  obtain ⟨f, -, -, eq⟩ := takeSlot_eq p n d code s
  rw [eq, store_acceptCounted, store_modSq]
  exact journalWrite_getLast _ written

end

/-! ## A descriptor arrives (R312, R337) -/

/-- The fetch of a ring has ended. -/
def State.fetchEnded (s : State) (p : Side) (n : Fin 8) : State := s.modSq p n (fun q => { q with fetching := none })

theorem sq_fetchEnded (s : State) (p : Side) (n : Fin 8) : (s.fetchEnded p n).sq p n = { s.sq p n with fetching := none } :=
  sq_modSq ..

section
variable {s : State} {p : Side} {n : Fin 8} {k : Nat} (fetching : (s.sq p n).fetching = some k)
include fetching

theorem exec_descriptorArrival_sound {bs : List Byte} (accepts : judge p n bs (s.sq p n).nextSeq = none) :
    exec (.descriptorArrival p n (some bs)) s = .next (takeSlot p n (descOf bs) none (s.fetchEnded p n)) := by
  show execDescriptorArrival p n (some bs) s = _
  simp only [execDescriptorArrival, fetching, accepts, reduceCtorEq, if_false]
  rfl

theorem exec_descriptorArrival_badCrc {bs : List Byte} (fails : judge p n bs (s.sq p n).nextSeq = some 0x0103) :
    exec (.descriptorArrival p n (some bs)) s =
      .next (takeSlot p n (descOf bs) (some 0x0103) (wqFault p 3 (n.val + 16 * k) 0xC (s.fetchEnded p n))) := by
  show execDescriptorArrival p n (some bs) s = _
  simp only [execDescriptorArrival, fetching, fails, if_true]
  rfl

theorem exec_descriptorArrival_failed : exec (.descriptorArrival p n none) s =
    .next (wqFault p 2 n.val 0xC ((s.fetchEnded p n).modSq p n (fun q => { q with err := true }))) := by
  show execDescriptorArrival p n none s = _
  simp only [execDescriptorArrival, fetching]
  rfl

end

/-! ## The statement -/

/-- Settles O51: a fetch changes the rings of its port alone, and a descriptor takes its slot as `takeSlot_sq` says, behind a
fault counted where its DCRC fails. -/
theorem descriptorsAcceptedOrSkipped : Obligations.DescriptorsAcceptedOrSkipped := by
  refine ⟨?_, ?_, ?_⟩
  · intro s p n l link awake room idle next
    refine ⟨_, exec_descriptorFetch_next l link awake room idle next, ?_, ?_, fun m other => ?_, ?_, rfl⟩
    · rw [sq_fetchFrom]
    · rw [sq_fetchFrom]
    · rw [sq_fetchFrom_other s p other]
      exact ⟨idle m, rfl⟩
    · rw [sq_fetchFrom]
  · intro s p n bs k fetching _
    refine ⟨fun accepts => ?_, fun fails bad => ?_⟩
    · obtain ⟨jseq, ring⟩ := takeSlot_sq p n (descOf bs) none (s.fetchEnded p n)
      rw [sq_fetchEnded] at ring
      refine ⟨_, slotItem (descOf bs) (s.sq p n).after jseq none, exec_descriptorArrival_sound fetching accepts, ?_, rfl, rfl,
        rfl, ?_, ?_, ?_, takeSlot_accCnt .., takeSlot_fr .., fun m other => ?_, fun j written => ?_⟩
      · rw [ring]; rfl
      · rw [ring]; rfl
      · rw [ring]; rfl
      · rw [ring]; rfl
      · rw [takeSlot_sq_other _ _ _ _ _ other]
        exact sq_modSq_ne s _ (.inr other)
      · obtain ⟨q, last⟩ := takeSlot_getLast p n (descOf bs) none (s.fetchEnded p n) written
        exact ⟨_, last, rfl, rfl, rfl, rfl, rfl⟩
    · obtain ⟨count, frame⟩ := wqFault_counts (s := s.fetchEnded p n) bad p 3 (n.val + 16 * k) 0xC
      have next := exec_descriptorArrival_badCrc fetching fails
      generalize wqFault p 3 (n.val + 16 * k) 0xC (s.fetchEnded p n) = u at count frame next
      have wq : u.wq = (s.fetchEnded p n).wq := by rw [frame]
      have ms : u.ms = s.ms := by rw [frame]; rfl
      obtain ⟨jseq, ring⟩ := takeSlot_sq p n (descOf bs) (some 0x0103) u
      rw [sq_of_wq wq, sq_fetchEnded] at ring
      refine ⟨_, slotItem (descOf bs) (s.sq p n).after jseq (some 0x0103), next, ?_, rfl, rfl, ?_, ?_, ?_, ?_, fun j written => ?_⟩
      · rw [ring]; rfl
      · rw [ring]; rfl
      · rw [ring]; rfl
      · rw [takeSlot_accCnt, wq]; rfl
      · rw [frOf_of_fr (takeSlot_fr ..)]
        exact count
      · rw [← store_of_ms ms] at written
        obtain ⟨q, last⟩ := takeSlot_getLast p n (descOf bs) (some 0x0103) u written
        exact ⟨_, last, rfl, rfl⟩
  · intro s p n k fetching bad
    obtain ⟨count, frame⟩ := wqFault_counts (s := (s.fetchEnded p n).modSq p n (fun q => { q with err := true })) bad p 2 n.val 0xC
    have next := exec_descriptorArrival_failed fetching
    generalize wqFault p 2 n.val 0xC _ = u at count frame next
    have wq : u.wq = ((s.fetchEnded p n).modSq p n (fun q => { q with err := true })).wq := by rw [frame]
    have ring : u.sq p n = { s.sq p n with fetching := none, err := true } := by
      rw [sq_of_wq wq, sq_modSq, sq_fetchEnded]
    exact ⟨u, next, by rw [ring], by rw [ring], by rw [ring], count⟩

end Sys2Proof.Machine
end

section
/-!
PROOFS about completions: the DONE record of an item that ends, the posting of its completion, the POSTED record that covers it and
the interrupt that signals it. They settle O52.
-/
namespace Sys2Proof.Machine

/-! ## What changes of rings and of host memory leave -/

/-- A change that leaves a port's part as it is leaves the state. -/
theorem modWport_self {s : State} {p : Side} {f : WqPort → WqPort} (same : f (s.wport p) = s.wport p) : s.modWport p f = s := by
  show ({ s with wq := { s.wq with port := s.wq.port.set p (f (s.wport p)) } } : State) = s
  rw [same, show s.wq.port.set p (s.wport p) = s.wq.port from Two.upd_get_self ..]

@[simp] theorem landing_modSq (s : State) (p : Side) (n : Fin 8) (f : Sq → Sq) (q : Side) :
    ((s.modSq p n f).wport q).landing = (s.wport q).landing := by
  cases p <;> cases q <;> rfl

@[simp] theorem host_modSq (s : State) (p : Side) (n : Fin 8) (f : Sq → Sq) (q : Side) :
    ((s.modSq p n f).wport q).host = (s.wport q).host := by
  cases p <;> cases q <;> rfl

@[simp] theorem landing_modCq (s : State) (p : Side) (n : Fin 8) (f : Cq → Cq) (q : Side) :
    ((s.modCq p n f).wport q).landing = (s.wport q).landing := by
  cases p <;> cases q <;> rfl

@[simp] theorem host_modCq (s : State) (p : Side) (n : Fin 8) (f : Cq → Cq) (q : Side) :
    ((s.modCq p n f).wport q).host = (s.wport q).host := by
  cases p <;> cases q <;> rfl

@[simp] theorem landing_hostWrite (p q : Side) (addr : Nat) (bytes : List Byte) (s : State) :
    ((hostWrite p addr bytes s).wport q).landing = (s.wport q).landing := by
  cases p <;> cases q <;> rfl

theorem host_hostWrite (p : Side) (addr : Nat) (bytes : List Byte) (s : State) :
    ((hostWrite p addr bytes s).wport p).host = msetList 0 (s.wport p).host addr bytes := by
  rw [hostWrite, wport_modWport]

@[simp] theorem sq_hostWrite (p q : Side) (m : Fin 8) (addr : Nat) (bytes : List Byte) (s : State) :
    (hostWrite p addr bytes s).sq q m = s.sq q m := by
  cases p <;> cases q <;> rfl

@[simp] theorem cq_hostWrite (p q : Side) (m : Fin 8) (addr : Nat) (bytes : List Byte) (s : State) :
    (hostWrite p addr bytes s).cq q m = s.cq q m := by
  cases p <;> cases q <;> rfl

theorem store_modCq (s : State) (p : Side) (n : Fin 8) (f : Cq → Cq) (j : Side) : (s.modCq p n f).store j = s.store j := rfl

theorem store_modWport (s : State) (p : Side) (f : WqPort → WqPort) (j : Side) : (s.modWport p f).store j = s.store j := rfl

/-! ## An item completes (R314, R326) -/

theorem curItem_ended {i : Item} {c : Nat} {r : Word} (h : i.stage = .ended c r) : curItem [i] = some i := by simp [curItem, h]

/-- No page is due to return to the host. -/
theorem returnPages_nothing {p : Side} {s : State} (nothing : (s.wport p).returns = []) : returnPages p s = s := by
  refine modWport_self ?_
  simp only [nothing, List.filter_nil, List.foldl_nil]
  rw [← nothing]

section
variable (p : Side) (n : Fin 8) (i : Item) (c : Nat) (r : Word) (s : State)

/-- The DONE record of an item. -/
def doneRecord : JRec := jrec .done p n i.d.opc c i.d.seq (BitVec.ofNat 64 (r.toNat + 2 ^ 32 * i.sqhd))

/-- The item's DONE record is written, and its completion is ready to be posted. -/
def State.doneWritten : State :=
  (journalWrite (doneRecord p n i c r) s).modItem p n (fun i => { i with stage := .ready c r false })

/-- The state that a completion without pages to return leaves. -/
def State.completed : State := releaseChannel p n (s.doneWritten p n i c r)

theorem wport_completed (q : Side) : (s.completed p n i c r).wport q = (s.doneWritten p n i c r).wport q := by
  rw [State.completed]
  exact wport_of_wq ((releaseChannel_only ..).wq.resolve_left (by decide)) q

theorem completed_only : Only 425984 s (s.completed p n i c r) :=
  (modItem_nx (journalWrite_nx (.refl _ _) rfl) rfl : Only 425984 s (s.doneWritten p n i c r)).step (releaseChannel_only ..) rfl

theorem landing_completed (q : Side) : ((s.completed p n i c r).wport q).landing = (s.wport q).landing := by
  rw [wport_completed, State.doneWritten, State.modItem, landing_modSq, wport_journalWrite]

theorem completed_getLast {j : Side} (written : (s.store j).written = true) : ∃ q : Word,
    ((s.completed p n i c r).store j).journal.getLast? = some (({ doneRecord p n i c r with jseq := q } : JRec).seal j) := by
  rw [State.completed, store_of_ms ((releaseChannel_only ..).ms.resolve_left (by decide)), State.doneWritten, store_modItem]
  exact journalWrite_getLast _ written

end

theorem completed_ringHolds {s : State} {p : Side} {n : Fin 8} {i : Item} {c : Nat} {r : Word} (items : (s.sq p n).items = [i])
    (stage : i.stage = .ended c r) : s.ringHolds (s.completed p n i c r) p n { i with stage := .ready c r false } :=
  (((ringHolds_self items).of_ports (journalWrite_ports (doneRecord p n i c r) s)).of_modItem (curItem_ended stage) _).of_wq
    ((releaseChannel_only ..).wq.resolve_left (by decide))

theorem exec_itemComplete_ended {s : State} {p : Side} {n : Fin 8} {i : Item} {c : Nat} {r : Word} {x : Bool}
    (items : (s.sq p n).items = [i]) (stage : i.stage = .ended c r)
    (ok : c = 0 → i.mark + i.d.least ≤ s.tb.now.toNat ∧ (x = true ∨ isOut i.d.opc = false)) (keeps : bitOf i.d.flags 1 = false)
    (nothing : (s.wport p).returns = []) : exec (.itemComplete p n x) s = .next (s.completed p n i c r) := by
  have inTime : ¬(c = 0 ∧ s.tb.now.toNat < i.mark + i.d.least) := fun ⟨zero, early⟩ => Nat.not_le.mpr early (ok zero).1
  have landed : (isOut i.d.opc && c == 0 && !x) = false := by
    by_cases zero : c = 0
    · rcases (ok zero).2 with h | h <;> simp [h]
    · simp [zero]
  have ends (runs : Bool) : itemEnd i runs = some (c, r) := by rw [itemEnd, stage]
  have still : ((s.completed p n i c r).wport p).returns = [] := by
    rw [wport_completed, State.doneWritten, State.modItem, State.modSq, wport_modWport, wport_journalWrite]
    exact nothing
  rw [← returnPages_nothing still]
  show execItemComplete p n x s = _
  simp only [execItemComplete, items, curItem_ended stage, ends, now_eq, inTime, landed, keeps, Bool.false_eq_true, if_false]
  rfl

/-! ## A completion is posted (R308, R309) -/

section
variable (p : Side) (n k : Fin 8) (i : Item) (c : Nat) (r : Word) (s : State)

/-- The state with the tag and the entry of a completion in host memory. -/
def State.entryWritten : State :=
  hostWrite p ((s.cq p k).base.toNat + 16 * (s.cq p k).tail) (cqEntry p k n i c r false (s.cq p k).phase)
    (hostWrite p ((s.cq p k).tag.toNat + 8 * (s.cq p k).tail) (leBytes 8 i.d.tag.toNat) s)

/-- A completion ring one posting further (R308, R327). -/
def Cq.posting (now : Tick) (q : Cq) : Cq :=
  { q with tail := (q.tail + 1) % 2 ^ q.size.toNat, phase := if q.tail + 1 = 2 ^ q.size.toNat then !q.phase else q.phase,
           postings := q.postings + 1, uncoveredAt := if q.uncoveredAt.isNone then some now else q.uncoveredAt }

/-- The state with a completion posted and its ring one posting further, before the posting counts for the interrupt. -/
def State.entryPosted : State :=
  ((s.entryWritten p n k i c r).modSq p n (fun x =>
    { x with items := x.items.map (fun j => if j = i then { j with stage := .posted k (s.cq p k).postings } else j) })).modCq p k
      (fun q => { q with
        tail := ((s.cq p k).tail + 1) % ringLen (s.cq p k).size,
        phase := if (s.cq p k).tail + 1 = ringLen (s.cq p k).size then !q.phase else q.phase, postings := q.postings + 1,
        uncoveredAt := if q.uncoveredAt.isNone then some s.now else q.uncoveredAt })

theorem cq_entryPosted : (s.entryPosted p n k i c r).cq p k = (s.cq p k).posting s.now := by
  rw [State.entryPosted, cq_modCq, cq_modSq, State.entryWritten, cq_hostWrite, cq_hostWrite]
  rfl

theorem host_entryPosted : ((s.entryPosted p n k i c r).wport p).host =
    msetList 0 (msetList 0 (s.wport p).host ((s.cq p k).tag.toNat + 8 * (s.cq p k).tail) (leBytes 8 i.d.tag.toNat))
      ((s.cq p k).base.toNat + 16 * (s.cq p k).tail) (cqEntry p k n i c r false (s.cq p k).phase) := by
  rw [State.entryPosted, host_modCq, host_modSq, State.entryWritten, host_hostWrite, host_hostWrite]

theorem landing_entryPosted : ((s.entryPosted p n k i c r).wport p).landing = (s.wport p).landing := by
  rw [State.entryPosted, landing_modCq, landing_modSq, State.entryWritten, landing_hostWrite, landing_hostWrite]

theorem items_entryPosted (items : (s.sq p n).items = [i]) :
    ((s.entryPosted p n k i c r).sq p n).items = [{ i with stage := .posted k (s.cq p k).postings }] := by
  rw [State.entryPosted, sq_modCq, sq_modSq, State.entryWritten, sq_hostWrite, sq_hostWrite, items]
  simp

end

/-- A posting to a ring without interrupts is not counted for one. -/
theorem cqCount_quiet {p : Side} {k : Fin 8} {irq : Bool} {s : State} (quiet : (s.cq p k).ien = false) : cqCount p k irq s = s := by
  simp [cqCount, quiet]

/-- A posting that neither an interrupt nor a POSTED record follows. -/
theorem postEntry_quiet {s : State} {p : Side} {n k : Fin 8} {i : Item} {c : Nat} {r : Word} (quiet : (s.cq p k).ien = false)
    (covered : (s.cq p k).postings = (s.cq p k).covered) (inside : (s.cq p k).tail < 2 ^ (s.cq p k).size.toNat) :
    postEntry p n k i c r false s = s.entryPosted p n k i c r := by
  have slot : (s.cq p k).tail % ringLen (s.cq p k).size = (s.cq p k).tail := Nat.mod_eq_of_lt inside
  have ring := cq_entryPosted p n k i c r s
  have count (irq : Bool) : cqCount p k irq (s.entryPosted p n k i c r) = s.entryPosted p n k i c r :=
    cqCount_quiet (by rw [ring]; exact quiet)
  have few : ¬16 ≤ ((s.entryPosted p n k i c r).cq p k).postings - ((s.entryPosted p n k i c r).cq p k).covered := by
    rw [ring]
    show ¬16 ≤ (s.cq p k).postings + 1 - (s.cq p k).covered
    omega
  have parts : postEntry p n k i c r false s = (fun t => if 16 ≤ (t.cq p k).postings - (t.cq p k).covered then writePosted p k t
      else t) (cqCount p k (bitOf i.d.flags 0) (s.entryPosted p n k i c r)) := by
    simp only [postEntry, slot]
    rfl
  rw [parts, count]
  exact if_neg few

theorem exec_completionPost_posts {s : State} {p : Side} {n : Fin 8} {i : Item} {c : Nat} {r : Word} (l : s.live p)
    (link : (s.hport p).link = .l0) (items : (s.sq p n).items = [i]) (stage : i.stage = .ready c r false) (new : i.old = false)
    (en : (s.cq p (s.sq p n).cq).en = true) (room : (s.cq p (s.sq p n).cq).full = false) :
    exec (.completionPost p n) s = .next (postEntry p n (s.sq p n).cq i c r false s) := by
  have reset : (s.hport p).inReset = false := l
  have up : (s.hport p).linkUp = true := by simp [HpPort.linkUp, link]
  have front : frontItem [i] = some i := by simp [frontItem, stage]
  show execCompletionPost p n s = _
  simp only [execCompletionPost, room, Bool.false_and, Bool.false_eq_true, if_false, items, front, stage, reset, up, en, new,
    Bool.not_true, Bool.or_self]

/-! ## Coverage (R326, R327) -/

/-- The POSTED record of a CQ. -/
def postedRecord (p : Side) (k : Fin 8) (s : State) : JRec :=
  { jrec .posted p k 0 0 (BitVec.ofNat 32 ((s.cq p k).tail + 4096 * bit (s.cq p k).phase)) 0 with
    covers := (fins 8).flatMap (fun n => ((s.sq p n).items.filter (fun i =>
      match i.stage with | .posted c _ => c == k | _ => false)).map (fun i => (n, i.d.seq, i.sqhd))) }

/-- A POSTED record covers its CQ: it is written, and the items it covers leave their rings. -/
theorem writePosted_eq (p : Side) (k : Fin 8) (s : State) : ∃ g : Vector Sq 8 → Vector Sq 8, writePosted p k s =
    ((journalWrite (postedRecord p k s) s).modWport p (fun w => { w with sq := g w.sq })).modCq p k (fun q =>
      { q with covered := q.postings, uncoveredAt := none }) :=
  ⟨_, rfl⟩

theorem cq_modWport_sq (s : State) (p q : Side) (m : Fin 8) (g : Vector Sq 8 → Vector Sq 8) :
    (s.modWport p (fun w => { w with sq := g w.sq })).cq q m = s.cq q m := by
  cases p <;> cases q <;> rfl

theorem cq_writePosted (p : Side) (k : Fin 8) (s : State) :
    (writePosted p k s).cq p k = { s.cq p k with covered := (s.cq p k).postings, uncoveredAt := none } := by
  obtain ⟨g, eq⟩ := writePosted_eq p k s
  rw [eq, cq_modCq, cq_modWport_sq, cq_journalWrite]

theorem cq_writePosted_other {p : Side} {k m : Fin 8} (other : m ≠ k) (s : State) : (writePosted p k s).cq p m = s.cq p m := by
  obtain ⟨g, eq⟩ := writePosted_eq p k s
  rw [eq, cq_modCq_ne _ _ (.inr other), cq_modWport_sq, cq_journalWrite]

theorem writePosted_getLast (p : Side) (k : Fin 8) {s : State} {j : Side} (written : (s.store j).written = true) : ∃ q : Word,
    ((writePosted p k s).store j).journal.getLast? = some (({ postedRecord p k s with jseq := q } : JRec).seal j) := by
  obtain ⟨g, eq⟩ := writePosted_eq p k s
  rw [eq, store_modCq, store_modWport]
  exact journalWrite_getLast _ written

theorem exec_postedTimer_due {s : State} {p : Side} {n : Fin 8} {u : Tick} (uncovered : (s.cq p n).uncoveredAt = some u)
    (due : 1000 ≤ elapsed s.tb.now u) : exec (.postedTimer p n) s = .next (writePosted p n s) := by
  show execPostedTimer p n s = _
  simp only [execPostedTimer, uncovered, now_eq, due, if_true]

/-! ## The interrupt of a CQ (R298, R339) -/

/-- A message handed to the link is sent, or its vector's pending bit stands. -/
theorem sendVector_signals (p : Side) (v : Fin 32) (s : State) : ((sendVector p v s).hport p).pend.getLsbD v.val = true ∨
    ((sendVector p v s).hport p).sent.length = (s.hport p).sent.length + 1 := by
  rw [sendVector, hport_modHport]
  dsimp only
  split
  · exact .inr rfl
  · exact .inl (by rw [BitVec.getLsbD_or, getLsbD_vectorBit, decide_eq_true rfl, Bool.or_true])

theorem cq_cqSignal (p : Side) (k : Fin 8) (s : State) :
    (cqSignal p k s).cq p k = { s.cq p k with unsignalled := 0, unsignalledAt := none } := by
  rw [cqSignal, cq_of_wq sendVector_f_wq, cq_modCq]

theorem cq_cqSignal_other {p : Side} {k m : Fin 8} (other : m ≠ k) (s : State) : (cqSignal p k s).cq p m = s.cq p m := by
  rw [cqSignal, cq_of_wq sendVector_f_wq, cq_modCq_ne _ _ (.inr other)]

theorem exec_cqCoalesceTimer_due {s : State} {p : Side} {n : Fin 8} {u : Tick} (since : (s.cq p n).unsignalledAt = some u)
    (ien : (s.cq p n).ien = true) (timed : (s.cq p n).coalT ≠ 0) (due : 100 * (s.cq p n).coalT.toNat ≤ elapsed s.tb.now u) :
    exec (.cqCoalesceTimer p n) s = .next (cqSignal p n s) := by
  show execCqCoalesceTimer p n s = _
  simp only [execCqCoalesceTimer, since, now_eq]
  exact congrArg _ (if_pos ⟨ien, timed, due⟩)

/-! ## The statement -/

/-- Settles O52: an ended item comes to `completed`, a posting without interrupts to `entryPosted`, and the two timers to the POSTED
record and the interrupt of their CQ. -/
theorem itemsCompleteAndPost : Obligations.ItemsCompleteAndPost := by
  refine ⟨?_, ?_, ?_, ?_⟩
  · intro s p n i c r x items stage ok keeps nothing
    have only := completed_only p n i c r s
    obtain ⟨ready, others⟩ := completed_ringHolds items stage
    refine ⟨_, exec_itemComplete_ended items stage ok keeps nothing, ready, landing_completed .., fun m other =>
      others p m (.inr other), only.fr.resolve_left (by decide), only.dev.resolve_left (by decide), fun j written => ?_⟩
    obtain ⟨q, last⟩ := completed_getLast p n i c r s written
    exact ⟨_, last, rfl, rfl, rfl, rfl, rfl⟩
  · rintro s p n k i c r l link rfl items stage new en quiet room covered inside
    have ring := cq_entryPosted p n (s.sq p n).cq i c r s
    have notFull : (s.cq p (s.sq p n).cq).full = false := beq_eq_false_iff_ne.mpr room
    refine ⟨_, (exec_completionPost_posts l link items stage new en notFull).trans (congrArg _ (postEntry_quiet quiet covered inside)),
      items_entryPosted _ _ _ _ _ _ _ items, ?_, ?_, ?_, host_entryPosted .., landing_entryPosted .., rfl⟩
    · rw [ring]; rfl
    · rw [ring]; rfl
    · rw [ring]; rfl
  · intro s p n u since due
    refine ⟨_, exec_postedTimer_due since due, ?_, ?_, fun m other => cq_writePosted_other other s, fun j written => ?_⟩
    · rw [cq_writePosted]
    · rw [cq_writePosted]
    · obtain ⟨q, last⟩ := writePosted_getLast p n written
      exact ⟨_, last, rfl, rfl, rfl⟩
  · intro s p n u since ien timed due
    exact ⟨_, exec_cqCoalesceTimer_due since ien timed due, cq_cqSignal .., fun m other => cq_cqSignal_other other s, rfl,
      sendVector_signals p (s.cq p n).vec.toFin _⟩

end Sys2Proof.Machine
end

section
/-!
PROOFS about the landing window: a write that lands in one page or entry, what a dropped or discarded one leaves, the judgement of
a page given back, its verdict, and the rebuild of a remainder. They settle O53.
-/
namespace Sys2Proof.Machine

/-! ## The pieces of a host write (R322, R324) -/

theorem windowWrite_nil (p : Side) (n off : Nat) (s : State) : windowWrite p n off [] s = s := by
  cases n with
  | zero => rfl
  | succ n => exact if_pos (.inl rfl)

/-- A write that is one piece of the window, an entry of page 0 or a part of one page beyond it. -/
theorem hostWindowWrite_single {p : Side} {off : Nat} {bs : List Byte} (s : State) (some : bs ≠ []) (inside : off < 0x200000)
    (within : off % (if off < 4096 then 8 else 4096) + bs.length ≤ if off < 4096 then 8 else 4096) :
    hostWindowWrite p off bs s =
      if off < 4096 then entryWrite p ⟨off / 8 % 512, Nat.mod_lt _ (by decide)⟩ (off % 8) bs s
      else pageWrite p (off / 4096) off bs s := by
  obtain ⟨n, length⟩ : ∃ n, bs.length = n + 1 := ⟨bs.length - 1, by have := List.length_pos_iff.mpr some; omega⟩
  have stops : ¬(bs.isEmpty = true ∨ 0x200000 ≤ off) := by simp [some]; omega
  have piece : min bs.length ((if off < 4096 then 8 else 4096) - off % (if off < 4096 then 8 else 4096)) = bs.length :=
    Nat.min_eq_left (by omega)
  rw [hostWindowWrite, length, windowWrite, if_neg stops]
  simp only [piece, List.take_length, List.drop_length]
  exact windowWrite_nil ..

theorem hostWindowWrite_page {p : Side} {off : Nat} {bs : List Byte} (s : State) (some : bs ≠ []) (data : 4096 ≤ off)
    (within : off % 4096 + bs.length ≤ 4096) (inside : off + bs.length ≤ 0x200000) :
    hostWindowWrite p off bs s = pageWrite p (off / 4096) off bs s := by
  have low : ¬off < 4096 := Nat.not_lt.mpr data
  have length := List.length_pos_iff.mpr some
  rw [hostWindowWrite_single s some (by omega) (by simpa only [low, if_false] using within), if_neg low]

theorem hostWindowWrite_entry {p : Side} {g : Fin 512} {bs : List Byte} (s : State) (length : bs.length = 8) :
    hostWindowWrite p (8 * g.val) bs s = entryWrite p g 0 bs s := by
  have bound := g.isLt
  have low : 8 * g.val < 4096 := by omega
  have some : bs ≠ [] := fun none => by simp [none] at length
  have entry : (⟨8 * g.val / 8 % 512, Nat.mod_lt _ (by decide)⟩ : Fin 512) = g := Fin.ext (by simp)
  rw [hostWindowWrite_single s some (by omega) (by rw [if_pos low, length]; omega), if_pos low, entry,
    Nat.mul_mod_right]

/-! ## A write to landing data (R303, R324) -/

section
variable {s : State} {p : Side} {off : Nat} {bs : List Byte} (l : s.live p)
include l

theorem exec_landingWrite_discarded {x y : Bool} (unsound : x = true ∨ 256 < bs.length) :
    exec (.landingWrite p off bs x y) s = .next (recordPoisoned p s) := by
  show execLandingWrite p off bs x y s = _
  rw [execLandingWrite, fromPort_live l, if_pos unsound]

theorem exec_landingWrite_lands (some : bs ≠ []) (data : 4096 ≤ off) (within : off % 4096 + bs.length ≤ 4096)
    (inside : off + bs.length ≤ 0x200000) (free : s.marchHolds p off bs.length = false) (short : bs.length ≤ 256) :
    exec (.landingWrite p off bs false false) s = .next (pageWrite p (off / 4096) off bs s) := by
  have sound : ¬(false = true ∨ 256 < bs.length) := by simp [Nat.not_lt.mpr short]
  show execLandingWrite p off bs false false s = _
  rw [execLandingWrite, fromPort_live l, if_neg sound, landWrite, if_neg (Bool.eq_false_iff.mp free),
    ← hostWindowWrite_page s some data within inside]
  rfl

end

theorem pageWrite_lands {p : Side} {page : Nat} {s : State} (still : s.flipping p page = false)
    (host : (s.wport p).owned page = false) (off : Nat) (bs : List Byte) :
    pageWrite p page off bs s = s.modWport p (landData page off bs) := by
  simp [pageWrite, still, host]

theorem pageWrite_drops {p : Side} {page : Nat} {s : State} (still : s.flipping p page = false)
    (own : (s.wport p).owned page = true) (off : Nat) (bs : List Byte) : pageWrite p page off bs s = landingDrop p page s := by
  simp [pageWrite, still, own]

/-- A write dropped is counted and recorded, and no landing byte changes. -/
theorem landingDrop_counts {s : State} (bad : s.bad = []) (p : Side) (page : Nat) :
    (landingDrop p page s).wport p = s.wport p ∧ (landingDrop p page s).wq.dropCnt = satInc s.wq.dropCnt ∧
    ((landingDrop p page s).frOf .wq).cntCorr = satInc (s.frOf .wq).cntCorr ∧
    landingDrop p page s =
      { s with wq := (landingDrop p page s).wq, fr := (landingDrop p page s).fr, hp := (landingDrop p page s).hp } := by
  obtain ⟨count, frame⟩ := wqFault_counts (s := s.modWq (fun w =>
    { w with dropCnt := satInc w.dropCnt, dropPage := BitVec.ofNat 9 page, dropPort := p == .b })) bad p 5 page 0xC
  rw [landingDrop]
  generalize wqFault p 5 page 0xC _ = u at count frame
  rw [frame] at count ⊢
  exact ⟨rfl, rfl, count, rfl⟩

/-- The bytes of a write that has landed. -/
theorem mget_landData {w : WqPort} (canonical : Memory.wf 0 w.landing = true) (page off : Nat) (bs : List Byte) (a : Nat) :
    mget 0 (landData page off bs w).landing a =
      if off ≤ a ∧ a < off + bs.length then bs.getD (a - off) 0 else mget 0 w.landing a := by
  show mget 0 (msetList 0 w.landing off bs) a = _
  split
  · next covered =>
    obtain ⟨k, rfl⟩ := Nat.exists_eq_add_of_le covered.1
    have length : k < bs.length := by omega
    rw [mget_msetList canonical off bs length, Nat.add_sub_cancel_left, List.getD_eq_getElem _ _ length]
  · next outside => exact mget_msetList_other canonical bs (by omega)

/-! ## A page given back (R323) -/

/-- The first unit of a slice is the unit at its address or reads as unlisted. -/
theorem mslice_head {w : Nat} (d : BitVec w) (m : Mem w) (a n : Nat) :
    (mslice d m a (n + 1)).getD 0 d = mget d m a ∨ (mslice d m a (n + 1)).getD 0 d = d := by
  induction m with
  | nil => exact .inl rfl
  | cons e m ih =>
    obtain ⟨k, v⟩ := e
    by_cases before : k < a
    · have dropped : mslice d ((k, v) :: m) a (n + 1) = mslice d m a (n + 1) := by simp [mslice, before]
      have passed : mget d ((k, v) :: m) a = mget d m a := if_neg (by omega)
      rwa [dropped, passed]
    · have first : mslice d ((k, v) :: m) a (n + 1) = msliceFrom d ((k, v) :: m) a (n + 1) := by simp [mslice, before]
      rw [first, msliceFrom]
      by_cases here : k = a
      · simp [mget, here]
      · simp [here]

/-- A write of a whole entry forms it, its second byte 0. -/
theorem formEntry_whole (cur held : List Byte) {bs : List Byte} (length : bs.length = 8) :
    formEntry cur held 0 bs = bs.set 1 0 := by
  refine List.ext_getElem (by simp [formEntry, length]) fun k formed _ => ?_
  have bound : k < bs.length := by simpa [formEntry, length] using formed
  have covered : k < 8 := length ▸ bound
  by_cases second : k = 1
  · simp [formEntry, second]
  · simp [formEntry, second, length, covered, Ne.symm second]

/-- The flip of a page given back to the host. -/
def backFlip (g : Fin 512) (bs : List Byte) : Flip := { page := g, entry := bs.set 1 0, taken := true, writes := [] }

/-- The port with a page given back, whose verdict is not yet visible. -/
def WqPort.givenBack (g : Fin 512) (bs : List Byte) (w : WqPort) : WqPort :=
  { w with entryHold := none, flips := w.flips ++ [backFlip g bs] }

theorem modWport_modWport (s : State) (p : Side) (f g : WqPort → WqPort) :
    (s.modWport p f).modWport p g = s.modWport p (fun w => g (f w)) := by
  cases p <;> rfl

section
variable {s : State} {p : Side} {g : Fin 512} {bs : List Byte} (length : bs.length = 8) (back : bs.getD 0 0 = 0)
  (host : mget 0 (s.wport p).landing (8 * g.val) ≠ 0xD5)
include length back host

theorem judgeEntry_back : judgeEntry p g 0 bs s = s.modWport p (WqPort.givenBack g bs) := by
  have cur : (mslice 0 (s.wport p).landing (8 * g.val) 8).getD 0 0 ≠ 0xD5 := by
    rcases mslice_head (0 : Byte) (s.wport p).landing (8 * g.val) 7 with head | head
    · rwa [head]
    · rw [head]
      decide
  have owner : (bs.set 1 0).getD 0 0 = 0 := by simpa [List.getD] using back
  have taken (cur : List Byte) (w : WqPort) (bad : Bool) : flipTaken p g.val cur (bs.set 1 0) w bad = true := by
    simp only [flipTaken, owner, beq_self_eq_true, Bool.true_or]
  unfold judgeEntry
  simp only [formEntry_whole _ _ length, if_neg cur, taken, owner, if_true]
  exact modWport_modWport ..

theorem exec_entryWrite_back (l : s.live p) (page : g.val ≠ 0) (still : s.flipping p g.val = false)
    (free : s.marchHolds p (8 * g.val) 8 = false) :
    exec (.entryWrite p (8 * g.val) bs false) s = .next (s.modWport p (WqPort.givenBack g bs)) := by
  have bound := g.isLt
  have low : ¬4096 ≤ 8 * g.val := by omega
  have lands : landWrite p (8 * g.val / 8) (8 * g.val) bs false s = hostWindowWrite p (8 * g.val) bs s := by
    rw [landWrite, length, free]
    rfl
  have some : ¬(g.val = 0 ∨ bs.isEmpty = true) := fun none => none.elim page fun h => by
    simp [List.isEmpty_iff.mp h] at length
  have whole : entryWrite p g 0 bs s = judgeEntry p g 0 bs s := by
    rw [entryWrite, if_neg some, still, if_neg Bool.false_ne_true, length, if_pos rfl]
  show execEntryWrite p (8 * g.val) bs false s = _
  rw [execEntryWrite, fromPort_live l, if_neg low, lands, hostWindowWrite_entry s length, whole,
    judgeEntry_back length back host]

end

/-! ## A verdict (R323) -/

/-- The port once the verdict of its oldest flip is visible. -/
def WqPort.shown (f : Flip) (fs : List Flip) (w : WqPort) : WqPort :=
  { w with flips := fs, landing := if f.taken then msetList 0 w.landing (8 * f.page.val) f.entry else w.landing }

theorem exec_flipVerdict_shows {s : State} {p : Side} {f : Flip} {fs : List Flip} (flips : (s.wport p).flips = f :: fs)
    (alone : f.writes = []) : exec (.flipVerdict p) s = .next (s.modWport p (WqPort.shown f fs)) := by
  show execFlipVerdict p s = _
  simp only [execFlipVerdict, flips, alone, List.foldl_nil]
  rfl

/-! ## The remainder of a page (R370) -/

/-- The port with the remainder of a page rebuilt from its bytes. -/
def WqPort.rebuilt (g : Fin 512) (w : WqPort) : WqPort :=
  { w with remBad := w.remBad.filter (fun p => p != g.val),
           rem := mset 0 w.rem g.val (crc32cState 0 (mslice 0 w.landing (4096 * g.val) 4096)) }

theorem exec_remainderRebuild_due {s : State} {p : Side} {g : Fin 512} (invalid : (s.wport p).remBad.contains g.val = true)
    (free : s.marchMeets p (4096 * g.val) 4096 = false) : exec (.remainderRebuild p g) s =
      .next ((s.modWport p (WqPort.rebuilt g)).modCv (fun x => { x with rebuildCnt := satInc x.rebuildCnt })) :=
  congrArg _ (if_pos (by simp only [invalid, free, Bool.not_false, Bool.and_self]))

/-! ## The statement -/

/-- Settles O53: a write that is one piece of the window lands, is dropped or is judged as its page is owned; a verdict and a
rebuild change their port alone. -/
theorem landingWindowWritesAndFlips : Obligations.LandingWindowWritesAndFlips := by
  refine ⟨?_, ?_, ?_, ?_⟩
  · intro s p off bs l data some within inside still free
    refine ⟨fun short host => ⟨?_, fun canonical a => mget_landData canonical _ off bs a⟩, fun short own bad => ?_,
      fun x y unsound bad => ?_⟩
    · rw [exec_landingWrite_lands l some data within inside free short, pageWrite_lands still host]
    · refine ⟨_, ?_, landingDrop_counts bad p (off / 4096)⟩
      rw [exec_landingWrite_lands l some data within inside free short, pageWrite_drops still own]
    · obtain ⟨count, -, frame⟩ := recordPoisoned_hp p bad
      exact ⟨_, exec_landingWrite_discarded l unsound, count, frame⟩
  · intro s p g bs l page length back still free host
    refine ⟨_, backFlip g bs, exec_entryWrite_back length back host l page still free, ?_, rfl, rfl, rfl, rfl, ?_, rfl⟩
    · rw [wport_modWport]; rfl
    · rw [wport_modWport]; rfl
  · intro s p f fs flips alone length canonical
    refine ⟨_, exec_flipVerdict_shows flips alone, ?_, rfl, fun taken k bound => ?_, fun restored => ?_⟩
    · rw [wport_modWport]; rfl
    · have covered : k < f.entry.length := length ▸ bound
      rw [wport_modWport, WqPort.shown, taken, if_pos rfl, mget_msetList canonical _ _ covered,
        List.getD_eq_getElem _ _ covered]
    · rw [wport_modWport, WqPort.shown, restored]; rfl
  · intro s p g invalid free
    refine ⟨_, exec_remainderRebuild_due invalid free, ?_, rfl, ?_, rfl⟩
    · show ((s.modWport p (WqPort.rebuilt g)).wport p).remBad.contains g.val = false
      rw [wport_modWport]
      simp [WqPort.rebuilt]
    · show ((s.modWport p (WqPort.rebuilt g)).wport p).landing = _
      rw [wport_modWport]
      rfl

end Sys2Proof.Machine
end

section
/-!
PROOFS about the end of a tick on which a MODE_REQ asks for IDLE: the change of the device state, and the tick that ends with
nothing else due. The proofs about items that ask for a state use them.
-/
namespace Sys2Proof.Machine

/-! ## RUN is left for IDLE (R27, R206, R442) -/

@[simp] theorem held_modSq (s : State) (p : Side) (n : Fin 8) (f : Sq → Sq) (q : Side) :
    ((s.modSq p n f).wport q).held = (s.wport q).held := by
  rcases eq_or_ne q p with rfl | ne
  · rw [State.modSq, wport_modWport]
  · rw [State.modSq, wport_modWport_ne s _ ne]

theorem modeDrop_none {s : State} (noReq : s.wq.modeReq = none) : modeDrop s = s := by simp only [modeDrop, noReq]

theorem ackCheck_none {s : State} (noAck : s.st.ack = none) : ackCheck s = s := by simp only [ackCheck, noAck]

/-- An interrupted slice leaves the wait for an acknowledgement and the debug unit. -/
theorem cruiseInterrupt_st (s : State) :
    (cruiseInterrupt s).st.ack = s.st.ack ∧ (cruiseInterrupt s).st.dbg = s.st.dbg := by
  have before : (katRelease (thrRejoin s)).st = s.st := by rw [katRelease_f_st, thrRejoin_f_st]
  rw [cruiseInterrupt, modSt_st, before]
  split <;> exact ⟨rfl, rfl⟩

/-- What a change of the device state keeps as it begins, while no MODE_REQ waits. -/
structure State.KeptByChange (s t : State) : Prop where
  wq : t.wq = s.wq
  tb : t.tb = s.tb
  ack : t.st.ack = s.st.ack
  dbg : t.st.dbg = s.st.dbg

theorem changing_keeps {s : State} (noReq : s.wq.modeReq = none) (new : DevState) : s.KeptByChange (s.changing new) := by
  obtain ⟨ack, dbg⟩ := cruiseInterrupt_st (backupState new { logEvent 4 Block.st.id s.dev.code new.code (modeDrop s) with
    dev := new, devAt := some (logEvent 4 Block.st.id s.dev.code new.code (modeDrop s)).now })
  constructor
  · simp [State.changing, modeDrop_none noReq]
  · simp [State.changing]
  · simpa [State.changing] using ack
  · simpa [State.changing] using dbg

/-- IDLE is entered from RUN with no acknowledgement awaited. -/
theorem setDev_idle_of_run {s : State} (run : s.dev = .run) (noReq : s.wq.modeReq = none) (noAck : s.st.ack = none) :
    setDev .idle s = (inhibitBoth (s.changing .idle)).modSc (fun c => { c with kok := false }) := by
  have started : s.dev ≠ .start := by simp [run]
  have awaited : ((inhibitBoth (s.changing .idle)).modSc (fun c => { c with kok := false })).st.ack = none := by
    rw [modSc_st, inhibitBoth_f_st, (changing_keeps noReq .idle).ack, noAck]
  exact (congrArg ackCheck (if_neg started)).trans (ackCheck_none awaited)

theorem setDev_idle_keeps {s : State} (run : s.dev = .run) (noReq : s.wq.modeReq = none) (noAck : s.st.ack = none) :
    s.KeptByChange (setDev .idle s) ∧ (setDev .idle s).dev = .idle ∧ (setDev .idle s).restrained := by
  obtain ⟨wq, tb, ack, dbg⟩ := changing_keeps noReq .idle
  rw [setDev_idle_of_run run noReq noAck]
  refine ⟨⟨?_, ?_, ?_, ?_⟩, ?_, restrained_of_os rfl (inhibitBoth_restrained (s.changing .idle))⟩
  · rw [modSc_wq, inhibitBoth_f_wq, wq]
  · rw [modSc_tb, inhibitBoth_f_tb, tb]
  · rw [modSc_st, inhibitBoth_f_st, ack]
  · rw [modSc_st, inhibitBoth_f_st, dbg]
  · simp [State.changing]

/-! ## The request takes effect (R28, R320) -/

/-- The tick on which the state changed and the code of IDLE, as an item keeps them (R320). -/
def idleMark (now : Tick) : Nat := 16 * now.toNat + 2

/-- The state with the request taken up. -/
def State.requestTaken (s : State) : State := s.modWq (fun w => { w with modeReq := none })

/-- The state in which the request for IDLE has taken effect. -/
def State.idleEntered (s : State) (p : Side) (n : Fin 8) : State :=
  (setDev .idle s.requestTaken).modItem p n (fun i => { i with mark := idleMark s.tb.now })

section
variable {s : State} {p : Side} {n : Fin 8} {i : Item} (run : s.dev = .run) (noAck : s.st.ack = none)
include run noAck

theorem setDev_requestTaken : s.requestTaken.KeptByChange (setDev .idle s.requestTaken) ∧
    (setDev .idle s.requestTaken).dev = .idle ∧ (setDev .idle s.requestTaken).restrained :=
  setDev_idle_keeps (s := s.requestTaken) run rfl noAck

theorem modeEffect_idle {d : Desc} (arg0 : d.arg0 = 1) (arg1 : d.arg1 = 0) :
    modeEffect p n d s.requestTaken = s.idleEntered p n := by
  obtain ⟨⟨-, tb, -, -⟩, dev, -⟩ := setDev_requestTaken run noAck
  simp only [modeEffect, arg0, arg1, if_true, one_ne_zero, false_and, if_false, now_eq, tb, dev]
  rfl

theorem applyModeReq_idle (request : s.wq.modeReq = some (p, n)) (items : (s.sq p n).items = [i]) (stage : i.stage = .begun)
    (arg0 : i.d.arg0 = 1) (arg1 : i.d.arg1 = 0) : applyModeReq s = s.idleEntered p n := by
  have cur : curItem (s.requestTaken.sq p n).items = some i := (congrArg curItem items).trans (curItem_begun stage)
  rw [applyModeReq, request, ← modeEffect_idle run noAck arg0 arg1]
  exact congrArg (fun o => match o with | some i => modeEffect p n i.d s.requestTaken | none => s.requestTaken) cur

theorem idleEntered_nothingDue (due : s.requestTaken.nothingDue) : (s.idleEntered p n).nothingDue := by
  obtain ⟨⟨wq, tb, -, dbg⟩, -, -⟩ := setDev_requestTaken run noAck
  obtain ⟨-, held, rst, hold, posts⟩ := due
  refine ⟨?_, fun q => ?_, ?_, ?_, ?_⟩
  · exact congrArg Wq.modeReq wq
  · rw [State.idleEntered, State.modItem, held_modSq, wport_of_wq wq]
    exact held q
  · rw [State.idleEntered, modItem_f_pcr, setDev_pcr]
    exact rst
  · rw [State.idleEntered, modItem_f_st, dbg]
    exact hold
  · rw [State.idleEntered, modItem_f_tb, tb]
    exact posts

end

/-- A tick with nothing due but a change of state takes TB_NOW, the clocks' marks and what ports keep for the next tick on. -/
theorem tick_only {s : State} (due : (applyModeReq s).nothingDue) : Only 16576 (applyModeReq s) (tick s) := by
  unfold tick
  dsimp only
  generalize applyModeReq s = u at due ⊢
  obtain ⟨-, held, rst, hold, posts⟩ := due
  rw [marchRelease_nil (held .a), marchRelease_nil (held .b)]
  split
  · have a : takePosts .a u.nextEdge = u.nextEdge := takePosts_none (congrArg Two.a posts)
    have b : takePosts .b u.nextEdge = u.nextEdge := takePosts_none (congrArg Two.b posts)
    have stays : holdAfterHalt u.nextEdge = u.nextEdge := if_neg (ne_true_of_eq_false hold)
    have kept : assertDue u.nextEdge = u.nextEdge := assertDue_none rst
    show Only _ _ (assertDue (holdAfterHalt (takePosts .b (takePosts .a u.nextEdge))))
    rw [a, b, stays, kept]
    exact nextEdge_only u
  · rw [assertDue_none]
    · exact (modHp_nx (modPcr_nx (.refl _ _) rfl) rfl).step (keepHlink_only _) rfl
    · exact rst

/-- The end of a tick in RUN on which a MODE_REQ asks for IDLE. -/
theorem step_idleRequest {s : State} {p : Side} {n : Fin 8} {i : Item} (empty : s.pending = [])
    (request : s.wq.modeReq = some (p, n)) (items : (s.sq p n).items = [i]) (stage : i.stage = .begun) (arg0 : i.d.arg0 = 1)
    (arg1 : i.d.arg1 = 0) (run : s.dev = .run) (noAck : s.st.ack = none) (due : s.requestTaken.nothingDue) :
    ∃ t, step s = .next t ∧ t.dev = .idle ∧ t.restrained ∧ t.wq.modeReq = none ∧
      (t.sq p n).items = [{ i with mark := idleMark s.tb.now }] := by
  have effect := applyModeReq_idle run noAck request items stage arg0 arg1
  have only : Only 16576 (s.idleEntered p n) (tick s) := by
    have o := tick_only (s := s) (by rw [effect]; exact idleEntered_nothingDue run noAck due)
    rwa [effect] at o
  obtain ⟨⟨wq, -, -, -⟩, dev, stopped⟩ := setDev_requestTaken run noAck
  have ports : (setDev .idle s.requestTaken).wq.port = s.wq.port := by rw [wq]; rfl
  have holds : s.ringHolds (s.idleEntered p n) p n { i with mark := idleMark s.tb.now } :=
    ((ringHolds_self items).of_ports ports).of_modItem (curItem_begun stage) _
  have edge : step s = .next (tick s) := by simp only [step, empty]
  refine ⟨_, edge, ?_, ?_, ?_, ?_⟩
  · exact (only.dev.resolve_left (by decide)).trans dev
  · exact restrained_of_os (only.os.resolve_left (by decide)) (restrained_of_os modItem_f_os stopped)
  · exact (congrArg Wq.modeReq (only.wq.resolve_left (by decide))).trans (congrArg Wq.modeReq wq)
  · exact (holds.of_wq (only.wq.resolve_left (by decide))).1

end Sys2Proof.Machine
end

section
/-!
PROOFS about items that read out, fence, or ask for a state or a reset. They settle O55.
-/
namespace Sys2Proof.Machine

/-! ## The checks of R316 and R317 -/

theorem lenOk_out {d : Desc} {size : Nat} (h : d.outOk size) : lenOk (.out size) d = true := by
  obtain ⟨fits, inside, off⟩ := h
  simpa [lenOk, fits, off] using inside

theorem lenOk_range {d : Desc} (h : d.noData) : lenOk .range d = true := by
  obtain ⟨len, off, addr⟩ := h
  simp [lenOk, len, off, addr]

theorem rangeOf_range {d : Desc} (h : d.noData) : rangeOf .range d = (0, 0) := by
  obtain ⟨len, off, -⟩ := h
  simp [rangeOf, len, off]

/-- A waiting item that touches no landing page is carried out once its opcode's own conditions hold. -/
theorem itemCheck_waiting {s : State} {p : Side} {n : Fin 8} {i : Item} {opc : Nat} {args limits stateOk : Bool} {u : DataUse}
    (waits : s.itemWaits p n i opc) (argsOk : args = true) (len : lenOk u i.d = true) (range : rangeOf u i.d = (0, 0))
    (lim : limits = true) (ok : stateOk = true) : itemCheck p i.d args u limits stateOk s = none := by
  obtain ⟨-, -, -, -, -, flags, resv⟩ := waits
  exact itemCheck_passes flags resv argsOk len lim (by rw [range]; rfl) ok

theorem waiting_of_itemWaits {s : State} {p : Side} {n : Fin 8} {i : Item} {opc : Nat} (h : s.itemWaits p n i opc) :
    s.waiting p n opc = some i.d := by
  obtain ⟨items, stage, skip, op, -⟩ := h
  simp [State.waiting, frontItem, items, stage, skip, op]

/-! ## Rings, host memory and journals through the operations of an item -/

theorem ringHolds_of_itemWaits {s : State} {p : Side} {n : Fin 8} {i : Item} {opc : Nat} (h : s.itemWaits p n i opc) :
    s.ringHolds s p n i := by
  obtain ⟨items, -⟩ := h
  exact ringHolds_self items

theorem curItem_of_itemWaits {s : State} {p : Side} {n : Fin 8} {i : Item} {opc : Nat} (h : s.itemWaits p n i opc) :
    curItem [i] = some i := by
  obtain ⟨-, stage, -⟩ := h
  exact curItem_accepted stage

theorem State.ringHolds.of_hostWrite {s t : State} {p : Side} {n : Fin 8} {j : Item} (h : s.ringHolds t p n j) (q : Side)
    (addr : Nat) (bytes : List Byte) : s.ringHolds (hostWrite q addr bytes t) p n j := by
  obtain ⟨items, others⟩ := h
  exact ⟨(congrArg Sq.items (sq_hostWrite ..)).trans items, fun r m ne => (sq_hostWrite ..).trans (others r m ne)⟩

@[simp] theorem host_endItem (p : Side) (n : Fin 8) (c : Nat) (r : Word) (s : State) (q : Side) :
    ((endItem p n c r s).wport q).host = (s.wport q).host := host_modSq ..

@[simp] theorem landing_endItem (p : Side) (n : Fin 8) (c : Nat) (r : Word) (s : State) (q : Side) :
    ((endItem p n c r s).wport q).landing = (s.wport q).landing := landing_modSq ..

/-- The BEGIN record stands last in every journal that is written. -/
theorem beginItem_recorded (p : Side) (n : Fin 8) (i : Item) (s : State) : (beginItem p n i.d true s).begun p n i := by
  intro j written
  have was := (beginItem_sameTables p n i.d s j).written.symm.trans written
  obtain ⟨q, last⟩ := journalWrite_getLast (jrec .begin p n i.d.opc 0 i.d.seq 0) was
  rw [store_beginItem]
  exact ⟨_, last, rfl, rfl, rfl, rfl⟩

theorem State.begun.of_ms {s t : State} {p : Side} {n : Fin 8} {i : Item} (h : s.begun p n i) (same : t.ms = s.ms) :
    t.begun p n i := by
  simpa only [State.begun, store_of_ms same] using h

theorem modeReq_beginItem (p : Side) (n : Fin 8) (d : Desc) (s : State) :
    (beginItem p n d true s).wq.modeReq = s.wq.modeReq := by
  have kept : (journalWrite (jrec .begin p n d.opc 0 d.seq 0) s).wq.modeReq = s.wq.modeReq := by rw [journalWrite_wq]
  exact kept

/-- A request noted leaves the rings. -/
theorem modReq_ports (s : State) (r : Option (Side × Fin 8)) : (s.modWq (fun w => { w with modeReq := r })).wq.port = s.wq.port :=
  rfl

/-- What differs by the rings and the memories alone is the state with these two replaced. -/
theorem Only.eq_of_wq_ms {s t : State} (h : Only 294912 s t) : t = { s with wq := t.wq, ms := t.ms } := by
  cases s
  cases t
  simp only [State.mk.injEq, true_and]
  exact ⟨h.pending.resolve_left (by decide), h.dev.resolve_left (by decide), h.devAt.resolve_left (by decide),
    h.bad.resolve_left (by decide), h.fr.resolve_left (by decide), h.sc.resolve_left (by decide),
    h.pcr.resolve_left (by decide), h.tb.resolve_left (by decide), h.st.resolve_left (by decide),
    h.ev.resolve_left (by decide), h.ib.resolve_left (by decide), h.ps.resolve_left (by decide),
    h.af.resolve_left (by decide), h.os.resolve_left (by decide), h.hp.resolve_left (by decide),
    h.pl.resolve_left (by decide), h.cv.resolve_left (by decide), h.free.resolve_left (by decide)⟩

/-! ## A RESET_REQ begun (R321) -/

/-- The hold of HRESET that a RESET_REQ of this ring begins (R321). -/
def HpPort.holding (n : Fin 8) (now : Tick) (ms : Nat) (h : HpPort) : HpPort :=
  { h with hreset := [(n, now + BitVec.ofNat 64 (100000 * ms), false)] }

/-- A RESET_REQ begun, with the tick of its beginning kept. -/
def State.resetBegun (s : State) (p : Side) (n : Fin 8) (d : Desc) : State :=
  (beginItem p n d true s).modItem p n (fun i => { i with mark := s.tb.now.toNat })

theorem resetBegun_only (s : State) (p : Side) (n : Fin 8) (d : Desc) : Only 294912 s (s.resetBegun p n d) :=
  modItem_nx (beginItem_nx (.refl _ _) rfl) rfl

/-! ## What a waiting item does -/

section
variable {s : State} {p : Side} {n : Fin 8} {i : Item}

section
variable (arg1 : i.d.arg1 = 0) (arg2 : i.d.arg2 = 0) (arg3 : i.d.arg3 = 0)
include arg1 arg2 arg3

theorem exec_nop_ends (waits : s.itemWaits p n i 0x00) (arg0 : i.d.arg0 = 0) (empty : i.d.noData) :
    exec (.nop p n) s = .next (endItem p n 0 0 s) := by
  have begins := beginning_of_itemWaits waits
  have passes := itemCheck_waiting (args := i.d.arg0 == 0 && i.d.arg1 == 0 && i.d.arg2 == 0 && i.d.arg3 == 0)
    waits (by simp [arg0, arg1, arg2, arg3]) (lenOk_range empty) (rangeOf_range empty) rfl rfl
  show execNop p n s = _
  simp only [execNop, begins, passes, runItem]

theorem exec_fence (waits : s.itemWaits p n i 0x01) (arg0 : i.d.arg0 < 65536) (empty : i.d.noData) :
    exec (.fence p n) s = .next (if s.fenced p n i.d.arg0 i.jseq then beginItem p n i.d false s else endItem p n 0 0 s) := by
  have passes := itemCheck_waiting (args := decide (i.d.arg0 < 65536) && i.d.arg1 == 0 && i.d.arg2 == 0 && i.d.arg3 == 0)
    waits (by simp [arg0, arg1, arg2, arg3]) (lenOk_none empty) rfl rfl rfl
  obtain ⟨items, stage, skip, opc, runs, -, -⟩ := waits
  have front : frontItem (s.sq p n).items = some i := by simp [items, frontItem, stage]
  show execFence p n s = _
  simp [execFence, front, skip, opc, runs, stage, passes, runItem]

/-- A MODE_REQ with no word passes its checks where the state allows it. -/
theorem modeReq_passes {stateOk : Bool} (waits : s.itemWaits p n i 0x20) (known : i.d.arg0 < 3) (empty : i.d.noData)
    (ok : stateOk = true) : itemCheck p i.d (decide (i.d.arg0 < 3) && i.d.arg3 == 0 && (i.d.arg1 != 0 || i.d.arg2 == 0)) .none
      (i.d.arg1 == 0 || (decide (4 ≤ i.d.arg1) && decide (i.d.arg1 ≤ 0x3F))) stateOk s = none :=
  itemCheck_waiting waits (by simp [known, arg2, arg3]) (lenOk_none empty) rfl (by simp [arg1]) ok

/-- A MODE_REQ for IDLE waits for the end of its tick. -/
theorem exec_modeReq_idle (waits : s.itemWaits p n i 0x20) (arg0 : i.d.arg0 = 1) (empty : i.d.noData) (run : s.dev = .run)
    (still : s.devAt ≠ some s.tb.now) (noReq : s.wq.modeReq = none) : exec (.modeReq p n) s =
      .next ((beginItem p n i.d true s).modWq (fun w => { w with modeReq := some (p, n) })) := by
  have untaken : s.modeTaken p = false := by simp [State.modeTaken, noReq, still]
  have runs : s.itemsRun = true := by simp [State.itemsRun, run]
  have free : modeDrop (beginItem p n i.d true s) = beginItem p n i.d true s :=
    modeDrop_none ((modeReq_beginItem p n i.d s).trans noReq)
  show execModeReq p n s = _
  simp only [execModeReq, waiting_of_itemWaits waits]
  rw [modeReq_passes arg1 arg2 arg3 waits (by omega) empty]
  · simp [runItem, free, run, runs, arg0]
  · simp [run, arg0, State.modeAllowed, untaken]

/-- A MODE_REQ that asks for nothing ends at once. -/
theorem exec_modeReq_ends (waits : s.itemWaits p n i 0x20) (arg0 : i.d.arg0 = 0) (empty : i.d.noData)
    (serves : s.dev = .idle ∨ s.dev = .run ∨ s.dev = .halt) : exec (.modeReq p n) s =
      .next (endItem p n 0 (BitVec.ofNat 32 (beginItem p n i.d true s).dev.code) (beginItem p n i.d true s)) := by
  have runs : s.itemsRun = true := by rcases serves with d | d | d <;> simp [State.itemsRun, d]
  have started : s.dev ≠ .start := by rcases serves with d | d | d <;> simp [d]
  show execModeReq p n s = _
  simp only [execModeReq, waiting_of_itemWaits waits]
  rw [modeReq_passes arg1 arg2 arg3 waits (by omega) empty]
  · simp [runItem, runs, started, arg0, arg1, modeEffect]
  · simpa [arg0, State.modeAllowed, or_assoc] using serves

theorem exec_resetReq_holds (waits : s.itemWaits p n i 0x21) (least : 1 ≤ i.d.arg0) (most : i.d.arg0 ≤ 10000)
    (empty : i.d.noData) (serves : s.dev = .idle ∨ s.dev = .run ∨ s.dev = .halt) (free : (s.hport p).hreset = []) :
    exec (.resetReq p n) s = .next ((s.resetBegun p n i.d).modHport p (HpPort.holding n s.tb.now i.d.arg0)) := by
  have begins := beginning_of_itemWaits waits
  have passes := itemCheck_waiting (args := i.d.arg1 == 0 && i.d.arg2 == 0 && i.d.arg3 == 0)
    (limits := decide (1 ≤ i.d.arg0) && decide (i.d.arg0 ≤ 10000))
    (stateOk := s.dev == .idle || s.dev == .run || s.dev == .halt)
    waits (by simp [arg1, arg2, arg3]) (lenOk_none empty) rfl (by simp [least, most]) (by simpa [or_assoc] using serves)
  have started : s.dev ≠ .start := by rcases serves with d | d | d <;> simp [d]
  have only := resetBegun_only s p n i.d
  have alone : ((s.resetBegun p n i.d).hport p).hreset = [] := by
    rw [hport_of_hp (only.hp.resolve_left (by decide)), free]
  show execResetReq p n s = _
  simp only [execResetReq, begins, passes, runItem, started, if_false]
  show Host.Outcome.next ((s.resetBegun p n i.d).modHport p _) = _
  refine congrArg _ (modHport_congr ?_)
  simp only [HpPort.holding, alone, List.any_nil, List.nil_append, Bool.false_eq_true, if_false,
    now_eq, modItem_f_tb]
  rw [(beginItem_only p n i.d true s).tb.resolve_left (by decide)]

theorem exec_snapshot_begins (waits : s.itemWaits p n i 0x30) (arg0 : i.d.arg0 = 0) (out : i.d.outOk 12288)
    (serves : s.dev = .idle ∨ s.dev = .run) : exec (.snapshot p n) s = .next (beginItem p n i.d false s) := by
  have begins := beginning_of_itemWaits waits
  have passes := itemCheck_waiting (args := i.d.arg0 == 0 && i.d.arg1 == 0 && i.d.arg2 == 0 && i.d.arg3 == 0)
    (stateOk := s.dev == .idle || s.dev == .run)
    waits (by simp [arg0, arg1, arg2, arg3]) (lenOk_out out) rfl rfl (by simpa using serves)
  show execSnapshot p n s = _
  simp only [execSnapshot, begins, passes, runItem]

theorem exec_tallyRead_ends (waits : s.itemWaits p n i 0x31) (arg0 : i.d.arg0 = 0) (out : i.d.outOk 4096)
    (whole : s.ms.tally.length = 4096) :
    exec (.tallyRead p n) s = .next (endItem p n 0 (loHalf s.ms.pub) (hostWrite p i.d.hostAddr s.ms.tally s)) := by
  have begins := beginning_of_itemWaits waits
  have passes := itemCheck_waiting (args := i.d.arg0 == 0 && i.d.arg1 == 0 && i.d.arg2 == 0 && i.d.arg3 == 0)
    waits (by simp [arg0, arg1, arg2, arg3]) (lenOk_out out) rfl rfl rfl
  have published : s.ms.tally.isEmpty = false := by cases e : s.ms.tally <;> simp_all
  show execTallyRead p n s = _
  simp only [execTallyRead, begins, passes, runItem, published, Bool.false_eq_true, if_false]

/-- The bytes that a STORE_READ of this descriptor reads (R396). -/
def State.userRead (s : State) (d : Desc) : List Byte := mslice 0 (s.store s.survivor).user d.arg0 d.len

theorem exec_storeRead_ends (waits : s.itemWaits p n i 0x71) (aligned : i.d.arg0 % 8 = 0) (words : i.d.len % 8 = 0)
    (inside : i.d.arg0 + i.d.len ≤ 524288) (out : i.d.outOk i.d.len) : exec (.storeRead p n) s =
      .next ((endItem p n 0 (BitVec.ofNat 32 i.d.len) (hostWrite p i.d.hostAddr (s.userRead i.d) s)).modItem p n
        (fun i => { i with mark := s.tb.now.toNat })) := by
  have begins := beginning_of_itemWaits waits
  have passes := itemCheck_waiting (args := i.d.arg1 == 0 && i.d.arg2 == 0 && i.d.arg3 == 0) (limits := userLimits i.d)
    waits (by simp [arg1, arg2, arg3]) (lenOk_out out) rfl (by simp [userLimits, aligned, words, inside]) rfl
  show execStoreRead p n s = _
  simp only [execStoreRead, begins, passes, runItem]
  rfl

end

/-! ## A log entry read (R393) -/

/-- The bytes of the entry that a LOG_READ asks for first, if it is held. -/
def State.logRead (s : State) (d : Desc) : Option (List Byte) :=
  (s.store s.survivor).logItem s.survivor 0 (BitVec.ofNat 32 d.arg0)

theorem exec_logRead_one (arg1 : i.d.arg1 = 1) (arg2 : i.d.arg2 = 0) (arg3 : i.d.arg3 = 0) (waits : s.itemWaits p n i 0x32)
    (out : i.d.outOk 32) : exec (.logRead p n) s = .next (endItem p n 0 (if (s.logRead i.d).isSome then 1 else 0)
      (hostWrite p i.d.hostAddr ((s.logRead i.d).getD (List.replicate 32 0)) s)) := by
  have begins := beginning_of_itemWaits waits
  have passes := itemCheck_waiting (args := decide (0 < 2) && i.d.arg3 == 0) (u := .out 32)
    (limits := decide (1 ≤ 1) && decide (1 ≤ 65536)) waits (by simp [arg3]) (lenOk_out out) rfl rfl rfl
  have counted (o : Option (List Byte)) : BitVec.ofNat 32 ([o].filter (·.isSome)).length = if o.isSome then 1 else 0 := by
    cases o <;> rfl
  show execLogRead p n s = _
  simp only [execLogRead, begins, arg1, arg2, if_true, mul_one, List.range_one, List.map_cons, List.map_nil, passes, runItem, counted,
    List.flatMap_cons, List.flatMap_nil, List.append_nil, add_zero]
  rfl

/-! ## A hold of HRESET that ends (R321) -/

theorem exec_hresetExpiry_due {u : Tick} (held : (s.hport p).hreset = [(n, u, false)]) (due : u.toNat ≤ s.tb.now.toNat) :
    exec (.hresetExpiry p n) s = .next (s.modHport p (fun h => { h with hreset := [(n, u, true)] })) := by
  refine congrArg _ (modHport_congr ?_)
  simp [held, due]

end

/-! ## The statement -/

/-- Settles O55: each command is one equation from a waiting item to what it has done; the end of the tick that changes the state is
`step_idleRequest`. -/
theorem readingAndRequestingItems : Obligations.ReadingAndRequestingItems := by
  refine ⟨?_, ?_, ?_, ?_⟩
  · intro s p n i arg1 arg2 arg3
    refine ⟨?nop, ?fence, ?idle, ?change, ?code, ?reset, ?snapshot, ?tally⟩
    case nop =>
      intro waits arg0 empty
      exact ⟨_, exec_nop_ends arg1 arg2 arg3 waits arg0 empty,
        (ringHolds_of_itemWaits waits).of_endItem (curItem_of_itemWaits waits) 0 0, rfl⟩
    case fence =>
      intro waits arg0 empty
      have holds := ringHolds_of_itemWaits waits
      have cur := curItem_of_itemWaits waits
      refine ⟨_, exec_fence arg1 arg2 arg3 waits arg0 empty, ?_, fun free => ?_, fun fenced => ?_⟩
      · split <;> rfl
      · rw [if_neg (ne_true_of_eq_false free)]
        exact holds.of_endItem cur 0 0
      · rw [if_pos fenced]
        exact holds.of_beginItem cur i.d false
    case idle =>
      intro waits arg0 empty run still noReq
      have holds := (ringHolds_of_itemWaits waits).of_beginItem (curItem_of_itemWaits waits) i.d true
      exact ⟨_, exec_modeReq_idle arg1 arg2 arg3 waits arg0 empty run still noReq, holds.of_ports (modReq_ports _ _),
        (beginItem_recorded p n i s).of_ms (modWq_ms ..), rfl, Only.eq_of_wq_ms (modWq_nx (beginItem_nx (.refl _ _) rfl) rfl)⟩
    case change =>
      intro empty request items stage arg0 run noAck due
      obtain ⟨t, edge, dev, ⟨inhib, stopped⟩, taken, item⟩ := step_idleRequest empty request items stage arg0 arg1 run noAck due
      exact ⟨t, _, edge, dev, inhib, stopped, taken, item, stage, rfl, rfl⟩
    case code =>
      intro waits arg0 empty serves
      have dev : (beginItem p n i.d true s).dev = s.dev := (beginItem_only p n i.d true s).dev.resolve_left (by decide)
      have holds := (ringHolds_of_itemWaits waits).of_beginItem (curItem_of_itemWaits waits) i.d true
      refine ⟨_, exec_modeReq_ends arg1 arg2 arg3 waits arg0 empty serves, ?_, (beginItem_recorded p n i s).of_ms endItem_f_ms,
        endItem_f_dev.trans dev⟩
      rw [dev]
      exact holds.of_endItem (curItem_begun rfl) _ _
    case reset =>
      intro waits least most empty serves free
      have only := resetBegun_only s p n i.d
      have holds : s.ringHolds (s.resetBegun p n i.d) p n { i with stage := .begun, mark := s.tb.now.toNat } :=
        ((ringHolds_of_itemWaits waits).of_beginItem (curItem_of_itemWaits waits) i.d true).of_modItem (curItem_begun rfl) _
      refine ⟨_, _, exec_resetReq_holds arg1 arg2 arg3 waits least most empty serves free,
        (holds.of_wq (modHport_wq ..)).1, rfl, rfl, rfl,
        (beginItem_recorded p n i s).of_ms ((modHport_ms ..).trans modItem_f_ms), ?_, ?_,
        (modHport_dev ..).trans (only.dev.resolve_left (by decide))⟩
      · rw [hport_modHport]
        rfl
      · rw [hport_modHport_other, hport_of_hp (only.hp.resolve_left (by decide))]
    case snapshot =>
      intro waits arg0 out serves
      exact ⟨_, exec_snapshot_begins arg1 arg2 arg3 waits arg0 out serves,
        (ringHolds_of_itemWaits waits).of_beginItem (curItem_of_itemWaits waits) i.d false, rfl⟩
    case tally =>
      intro waits arg0 out whole
      refine ⟨_, exec_tallyRead_ends arg1 arg2 arg3 waits arg0 out whole,
        ((ringHolds_of_itemWaits waits).of_hostWrite ..).of_endItem (curItem_of_itemWaits waits) _ _, ?_, ?_, rfl⟩
      · rw [host_endItem, host_hostWrite]
      · rw [landing_endItem, landing_hostWrite]
  · intro s p n i arg1 arg2 arg3 waits aligned words inside out
    have holds := (ringHolds_of_itemWaits waits).of_hostWrite p i.d.hostAddr (s.userRead i.d)
    refine ⟨_, exec_storeRead_ends arg1 arg2 arg3 waits aligned words inside out,
      (holds.of_endItem (curItem_of_itemWaits waits) _ _).of_modItem (curItem_ended rfl) _, ?_, rfl⟩
    rw [State.modItem, host_modSq, host_endItem, host_hostWrite, State.userRead]
  · intro s p n i arg1 arg2 arg3 waits out
    have holds := (ringHolds_of_itemWaits waits).of_hostWrite p i.d.hostAddr ((s.logRead i.d).getD (List.replicate 32 0))
    have ended := holds.of_endItem (curItem_of_itemWaits waits) 0 (if (s.logRead i.d).isSome then 1 else 0)
    refine ⟨_, exec_logRead_one arg1 arg2 arg3 waits out, rfl, fun e found => ?_, fun missing => ?_⟩
    · have read : s.logRead i.d = some (logBytes s.survivor e) := congrArg (Option.map _) found
      rw [host_endItem, host_hostWrite]
      rw [read] at ended ⊢
      exact ⟨ended, rfl⟩
    · have read : s.logRead i.d = none := congrArg (Option.map _) missing
      rw [host_endItem, host_hostWrite]
      rw [read] at ended ⊢
      exact ⟨ended, rfl⟩
  · intro s p n u held due
    exact ⟨_, exec_hresetExpiry_due held due, by rw [hport_modHport], hport_modHport_other .., rfl⟩

end Sys2Proof.Machine
end

section
/-!
PROOFS about commands in general: that each answers a next state, and that none touches the queue of waiting commands. They
settle O3 and O4.
-/
namespace Sys2Proof.Machine

/-- Settles O3: each command's meaning answers a next state by its own equation. -/
theorem everyCommandCompletes : Obligations.EveryCommandCompletes := by
  intro c s
  cases c <;> exact ⟨_, rfl⟩

/-! ## What a host's write, in its place among the others, may change (R8) -/

theorem blockHostWrite_only {M : Nat} {p : Side} {b : Block} {o : Nat} {f : State → State} {w : HostWrite}
    (h : blockHostWrite p b o f = some w) (hM : M ||| 16384 = M) (hf : ∀ s, Only M s (f s)) (s : State) : Only M s (w.act s) := by
  cases h
  exact toBlock_nx (.refl _ _) hM (hf s)

theorem Only.weaken {m M : Nat} {s t : State} (h : Only m s t) (hs : M ||| m = M) : Only M s t := (Only.refl M s).step h hs

theorem hostWriteOf_only {i : Instr} {w : HostWrite} (h : hostWriteOf i = some w) (s : State) : Only 1048574 s (w.act s) := by
  cases i
  case pgReloadWrite => exact blockHostWrite_only h rfl (fun _ => (pgReloadWrite_only ..).weaken rfl) s
  case pgNow => exact blockHostWrite_only h rfl (fun _ => (pgNow_only ..).weaken rfl) s
  case pgEnable => exact blockHostWrite_only h rfl (fun _ => (pgEnable_only ..).weaken rfl) s
  case pgGo => exact blockHostWrite_only h rfl (fun _ => (pgGo_only ..).weaken rfl) s
  case cmpLoWrite => exact blockHostWrite_only h rfl (fun _ => (cmpLoWrite_only ..).weaken rfl) s
  case cmpHiWrite => exact blockHostWrite_only h rfl (fun _ => (cmpHiWrite_only ..).weaken rfl) s
  case cmpEnable => exact blockHostWrite_only h rfl (fun _ => (cmpEnable_only ..).weaken rfl) s
  case capCtlWrite => exact blockHostWrite_only h rfl (fun _ => (capCtlWrite_only ..).weaken rfl) s
  case firstValidClear => exact blockHostWrite_only h rfl (fun _ => (firstValidClear_only ..).weaken rfl) s
  case frQuietWrite => exact blockHostWrite_only h rfl (fun _ => (frQuietWrite_only ..).weaken rfl) s
  case peakClr => exact blockHostWrite_only h rfl (fun _ => (evClear_only ..).weaken rfl) s
  case malfClr => exact blockHostWrite_only h rfl (fun _ => (evClear_only ..).weaken rfl) s
  case pcrRstArm => exact blockHostWrite_only h rfl (fun _ => (pcrRstArm_only ..).weaken rfl) s
  case pcrRstReset => exact blockHostWrite_only h rfl (fun _ => (pcrRstReset_only ..).weaken rfl) s
  case cvwCtlWrite => exact blockHostWrite_only h rfl (fun _ => (cvwCtlWrite_only ..).weaken rfl) s
  case cvwValWrite => exact blockHostWrite_only h rfl (fun _ => (cvwWrite_only ..).weaken rfl) s
  case cvwFeed => exact blockHostWrite_only h rfl (fun _ => (cvwFeed_only ..).weaken rfl) s
  case cfgClaim => cases h; exact fromPort_nx (.refl _ _) ((cfgClaim_only ..).weaken rfl)
  case cfgRelease => cases h; exact fromPort_nx (.refl _ _) ((cfgRelease_only ..).weaken rfl)
  case registerWrite target v kind =>
    cases target with
    | bar0 p off =>
      rw [hostWriteOf_registerWrite_bar0] at h
      split at h
      · cases h
        exact fromPort_nx (.refl _ _) ((regWriteAct_only ..).weaken rfl)
      · cases h
    | config => cases h
    | debug => cases h
  all_goals cases h

theorem mem_of_foldl_eraseP {α β : Type} (p : β → α → Bool) (xs : List β) {l : List α} {e : α}
    (h : e ∈ xs.foldl (fun l x => l.eraseP (p x)) l) : e ∈ l := by
  induction xs generalizing l with
  | nil => exact h
  | cons x xs ih => exact List.mem_of_mem_eraseP (ih h)

/-- The writes that wait are writes commands make. -/
theorem hostWriteOf_of_waiting {s : State} {w : HostWrite} {e : Instr × HostWrite} (h : e ∈ s.waitingHp0 w) :
    hostWriteOf e.1 = some e.2 := by
  have listed := mem_of_foldl_eraseP (fun i (e : Instr × HostWrite) => e.1 == i) s.hp.hoisted h
  obtain ⟨i, -, found⟩ := List.mem_filterMap.mp listed
  split at found
  · next x write =>
    split at found
    · cases found
      exact write
    · cases found
  · cases found

/-- What each step of a fold keeps, the fold keeps. -/
theorem foldl_keeps {α : Type} {P : State → Prop} {g : State → α → State} {xs : List α} {s : State} (h : P s)
    (hg : ∀ t, ∀ x ∈ xs, P t → P (g t x)) : P (xs.foldl g s) := by
  induction xs generalizing s with
  | nil => exact h
  | cons x xs ih => exact ih (hg s x (.head _) h) (fun t y hy => hg t y (.tail _ hy))

/-- A host's write in its place is made of writes that commands make, and of notes of what went ahead. -/
theorem inOrder_keeps {P : State → Prop} (act : ∀ {i w s}, hostWriteOf i = some w → P s → P (w.act s))
    (note : ∀ {s : State} {f : Hp → List Instr}, P s → P (s.modHp (fun h => { h with hoisted := f h }))) {s : State} (i : Instr)
        (h : P s) : P (inOrder i s) := by
  unfold inOrder
  split
  · exact h
  · next w write =>
    split
    · split
      · exact note h
      · exact act write h
    · exact act write (foldl_keeps h fun _ _ mem held => note (act (hostWriteOf_of_waiting mem) held))

theorem inOrder_only (i : Instr) (s : State) : Only 1048574 s (inOrder i s) :=
  inOrder_keeps (P := Only 1048574 s) (fun write h => h.step (hostWriteOf_only write _) rfl) (fun h => modHp_nx h rfl) i (.refl _ _)

theorem registerWrite_only (target : Target) (v : BitVec 32) (kind : WriteKind) (s : State) :
    Only 1048574 s (registerWrite target v kind s) := by
  cases target with
  | bar0 => exact fromPort_nx (.refl _ _) ((regWriteAct_only ..).weaken rfl)
  | debug => exact (debugWrite_only ..).weaken rfl
  | config => exact fromPort_nx (.refl _ _) ((configWrite_only ..).weaken rfl)

theorem OnlyO.weaken {m M : Nat} {s : State} {o : Host.Outcome State Fault Refusal} (h : OnlyO m s o) (hs : M ||| m = M) :
    OnlyO M s o := by
  cases o
  case next => exact Only.weaken h hs
  all_goals trivial

/-- No command changes more than all parts of the state but its queue. -/
theorem exec_only (c : Instr) (s : State) : OnlyO 1048574 s (exec c s) := by
  cases c
  case vlUndervoltage => exact (execVlUndervoltage_only ..).weaken rfl
  case vlOvervoltage => exact (execVlOvervoltage_only ..).weaken rfl
  case vlRange => exact (execVlRange_only ..).weaken rfl
  case vlRestore => exact (execVlRestore_only ..).weaken rfl
  case vfLoss => exact (execVfLoss_only ..).weaken rfl
  case vfOver => exact (execVfOver_only ..).weaken rfl
  case vfRestore => exact (execVfRestore_only ..).weaken rfl
  case bakFail => exact (execBakFail_only ..).weaken rfl
  case bakEdgeTimeout => exact (execBakEdgeTimeout_only ..).weaken rfl
  case powerOnReset => exact (execPowerOnReset_only ..).weaken rfl
  case porRelease => exact (execPorRelease_only ..).weaken rfl
  case clockSteady => exact (execClockSteady_only ..).weaken rfl
  case identityRead => exact (execIdentityRead_only ..).weaken rfl
  case journalReplay => exact (execJournalReplay_only ..).weaken rfl
  case tableSelect => exact (execTableSelect_only ..).weaken rfl
  case tableLoad => exact (execTableLoad_only ..).weaken rfl
  case fieldStep => exact (execFieldStep_only ..).weaken rfl
  case startLimit => exact (execStartLimit_only ..).weaken rfl
  case fatalQuietExpiry => exact (execFatalQuietExpiry_only ..).weaken rfl
  case resetNAssert => exact (execResetNAssert_only ..).weaken rfl
  case resetNRelease => exact (execResetNRelease_only ..).weaken rfl
  case soscWdog d => exact (execSoscWdog_only d s).weaken rfl
  case clkMon => exact (execClkMon_only ..).weaken rfl
  case plkLock => exact (execPlkLock_only ..).weaken rfl
  case portClock => exact (execPortClock_only ..).weaken rfl
  case strClock => exact (execStrClock_only ..).weaken rfl
  case soscFail => exact (execSoscFail_only ..).weaken rfl
  case tbFreqWindow => exact (execTbFreqWindow_only ..).weaken rfl
  case tbCheck => exact (execTbCheck_only ..).weaken rfl
  case pcrRstArm => exact inOrder_only ..
  case pcrRstReset => exact inOrder_only ..
  case pcrRstArmTimeout => exact (execPcrRstArmTimeout_only ..).weaken rfl
  case sampleEdge => exact (execSampleEdge_only ..).weaken rfl
  case scanLaunch => exact (execScanLaunch_only ..).weaken rfl
  case rankComplete => exact (execRankComplete_only ..).weaken rfl
  case rankToken => exact (execRankToken_only ..).weaken rfl
  case completionToken => exact (execCompletionToken_only ..).weaken rfl
  case lagOverrun => exact (execLagOverrun_only ..).weaken rfl
  case scanClose => exact (execScanClose_only ..).weaken rfl
  case scanOver => exact (execScanOver_only ..).weaken rfl
  case cellExpiry => exact (execCellExpiry_only ..).weaken rfl
  case kerfSignature => exact (execKerfSignature_only ..).weaken rfl
  case kerfLate => exact (execKerfLate_only ..).weaken rfl
  case copyCheckPass => exact (execCopyCheckPass_only ..).weaken rfl
  case pgWrap => exact (execPgWrap_only ..).weaken rfl
  case pgReloadWrite => exact inOrder_only ..
  case pgNow => exact inOrder_only ..
  case pgEnable => exact inOrder_only ..
  case pgGo => exact inOrder_only ..
  case cmpLoWrite => exact inOrder_only ..
  case cmpHiWrite => exact inOrder_only ..
  case cmpEnable => exact inOrder_only ..
  case cmpMatch => exact (execCmpMatch_only ..).weaken rfl
  case captureEvent => exact (execCaptureEvent_only ..).weaken rfl
  case capLoRead => exact (execCapLoRead_only ..).weaken rfl
  case capCtlWrite => exact inOrder_only ..
  case inputChange => exact (execInputChange_only ..).weaken rfl
  case inputFilterExpiry => exact (execInputFilterExpiry_only ..).weaken rfl
  case ossdBridgeRelease => exact (execOssdBridgeRelease_only ..).weaken rfl
  case ossdGapExpiry => exact (execOssdGapExpiry_only ..).weaken rfl
  case tpSeenExpiry => exact (execTpSeenExpiry_only ..).weaken rfl
  case band => exact (execBand_only ..).weaken rfl
  case overvolt => exact (execOvervolt_only ..).weaken rfl
  case thrHandover => exact (execThrHandover_only ..).weaken rfl
  case thrHandoverTimeout => exact (execThrHandoverTimeout_only ..).weaken rfl
  case comparatorDisagree => exact (execComparatorDisagree_only ..).weaken rfl
  case pg00Release => exact (execPg00Release_only ..).weaken rfl
  case dipWindowOpen => exact (execDipWindowOpen_only ..).weaken rfl
  case dipOffEnd => exact (execDipOffEnd_only ..).weaken rfl
  case dipWindowEnd => exact (execDipWindowEnd_only ..).weaken rfl
  case srcOverload => exact (execSrcOverload_only ..).weaken rfl
  case srcRetry => exact (execSrcRetry_only ..).weaken rfl
  case measurementInstant => exact (execMeasurementInstant_only ..).weaken rfl
  case axisBufferSwap => exact (execAxisBufferSwap_only ..).weaken rfl
  case encoderEdge => exact (execEncoderEdge_only ..).weaken rfl
  case level => exact (execLevel_only ..).weaken rfl
  case adcClock => exact (execAdcClock_only ..).weaken rfl
  case calibrationPass => exact (execCalibrationPass_only ..).weaken rfl
  case calHandover => exact (execCalHandover_only ..).weaken rfl
  case calHandoverTimeout => exact (execCalHandoverTimeout_only ..).weaken rfl
  case bowStopState => exact (execBowStopState_only ..).weaken rfl
  case bowHoldTimeout => exact (execBowHoldTimeout_only ..).weaken rfl
  case switchClosed => exact (execSwitchClosed_only ..).weaken rfl
  case bowMismatch => exact (execBowMismatch_only ..).weaken rfl
  case darkTestDue => exact (execDarkTestDue_only ..).weaken rfl
  case darkWindowStart => exact (execDarkWindowStart_only ..).weaken rfl
  case darkWindowEnd => exact (execDarkWindowEnd_only ..).weaken rfl
  case darkForce => exact (execDarkForce_only ..).weaken rfl
  case staticCheckStart => exact (execStaticCheckStart_only ..).weaken rfl
  case overload => exact (execOverload_only ..).weaken rfl
  case short => exact (execShort_only ..).weaken rfl
  case openLoad => exact (execOpenLoad_only ..).weaken rfl
  case auxSum => exact (execAuxSum_only ..).weaken rfl
  case noOutput => exact (execNoOutput_only ..).weaken rfl
  case overtemp => exact (execOvertemp_only ..).weaken rfl
  case stormExpiry => exact (execStormExpiry_only ..).weaken rfl
  case quietExpiry => exact (execQuietExpiry_only ..).weaken rfl
  case firstValidClear => exact inOrder_only ..
  case frQuietWrite => exact inOrder_only ..
  case peakClr => exact inOrder_only ..
  case malfClr => exact inOrder_only ..
  case registerWrite => exact Only.ite (inOrder_only ..) (registerWrite_only ..)
  case portReset => exact (execPortReset_only ..).weaken rfl
  case linkDown => exact (execLinkDown_only ..).weaken rfl
  case linkReturn => exact (execLinkReturn_only ..).weaken rfl
  case powerStateWrite => exact (execPowerStateWrite_only ..).weaken rfl
  case isolatedAccess => exact (execIsolatedAccess_only ..).weaken rfl
  case cfgClaim => exact inOrder_only ..
  case cfgRelease => exact inOrder_only ..
  case msixUnmask => exact (execMsixUnmask_only ..).weaken rfl
  case sqTailDoorbell => exact (execSqTailDoorbell_only ..).weaken rfl
  case cqHeadDoorbell => exact (execCqHeadDoorbell_only ..).weaken rfl
  case descriptorFetch => exact (execDescriptorFetch_only ..).weaken rfl
  case descriptorArrival => exact (execDescriptorArrival_only ..).weaken rfl
  case nop => exact (execNop_only ..).weaken rfl
  case fence => exact (execFence_only ..).weaken rfl
  case tableStage => exact (execTableStage_only ..).weaken rfl
  case tableVerify => exact (execTableVerify_only ..).weaken rfl
  case tableCommit => exact (execTableCommit_only ..).weaken rfl
  case modeReq => exact (execModeReq_only ..).weaken rfl
  case resetReq => exact (execResetReq_only ..).weaken rfl
  case hresetExpiry => exact (execHresetExpiry_only ..).weaken rfl
  case snapshot => exact (execSnapshot_only ..).weaken rfl
  case tallyRead => exact (execTallyRead_only ..).weaken rfl
  case logRead => exact (execLogRead_only ..).weaken rfl
  case linkSend => exact (execLinkSend_only ..).weaken rfl
  case linkDetach => exact (execLinkDetach_only ..).weaken rfl
  case cvJob => exact (execCvJob_only ..).weaken rfl
  case fullTest => exact (execFullTest_only ..).weaken rfl
  case lcSet => exact (execLcSet_only ..).weaken rfl
  case storeWrite => exact (execStoreWrite_only ..).weaken rfl
  case storeRead => exact (execStoreRead_only ..).weaken rfl
  case itemComplete => exact (execItemComplete_only ..).weaken rfl
  case completionPost => exact (execCompletionPost_only ..).weaken rfl
  case postedTimer => exact (execPostedTimer_only ..).weaken rfl
  case cqCoalesceTimer => exact (execCqCoalesceTimer_only ..).weaken rfl
  case sqEnable => exact (execSqEnable_only ..).weaken rfl
  case sqDisable => exact (execSqDisable_only ..).weaken rfl
  case sqErrClear => exact (execSqErrClear_only ..).weaken rfl
  case cqEnable => exact (execCqEnable_only ..).weaken rfl
  case entryWrite => exact (execEntryWrite_only ..).weaken rfl
  case flipVerdict => exact (execFlipVerdict_only ..).weaken rfl
  case landingWrite => exact (execLandingWrite_only ..).weaken rfl
  case remainderRebuild => exact (execRemainderRebuild_only ..).weaken rfl
  case ackTimeout => exact (execAckTimeout_only ..).weaken rfl
  case ackTap => exact (execAckTap_only ..).weaken rfl
  case linkSignalPresent => exact (execLinkSignalPresent_only ..).weaken rfl
  case linkSignalLoss => exact (execLinkSignalLoss_only ..).weaken rfl
  case linkAligned => exact (execLinkAligned_only ..).weaken rfl
  case linkCycle => exact (execLinkCycle_only ..).weaken rfl
  case frameReceived => exact (execFrameReceived_only ..).weaken rfl
  case tuneTimeout => exact (execTuneTimeout_only ..).weaken rfl
  case linkWatchdog => exact (execLinkWatchdog_only ..).weaken rfl
  case lostExpiry => exact (execLostExpiry_only ..).weaken rfl
  case detachWindowExpiry => exact (execDetachWindowExpiry_only ..).weaken rfl
  case cvwFeed => exact inOrder_only ..
  case cvwCtlWrite => exact inOrder_only ..
  case cvwValWrite => exact inOrder_only ..
  case scrubStep => exact (execScrubStep_only ..).weaken rfl
  case readScrub => exact (execReadScrub_only ..).weaken rfl
  case storeTimeout => exact (execStoreTimeout_only ..).weaken rfl
  case resyncComplete => exact (execResyncComplete_only ..).weaken rfl
  case logEntryWrite => exact (execLogEntryWrite_only ..).weaken rfl
  case tallyPublish => exact (execTallyPublish_only ..).weaken rfl
  case wearCheckpoint => exact (execWearCheckpoint_only ..).weaken rfl
  case correctedSummary => exact (execCorrectedSummary_only ..).weaken rfl
  case cruiseSliceStart => exact (execCruiseSliceStart_only ..).weaken rfl
  case cruiseSliceEnd => exact (execCruiseSliceEnd_only ..).weaken rfl
  case cruiseLate => exact (execCruiseLate_only ..).weaken rfl
  case cruiseStall => exact (execCruiseStall_only ..).weaken rfl
  case debugHalt => exact (execDebugHalt_only ..).weaken rfl
  case debugResume => exact (execDebugResume_only ..).weaken rfl
  case debugStep => exact (execDebugStep_only ..).weaken rfl
  case debugSysreset => exact (execDebugSysreset_only ..).weaken rfl
  case dbgOpdataWrite => exact (execDbgOpdataWrite_only ..).weaken rfl
  case extestLoad => exact (execExtestLoad_only ..).weaken rfl
  case extestExit => exact (execExtestExit_only ..).weaken rfl
  case lowHalfRead => exact (execLowHalfRead_only ..).weaken rfl
  case linkLeavesL0 => exact (execLinkLeavesL0_only ..).weaken rfl
  case residual => exact (execResidual_only ..).weaken rfl
  case overtempClear => exact (execOvertempClear_only ..).weaken rfl
  case levelRestore => exact (execLevelRestore_only ..).weaken rfl
  case storeResyncStart => exact (execStoreResyncStart_only ..).weaken rfl
  case calibrationWrite => exact (execCalibrationWrite_only ..).weaken rfl

/-- Settles O4: what any command may change leaves the queue out. -/
theorem noCommandTouchesTheQueue : Obligations.NoCommandTouchesTheQueue := by
  intro c s t h
  have only := exec_only c s
  rw [h] at only
  exact only.pending.resolve_left (by decide)

end Sys2Proof.Machine
end

section
/-!
PROOFS about a step and the state after reset: a step on a waiting command, the end of a tick with nothing due, and what
holds in the reset state. They settle O1, O2, O6 and O8.
-/
namespace Sys2Proof.Machine

/-- Settles O1: a step is defined by the queue's front, and no word of the table spells a command. -/
theorem stepRunsTheFrontCommand : Obligations.StepRunsTheFrontCommand := ⟨fun _ _ _ => rfl, fun _ _ _ => rfl⟩

theorem tick_keepsQueue (s : State) : Only 1048574 s (tick s) := by
  have released : Only 1048574 s (marchRelease .b (marchRelease .a (applyModeReq s))) :=
    marchRelease_nx (marchRelease_nx (applyModeReq_nx (.refl _ _) rfl) rfl) rfl
  have noted : Only 1048574 s (keepHlink (((marchRelease .b (marchRelease .a (applyModeReq s))).modPcr
      (fun p => { p with fresh := false })).modHp (fun h => { h with hoisted := [] }))) :=
    (modHp_nx (modPcr_nx released rfl) rfl).step (keepHlink_only _) rfl
  have edge (t : State) : Only 1048574 t (holdAfterHalt (takePosts .b (takePosts .a (advanceTime t)))) := by
    have posts : Only 1048574 t (takePosts .b (takePosts .a (advanceTime t))) :=
      takePosts_nx (takePosts_nx (modTb_nx (.refl _ _) rfl) rfl) rfl
    exact .ite (enterHold_nx posts rfl) posts
  exact assertDue_nx (.ite (noted.step (edge _) rfl) noted) rfl

/-- The state with the notes that the end of every tick takes. -/
def State.noted (s : State) : State :=
  keepHlink ((s.modPcr (fun p => { p with fresh := false })).modHp (fun h => { h with hoisted := [] }))

/-- The end of a tick that finds no request, no access held back, no HOLD to follow and no commands of a close. -/
theorem tick_edge {s : State} (mode : s.wq.modeReq = none) (held : ∀ p, (s.wport p).held = []) (hold : s.st.dbg.holdNext = false)
    (posts : s.tb.posts = ⟨none, none⟩) : tick s = assertDue (if s.pcr.clk.tb = true then s.nextEdge else s.noted) := by
  have request : applyModeReq s = s := by simp only [applyModeReq, mode]
  have a : takePosts .a s.nextEdge = s.nextEdge := takePosts_none (congrArg Two.a posts)
  have b : takePosts .b s.nextEdge = s.nextEdge := takePosts_none (congrArg Two.b posts)
  have stays : holdAfterHalt s.nextEdge = s.nextEdge := if_neg (ne_true_of_eq_false hold)
  unfold tick
  dsimp only
  rw [request, marchRelease_nil (held .a), marchRelease_nil (held .b)]
  show assertDue (if s.pcr.clk.tb = true then holdAfterHalt (takePosts .b (takePosts .a s.nextEdge)) else s.noted) = _
  rw [a, b, stays]

/-- A tick that ends with nothing due takes its notes, and once TB is released its counts go on. -/
theorem tick_nothingDue {s : State} (due : s.nothingDue) : tick s = if s.pcr.clk.tb = true then s.nextEdge else s.noted := by
  obtain ⟨mode, held, rst, hold, posts⟩ := due
  rw [tick_edge mode held hold posts]
  split
  · exact assertDue_none rst
  · exact assertDue_none rst

/-- Settles O2: every part of the end of a tick leaves the queue, and with nothing due only its notes and counts remain. -/
theorem stepOnAnEmptyQueueEndsATick : Obligations.StepOnAnEmptyQueueEndsATick := by
  have edge {s : State} (empty : s.pending = []) : step s = .next (tick s) := by simp only [step, empty]
  refine ⟨fun s empty => ⟨_, edge empty, ?_⟩, fun s empty due => ⟨_, edge empty, ?_⟩⟩
  · exact ((tick_keepsQueue s).pending.resolve_left (by decide)).trans empty
  · rw [tick_nothingDue due]
    by_cases clk : s.pcr.clk.tb = true
    · rw [if_pos clk]
      refine ⟨rfl, fun p => by cases p <;> rfl, rfl, rfl, fun _ => ⟨rfl, rfl⟩, fun off => ?_⟩
      rw [clk] at off
      cases off
    · rw [if_neg clk]
      exact ⟨rfl, fun p => by cases p <;> rfl, rfl, rfl, fun on => absurd on clk, fun _ => rfl⟩

/-- Settles O6: each memory of the reset state is empty or zero at every address. -/
theorem resetMemoriesAreCanonical : Obligations.ResetMemoriesAreCanonical :=
  ⟨fun c => by rw [reset_core]; exact ⟨rfl, rfl, rfl⟩, fun i => by cases i <;> exact ⟨rfl, rfl, rfl⟩,
   fun p => by cases p <;> exact ⟨rfl, rfl, rfl, rfl, rfl⟩⟩

theorem reset_out (k : Fin 144) : (State.reset.os.out[k] : Output) = Output.reset := Vector.getElem_replicate ..

/-- Settles O8: the reset state inhibits both dies, and each output of it is an output in reset. -/
theorem resetDriversAreInhibited : Obligations.ResetDriversAreInhibited := by
  refine ⟨fun _ => rfl, fun k d => ?_⟩
  rw [reset_out]
  cases d <;> rfl

end Sys2Proof.Machine
end

section
/-!
PROOFS about what every step keeps: the memories in canonical form and the drivers inhibited outside RUN. This part says what
upholding them means and what the accessors of the state uphold. The parts that follow go through the model file by file; they
settle O5 and O7.
-/
namespace Sys2Proof.Machine

/-- The host images of a port in canonical form. -/
def HpPort.memOk (h : HpPort) : Prop := Memory.wf 0 h.image = true ∧ Memory.wf 0 h.imagePrev = true
/-- A port's landing SRAM, remainders and written host memory in canonical form. -/
def WqPort.memOk (w : WqPort) : Prop := Memory.wf 0 w.landing = true ∧ Memory.wf 0 w.rem = true ∧ Memory.wf 0 w.host = true
/-- The memories of both cores in canonical form. -/
def Ev.memOk (e : Ev) : Prop := ∀ c, (e.core.get c).memOk c
/-- The memories of both stores in canonical form. -/
def Ms.memOk (m : Ms) : Prop := ∀ i, (m.store.get i).memOk
/-- What both ports' rings and windows hold, in canonical form. -/
def Wq.memOk (w : Wq) : Prop := ∀ p, (w.port.get p).memOk
/-- The images of both ports in canonical form. -/
def Hp.memOk (h : Hp) : Prop := ∀ p, (h.port.get p).memOk

/-- What holds of the memories and the drivers of one state holds of the other's. -/
structure Upholds (s t : State) : Prop where
  cores : s.ev.memOk → t.ev.memOk
  stores : s.ms.memOk → t.ms.memOk
  rings : s.wq.memOk → t.wq.memOk
  images : s.hp.memOk → t.hp.memOk
  drivers : s.driversSafe → t.driversSafe

@[mono] theorem Upholds.refl (s : State) : Upholds s s := ⟨id, id, id, id, id⟩

theorem Upholds.trans {s t u : State} (h : Upholds s t) (k : Upholds t u) : Upholds s u :=
  ⟨k.cores ∘ h.cores, k.stores ∘ h.stores, k.rings ∘ h.rings, k.images ∘ h.images, k.drivers ∘ h.drivers⟩

/-- What leaves the device state, the cores, the outputs, the ports, the rings and the stores alone upholds. -/
theorem Upholds.frame {m : Nat} {s t u : State} (h : Upholds s t) (o : Only m t u) (hm : m &&& 320002 = 0) : Upholds s u := by
  have free {i : Nat} (hi : (320002).testBit i = true) : ¬ m.testBit i = true := by
    intro hx
    have := congrArg (fun n => n.testBit i) hm
    simp [Nat.testBit_and, hx, hi] at this
  have dev := o.dev.resolve_left (free (by decide))
  have ev := o.ev.resolve_left (free (by decide))
  have os := o.os.resolve_left (free (by decide))
  have hp := o.hp.resolve_left (free (by decide))
  have wq := o.wq.resolve_left (free (by decide))
  have ms := o.ms.resolve_left (free (by decide))
  refine h.trans ⟨fun k => ?_, fun k => ?_, fun k => ?_, fun k => ?_, fun k d => ?_⟩
  · rwa [ev]
  · rwa [ms]
  · rwa [wq]
  · rwa [hp]
  · rw [os]
    exact k (dev ▸ d)

theorem Two.upd_forall {α : Type} {P : Side → α → Prop} {x : Two α} {p : Side} {f : α → α} (h : ∀ q, P q (x.get q))
    (hf : P p (x.get p) → P p (f (x.get p))) (q : Side) : P q ((x.upd p f).get q) := by
  by_cases e : q = p
  · subst e
    rw [Two.get_upd]
    exact hf (h q)
  · rw [Two.get_upd_ne _ _ e]
    exact h q

theorem Two.map_forall {α : Type} {P : Side → α → Prop} {x : Two α} {f : α → α} (h : ∀ q, P q (x.get q))
    (hf : ∀ q y, P q y → P q (f y)) (q : Side) : P q ((x.map f).get q) := by
  rw [Two.get_map]
  exact hf q _ (h q)

variable {s t : State}

@[mono] theorem modEv_upholds {f : Ev → Ev} (h : Upholds s t) (hf : ∀ x : Ev, x.memOk → (f x).memOk) : Upholds s (t.modEv f) :=
  h.trans ⟨hf _, id, id, id, id⟩
@[mono] theorem modMs_upholds {f : Ms → Ms} (h : Upholds s t) (hf : ∀ x : Ms, x.memOk → (f x).memOk) : Upholds s (t.modMs f) :=
  h.trans ⟨id, hf _, id, id, id⟩
@[mono] theorem modWq_upholds {f : Wq → Wq} (h : Upholds s t) (hf : ∀ x : Wq, x.memOk → (f x).memOk) : Upholds s (t.modWq f) :=
  h.trans ⟨id, id, hf _, id, id⟩
@[mono] theorem modHp_upholds {f : Hp → Hp} (h : Upholds s t) (hf : ∀ x : Hp, x.memOk → (f x).memOk) : Upholds s (t.modHp f) :=
  h.trans ⟨id, id, id, hf _, id⟩
@[mono] theorem modOs_upholds {f : Os → Os} (h : Upholds s t) (hf : ∀ o : Os, o.inhib = ⟨true, true⟩ → (f o).inhib = ⟨true, true⟩) :
    Upholds s (t.modOs f) :=
  h.trans ⟨id, id, id, id, fun safe out => hf _ (safe out)⟩
@[mono] theorem modCore_upholds {c : Side} {f : CoreSt → CoreSt} (h : Upholds s t) (hf : ∀ x : CoreSt, x.memOk c → (f x).memOk c) :
    Upholds s (t.modCore c f) :=
  h.trans ⟨fun ok => Two.upd_forall (P := fun c x => CoreSt.memOk c x) ok (hf _), id, id, id, id⟩
@[mono] theorem modStore_upholds {i : Side} {f : Store → Store} (h : Upholds s t) (hf : ∀ x : Store, x.memOk → (f x).memOk) :
    Upholds s (t.modStore i f) :=
  h.trans ⟨id, fun ok => Two.upd_forall (P := fun _ x => Store.memOk x) ok (hf _), id, id, id⟩
@[mono] theorem modWport_upholds {p : Side} {f : WqPort → WqPort} (h : Upholds s t) (hf : ∀ x : WqPort, x.memOk → (f x).memOk) :
    Upholds s (t.modWport p f) :=
  h.trans ⟨id, id, fun ok => Two.upd_forall (P := fun _ x => WqPort.memOk x) ok (hf _), id, id⟩
@[mono] theorem modHport_upholds {p : Side} {f : HpPort → HpPort} (h : Upholds s t) (hf : ∀ x : HpPort, x.memOk → (f x).memOk) :
    Upholds s (t.modHport p f) :=
  h.trans ⟨id, id, id, fun ok => Two.upd_forall (P := fun _ x => HpPort.memOk x) ok (hf _), id⟩
@[mono] theorem modSq_upholds {p : Side} {n : Fin 8} {f : Sq → Sq} (h : Upholds s t) : Upholds s (t.modSq p n f) :=
  modWport_upholds h fun _ => id
@[mono] theorem modCq_upholds {p : Side} {n : Fin 8} {f : Cq → Cq} (h : Upholds s t) : Upholds s (t.modCq p n f) :=
  modWport_upholds h fun _ => id
@[mono] theorem modItem_upholds {p : Side} {n : Fin 8} {f : Item → Item} (h : Upholds s t) : Upholds s (t.modItem p n f) :=
  modSq_upholds h
@[mono] theorem modOut_upholds {k : Fin 144} {f : Output → Output} (h : Upholds s t) : Upholds s (t.modOut k f) :=
  h.trans ⟨id, id, id, id, id⟩

@[mono] theorem ite_upholds {u : State} {c : Prop} [Decidable c] (ht : Upholds s t) (hu : Upholds s u) :
    Upholds s (if c then t else u) := by
  split <;> assumption
theorem foldl_upholds {α : Type} {g : State → α → State} {xs : List α} (h : Upholds s t)
    (hg : ∀ u x, Upholds s u → Upholds s (g u x)) :
    Upholds s (xs.foldl g t) := foldl_keeps h (fun u x _ => hg u x)
@[mono] theorem fromPort_upholds {p : Side} {f : State → State} (h : Upholds s t) (hf : Upholds s (f t)) :
    Upholds s (fromPort p f t) := ite_upholds h hf
@[mono] theorem takeFree_upholds (h : Upholds s t) : Upholds s t.takeFree.2 := h.frame (takeFree_only _) rfl
end Sys2Proof.Machine
end

section
/-!
PROOFS about what every step keeps: the shared operations on the records, rings and queues, HOLD, and the recording of faults.
-/
namespace Sys2Proof.Machine
-- The proofs below read the tags of the lemmas above them: they are elaborated in order.
set_option Elab.async false
variable {s t : State}

@[mono] theorem modRec_upholds (b : Block) (f : FaultRecord → FaultRecord) (h : Upholds s t) : Upholds s (t.modRec b f) :=
  h.frame (modRec_only ..) rfl

@[mono] theorem modSc_upholds (f : Sc → Sc) (h : Upholds s t) : Upholds s (t.modSc f) :=
  h.frame (modSc_only ..) rfl

@[mono] theorem modPcr_upholds (f : Pcr → Pcr) (h : Upholds s t) : Upholds s (t.modPcr f) :=
  h.frame (modPcr_only ..) rfl

@[mono] theorem modTb_upholds (f : Tb → Tb) (h : Upholds s t) : Upholds s (t.modTb f) :=
  h.frame (modTb_only ..) rfl

@[mono] theorem modSt_upholds (f : St → St) (h : Upholds s t) : Upholds s (t.modSt f) :=
  h.frame (modSt_only ..) rfl

@[mono] theorem modDbg_upholds (f : Dbg → Dbg) (h : Upholds s t) : Upholds s (t.modDbg f) :=
  h.frame (modDbg_only ..) rfl

@[mono] theorem modIb_upholds (f : Ib → Ib) (h : Upholds s t) : Upholds s (t.modIb f) :=
  h.frame (modIb_only ..) rfl

@[mono] theorem modPs_upholds (f : Ps → Ps) (h : Upholds s t) : Upholds s (t.modPs f) :=
  h.frame (modPs_only ..) rfl

@[mono] theorem modAf_upholds (f : Af → Af) (h : Upholds s t) : Upholds s (t.modAf f) :=
  h.frame (modAf_only ..) rfl

@[mono] theorem modPl_upholds (f : Pl → Pl) (h : Upholds s t) : Upholds s (t.modPl f) :=
  h.frame (modPl_only ..) rfl

@[mono] theorem modCv_upholds (f : Cv → Cv) (h : Upholds s t) : Upholds s (t.modCv f) :=
  h.frame (modCv_only ..) rfl

@[mono] theorem modPlPort_upholds (k : Fin 4) (f : PlPort → PlPort) (h : Upholds s t) : Upholds s (t.modPlPort k f) :=
  h.frame (modPlPort_only ..) rfl

@[mono] theorem modInput_upholds (k : Fin 128) (f : Input → Input) (h : Upholds s t) : Upholds s (t.modInput k f) :=
  h.frame (modInput_only ..) rfl

@[mono] theorem modSource_upholds (k : Fin 32) (f : Source → Source) (h : Upholds s t) : Upholds s (t.modSource k f) :=
  h.frame (modSource_only ..) rfl

@[mono] theorem modAxis_upholds (k : Fin 64) (f : Axis → Axis) (h : Upholds s t) : Upholds s (t.modAxis k f) :=
  h.frame (modAxis_only ..) rfl

@[mono] theorem modPath_upholds (a : Fin 64) (p : Fin 2) (f : Path → Path) (h : Upholds s t) : Upholds s (t.modPath a p f) :=
  h.frame (modPath_only ..) rfl

@[mono] theorem modChan_upholds (k : Fin 4) (f : Cvw → Cvw) (h : Upholds s t) : Upholds s (t.modChan k f) :=
  h.frame (modChan_only ..) rfl

@[mono] theorem modCmp_upholds (k : Fin 32) (f : Cmp → Cmp) (h : Upholds s t) : Upholds s (t.modCmp k f) :=
  h.frame (modCmp_only ..) rfl

@[mono] theorem modCap_upholds (k : Fin 16) (f : Cap → Cap) (h : Upholds s t) : Upholds s (t.modCap k f) :=
  h.frame (modCap_only ..) rfl

@[mono] theorem sendVector_upholds (p : Side) (v : Fin 32) (h : Upholds s t) : Upholds s (sendVector p v t) := by
  refine modHport_upholds h fun x ok => ?_
  dsimp only
  split <;> exact ok

@[mono] theorem raiseFaultIrq_upholds (b : Block) (h : Upholds s t) : Upholds s (raiseFaultIrq b t) := by
  unfold raiseFaultIrq
  exact foldl_upholds h fun u x hu => by mono

@[mono] theorem raiseEventIrq_upholds (b : Block) (h : Upholds s t) : Upholds s (raiseEventIrq b t) := by
  unfold raiseEventIrq
  exact foldl_upholds h fun u x hu => by mono

@[mono] theorem recordPlain_upholds (f : FaultRep) (h : Upholds s t) : Upholds s (recordPlain f t) := by
  unfold recordPlain
  mono

@[mono] theorem countRefused_upholds (p : Side) (h : Upholds s t) : Upholds s (countRefused p t) := by
  unfold countRefused
  mono
  exact fun _ => id

@[mono] theorem latchHigh_upholds (p : Side) (off : Nat) (v : Word) (h : Upholds s t) : Upholds s (latchHigh p off v t) := by
  unfold latchHigh
  mono
  exact fun _ => id

@[mono] theorem readData_upholds (p : Side) (v : Word) (h : Upholds s t) : Upholds s (readData p v t) := by
  unfold readData
  mono
  exact fun _ => id

@[mono] theorem logPush_upholds (e : LogEntry) (h : Upholds s t) : Upholds s (logPush e t) := by
  unfold logPush
  dsimp only
  mono
  all_goals exact fun _ => id

@[mono] theorem logEvent_upholds (kind block data16 data32 : Nat) (h : Upholds s t) :
    Upholds s (logEvent kind block data16 data32 t) := by
  unfold logEvent
  mono

@[mono] theorem logFault_upholds (kind : Nat) (e : Slot) (b : Block) (h : Upholds s t) : Upholds s (logFault kind e b t) := by
  unfold logFault
  mono

@[mono] theorem modBackup_upholds (f : BackupHalf → BackupHalf) (h : Upholds s t) : Upholds s (modBackup f t) :=
  h.frame (modBackup_only ..) rfl

@[mono] theorem backupState_upholds (new : DevState) (h : Upholds s t) : Upholds s (backupState new t) :=
  h.frame (backupState_only ..) rfl

@[mono] theorem countFailedStart_upholds (h : Upholds s t) : Upholds s (countFailedStart t) :=
  h.frame (countFailedStart_only ..) rfl

@[mono] theorem endItem_upholds (p : Side) (n : Fin 8) (code : Nat) (result : Word) (h : Upholds s t) :
    Upholds s (endItem p n code result t) := by
  unfold endItem
  mono

@[mono] theorem abortBegun_upholds (f : Nat → Bool) (code : Nat) (h : Upholds s t) : Upholds s (abortBegun f code t) := by
  unfold abortBegun
  repeat' first | mono | split | with_reducible refine foldl_upholds ?_ fun u x hu => ?_

@[mono] theorem abortSends_upholds (n : Fin 4) (code : Nat) (h : Upholds s t) : Upholds s (abortSends n code t) := by
  unfold abortSends
  dsimp only
  repeat' first | mono | split | with_reducible refine foldl_upholds ?_ fun u x hu => ?_

@[mono] theorem inhibitSide_upholds (d : Side) (h : Upholds s t) : Upholds s (inhibitSide d t) := by
  unfold inhibitSide
  refine modOs_upholds h fun o ok => ?_
  rw [ok]
  cases d <;> rfl

@[mono] theorem inhibitBoth_upholds (h : Upholds s t) : Upholds s (inhibitBoth t) := by
  unfold inhibitBoth
  mono

@[mono] theorem markRearm_upholds (scope item : Nat) (h : Upholds s t) : Upholds s (markRearm scope item t) := by
  unfold markRearm
  mono
  exact fun _ => id

@[mono] theorem stopCores_upholds (h : Upholds s t) : Upholds s (stopCores t) :=
  h.trans ⟨fun ok c => by
    show ((stopCores t).core c).memOk c
    rw [core_stopCores]
    exact ok c, id, id, id, id⟩

@[mono] theorem idleCells_upholds (h : Upholds s t) : Upholds s (idleCells t) :=
  h.frame (idleCells_only ..) rfl

@[mono] theorem settleInput_upholds (i : Fin 128) (h : Upholds s t) : Upholds s (settleInput i t) :=
  h.frame (settleInput_only ..) rfl

@[mono] theorem sourcesOff_upholds (h : Upholds s t) : Upholds s (sourcesOff t) :=
  h.frame (sourcesOff_only ..) rfl

@[mono] theorem startTerminals_upholds (h : Upholds s t) : Upholds s (startTerminals t) := by
  unfold startTerminals
  mono
  exact fun _ => id

@[mono] theorem thrRejoin_upholds (h : Upholds s t) : Upholds s (thrRejoin t) :=
  h.frame (thrRejoin_only ..) rfl

@[mono] theorem stopModulePgs_upholds (h : Upholds s t) : Upholds s (stopModulePgs t) :=
  h.frame (stopModulePgs_only ..) rfl

@[mono] theorem tbEvent_upholds (src : Nat) (u : Tick) (h : Upholds s t) : Upholds s (tbEvent src u t) :=
  h.frame (tbEvent_only ..) rfl

@[mono] theorem keepImage_upholds (n : Fin 4) (h : Upholds s t) : Upholds s (keepImage n t) :=
  h.frame (keepImage_only ..) rfl

@[mono] theorem plState_upholds (n : Fin 4) (st : PlState) (h : Upholds s t) : Upholds s (plState n st t) := by
  unfold plState
  mono

@[mono] theorem plOff_upholds (n : Fin 4) (h : Upholds s t) : Upholds s (plOff n t) := by
  unfold plOff
  mono

@[mono] theorem plAllOff_upholds (h : Upholds s t) : Upholds s (plAllOff t) := by
  unfold plAllOff
  exact foldl_upholds h fun u x hu => by mono

@[mono] theorem katRelease_upholds (h : Upholds s t) : Upholds s (katRelease t) :=
  h.frame (katRelease_only ..) rfl

@[mono] theorem cruiseStop_upholds (h : Upholds s t) : Upholds s (cruiseStop t) :=
  h.frame (cruiseStop_only ..) rfl

@[mono] theorem cruiseInterrupt_upholds (h : Upholds s t) : Upholds s (cruiseInterrupt t) :=
  h.frame (cruiseInterrupt_only ..) rfl

@[mono] theorem ackRefuse_upholds (h : Upholds s t) : Upholds s (ackRefuse t) := by
  unfold ackRefuse
  split <;> mono

@[mono] theorem ackDrop_upholds (h : Upholds s t) : Upholds s (ackDrop t) :=
  h.frame (ackDrop_only ..) rfl

@[mono] theorem disown_upholds (h : Upholds s t) : Upholds s (disown t) := by
  unfold disown
  mono
  exact fun _ => id

@[mono] theorem modeDrop_upholds (h : Upholds s t) : Upholds s (modeDrop t) := by
  unfold modeDrop
  repeat' first | mono | split
  exact fun _ => id

@[mono] theorem ackCheck_upholds (h : Upholds s t) : Upholds s (ackCheck t) := by
  unfold ackCheck
  split <;> mono

/-- A change that keeps every memory, and after which the drivers are inhibited or the module is in RUN. -/
theorem Upholds.restrain {u : State} (h : Upholds s t) (ev : u.ev = t.ev) (ms : u.ms = t.ms) (wq : u.wq = t.wq) (hp : u.hp = t.hp)
    (safe : u.driversSafe) : Upholds s u :=
  h.trans ⟨fun ok => by rwa [ev], fun ok => by rwa [ms], fun ok => by rwa [wq], fun ok => by rwa [hp], fun _ => safe⟩

/-- A change of the device state as it begins, with the drivers inhibited for every state but RUN. -/
def State.changed (new : DevState) (s : State) : State := if new = .run then s.changing new else inhibitBoth (s.changing new)

theorem changed_upholds (new : DevState) (h : Upholds s t) : Upholds s (t.changed new) := by
  have logged : Upholds s (logEvent 4 Block.st.id t.dev.code new.code (modeDrop t)) := by mono
  unfold State.changed State.changing
  split
  · next run => exact logged.restrain (by simp) (by simp) (by simp) (by simp) fun out => absurd (by simp [run]) out
  · exact logged.restrain (by simp) (by simp) (by simp) (by simp) fun _ => rfl

@[mono] theorem setDev_upholds (new : DevState) (h : Upholds s t) : Upholds s (setDev new t) := by
  have begun := changed_upholds new h
  refine ackCheck_upholds ?_
  cases new
  case reset => exact stopModulePgs_upholds (plAllOff_upholds (sourcesOff_upholds (cruiseStop_upholds begun)))
  case start =>
    exact stopModulePgs_upholds (idleCells_upholds (startTerminals_upholds (cruiseStop_upholds (modPl_upholds _ begun))))
  case idle => exact ite_upholds (modSt_upholds _ (modSc_upholds _ begun)) (modSc_upholds _ begun)
  case run => exact ite_upholds (modSt_upholds _ begun) begun
  case hold =>
    exact plAllOff_upholds (sourcesOff_upholds (idleCells_upholds (stopCores_upholds (cruiseStop_upholds begun))))
  case recovery =>
    have off : Upholds s (plAllOff (sourcesOff (idleCells (stopCores (cruiseStop (t.changed .recovery)))))) := by mono
    exact modHp_upholds (modHport_upholds off fun _ => id) fun _ => id
  case halt => exact plAllOff_upholds begun

@[mono] theorem enterHold_upholds (h : Upholds s t) : Upholds s (enterHold t) := by
  unfold enterHold
  extract_lets dropped counted aborted unawaited untested unsent unheld done resumed
  have unsent : Upholds s unsent :=
    foldl_upholds (modSt_upholds _ (ackDrop_upholds (abortBegun_upholds _ _ (ite_upholds
      (countFailedStart_upholds (modeDrop_upholds h)) (modeDrop_upholds h))))) fun _ _ hu => modPlPort_upholds _ _ hu
  exact setDev_upholds _ (modDbg_upholds _ (modPcr_upholds _ (modHp_upholds unsent fun _ ok => Two.map_forall ok fun _ _ => id)))

@[mono] theorem fatalAction_upholds (h : Upholds s t) : Upholds s (fatalAction t) := by
  unfold fatalAction
  extract_lets inhibited resumed
  have inhibited : Upholds s inhibited := inhibitBoth_upholds (modPcr_upholds _ h)
  split
  case h_4 =>
    refine setDev_upholds _ (modDbg_upholds _ (modEv_upholds inhibited fun _ ok => Two.map_forall ok fun _ _ core => ?_))
    split <;> exact core
  all_goals mono

@[mono] theorem scopeAborts_upholds (scope item : Nat) (h : Upholds s t) : Upholds s (scopeAborts scope item t) := by
  unfold scopeAborts
  mono

@[mono] theorem recordCore_upholds (f : FaultRep) (h : Upholds s t) : Upholds s (recordCore f t) := by
  unfold recordCore
  dsimp only
  repeat' first | mono | split

@[mono] theorem recordCorrected_upholds (f : FaultRep) (h : Upholds s t) : Upholds s (recordCorrected f t) := by
  unfold recordCorrected
  split <;> mono

@[mono] theorem recordAccess_upholds (b : Block) (p : Side) (off : Nat) (h : Upholds s t) : Upholds s (recordAccess b p off t) := by
  unfold recordAccess
  mono

@[mono] theorem recordResource_upholds (b : Block) (q : Fin 4) (h : Upholds s t) : Upholds s (recordResource b q t) := by
  unfold recordResource
  mono

@[mono] theorem turnBad_upholds (r : Resource) (code : Nat) (h : Upholds s t) : Upholds s (turnBad r code t) := by
  unfold turnBad
  split
  · exact h
  · extract_lets listed marked
    have marked : Upholds s marked := h.trans ⟨id, id, id, id, id⟩
    split
    case h_3 => exact foldl_upholds marked fun _ _ hu => recordResource_upholds _ _ hu
    case h_1 => exact foldl_upholds marked fun _ _ hu => recordResource_upholds _ _ hu
    case h_2 => exact foldl_upholds marked fun _ _ hu => recordResource_upholds _ _ hu
    all_goals exact marked

@[mono] theorem recordFault_upholds (f : FaultRep) (h : Upholds s t) : Upholds s (recordFault f t) := by
  unfold recordFault
  dsimp only
  repeat' first | mono | split

@[mono] theorem causeAbsent_upholds (b : Block) (cause item : Nat) (h : Upholds s t) : Upholds s (causeAbsent b cause item t) :=
  h.frame (causeAbsent_only ..) rfl

@[mono] theorem causeAbsentIn_upholds (b : Block) (cause scope item : Nat) (h : Upholds s t) :
    Upholds s (causeAbsentIn b cause scope item t) :=
  h.frame (causeAbsentIn_only ..) rfl

@[mono] theorem causeAgain_upholds (b : Block) (cause item : Nat) (h : Upholds s t) : Upholds s (causeAgain b cause item t) :=
  h.frame (causeAgain_only ..) rfl

@[mono] theorem recordPulse_upholds (f : FaultRep) (h : Upholds s t) : Upholds s (recordPulse f t) := by
  unfold recordPulse
  mono

@[mono] theorem pcrFatal_upholds (d : Side) (cause addr acc : Nat) (h : Upholds s t) : Upholds s (pcrFatal d cause addr acc t) := by
  unfold pcrFatal
  mono

@[mono] theorem pcrCorrected_upholds (d : Side) (cause addr : Nat) (h : Upholds s t) : Upholds s (pcrCorrected d cause addr t) := by
  unfold pcrCorrected
  mono

@[mono] theorem clockLostInStart_upholds (drop : Clocks → Clocks) (h : Upholds s t) : Upholds s (clockLostInStart drop t) := by
  unfold clockLostInStart
  mono

end Sys2Proof.Machine
end

section
/-!
PROOFS about what every step keeps: inputs, stores, axes and comparison.
-/
namespace Sys2Proof.Machine
-- The proofs below read the tags of the lemmas above them: they are elaborated in order.
set_option Elab.async false
variable {s t : State}

/-! ## Inputs -/

@[mono] theorem ibFault_upholds (cause : Nat) (i : Fin 128) (h : Upholds s t) : Upholds s (ibFault cause i t) := by
  unfold ibFault
  mono

@[mono] theorem dipFault_upholds (cause : Nat) (i : Fin 128) (foreign : Nat) (h : Upholds s t) :
    Upholds s (dipFault cause i foreign t) := by
  unfold dipFault
  mono

@[mono] theorem sourceFault_upholds (cause : Nat) (k : Fin 32) (h : Upholds s t) : Upholds s (sourceFault cause k t) := by
  unfold sourceFault
  mono

@[mono] theorem thrTest_upholds (i : Fin 128) (steps : BitVec 5) (h : Upholds s t) : Upholds s (thrTest i steps t) := by
  unfold thrTest
  mono

@[mono] theorem foreignMatch_upholds (i : Fin 128) (k : Fin 32) (dipNo : Nat) (h : Upholds s t) :
    Upholds s (foreignMatch i k dipNo t) := by
  unfold foreignMatch
  mono

@[mono] theorem lowEnds_upholds (i : Fin 128) (u : Tick) (h : Upholds s t) : Upholds s (lowEnds i u t) := by
  unfold lowEnds
  dsimp only
  repeat' first | mono | split | with_reducible refine foldl_upholds ?_ fun u x hu => ?_

@[mono] theorem markPartner_upholds (c : InputCfg) (u : Tick) (h : Upholds s t) : Upholds s (markPartner c u t) :=
  h.frame (markPartner_only ..) rfl

@[mono] theorem judgeEdge_upholds (src : Fin 32) (late : Bool) (h : Upholds s t) : Upholds s (judgeEdge src late t) := by
  unfold judgeEdge
  mono

@[mono] theorem judgeSwitchOn_upholds (late : BitVec 32) (h : Upholds s t) : Upholds s (judgeSwitchOn late t) := by
  unfold judgeSwitchOn
  exact foldl_upholds h fun u x hu => by mono

@[mono] theorem judgeDip_upholds (w : DipWin) (i : Fin 128) (h : Upholds s t) : Upholds s (judgeDip w i t) := by
  unfold judgeDip
  dsimp only
  split <;> mono

/-! ## StoreOps -/

theorem modStores_upholds {f : Side → Store → Store} (h : Upholds s t) (hf : ∀ i x, Store.memOk x → (f i x).memOk) :
    Upholds s (modStores f t) :=
  foldl_upholds h fun u i hu => modStore_upholds hu fun x ok => by
    split
    · exact hf i x ok
    · exact ok

@[mono] theorem storeFail_upholds (i : Side) (addr : Nat) (h : Upholds s t) : Upholds s (storeFail i addr t) := by
  unfold storeFail
  dsimp only
  mono
  all_goals exact fun _ => id

theorem Store.memOk_wearRange {x : Store} (ok : x.memOk) (a n : Nat) : (wearRange a n x).memOk := by
  unfold wearRange
  split <;> exact ok

theorem Store.memOk_setIdentity {x : Store} (ok : x.memOk) (f : Identity → Identity) : (x.setIdentity f).memOk := by
  unfold Store.setIdentity
  dsimp only
  split
  · exact ok
  · exact Store.memOk_wearRange ok _ _

@[mono] theorem setIdentities_upholds (f : Identity → Identity) (h : Upholds s t) : Upholds s (setIdentities f t) :=
  modStores_upholds h fun _ _ ok => Store.memOk_setIdentity ok _

@[mono] theorem checkpointWear_upholds (h : Upholds s t) : Upholds s (checkpointWear t) :=
  ite_upholds h (modMs_upholds (modStores_upholds h fun _ _ ok => Store.memOk_setIdentity ok _) fun _ => id)

@[mono] theorem changeLc_upholds (new : LifeCycle) (h : Upholds s t) : Upholds s (changeLc new t) := by
  unfold changeLc
  mono

/-- What keeps both slots and the user area of a store keeps them in canonical form. -/
theorem Store.memOk_of_same {x y : Store} (ok : x.memOk) (slot : y.slot = x.slot) (user : y.user = x.user) : y.memOk := by
  unfold Store.memOk
  rw [slot, user]
  exact ok

theorem Store.memOk_journalPut {x : Store} (ok : x.memOk) (r : JRec) : (journalPut r x).memOk := ok

theorem Store.memOk_tear {x : Store} (ok : x.memOk) (c : Tear) : (x.tear c).memOk := by
  cases c <;> exact ok

@[mono] theorem journalRaw_upholds (r : JRec) (h : Upholds s t) : Upholds s (journalRaw r t) := by
  unfold journalRaw
  exact modWq_upholds (modStores_upholds h fun i _ ok => Store.memOk_journalPut ok _) fun _ => id

@[mono] theorem copyForward_upholds (n : Nat) (h : Upholds s t) : Upholds s (copyForward n t) := by
  induction n generalizing t with
  | zero => exact h
  | succ n ih =>
    unfold copyForward
    dsimp only
    split
    · exact ite_upholds (ih (journalRaw_upholds _ h)) h
    · exact h

@[mono] theorem tearJournals_upholds (a b : Tear) (h : Upholds s t) : Upholds s (tearJournals a b t) :=
  ite_upholds (modStores_upholds h fun _ _ ok => by
    split
    · exact ok
    · exact Store.memOk_tear ok _) h

@[mono] theorem journalWrite_upholds (r : JRec) (h : Upholds s t) : Upholds s (journalWrite r t) := by
  unfold journalWrite
  mono

/-! ## Axes -/

@[mono] theorem axisFault_upholds (cause : Nat) (a : Fin 64) (path : Nat) (h : Upholds s t) :
    Upholds s (axisFault cause a path t) := by
  unfold axisFault
  mono

@[mono] theorem afQuarterFault_upholds (cause : Nat) (q : Fin 4) (h : Upholds s t) : Upholds s (afQuarterFault cause q t) := by
  unfold afQuarterFault
  mono

@[mono] theorem afAbsent_upholds (cause scope item : Nat) (h : Upholds s t) : Upholds s (afAbsent cause scope item t) :=
  h.frame (afAbsent_only ..) rfl

@[mono] theorem formWords_upholds (a : Fin 64) (p : Fin 2) (h : Upholds s t) : Upholds s (formWords a p t) :=
  h.frame (formWords_only ..) rfl

@[mono] theorem judgeFreq_upholds (a : Fin 64) (hi : Bool) (h : Upholds s t) : Upholds s (judgeFreq a hi t) := by
  unfold judgeFreq
  mono

@[mono] theorem judgeVector_upholds (a : Fin 64) (outside level : Bool) (h : Upholds s t) :
    Upholds s (judgeVector a outside level t) := by
  unfold judgeVector
  mono

@[mono] theorem judgeSync_upholds (a : Fin 64) (bad apart : Bool) (h : Upholds s t) : Upholds s (judgeSync a bad apart t) := by
  unfold judgeSync
  mono

@[mono] theorem agreePair_upholds (a : Fin 64) (m spare : AxisSample) (bad : Bool) (h : Upholds s t) :
    Upholds s (agreePair a m spare bad t) :=
  h.frame (agreePair_only ..) rfl

@[mono] theorem measureSinCos_upholds (a : Fin 64) (m spare : AxisSample) (h : Upholds s t) :
    Upholds s (measureSinCos a m spare t) := by
  unfold measureSinCos
  mono

@[mono] theorem measureAxis_upholds (m spare : AxisSample) (a : Fin 64) (h : Upholds s t) : Upholds s (measureAxis m spare a t) := by
  unfold measureAxis
  mono

@[mono] theorem abandonPass_upholds (a : Fin 64) (h : Upholds s t) : Upholds s (abandonPass a t) :=
  h.frame (abandonPass_only ..) rfl

@[mono] theorem mendPath_upholds (a : Fin 64) (p : Fin 2) (h : Upholds s t) : Upholds s (mendPath a p t) :=
  h.frame (mendPath_only ..) rfl

@[mono] theorem afCleared_upholds (cause scope item : Nat) (h : Upholds s t) : Upholds s (afCleared cause scope item t) :=
  h.frame (afCleared_only ..) rfl

@[mono] theorem configureAxes_upholds (h : Upholds s t) : Upholds s (configureAxes t) :=
  h.frame (configureAxes_only ..) rfl

@[mono] theorem calFail_upholds (q : Fin 4) (pair : Nat) (h : Upholds s t) : Upholds s (calFail q pair t) := by
  unfold calFail
  split <;> mono

@[mono] theorem calEnd_upholds (q : Fin 4) (p : CalPass) (h : Upholds s t) : Upholds s (calEnd q p t) :=
  h.frame (calEnd_only ..) rfl

/-! ## Compare -/

@[mono] theorem scFatal_upholds (cause init acc kerf : Nat) (h : Upholds s t) : Upholds s (scFatal cause init acc kerf t) := by
  unfold scFatal
  mono

@[mono] theorem sendKerf_upholds (c : Side) (m : Nat) (sig : Word64) (h : Upholds s t) : Upholds s (sendKerf c m sig t) :=
  h.frame (sendKerf_only ..) rfl

@[mono] theorem exchangeVerdict_upholds (m : Nat) (h : Upholds s t) : Upholds s (exchangeVerdict m t) := by
  unfold exchangeVerdict
  dsimp only
  split <;> mono

@[mono] theorem judgeKerf_upholds (half : Side) (m : Nat) (a b : Word64) (ta tb : Tick) (h : Upholds s t) :
    Upholds s (judgeKerf half m a b ta tb t) := by
  unfold judgeKerf
  mono

@[mono] theorem recordCopy_upholds (die : Side) (b : Fin 14) (w : Nat) (h : Upholds s t) : Upholds s (recordCopy die b w t) := by
  unfold recordCopy
  mono

end Sys2Proof.Machine
end

section
/-!
PROOFS about what every step keeps: resets, whose memories start afresh and whose drivers are inhibited.
-/
namespace Sys2Proof.Machine
-- The proofs below read the tags of the lemmas above them: they are elaborated in order.
set_option Elab.async false
variable {s t : State}

/-! ## Reset -/

@[mono] theorem portReset_upholds (p : Side) (h : Upholds s t) : Upholds s (portReset p t) := by
  unfold portReset
  extract_lets cleared released
  have cleared : Upholds s cleared := modHport_upholds h fun x ok => by
    refine ⟨rfl, ?_⟩
    unfold HpPort.portReset
    dsimp only
    split
    · exact ok.2
    · exact ok.1
  exact modWport_upholds (ite_upholds (disown_upholds cleared) cleared) fun _ => id

/-- Of both slots of a store, what `f` makes of them. -/
theorem Store.memOk_mapSlots {x : Store} {f : TableSlot → TableSlot} (ok : x.memOk) (same : ∀ y, (f y).bytes = y.bytes) :
    Store.memOk { x with slot := x.slot.map f } := by
  obtain ⟨a, b, user⟩ := ok
  exact ⟨(congrArg (Memory.wf 0) (same _)).trans a, (congrArg (Memory.wf 0) (same _)).trans b, user⟩

@[mono] theorem demoteSlots_upholds (h : Upholds s t) : Upholds s (demoteSlots t) := by
  unfold demoteSlots
  extract_lets f
  have same (y : TableSlot) : (f y).bytes = y.bytes := by
    dsimp only [f]
    split <;> rfl
  refine modMs_upholds h fun x ok i => ?_
  show Store.memOk ((x.store.map _).get i)
  rw [Two.get_map]
  exact Store.memOk_mapSlots (ok i) same

@[mono] theorem coreResetItems_upholds (h : Upholds s t) : Upholds s (coreResetItems t) := by
  unfold coreResetItems
  extract_lets tested unawaited acked sent
  have ended : Upholds s tested := by
    dsimp only [tested]
    split
    · exact endItem_upholds _ _ _ _ h
    · exact h
  have given : Upholds s acked := by
    dsimp only [acked]
    split
    · exact endItem_upholds _ _ _ _ (ended.trans ⟨id, id, id, id, id⟩)
    · exact ended
  have dropped : Upholds s sent := foldl_upholds (modeDrop_upholds given) fun _ _ hu => abortSends_upholds _ _ hu
  exact modWq_upholds dropped fun x ok p => by
    show WqPort.memOk ((x.port.map _).get p)
    rw [Two.get_map]
    exact ok p

@[mono] theorem toReset_upholds (h : Upholds s t) : Upholds s (toReset t) := by
  unfold toReset
  mono

/-- A core after a reset has empty memories, whatever its table. -/
theorem CoreSt.memOk_reset (c : Side) (table : Option Table) (undef : Option Nat) :
    CoreSt.memOk c { CoreSt.reset with table := table, undef := undef } := by
  cases c <;> exact ⟨rfl, rfl, rfl⟩

@[mono] theorem applyCore_upholds (h : Upholds s t) : Upholds s (applyCore t) := by
  have held : Upholds s (idleCells (stopCores (toReset (coreResetItems t)))) := by mono
  unfold applyCore
  dsimp only
  generalize idleCells (stopCores (toReset (coreResetItems t))) = u at held ⊢
  refine held.trans ⟨fun _ c => ?_, id, id, id, id⟩
  cases c
  case a => exact CoreSt.memOk_reset ..
  case b => exact CoreSt.memOk_reset ..

@[mono] theorem applySystem_upholds (h : Upholds s t) : Upholds s (applySystem t) := by
  unfold applySystem
  extract_lets saved u
  have kept : Upholds s u := demoteSlots_upholds (toReset_upholds (ite_upholds h (checkpointWear_upholds h)))
  clear_value u
  refine kept.trans ⟨fun _ c => ?_, fun ok i => ?_, fun ok p => ?_, fun _ p => ?_, fun _ _ => rfl⟩
  · cases c <;> exact ⟨rfl, rfl, rfl⟩
  · show Store.memOk ((u.ms.store.map _).get i)
    rw [Two.get_map]
    exact ok i
  · show WqPort.memOk ((u.wq.port.map _).get p)
    rw [Two.get_map]
    exact ⟨rfl, rfl, (ok p).2.2⟩
  · show HpPort.memOk ((u.hp.port.map _).get p)
    rw [Two.get_map]
    exact ⟨rfl, rfl⟩

@[mono] theorem applyPowerOn_upholds (h : Upholds s t) : Upholds s (applyPowerOn t) := by
  unfold applyPowerOn
  extract_lets u
  have kept : Upholds s u := applySystem_upholds h
  clear_value u
  refine kept.trans ⟨id, fun ok i => ?_, id, id, fun _ _ => rfl⟩
  show Store.memOk ((u.ms.store.map _).get i)
  rw [Two.get_map]
  exact ok i

@[mono] theorem applyLevel_upholds (l : ResetLevel) (h : Upholds s t) : Upholds s (applyLevel l t) := by
  cases l
  case core => exact demoteSlots_upholds (applyCore_upholds h)
  case system => exact applySystem_upholds h
  case powerOn => exact applyPowerOn_upholds h

@[mono] theorem histStep_upholds (cause : Nat) (f : Word → Word) (h : Upholds s t) : Upholds s (histStep cause f t) :=
  h.frame (histStep_only ..) rfl

@[mono] theorem assertReset_upholds (level : ResetLevel) (cause : Nat) (h : Upholds s t) : Upholds s (assertReset level cause t) := by
  unfold assertReset
  mono

@[mono] theorem releaseReset_upholds (h : Upholds s t) : Upholds s (releaseReset t) := by
  unfold releaseReset
  split <;> mono

end Sys2Proof.Machine
end

section
/-!
PROOFS about what every step keeps: power and clocks, outputs and links. Only the close of a scan in RUN releases drivers.
-/
namespace Sys2Proof.Machine
-- The proofs below read the tags of the lemmas above them: they are elaborated in order.
set_option Elab.async false
variable {s t : State}

/-! ## Power -/

@[mono] theorem vlOutside_upholds (side : Side) (lv : VlLevel) (cause : Nat) (mv : BitVec 16) (h : Upholds s t) :
    Upholds s (vlOutside side lv cause mv t) := by
  unfold vlOutside
  dsimp only
  mono
  all_goals exact fun _ => id

@[mono] theorem loseBackup_upholds (h : Upholds s t) : Upholds s (loseBackup t) :=
  h.frame (loseBackup_only ..) rfl

@[mono] theorem vfFault_upholds (q : Fin 4) (cause : Nat) (h : Upholds s t) : Upholds s (vfFault q cause t) := by
  unfold vfFault
  mono

@[mono] theorem vfOutside_upholds (q : Fin 4) (cause : Nat) (mv : BitVec 16) (h : Upholds s t) :
    Upholds s (vfOutside q cause mv t) := by
  unfold vfOutside
  mono

@[mono] theorem bakFault_upholds (addr : Nat) (h : Upholds s t) : Upholds s (bakFault addr t) := by
  unfold bakFault
  mono

@[mono] theorem compareBackup_upholds (h : Upholds s t) : Upholds s (compareBackup t) :=
  h.frame (compareBackup_only ..) rfl

@[mono] theorem tbReleased_upholds (h : Upholds s t) : Upholds s (tbReleased t) := by
  unfold tbReleased
  extract_lets clocked locked compared judged
  have judged : Upholds s judged := foldl_upholds (compareBackup_upholds (modTb_upholds _ (modPcr_upholds _ h))) fun _ _ hu =>
    ite_upholds hu (vfFault_upholds _ _ hu)
  mono

@[mono] theorem tbCheckBad_upholds (addr : Nat) (h : Upholds s t) : Upholds s (tbCheckBad addr t) := by
  unfold tbCheckBad
  mono

@[mono] theorem rstRefuse_upholds (port : Side) (h : Upholds s t) : Upholds s (rstRefuse port t) := by
  unfold rstRefuse
  mono

@[mono] theorem pcrRstArm_upholds (port : Side) (h : Upholds s t) : Upholds s (pcrRstArm port t) := by
  unfold pcrRstArm
  mono

@[mono] theorem assertDue_upholds (h : Upholds s t) : Upholds s (assertDue t) := by
  unfold assertDue
  split <;> mono

@[mono] theorem pcrRstReset_upholds (port : Side) (level : BitVec 2) (h : Upholds s t) : Upholds s (pcrRstReset port level t) := by
  unfold pcrRstReset
  mono

@[mono] theorem storeUnreadable_upholds (i : Side) (h : Upholds s t) : Upholds s (storeUnreadable i t) := by
  unfold storeUnreadable
  mono

/-! ## CheckUnits -/

@[mono] theorem remUncorr_upholds (p : Side) (page : Nat) (h : Upholds s t) : Upholds s (remUncorr p page t) := by
  unfold remUncorr
  mono
  exact fun _ => id

/-! ## Outputs -/

@[mono] theorem abandonDark_upholds (k : Fin 144) (h : Upholds s t) : Upholds s (abandonDark k t) := by
  unfold abandonDark
  mono
  exact fun _ => id

@[mono] theorem openReceiver_upholds (k : Fin 144) (d : Side) (h : Upholds s t) : Upholds s (openReceiver k d t) := by
  unfold openReceiver
  mono

@[mono] theorem outputFault_upholds (cause : Nat) (k : Fin 144) (d : Side) (h : Upholds s t) :
    Upholds s (outputFault cause k d t) := by
  unfold outputFault
  mono

@[mono] theorem outputPulse_upholds (cause : Nat) (k : Fin 144) (h : Upholds s t) : Upholds s (outputPulse cause k t) := by
  unfold outputPulse
  mono

@[mono] theorem judgeStatic_upholds (k : Fin 144) (h : Upholds s t) : Upholds s (judgeStatic k t) := by
  unfold judgeStatic
  mono

@[mono] theorem sampleOutputs_upholds (outs : List OutSense) (h : Upholds s t) : Upholds s (sampleOutputs outs t) :=
  foldl_upholds (modOs_upholds h fun _ => id) fun _ _ hu => ite_upholds (foldl_upholds hu fun _ _ hv => judgeStatic_upholds _ hv) hu

@[mono] theorem freeDrivers_upholds (n : Nat) (h : Upholds s t) : Upholds s (freeDrivers n t) :=
  foldl_upholds h fun _ _ hu => modOs_upholds hu fun _ => id

theorem State.run_of_not_inhibits {c : Side} (h : s.inhibits c = false) : s.dev = .run := by
  unfold State.inhibits at h
  simpa using (Bool.or_eq_false_iff.mp (Bool.or_eq_false_iff.mp (Bool.or_eq_false_iff.mp (Bool.or_eq_false_iff.mp
    (Bool.or_eq_false_iff.mp (Bool.or_eq_false_iff.mp h).1).1).1).1).1).1

@[mono] theorem bowClose_upholds (c : Side) (h : Upholds s t) : Upholds s (bowClose c t) := by
  unfold bowClose
  extract_lets x freed u go
  have release : Upholds s u := by
    dsimp only [u]
    split
    · next on =>
      have run : t.dev = .run := by
        dsimp only [freed] at on
        split at on
        · exact State.run_of_not_inhibits (Bool.not_eq_true' _ ▸ (Bool.and_eq_true_iff.mp on).2)
        · cases on
      exact h.trans ⟨id, id, id, id, fun _ out => absurd run out⟩
    · exact h
  refine modOs_upholds (foldl_upholds (modOs_upholds (takeFree_upholds release) fun _ => id) fun u q hu => ?_) fun _ => id
  dsimp only
  split
  · exact ite_upholds hu (abandonDark_upholds _ hu)
  · exact hu

/-! ## Links -/

@[mono] theorem linkCorrected_upholds (cause : Nat) (n : Fin 4) (reason : Nat) (h : Upholds s t) :
    Upholds s (linkCorrected cause n reason t) := by
  unfold linkCorrected
  mono

@[mono] theorem plTune_upholds (n : Fin 4) (h : Upholds s t) : Upholds s (plTune n t) := by
  unfold plTune
  mono

@[mono] theorem plAlign_upholds (n : Fin 4) (h : Upholds s t) : Upholds s (plAlign n t) := by
  unfold plAlign
  mono

@[mono] theorem plDown_upholds (n : Fin 4) (h : Upholds s t) : Upholds s (plDown n t) := by
  unfold plDown
  mono

@[mono] theorem plRelease_upholds (n : Fin 4) (h : Upholds s t) : Upholds s (plRelease n t) := by
  unfold plRelease
  mono

@[mono] theorem plUp_upholds (n : Fin 4) (h : Upholds s t) : Upholds s (plUp n t) := by
  unfold plUp
  mono

@[mono] theorem tuneDone_upholds (n : Fin 4) (h : Upholds s t) : Upholds s (tuneDone n t) := by
  unfold tuneDone
  dsimp only
  split <;> mono

@[mono] theorem linkLoss_upholds (n : Fin 4) (next : PlState) (h : Upholds s t) : Upholds s (linkLoss n next t) := by
  unfold linkLoss
  mono

@[mono] theorem snoop_upholds (k : Nat) (v : Word) (h : Upholds s t) : Upholds s (snoop k v t) :=
  h.frame (snoop_only ..) rfl

@[mono] theorem sendStep_upholds (n : Fin 4) (h : Upholds s t) : Upholds s (sendStep n t) := by
  unfold sendStep
  dsimp only
  split <;> mono

@[mono] theorem takeSafety_upholds (n : Fin 4) (seqx : Word) (bs : List Byte) (h : Upholds s t) : Upholds s (takeSafety n seqx bs t) :=
  h.frame (takeSafety_only ..) rfl

@[mono] theorem acceptPorts_upholds (xs ys : List Word) (h : Upholds s t) : Upholds s (acceptPorts xs ys t) := by
  unfold acceptPorts
  exact foldl_upholds h fun u x hu => by mono

@[mono] theorem comparePayload_upholds (xs ys : List Word) (h : Upholds s t) : Upholds s (comparePayload xs ys t) := by
  unfold comparePayload
  split <;> mono

@[mono] theorem postPayload_upholds (c : Side) (h : Upholds s t) : Upholds s (postPayload c t) := by
  unfold postPayload
  dsimp only
  repeat' first | mono | split

/-! ## Registers -/

@[mono] theorem marchYield_upholds (h : Upholds s t) : Upholds s (marchYield t) :=
  h.frame (marchYield_only ..) rfl

end Sys2Proof.Machine
end

section
/-!
PROOFS about what every step keeps: ring items, START, timers, the life cycle, host ports, the tally and store rows.
-/
namespace Sys2Proof.Machine
-- The proofs below read the tags of the lemmas above them: they are elaborated in order.
set_option Elab.async false
variable {s t : State}

/-! ## Items -/

@[mono] theorem hostWrite_upholds (p : Side) (addr : Nat) (bytes : List (BitVec 8)) (h : Upholds s t) :
    Upholds s (hostWrite p addr bytes t) :=
  modWport_upholds h fun _ ⟨landing, rem, host⟩ => ⟨landing, rem, msetList_wf host _ _⟩

@[mono] theorem beginItem_upholds (p : Side) (n : Fin 8) (d : Desc) (record : Bool) (h : Upholds s t) :
    Upholds s (beginItem p n d record t) := by
  unfold beginItem
  mono

@[mono] theorem beginTimed_upholds (p : Side) (n : Fin 8) (d : Desc) (record : Bool) (h : Upholds s t) :
    Upholds s (beginTimed p n d record t) := by
  unfold beginTimed
  mono

@[mono] theorem verifySnoop_upholds (d : Desc) (h : Upholds s t) : Upholds s (verifySnoop d t) :=
  h.frame (verifySnoop_only ..) rfl

theorem Store.memOk_updSlot {x : Store} {k : Side} {f : TableSlot → TableSlot} (ok : x.memOk)
    (kept : ∀ y, Memory.wf 0 y.bytes = true → Memory.wf 0 (f y).bytes = true) : Store.memOk { x with slot := x.slot.upd k f } := by
  obtain ⟨a, b, user⟩ := ok
  cases k
  case a => exact ⟨kept _ a, b, user⟩
  case b => exact ⟨a, kept _ b, user⟩

theorem modStaging_upholds {is : List Side} {f : Side → TableSlot → TableSlot} (h : Upholds s t)
    (kept : ∀ i y, Memory.wf 0 y.bytes = true → Memory.wf 0 (f i y).bytes = true) : Upholds s (modStaging is f t) :=
  foldl_upholds h fun _ i hu => modStore_upholds hu fun _ ok => Store.memOk_updSlot ok (kept i)

theorem Store.memOk_slot {x : Store} (ok : x.memOk) : ∀ k, Memory.wf 0 (x.slot.get k).bytes = true
  | .a => ok.1
  | .b => ok.2.1

theorem Store.memOk_commit (record : List Byte) (gen : Word) {x : Store} (ok : x.memOk) : (Store.commit record gen x).memOk := by
  have worn := Store.memOk_wearRange ok (x.stagingAddr + 0x070) 128
  refine Store.memOk_updSlot (Store.memOk_updSlot (f := fun _ => _) worn fun _ _ => ?_) fun _ => id
  exact msetList_wf (Store.memOk_slot ok _) _ _

@[mono] theorem commitTable_upholds (p : Side) (n : Fin 8) (d : Desc) (h : Upholds s t) : Upholds s (commitTable p n d t) := by
  unfold commitTable
  extract_lets is i0 x gen record committed logged ended
  have committed : Upholds s committed := foldl_upholds h fun _ _ hu => modStore_upholds hu fun _ => Store.memOk_commit _ _
  have ended : Upholds s ended := endItem_upholds _ _ _ _ (logEvent_upholds _ _ _ _ committed)
  exact ite_upholds (endItem_upholds _ _ _ _ h) (ite_upholds ended (assertReset_upholds _ _ ended))

@[mono] theorem ackWait_upholds (p : Side) (n : Fin 8) (key : Word) (input : Nat) (h : Upholds s t) :
    Upholds s (ackWait p n key input t) :=
  h.frame (ackWait_only ..) rfl

@[mono] theorem ackGive_upholds (h : Upholds s t) : Upholds s (ackGive t) := by
  unfold ackGive
  dsimp only
  repeat' first | mono | split

@[mono] theorem ackJudge_upholds (c : Side) (h : Upholds s t) : Upholds s (ackJudge c t) := by
  unfold ackJudge
  dsimp only
  repeat' first | mono | split

@[mono] theorem ackTap_upholds (v : Word) (h : Upholds s t) : Upholds s (ackTap v t) := by
  unfold ackTap
  split <;> mono

@[mono] theorem holdChannel_upholds (p : Side) (n : Fin 8) (k : Fin 4) (f : Cvw → Cvw) (h : Upholds s t) :
    Upholds s (holdChannel p n k f t) :=
  h.frame (holdChannel_only ..) rfl

@[mono] theorem keepHost_upholds (p : Side) (h : Upholds s t) : Upholds s (keepHost p t) :=
  modHport_upholds h fun _ ok => by
    split
    · exact ok
    · exact ⟨ok.1, ok.1⟩

@[mono] theorem modeEffect_upholds (port : Side) (n : Fin 8) (d : Desc) (h : Upholds s t) : Upholds s (modeEffect port n d t) := by
  unfold modeEffect
  extract_lets moved written
  have moved : Upholds s moved := by
    dsimp only [moved]
    split <;> mono
  have written : Upholds s written :=
    ite_upholds moved (modHport_upholds (keepHost_upholds _ moved) fun _ ok => ⟨mset_wf ok.1 _ _, ok.2⟩)
  mono

@[mono] theorem applyModeReq_upholds (h : Upholds s t) : Upholds s (applyModeReq t) := by
  unfold applyModeReq
  dsimp only
  repeat' first | mono | split
  all_goals exact fun _ => id

/-! ## Start -/

@[mono] theorem journalCheck_upholds (i : Side) (h : Upholds s t) : Upholds s (journalCheck i t) := by
  unfold journalCheck
  dsimp only
  split <;> mono

@[mono] theorem rebuildRing_upholds (rs : List JRec) (r : Side × Fin 8) (h : Upholds s t) : Upholds s (rebuildRing rs r t) := by
  unfold rebuildRing
  mono
  exact fun _ => id

@[mono] theorem rebuildCqs_upholds (rs : List JRec) (h : Upholds s t) : Upholds s (rebuildCqs rs t) := by
  unfold rebuildCqs
  exact foldl_upholds h fun u x hu => by mono

@[mono] theorem replayDone_upholds (r : Side × Fin 8) (h : Upholds s t) : Upholds s (replayDone r t) := by
  unfold replayDone
  repeat' first | mono | split | with_reducible refine foldl_upholds ?_ fun u x hu => ?_

@[mono] theorem damageRecord_upholds (e : Side × Nat) (h : Upholds s t) : Upholds s (damageRecord t e) := by
  unfold damageRecord
  mono
  exact fun _ => id

@[mono] theorem makeActive_upholds (i k : Side) (h : Upholds s t) : Upholds s (makeActive i k t) := by
  unfold makeActive
  mono
  exact fun _ => id

@[mono] theorem chooseOne_upholds (c i k : Side) (h : Upholds s t) : Upholds s (chooseOne c i k t) := by
  unfold chooseOne
  mono
  exact fun _ => id

@[mono] theorem chooseBoth_upholds (ka kb : Side) (h : Upholds s t) : Upholds s (chooseBoth ka kb t) := by
  unfold chooseBoth
  mono

theorem chooseBoth_gen_upholds (x k : Side) (gen : Word) (h : Upholds s t) :
    Upholds s (chooseBoth x k (t.modStore .b (fun z => { z with slot := z.slot.upd k (fun y => { y with gen := gen }) }))) :=
  chooseBoth_upholds _ _ (modStore_upholds h fun _ ok => Store.memOk_updSlot ok fun _ => id)

@[mono] theorem reconcile_upholds (h : Upholds s t) : Upholds s (reconcile t) := by
  unfold reconcile
  extract_lets ka kb ga gb fall
  have falls : Upholds s (fall t) := by
    dsimp only [fall]
    split <;> mono
  clear_value fall ga gb ka kb
  cases ka with
  | none => cases kb with
    | none => exact h
    | some _ => exact falls
  | some x => cases kb with
    | none =>
      refine ite_upholds ?_ falls
      cases unfinished x none t with
      | some k => exact chooseBoth_gen_upholds _ _ _ h
      | none => exact falls
    | some y =>
      refine ite_upholds (chooseBoth_upholds _ _ h) (ite_upholds ?_ falls)
      cases unfinished x (some y) t with
      | some k => exact chooseBoth_gen_upholds _ _ _ h
      | none => exact falls

@[mono] theorem selectTables_upholds (h : Upholds s t) : Upholds s (selectTables t) := by
  unfold selectTables
  extract_lets cleared i
  have cleared : Upholds s cleared := modEv_upholds h fun _ => id
  refine ite_upholds cleared (ite_upholds (foldl_upholds cleared fun u j hu => ite_upholds ?_ hu)
      (ite_upholds (reconcile_upholds cleared) ?_))
  · split
    · exact chooseOne_upholds _ _ _ hu
    · exact hu
  · split
    · exact chooseOne_upholds _ _ _ (chooseOne_upholds _ _ _ cleared)
    · exact cleared

@[mono] theorem selectSnoop_upholds (h : Upholds s t) : Upholds s (selectSnoop t) :=
  h.frame (selectSnoop_only ..) rfl

@[mono] theorem releaseCores_upholds (h : Upholds s t) : Upholds s (releaseCores t) := by
  unfold releaseCores
  dsimp only
  mono
  all_goals exact fun _ => id

@[mono] theorem refCheck_upholds (q : Fin 4) (ok : Bool) (h : Upholds s t) : Upholds s (refCheck q ok t) := by
  unfold refCheck
  mono

@[mono] theorem firstPass_upholds (q : Fin 4) (pair : Fin 17) (bad used : Bool) (h : Upholds s t) :
    Upholds s (firstPass q pair bad used t) := by
  unfold firstPass
  dsimp only
  repeat' first | mono | split

@[mono] theorem fieldQuarter_upholds (refOk : BitVec 4) (thrBad : List (Fin 128 × BitVec 5)) (calBad : List (Fin 4 × Fin 17))
    (q : Fin 4) (h : Upholds s t) : Upholds s (fieldQuarter refOk thrBad calBad q t) := by
  unfold fieldQuarter
  dsimp only
  repeat' first | mono | split | with_reducible refine foldl_upholds ?_ fun u x hu => ?_

/-! ## Timers -/

@[mono] theorem pgEvent_upholds (g : Fin 16) (at_ : Tick) (h : Upholds s t) : Upholds s (pgEvent g at_ t) := by
  unfold pgEvent
  mono
  exact fun _ => id

@[mono] theorem pgDue_upholds (g : Fin 16) (h : Upholds s t) : Upholds s (pgDue g t) := by
  unfold pgDue
  mono

theorem pgHost_upholds {p : Side} {g : Fin 16} {f : State → State} (h : Upholds s t) (hf : ∀ u, Upholds s u → Upholds s (f u)) :
    Upholds s (pgHost p g f t) := ite_upholds (countRefused_upholds _ h) (hf _ (pgDue_upholds _ h))

@[mono] theorem pgReloadWrite_upholds (port : Side) (g : Fin 16) (v : Word) (h : Upholds s t) : Upholds s (pgReloadWrite port g v t) :=
  pgHost_upholds h fun _ hu => by mono

@[mono] theorem pgNow_upholds (port : Side) (g : Fin 16) (h : Upholds s t) : Upholds s (pgNow port g t) :=
  pgHost_upholds h fun _ hu => by mono

@[mono] theorem pgEnable_upholds (port : Side) (g : Fin 16) (en : Bool) (h : Upholds s t) : Upholds s (pgEnable port g en t) :=
  pgHost_upholds h fun _ hu => by mono

@[mono] theorem pgGo_upholds (port : Side) (mask : BitVec 16) (h : Upholds s t) : Upholds s (pgGo port mask t) := by
  unfold pgGo
  dsimp only
  repeat' first | mono | split | with_reducible refine foldl_upholds ?_ fun u x hu => ?_

@[mono] theorem cmpDue_upholds (n : Fin 32) (h : Upholds s t) : Upholds s (cmpDue n t) := by
  unfold cmpDue
  mono

@[mono] theorem cmpLoWrite_upholds (n : Fin 32) (v : Word) (h : Upholds s t) : Upholds s (cmpLoWrite n v t) :=
  h.frame (cmpLoWrite_only ..) rfl

@[mono] theorem cmpHiWrite_upholds (n : Fin 32) (v : Word) (h : Upholds s t) : Upholds s (cmpHiWrite n v t) := by
  unfold cmpHiWrite
  mono

@[mono] theorem cmpEnable_upholds (n : Fin 32) (en : Bool) (h : Upholds s t) : Upholds s (cmpEnable n en t) := by
  unfold cmpEnable
  mono

@[mono] theorem capLoRead_upholds (port : Side) (c : Fin 16) (h : Upholds s t) : Upholds s (capLoRead port c t) := by
  unfold capLoRead
  mono

@[mono] theorem capCtlWrite_upholds (port : Side) (c : Fin 16) (v : Word) (h : Upholds s t) : Upholds s (capCtlWrite port c v t) := by
  unfold capCtlWrite
  mono

/-! ## Life -/

@[mono] theorem faultIrq_upholds (b : Block) (c : FaultClass) (h : Upholds s t) : Upholds s (faultIrq b c t) := by
  unfold faultIrq
  mono

@[mono] theorem logCleared_upholds (b : Block) (i : FaultInst) (h : Upholds s t) : Upholds s (logCleared b i t) := by
  unfold logCleared
  mono

@[mono] theorem storeBack_upholds (i : Side) (h : Upholds s t) : Upholds s (storeBack i t) :=
  ite_upholds h (modStore_upholds h fun _ ok => by split <;> exact ok)

@[mono] theorem portBack_upholds (p : Side) (h : Upholds s t) : Upholds s (portBack p t) := by
  unfold portBack
  mono
  exact fun _ => id

@[mono] theorem clearedHook_upholds (b : Block) (i : FaultInst) (h : Upholds s t) : Upholds s (clearedHook b i t) := by
  unfold clearedHook
  split <;> mono

@[mono] theorem dropInst_upholds (b : Block) (i : FaultInst) (h : Upholds s t) : Upholds s (dropInst b i t) := by
  unfold dropInst
  mono

theorem conseqEnds_upholds {ends : Resource → State → State} (hends : ∀ r u, Upholds s u → Upholds s (ends r u)) (b : Block)
    (i : FaultInst) (h : Upholds s t) : Upholds s (conseqEnds ends b i t) := by
  unfold conseqEnds
  split
  · mono
  · refine ite_upholds ?_ (by mono)
    dsimp only
    split
    · exact hends _ _ (by mono)
    · mono

theorem lineGood_upholds {ends : Resource → State → State} (hends : ∀ r u, Upholds s u → Upholds s (ends r u)) (r : Resource)
    (h : Upholds s t) : Upholds s (lineGood ends r t) :=
  foldl_upholds (h.trans ⟨id, id, id, id, id⟩) fun _ _ hu => foldl_upholds hu fun _ _ hv => conseqEnds_upholds hends _ _ hv

@[mono] theorem turnGood_upholds (r : Resource) (h : Upholds s t) : Upholds s (turnGood r t) :=
  lineGood_upholds (fun _ _ hu => lineGood_upholds (fun _ _ hv => lineGood_upholds (fun _ _ hw => hw) _ hv) _ hu) r h

@[mono] theorem escalate_upholds (b : Block) (i : FaultInst) (h : Upholds s t) : Upholds s (escalate b i t) := by
  unfold escalate
  mono

@[mono] theorem recover_upholds (b : Block) (i : FaultInst) (h : Upholds s t) : Upholds s (recover b i t) := by
  unfold recover
  dsimp only
  split <;> mono

@[mono] theorem toBlock_upholds {p : Side} {b : Block} {f : State → State} (h : Upholds s t) (hf : Upholds s (f t)) :
    Upholds s (toBlock p b f t) := fromPort_upholds h (ite_upholds (modHport_upholds h fun _ => id) hf)

@[mono] theorem firstValidClear_upholds (b : Block) (h : Upholds s t) : Upholds s (firstValidClear b t) :=
  h.frame (firstValidClear_only ..) rfl

@[mono] theorem frQuietWrite_upholds (port : Side) (b : Block) (v : Word) (h : Upholds s t) : Upholds s (frQuietWrite port b v t) := by
  unfold frQuietWrite
  mono

@[mono] theorem evClear_upholds (peak malf : Bool) (h : Upholds s t) : Upholds s (evClear peak malf t) := by
  unfold evClear
  mono
  exact fun _ => id

/-! ## Ports -/

@[mono] theorem flushPending_upholds (p : Side) (h : Upholds s t) : Upholds s (flushPending p t) :=
  foldl_upholds h fun _ _ hu => ite_upholds (sendVector_upholds _ _ (modHport_upholds hu fun _ => id)) hu

@[mono] theorem recordPoisoned_upholds (p : Side) (h : Upholds s t) : Upholds s (recordPoisoned p t) := by
  unfold recordPoisoned
  mono

@[mono] theorem abortRead_upholds (p : Side) (h : Upholds s t) : Upholds s (abortRead p t) := by
  unfold abortRead
  mono
  exact fun _ => id

@[mono] theorem cfgClaim_upholds (port : Side) (key : BitVec 16) (h : Upholds s t) : Upholds s (cfgClaim port key t) := by
  unfold cfgClaim
  mono
  exact fun _ => id

@[mono] theorem cfgRelease_upholds (port : Side) (key : BitVec 16) (h : Upholds s t) : Upholds s (cfgRelease port key t) := by
  unfold cfgRelease
  mono

/-! ## Tally -/

@[mono] theorem assembleTally_upholds (scan : Nat) (temps : List (BitVec 16)) (h : Upholds s t) :
    Upholds s (assembleTally scan temps t) := by
  unfold assembleTally
  mono
  exact fun _ => id

/-! ## StoreRows -/

@[mono] theorem scrubSingle_upholds (die : Side) (pos : Nat) (h : Upholds s t) : Upholds s (scrubSingle die pos t) := by
  unfold scrubSingle
  mono
  exact fun _ => id

@[mono] theorem scrubDouble_upholds (die : Side) (pos : Nat) (h : Upholds s t) : Upholds s (scrubDouble die pos t) := by
  unfold scrubDouble
  refine ite_upholds (recordFault_upholds _ h) ?_
  refine portReset_upholds _ (recordFault_upholds _ (modMs_upholds (modWport_upholds (takeFree_upholds h) ?_) fun _ => id))
  exact fun _ ⟨landing, rem, host⟩ => ⟨msetList_wf landing _ _, rem, host⟩

@[mono] theorem scrubNext_upholds (die : Side) (h : Upholds s t) : Upholds s (scrubNext die t) := by
  unfold scrubNext
  dsimp only
  mono
  all_goals exact fun _ => id

/-! ## Cruise -/

@[mono] theorem stFault_upholds (cause : Nat) (cls : FaultClass) (scope item addr acc : Nat) (q : Option (Fin 4)) (h : Upholds s t) :
    Upholds s (stFault cause cls scope item addr acc q t) := by
  unfold stFault
  mono

@[mono] theorem judgeClk_upholds (k : Nat) (counts : List Nat) (h : Upholds s t) : Upholds s (judgeClk k counts t) := by
  unfold judgeClk
  extract_lets bad hp
  have port : ∀ p, Upholds s (hp p t) := fun p =>
    ite_upholds (causeAbsentIn_upholds _ _ _ _ h) (portReset_upholds _ (modHport_upholds (stFault_upholds _ _ _ _ _ _ _ h) fun _ => id))
  split
  · mono
  · mono
  · exact port _
  · exact port _
  · exact ite_upholds (foldl_upholds h fun _ _ hu => causeAbsentIn_upholds _ _ _ _ hu)
      (foldl_upholds h fun _ _ hu => ite_upholds hu (plOff_upholds _ (stFault_upholds _ _ _ _ _ _ _ hu)))
  · mono
  · mono
  · exact foldl_upholds h fun _ _ hu => ite_upholds (stFault_upholds _ _ _ _ _ _ _ hu) (causeAbsentIn_upholds _ _ _ _ hu)

@[mono] theorem judgeKat_upholds (k : Nat) (ok : Bool) (h : Upholds s t) : Upholds s (judgeKat k ok t) := by
  unfold judgeKat
  mono

@[mono] theorem judgeMarch_upholds (m : Nat) (r : SliceResult) (h : Upholds s t) : Upholds s (judgeMarch m r t) := by
  unfold judgeMarch
  split
  extract_lets word addr one read rebuilt
  have one : ∀ c o u, Upholds s u → Upholds s (one c o u) := fun c o u hu => by
    dsimp only [one]
    mono
  refine one _ _ _ (ite_upholds (modWport_upholds (takeFree_upholds (one _ _ _ h)) ?_) (one _ _ _ h))
  exact fun _ ⟨landing, rem, host⟩ => ⟨msetList_wf landing _ _, rem, host⟩

@[mono] theorem judgeSlice_upholds (c k : Nat) (r : SliceResult) (h : Upholds s t) : Upholds s (judgeSlice c k r t) := by
  unfold judgeSlice
  split
  case h_8 =>
    extract_lets differ
    have differ : Upholds s differ := by
      dsimp only [differ]
      split <;> mono
    split <;> mono
  all_goals mono

@[mono] theorem katHold_upholds (c k : Nat) (h : Upholds s t) : Upholds s (katHold c k t) :=
  h.frame (katHold_only ..) rfl

@[mono] theorem takePlace_upholds (h : Upholds s t) : Upholds s (takePlace t) :=
  h.frame (takePlace_only ..) rfl

@[mono] theorem heldEnd_upholds (h : Upholds s t) : Upholds s (heldEnd t) :=
  h.frame (heldEnd_only ..) rfl

@[mono] theorem heldBegin_upholds (h : Upholds s t) : Upholds s (heldBegin t) :=
  h.frame (heldBegin_only ..) rfl

@[mono] theorem fullEnd_upholds (complete : Bool) (h : Upholds s t) : Upholds s (fullEnd complete t) := by
  unfold fullEnd
  split <;> mono

@[mono] theorem roundEnd_upholds (h : Upholds s t) : Upholds s (roundEnd t) :=
  h.frame (roundEnd_only ..) rfl

@[mono] theorem sliceDone_upholds (full fails : Bool) (c : Nat) (h : Upholds s t) : Upholds s (sliceDone full fails c t) := by
  unfold sliceDone
  mono

end Sys2Proof.Machine
end

section
/-!
PROOFS about what every step keeps: cruise, the cores, the debugger, the landing windows and register writes.
-/
namespace Sys2Proof.Machine
-- The proofs below read the tags of the lemmas above them: they are elaborated in order.
set_option Elab.async false
variable {s t : State}

/-! ## Fabric -/

@[mono] theorem evFatal_upholds (cause init addr acc : Nat) (h : Upholds s t) : Upholds s (evFatal cause init addr acc t) := by
  unfold evFatal
  mono

theorem CoreSt.memOk_debugPoke {c : Side} {x : CoreSt} (ok : x.memOk c) (a : Nat) (v : Word) : (CoreSt.debugPoke c a v x).memOk c := by
  obtain ⟨op, live, fill⟩ := ok
  unfold CoreSt.debugPoke
  split
  · exact ⟨op, mset_wf live _ _, fill⟩
  · exact ⟨poke_wf op _ _, live, fill⟩

@[mono] theorem applyDebugWrites_upholds (h : Upholds s t) : Upholds s (applyDebugWrites t) := by
  unfold applyDebugWrites
  exact modDbg_upholds _ (foldl_upholds h fun _ _ hu => modCore_upholds hu fun _ ok => CoreSt.memOk_debugPoke ok _ _)

@[mono] theorem haltA_upholds (h : Upholds s t) : Upholds s (haltA t) := by
  unfold haltA
  dsimp only
  mono
  all_goals exact fun _ => id

@[mono] theorem haltB_upholds (h : Upholds s t) : Upholds s (haltB t) := by
  unfold haltB
  dsimp only
  mono
  all_goals exact fun _ => id

@[mono] theorem tryA_upholds (h : Upholds s t) : Upholds s (tryA t) := by
  unfold tryA
  repeat' first | mono | split
  all_goals exact fun _ => id

@[mono] theorem launch_upholds (c : Side) (h : Upholds s t) : Upholds s (launch c t) := by
  unfold launch
  dsimp only
  split
  · exact h
  · exact ite_upholds (evFatal_upholds _ _ _ _ h)
      (ackJudge_upholds _ (modCore_upholds h fun _ ⟨op, live, fill⟩ => ⟨op, fill, live⟩))

@[mono] theorem tryB_upholds (h : Upholds s t) : Upholds s (tryB t) := by
  unfold tryB
  mono
  exact fun _ => id

@[mono] theorem tryCore_upholds (c : Side) (h : Upholds s t) : Upholds s (tryCore c t) := by
  unfold tryCore
  split <;> mono

@[mono] theorem afterRankA_upholds (tab : Table) (k : Nat) (h : Upholds s t) : Upholds s (afterRankA tab k t) := by
  unfold afterRankA
  dsimp only
  repeat' first | mono | split
  all_goals exact fun _ => id

@[mono] theorem afterRankB_upholds (tab : Table) (k : Nat) (h : Upholds s t) : Upholds s (afterRankB tab k t) := by
  unfold afterRankB
  mono
  exact fun _ => id

@[mono] theorem cellCmdFault_upholds (init cell : Nat) (h : Upholds s t) : Upholds s (cellCmdFault init cell t) := by
  unfold cellCmdFault
  mono

@[mono] theorem postCells_upholds (c : Side) (h : Upholds s t) : Upholds s (postCells c t) :=
  h.frame (postCells_only ..) rfl

@[mono] theorem comparePosts_upholds (n : Nat) (cmds : List (Nat × Nat)) (h : Upholds s t) : Upholds s (comparePosts n cmds t).1 :=
  h.frame (comparePosts_only ..) rfl

@[mono] theorem takePosts_upholds (c : Side) (h : Upholds s t) : Upholds s (takePosts c t) := by
  unfold takePosts
  dsimp only
  repeat' first | mono | split | with_reducible refine foldl_upholds ?_ fun u x hu => ?_

@[mono] theorem closeSig_upholds (c : Side) (tab : Table) (h : Upholds s t) : Upholds s (closeSig c tab t) := by
  unfold closeSig
  dsimp only
  mono
  all_goals exact fun _ => id

@[mono] theorem closePeriod_upholds (c : Side) (tab : Table) (h : Upholds s t) : Upholds s (closePeriod c tab t).1 := by
  unfold closePeriod
  dsimp only
  repeat' first | mono | split
  all_goals exact fun _ => id

theorem modEv_upholds_of {f : Ev → Ev} (h : Upholds s t) (hf : s.ev.memOk → (f t.ev).memOk) : Upholds s (t.modEv f) :=
  ⟨hf, h.stores, h.rings, h.images, h.drivers⟩

@[mono] theorem closeMirror_upholds (h : Upholds s t) : Upholds s (closeMirror t) := by
  unfold closeMirror
  extract_lets a b e lag clr a' b' u
  have clears {c : Side} {x : CoreSt} (ok : x.memOk c) : (clr x).memOk c := by
    dsimp only [clr]
    split <;> split <;> exact ok
  have peaked : Upholds s u := ite_upholds (modSc_upholds _ h) h
  refine modEv_upholds_of peaked fun ok c => ?_
  cases c
  case a => exact clears (h.cores ok .a)
  case b => exact clears (h.cores ok .b)

@[mono] theorem closeSnapshots_upholds (h : Upholds s t) : Upholds s (closeSnapshots t) := by
  unfold closeSnapshots
  dsimp only
  repeat' first | mono | split | with_reducible refine foldl_upholds ?_ fun u x hu => ?_

@[mono] theorem finishStart_upholds (h : Upholds s t) : Upholds s (finishStart t) := by
  unfold finishStart
  dsimp only
  repeat' first | mono | split | with_reducible refine foldl_upholds ?_ fun u x hu => ?_

@[mono] theorem beginConfigured_upholds (h : Upholds s t) : Upholds s (beginConfigured t) := by
  unfold beginConfigured
  exact configureAxes_upholds (modPs_upholds _ (foldl_upholds (foldl_upholds (modEv_upholds h fun _ => id) fun _ _ hu =>
    ite_upholds (modInput_upholds _ _ hu) (modInput_upholds _ _ hu)) fun _ _ hu => modSource_upholds _ _ hu))

@[mono] theorem judgeTransfers_upholds (fail : BitVec 4) (h : Upholds s t) : Upholds s (judgeTransfers fail t) := by
  unfold judgeTransfers
  dsimp only
  repeat' first | mono | split | with_reducible refine foldl_upholds ?_ fun u x hu => ?_
  all_goals exact fun _ => id

@[mono] theorem sealIn_upholds (c : Side) (n : Nat) (ws : List Word × List Word) (hits : List (Nat × Word)) (cv : Word)
    (h : Upholds s t) : Upholds s (sealIn c n ws hits cv t) :=
  modCore_upholds h fun _ ⟨op, live, _⟩ => ⟨op, live, disturb_wf (bankOf_wf c ws)⟩

@[mono] theorem checkFlags_upholds (h : Upholds s t) : Upholds s (checkFlags t) := by
  unfold checkFlags
  dsimp only
  repeat' first | mono | split | with_reducible refine foldl_upholds ?_ fun u x hu => ?_

@[mono] theorem endRequests_upholds (h : Upholds s t) : Upholds s (endRequests t) :=
  foldl_upholds h fun _ _ hu => by
    split
    · exact ite_upholds hu (ite_upholds (endItem_upholds _ _ _ _ hu)
        (ite_upholds (endItem_upholds _ _ _ _ (modHport_upholds hu fun _ => id)) hu))
    · exact hu

@[mono] theorem dbgRefuse_upholds (h : Upholds s t) : Upholds s (dbgRefuse t) :=
  h.frame (dbgRefuse_only ..) rfl

@[mono] theorem debugHalt_upholds (h : Upholds s t) : Upholds s (debugHalt t) := by
  unfold debugHalt
  mono

@[mono] theorem debugResume_upholds (h : Upholds s t) : Upholds s (debugResume t) := by
  unfold debugResume
  dsimp only
  mono
  all_goals exact fun _ => id

@[mono] theorem debugStep_upholds (h : Upholds s t) : Upholds s (debugStep t) := by
  unfold debugStep
  dsimp only
  mono
  all_goals exact fun _ => id

@[mono] theorem dbgEcc_upholds (err : Option Bool) (acc : Nat) (h : Upholds s t) : Upholds s (dbgEcc err acc t) := by
  unfold dbgEcc
  split <;> mono

@[mono] theorem dbgOpdataWrite_upholds (v : Word) (err : Option Bool) (h : Upholds s t) : Upholds s (dbgOpdataWrite v err t) := by
  unfold dbgOpdataWrite
  extract_lets a d poked queued
  have queued : Upholds s queued :=
    modDbg_upholds _ (modCore_upholds (dbgEcc_upholds _ _ h) fun _ ok => CoreSt.memOk_debugPoke ok _ _)
  mono

/-! ## Debug -/

theorem throughTapA_upholds {ir : BitVec 8} {f : State → State} (h : Upholds s t) (hf : ∀ u, Upholds s u → Upholds s (f u)) :
    Upholds s (throughTapA ir f t) := ite_upholds h (hf _ (modPcr_upholds _ h))

theorem throughDebug_upholds {index : Nat} {f : State → State} (h : Upholds s t) (hf : ∀ u, Upholds s u → Upholds s (f u)) :
    Upholds s (throughDebug index f t) := throughTapA_upholds h fun _ hu => hf _ (modPcr_upholds _ hu)

@[mono] theorem debugSysreset_upholds (h : Upholds s t) : Upholds s (debugSysreset t) := by
  unfold debugSysreset
  mono

@[mono] theorem leaveExtest_upholds (ir : Two (BitVec 8)) (h : Upholds s t) : Upholds s (leaveExtest ir t) := by
  unfold leaveExtest
  mono

@[mono] theorem tapReset_upholds (h : Upholds s t) : Upholds s (tapReset t) := by
  unfold tapReset
  mono

@[mono] theorem dbgCmdWrite_upholds (v : Word) (h : Upholds s t) : Upholds s (dbgCmdWrite v t) := by
  unfold dbgCmdWrite
  split <;> mono

@[mono] theorem dbgWrite_upholds (index : Nat) (v : Word) (h : Upholds s t) : Upholds s (dbgWrite index v t) := by
  unfold dbgWrite
  dsimp only
  repeat' first | mono | split

@[mono] theorem debugWrite_upholds (index : Nat) (v : Word) (h : Upholds s t) : Upholds s (debugWrite index v t) :=
  throughDebug_upholds h fun _ hu => dbgWrite_upholds _ _ hu

@[mono] theorem dbgRead_upholds (index : Nat) (err : Option Bool) (h : Upholds s t) : Upholds s (dbgRead index err t) := by
  unfold dbgRead
  mono

@[mono] theorem debugRead_upholds (index : Nat) (err : Option Bool) (h : Upholds s t) : Upholds s (debugRead index err t) :=
  throughDebug_upholds h fun _ hu => dbgRead_upholds _ _ hu

@[mono] theorem idcodeRead_upholds (tap : Side) (h : Upholds s t) : Upholds s (idcodeRead tap t) :=
  h.frame (idcodeRead_only ..) rfl

/-! ## Rings -/

@[mono] theorem wqFault_upholds (p : Side) (cause addr acc : Nat) (h : Upholds s t) : Upholds s (wqFault p cause addr acc t) := by
  unfold wqFault
  mono

theorem doorbell_upholds {p : Side} {off : Nat} {v : Word} {ok : Nat → Bool} {f : Nat → State → State} (h : Upholds s t)
    (hf : ∀ x u, Upholds s u → Upholds s (f x u)) : Upholds s (doorbell p off v ok f t) := by
  have noted : Upholds s (if 4096 ≤ v.toNat then recordAccess .wq p off t else t) := by mono
  exact ite_upholds (hf _ _ noted) (wqFault_upholds _ _ _ _ noted)

@[mono] theorem tailDoorbell_upholds (port : Side) (n : Fin 8) (v : Word) (h : Upholds s t) : Upholds s (tailDoorbell port n v t) := by
  unfold tailDoorbell
  exact doorbell_upholds h fun _ _ hu => modSq_upholds hu

@[mono] theorem headDoorbell_upholds (port : Side) (n : Fin 8) (v : Word) (h : Upholds s t) : Upholds s (headDoorbell port n v t) := by
  unfold headDoorbell
  exact doorbell_upholds h fun _ _ hu => modCq_upholds hu

@[mono] theorem headFirst_upholds (port : Side) (k : Fin 8) (h : Upholds s t) : Upholds s (headFirst port k t) :=
  foldl_upholds h fun _ _ hu => by
    split
    · exact ite_upholds (modHp_upholds (toBlock_upholds hu (headDoorbell_upholds _ _ _ hu)) fun _ => id) hu
    · exact hu

@[mono] theorem takeSlot_upholds (p : Side) (n : Fin 8) (d : Desc) (code : Option Nat) (h : Upholds s t) :
    Upholds s (takeSlot p n d code t) := by
  unfold takeSlot
  repeat' first | mono | split
  exact fun _ => id

/-- Memories stay canonical through any number of single writes. -/
theorem foldl_mset_wf {w : Nat} {d : BitVec w} {α : Type} (addr : α → Nat) (v : α → BitVec w) (xs : List α) {m : Mem w}
    (ok : Memory.wf d m = true) : Memory.wf d (xs.foldl (fun m x => mset d m (addr x) (v x)) m) = true := by
  induction xs generalizing m with
  | nil => exact ok
  | cons x xs ih => exact ih (mset_wf ok _ _)

@[mono] theorem returnPages_upholds (p : Side) (h : Upholds s t) : Upholds s (returnPages p t) := by
  unfold returnPages
  exact modWport_upholds h fun _ ⟨landing, rem, host⟩ => ⟨foldl_mset_wf (fun k => 8 * k) (fun _ => 0) _ landing, rem, host⟩

@[mono] theorem releaseChannel_upholds (p : Side) (n : Fin 8) (h : Upholds s t) : Upholds s (releaseChannel p n t) :=
  h.frame (releaseChannel_only ..) rfl

@[mono] theorem cqSignal_upholds (p : Side) (k : Fin 8) (h : Upholds s t) : Upholds s (cqSignal p k t) := by
  unfold cqSignal
  mono

@[mono] theorem cqCount_upholds (p : Side) (k : Fin 8) (irq : Bool) (h : Upholds s t) : Upholds s (cqCount p k irq t) := by
  unfold cqCount
  mono

@[mono] theorem writePosted_upholds (p : Side) (k : Fin 8) (h : Upholds s t) : Upholds s (writePosted p k t) := by
  unfold writePosted
  mono
  exact fun _ => id

@[mono] theorem postEntry_upholds (p : Side) (n k : Fin 8) (i : Item) (code : Nat) (res : Word) (replay : Bool) (h : Upholds s t) :
    Upholds s (postEntry p n k i code res replay t) := by
  unfold postEntry
  mono

@[mono] theorem sqEnable_upholds (port : Side) (n : Fin 8) (resume : Bool) (h : Upholds s t) :
    Upholds s (sqEnable port n resume t) := by
  unfold sqEnable
  mono

@[mono] theorem sqDisable_upholds (port : Side) (n : Fin 8) (h : Upholds s t) : Upholds s (sqDisable port n t) := by
  unfold sqDisable
  mono

@[mono] theorem sqErrClear_upholds (port : Side) (n : Fin 8) (h : Upholds s t) : Upholds s (sqErrClear port n t) := by
  unfold sqErrClear
  mono

@[mono] theorem cqEnable_upholds (port : Side) (n : Fin 8) (resume : Bool) (h : Upholds s t) :
    Upholds s (cqEnable port n resume t) := by
  unfold cqEnable
  mono

@[mono] theorem landingDrop_upholds (p : Side) (page : Nat) (h : Upholds s t) : Upholds s (landingDrop p page t) := by
  unfold landingDrop
  mono
  exact fun _ => id

@[mono] theorem holdWrite_upholds (p : Side) (page off : Nat) (bytes : List Byte) (h : Upholds s t) :
    Upholds s (holdWrite p page off bytes t) := by
  unfold holdWrite
  mono
  exact fun _ => id

@[mono] theorem judgeEntry_upholds (p : Side) (page : Fin 512) (lo : Nat) (bytes : List Byte) (h : Upholds s t) :
    Upholds s (judgeEntry p page lo bytes t) := by
  unfold judgeEntry
  dsimp only
  mono
  all_goals exact fun _ => id

@[mono] theorem entryWrite_upholds (p : Side) (page : Fin 512) (lo : Nat) (bytes : List Byte) (h : Upholds s t) :
    Upholds s (entryWrite p page lo bytes t) := by
  unfold entryWrite
  mono
  exact fun _ => id

@[mono] theorem pageWrite_upholds (p : Side) (page off : Nat) (bytes : List Byte) (h : Upholds s t) :
    Upholds s (pageWrite p page off bytes t) :=
  ite_upholds (holdWrite_upholds _ _ _ _ h) (ite_upholds (landingDrop_upholds _ _ h)
    (modWport_upholds h fun _ ⟨landing, rem, host⟩ => ⟨msetList_wf landing _ _, mset_wf rem _ _, host⟩))

@[mono] theorem windowWrite_upholds (p : Side) (n off : Nat) (bytes : List Byte) (h : Upholds s t) :
    Upholds s (windowWrite p n off bytes t) := by
  induction n generalizing t off bytes with
  | zero => exact h
  | succ n ih => exact ite_upholds h (ih _ _ (ite_upholds (entryWrite_upholds _ _ _ _ h) (pageWrite_upholds _ _ _ _ h)))

@[mono] theorem hostWindowWrite_upholds (p : Side) (off : Nat) (bytes : List Byte) (h : Upholds s t) :
    Upholds s (hostWindowWrite p off bytes t) := by
  unfold hostWindowWrite
  mono

@[mono] theorem remFound_upholds (p : Side) (page : Nat) (bad : Bool) (h : Upholds s t) : Upholds s (remFound p page bad t) := by
  unfold remFound
  mono

@[mono] theorem landWrite_upholds (p : Side) (page off : Nat) (bytes : List Byte) (remBad : Bool) (h : Upholds s t) :
    Upholds s (landWrite p page off bytes remBad t) := by
  unfold landWrite
  mono
  exact fun _ => id

/-! ## RegWrite -/

@[mono] theorem cvwWrite_upholds (port : Side) (n : Fin 4) (f : Feed) (ticks : Nat) (h : Upholds s t) :
    Upholds s (cvwWrite port n f ticks t) := by
  unfold cvwWrite
  mono

@[mono] theorem cvwFeed_upholds (port : Side) (n : Fin 4) (width : Fin 3) (v : Word) (h : Upholds s t) :
    Upholds s (cvwFeed port n width v t) := by
  unfold cvwFeed
  mono

@[mono] theorem cvwCtlWrite_upholds (port : Side) (n : Fin 4) (v : Word) (h : Upholds s t) : Upholds s (cvwCtlWrite port n v t) := by
  unfold cvwCtlWrite
  mono

@[mono] theorem withReserved_upholds (b : Block) (p : Side) (off : Nat) (used v : Word) (h : Upholds s t) :
    Upholds s (withReserved b p off used v t) := by
  unfold withReserved
  mono

@[mono] theorem pgCtlWrite_upholds (p : Side) (g : Fin 16) (o : Nat) (v : Word) (h : Upholds s t) :
    Upholds s (pgCtlWrite p g o v t) := by
  unfold pgCtlWrite
  mono

@[mono] theorem cmpFlagClear_upholds (v : Word) (h : Upholds s t) : Upholds s (cmpFlagClear v t) := by
  unfold cmpFlagClear
  repeat' first | mono | split | with_reducible refine foldl_upholds ?_ fun u x hu => ?_

@[mono] theorem pgFlagClear_upholds (v : BitVec 16) (h : Upholds s t) : Upholds s (pgFlagClear v t) := by
  unfold pgFlagClear
  repeat' first | mono | split | with_reducible refine foldl_upholds ?_ fun u x hu => ?_

@[mono] theorem cmpCtlWrite_upholds (p : Side) (n : Fin 32) (o : Nat) (v : Word) (h : Upholds s t) :
    Upholds s (cmpCtlWrite p n o v t) := by
  unfold cmpCtlWrite
  mono

@[mono] theorem pcrRstWrite_upholds (p : Side) (v : Word) (h : Upholds s t) : Upholds s (pcrRstWrite p v t) := by
  unfold pcrRstWrite
  mono

@[mono] theorem cfgOwnerWrite_upholds (p : Side) (v : Word) (h : Upholds s t) : Upholds s (cfgOwnerWrite p v t) := by
  unfold cfgOwnerWrite
  mono

@[mono] theorem roWrite_upholds (p : Side) (off : Nat) (v : Word) (h : Upholds s t) : Upholds s (roWrite p off v t) := by
  unfold roWrite
  dsimp only
  repeat' first | mono | split

@[mono] theorem discardWrite_upholds (p : Side) (h : Upholds s t) : Upholds s (discardWrite p t) := by
  unfold discardWrite
  mono
  exact fun _ => id

/-- Every write that this register takes keeps what is upheld. -/
structure RegAct.Upheld (r : RegAct) : Prop where
  keeps : ∀ f, r = some f → ∀ s t, Upholds s t → Upholds s (f t)

theorem RegAct.upheld_none : RegAct.Upheld none := ⟨fun _ h => by cases h⟩

theorem RegAct.upheld_some {f : State → State} (hf : ∀ s t, Upholds s t → Upholds s (f t)) : RegAct.Upheld (some f) :=
  ⟨fun _ h => by cases h; exact hf⟩

theorem reg_upheld {b : Block} {p : Side} {o : Nat} {used v : Word} {f : State → State}
    (hf : ∀ s t, Upholds s t → Upholds s (f t)) : RegAct.Upheld (reg b p o used v f) :=
  RegAct.upheld_some fun _ _ h => withReserved_upholds _ _ _ _ _ (hf _ _ h)

theorem actReg_upheld {b : Block} {p : Side} {o : Nat} {used acts v : Word} {f : State → State}
    (hf : ∀ s t, Upholds s t → Upholds s (f t)) : RegAct.Upheld (actReg b p o used acts v f) :=
  reg_upheld fun s t h => by
    split
    · exact countRefused_upholds _ h
    · exact hf s t h

theorem frWrite_upheld (b : Block) (p : Side) (o : Nat) (v : Word) : RegAct.Upheld (frWrite b p o v) := by
  unfold frWrite
  split
  · exact actReg_upheld fun _ _ h => firstValidClear_upholds _ h
  · exact RegAct.upheld_some fun _ _ h => frQuietWrite_upholds _ _ _ h
  · exact reg_upheld fun _ _ h => modRec_upholds _ _ h
  · exact RegAct.upheld_none

theorem evWrite_upheld (p : Side) (o : Nat) (v : Word) : RegAct.Upheld (evWrite p o v) := by
  unfold evWrite
  split
  · exact actReg_upheld fun _ _ h => evClear_upholds _ _ h
  · exact RegAct.upheld_none

theorem tbWrite_upheld (p : Side) (o : Nat) (v : Word) : RegAct.Upheld (tbWrite p o v) := by
  unfold tbWrite
  dsimp only
  split
  · exact actReg_upheld fun _ _ h => cmpFlagClear_upholds _ h
  · exact actReg_upheld fun _ _ h => pgFlagClear_upholds _ h
  · exact RegAct.upheld_some fun _ _ h => modTb_upholds _ h
  · exact RegAct.upheld_some fun _ _ h => modTb_upholds _ h
  · exact actReg_upheld fun _ _ h => pgGo_upholds _ _ h
  · exact reg_upheld fun _ _ h => modTb_upholds _ h
  · split
    · split
      · exact RegAct.upheld_some fun _ _ h => cmpLoWrite_upholds _ _ h
      · exact RegAct.upheld_some fun _ _ h => cmpHiWrite_upholds _ _ h
      · exact RegAct.upheld_some fun _ _ h => cmpCtlWrite_upholds _ _ _ _ h
      · exact RegAct.upheld_none
    · split
      · split
        · exact RegAct.upheld_some fun _ _ h => pgCtlWrite_upholds _ _ _ _ h
        · exact RegAct.upheld_some fun _ _ h => pgReloadWrite_upholds _ _ _ h
        · exact RegAct.upheld_none
      · split
        · split
          · exact RegAct.upheld_some fun _ _ h => capCtlWrite_upholds _ _ _ h
          · exact actReg_upheld fun _ _ h => modCap_upholds _ _ h
          · exact RegAct.upheld_none
        · exact RegAct.upheld_none

theorem hpWrite_upheld (p : Side) (o : Nat) (v : Word) : RegAct.Upheld (hpWrite p o v) := by
  unfold hpWrite
  split
  · exact reg_upheld fun _ _ h => modHport_upholds h fun _ => id
  · exact RegAct.upheld_none

theorem plWrite_upheld (p : Side) (o : Nat) (v : Word) : RegAct.Upheld (plWrite p o v) := by
  unfold plWrite
  dsimp only
  split
  · exact reg_upheld fun _ _ h => modPl_upholds _ h
  · exact actReg_upheld fun _ _ h => modPl_upholds _ h
  · split
    · exact RegAct.upheld_some fun _ _ h => modPlPort_upholds _ _ h
    · split
      · exact reg_upheld fun _ _ h => modPlPort_upholds _ _ h
      · exact RegAct.upheld_none

theorem cvWrite_upheld (p : Side) (o : Nat) (v : Word) : RegAct.Upheld (cvWrite p o v) := by
  unfold cvWrite
  dsimp only
  split
  · split
    · exact RegAct.upheld_some fun _ _ h => cvwCtlWrite_upholds _ _ _ h
    · exact RegAct.upheld_some fun _ _ h => cvwWrite_upholds _ _ _ _ h
    · exact RegAct.upheld_some fun _ _ h => cvwFeed_upholds _ _ _ _ h
    · exact RegAct.upheld_some fun _ _ h => cvwFeed_upholds _ _ _ _ h
    · exact RegAct.upheld_some fun _ _ h => cvwFeed_upholds _ _ _ _ h
    · exact RegAct.upheld_none
  · exact RegAct.upheld_none

theorem pcrWrite_upheld (p : Side) (o : Nat) (v : Word) : RegAct.Upheld (pcrWrite p o v) := by
  unfold pcrWrite
  split
  · refine RegAct.upheld_some fun s t h => ?_
    dsimp only
    mono
  · exact RegAct.upheld_some fun _ _ h => pcrRstWrite_upholds _ _ h
  · exact RegAct.upheld_none

theorem blockWrite_upheld (b : Block) (p : Side) (o : Nat) (v : Word) : RegAct.Upheld (blockWrite b p o v) := by
  unfold blockWrite
  split
  · exact frWrite_upheld ..
  split
  · split
    · exact reg_upheld fun _ _ h => modIb_upholds _ h
    · exact RegAct.upheld_none
  · split
    · exact reg_upheld fun _ _ h => modAf_upholds _ h
    · exact RegAct.upheld_none
  · split
    · exact reg_upheld fun _ _ h => modMs_upholds h fun _ => id
    · exact RegAct.upheld_none
  · exact evWrite_upheld ..
  · exact tbWrite_upheld ..
  · exact hpWrite_upheld ..
  · exact plWrite_upheld ..
  · exact cvWrite_upheld ..
  · exact pcrWrite_upheld ..
  all_goals exact RegAct.upheld_none

theorem locked_upholds {p : Side} {en : Bool} {f : State → State} (h : Upholds s t) (hf : Upholds s (f t)) :
    Upholds s (locked p en f t) :=
  ite_upholds (countRefused_upholds _ h) hf

theorem sqWrite_upheld (p : Side) (n : Fin 8) (r : Nat) (v : Word) : RegAct.Upheld (sqWrite p n r v) := by
  have put (o : Nat) (used : Word) (f : Sq → Sq) : RegAct.Upheld (some fun s : State =>
      locked p (s.sq p n).en (fun s => withReserved .wq p o used v (s.modSq p n f)) s) :=
    RegAct.upheld_some fun _ _ h => locked_upholds h (withReserved_upholds _ _ _ _ _ (modSq_upholds h))
  unfold sqWrite
  dsimp only
  split
  · exact put ..
  · exact put ..
  · refine RegAct.upheld_some fun s t h => locked_upholds h ?_
    mono
  · refine reg_upheld fun s t h => ?_
    have cleared : Upholds s (if v.getLsbD 2 = true then sqErrClear p n t else t) := by mono
    exact ite_upholds (sqEnable_upholds _ _ _ cleared) (sqDisable_upholds _ _ cleared)
  · exact put ..
  · exact RegAct.upheld_none

theorem cqWrite_upheld (p : Side) (n : Fin 8) (r : Nat) (v : Word) : RegAct.Upheld (cqWrite p n r v) := by
  have put (o : Nat) (used : Word) (f : Cq → Cq) : RegAct.Upheld (some fun s : State =>
      locked p (s.cq p n).en (fun s => withReserved .wq p o used v (s.modCq p n f)) s) :=
    RegAct.upheld_some fun _ _ h => locked_upholds h (withReserved_upholds _ _ _ _ _ (modCq_upholds h))
  unfold cqWrite
  dsimp only
  split
  · exact put ..
  · exact put ..
  · exact reg_upheld fun _ _ h => modCq_upholds h
  · exact RegAct.upheld_some fun _ _ h => modCq_upholds h
  · refine RegAct.upheld_some fun s t h => locked_upholds h ?_
    mono
  · exact reg_upheld fun _ _ h => ite_upholds (cqEnable_upholds _ _ _ h) (modCq_upholds h)
  · exact put ..
  · exact RegAct.upheld_none

theorem bar0Write_upheld (p : Side) (off : Nat) (v : Word) : RegAct.Upheld (bar0Write p off v) := by
  unfold bar0Write
  split
  · split
    · exact RegAct.upheld_some fun _ _ h => cfgOwnerWrite_upholds _ _ h
    · exact RegAct.upheld_none
  split
  · cases Block.ofId (off / 0x1000) with
    | none => exact RegAct.upheld_none
    | some b => exact blockWrite_upheld ..
  split
  · exact sqWrite_upheld ..
  split
  · exact cqWrite_upheld ..
  split
  · exact RegAct.upheld_some fun _ _ h => by
      split
      · exact tailDoorbell_upholds _ _ _ h
      · exact headDoorbell_upholds _ _ _ h
  split
  · unfold msixWrite
    split
    · exact RegAct.upheld_some fun _ _ h => flushPending_upholds _ (modHport_upholds h fun _ => id)
    · exact RegAct.upheld_none
  · exact RegAct.upheld_none

@[mono] theorem regWriteAct_upholds (p : Side) (off : Nat) (v : Word) (kind : WriteKind) (h : Upholds s t) :
    Upholds s (regWriteAct p off v kind t) := by
  unfold regWriteAct
  cases kind
  case poisoned => exact recordPoisoned_upholds _ h
  case partialBytes => exact recordAccess_upholds _ _ _ (discardWrite_upholds _ h)
  case whole =>
    refine ite_upholds (discardWrite_upholds _ h) (ite_upholds (recordAccess_upholds _ _ _ (discardWrite_upholds _ h)) ?_)
    split
    · next f write => exact (bar0Write_upheld ..).keeps f write _ _ h
    · exact roWrite_upholds _ _ _ h

@[mono] theorem configWrite_upholds (p : Side) (r : CfgReg) (v : Word) (kind : WriteKind) (h : Upholds s t) :
    Upholds s (configWrite p r v kind t) := by
  unfold configWrite
  repeat' first | mono | split
  all_goals exact fun _ => id

@[mono] theorem hostReadAct_upholds (p : Side) (off : Nat) (h : Upholds s t) : Upholds s (hostReadAct p off t) := by
  unfold hostReadAct
  mono

@[mono] theorem windowRead_upholds (p : Side) (off : Nat) (h : Upholds s t) : Upholds s (windowRead p off t) := by
  unfold windowRead
  mono
  exact fun _ => id

@[mono] theorem heldAccess_upholds (p : Side) (e : Nat × Option (List Byte × Bool)) (h : Upholds s t) :
    Upholds s (heldAccess p e t) := by
  unfold heldAccess
  split <;> mono

@[mono] theorem marchRelease_upholds (p : Side) (h : Upholds s t) : Upholds s (marchRelease p t) :=
  ite_upholds h (foldl_upholds (modWport_upholds h fun _ => id) fun _ _ hu => heldAccess_upholds _ _ hu)

end Sys2Proof.Machine
end

section
/-!
PROOFS about what every step keeps: each command.
-/
namespace Sys2Proof.Machine
variable {s t : State}

section
-- The proofs below read the tags of the lemmas above them: they are elaborated in order.
set_option Elab.async false

/-- The state a command answers, if it answers one, upholds. -/
def UpholdsO (s : State) : Host.Outcome State Fault Refusal → Prop
  | .next t => Upholds s t
  | _ => True

@[mono] theorem next_upholds (h : Upholds s t) : UpholdsO s (.next t) := h

@[mono] theorem ite_upholdsO {c : Prop} [Decidable c] {o o' : Host.Outcome State Fault Refusal} (h : UpholdsO s o)
    (h' : UpholdsO s o') :
    UpholdsO s (if c then o else o') := by
  split <;> assumption

theorem OnlyO.upholds {m : Nat} {o : Host.Outcome State Fault Refusal} (h : OnlyO m s o) (free : m &&& 320002 = 0) : UpholdsO s o := by
  cases o
  case next => exact (Upholds.refl s).frame h free
  all_goals trivial

@[mono] theorem runItem_upholds {p : Side} {n : Fin 8} {c : Option Nat} {f : State → State} (h : Upholds s t) (hf : Upholds s (f t)) :
    Upholds s (runItem p n c f t) := by
  unfold runItem
  split
  · exact endItem_upholds _ _ _ _ h
  · exact hf

@[mono] theorem registerWrite_upholds (target : Target) (v : BitVec 32) (kind : WriteKind) (h : Upholds s t) :
    Upholds s (registerWrite target v kind t) := by
  cases target with
  | bar0 => exact fromPort_upholds h (regWriteAct_upholds _ _ _ _ h)
  | debug => exact debugWrite_upholds _ _ h
  | config => exact fromPort_upholds h (configWrite_upholds _ _ _ _ h)

theorem blockHostWrite_upholds {p : Side} {b : Block} {o : Nat} {f : State → State} {w : HostWrite}
    (hw : blockHostWrite p b o f = some w)
    (h : Upholds s t) (hf : ∀ u, Upholds s u → Upholds s (f u)) : Upholds s (w.act t) := by
  cases hw
  exact toBlock_upholds h (hf _ h)

theorem hostWriteOf_upholds {i : Instr} {w : HostWrite} (hw : hostWriteOf i = some w) (h : Upholds s t) : Upholds s (w.act t) := by
  cases i
  case pgReloadWrite => exact blockHostWrite_upholds hw h fun _ hu => pgReloadWrite_upholds _ _ _ hu
  case pgNow => exact blockHostWrite_upholds hw h fun _ hu => pgNow_upholds _ _ hu
  case pgEnable => exact blockHostWrite_upholds hw h fun _ hu => pgEnable_upholds _ _ _ hu
  case pgGo => exact blockHostWrite_upholds hw h fun _ hu => pgGo_upholds _ _ hu
  case cmpLoWrite => exact blockHostWrite_upholds hw h fun _ hu => cmpLoWrite_upholds _ _ hu
  case cmpHiWrite => exact blockHostWrite_upholds hw h fun _ hu => cmpHiWrite_upholds _ _ hu
  case cmpEnable => exact blockHostWrite_upholds hw h fun _ hu => cmpEnable_upholds _ _ hu
  case capCtlWrite => exact blockHostWrite_upholds hw h fun _ hu => capCtlWrite_upholds _ _ _ hu
  case firstValidClear => exact blockHostWrite_upholds hw h fun _ hu => firstValidClear_upholds _ hu
  case frQuietWrite => exact blockHostWrite_upholds hw h fun _ hu => frQuietWrite_upholds _ _ _ hu
  case peakClr => exact blockHostWrite_upholds hw h fun _ hu => evClear_upholds _ _ hu
  case malfClr => exact blockHostWrite_upholds hw h fun _ hu => evClear_upholds _ _ hu
  case pcrRstArm => exact blockHostWrite_upholds hw h fun _ hu => pcrRstArm_upholds _ hu
  case pcrRstReset => exact blockHostWrite_upholds hw h fun _ hu => pcrRstReset_upholds _ _ hu
  case cvwCtlWrite => exact blockHostWrite_upholds hw h fun _ hu => cvwCtlWrite_upholds _ _ _ hu
  case cvwValWrite => exact blockHostWrite_upholds hw h fun _ hu => cvwWrite_upholds _ _ _ _ hu
  case cvwFeed => exact blockHostWrite_upholds hw h fun _ hu => cvwFeed_upholds _ _ _ _ hu
  case cfgClaim => cases hw; exact fromPort_upholds h (cfgClaim_upholds _ _ h)
  case cfgRelease => cases hw; exact fromPort_upholds h (cfgRelease_upholds _ _ h)
  case registerWrite target v kind =>
    cases target with
    | bar0 p off =>
      rw [hostWriteOf_registerWrite_bar0] at hw
      split at hw
      · cases hw
        exact fromPort_upholds h (regWriteAct_upholds _ _ _ _ h)
      · cases hw
    | config => cases hw
    | debug => cases hw
  all_goals cases hw

@[mono] theorem inOrder_upholds (i : Instr) (h : Upholds s t) : Upholds s (inOrder i t) :=
  inOrder_keeps (P := Upholds s) hostWriteOf_upholds (fun hu => modHp_upholds hu fun _ => id) i h

end

/-! ## Inputs -/

theorem execThrHandover_upholds (i : Fin 128) : UpholdsO s (execThrHandover i s) :=
  (execThrHandover_only ..).upholds rfl
theorem execThrHandoverTimeout_upholds (i : Fin 128) : UpholdsO s (execThrHandoverTimeout i s) := by
  unfold execThrHandoverTimeout
  split <;> mono

theorem execComparatorDisagree_upholds (i : Fin 128) : UpholdsO s (execComparatorDisagree i s) := by
  unfold execComparatorDisagree
  mono

theorem execInputChange_upholds (i : Fin 128) (high chk : Bool) (zone : VoltZone) :
    UpholdsO s (execInputChange i high chk zone s) := by
  unfold execInputChange
  extract_lets x c sensed banded u risen
  have told : Upholds s u := by
    dsimp only [u, banded, sensed]
    mono
  refine ite_upholds told (ite_upholds (modInput_upholds _ _ told) ?_)
  split
  · exact settleInput_upholds _ (lowEnds_upholds _ _ (markPartner_upholds _ _ (modInput_upholds _ _ told)))
  · exact settleInput_upholds _ (modInput_upholds _ _ told)

theorem execInputFilterExpiry_upholds (i : Fin 128) : UpholdsO s (execInputFilterExpiry i s) :=
  (execInputFilterExpiry_only ..).upholds rfl

theorem execOssdBridgeRelease_upholds (i : Fin 128) : UpholdsO s (execOssdBridgeRelease i s) :=
  (execOssdBridgeRelease_only ..).upholds rfl

theorem execOssdGapExpiry_upholds (i : Fin 128) : UpholdsO s (execOssdGapExpiry i s) :=
  (execOssdGapExpiry_only ..).upholds rfl

theorem execTpSeenExpiry_upholds (i : Fin 128) : UpholdsO s (execTpSeenExpiry i s) :=
  (execTpSeenExpiry_only ..).upholds rfl
theorem execBand_upholds (i : Fin 128) : UpholdsO s (execBand i s) := by
  unfold execBand
  mono

theorem execOvervolt_upholds (i : Fin 128) : UpholdsO s (execOvervolt i s) := by
  unfold execOvervolt
  mono

theorem execPg00Release_upholds : UpholdsO s (execPg00Release s) :=
  (execPg00Release_only ..).upholds rfl
theorem execDipWindowOpen_upholds (src : Fin 32) (dip : Fin 8) (late : Bool) : UpholdsO s (execDipWindowOpen src dip late s) := by
  unfold execDipWindowOpen
  dsimp only
  repeat' first | mono | split | with_reducible refine foldl_upholds ?_ fun u x hu => ?_

theorem execDipOffEnd_upholds (src : Fin 32) (high : Bool) (late : Bool) : UpholdsO s (execDipOffEnd src high late s) := by
  unfold execDipOffEnd
  dsimp only
  split <;> mono

theorem execDipWindowEnd_upholds (src : Fin 32) : UpholdsO s (execDipWindowEnd src s) := by
  unfold execDipWindowEnd
  dsimp only
  repeat' first | mono | split | with_reducible refine foldl_upholds ?_ fun u x hu => ?_

theorem execSrcOverload_upholds (src : Fin 32) (from_ : Tick) : UpholdsO s (execSrcOverload src from_ s) := by
  unfold execSrcOverload
  mono

theorem execSrcRetry_upholds (src : Fin 32) (persists late : Bool) : UpholdsO s (execSrcRetry src persists late s) := by
  unfold execSrcRetry
  split <;> mono

/-! ## Axes -/

theorem execEncoderEdge_upholds (a : Fin 64) (p : Fin 2) (quad : Fin 4) : UpholdsO s (execEncoderEdge a p quad s) := by
  unfold execEncoderEdge
  mono

theorem execMeasurementInstant_upholds (done : BitVec 4) (samples spares : List AxisSample) :
    UpholdsO s (execMeasurementInstant done samples spares s) := by
  unfold execMeasurementInstant
  dsimp only
  repeat' first | mono | split | with_reducible refine foldl_upholds ?_ fun u x hu => ?_

theorem execAxisBufferSwap_upholds (q : Fin 4) : UpholdsO s (execAxisBufferSwap q s) :=
  (execAxisBufferSwap_only ..).upholds rfl
theorem execLevel_upholds (a : Fin 64) : UpholdsO s (execLevel a s) := by
  unfold execLevel
  mono

theorem execLevelRestore_upholds (a : Fin 64) : UpholdsO s (execLevelRestore a s) :=
  (execLevelRestore_only ..).upholds rfl
theorem execAdcClock_upholds (q : Fin 4) : UpholdsO s (execAdcClock q s) := by
  unfold execAdcClock
  dsimp only
  repeat' first | mono | split | with_reducible refine foldl_upholds ?_ fun u x hu => ?_

theorem execCalibrationPass_upholds (q : Fin 4) (ofsS ofsC gainS gainC : Int) :
    UpholdsO s (execCalibrationPass q ofsS ofsC gainS gainC s) := by
  unfold execCalibrationPass
  mono

theorem execCalHandover_upholds (q : Fin 4) : UpholdsO s (execCalHandover q s) := by
  unfold execCalHandover
  split <;> mono

theorem execCalHandoverTimeout_upholds (q : Fin 4) : UpholdsO s (execCalHandoverTimeout q s) := by
  unfold execCalHandoverTimeout
  split <;> mono

theorem execCalibrationWrite_upholds : UpholdsO s (execCalibrationWrite s) := by
  refine ite_upholds (modStores_upholds (.refl s) fun _ x ok => Store.memOk_wearRange ?_ _ _) (.refl s)
  exact ok

/-! ## Compare -/

theorem execKerfSignature_upholds (half core : Side) (hitT hitC : BitVec 64) :
    UpholdsO s (execKerfSignature half core hitT hitC s) := by
  unfold execKerfSignature
  dsimp only
  repeat' first | mono | split

theorem execKerfLate_upholds (half : Side) : UpholdsO s (execKerfLate half s) := by
  unfold execKerfLate
  dsimp only
  repeat' first | mono | split

theorem execCopyCheckPass_upholds (die : Side) (bad : List (Fin 14 × Fin 32)) : UpholdsO s (execCopyCheckPass die bad s) := by
  unfold execCopyCheckPass
  dsimp only
  repeat' first | mono | split | with_reducible refine foldl_upholds ?_ fun u x hu => ?_

/-! ## Power -/

theorem execVlUndervoltage_upholds (side : Side) (mv : BitVec 16) (tearA tearB : Tear) :
    UpholdsO s (execVlUndervoltage side mv tearA tearB s) := by
  unfold execVlUndervoltage
  mono

theorem execVlOvervoltage_upholds (side : Side) (mv : BitVec 16) : UpholdsO s (execVlOvervoltage side mv s) := by
  unfold execVlOvervoltage
  mono

theorem execVlRange_upholds (side : Side) (mv : BitVec 16) : UpholdsO s (execVlRange side mv s) := by
  unfold execVlRange
  mono

theorem execVlRestore_upholds (side : Side) (mv : BitVec 16) : UpholdsO s (execVlRestore side mv s) := by
  unfold execVlRestore
  mono

theorem execVfLoss_upholds (q : Fin 4) (mv : BitVec 16) : UpholdsO s (execVfLoss q mv s) := by
  unfold execVfLoss
  mono

theorem execVfOver_upholds (q : Fin 4) (mv : BitVec 16) : UpholdsO s (execVfOver q mv s) := by
  unfold execVfOver
  mono

theorem execVfRestore_upholds (q : Fin 4) (mv : BitVec 16) : UpholdsO s (execVfRestore q mv s) :=
  (execVfRestore_only ..).upholds rfl
theorem execBakFail_upholds (mv : BitVec 16) : UpholdsO s (execBakFail mv s) := by
  unfold execBakFail
  mono

theorem execBakEdgeTimeout_upholds : UpholdsO s (execBakEdgeTimeout s) := by
  unfold execBakEdgeTimeout
  mono

theorem execPowerOnReset_upholds : UpholdsO s (execPowerOnReset s) := by
  unfold execPowerOnReset
  mono

theorem execPorRelease_upholds (strap : Bool) : UpholdsO s (execPorRelease strap s) := by
  unfold execPorRelease
  mono

theorem execClockSteady_upholds (clk : ClockName) : UpholdsO s (execClockSteady clk s) := by
  unfold execClockSteady
  extract_lets u
  have freed : Upholds s u := by
    dsimp only [u]
    mono
  clear_value u
  show Upholds s _
  cases clk with
  | tb => exact ite_upholds (tbReleased_upholds freed) freed
  | str d => exact ite_upholds (causeAbsent_upholds _ _ _ (modPcr_upholds _ freed)) freed
  | adc q => exact ite_upholds (modPcr_upholds _ freed) freed
  | plk => exact ite_upholds (foldl_upholds (modPl_upholds _ (modPcr_upholds _ freed)) fun _ _ hu => causeAbsent_upholds _ _ _ hu) freed
  | hp p =>
    refine ite_upholds freed (causeAbsent_upholds _ _ _ ?_)
    exact ite_upholds (modPcr_upholds _ freed) (modHport_upholds (modPcr_upholds _ freed) fun _ => id)

theorem execClkMon_upholds (clk : MonClock) : UpholdsO s (execClkMon clk s) := by
  unfold execClkMon
  dsimp only
  repeat' first | mono | split

theorem execPlkLock_upholds : UpholdsO s (execPlkLock s) := by
  unfold execPlkLock
  dsimp only
  repeat' first | mono | split | with_reducible refine foldl_upholds ?_ fun u x hu => ?_

theorem execPortClock_upholds (port : Side) : UpholdsO s (execPortClock port s) := by
  unfold execPortClock
  mono
  exact fun _ => id

theorem execStrClock_upholds (side : Side) : UpholdsO s (execStrClock side s) := by
  unfold execStrClock
  mono
  exact fun _ => id

theorem execSoscFail_upholds (side : Side) (stops : Bool) : UpholdsO s (execSoscFail side stops s) := by
  unfold execSoscFail
  mono

theorem execTbFreqWindow_upholds : UpholdsO s (execTbFreqWindow s) := by
  unfold execTbFreqWindow
  mono

theorem execTbCheck_upholds (drift : Int) (pair : Option (BitVec 64 × BitVec 64)) : UpholdsO s (execTbCheck drift pair s) := by
  unfold execTbCheck
  dsimp only
  repeat' first | mono | split

theorem execFatalQuietExpiry_upholds : UpholdsO s (execFatalQuietExpiry s) := by
  unfold execFatalQuietExpiry
  mono

theorem execResetNAssert_upholds (tearA tearB : Tear) : UpholdsO s (execResetNAssert tearA tearB s) := by
  unfold execResetNAssert
  mono

theorem execResetNRelease_upholds : UpholdsO s (execResetNRelease s) := by
  unfold execResetNRelease
  mono

theorem execSoscWdog_upholds (_side : Side) : UpholdsO s (execSoscWdog _side s) := by
  unfold execSoscWdog
  mono

theorem execStartLimit_upholds : UpholdsO s (execStartLimit s) := by
  unfold execStartLimit
  mono

theorem execPcrRstArmTimeout_upholds : UpholdsO s (execPcrRstArmTimeout s) := by
  unfold execPcrRstArmTimeout
  split <;> mono

theorem execIdentityRead_upholds : UpholdsO s (execIdentityRead s) := by
  refine ite_upholds ?_ (.refl s)
  extract_lets a b
  have judged : Upholds s b := by
    dsimp only [b, a]
    mono
  clear_value b
  refine ite_upholds judged ?_
  extract_lets
  rename_i x y read new old u v w
  have merged : Upholds s u := by
    dsimp only [u, read]
    mono
  have strapped : Upholds s v := by
    clear_value u
    dsimp only [v]
    mono
  clear_value v
  exact modPcr_upholds _ (strapped.trans ⟨id, id, id, id, id⟩)

/-! ## Outputs -/

theorem execBowStopState_upholds (out : Fin 144) (side : Side) : UpholdsO s (execBowStopState out side s) := by
  unfold execBowStopState
  dsimp only
  split <;> mono

theorem execBowHoldTimeout_upholds (out : Fin 144) (side : Side) : UpholdsO s (execBowHoldTimeout out side s) := by
  unfold execBowHoldTimeout
  dsimp only
  split <;> mono

theorem execSwitchClosed_upholds (out : Fin 144) (side : Side) : UpholdsO s (execSwitchClosed out side s) := by
  unfold execSwitchClosed
  mono

theorem execBowMismatch_upholds (out : Fin 144) (side : Side) : UpholdsO s (execBowMismatch out side s) := by
  unfold execBowMismatch
  mono

theorem execOverload_upholds (out : Fin 144) (from_ : Tick) : UpholdsO s (execOverload out from_ s) := by
  unfold execOverload
  mono

theorem execShort_upholds (out : Fin 144) (iH iL : Nat) (from_ : Tick) : UpholdsO s (execShort out iH iL from_ s) := by
  unfold execShort
  mono

theorem execOpenLoad_upholds (out : Fin 144) (iL : Nat) (from_ : Tick) : UpholdsO s (execOpenLoad out iL from_ s) := by
  unfold execOpenLoad
  mono

theorem execAuxSum_upholds (q : Fin 4) (sum : Nat) (from_ : Tick) : UpholdsO s (execAuxSum q sum from_ s) := by
  unfold execAuxSum
  mono

theorem execNoOutput_upholds (out : Fin 144) (hi limited : Bool) : UpholdsO s (execNoOutput out hi limited s) := by
  unfold execNoOutput
  mono

theorem execOvertemp_upholds (q : Fin 4) (from_ : Tick) : UpholdsO s (execOvertemp q from_ s) := by
  unfold execOvertemp
  mono

theorem execOvertempClear_upholds (q : Fin 4) : UpholdsO s (execOvertempClear q s) :=
  (execOvertempClear_only ..).upholds rfl
theorem execStaticCheckStart_upholds (q : Fin 4) : UpholdsO s (execStaticCheckStart q s) := by
  unfold execStaticCheckStart
  dsimp only
  repeat' first | mono | split | with_reducible refine foldl_upholds ?_ fun u x hu => ?_
  all_goals exact fun _ => id

theorem execResidual_upholds (out : Fin 144) (r : OutSense) : UpholdsO s (execResidual out r s) := by
  unfold execResidual
  mono

theorem execDarkTestDue_upholds (out : Fin 144) : UpholdsO s (execDarkTestDue out s) := by
  unfold execDarkTestDue
  mono

theorem execDarkForce_upholds (out : Fin 144) : UpholdsO s (execDarkForce out s) := by
  unfold execDarkForce
  repeat' first | mono | split
  exact fun _ => id

theorem execDarkWindowStart_upholds (q : Fin 4) : UpholdsO s (execDarkWindowStart q s) := by
  unfold execDarkWindowStart
  repeat' first | mono | split
  exact fun _ => id

theorem execDarkWindowEnd_upholds (q : Fin 4) (hi : Bool) (lo : Bool) (hLow : Bool) (iL : Nat) :
    UpholdsO s (execDarkWindowEnd q hi lo hLow iL s) := by
  unfold execDarkWindowEnd
  repeat' first | mono | split
  all_goals exact fun _ => id

/-! ## Links -/

theorem execLinkSignalPresent_upholds (n : Fin 4) : UpholdsO s (execLinkSignalPresent n s) := by
  unfold execLinkSignalPresent
  mono

theorem execLinkSignalLoss_upholds (n : Fin 4) : UpholdsO s (execLinkSignalLoss n s) := by
  unfold execLinkSignalLoss
  dsimp only
  split <;> mono

theorem execLinkAligned_upholds (n : Fin 4) : UpholdsO s (execLinkAligned n s) := by
  unfold execLinkAligned
  mono

theorem execTuneTimeout_upholds (n : Fin 4) : UpholdsO s (execTuneTimeout n s) := by
  unfold execTuneTimeout
  mono

theorem execLostExpiry_upholds (n : Fin 4) : UpholdsO s (execLostExpiry n s) := by
  unfold execLostExpiry
  mono

theorem execDetachWindowExpiry_upholds (n : Fin 4) : UpholdsO s (execDetachWindowExpiry n s) :=
  (execDetachWindowExpiry_only ..).upholds rfl
theorem execLinkCycle_upholds (n : Fin 4) : UpholdsO s (execLinkCycle n s) := by
  unfold execLinkCycle
  dsimp only
  repeat' first | mono | split

theorem execLinkWatchdog_upholds (n : Fin 4) : UpholdsO s (execLinkWatchdog n s) := by
  unfold execLinkWatchdog
  mono

theorem execFrameReceived_upholds (n : Fin 4) (framed : Bool) (bytes : List Byte) :
    UpholdsO s (execFrameReceived n framed bytes s) := by
  unfold execFrameReceived
  dsimp only
  repeat' first | mono | split

/-! ## Items -/

theorem execAckTimeout_upholds : UpholdsO s (execAckTimeout s) := by
  unfold execAckTimeout
  split <;> mono

theorem execNop_upholds (port : Side) (n : Fin 8) : UpholdsO s (execNop port n s) := by
  unfold execNop
  split <;> mono

theorem execFence_upholds (port : Side) (n : Fin 8) : UpholdsO s (execFence port n s) := by
  unfold execFence
  dsimp only
  repeat' first | mono | split

theorem execTableStage_upholds (port : Side) (n : Fin 8) : UpholdsO s (execTableStage port n s) := by
  unfold execTableStage
  show Upholds s _
  split
  · exact .refl s
  · next d begins =>
    refine runItem_upholds (.refl s) (ite_upholds (.refl s) (endItem_upholds _ _ _ _
        (modStaging_upholds ?_ fun _ _ kept => msetList_wf ?_ _ _)))
    · refine foldl_upholds (beginTimed_upholds _ _ _ _ (.refl s)) fun u i hu => modStore_upholds hu fun x ok => ?_
      split
      · exact Store.memOk_wearRange (Store.memOk_wearRange ok _ _) _ _
      · exact Store.memOk_wearRange ok _ _
    · split
      · rfl
      · exact kept

theorem execTableVerify_upholds (port : Side) (n : Fin 8) : UpholdsO s (execTableVerify port n s) := by
  unfold execTableVerify
  show Upholds s _
  split
  · exact .refl s
  · next d begins =>
    refine runItem_upholds (.refl s) (ite_upholds (.refl s) ?_)
    extract_lets r held staged ended
    have kept : Upholds s ended :=
      endItem_upholds _ _ _ _ (beginItem_upholds _ _ _ _ (modStaging_upholds
          (holdChannel_upholds _ _ _ _ (verifySnoop_upholds _ (.refl s))) fun _ _ => id))
    clear_value ended
    split
    · exact storeFail_upholds _ _ kept
    · exact kept

theorem execTableCommit_upholds (port : Side) (n : Fin 8) : UpholdsO s (execTableCommit port n s) := by
  unfold execTableCommit
  dsimp only
  repeat' first | mono | split

theorem execModeReq_upholds (port : Side) (n : Fin 8) : UpholdsO s (execModeReq port n s) := by
  unfold execModeReq
  repeat' first | mono | split
  exact fun _ => id

theorem execResetReq_upholds (port : Side) (n : Fin 8) : UpholdsO s (execResetReq port n s) := by
  unfold execResetReq
  repeat' first | mono | split
  exact fun _ => id

theorem execHresetExpiry_upholds (port : Side) (n : Fin 8) : UpholdsO s (execHresetExpiry port n s) := by
  unfold execHresetExpiry
  mono
  exact fun _ => id

theorem execSnapshot_upholds (port : Side) (n : Fin 8) : UpholdsO s (execSnapshot port n s) := by
  unfold execSnapshot
  split <;> mono

theorem execTallyRead_upholds (port : Side) (n : Fin 8) : UpholdsO s (execTallyRead port n s) := by
  unfold execTallyRead
  split <;> mono

theorem execLogRead_upholds (port : Side) (n : Fin 8) : UpholdsO s (execLogRead port n s) := by
  unfold execLogRead
  split <;> mono

theorem execLinkSend_upholds (port : Side) (n : Fin 8) : UpholdsO s (execLinkSend port n s) := by
  unfold execLinkSend
  split <;> mono

theorem execLinkDetach_upholds (port : Side) (n : Fin 8) : UpholdsO s (execLinkDetach port n s) := by
  unfold execLinkDetach
  split <;> mono

theorem execCvJob_upholds (port : Side) (n : Fin 8) : UpholdsO s (execCvJob port n s) := by
  unfold execCvJob
  split <;> mono

theorem execFullTest_upholds (port : Side) (n : Fin 8) : UpholdsO s (execFullTest port n s) := by
  unfold execFullTest
  split <;> mono

theorem execLcSet_upholds (port : Side) (n : Fin 8) : UpholdsO s (execLcSet port n s) := by
  unfold execLcSet
  dsimp only
  repeat' first | mono | split

theorem execStoreWrite_upholds (port : Side) (n : Fin 8) : UpholdsO s (execStoreWrite port n s) := by
  unfold execStoreWrite
  show Upholds s _
  split
  · exact .refl s
  · next d begins =>
    refine runItem_upholds (.refl s) (ite_upholds (.refl s) (endItem_upholds _ _ _ _
        (modStores_upholds (beginTimed_upholds _ _ _ _ (.refl s))
      fun _ x ok => Store.memOk_wearRange (x := { x with user := _ }) ?_ _ _)))
    exact ⟨ok.1, ok.2.1, msetList_wf ok.2.2 _ _⟩

theorem execStoreRead_upholds (port : Side) (n : Fin 8) : UpholdsO s (execStoreRead port n s) := by
  unfold execStoreRead
  split <;> mono

/-! ## Start -/

theorem Store.memOk_dropBroken {i : Side} {x : Store} (ok : x.memOk) : (x.dropBroken i).memOk := by
  unfold Store.dropBroken
  split
  · split
    · exact ok
    · exact ok
  · exact ok

theorem execJournalReplay_upholds (bad : List (Side × Nat)) : UpholdsO s (execJournalReplay bad s) := by
  refine ite_upholds ?_ (.refl s)
  extract_lets hurt rs newest dropped built next noted done
  have damaged : Upholds s hurt := foldl_upholds (.refl s) fun _ _ hu => damageRecord_upholds _ hu
  clear_value hurt
  have cleaned : Upholds s dropped :=
    modStores_upholds (journalCheck_upholds _ (journalCheck_upholds _ damaged)) fun _ _ => Store.memOk_dropBroken
  clear_value dropped
  have rebuilt : Upholds s built := rebuildCqs_upholds _ (foldl_upholds cleaned fun _ _ hu => rebuildRing_upholds _ _ hu)
  clear_value built
  exact modPcr_upholds _ (foldl_upholds (modWq_upholds rebuilt fun _ => id) fun _ _ hu => replayDone_upholds _ hu)

theorem execTableSelect_upholds : UpholdsO s (execTableSelect s) := by
  unfold execTableSelect
  mono

theorem CoreSt.memOk_poke {c : Side} {x : CoreSt} (ok : x.memOk c) (a : Nat) (v : Word) : (x.poke c a v).memOk c :=
  ⟨poke_wf ok.1 a v, ok.2⟩

theorem CoreSt.memOk_pokes {c : Side} (ws : List (Nat × Word)) {x : CoreSt} (ok : x.memOk c) :
    (ws.foldl (fun x w => x.poke c w.1 w.2) x).memOk c := by
  induction ws generalizing x with
  | nil => exact ok
  | cons w ws ih => exact ih (CoreSt.memOk_poke ok w.1 w.2)

theorem CoreSt.memOk_load {c : Side} {x : CoreSt} (ok : x.memOk c) (tab : Table) : (x.load c tab).memOk c :=
  CoreSt.memOk_pokes _ (x := { x with table := _, opMem := [], undef := none, sig := _ }) ⟨rfl, ok.2⟩

theorem execTableLoad_upholds : UpholdsO s (execTableLoad s) := by
  refine ite_upholds ?_ (.refl s)
  extract_lets u qs v
  have loaded : Upholds s u := modCore_upholds (modCore_upholds (.refl s) fun _ ok => CoreSt.memOk_load ok _) fun _ ok => CoreSt.memOk_load ok _
  clear_value u
  have chosen : Upholds s v := modEv_upholds loaded fun _ => id
  clear_value v
  exact ite_upholds (releaseCores_upholds chosen) (modPcr_upholds _ chosen)

theorem execFieldStep_upholds (refOk : BitVec 4) (thrBad : List (Fin 128 × BitVec 5)) (calBad : List (Fin 4 × Fin 17)) :
    UpholdsO s (execFieldStep refOk thrBad calBad s) := by
  unfold execFieldStep
  dsimp only
  repeat' first | mono | split | with_reducible refine foldl_upholds ?_ fun u x hu => ?_

/-! ## Timers -/

theorem execPgWrap_upholds (g : Fin 16) : UpholdsO s (execPgWrap g s) := by
  unfold execPgWrap
  mono

theorem execCmpMatch_upholds (n : Fin 32) : UpholdsO s (execCmpMatch n s) := by
  unfold execCmpMatch
  mono

theorem execCaptureEvent_upholds (c : Fin 16) (level : Bool) : UpholdsO s (execCaptureEvent c level s) := by
  unfold execCaptureEvent
  mono

/-! ## Life -/

theorem execStormExpiry_upholds (b : Block) : UpholdsO s (execStormExpiry b s) := by
  unfold execStormExpiry
  dsimp only
  repeat' first | mono | split | with_reducible refine foldl_upholds ?_ fun u x hu => ?_

theorem execQuietExpiry_upholds (b : Block) (cause : Nat) (item : Nat) : UpholdsO s (execQuietExpiry b cause item s) := by
  unfold execQuietExpiry
  exact foldl_upholds (.refl _) fun u x hu => by mono

/-! ## Ports -/

theorem execPortReset_upholds (port : Side) (flr : Bool) : UpholdsO s (execPortReset port flr s) := by
  unfold execPortReset
  mono
  exact fun _ => id

theorem execLinkLeavesL0_upholds (port : Side) : UpholdsO s (execLinkLeavesL0 port s) :=
  fromPort_upholds (.refl s) (modHport_upholds (.refl s) fun _ ok => by
    split
    · exact ok
    · exact ok)

theorem execLinkDown_upholds (port : Side) : UpholdsO s (execLinkDown port s) := by
  unfold execLinkDown
  repeat' first | mono | split
  exact fun _ => id

theorem execLinkReturn_upholds (port : Side) (rate : BitVec 2) (width : BitVec 2) (l1 : Bool) :
    UpholdsO s (execLinkReturn port rate width l1 s) := by
  unfold execLinkReturn
  repeat' first | mono | split
  all_goals exact fun _ => id

theorem execPowerStateWrite_upholds (port : Side) (d3 : Bool) : UpholdsO s (execPowerStateWrite port d3 s) := by
  unfold execPowerStateWrite
  mono
  exact fun _ => id

theorem execMsixUnmask_upholds (port : Side) (vec : Option (Fin 32)) : UpholdsO s (execMsixUnmask port vec s) := by
  unfold execMsixUnmask
  repeat' first | mono | split
  all_goals exact fun _ => id

theorem execIsolatedAccess_upholds (port : Side) (off : Nat) (write : Bool) : UpholdsO s (execIsolatedAccess port off write s) := by
  unfold execIsolatedAccess
  repeat' first | mono | split
  exact fun _ => id

/-! ## Tally -/

theorem Store.memOk_historyPut {x : Store} (ok : x.memOk) (hseq : Nat) (record : List Byte) : (historyPut hseq record x).memOk := by
  unfold historyPut
  split
  · exact ok
  · exact ok

theorem execTallyPublish_upholds : UpholdsO s (execTallyPublish s) := by
  unfold execTallyPublish
  show Upholds s _
  split
  · exact .refl s
  · extract_lets pub bs page u
    have published : Upholds s u := modMs_upholds (.refl s) fun _ => id
    clear_value u
    exact ite_upholds (modStores_upholds published fun _ _ ok => Store.memOk_historyPut ok _ _) published

/-! ## StoreRows -/

theorem execScrubStep_upholds (die : Side) (found : ScrubFind) : UpholdsO s (execScrubStep die found s) := by
  unfold execScrubStep
  repeat' first | mono | split
  all_goals exact fun _ => id

theorem execReadScrub_upholds : UpholdsO s (execReadScrub s) := by
  unfold execReadScrub
  mono
  exact fun _ => id

theorem execStoreTimeout_upholds (store : Side) (event : StoreEvent) (addr : Nat) :
    UpholdsO s (execStoreTimeout store event addr s) := by
  unfold execStoreTimeout
  repeat' first | mono | split
  all_goals exact fun _ => id

theorem execStoreResyncStart_upholds (store : Side) : UpholdsO s (execStoreResyncStart store s) := by
  unfold execStoreResyncStart
  mono
  exact fun _ => id

theorem modStore_upholds_of {i : Side} {f : Store → Store} (h : Upholds s t)
    (hf : t.ms.memOk → (t.store i).memOk → (f (t.store i)).memOk) : Upholds s (t.modStore i f) :=
  h.trans ⟨id, fun ok => Two.upd_forall (P := fun _ x => Store.memOk x) ok (hf ok), id, id, id⟩

theorem Store.memOk_copyStore {i : Side} {y x : Store} (ok : y.memOk) : (copyStore i y x).memOk := by
  unfold copyStore
  dsimp only
  refine Store.memOk_wearRange (Store.memOk_wearRange (Store.memOk_wearRange ?_ _ _) _ _) _ _
  exact ok

theorem execResyncComplete_upholds (store : Side) : UpholdsO s (execResyncComplete store s) := by
  refine ite_upholds ?_ (.refl s)
  have copied : Upholds s (s.modStore store (copyStore store (s.store store.other))) :=
    modStore_upholds_of (.refl s) fun ok _ => Store.memOk_copyStore (ok _)
  exact storeBack_upholds _ (logEvent_upholds _ _ _ _ (causeAbsent_upholds _ _ _ copied))

theorem Store.memOk_logPut {x : Store} (ok : x.memOk) (e : LogEntry) : (logPut e x).memOk := by
  unfold logPut
  split
  · exact ok
  · exact ok

theorem execLogEntryWrite_upholds : UpholdsO s (execLogEntryWrite s) := by
  refine ite_upholds (.refl s) ?_
  split
  · exact .refl s
  · extract_lets u v
    have written : Upholds s v := modMs_upholds (modStores_upholds (.refl s) fun _ _ ok => Store.memOk_logPut ok _) fun _ => id
    clear_value v
    exact ite_upholds written (logEvent_upholds _ _ _ _ (modMs_upholds written fun _ => id))

theorem execWearCheckpoint_upholds : UpholdsO s (execWearCheckpoint s) := by
  unfold execWearCheckpoint
  mono

theorem execCorrectedSummary_upholds : UpholdsO s (execCorrectedSummary s) := by
  unfold execCorrectedSummary
  dsimp only
  repeat' first | mono | split | with_reducible refine foldl_upholds ?_ fun u x hu => ?_
  all_goals exact fun _ => id

/-! ## Cruise -/

theorem execCruiseSliceStart_upholds : UpholdsO s (execCruiseSliceStart s) := by
  unfold execCruiseSliceStart
  mono

theorem execCruiseSliceEnd_upholds (r : SliceResult) : UpholdsO s (execCruiseSliceEnd r s) := by
  unfold execCruiseSliceEnd
  split <;> mono

theorem execCruiseLate_upholds : UpholdsO s (execCruiseLate s) := by
  unfold execCruiseLate
  mono

theorem execCruiseStall_upholds : UpholdsO s (execCruiseStall s) := by
  unfold execCruiseStall
  mono

/-! ## Fabric -/

theorem execScanLaunch_upholds (core : Side) : UpholdsO s (execScanLaunch core s) := by
  unfold execScanLaunch
  repeat' first | mono | split
  exact fun _ => id

theorem CoreSt.memOk_runRow {c : Side} {tab : Table} {old : CoreSt} {r : RankRun} (ok : r.core.memOk c) (ir : Nat × Word64) :
    (runRow c tab old r ir).core.memOk c := by
  unfold runRow
  split
  · exact ok
  · exact CoreSt.memOk_pokes _ ok

theorem CoreSt.memOk_runRows {c : Side} {tab : Table} {old : CoreSt} (rows : List (Nat × Word64)) {r : RankRun} (ok : r.core.memOk c) :
    (rows.foldl (runRow c tab old) r).core.memOk c := by
  induction rows generalizing r with
  | nil => exact ok
  | cons ir rows ih => exact ih (CoreSt.memOk_runRow ok ir)

/-- What a rank leaves of a core has its memories in canonical form. -/
theorem CoreSt.memOk_runRank {c : Side} {x : CoreSt} (ok : x.memOk c) (tab : Table) : (runRank c tab x).core.memOk c :=
  CoreSt.memOk_runRows _ (r := { core := { x with rank := _, issued := _ }, faults := [] }) ok

theorem setCore_upholds {c : Side} {x : CoreSt} (h : Upholds s t) (hx : s.ev.memOk → x.memOk c) : Upholds s (t.modCore c fun _ => x) :=
  ⟨fun ok => Two.upd_forall (P := fun c x => CoreSt.memOk c x) (h.cores ok) fun _ => hx ok, h.stores, h.rings, h.images, h.drivers⟩

theorem execRankComplete_upholds (core : Side) (errs : List MemErr) : UpholdsO s (execRankComplete core errs s) := by
  unfold execRankComplete
  extract_lets x
  show Upholds s _
  split
  · exact .refl s
  · next tab loaded =>
    refine ite_upholds (.refl s) ?_
    extract_lets
    rename_i u k _ r v
    have corrected : Upholds s u := foldl_upholds (.refl s) fun _ _ hu => recordCorrected_upholds _ hu
    split
    · exact evFatal_upholds _ _ _ _ corrected
    · have ran : Upholds s v := setCore_upholds corrected fun ok => CoreSt.memOk_runRank (ok core) tab
      clear_value v
      refine ite_upholds ?_ (foldl_upholds ran fun _ _ hu => evFatal_upholds _ _ _ _ hu)
      cases core
      case a => exact afterRankA_upholds _ _ ran
      case b => exact afterRankB_upholds _ _ ran

theorem execRankToken_upholds (close ok : Bool) : UpholdsO s (execRankToken close ok s) := by
  unfold execRankToken
  dsimp only
  mono
  all_goals exact fun _ => id

theorem execCompletionToken_upholds (ok : Bool) : UpholdsO s (execCompletionToken ok s) := by
  unfold execCompletionToken
  dsimp only
  mono
  all_goals exact fun _ => id

theorem execLagOverrun_upholds : UpholdsO s (execLagOverrun s) := by
  unfold execLagOverrun
  split <;> mono

theorem execScanOver_upholds (core : Side) : UpholdsO s (execScanOver core s) := by
  unfold execScanOver
  repeat' first | mono | split
  exact fun _ => id

theorem execCellExpiry_upholds (die : Side) (cell : Fin 256) : UpholdsO s (execCellExpiry die cell s) :=
  (execCellExpiry_only ..).upholds rfl
theorem execScanClose_upholds (core : Side) : UpholdsO s (execScanClose core s) := by
  unfold execScanClose
  extract_lets x
  show Upholds s _
  split
  · exact .refl s
  · next tab loaded =>
    refine ite_upholds (.refl s) ?_
    extract_lets signed posted
    have closed : Upholds s (closePeriod core tab posted).1 :=
      closePeriod_upholds _ _ (postCells_upholds _ (closeSig_upholds _ _ (.refl s)))
    clear_value posted
    generalize closePeriod core tab posted = period at closed ⊢
    obtain ⟨u, period⟩ := period
    dsimp -zeta only at closed ⊢
    extract_lets waits v shown paid judged started
    have bowed : Upholds s v := bowClose_upholds _ (modCore_upholds closed fun _ => id)
    clear_value v
    have mirrored : Upholds s shown := by
      dsimp only [shown]
      cases core
      case a => exact closeSnapshots_upholds (closeMirror_upholds (tbEvent_upholds _ _ bowed))
      case b => exact modEv_upholds bowed fun _ => id
    clear_value shown
    have faulted : Upholds s judged := by
      dsimp only [judged, paid]
      split
      · exact evFatal_upholds _ _ _ _ (postPayload_upholds _ mirrored)
      · exact postPayload_upholds _ mirrored
    clear_value judged
    have began : Upholds s started := ite_upholds (finishStart_upholds faulted) faulted
    clear_value started
    exact ite_upholds (tryCore_upholds _ (launch_upholds _ (modEv_upholds began fun _ => id))) began

theorem execSampleEdge_upholds (smp : Sample) : UpholdsO s (execSampleEdge smp s) := by
  refine ite_upholds (.refl s) ?_
  extract_lets u n overrun judged wa wb cva cvb sealed_ counted permitted ended flagged
  have sampled : Upholds s u := ite_upholds (judgeSwitchOn_upholds _ (beginConfigured_upholds (.refl s)))
      (modEv_upholds (.refl s) fun _ => id)
  clear_value u
  have sensed : Upholds s judged := sampleOutputs_upholds _ (judgeTransfers_upholds _ sampled)
  clear_value judged
  have shut : Upholds s sealed_ := sealIn_upholds _ _ _ _ _ (sealIn_upholds _ _ _ _ _ (snoop_upholds _ _ sensed))
  clear_value sealed_
  have marked : Upholds s counted := modEv_upholds shut fun _ => id
  clear_value counted
  have allowed : Upholds s permitted := modOs_upholds marked fun _ => id
  clear_value permitted
  have checked : Upholds s flagged :=
    checkFlags_upholds (endRequests_upholds (assembleTally_upholds _ _ (freeDrivers_upholds _ allowed)))
  clear_value flagged
  exact ite_upholds (evFatal_upholds _ _ _ _ checked) checked

/-! ## Debug -/

theorem execExtestLoad_upholds (tap : Side) (trstN : Bool) : UpholdsO s (execExtestLoad tap trstN s) := by
  unfold execExtestLoad
  mono

theorem execExtestExit_upholds (tap : Side) (ir : BitVec 8) (trstN : Bool) : UpholdsO s (execExtestExit tap ir trstN s) := by
  unfold execExtestExit
  mono

theorem execAckTap_upholds (v : BitVec 32) : UpholdsO s (execAckTap v s) :=
  throughTapA_upholds (.refl s) fun _ hu => ackTap_upholds _ hu

theorem execDebugHalt_upholds : UpholdsO s (execDebugHalt s) := throughDebug_upholds (.refl s) fun _ hu => debugHalt_upholds hu

theorem execDebugResume_upholds : UpholdsO s (execDebugResume s) := throughDebug_upholds (.refl s) fun _ hu => debugResume_upholds hu

theorem execDebugStep_upholds : UpholdsO s (execDebugStep s) := throughDebug_upholds (.refl s) fun _ hu => debugStep_upholds hu

theorem execDebugSysreset_upholds : UpholdsO s (execDebugSysreset s) :=
  throughDebug_upholds (.refl s) fun _ hu => debugSysreset_upholds hu

theorem execDbgOpdataWrite_upholds (v : BitVec 32) (err : Option Bool) : UpholdsO s (execDbgOpdataWrite v err s) :=
  throughDebug_upholds (.refl s) fun _ hu => dbgOpdataWrite_upholds _ _ hu

/-! ## Rings -/

theorem execSqTailDoorbell_upholds (port : Side) (n : Fin 8) (v : BitVec 32) : UpholdsO s (execSqTailDoorbell port n v s) := by
  unfold execSqTailDoorbell
  mono

theorem execCqHeadDoorbell_upholds (port : Side) (n : Fin 8) (v : BitVec 32) : UpholdsO s (execCqHeadDoorbell port n v s) := by
  unfold execCqHeadDoorbell
  mono
  exact fun _ => id

theorem execDescriptorFetch_upholds (port : Side) : UpholdsO s (execDescriptorFetch port s) := by
  unfold execDescriptorFetch
  repeat' first | mono | split
  exact fun _ => id

theorem execDescriptorArrival_upholds (port : Side) (n : Fin 8) (bytes : Option (List Byte)) :
    UpholdsO s (execDescriptorArrival port n bytes s) := by
  unfold execDescriptorArrival
  dsimp only
  repeat' first | mono | split

theorem execItemComplete_upholds (port : Side) (n : Fin 8) (xferOk : Bool) : UpholdsO s (execItemComplete port n xferOk s) := by
  unfold execItemComplete
  repeat' first | mono | split
  exact fun _ => id

theorem execCompletionPost_upholds (port : Side) (n : Fin 8) : UpholdsO s (execCompletionPost port n s) := by
  unfold execCompletionPost
  dsimp only
  repeat' first | mono | split

theorem execPostedTimer_upholds (port : Side) (n : Fin 8) : UpholdsO s (execPostedTimer port n s) := by
  unfold execPostedTimer
  split <;> mono

theorem execCqCoalesceTimer_upholds (port : Side) (n : Fin 8) : UpholdsO s (execCqCoalesceTimer port n s) := by
  unfold execCqCoalesceTimer
  dsimp only
  split <;> mono

theorem execSqEnable_upholds (port : Side) (n : Fin 8) (resume : Bool) : UpholdsO s (execSqEnable port n resume s) := by
  unfold execSqEnable
  mono

theorem execSqDisable_upholds (port : Side) (n : Fin 8) : UpholdsO s (execSqDisable port n s) := by
  unfold execSqDisable
  mono

theorem execSqErrClear_upholds (port : Side) (n : Fin 8) : UpholdsO s (execSqErrClear port n s) := by
  unfold execSqErrClear
  mono

theorem execCqEnable_upholds (port : Side) (n : Fin 8) (resume : Bool) : UpholdsO s (execCqEnable port n resume s) := by
  unfold execCqEnable
  mono

theorem execRemainderRebuild_upholds (port : Side) (page : Fin 512) : UpholdsO s (execRemainderRebuild port page s) := by
  refine ite_upholds (modCv_upholds _ (modWport_upholds (.refl s) fun x ok => ?_)) (.refl s)
  obtain ⟨landing, rem, host⟩ := ok
  exact ⟨landing, mset_wf rem _ _, host⟩

theorem execEntryWrite_upholds (port : Side) (off : Nat) (bytes : List Byte) (remBad : Bool) :
    UpholdsO s (execEntryWrite port off bytes remBad s) := by
  unfold execEntryWrite
  mono

theorem execFlipVerdict_upholds (port : Side) : UpholdsO s (execFlipVerdict port s) := by
  unfold execFlipVerdict
  show Upholds s _
  split
  · exact .refl s
  · refine foldl_upholds (modWport_upholds (.refl s) fun x ok => ?_) fun _ _ hu => hostWindowWrite_upholds _ _ _ hu
    obtain ⟨landing, rest⟩ := ok
    refine ⟨?_, rest⟩
    split
    · exact msetList_wf landing _ _
    · exact landing

theorem execLandingWrite_upholds (port : Side) (off : Nat) (bytes : List Byte) (poisoned : Bool) (remBad : Bool) :
    UpholdsO s (execLandingWrite port off bytes poisoned remBad s) := by
  unfold execLandingWrite
  mono

/-! ## RegWrite -/

theorem execCapLoRead_upholds (port : Side) (c : Fin 16) : UpholdsO s (execCapLoRead port c s) := by
  unfold execCapLoRead
  mono

theorem execLowHalfRead_upholds (port : Side) (space : Space) : UpholdsO s (execLowHalfRead port space s) := by
  unfold execLowHalfRead
  split <;> mono

/-! ## HostWrites -/

theorem execPgReloadWrite_upholds (port : Side) (g : Fin 16) (v : BitVec 32) : UpholdsO s (execPgReloadWrite port g v s) := by
  unfold execPgReloadWrite
  mono

theorem execPgNow_upholds (port : Side) (g : Fin 16) : UpholdsO s (execPgNow port g s) := by
  unfold execPgNow
  mono

theorem execPgEnable_upholds (port : Side) (g : Fin 16) (en : Bool) : UpholdsO s (execPgEnable port g en s) := by
  unfold execPgEnable
  mono

theorem execPgGo_upholds (port : Side) (mask : BitVec 16) : UpholdsO s (execPgGo port mask s) := by
  unfold execPgGo
  mono

theorem execCmpLoWrite_upholds (port : Side) (n : Fin 32) (v : BitVec 32) : UpholdsO s (execCmpLoWrite port n v s) := by
  unfold execCmpLoWrite
  mono

theorem execCmpHiWrite_upholds (port : Side) (n : Fin 32) (v : BitVec 32) : UpholdsO s (execCmpHiWrite port n v s) := by
  unfold execCmpHiWrite
  mono

theorem execCmpEnable_upholds (port : Side) (n : Fin 32) (en : Bool) : UpholdsO s (execCmpEnable port n en s) := by
  unfold execCmpEnable
  mono

theorem execCapCtlWrite_upholds (port : Side) (c : Fin 16) (v : BitVec 32) : UpholdsO s (execCapCtlWrite port c v s) := by
  unfold execCapCtlWrite
  mono

theorem execFirstValidClear_upholds (port : Side) (b : Block) : UpholdsO s (execFirstValidClear port b s) := by
  unfold execFirstValidClear
  mono

theorem execFrQuietWrite_upholds (port : Side) (b : Block) (v : BitVec 32) : UpholdsO s (execFrQuietWrite port b v s) := by
  unfold execFrQuietWrite
  mono

theorem execPeakClr_upholds (port : Side) : UpholdsO s (execPeakClr port s) := by
  unfold execPeakClr
  mono

theorem execMalfClr_upholds (port : Side) : UpholdsO s (execMalfClr port s) := by
  unfold execMalfClr
  mono

theorem execPcrRstArm_upholds (port : Side) : UpholdsO s (execPcrRstArm port s) := by
  unfold execPcrRstArm
  mono

theorem execPcrRstReset_upholds (port : Side) (level : BitVec 2) : UpholdsO s (execPcrRstReset port level s) := by
  unfold execPcrRstReset
  mono

theorem execCvwCtlWrite_upholds (port : Side) (n : Fin 4) (v : BitVec 32) : UpholdsO s (execCvwCtlWrite port n v s) := by
  unfold execCvwCtlWrite
  mono

theorem execCvwValWrite_upholds (port : Side) (n : Fin 4) (v : BitVec 32) : UpholdsO s (execCvwValWrite port n v s) := by
  unfold execCvwValWrite
  mono

theorem execCvwFeed_upholds (port : Side) (n : Fin 4) (width : Fin 3) (v : BitVec 32) : UpholdsO s (execCvwFeed port n width v s) := by
  unfold execCvwFeed
  mono

theorem execCfgClaim_upholds (port : Side) (key : BitVec 16) : UpholdsO s (execCfgClaim port key s) := by
  unfold execCfgClaim
  mono

theorem execCfgRelease_upholds (port : Side) (key : BitVec 16) : UpholdsO s (execCfgRelease port key s) := by
  unfold execCfgRelease
  mono

theorem execRegisterWrite_upholds (target : Target) (v : BitVec 32) (kind : WriteKind) :
    UpholdsO s (execRegisterWrite target v kind s) := by
  unfold execRegisterWrite
  mono

end Sys2Proof.Machine
end

section
/-!
PROOFS about what every step keeps: the end of a tick, a step, and with them the invariants. They settle O5 and O7.
-/
namespace Sys2Proof.Machine

/-- Every command upholds what its state upholds. -/
theorem exec_upholds (c : Instr) (s : State) : UpholdsO s (exec c s) := by
  cases c
  case vlUndervoltage => exact execVlUndervoltage_upholds ..
  case vlOvervoltage => exact execVlOvervoltage_upholds ..
  case vlRange => exact execVlRange_upholds ..
  case vlRestore => exact execVlRestore_upholds ..
  case vfLoss => exact execVfLoss_upholds ..
  case vfOver => exact execVfOver_upholds ..
  case vfRestore => exact execVfRestore_upholds ..
  case bakFail => exact execBakFail_upholds ..
  case bakEdgeTimeout => exact execBakEdgeTimeout_upholds
  case powerOnReset => exact execPowerOnReset_upholds
  case porRelease => exact execPorRelease_upholds ..
  case clockSteady => exact execClockSteady_upholds ..
  case identityRead => exact execIdentityRead_upholds
  case journalReplay => exact execJournalReplay_upholds ..
  case tableSelect => exact execTableSelect_upholds
  case tableLoad => exact execTableLoad_upholds
  case fieldStep => exact execFieldStep_upholds ..
  case startLimit => exact execStartLimit_upholds
  case fatalQuietExpiry => exact execFatalQuietExpiry_upholds
  case resetNAssert => exact execResetNAssert_upholds ..
  case resetNRelease => exact execResetNRelease_upholds
  case soscWdog d => exact execSoscWdog_upholds d
  case clkMon => exact execClkMon_upholds ..
  case plkLock => exact execPlkLock_upholds
  case portClock => exact execPortClock_upholds ..
  case strClock => exact execStrClock_upholds ..
  case soscFail => exact execSoscFail_upholds ..
  case tbFreqWindow => exact execTbFreqWindow_upholds
  case tbCheck => exact execTbCheck_upholds ..
  case pcrRstArm => exact execPcrRstArm_upholds ..
  case pcrRstReset => exact execPcrRstReset_upholds ..
  case pcrRstArmTimeout => exact execPcrRstArmTimeout_upholds
  case sampleEdge => exact execSampleEdge_upholds ..
  case scanLaunch => exact execScanLaunch_upholds ..
  case rankComplete => exact execRankComplete_upholds ..
  case rankToken => exact execRankToken_upholds ..
  case completionToken => exact execCompletionToken_upholds ..
  case lagOverrun => exact execLagOverrun_upholds
  case scanClose => exact execScanClose_upholds ..
  case scanOver => exact execScanOver_upholds ..
  case cellExpiry => exact execCellExpiry_upholds ..
  case kerfSignature => exact execKerfSignature_upholds ..
  case kerfLate => exact execKerfLate_upholds ..
  case copyCheckPass => exact execCopyCheckPass_upholds ..
  case pgWrap => exact execPgWrap_upholds ..
  case pgReloadWrite => exact execPgReloadWrite_upholds ..
  case pgNow => exact execPgNow_upholds ..
  case pgEnable => exact execPgEnable_upholds ..
  case pgGo => exact execPgGo_upholds ..
  case cmpLoWrite => exact execCmpLoWrite_upholds ..
  case cmpHiWrite => exact execCmpHiWrite_upholds ..
  case cmpEnable => exact execCmpEnable_upholds ..
  case cmpMatch => exact execCmpMatch_upholds ..
  case captureEvent => exact execCaptureEvent_upholds ..
  case capLoRead => exact execCapLoRead_upholds ..
  case capCtlWrite => exact execCapCtlWrite_upholds ..
  case inputChange => exact execInputChange_upholds ..
  case inputFilterExpiry => exact execInputFilterExpiry_upholds ..
  case ossdBridgeRelease => exact execOssdBridgeRelease_upholds ..
  case ossdGapExpiry => exact execOssdGapExpiry_upholds ..
  case tpSeenExpiry => exact execTpSeenExpiry_upholds ..
  case band => exact execBand_upholds ..
  case overvolt => exact execOvervolt_upholds ..
  case thrHandover => exact execThrHandover_upholds ..
  case thrHandoverTimeout => exact execThrHandoverTimeout_upholds ..
  case comparatorDisagree => exact execComparatorDisagree_upholds ..
  case pg00Release => exact execPg00Release_upholds
  case dipWindowOpen => exact execDipWindowOpen_upholds ..
  case dipOffEnd => exact execDipOffEnd_upholds ..
  case dipWindowEnd => exact execDipWindowEnd_upholds ..
  case srcOverload => exact execSrcOverload_upholds ..
  case srcRetry => exact execSrcRetry_upholds ..
  case measurementInstant => exact execMeasurementInstant_upholds ..
  case axisBufferSwap => exact execAxisBufferSwap_upholds ..
  case encoderEdge => exact execEncoderEdge_upholds ..
  case level => exact execLevel_upholds ..
  case adcClock => exact execAdcClock_upholds ..
  case calibrationPass => exact execCalibrationPass_upholds ..
  case calHandover => exact execCalHandover_upholds ..
  case calHandoverTimeout => exact execCalHandoverTimeout_upholds ..
  case bowStopState => exact execBowStopState_upholds ..
  case bowHoldTimeout => exact execBowHoldTimeout_upholds ..
  case switchClosed => exact execSwitchClosed_upholds ..
  case bowMismatch => exact execBowMismatch_upholds ..
  case darkTestDue => exact execDarkTestDue_upholds ..
  case darkWindowStart => exact execDarkWindowStart_upholds ..
  case darkWindowEnd => exact execDarkWindowEnd_upholds ..
  case darkForce => exact execDarkForce_upholds ..
  case staticCheckStart => exact execStaticCheckStart_upholds ..
  case overload => exact execOverload_upholds ..
  case short => exact execShort_upholds ..
  case openLoad => exact execOpenLoad_upholds ..
  case auxSum => exact execAuxSum_upholds ..
  case noOutput => exact execNoOutput_upholds ..
  case overtemp => exact execOvertemp_upholds ..
  case stormExpiry => exact execStormExpiry_upholds ..
  case quietExpiry => exact execQuietExpiry_upholds ..
  case firstValidClear => exact execFirstValidClear_upholds ..
  case frQuietWrite => exact execFrQuietWrite_upholds ..
  case peakClr => exact execPeakClr_upholds ..
  case malfClr => exact execMalfClr_upholds ..
  case registerWrite => exact execRegisterWrite_upholds ..
  case portReset => exact execPortReset_upholds ..
  case linkDown => exact execLinkDown_upholds ..
  case linkReturn => exact execLinkReturn_upholds ..
  case powerStateWrite => exact execPowerStateWrite_upholds ..
  case isolatedAccess => exact execIsolatedAccess_upholds ..
  case cfgClaim => exact execCfgClaim_upholds ..
  case cfgRelease => exact execCfgRelease_upholds ..
  case msixUnmask => exact execMsixUnmask_upholds ..
  case sqTailDoorbell => exact execSqTailDoorbell_upholds ..
  case cqHeadDoorbell => exact execCqHeadDoorbell_upholds ..
  case descriptorFetch => exact execDescriptorFetch_upholds ..
  case descriptorArrival => exact execDescriptorArrival_upholds ..
  case nop => exact execNop_upholds ..
  case fence => exact execFence_upholds ..
  case tableStage => exact execTableStage_upholds ..
  case tableVerify => exact execTableVerify_upholds ..
  case tableCommit => exact execTableCommit_upholds ..
  case modeReq => exact execModeReq_upholds ..
  case resetReq => exact execResetReq_upholds ..
  case hresetExpiry => exact execHresetExpiry_upholds ..
  case snapshot => exact execSnapshot_upholds ..
  case tallyRead => exact execTallyRead_upholds ..
  case logRead => exact execLogRead_upholds ..
  case linkSend => exact execLinkSend_upholds ..
  case linkDetach => exact execLinkDetach_upholds ..
  case cvJob => exact execCvJob_upholds ..
  case fullTest => exact execFullTest_upholds ..
  case lcSet => exact execLcSet_upholds ..
  case storeWrite => exact execStoreWrite_upholds ..
  case storeRead => exact execStoreRead_upholds ..
  case itemComplete => exact execItemComplete_upholds ..
  case completionPost => exact execCompletionPost_upholds ..
  case postedTimer => exact execPostedTimer_upholds ..
  case cqCoalesceTimer => exact execCqCoalesceTimer_upholds ..
  case sqEnable => exact execSqEnable_upholds ..
  case sqDisable => exact execSqDisable_upholds ..
  case sqErrClear => exact execSqErrClear_upholds ..
  case cqEnable => exact execCqEnable_upholds ..
  case entryWrite => exact execEntryWrite_upholds ..
  case flipVerdict => exact execFlipVerdict_upholds ..
  case landingWrite => exact execLandingWrite_upholds ..
  case remainderRebuild => exact execRemainderRebuild_upholds ..
  case ackTimeout => exact execAckTimeout_upholds
  case ackTap => exact execAckTap_upholds ..
  case linkSignalPresent => exact execLinkSignalPresent_upholds ..
  case linkSignalLoss => exact execLinkSignalLoss_upholds ..
  case linkAligned => exact execLinkAligned_upholds ..
  case linkCycle => exact execLinkCycle_upholds ..
  case frameReceived => exact execFrameReceived_upholds ..
  case tuneTimeout => exact execTuneTimeout_upholds ..
  case linkWatchdog => exact execLinkWatchdog_upholds ..
  case lostExpiry => exact execLostExpiry_upholds ..
  case detachWindowExpiry => exact execDetachWindowExpiry_upholds ..
  case cvwFeed => exact execCvwFeed_upholds ..
  case cvwCtlWrite => exact execCvwCtlWrite_upholds ..
  case cvwValWrite => exact execCvwValWrite_upholds ..
  case scrubStep => exact execScrubStep_upholds ..
  case readScrub => exact execReadScrub_upholds
  case storeTimeout => exact execStoreTimeout_upholds ..
  case resyncComplete => exact execResyncComplete_upholds ..
  case logEntryWrite => exact execLogEntryWrite_upholds
  case tallyPublish => exact execTallyPublish_upholds
  case wearCheckpoint => exact execWearCheckpoint_upholds
  case correctedSummary => exact execCorrectedSummary_upholds
  case cruiseSliceStart => exact execCruiseSliceStart_upholds
  case cruiseSliceEnd => exact execCruiseSliceEnd_upholds ..
  case cruiseLate => exact execCruiseLate_upholds
  case cruiseStall => exact execCruiseStall_upholds
  case debugHalt => exact execDebugHalt_upholds
  case debugResume => exact execDebugResume_upholds
  case debugStep => exact execDebugStep_upholds
  case debugSysreset => exact execDebugSysreset_upholds
  case dbgOpdataWrite => exact execDbgOpdataWrite_upholds ..
  case extestLoad => exact execExtestLoad_upholds ..
  case extestExit => exact execExtestExit_upholds ..
  case lowHalfRead => exact execLowHalfRead_upholds ..
  case linkLeavesL0 => exact execLinkLeavesL0_upholds ..
  case residual => exact execResidual_upholds ..
  case overtempClear => exact execOvertempClear_upholds ..
  case levelRestore => exact execLevelRestore_upholds ..
  case storeResyncStart => exact execStoreResyncStart_upholds ..
  case calibrationWrite => exact execCalibrationWrite_upholds

theorem keepHlink_upholds {s t : State} (h : Upholds s t) : Upholds s (keepHlink t) :=
  foldl_upholds h fun _ _ hu => modHport_upholds hu fun _ => id

theorem tick_upholds (s : State) : Upholds s (tick s) := by
  unfold tick
  extract_lets u v
  have released : Upholds s u := marchRelease_upholds _ (marchRelease_upholds _ (applyModeReq_upholds (.refl s)))
  have noted : Upholds s v := keepHlink_upholds (modHp_upholds (modPcr_upholds _ released) fun _ => id)
  have taken : Upholds s (takePosts .b (takePosts .a (advanceTime v))) :=
    takePosts_upholds _ (takePosts_upholds _ (modTb_upholds _ noted))
  exact assertDue_upholds (ite_upholds (ite_upholds (enterHold_upholds taken) taken) noted)

/-- A step upholds what its state upholds. -/
theorem step_upholds {s t : State} (h : step s = .next t) : Upholds s t := by
  unfold step at h
  split at h
  · cases h
    exact tick_upholds s
  · next c cs queue =>
    have kept := exec_upholds c { s with pending := cs }
    rw [h] at kept
    exact ⟨kept.cores, kept.stores, kept.rings, kept.images, kept.drivers⟩

/-- The memories of a module are those of its cores, its stores, and what rings and images hold for the ports. -/
theorem State.memOk_iff {s : State} : s.memOk ↔ s.ev.memOk ∧ s.ms.memOk ∧ s.wq.memOk ∧ s.hp.memOk := by
  constructor
  · intro ⟨cores, stores, ports⟩
    refine ⟨cores, stores, fun p => ?_, fun p => ?_⟩
    · obtain ⟨landing, rem, host, image, prev⟩ := ports p
      exact ⟨landing, rem, host⟩
    · obtain ⟨landing, rem, host, image, prev⟩ := ports p
      exact ⟨image, prev⟩
  · intro ⟨cores, stores, rings, images⟩
    refine ⟨cores, stores, fun p => ?_⟩
    obtain ⟨landing, rem, host⟩ := rings p
    obtain ⟨image, prev⟩ := images p
    exact ⟨landing, rem, host, image, prev⟩

/-- Settles O5: canonical memories are upheld by every command and by the end of a tick. -/
theorem stepKeepsMemoriesCanonical : Obligations.StepKeepsMemoriesCanonical := by
  intro s t ok ran
  obtain ⟨cores, stores, rings, images⟩ := State.memOk_iff.mp ok
  have kept := step_upholds ran
  exact State.memOk_iff.mpr ⟨kept.cores cores, kept.stores stores, kept.rings rings, kept.images images⟩

/-- Settles O7: that the drivers are inhibited outside RUN is upheld by every command and by the end of a tick. -/
theorem stepKeepsDriversInhibitedOutsideRun : Obligations.StepKeepsDriversInhibitedOutsideRun :=
  fun _ _ safe ran => (step_upholds ran).drivers safe

end Sys2Proof.Machine
end

section
/-!
PROOFS about the recording of faults: what a record takes, that a fault stands uncleared from its recording on, what a contained
fault adds, and what the class action of a fatal fault keeps. They settle O10, O11, O12 and O13.
-/
namespace Sys2Proof.Machine

/-! ## A record takes a report (R252, R255, R256) -/

/-- An empty slot takes the report; whether another came on its tick is all that may be added to it. -/
theorem recordIn_slot {e : Slot} {now : Tick} {r : FaultRecord} (empty : r.slot = none) :
    ∃ c, (recordIn e now r).slot = some (if c = true then { e with concurrent := true } else e) := by
  simp only [recordIn, empty, Bool.or_true, if_true, Option.map_some]
  exact ⟨_, rfl⟩

@[simp] theorem recordIn_cntCorr (e : Slot) (now : Tick) (r : FaultRecord) :
    (recordIn e now r).cntCorr = if e.cls = .corrected then satInc r.cntCorr else r.cntCorr := rfl

@[simp] theorem recordIn_cntCont (e : Slot) (now : Tick) (r : FaultRecord) :
    (recordIn e now r).cntCont = if e.cls = .contained then satInc r.cntCont else r.cntCont := rfl

@[simp] theorem recordIn_cntFatal (e : Slot) (now : Tick) (r : FaultRecord) :
    (recordIn e now r).cntFatal = if e.cls = .fatal then satInc r.cntFatal else r.cntFatal := rfl

/-- The slot shows a report of this class, as it was made at this time (R255). -/
def Slot.shows (e : Slot) (f : FaultRep) (cls : FaultClass) (now : Tick) : Prop :=
  e.cls = cls ∧ e.cause = BitVec.ofNat 8 f.cause ∧ e.scope = BitVec.ofNat 4 f.scope ∧ e.addr = BitVec.ofNat 32 f.addr ∧
  e.init = BitVec.ofNat 8 f.init ∧ e.acc = BitVec.ofNat 4 f.acc ∧ e.time = now

theorem slotOf_shown (f : FaultRep) (cls : FaultClass) (cq : Option (Resource × Block × Nat)) (now : Tick) {r : FaultRecord}
    (empty : r.slot = none) : ∃ e, (recordIn (slotOf f cls cq now) now r).slot = some e ∧ e.shows f cls now := by
  obtain ⟨c, slot⟩ := recordIn_slot (e := slotOf f cls cq now) (now := now) empty
  refine ⟨_, slot, ?_⟩
  cases c
  case false => exact ⟨rfl, rfl, rfl, rfl, rfl, rfl, rfl⟩
  case true => exact ⟨rfl, rfl, rfl, rfl, rfl, rfl, rfl⟩

/-! ## A corrected fault while no resource is bad (R250) -/

theorem recordPlain_fr (f : FaultRep) (s : State) :
    (recordPlain f s).fr = (s.modRec f.block (recordIn (slotOf { f with cls := .corrected } .corrected none s.now) s.now)).fr := by
  unfold recordPlain
  dsimp only
  split
  · exact raiseFaultIrq_f_fr
  · rfl

theorem recordPlain_frOf (f : FaultRep) (s : State) : (recordPlain f s).frOf f.block =
    { recordIn (slotOf { f with cls := .corrected } .corrected none s.now) s.now (s.frOf f.block) with wroteAt := some s.tb.now } := by
  rw [frOf_of_fr (recordPlain_fr f s), frOf_modRec]

theorem recordPlain_frOf_ne {f : FaultRep} {b : Block} (other : b ≠ f.block) (s : State) : (recordPlain f s).frOf b = s.frOf b := by
  rw [frOf_of_fr (recordPlain_fr f s), frOf_modRec_ne _ _ other]

theorem recordFault_corrected {f : FaultRep} (corrected : f.cls = .corrected) {s : State} (sound : s.bad = []) :
    recordFault f s = recordPlain f s := by
  rw [recordFault, if_pos corrected, recordCorrected_of_bad_nil sound]

/-- Settles O10: while no resource is bad the recording is the record's own step and what its interrupt sends. -/
theorem correctedFaultIsOnlyCounted : Obligations.CorrectedFaultIsOnlyCounted := by
  intro f s corrected sound
  rw [recordFault_corrected corrected sound, recordPlain_frOf]
  exact ⟨(recordPlain_only f s).eq_of_fr_hp, rfl, rfl, rfl, rfl, fun b other => recordPlain_frOf_ne other s,
    slotOf_shown { f with cls := .corrected } .corrected none s.now⟩

/-! ## An uncleared fault stands until it is cleared (R257, R262, R266) -/

theorem recordCore_contained_frOf_ne {f : FaultRep} (contained : f.cls = .contained) {b : Block} (other : b ≠ f.block) (s : State) :
    ((recordCore f s).frOf b).insts = (s.frOf b).insts := by
  have stays (b : Bool) : (if b = true then FaultClass.contained else f.cls) = .contained := by simp [contained]
  unfold recordCore
  simp only [stays]
  split
  · rw [frOf_modRec_ne _ _ other]
  · rw [frOf_scopeAborts_markRearm, logFault, logPush_insts, frOf_modRec_ne _ _ other]

/-- Recording a contained fault of any block clears none of another. -/
theorem recordCore_contained_keeps_all {f : FaultRep} (contained : f.cls = .contained) {s : State} {b : Block} {cause item : Nat}
    (before : s.uncleared b cause item = true) : (recordCore f s).uncleared b cause item = true := by
  by_cases same : b = f.block
  · subst same
    exact recordCore_contained_keeps contained before
  · exact (uncleared_of_insts (recordCore_contained_frOf_ne contained same s) cause item).trans before

/-- The marks on the records are the first part of what a line brings about that turns bad. -/
def State.marked (r : Resource) (code : Nat) (s : State) : State :=
  { s with
    bad := s.bad ++ [(r, code, s.now)]
    fr := vmapIdx s.fr (fun i x => match Block.ofId (i.val + 1) with
      | some b => stormMark (s.bad ++ [(r, code, s.now)]) b r code s.now x
      | none => x) }

theorem marked_uncleared (r : Resource) (code : Nat) (s : State) (b : Block) (cause item : Nat) :
    (s.marked r code).uncleared b cause item = s.uncleared b cause item := by
  simp only [State.marked, State.uncleared, State.frOf, vmapIdx_get]
  split
  · exact stormMark_any ..
  · rfl

/-- What a block reports of its quarter's resource. -/
def resourceReport (b : Block) (q : Fin 4) : FaultRep :=
  { block := b, cause := resourceCode b, cls := .contained, scope := 1, item := q.val, addr := q.val,
    init := (if b = .os then 0x20 else 0x10) + q.val, acc := 6, quarter := some q }

theorem recordResource_eq (b : Block) (q : Fin 4) (s : State) : recordResource b q s = recordCore (resourceReport b q) s := rfl

/-- The blocks that record RESOURCE of a quarter when this line turns bad (R145). -/
def Resource.records : Resource → List (Block × Fin 4)
  | .vf q | .ql q => [(.ib, q), (.ps, q), (.af, q), (.os, q)]
  | .ref q => [(.ps, q), (.af, q)]
  | .tb | .snap => []

theorem turnBad_eq (r : Resource) (code : Nat) (s : State) : turnBad r code s =
    if s.bad.any (fun x => x.1 = r) then s else r.records.foldl (fun s x => recordResource x.1 x.2 s) (s.marked r code) := by
  unfold turnBad
  split
  · rfl
  · cases r <;> rfl

/-- What the marks keep, and each RESOURCE record of a block, a line keeps that turns bad. -/
theorem turnBad_keeps {P : State → Prop} {r : Resource} {code : Nat} {s : State} (before : P s) (marked : P (s.marked r code))
    (each : ∀ b q t, P t → P (recordResource b q t)) : P (turnBad r code s) := by
  rw [turnBad_eq]
  split
  · exact before
  · exact foldl_keeps marked fun t x _ held => each x.1 x.2 t held

/-- What the recording proper keeps, and a line that may turn bad with it, the recording of a contained or fatal fault keeps. -/
theorem recordFault_keeps {P : State → Prop} {f : FaultRep} (cls : f.cls ≠ .corrected) {s : State} (core : P (recordCore f s))
    (line : ∀ r t, P t → P (turnBad r f.cause t)) : P (recordFault f s) := by
  unfold recordFault
  rw [if_neg cls]
  dsimp only
  split
  · exact line _ _ core
  · exact core

theorem faultLow_of_uncleared {s : State} {b : Block} {cause item : Nat} (held : s.uncleared b cause item = true) :
    s.faultLow = true := by
  obtain ⟨i, mem, -⟩ := List.any_eq_true.mp held
  have some : s.anyUncleared = true := List.any_eq_true.mpr ⟨s.frOf b, by simp [State.frOf], by
    cases insts : (s.frOf b).insts with
    | nil => rw [insts] at mem; cases mem
    | cons => rfl⟩
  rw [State.faultLow, some, Bool.true_or]

/-- Settles O11: the recording proper leaves the fault uncleared, and no line that turns bad with it clears one. -/
theorem recordedFaultIsUncleared : Obligations.RecordedFaultIsUncleared := by
  intro f s cls
  have core : (recordCore f s).uncleared f.block f.cause f.item = true := by
    cases of : f.cls
    case corrected => exact absurd of cls
    case contained => exact recordCore_contained_uncleared of s
    case fatal => exact (recordCore_fatal_taken of s).uncleared
  have held : (recordFault f s).uncleared f.block f.cause f.item = true :=
    recordFault_keeps (P := fun t => t.uncleared f.block f.cause f.item = true) cls core fun r t before =>
      turnBad_keeps (P := fun t => t.uncleared f.block f.cause f.item = true) before ((marked_uncleared ..).trans before)
        fun b q t held => recordCore_contained_keeps_all (f := resourceReport b q) rfl held
  exact ⟨held, faultLow_of_uncleared held⟩

/-! ## A contained fault that is new (R250, R255, R257, R261) -/

/-- The entry a contained fault adds to the record while no resource is bad. -/
def FaultRep.contained (f : FaultRep) (now : Tick) : FaultInst :=
  let e := slotOf f .contained none now
  { cause := f.cause, scope := f.scope, item := f.item, cls := .contained, quarter := f.quarter,
    life := if f.sticky then .untilReset else .present, conseq := none, withheld := true, at_ := now, addr := e.addr,
    init := e.init, acc := e.acc }

/-- What it makes of the record. -/
def FaultRecord.taking (f : FaultRep) (now : Tick) (r : FaultRecord) : FaultRecord :=
  { recordIn (slotOf f .contained none now) now r with insts := r.insts ++ [f.contained now] }

/-- The record holds this contained fault uncleared already. -/
def FaultRecord.holds (f : FaultRep) (r : FaultRecord) : Bool :=
  r.insts.any (fun i => i.cause == f.cause && i.scope == f.scope && i.item == f.item && i.cls == .contained)

theorem recordCore_new {f : FaultRep} (contained : f.cls = .contained) {s : State} (sound : s.bad = [])
    (new : (s.frOf f.block).holds f = false) : recordCore f s = scopeAborts f.scope f.item (markRearm f.scope f.item
      (logFault 1 (slotOf f .contained none s.now) f.block (s.modRec f.block (FaultRecord.taking f s.now)))) := by
  have nobad : badFor f.block f.quarter s = none := by simp [badFor, sound]
  rw [FaultRecord.holds] at new
  simp only [recordCore, nobad, contained, new, sound, Option.map_none]
  rfl

theorem recordFault_contained {f : FaultRep} (contained : f.cls = .contained) (own : resourceOf f.block f.cause f.item = none)
    (s : State) : recordFault f s = recordCore f s :=
  recordFault_unshared (by simp [contained]) own s

theorem logFault_room {kind : Nat} {e : Slot} {b : Block} {s : State} (room : s.ms.logBuf.length < 256) :
    ∃ g : List LogEntry → List LogEntry, logFault kind e b s = s.modMs (fun m => { m with logBuf := g m.logBuf }) := by
  unfold logFault logPush
  rw [if_pos room]
  exact ⟨_, rfl⟩

/-- Settles O12: a new contained fault is one entry more in its record, the mark on its outputs, one log entry and what its
scope ends. -/
theorem containedFaultIsRecorded : Obligations.ContainedFaultIsRecorded := by
  intro f s contained passes sound own room new
  obtain ⟨g, logged⟩ := logFault_room (kind := 1) (e := slotOf f .contained none s.now) (b := f.block)
    (s := s.modRec f.block (FaultRecord.taking f s.now)) room
  have eq := (recordFault_contained contained own s).trans (recordCore_new contained sound new)
  rw [logged] at eq
  have fr (b : Block) : (recordFault f s).frOf b = (s.modRec f.block (FaultRecord.taking f s.now)).frOf b := by
    rw [eq, frOf_scopeAborts_markRearm]
    rfl
  have taken : (recordFault f s).frOf f.block =
      { FaultRecord.taking f s.now (s.frOf f.block) with wroteAt := some s.tb.now } := by rw [fr, frOf_modRec]
  rw [taken]
  refine ⟨⟨f.contained s.now, rfl, rfl, rfl, rfl, rfl, ?_, rfl, rfl, rfl⟩, rfl, slotOf_shown f .contained none s.now,
    fun b other => (fr b).trans (frOf_modRec_ne _ _ other), recordFault_cont_f_dev contained, ?_,
    recordFault_cont_f_ev contained, recordFault_cont_f_tb contained, recordFault_cont_f_pcr contained, ?_⟩
  · simp [FaultRep.contained, passes]
  · rw [recordFault_contained contained own, recordCore_contained_inhib contained]
  · rw [eq, scopeAborts_f_ms]
    rfl

/-! ## What the class action of a fatal fault keeps (R26, R250) -/

/-- The life cycle, the time, the contents of the stores, the landing windows and the counts of fatal faults are as they were. -/
structure State.Spares (s t : State) : Prop where
  lc : t.st.lc = s.st.lc
  now : t.tb.now = s.tb.now
  stores : t.ms.store = s.ms.store
  landing : ∀ p, (t.wport p).landing = (s.wport p).landing
  fatals : ∀ b, (t.frOf b).cntFatal = (s.frOf b).cntFatal

theorem State.Spares.refl (s : State) : s.Spares s := ⟨rfl, rfl, rfl, fun _ => rfl, fun _ => rfl⟩

theorem State.Spares.trans {s t u : State} (h : s.Spares t) (k : t.Spares u) : s.Spares u :=
  ⟨k.lc.trans h.lc, k.now.trans h.now, k.stores.trans h.stores, fun p => (k.landing p).trans (h.landing p),
   fun b => (k.fatals b).trans (h.fatals b)⟩

/-- What leaves the records, the time base, self-test, the rings and the stores alone spares them. -/
theorem State.Spares.of_only {m : Nat} {s t : State} (o : Only m s t) (free : m &&& 295312 = 0) : s.Spares t := by
  have out {i : Nat} (hi : (295312).testBit i = true) : ¬ m.testBit i = true := by
    intro hx
    have both := congrArg (fun n => n.testBit i) free
    simp [Nat.testBit_and, hx, hi] at both
  refine ⟨by rw [o.st.resolve_left (out (by decide))], by rw [o.tb.resolve_left (out (by decide))],
    by rw [o.ms.resolve_left (out (by decide))], fun p => ?_, fun b => ?_⟩
  · rw [wport_of_wq (o.wq.resolve_left (out (by decide)))]
  · rw [frOf_of_fr (o.fr.resolve_left (out (by decide)))]

/-- What changes of the rings only items, and nothing of these parts else, spares them. -/
theorem State.Spares.of_items {m : Nat} {s t : State} (o : Only m s t) (landing : ∀ p, (t.wport p).landing = (s.wport p).landing)
    (lc : t.st.lc = s.st.lc) (free : m &&& 262288 = 0) : s.Spares t := by
  have out {i : Nat} (hi : (262288).testBit i = true) : ¬ m.testBit i = true := by
    intro hx
    have both := congrArg (fun n => n.testBit i) free
    simp [Nat.testBit_and, hx, hi] at both
  refine ⟨lc, by rw [o.tb.resolve_left (out (by decide))], by rw [o.ms.resolve_left (out (by decide))], landing, fun b => ?_⟩
  rw [frOf_of_fr (o.fr.resolve_left (out (by decide)))]

theorem endItem_spares (p : Side) (n : Fin 8) (code : Nat) (result : Word) (s : State) : s.Spares (endItem p n code result s) :=
  .of_items (endItem_only ..) (fun q => landing_endItem p n code result s q) rfl rfl

theorem State.Spares.ite {s t u : State} {c : Prop} [Decidable c] (ht : s.Spares t) (hu : s.Spares u) :
    s.Spares (if c then t else u) := by
  split <;> assumption

theorem State.Spares.foldl {α : Type} {g : State → α → State} (each : ∀ (t : State) x, t.Spares (g t x)) (xs : List α) (s : State) :
    s.Spares (xs.foldl g s) :=
  foldl_keeps (.refl s) fun t x _ held => held.trans (each t x)

theorem abortBegun_spares (f : Nat → Bool) (code : Nat) (s : State) : s.Spares (abortBegun f code s) :=
  .foldl (fun t r => by
    split
    · split
      · exact endItem_spares ..
      · exact .refl t
    · exact .refl t) allRings s

theorem modeDrop_spares (s : State) : s.Spares (modeDrop s) := by
  unfold modeDrop
  split
  · exact (endItem_spares ..).trans (.of_items (modWq_only ..) (fun _ => rfl) rfl rfl)
  · exact .refl s

theorem ackDrop_spares (s : State) : s.Spares (ackDrop s) := ⟨rfl, rfl, rfl, fun _ => rfl, fun _ => rfl⟩

theorem ackRefuse_spares (s : State) : s.Spares (ackRefuse s) := by
  unfold ackRefuse
  split
  · exact (endItem_spares ..).trans ⟨rfl, rfl, rfl, fun _ => rfl, fun _ => rfl⟩
  · exact .refl s

theorem ackCheck_spares (s : State) : s.Spares (ackCheck s) := by
  unfold ackCheck
  split
  · exact .ite (ackRefuse_spares s) (.refl s)
  · exact .refl s

theorem katRelease_spares (s : State) : s.Spares (katRelease (thrRejoin s)) :=
  .of_only (m := 132096) (katRelease_nx ((thrRejoin_only s).weaken rfl) rfl) rfl

theorem cruiseStop_spares (s : State) : s.Spares (cruiseStop s) :=
  (katRelease_spares s).trans ⟨rfl, rfl, rfl, fun _ => rfl, fun _ => rfl⟩

theorem cruiseInterrupt_spares (s : State) : s.Spares (cruiseInterrupt s) :=
  (katRelease_spares s).trans
    ⟨by
      show (if _ then _ else _ : St).lc = _
      split <;> rfl, rfl, rfl, fun _ => rfl, fun _ => rfl⟩

theorem idleCells_spares (s : State) : s.Spares (idleCells s) := ⟨rfl, rfl, rfl, fun _ => rfl, fun _ => rfl⟩

theorem recordPlain_spares (f : FaultRep) (s : State) : s.Spares (recordPlain f s) := by
  have o := recordPlain_only f s
  refine ⟨by rw [o.st.resolve_left (by decide)], by rw [o.tb.resolve_left (by decide)], by rw [o.ms.resolve_left (by decide)],
    fun p => by rw [wport_of_wq (o.wq.resolve_left (by decide))], fun b => ?_⟩
  by_cases own : b = f.block
  · subst own
    rw [recordPlain_frOf]
    rfl
  · rw [recordPlain_frOf_ne own]

theorem logPush_spares (e : LogEntry) (s : State) : s.Spares (logPush e s) := by
  unfold logPush
  split
  · exact ⟨rfl, rfl, rfl, fun _ => rfl, fun _ => rfl⟩
  · exact State.Spares.trans (t := s.modMs fun m => { m with logDrop := satInc m.logDrop, logLost := m.logLost + 1 })
      ⟨rfl, rfl, rfl, fun _ => rfl, fun _ => rfl⟩ (recordPlain_spares ..)

/-- Every change of the device state begins by sparing them. -/
theorem changing_spares (new : DevState) (s : State) : s.Spares (s.changing new) := by
  unfold State.changing
  extract_lets t
  have logged : s.Spares t := (modeDrop_spares s).trans (logPush_spares ..)
  clear_value t
  have entered : t.Spares { t with dev := new, devAt := some t.now } := ⟨rfl, rfl, rfl, fun _ => rfl, fun _ => rfl⟩
  exact ((logged.trans entered).trans (.of_only (backupState_only ..) rfl)).trans (cruiseInterrupt_spares _)

theorem setDev_hold_eq (s : State) : setDev .hold s =
    ackCheck (plAllOff (sourcesOff (idleCells (stopCores (cruiseStop (inhibitBoth (s.changing .hold))))))) := rfl

theorem setDev_hold_spares (s : State) : s.Spares (setDev .hold s) := by
  rw [setDev_hold_eq]
  have stopped : s.Spares (stopCores (cruiseStop (inhibitBoth (s.changing .hold)))) :=
    (((changing_spares .hold s).trans (.of_only (inhibitBoth_only _) rfl)).trans (cruiseStop_spares _)).trans
        (.of_only (stopCores_only _) rfl)
  exact (((stopped.trans (idleCells_spares _)).trans (.of_only (sourcesOff_only _) rfl)).trans (.of_only (plAllOff_only _) rfl)).trans
    (ackCheck_spares _)

theorem modSt_spares {f : St → St} (s : State) (lc : (f s.st).lc = s.st.lc) : s.Spares (s.modSt f) :=
  ⟨lc, rfl, rfl, fun _ => rfl, fun _ => rfl⟩

theorem enterHold_spares (s : State) : s.Spares (enterHold s) := by
  unfold enterHold
  extract_lets u v w x y z a b c
  have begun : s.Spares v := (modeDrop_spares s).trans (.ite (.of_only (countFailedStart_only _) rfl) (.refl _))
  clear_value v
  have dropped : s.Spares x := (begun.trans (abortBegun_spares ..)).trans (ackDrop_spares _)
  clear_value x
  have cut : s.Spares z := (dropped.trans (modSt_spares x rfl)).trans (.foldl (fun _ _ => .of_only (modPlPort_only ..) rfl) _ y)
  clear_value z
  have done : s.Spares b := (cut.trans (.of_only (modHp_only ..) rfl)).trans (.of_only (modPcr_only ..) rfl)
  clear_value b
  have quiet : b.Spares c := ⟨rfl, rfl, rfl, fun _ => rfl, fun _ => rfl⟩
  exact (done.trans quiet).trans (setDev_hold_spares c)

theorem fatalAction_spares {s : State} (enters : s.dev = .start ∨ s.dev = .idle ∨ s.dev = .run) : s.Spares (fatalAction s) := by
  have held : s.Spares (enterHold (inhibitBoth (s.modPcr (fun p => { p with fatalAt := s.now })))) :=
    (State.Spares.of_only (m := 8256) (inhibitBoth_nx ((modPcr_only ..).weaken rfl) rfl) rfl).trans (enterHold_spares _)
  have eq : fatalAction s = enterHold (inhibitBoth (s.modPcr (fun p => { p with fatalAt := s.now }))) := by
    unfold fatalAction
    rcases enters with dev | dev | dev <;> simp [dev]
  rwa [eq]

/-! ## A line that turns bad in HOLD (R145, R260) -/

theorem modRec_spares {b : Block} {g : FaultRecord → FaultRecord} (s : State) (fatals : ∀ r, (g r).cntFatal = r.cntFatal) :
    s.Spares (s.modRec b g) := by
  refine ⟨rfl, rfl, rfl, fun _ => rfl, fun c => ?_⟩
  by_cases same : c = b
  · subst same
    rw [frOf_modRec]
    exact fatals _
  · rw [frOf_modRec_ne _ _ same]

@[simp] theorem slotCause_cntFatal (bad : List (Resource × Nat × Tick)) (now : Tick) (r : FaultRecord) :
    (slotCause bad now r).cntFatal = r.cntFatal := by
  unfold slotCause
  dsimp only
  split <;> rfl

theorem abortSends_spares (n : Fin 4) (code : Nat) (s : State) : s.Spares (abortSends n code s) :=
  (State.Spares.foldl (fun t _ => endItem_spares _ _ _ _ t) _ s).trans (.of_only (modPlPort_only ..) rfl)

theorem scopeAborts_spares (scope item : Nat) (s : State) : s.Spares (scopeAborts scope item s) :=
  .ite (abortSends_spares ..) (.refl s)

theorem recordCore_contained_spares {f : FaultRep} (contained : f.cls = .contained) (s : State) : s.Spares (recordCore f s) := by
  have stays (b : Bool) : (if b = true then FaultClass.contained else f.cls) = .contained := by simp [contained]
  unfold recordCore
  simp only [stays]
  split
  · exact modRec_spares s fun _ => rfl
  · refine State.Spares.trans ?_ (((logPush_spares _ _).trans (.of_only (markRearm_only ..) rfl)).trans (scopeAborts_spares ..))
    exact modRec_spares s fun r => by simp [slotOf]

theorem recordCore_contained_inHold {f : FaultRep} (contained : f.cls = .contained) {s : State} (hold : s.inHold) :
    (recordCore f s).inHold := by
  obtain ⟨dev, inhib, lines, cores, cells, sources, links⟩ := hold
  refine ⟨?_, ?_, recordCore_contained_lines contained lines, fun c => ?_, fun k => ?_, fun k => ?_, fun n => ?_⟩
  · rw [recordCore_cont_f_dev contained, dev]
  · rw [recordCore_contained_inhib contained, inhib]
  · rw [core_of_ev (recordCore_cont_f_ev contained), cores]
  · rw [recordCore_cont_f_tb contained]
    exact cells k
  · rw [recordCore_cont_f_ps contained]
    exact sources k
  · rw [(recordCore_contained_link contained s).2, links]

theorem marked_only (r : Resource) (code : Nat) (s : State) : Only 24 s (s.marked r code) := by
  constructor <;> first | exact .inl rfl | exact .inr rfl

@[simp] theorem stormMark_cntFatal (bad : List (Resource × Nat × Tick)) (b : Block) (r : Resource) (code : Nat) (now : Tick)
    (fr : FaultRecord) : (stormMark bad b r code now fr).cntFatal = fr.cntFatal := by
  rw [stormMark, slotCause_cntFatal]

theorem marked_spares (r : Resource) (code : Nat) (s : State) : s.Spares (s.marked r code) := by
  refine ⟨rfl, rfl, rfl, fun _ => rfl, fun b => ?_⟩
  simp only [State.marked, State.frOf, vmapIdx_get]
  split
  · exact stormMark_cntFatal ..
  · rfl

theorem turnBad_inHold {r : Resource} {code : Nat} {s : State} (hold : s.inHold) :
    (turnBad r code s).inHold ∧ s.Spares (turnBad r code s) :=
  turnBad_keeps (P := fun t => t.inHold ∧ s.Spares t) ⟨hold, .refl s⟩ ⟨inHold_of_only (marked_only ..) hold, marked_spares ..⟩
    fun b q t ⟨held, spared⟩ => ⟨recordCore_contained_inHold (f := resourceReport b q) rfl held,
      spared.trans (recordCore_contained_spares (f := resourceReport b q) rfl t)⟩

/-! ## A fatal fault while no resource is bad (R26, R250) -/

theorem recordCore_fatal_eq {f : FaultRep} (fatal : f.cls = .fatal) {s : State} (sound : s.bad = []) :
    ∃ g : FaultRecord → FaultRecord, recordCore f s = fatalAction (logFault 1 (slotOf f .fatal none s.now) f.block
        (s.modRec f.block g)) ∧
      ∀ r, (g r).cntFatal = satInc r.cntFatal := by
  have nobad : badFor f.block f.quarter s = none := by simp [badFor, sound]
  simp only [recordCore, nobad, fatal, Option.map_none]
  exact ⟨_, rfl, fun r => by simp [slotOf]⟩

/-- A fatal fault from START, IDLE or RUN, its class action and what it keeps. -/
theorem recordCore_fatal_enters {f : FaultRep} (fatal : f.cls = .fatal) {s : State} (sound : s.bad = [])
    (enters : s.dev = .start ∨ s.dev = .idle ∨ s.dev = .run) : (recordCore f s).inHold ∧
    ∃ g : FaultRecord → FaultRecord, (s.modRec f.block g).Spares (recordCore f s) ∧ ∀ r, (g r).cntFatal = satInc r.cntFatal := by
  obtain ⟨u, held, -⟩ := recordCore_fatal fatal sound enters
  obtain ⟨g, eq, counts⟩ := recordCore_fatal_eq fatal sound
  refine ⟨held ▸ setDev_hold_inHold u, g, ?_, counts⟩
  rw [eq]
  exact (logPush_spares _ _).trans (fatalAction_spares (by simpa [logFault] using enters))

/-- Settles O13: the class action enters HOLD, and a line that turns bad with the fault leaves the module there. -/
theorem fatalFaultEntersHold : Obligations.FatalFaultEntersHold := by
  intro f s fatal sound enters
  obtain ⟨hold, g, spared, counts⟩ := recordCore_fatal_enters fatal sound enters
  obtain ⟨held, ⟨lc, now, stores, landing, fatals⟩⟩ : (recordFault f s).inHold ∧ (s.modRec f.block g).Spares (recordFault f s) :=
    recordFault_keeps (P := fun t => t.inHold ∧ (s.modRec f.block g).Spares t) (by simp [fatal]) ⟨hold, spared⟩ fun r t ⟨in_, kept⟩ =>
      ⟨(turnBad_inHold in_).1, kept.trans (turnBad_inHold in_).2⟩
  refine ⟨held, lc, now, stores, landing .a, (fatals f.block).trans ?_⟩
  rw [frOf_modRec]
  exact counts _

end Sys2Proof.Machine
end

section
/-!
PROOFS about the end of a quiet period and of t_storm: a recovery of IB's own contained fault, and the interrupts that were
withheld. They settle O15.
-/
namespace Sys2Proof.Machine

/-! ## Interrupts change the ports alone (R265) -/

/-- Only the ports may differ. -/
def State.SameButPorts (s t : State) : Prop := t = { s with hp := t.hp }

theorem State.SameButPorts.of_only {s t : State} (only : Only 16384 s t) : s.SameButPorts t := only.eq_of_hp

theorem State.SameButPorts.fr {s t : State} (same : s.SameButPorts t) : t.fr = s.fr := by rw [same]

theorem faultIrqs_only (b : Block) (due : List FaultInst) (s : State) : Only 16384 s (due.foldl (fun s i => faultIrq b i.cls s) s) :=
  Only.foldl _ _ (.refl _ _) fun _ _ held => faultIrq_nx held rfl

/-! ## A recovery (R257, R258) -/

/-- What a recovery makes of the record: the fault leaves it, and the recovery is counted and its tick kept. -/
def FaultRecord.recovered (i : FaultInst) (now : Tick) (r : FaultRecord) : FaultRecord :=
  { r with
    insts := r.insts.filter (fun j => j != i), recovTotal := satInc r.recovTotal
    recovAt := (now :: r.recovAt.filter (fun t => decide (elapsed now t < 360000000000))).take 8 }

theorem modRec_modRec (s : State) (b : Block) (f g : FaultRecord → FaultRecord)
    (blind : ∀ r t, g { r with wroteAt := t } = { g r with wroteAt := t }) :
    (s.modRec b f).modRec b g = s.modRec b (fun r => g (f r)) := by
  have once (r : FaultRecord) : { g { f r with wroteAt := some s.tb.now } with wroteAt := some s.tb.now } =
      { g (f r) with wroteAt := some s.tb.now } := by rw [blind]
  simp only [State.modRec, upd_upd, once]

/-- A recovery of IB that is no reference's and not the eighth: the record, one log entry, and the interrupt. -/
theorem recover_ib {s : State} {i : FaultInst} (own : i.cause ≠ 1) (room : s.ms.logBuf.length < 256)
    (few : (s.frOf .ib).recovAt.length < 7) : ∃ g : List LogEntry → List LogEntry,
      ((s.modRec .ib (FaultRecord.recovered i s.now)).modMs (fun m => { m with logBuf := g m.logBuf })).SameButPorts
          (recover .ib i s) := by
  have left : (dropInst .ib i s).modRec .ib (fun r => { r with
      recovTotal := satInc r.recovTotal
      recovAt := (s.now :: r.recovAt.filter (fun t => decide (elapsed s.now t < 360000000000))).take 8 }) =
      s.modRec .ib (FaultRecord.recovered i s.now) := modRec_modRec _ _ _ _ fun _ _ => rfl
  obtain ⟨g, logged⟩ : ∃ g : List LogEntry → List LogEntry, logCleared .ib i (s.modRec .ib (FaultRecord.recovered i s.now)) =
      (s.modRec .ib (FaultRecord.recovered i s.now)).modMs (fun m => { m with logBuf := g m.logBuf }) := by
    unfold logCleared logPush
    rw [if_pos (by exact room)]
    exact ⟨_, rfl⟩
  refine ⟨g, ?_⟩
  unfold recover
  extract_lets now dropped cleared raised ended
  have eq : cleared = (s.modRec .ib (FaultRecord.recovered i s.now)).modMs (fun m => { m with logBuf := g m.logBuf }) := by
    rw [← logged, ← left]
  rw [← eq]
  have irq : Only 16384 cleared raised := .ite (raiseFaultIrq_only ..) (.refl _ _)
  have stays : ended = raised := by
    have line : raised.lineEnds .ib i = none := by simp [State.lineEnds, resourceOf, own]
    simp only [ended, line]
  have recoveries : ¬ 8 ≤ (ended.frOf .ib).recovAt.length := by
    rw [stays, frOf_of_fr (irq.fr.resolve_left (by decide)), eq]
    show ¬ 8 ≤ ((s.modRec .ib (FaultRecord.recovered i s.now)).frOf .ib).recovAt.length
    rw [frOf_modRec]
    have kept := List.length_filter_le (fun t => decide (elapsed s.now t < 360000000000)) (s.frOf .ib).recovAt
    simp only [FaultRecord.recovered, List.length_take, List.length_cons]
    omega
  rw [if_neg recoveries, stays]
  exact .of_only irq

/-- Settles O15: the one fault that is due recovers, and what t_storm withheld is raised and no longer withheld. -/
theorem quietPeriodEndsAFault : Obligations.QuietPeriodEndsAFault := by
  constructor
  · intro s i q insts contained own unshared quiet reached sound few room
    obtain ⟨g, same⟩ := recover_ib unshared room few
    have due : execQuietExpiry .ib i.cause i.item s = .next (recover .ib i s) := by
      unfold execQuietExpiry
      simp [insts, contained, own, quiet, reached]
    have fr (b : Block) : (recover .ib i s).frOf b = (s.modRec .ib (FaultRecord.recovered i s.now)).frOf b :=
      frOf_of_fr same.fr b
    refine ⟨recover .ib i s, due, ?_, ?_, fun b other => (fr b).trans (frOf_modRec_ne _ _ other), ?_⟩
    · rw [fr, frOf_modRec]
      simp [FaultRecord.recovered, insts]
    · rw [fr, frOf_modRec]
      rfl
    · rw [same]
      rfl
  · intro s b
    have only := faultIrqs_only b ((s.frOf b).insts.filter (fun i => i.withheld && decide (2000 ≤ elapsed s.now i.at_)))
      (s.modRec b (fun r => { r with insts := r.insts.map (fun i =>
        if i.withheld ∧ 2000 ≤ elapsed s.now i.at_ then { i with withheld := false } else i) }))
    have same := State.SameButPorts.of_only only
    refine ⟨_, rfl, ?_, ?_, fun c other => ?_⟩
    · rw [same]
      rfl
    · rw [frOf_of_fr same.fr, frOf_modRec]
      rfl
    · rw [frOf_of_fr same.fr, frOf_modRec_ne _ _ other]

end Sys2Proof.Machine
end

section
/-!
PROOFS about the write-fed channels: what a write to an empty channel makes of it, and that a refused one is only counted. They
settle O58.
-/
namespace Sys2Proof.Machine

/-! ## A channel with nothing queued (R372, R374) -/

theorem Cvw.settle_empty {x : Cvw} (empty : x.queue = []) (now : Tick) : x.settle now = x := by
  cases x
  cases empty
  rfl

/-- A write that takes no time acts at once. -/
theorem Cvw.push_at_once {x : Cvw} (empty : x.queue = []) (now : Tick) (f : Feed) :
    x.push now f 0 = { x.apply f with queue := [] } := by
  have due : feedDone now (f, now) = true := decide_eq_true (Nat.le_refl _)
  rw [Cvw.push, Cvw.settle_empty empty]
  simp [Cvw.settle, Cvw.applyAll, empty, due]
  cases f <;> exact ⟨rfl, rfl, rfl, rfl, rfl, rfl⟩

/-- A feed that takes its time waits, as the one queued. -/
theorem Cvw.push_waits {x : Cvw} (empty : x.queue = []) {now : Tick} (f : Feed) {k : Nat} (pos : 0 < k)
    (inside : now.toNat + k < 2 ^ 64) :
    x.push now f k = { x with queue := [(f, now + BitVec.ofNat 64 k)] } := by
  have waits : feedDone now (f, now + BitVec.ofNat 64 k) = false := by
    refine decide_eq_false fun due => ?_
    have sum : (now + BitVec.ofNat 64 k).toNat = now.toNat + k := by
      rw [BitVec.toNat_add, BitVec.toNat_ofNat]
      omega
    simp only [sum] at due
    omega
  rw [Cvw.push, Cvw.settle_empty empty]
  simp [Cvw.settle, Cvw.applyAll, empty, waits]

theorem Cvw.apply_queue (f : Feed) (x : Cvw) : (x.apply f).queue = x.queue := by cases f <;> rfl

theorem low_half (v : BitVec 32) : (v.setWidth 16).setWidth 32 = v &&& 0xFFFF := by
  refine BitVec.eq_of_toNat_eq ?_
  have low := Nat.and_two_pow_sub_one_eq_mod v.toNat 16
  simp [BitVec.toNat_and] at low ⊢
  omega

theorem chan_modChan (s : State) (n : Fin 4) (f : Cvw → Cvw) : ((s.modChan n f).cv.ch[n] : Cvw) = f s.cv.ch[n] := upd_get ..

theorem chan_modChan_ne (s : State) {n m : Fin 4} (other : m ≠ n) (f : Cvw → Cvw) : (s.modChan n f).cv.ch[m] = s.cv.ch[m] :=
  upd_get_ne _ _ other

/-! ## The three writes (R373 to R375) -/

theorem exec_cvwFeed {s : State} {p : Side} {n : Fin 4} {w : Fin 3} {v : BitVec 32} (r : s.reaches p .cv (.cvwFeed p n w v)) :
    exec (.cvwFeed p n w v) s = .next (cvwFeed p n w v s) := congrArg _ (inOrder_reaches rfl r)

theorem exec_cvwCtlWrite {s : State} {p : Side} {n : Fin 4} {v : BitVec 32} (r : s.reaches p .cv (.cvwCtlWrite p n v)) :
    exec (.cvwCtlWrite p n v) s = .next (cvwCtlWrite p n v s) := congrArg _ (inOrder_reaches rfl r)

theorem exec_cvwValWrite {s : State} {p : Side} {n : Fin 4} {v : BitVec 32} (r : s.reaches p .cv (.cvwValWrite p n v)) :
    exec (.cvwValWrite p n v) s = .next (cvwWrite p n (.val v) 0 s) := congrArg _ (inOrder_reaches rfl r)

section
variable {s : State} {p : Side} {n : Fin 4}

theorem cvwWrite_taken (free : cvwRefused p n s = false) (f : Feed) (ticks : Nat) :
    cvwWrite p n f ticks s = s.modChan n (Cvw.push s.now f ticks) := if_neg (by simp [free])

theorem cvwWrite_counted (refused : cvwRefused p n s = true) (f : Feed) (ticks : Nat) : cvwWrite p n f ticks s = countRefused p s :=
  if_pos refused

/-- A write of CVWn_CTL that sets no reserved bit is a write to the channel and nothing else. -/
theorem cvwCtlWrite_plain {v : BitVec 32} (plain : v.toNat < 4) :
    cvwCtlWrite p n v s = cvwWrite p n (.ctl (v.getLsbD 0) (v.getLsbD 1)) 0 s := by
  unfold cvwCtlWrite
  rw [if_neg (by simp [plain])]

/-- A refused write of CVWn_CTL is only counted, whatever bits it sets. -/
theorem cvwCtlWrite_refused {v : BitVec 32} (refused : cvwRefused p n s = true) : cvwCtlWrite p n v s = countRefused p s := by
  unfold cvwCtlWrite
  rw [if_neg (by simp [refused]), cvwWrite_counted refused]

/-- What a write makes of its channel is all it changes. -/
theorem cvwWrite_changes (free : cvwRefused p n s = false) {f : Feed} {ticks : Nat} {y : Cvw}
    (takes : Cvw.push s.now f ticks s.cv.ch[n] = y) : ((cvwWrite p n f ticks s).cv.ch[n] : Cvw) = y ∧
    (∀ m, m ≠ n → (cvwWrite p n f ticks s).cv.ch[m] = s.cv.ch[m]) ∧
    cvwWrite p n f ticks s = { s with cv := { s.cv with ch := (cvwWrite p n f ticks s).cv.ch } } := by
  rw [cvwWrite_taken free]
  exact ⟨(chan_modChan ..).trans takes, fun m other => chan_modChan_ne s other _, rfl⟩

theorem feed_width : ∀ w : Fin 3, 0 < 2 ^ w.val ∧ 2 ^ w.val ≤ 4 := by decide

theorem ctl_bits (mode init : Bool) : (BitVec.ofNat 32 (bit mode + 2 * bit init)).toNat < 4 ∧
    (BitVec.ofNat 32 (bit mode + 2 * bit init)).getLsbD 0 = mode ∧ (BitVec.ofNat 32 (bit mode + 2 * bit init)).getLsbD 1 = init := by
  cases mode <;> cases init <;> decide

end

/-- Settles O58: in its turn and from the owning port a write acts on its channel alone; otherwise the channel takes none. -/
theorem writeFedChannels : Obligations.WriteFedChannels := by
  constructor
  · intro s p n live available free empty
    refine ⟨fun w v turn inside => ?_, fun mode init turn => ?_, fun v turn => ?_⟩
    · have width : 0 < 2 ^ w.val ∧ 2 ^ w.val ≤ 4 := feed_width w
      have waits := Cvw.push_waits empty (.bytes ((leBytes 4 v.toNat).take (2 ^ w.val))) width.1 (now := s.now)
        (show s.tb.now.toNat + 2 ^ w.val < 2 ^ 64 by omega)
      exact ⟨_, exec_cvwFeed ⟨live, available, turn⟩, cvwWrite_changes free waits⟩
    · obtain ⟨plain, bit0, bit1⟩ := ctl_bits mode init
      refine ⟨_, exec_cvwCtlWrite ⟨live, available, turn⟩, ?_⟩
      rw [cvwCtlWrite_plain plain, bit0, bit1]
      refine cvwWrite_changes free ((Cvw.push_at_once empty _ _).trans ?_)
      simpa [Cvw.apply] using empty
    · refine ⟨_, exec_cvwValWrite ⟨live, available, turn⟩, cvwWrite_changes free ((Cvw.push_at_once empty _ _).trans ?_)⟩
      simpa [Cvw.apply, low_half] using empty
  · intro s p n w v live available refused feed ctl val
    refine ⟨countRefused p s, ?_, ?_, ?_, ?_, hport_modHport_other .., rfl⟩
    · rw [exec_cvwFeed ⟨live, available, feed⟩, cvwFeed, cvwWrite_counted refused]
    · rw [exec_cvwCtlWrite ⟨live, available, ctl⟩, cvwCtlWrite_refused refused]
    · rw [exec_cvwValWrite ⟨live, available, val⟩, cvwWrite_counted refused]
    · rw [countRefused, hport_modHport]

end Sys2Proof.Machine
end

section
/-!
PROOFS about supplies and the backup oscillator: what each report leaves of the module, and what the recording of a fatal fault
leaves of PCR. They settle O43.
-/
namespace Sys2Proof.Machine

/-! ## What the class action reads and writes of PCR (R259, R407, R424) -/

/-- A part of PCR that no class action writes. -/
structure Pcr.Untouched {α : Type} (g : Pcr → α) : Prop where
  fatalAt : ∀ p t, g { p with fatalAt := t } = g p
  phase : ∀ p x, g { p with phase := x } = g p
  bk : ∀ p x, g { p with bk := x } = g p
  failCounted : ∀ p x, g { p with failCounted := x } = g p

section
variable {α : Type} {g : Pcr → α} (free : Pcr.Untouched g)
include free

theorem setDev_untouched (new : DevState) (s : State) : g (setDev new s).pcr = g s.pcr := by
  rw [setDev_pcr]
  exact free.bk ..

theorem countFailedStart_untouched (s : State) : g (countFailedStart s).pcr = g s.pcr := by
  unfold countFailedStart
  split
  · rfl
  · exact (free.failCounted ..).trans (free.bk ..)

theorem enterHold_untouched (s : State) : g (enterHold s).pcr = g s.pcr := by
  have sends (t : State) : Only 65536 t ((fins 4).foldl (fun s n => s.modPlPort n (fun p => { p with sends := [] })) t) :=
    Only.foldl _ _ (Only.refl _ _) (fun _ _ h => modPlPort_nx h rfl)
  unfold enterHold
  simp only [setDev_untouched free, modDbg_pcr, modPcr_pcr, modHp_pcr, (sends _).pcr.resolve_left (by decide), modSt_pcr,
    ackDrop_f_pcr, abortBegun_f_pcr, free.phase]
  split
  · exact (countFailedStart_untouched free _).trans (congrArg g modeDrop_f_pcr)
  · exact congrArg g modeDrop_f_pcr

theorem fatalAction_untouched (s : State) : g (fatalAction s).pcr = g s.pcr := by
  unfold fatalAction
  dsimp only
  split <;> simp only [enterHold_untouched free, setDev_untouched free, modDbg_pcr, modEv_pcr, inhibitBoth_f_pcr, modPcr_pcr,
      free.fatalAt]

/-- The recording of a fatal fault leaves such a part as it is. -/
theorem recordCore_fatal_untouched {f : FaultRep} (fatal : f.cls = .fatal) (s : State) : g (recordCore f s).pcr = g s.pcr := by
  rcases recordCore_fatal_cases fatal s with contained | ⟨e, h, acts, -⟩
  · rw [contained, recordCore_cont_f_pcr rfl]
  · rw [acts, fatalAction_untouched free, logFault_f_pcr, modRec_pcr]

end

theorem untouched_freq : Pcr.Untouched (fun p => (p.freq, p.tbfOk)) := ⟨fun _ _ => rfl, fun _ _ => rfl, fun _ _ => rfl, fun _ _ => rfl⟩

/-! ## Corrected faults of PCR (R404, R412) -/

/-- The report of a corrected fault of PCR by side `d` (R427). -/
def pcrCorrectedReport (d : Side) (cause addr : Nat) : FaultRep :=
  { block := .pcr, cause := cause, cls := .corrected, scope := 7, item := 0, addr := addr, init := 0x50 + d.num, acc := 0xD }

theorem pcrCorrected_eq (d : Side) (cause addr : Nat) {s : State} (sound : s.bad = []) :
    pcrCorrected d cause addr s = recordPlain (pcrCorrectedReport d cause addr) s :=
  recordFault_corrected (f := pcrCorrectedReport d cause addr) rfl sound

/-- Recorded from a state that differs by PCR alone, such a fault is counted, and of the rest the records and interrupts change. -/
theorem pcrCorrected_leaves (d : Side) (cause addr : Nat) {s t : State} (sound : s.bad = []) (same : t = { s with pcr := t.pcr }) :
    (pcrCorrected d cause addr t).pcr = t.pcr ∧
    ((pcrCorrected d cause addr t).frOf .pcr).cntCorr = satInc (s.frOf .pcr).cntCorr ∧
    pcrCorrected d cause addr t = { s with fr := (pcrCorrected d cause addr t).fr, hp := (pcrCorrected d cause addr t).hp, pcr :=
        t.pcr } := by
  have bad : t.bad = [] := by rw [same]; exact sound
  have count := recordPlain_cntCorr (pcrCorrectedReport d cause addr) t
  have eq := (recordPlain_only (pcrCorrectedReport d cause addr) t).eq_of_fr_hp
  rw [pcrCorrected_eq d cause addr bad]
  refine ⟨recordPlain_f_pcr, count.trans ?_, eq.trans ?_⟩
  · rw [frOf_of_fr (s := s) (by rw [same])]
    rfl
  · rw [same]

/-! ## The field supply of a quarter (R404, R427) -/

/-- The report of a field supply outside its thresholds. -/
def vfReport (q : Fin 4) (cause : Nat) : FaultRep :=
  { block := .pcr, cause := cause, cls := .contained, scope := 1, item := q.val, addr := q.val, init := 0x50, acc := 0xD }

theorem vfFault_eq (q : Fin 4) (cause : Nat) (s : State) : vfFault q cause s = recordFault (vfReport q cause) s := rfl

theorem recordFault_contained_inhib {f : FaultRep} (contained : f.cls = .contained) (s : State) :
    (recordFault f s).os.inhib = s.os.inhib :=
  recordFault_keeps (P := fun t => t.os.inhib = s.os.inhib) (by simp [contained])
      (recordCore_contained_inhib contained s) fun r t held =>
    turnBad_keeps (P := fun t => t.os.inhib = s.os.inhib) held held fun b q u kept =>
      (recordCore_contained_inhib (f := resourceReport b q) rfl u).trans kept

theorem vfOutside_reported {s : State} (tb : s.pcr.clk.tb = true) (q : Fin 4) (cause : Nat) (mv : BitVec 16) :
    (vfOutside q cause mv s).uncleared .pcr cause q.val = true ∧ ((vfOutside q cause mv s).pcr.vfOk[q] : Bool) = false ∧
    (vfOutside q cause mv s).pcr.vfMv[q] = mv ∧ (vfOutside q cause mv s).dev = s.dev ∧
    (vfOutside q cause mv s).os.inhib = s.os.inhib := by
  have eq : vfOutside q cause mv s = recordFault (vfReport q cause)
      (s.modPcr (fun p => { p with vfOk := vset p.vfOk q false, vfMv := vset p.vfMv q mv })) := if_pos tb
  rw [eq]
  refine ⟨(recordedFaultIsUncleared (vfReport q cause) _ (by simp [vfReport])).1, ?_, ?_, recordFault_cont_f_dev rfl,
    recordFault_contained_inhib rfl _⟩
  · rw [recordFault_cont_f_pcr rfl]
    exact vset_get ..
  · rw [recordFault_cont_f_pcr rfl]
    exact vset_get ..

/-- Where a cause has gone absent a fault stands as it did, or its quiet timer has just begun. -/
theorem of_mem_causeAbsent {b : Block} {cause item : Nat} {s : State} {i : FaultInst}
    (mem : i ∈ ((causeAbsent b cause item s).frOf b).insts) :
    (i ∈ (s.frOf b).insts ∧ ¬ (i.cause = cause ∧ i.item = item ∧ i.life = .present ∧ i.cls = .contained)) ∨ i.life = .quiet s.now := by
  rw [causeAbsent, frOf_modRec] at mem
  obtain ⟨j, held, eq⟩ := List.mem_map.mp mem
  split at eq
  · exact .inr (by rw [← eq])
  · next other => exact .inl ⟨eq ▸ held, eq ▸ other⟩

theorem execVfRestore_absent {s : State} {q : Fin 4} {i : FaultInst}
    (mem : i ∈ ((causeAbsent .pcr 6 q.val (causeAbsent .pcr 5 q.val s)).frOf .pcr).insts) (cause : i.cause = 5 ∨ i.cause = 6)
    (item : i.item = q.val) (contained : i.cls = .contained) : i.life ≠ .present := by
  intro present
  rcases of_mem_causeAbsent mem with ⟨before, excess⟩ | quiet
  · rcases of_mem_causeAbsent before with ⟨-, loss⟩ | quiet
    · rcases cause with five | six
      · exact loss ⟨five, item, present, contained⟩
      · exact excess ⟨six, item, present, contained⟩
    · rw [present] at quiet
      cases quiet
  · rw [present] at quiet
    cases quiet

/-! ## The measurement of TB (R413) -/

/-- PCR once a window has ended: its deviation in ppm, and the next window. -/
def State.measured (s : State) : State :=
  let d : Int := (elapsed s.now s.pcr.freqFrom : Int) - 3125000
  s.modPcr (fun p => { p with
    freqFrom := s.now, freq := BitVec.ofInt 32 ((d * 8).tdiv 25), tbfOk := decide ((d * 8).natAbs ≤ 5000 * 25) })

theorem exec_tbFreqWindow {s : State} (tb : s.pcr.clk.tb = true) (runs : s.pcr.bakFail = false) :
    exec .tbFreqWindow s = .next (if 20000 * 25 < (((elapsed s.now s.pcr.freqFrom : Int) - 3125000) * 8).natAbs
      then pcrFatal .a 4 s.measured.pcr.freq.toNat 0xD s.measured else s.measured) :=
  congrArg _ (if_neg (by simp [tb, runs]))

/-- A window whose ticks lie within 5,000 ppm qualifies TB. -/
theorem measured_within {s : State} {k : Nat} (ticks : elapsed s.now s.pcr.freqFrom = k) (least : 3109375 ≤ k) (most : k ≤ 3140625) :
    s.measured.pcr.tbfOk = true := by
  refine decide_eq_true ?_
  rw [ticks]
  omega

theorem measured_beyond {s : State} {k : Nat} (ticks : elapsed s.now s.pcr.freqFrom = k) (far : 3187500 < k ∨ k < 3062500) :
    s.measured.pcr.tbfOk = false := by
  refine decide_eq_false ?_
  rw [ticks]
  omega

theorem exec_tbFreqWindow_within {s : State} (tb : s.pcr.clk.tb = true) (runs : s.pcr.bakFail = false) {k : Nat}
    (ticks : elapsed s.now s.pcr.freqFrom = k) (least : 3109375 ≤ k) (most : k ≤ 3140625) :
    exec .tbFreqWindow s = .next s.measured := by
  rw [exec_tbFreqWindow tb runs, ticks, if_neg (by omega)]

theorem exec_tbFreqWindow_beyond {s : State} (tb : s.pcr.clk.tb = true) (runs : s.pcr.bakFail = false) {k : Nat}
    (ticks : elapsed s.now s.pcr.freqFrom = k) (far : 3187500 < k ∨ k < 3062500) :
    exec .tbFreqWindow s = .next (pcrFatal .a 4 s.measured.pcr.freq.toNat 0xD s.measured) := by
  rw [exec_tbFreqWindow tb runs, ticks, if_pos (by omega)]

theorem pcrFatal_freq {addr : Nat} (s : State) : (pcrFatal .a 4 addr 0xD s).pcr.freq = s.pcr.freq ∧
    (pcrFatal .a 4 addr 0xD s).pcr.tbfOk = s.pcr.tbfOk := by
  have recorded : pcrFatal .a 4 addr 0xD s = recordCore (pcrReport .a 4 addr 0xD) s :=
    recordFault_unshared (f := pcrReport .a 4 addr 0xD) (by simp [pcrReport]) (by simp [pcrReport, resourceOf]) s
  rw [recorded]
  exact Prod.mk.inj (recordCore_fatal_untouched untouched_freq (f := pcrReport .a 4 addr 0xD) rfl s)

/-! ## Logic and backup supplies (R404, R405, R412) -/

/-- The voltage of a side reported outside its range. -/
def State.vlRanged (s : State) (d : Side) (mv : BitVec 16) : State :=
  s.modPcr (fun p => { p with vlMv := p.vlMv.set d mv, vlOk := p.vlOk.set d false })

theorem exec_vlRange_good {s : State} {d : Side} (mv : BitVec 16) (tb : s.pcr.clk.tb = true) (good : s.pcr.vl.get d = .good) :
    exec (.vlRange d mv) s = .next (pcrCorrected d 8 (d.num + mv.toNat * 65536) (s.vlRanged d mv)) :=
  congrArg Host.Outcome.next (if_pos (by rw [tb, good]; rfl))

/-- TB is no longer measured or qualified. -/
def State.unqualified (s : State) : State := s.modPcr (fun p => { p with bakFail := true, freq := 0x80000000, tbfOk := false })

/-- The backup supply reported failing. -/
def State.bakLost (s : State) (mv : BitVec 16) : State :=
  loseBackup (s.modPcr (fun p => { p with vbakOk := false, vbakMv := mv, vbakLow := true }))

theorem exec_bakFail_running {s : State} (mv : BitVec 16) (tb : s.pcr.clk.tb = true) :
    exec (.bakFail mv) s = .next (pcrCorrected .a 9 0 (s.bakLost mv).unqualified) := congrArg Host.Outcome.next (if_pos tb)

theorem exec_bakEdgeTimeout_running {s : State} (tb : s.pcr.clk.tb = true) : exec .bakEdgeTimeout s =
    .next (pcrCorrected .a 9 1 (s.modPcr (fun p => { p with bakRun := false })).unqualified) := congrArg Host.Outcome.next (if_pos tb)

/-- The voltage of a side reported good again. -/
def State.vlRestored (s : State) (d : Side) (mv : BitVec 16) : State :=
  s.modPcr (fun p => { p with
    vl := p.vl.set d .good, vlMv := p.vlMv.set d mv, vlOk := p.vlOk.set d (p.clk.tb && inRange 4750 5250 mv) })

theorem exec_vlRestore_free {s : State} (d : Side) (mv : BitVec 16) (free : s.pcr.asserted = none) :
    exec (.vlRestore d mv) s = .next (s.vlRestored d mv) :=
  congrArg Host.Outcome.next (if_neg (show ¬ (s.pcr.asserted = some .system) by simp [free]))

/-- Settles O43: each report is one change of PCR, with the fault it records where TB runs. -/
theorem suppliesAreReportedAndRecorded : Obligations.SuppliesAreReportedAndRecorded := by
  refine ⟨?_, ?_, ?_, ?_, ?_⟩
  · intro s d mv tb sound good
    obtain ⟨pcr, count, eq⟩ := pcrCorrected_leaves d 8 (d.num + mv.toNat * 65536) sound (t := s.vlRanged d mv) rfl
    refine ⟨_, exec_vlRange_good mv tb good, ?_, ?_, count, eq.trans (by rw [pcr]; rfl)⟩
    · rw [pcr]
      exact Two.get_set ..
    · rw [pcr]
      exact Two.get_set ..
  · intro s q mv tb
    refine ⟨⟨_, rfl, vfOutside_reported tb q 5 mv⟩, ⟨_, rfl, vfOutside_reported tb q 6 mv⟩, ⟨_, rfl, ?_, ?_, ?_, rfl⟩⟩
    · exact (vset_get ..).trans tb
    · exact vset_get ..
    · intro i mem
      exact execVfRestore_absent mem
  · intro s mv tb sound
    constructor
    · obtain ⟨pcr, count, eq⟩ := pcrCorrected_leaves .a 9 0 sound (t := (s.bakLost mv).unqualified) rfl
      refine ⟨_, exec_bakFail_running mv tb, ?_, ?_, ?_, ?_, count, eq.trans (by rw [pcr])⟩
      all_goals rw [pcr]; rfl
    · obtain ⟨pcr, count, eq⟩ := pcrCorrected_leaves .a 9 1 sound
        (t := (s.modPcr (fun p => { p with bakRun := false })).unqualified) rfl
      refine ⟨_, exec_bakEdgeTimeout_running tb, ?_, ?_, ?_, count, eq.trans (by rw [pcr])⟩
      all_goals rw [pcr]; rfl
  · intro s d mv free
    exact ⟨_, exec_vlRestore_free d mv free, Two.get_set .., Two.get_set .., rfl⟩
  · intro s k tb runs ticks
    refine ⟨fun most least => ?_, fun far => ?_⟩
    · have within := measured_within ticks least most
      exact ⟨_, exec_tbFreqWindow_within tb runs ticks least most, within, rfl, by rw [← within]; rfl⟩
    · obtain ⟨freq, tbfOk⟩ := pcrFatal_freq (addr := s.measured.pcr.freq.toNat) s.measured
      refine ⟨_, exec_tbFreqWindow_beyond tb runs ticks far, tbfOk.trans (measured_beyond ticks far), ?_⟩
      rw [freq]
      exact (pcrFatal_taken (cause := 4) (by decide) (by decide) .a s.measured.pcr.freq.toNat 0xD s.measured).1

end Sys2Proof.Machine
end

section
/-!
PROOFS about the peer links: what a change of a port's state leaves of it, that a port's own events reach no other port, and what
the port puts on the line and takes from it. They settle O41 and O42.
-/
namespace Sys2Proof.Machine

/-! ## A change of one port -/

/-- The change reaches one port of PL, the notes of changed states and the interrupts of HP. -/
structure State.OnlyPort (n : Fin 4) (s t : State) : Prop where
  others : ∀ m, m ≠ n → t.pl.port[m] = s.pl.port[m]
  rest : t = { s with pl := { s.pl with port := t.pl.port, evt := t.pl.evt }, hp := t.hp }

theorem State.OnlyPort.refl (n : Fin 4) (s : State) : s.OnlyPort n s := ⟨fun _ _ => rfl, rfl⟩

theorem State.OnlyPort.trans {n : Fin 4} {s t u : State} (h : s.OnlyPort n t) (k : t.OnlyPort n u) : s.OnlyPort n u :=
  ⟨fun m other => (k.others m other).trans (h.others m other), by rw [k.rest, h.rest]⟩

theorem onlyPort_modPlPort (n : Fin 4) (f : PlPort → PlPort) (s : State) : s.OnlyPort n (s.modPlPort n f) :=
  ⟨fun _ other => port_modPlPort_ne s f other, rfl⟩

theorem onlyPort_raiseEventIrq (n : Fin 4) (b : Block) (s : State) : s.OnlyPort n (raiseEventIrq b s) :=
  ⟨fun m _ => port_of_pl raiseEventIrq_f_pl m, by
    have same := State.SameButPorts.of_only (raiseEventIrq_only b s)
    rw [same]⟩

theorem onlyPort_noted (n : Fin 4) (s : State) :
    s.OnlyPort n (s.modPl (fun p => { p with evt := p.evt ||| BitVec.ofNat 4 (2 ^ n.val) })) := ⟨fun _ _ => rfl, rfl⟩

theorem onlyPort_keepImage (n : Fin 4) (s : State) : s.OnlyPort n (keepImage n s) := onlyPort_modPlPort ..

theorem onlyPort_plState (n : Fin 4) (st : PlState) (s : State) : s.OnlyPort n (plState n st s) := by
  unfold plState
  split
  · exact .refl ..
  · dsimp only
    split
    · exact (((onlyPort_keepImage n s).trans (onlyPort_modPlPort ..)).trans (onlyPort_noted ..)).trans (onlyPort_raiseEventIrq ..)
    · exact ((onlyPort_keepImage n s).trans (onlyPort_modPlPort ..)).trans (onlyPort_noted ..)

theorem onlyPort_plTune (n : Fin 4) (s : State) : s.OnlyPort n (plTune n s) := (onlyPort_plState ..).trans (onlyPort_modPlPort ..)

theorem onlyPort_plAlign (n : Fin 4) (s : State) : s.OnlyPort n (plAlign n s) := by
  unfold plAlign
  dsimp only
  split
  · exact (onlyPort_plState ..).trans (onlyPort_plTune ..)
  · exact onlyPort_plState ..

theorem onlyPort_plDown (n : Fin 4) (s : State) : s.OnlyPort n (plDown n s) := by
  unfold plDown
  dsimp only
  split
  · exact (onlyPort_plState ..).trans (onlyPort_plAlign ..)
  · exact onlyPort_plState ..

/-! ## What a change of state leaves of its own port -/

/-- The port differs in its link state, the times that go with it and the image kept for a snapshot. -/
def PlPort.Moved (p q : PlPort) : Prop :=
  q = { p with st := q.st, since := q.since, rxAt := q.rxAt, imagePrev := q.imagePrev, imageAt := q.imageAt }

theorem PlPort.Moved.eq {p q : PlPort} (moved : p.Moved q) :
    q = { p with st := q.st, since := q.since, rxAt := q.rxAt, imagePrev := q.imagePrev, imageAt := q.imageAt } := moved

theorem keepImage_port (n : Fin 4) (s : State) : ∃ prev at_,
    (keepImage n s).pl.port[n] = ({ s.pl.port[n] with imagePrev := prev, imageAt := at_ } : PlPort) := by
  rw [keepImage, port_modPlPort]
  split
  · exact ⟨_, _, rfl⟩
  · exact ⟨_, _, rfl⟩

theorem plState_moved (n : Fin 4) (st : PlState) (s : State) : PlPort.Moved s.pl.port[n] (plState n st s).pl.port[n] := by
  obtain ⟨prev, at_, kept⟩ := keepImage_port n s
  have noted : PlPort.Moved s.pl.port[n] ((keepImage n s).modPlPort n (fun p =>
      { p with st := st, since := s.now, rxAt := if p.st = .off ∨ p.st = .down ∨ p.st = .lost then none else p.rxAt })).pl.port[n] := by
    rw [port_modPlPort, kept]
    rfl
  unfold plState
  split
  · rfl
  · dsimp only
    split
    · rw [port_of_pl raiseEventIrq_f_pl]
      exact noted
    · exact noted

theorem plState_signal (n : Fin 4) (st : PlState) (s : State) :
    ((plState n st s).pl.port[n] : PlPort).signal = (s.pl.port[n] : PlPort).signal :=
  (congrArg PlPort.signal (plState_moved n st s).eq :)

theorem plState_aligned (n : Fin 4) (st : PlState) (s : State) :
    ((plState n st s).pl.port[n] : PlPort).aligned = (s.pl.port[n] : PlPort).aligned :=
  (congrArg PlPort.aligned (plState_moved n st s).eq :)

theorem plState_losses (n : Fin 4) (st : PlState) (s : State) :
    ((plState n st s).pl.port[n] : PlPort).losses = (s.pl.port[n] : PlPort).losses :=
  (congrArg PlPort.losses (plState_moved n st s).eq :)

theorem plState_own (n : Fin 4) (st : PlState) (s : State) : ((plState n st s).pl.port[n] : PlPort).st = st :=
  (linkSt_plState n n st s).trans (if_pos rfl)

/-- A port without alignment that goes to ALIGN stays there. -/
theorem plAlign_unaligned {n : Fin 4} {s : State} (unaligned : (s.pl.port[n] : PlPort).aligned = false) :
    plAlign n s = plState n .align s :=
  if_neg (by rw [plState_aligned, unaligned]; exact Bool.false_ne_true)

/-- A port without a signal that goes to DOWN stays there. -/
theorem plDown_silent {n : Fin 4} {s : State} (silent : (s.pl.port[n] : PlPort).signal = false) : plDown n s = plState n .down s :=
  if_neg (by rw [plState_signal, silent]; exact Bool.false_ne_true)

/-! ## A corrected fault of a port while no resource is bad -/

theorem recordPlain_rest (f : FaultRep) (s : State) :
    recordPlain f s = { s with fr := (recordPlain f s).fr, hp := (recordPlain f s).hp } := (recordPlain_only f s).eq_of_fr_hp

theorem linkCorrected_sound {cause reason : Nat} {n : Fin 4} {s : State} (sound : s.bad = []) :
    linkCorrected cause n reason s = { s with fr := (linkCorrected cause n reason s).fr, hp := (linkCorrected cause n reason s).hp } ∧
    ((linkCorrected cause n reason s).frOf .pl).cntCorr = satInc (s.frOf .pl).cntCorr := by
  rw [linkCorrected, recordFault_corrected rfl sound]
  refine ⟨recordPlain_rest .., ?_⟩
  exact congrArg FaultRecord.cntCorr (recordPlain_frOf _ s)

/-! ## The events of a port (R342, R349, R350, R353, R357) -/

/-- A port whose receiver tells of its line: the image is kept first (R18). -/
def State.told (n : Fin 4) (f : PlPort → PlPort) (s : State) : State := (keepImage n s).modPlPort n f

theorem onlyPort_told (n : Fin 4) (f : PlPort → PlPort) (s : State) : s.OnlyPort n (s.told n f) :=
  (onlyPort_keepImage ..).trans (onlyPort_modPlPort ..)

theorem told_port (n : Fin 4) (f : PlPort → PlPort) (s : State) : ∃ prev at_,
    (s.told n f).pl.port[n] = f ({ s.pl.port[n] with imagePrev := prev, imageAt := at_ } : PlPort) := by
  obtain ⟨prev, at_, kept⟩ := keepImage_port n s
  exact ⟨prev, at_, by rw [State.told, port_modPlPort, kept]⟩

theorem signalPresent_aligns {s : State} {n : Fin 4} (down : (s.pl.port[n] : PlPort).st = .down)
    (unaligned : (s.pl.port[n] : PlPort).aligned = false) :
    exec (.linkSignalPresent n) s = .next (plState n .align (s.told n (fun p => { p with signal := true }))) := by
  obtain ⟨prev, at_, port⟩ := told_port n (fun p => { p with signal := true }) s
  rw [← plAlign_unaligned (by rw [port]; exact unaligned)]
  exact congrArg Host.Outcome.next (if_pos (by
    show (((s.told n (fun p => { p with signal := true })).pl.port[n]) : PlPort).st = .down
    rw [port]
    exact down))

theorem signalLoss_downs {s : State} {n : Fin 4} (tuning : (s.pl.port[n] : PlPort).st = .align ∨ (s.pl.port[n] : PlPort).st = .tune ∨
      (s.pl.port[n] : PlPort).st = .check ∨ (s.pl.port[n] : PlPort).st = .rejected) :
    exec (.linkSignalLoss n) s = .next (plState n .down (s.told n (fun p => { p with signal := false, aligned := false }))) := by
  obtain ⟨prev, at_, port⟩ := told_port n (fun p => { p with signal := false, aligned := false }) s
  have st : ((s.told n (fun p => { p with signal := false, aligned := false })).pl.port[n] : PlPort).st =
      (s.pl.port[n] : PlPort).st := by
    rw [port]
  show execLinkSignalLoss n s = _
  unfold execLinkSignalLoss
  dsimp only
  rw [← State.told, st]
  obtain h | h | h | h := tuning
  all_goals rw [h]

theorem aligned_tunes {s : State} {n : Fin 4} (aligning : (s.pl.port[n] : PlPort).st = .align) :
    exec (.linkAligned n) s = .next (plTune n (s.told n (fun p => { p with aligned := true }))) := by
  obtain ⟨prev, at_, port⟩ := told_port n (fun p => { p with aligned := true }) s
  exact congrArg Host.Outcome.next (if_pos (by
    show ((s.told n (fun p => { p with aligned := true })).pl.port[n] : PlPort).st = .align
    rw [port]
    exact aligning))

theorem tuneTimeout_judges {s : State} {n : Fin 4} (tuning : (s.pl.port[n] : PlPort).st = .tune) :
    exec (.tuneTimeout n) s = .next (if 200 * 100 * (s.partner n).cycle ≤ elapsed s.tb.now (s.pl.port[n] : PlPort).since
      then plState n .lost (keepImage n s) else keepImage n s) := by
  obtain ⟨prev, at_, kept⟩ := keepImage_port n s
  show execTuneTimeout n s = _
  unfold execTuneTimeout
  dsimp only
  rw [kept, partner_of_ev_st keepImage_f_ev keepImage_f_st]
  simp only [tuning, true_and, State.now, keepImage_f_tb]

theorem lostExpiry_leaves {s : State} {n : Fin 4} (lost : (s.pl.port[n] : PlPort).st = .lost)
    (overdue : 100000 ≤ elapsed s.tb.now (s.pl.port[n] : PlPort).since) (unaligned : (s.pl.port[n] : PlPort).aligned = false) :
    exec (.lostExpiry n) s = .next (plState n (if (s.pl.port[n] : PlPort).signal then .align else .down) (keepImage n s)) := by
  obtain ⟨prev, at_, kept⟩ := keepImage_port n s
  have noAlign : ((keepImage n s).pl.port[n] : PlPort).aligned = false := by rw [kept]; exact unaligned
  show execLostExpiry n s = _
  unfold execLostExpiry
  dsimp only
  rw [kept]
  simp only [lost, State.now, keepImage_f_tb, overdue, true_and, if_true]
  cases signal : (s.pl.port[n] : PlPort).signal
  case true => exact congrArg _ (plAlign_unaligned noAlign)
  case false => exact congrArg _ (plDown_silent (by rw [kept]; exact signal))

theorem windowExpiry_closes {s : State} {n : Fin 4} {u : Tick} {k : Nat} (open_ : (s.pl.port[n] : PlPort).win = some (u, k))
    (overdue : k ≤ elapsed s.tb.now u) : exec (.detachWindowExpiry n) s = .next (s.told n (fun p => { p with win := none })) := by
  show execDetachWindowExpiry n s = _
  unfold execDetachWindowExpiry
  dsimp only
  rw [open_]
  exact congrArg _ (if_pos overdue)

/-! ## A loss outside every detach window (R349, R359) -/

theorem abortSends_none {n : Fin 4} {code : Nat} {s : State} (idle : (s.pl.port[n] : PlPort).sends = []) :
    abortSends n code s = s.modPlPort n (fun p => { p with sends := [] }) := by
  rw [abortSends, idle, List.foldl_nil]

/-- What a loss outside every window leaves of the port before its state changes. -/
def PlPort.lost (now : Tick) (inside : Bool) (p : PlPort) : PlPort :=
  { p with losses := satInc p.losses, lostCnt := satInc p.lostCnt, subst := p.subst || inside, lossAt := some now, lossUp :=
      p.st == .up }

/-- The port before the corrected fault of a loss is recorded. -/
def State.losing (n : Fin 4) (next : PlState) (s : State) : State :=
  plState n next ((s.modPlPort n (fun p => { p with sends := [] })).told n (PlPort.lost s.now false))

theorem linkLoss_outside {n : Fin 4} {next : PlState} {s : State} (shut : (s.pl.port[n] : PlPort).win = none)
    (undetached : s.detachDue n = false) (idle : (s.pl.port[n] : PlPort).sends = []) :
    linkLoss n next s = linkCorrected 4 n 0 (s.losing n next) := by
  have outside : ((s.pl.port[n] : PlPort).winOpen s.now || ((s.pl.port[n] : PlPort).st == .up && s.detachDue n)) = false := by
    rw [PlPort.winOpen, shut, undetached, Bool.and_false]
    rfl
  unfold linkLoss
  dsimp only
  rw [outside, abortSends_none idle]
  rfl

theorem losing_losses (n : Fin 4) (next : PlState) (s : State) :
    ((s.losing n next).pl.port[n] : PlPort).losses = satInc (s.pl.port[n] : PlPort).losses := by
  obtain ⟨prev, at_, port⟩ := told_port n (PlPort.lost s.now false) (s.modPlPort n (fun p => { p with sends := [] }))
  rw [State.losing, plState_losses, port, port_modPlPort]
  rfl

theorem onlyPort_losing (n : Fin 4) (next : PlState) (s : State) : s.OnlyPort n (s.losing n next) :=
  ((onlyPort_modPlPort ..).trans (onlyPort_told ..)).trans (onlyPort_plState ..)

theorem partner_keepImage (n m : Fin 4) (s : State) : (keepImage n s).partner m = s.partner m :=
  partner_of_ev_st keepImage_f_ev keepImage_f_st m

theorem frameDue_keepImage (n : Fin 4) (s : State) : (keepImage n s).frameDue n = s.frameDue n := by
  obtain ⟨prev, at_, kept⟩ := keepImage_port n s
  simp only [State.frameDue, keepImage_f_pending, partner_keepImage, kept]
  rfl

theorem detachDue_keepImage (n : Fin 4) (s : State) : (keepImage n s).detachDue n = s.detachDue n := by
  simp only [State.detachDue, keepImage_f_pending, partner_keepImage, sq_of_wq keepImage_f_wq]

theorem watchdog_loses {s : State} {n : Fin 4} {u : Tick} (up : (s.pl.port[n] : PlPort).st = .up)
    (accepted : (s.pl.port[n] : PlPort).rxAt = some u)
    (overdue : 100 * (s.partner n).wdog * (s.partner n).cycle ≤ elapsed s.tb.now u) (silent : s.frameDue n = false) :
    exec (.linkWatchdog n) s = .next (linkLoss n .lost (keepImage n s)) := by
  obtain ⟨prev, at_, kept⟩ := keepImage_port n s
  show execLinkWatchdog n s = _
  unfold execLinkWatchdog
  dsimp only
  rw [kept, partner_keepImage, frameDue_keepImage]
  simp only [up, accepted, State.now, keepImage_f_tb, overdue, silent, true_or, true_and, Bool.not_false, if_true]

/-- Settles O41: each event of a port is a change of its state after what its receiver tells. -/
theorem linkStatesFollowSignalAndTime : Obligations.LinkStatesFollowSignalAndTime := by
  refine ⟨fun s n down unaligned => ?present, fun s n tuning => ?loss, fun s n aligning => ?aligned, fun s n tuning => ?timeout,
    fun s n lost overdue unaligned => ?expiry, fun s n u up accepted overdue shut idle silent undetached sound => ?watchdog,
    fun s n u k opened overdue => ?window⟩
  case present =>
    obtain ⟨prev, at_, port⟩ := told_port n (fun p => { p with signal := true }) s
    obtain ⟨others, rest⟩ := (onlyPort_told n (fun p => { p with signal := true }) s).trans (onlyPort_plState n .align _)
    exact ⟨_, signalPresent_aligns down unaligned, plState_own .., by rw [plState_signal, port], others, rest⟩
  case loss =>
    obtain ⟨prev, at_, port⟩ := told_port n (fun p => { p with signal := false, aligned := false }) s
    obtain ⟨others, rest⟩ :=
      (onlyPort_told n (fun p => { p with signal := false, aligned := false }) s).trans (onlyPort_plState n .down _)
    exact ⟨_, signalLoss_downs tuning, plState_own .., by rw [plState_signal, port], others, rest⟩
  case aligned =>
    obtain ⟨others, rest⟩ := (onlyPort_told n (fun p => { p with aligned := true }) s).trans (onlyPort_plTune n _)
    refine ⟨_, aligned_tunes aligning, ?_, ?_, ?_, ?_, others, rest⟩
    all_goals rw [plTune, port_modPlPort]
    · exact plState_own ..
    · simp [State.told, State.now]
  case timeout =>
    refine ⟨_, tuneTimeout_judges tuning, ?_⟩
    split
    · obtain ⟨others, rest⟩ := (onlyPort_keepImage n s).trans (onlyPort_plState n .lost _)
      exact ⟨plState_own .., others, rest⟩
    · obtain ⟨others, rest⟩ := onlyPort_keepImage n s
      exact ⟨(linkSt_keepImage ..).trans tuning, others, rest⟩
  case expiry =>
    obtain ⟨others, rest⟩ := (onlyPort_keepImage n s).trans (onlyPort_plState n _ _)
    exact ⟨_, lostExpiry_leaves lost overdue unaligned, plState_own .., others, rest⟩
  case watchdog =>
    obtain ⟨prev, at_, kept⟩ := keepImage_port n s
    have loses := linkLoss_outside (next := .lost) (s := keepImage n s) (n := n) (by rw [kept]; exact shut)
      (by rw [detachDue_keepImage, undetached]) (by rw [kept]; exact idle)
    obtain ⟨others, rest⟩ := (onlyPort_keepImage n s).trans (onlyPort_losing n .lost _)
    have fr : ((keepImage n s).losing n .lost).fr = s.fr := by rw [rest]
    have bad : ((keepImage n s).losing n .lost).bad = [] := by rw [rest]; exact sound
    obtain ⟨only, count⟩ := linkCorrected_sound (cause := 4) (reason := 0) (n := n) bad
    have pl : (linkCorrected 4 n 0 ((keepImage n s).losing n .lost)).pl = ((keepImage n s).losing n .lost).pl := by rw [only]
    rw [← loses] at only count pl
    refine ⟨_, watchdog_loses up accepted overdue silent, ?_, ?_, ?_, fun m other => ?_, ?_⟩
    · rw [port_of_pl pl]
      exact plState_own ..
    · rw [port_of_pl pl, losing_losses, kept]
    · rw [count, frOf_of_fr fr]
    · rw [port_of_pl pl, others m other]
    · rw [only, rest]
  case window =>
    obtain ⟨prev, at_, port⟩ := told_port n (fun p => { p with win := none }) s
    obtain ⟨others, -⟩ := onlyPort_told n (fun p => { p with win := none }) s
    exact ⟨_, windowExpiry_closes opened overdue, by rw [port], by rw [port], others, rfl⟩

/-! ## Frames sent (R343, R344, R346, R347) -/

@[simp] theorem leBytes_length (n v : Nat) : (leBytes n v).length = n := by
  induction n generalizing v with
  | zero => rfl
  | succ n ih => rw [leBytes, List.length_cons, ih]

theorem sealFrame_length (sender receiver : Nat) (seqx : Word) (bs : List Byte) :
    (sealFrame sender receiver seqx bs).length = bs.length + 4 := by
  rw [sealFrame, List.length_append, leBytes_length]

theorem tuneFrame_length (c : PartnerCfg) (ident : Word) (p : PlPort) : (tuneFrame c ident p).length = 32 := by
  simp [tuneFrame, sealFrame_length]

theorem tuneFrame_head (c : PartnerCfg) (ident : Word) (p : PlPort) :
    (tuneFrame c ident p).take 2 = [0xC3, BitVec.ofNat 8 c.localAddr] := rfl

/-- The SEQX of the port's next safety frame (R346). -/
def PlPort.nextSeq (p : PlPort) : Word := if p.txAny then p.txSeq + 1 else p.start + 1

theorem safetyFrame_fst (c : PartnerCfg) (safe : List Byte) (now : Tick) (p : PlPort) : (safetyFrame c safe now p).1 = p.nextSeq := by
  cases sends : p.sends
  · simp [safetyFrame, sends, PlPort.nextSeq]
  · simp [safetyFrame, sends, PlPort.nextSeq]

theorem safetyFrame_length {c : PartnerCfg} {safe : List Byte} {now : Tick} {p : PlPort} (idle : p.sends = [])
    (sixteen : safe.length = 16) : (safetyFrame c safe now p).2.length = 32 := by
  simp [safetyFrame, idle, sealFrame_length, sixteen]

theorem safetyFrame_head {c : PartnerCfg} {safe : List Byte} {now : Tick} {p : PlPort} (idle : p.sends = []) :
    (safetyFrame c safe now p).2.head? = some 0x3C := by
  simp [safetyFrame, idle, sealFrame]

theorem outSafe_length (s : State) (n : Fin 4) : (s.outSafe n).length = 16 := by simp [State.outSafe]

/-- The state as the CYCLE tick of port `n` leaves it: the frame `bs` on the line, its check noted, and `f` of the port. -/
def State.sending (n : Fin 4) (bs : List Byte) (f : PlPort → PlPort) (s : State) : State :=
  (snoop (2 + 2 * n.val) (BitVec.ofNat 32 (frameField bs 28 4)) (s.modPlPort n (fun p => { p with cycleAt := some s.now }))).modPlPort n
    (fun p => f { p with sent := bs, sentAt := some s.now })

theorem sending_port (n : Fin 4) (bs : List Byte) (f : PlPort → PlPort) (s : State) : (s.sending n bs f).pl.port[n] =
    f ({ s.pl.port[n] with cycleAt := some s.tb.now, sent := bs, sentAt := some s.now } : PlPort) := by
  rw [State.sending, port_modPlPort]
  show f { (s.modPlPort n (fun p => { p with cycleAt := some s.now })).pl.port[n] with sent := bs, sentAt := some s.now } = _
  rw [port_modPlPort]
  rfl

theorem sending_others (n : Fin 4) (bs : List Byte) (f : PlPort → PlPort) (s : State) :
    ∀ m, m ≠ n → (s.sending n bs f).pl.port[m] = s.pl.port[m] := fun m other => by
  rw [State.sending, port_modPlPort_ne _ _ other]
  show (s.modPlPort n (fun p => { p with cycleAt := some s.now })).pl.port[m] = _
  rw [port_modPlPort_ne _ _ other]

theorem sendStep_idle {n : Fin 4} {s : State} (idle : (s.pl.port[n] : PlPort).sends = []) : sendStep n s = s := by
  unfold sendStep
  dsimp only
  rw [idle]

/-- The port has sent on a tick less than a cycle ago. -/
def PlPort.early (now : Tick) (c : PartnerCfg) (p : PlPort) : Bool :=
  match p.cycleAt with | some t => decide (elapsed now t < 100 * c.cycle) | none => false

section
variable {s : State} {n : Fin 4} (present : (s.partner n).type ≠ 0)
  (spaced : ∀ u, (s.pl.port[n] : PlPort).cycleAt = some u → 100 * (s.partner n).cycle ≤ elapsed s.tb.now u)
include present spaced

theorem linkCycle_due (on : (s.pl.port[n] : PlPort).st ≠ .off) : ¬((s.partner n).type = 0 ∨ (s.pl.port[n] : PlPort).st = .off ∨
    (s.pl.port[n] : PlPort).early s.now (s.partner n) = true) := by
  rintro (none | off | early)
  · exact present none
  · exact on off
  · unfold PlPort.early at early
    split at early
    · next u last => exact absurd (of_decide_eq_true early) (Nat.not_lt.mpr (spaced u last))
    · exact Bool.false_ne_true early

theorem linkCycle_tunes (tuning : (s.pl.port[n] : PlPort).st = .down ∨ (s.pl.port[n] : PlPort).st = .align ∨
    (s.pl.port[n] : PlPort).st = .tune) :
    exec (.linkCycle n) s = .next (s.sending n (tuneFrame (s.partner n) s.ownIdent s.pl.port[n]) id) := by
  have on : (s.pl.port[n] : PlPort).st ≠ .off := fun off => by rw [off] at tuning; simp at tuning
  refine congrArg Host.Outcome.next ((if_neg (linkCycle_due present spaced on)).trans ?_)
  dsimp only
  obtain h | h | h := tuning
  all_goals
    rw [h]
    rfl

theorem linkCycle_sends (open_ : (s.pl.port[n] : PlPort).st = .check ∨ (s.pl.port[n] : PlPort).st = .waitAccept ∨
    (s.pl.port[n] : PlPort).st = .up) (idle : (s.pl.port[n] : PlPort).sends = []) :
    exec (.linkCycle n) s = .next (s.sending n (safetyFrame (s.partner n) (s.outSafe n) s.tb.now s.pl.port[n]).2
      (fun p => { p with txSeq := (s.pl.port[n] : PlPort).nextSeq, txAny := true })) := by
  have on : (s.pl.port[n] : PlPort).st ≠ .off := fun off => by rw [off] at open_; simp at open_
  have still : sendStep n (s.sending n (safetyFrame (s.partner n) (s.outSafe n) s.tb.now s.pl.port[n]).2
      (fun p => { p with txSeq := (safetyFrame (s.partner n) (s.outSafe n) s.tb.now s.pl.port[n]).1, txAny := true })) =
      s.sending n (safetyFrame (s.partner n) (s.outSafe n) s.tb.now s.pl.port[n]).2
      (fun p => { p with txSeq := (safetyFrame (s.partner n) (s.outSafe n) s.tb.now s.pl.port[n]).1, txAny := true }) :=
    sendStep_idle (by rw [sending_port]; exact idle)
  rw [← safetyFrame_fst (s.partner n) (s.outSafe n) s.tb.now]
  refine congrArg Host.Outcome.next ((if_neg (linkCycle_due present spaced on)).trans ?_)
  dsimp only
  obtain h | h | h := open_
  all_goals
    rw [h]
    exact (congrArg (ite _ _) still).trans (ite_self _)

end

/-! ## Frames received (R348) -/

/-- The receive channel of port `n` has computed a check, or none (R381). -/
def State.checked (n : Fin 4) (check : Option Word) (s : State) : State :=
  match check with | some v => snoop (3 + 2 * n.val) v s | none => s

theorem checked_rest (n : Fin 4) (check : Option Word) (s : State) :
    s.checked n check = { s with cv := { s.cv with last := (s.checked n check).cv.last } } := by
  cases check
  case none => rfl
  case some v => rfl

theorem checked_port (n : Fin 4) (check : Option Word) (s : State) : (s.checked n check).pl = s.pl := by rw [checked_rest]

theorem judgeFrame_unframed {c : PartnerCfg} {p : PlPort} {framed : Bool} {bs : List Byte} (wrong : framed = false ∨ bs.length ≠ 32) :
    judgeFrame c p framed bs = .bad 1 := by
  have wrong : (!framed || bs.length != 32) = true := by simpa using wrong
  rw [judgeFrame]
  exact if_pos wrong

theorem rxCheck_unframed {c : PartnerCfg} {p : PlPort} {framed : Bool} {bs : List Byte} (wrong : framed = false ∨ bs.length ≠ 32) :
    rxCheck c p framed bs = none := by
  have wrong : (!framed || bs.length != 32) = true := by simpa using wrong
  rw [rxCheck]
  exact if_pos wrong

/-- A port that has discarded a frame at step 1. -/
def PlPort.unframed (p : PlPort) : PlPort := { p with badCnt := satInc p.badCnt, badReason := 1 }

theorem frameReceived_unframed {s : State} {n : Fin 4} {framed : Bool} {bs : List Byte} (present : (s.partner n).type ≠ 0)
    (wrong : framed = false ∨ bs.length ≠ 32) : exec (.frameReceived n framed bs) s =
      .next (linkCorrected 5 n 1 (s.told n PlPort.unframed)) := by
  refine congrArg Host.Outcome.next ((if_neg present).trans ?_)
  dsimp only
  rw [rxCheck_unframed wrong, judgeFrame_unframed wrong]
  rfl

theorem frameReceived_safety {s : State} {n : Fin 4} {bs : List Byte} {x : Word} (present : (s.partner n).type ≠ 0)
    (up : (s.pl.port[n] : PlPort).st = .up) (judged : judgeFrame (s.partner n) s.pl.port[n] true bs = .safety x) :
    exec (.frameReceived n true bs) s = .next (takeSafety n x bs
      (((keepImage n s).checked n (rxCheck (s.partner n) s.pl.port[n] true bs)).modPlPort n
          (fun p => { p with rxCnt := satInc p.rxCnt }))) := by
  refine congrArg Host.Outcome.next ((if_neg present).trans ?_)
  dsimp only
  rw [judged]
  exact if_neg fun tuning => PlState.noConfusion (up.symm.trans tuning.1)

theorem takeSafety_port (n : Fin 4) (x : Word) (bs : List Byte) (s : State) : ∃ missed nsrx,
    (takeSafety n x bs s).pl.port[n] = ({ s.pl.port[n] with
      safe := (bs.drop 6).take 16, nsrx := nsrx, rxAt := some s.tb.now, rxSeq := x, rxAny := true, missCnt := missed } : PlPort) := by
  rw [takeSafety, port_modPlPort]
  exact ⟨_, _, rfl⟩

theorem takeSafety_others (n : Fin 4) (x : Word) (bs : List Byte) (s : State) :
    ∀ m, m ≠ n → (takeSafety n x bs s).pl.port[m] = s.pl.port[m] := fun m other => by
  rw [takeSafety, port_modPlPort_ne _ _ other]
  rfl

/-- Settles O42: what a CYCLE tick puts on the line, and what a badly framed and an accepted frame leave. -/
theorem framesSentAndReceived : Obligations.FramesSentAndReceived := by
  refine ⟨fun s n present spaced idle => ⟨fun opened => ?safety, fun tuning => ?tune⟩,
    fun s n framed bs present sound wrong => ?unframed, fun s n bs x present up judged => ?accepted⟩
  case safety =>
    have port := sending_port n (safetyFrame (s.partner n) (s.outSafe n) s.tb.now s.pl.port[n]).2
      (fun p => { p with txSeq := (s.pl.port[n] : PlPort).nextSeq, txAny := true }) s
    refine ⟨_, linkCycle_sends present spaced opened idle, ?_, ?_, ?_, ?_, ?_, sending_others _ _ _ _, rfl⟩
    all_goals rw [port]
    · exact safetyFrame_length idle (outSafe_length s n)
    · exact safetyFrame_head idle
    · rfl
  case tune =>
    have port := sending_port n (tuneFrame (s.partner n) s.ownIdent s.pl.port[n]) id s
    refine ⟨_, linkCycle_tunes present spaced tuning, ?_, ?_, ?_, sending_others _ _ _ _, rfl⟩
    all_goals rw [port]
    · exact tuneFrame_length ..
    · exact tuneFrame_head ..
    · rfl
  case unframed =>
    obtain ⟨prev, at_, port⟩ := told_port n PlPort.unframed s
    obtain ⟨others, rest⟩ := onlyPort_told n PlPort.unframed s
    have bad : (s.told n PlPort.unframed).bad = [] := by rw [rest]; exact sound
    have fr : (s.told n PlPort.unframed).fr = s.fr := by rw [rest]
    obtain ⟨only, count⟩ := linkCorrected_sound (cause := 5) (reason := 1) (n := n) bad
    have pl := port_of_pl (congrArg State.pl only :)
    refine ⟨_, frameReceived_unframed present wrong, ?_, ?_, ?_, ?_, ?_, count.trans ?_, fun m other => (pl m).trans (others m other)⟩
    case refine_6 => rw [frOf_of_fr fr]
    all_goals
      rw [pl, port]
      rfl
  case accepted =>
    obtain ⟨prev, at_, kept⟩ := keepImage_port n s
    obtain ⟨others, -⟩ := onlyPort_keepImage n s
    have received := frameReceived_safety present up judged
    have rest := checked_rest n (rxCheck (s.partner n) s.pl.port[n] true bs) (keepImage n s)
    generalize (keepImage n s).checked n (rxCheck (s.partner n) s.pl.port[n] true bs) = u at received rest
    have port : (u.modPlPort n (fun p => { p with rxCnt := satInc p.rxCnt })).pl.port[n] = ({ s.pl.port[n] with
        imagePrev := prev, imageAt := at_, rxCnt := satInc (s.pl.port[n] : PlPort).rxCnt } : PlPort) := by
      rw [port_modPlPort, rest, kept]
    obtain ⟨missed, nsrx, taken⟩ := takeSafety_port n x bs (u.modPlPort n (fun p => { p with rxCnt := satInc p.rxCnt }))
    rw [port] at taken
    refine ⟨_, received, ?_, ?_, ?_, ?_, ?_, ?_, fun m other => ?_, ?_⟩
    case refine_7 =>
      rw [takeSafety_others _ _ _ _ m other, port_modPlPort_ne _ _ other, rest]
      exact others m other
    case refine_8 =>
      rw [rest]
      rfl
    all_goals rw [taken]
    · exact up
    · show some u.tb.now = _
      rw [rest]
      rfl

end Sys2Proof.Machine
end

section
/-!
PROOFS about the resets: what the entry to RESET and each level leave of PCR, the stores and the life cycle, and that every source
which stands alone asserts its level. They settle O44.
-/
namespace Sys2Proof.Machine

/-! ## The entry to RESET and to START (R26, R407, R421) -/

theorem setDev_reset_eq (s : State) : setDev .reset s =
    ackCheck (stopModulePgs (plAllOff (sourcesOff (cruiseStop (inhibitBoth (s.changing .reset)))))) := rfl

theorem setDev_reset_lc (s : State) : (setDev .reset s).st.lc = s.st.lc := by
  rw [setDev_reset_eq, (ackCheck_spares _).lc, stopModulePgs_f_st, plAllOff_f_st, sourcesOff_f_st, (cruiseStop_spares _).lc,
    inhibitBoth_f_st, (changing_spares _ s).lc]

theorem toReset_lc (s : State) : (toReset s).st.lc = s.st.lc := by
  unfold toReset
  split
  · rfl
  · exact setDev_reset_lc s

/-- What the entry to RESET changes of PCR: at most what the backup domain notes of the device state, its counts not. -/
theorem toReset_pcr (s : State) : ∃ bk, (toReset s).pcr = { s.pcr with bk := bk } ∧ bk.a.life = s.pcr.bk.a.life := by
  unfold toReset
  split
  · exact ⟨_, rfl, rfl⟩
  · exact ⟨_, setDev_pcr .reset s, rfl⟩

/-! ## A store through a reset (R91, R389, R416) -/

theorem Store.sameContents.refl (x : Store) : x.sameContents x := ⟨rfl, rfl, rfl, rfl, rfl, rfl, rfl, rfl, rfl, rfl⟩

theorem Store.sameContents.trans {x y z : Store} (h : x.sameContents y) (k : y.sameContents z) : x.sameContents z := by
  obtain ⟨a, b, c, d, e, f, g, h, i, j⟩ := h
  obtain ⟨a', b', c', d', e', f', g', h', i', j'⟩ := k
  exact ⟨a'.trans a, b'.trans b, c'.trans c, d'.trans d, e'.trans e, f'.trans f, g'.trans g, h'.trans h, i'.trans i, j'.trans j⟩

theorem demoted_bytes (x : TableSlot) : x.demoted.bytes = x.bytes := by
  unfold TableSlot.demoted
  split <;> rfl

theorem demoteSlots_contents (s : State) (j : Side) : (s.store j).sameContents ((demoteSlots s).store j) := by
  rw [store_demoteSlots]
  exact ⟨rfl, rfl, rfl, rfl, rfl, rfl, demoted_bytes _, demoted_bytes _, demoted_gen _, demoted_gen _⟩

/-- A rewritten identity area changes a store's own area and its wear alone. -/
theorem setIdentity_eq (f : Identity → Identity) (x : Store) :
    ∃ wear ident, x.setIdentity f = { x with wear := wear, ident := ident } := by
  unfold Store.setIdentity
  dsimp only
  split
  · exact ⟨_, _, rfl⟩
  · rw [wearRange_eq]
    exact ⟨_, _, rfl⟩

theorem setIdentity_contents (f : Identity → Identity) (x : Store) : x.sameContents (x.setIdentity f) := by
  obtain ⟨wear, ident, eq⟩ := setIdentity_eq f x
  rw [eq]
  exact .refl x

theorem checkpointWear_contents (s : State) (j : Side) : (s.store j).sameContents ((checkpointWear s).store j) := by
  unfold checkpointWear
  split
  · exact .refl _
  · have kept := store_modStores (fun _ x =>
      x.setIdentity (fun i => { i with wear := x.wear, jpass := BitVec.ofNat 64 (x.jwritten * 3 / 131072) })) s j
    refine (congrArg (Store.sameContents _) kept).mpr ?_
    split
    · exact setIdentity_contents ..
    · exact .refl _

/-! ## A system reset of every block (R416) -/

/-- The state a system reset works on: the wear checkpoint is written, RESET entered, and no staged table is verified. -/
def State.resetting (s : State) : State := demoteSlots (toReset (if s.dev = .reset then s else checkpointWear s))

theorem resetting_keeps (s : State) : s.resetting.st.lc = s.st.lc ∧ (∀ j, (s.store j).sameContents (s.resetting.store j)) ∧
    ∃ bk, s.resetting.pcr = { s.pcr with bk := bk } ∧ bk.a.life = s.pcr.bk.a.life := by
  have begun : (if s.dev = .reset then s else checkpointWear s).st = s.st ∧
      (if s.dev = .reset then s else checkpointWear s).pcr = s.pcr ∧
      ∀ j, (s.store j).sameContents ((if s.dev = .reset then s else checkpointWear s).store j) := by
    split
    · exact ⟨rfl, rfl, fun _ => .refl _⟩
    · exact ⟨checkpointWear_f_st, checkpointWear_f_pcr, checkpointWear_contents s⟩
  unfold State.resetting
  generalize (if s.dev = .reset then s else checkpointWear s) = t at begun
  obtain ⟨st, pcr, stores⟩ := begun
  obtain ⟨-, -, entered⟩ := toReset_keeps t
  obtain ⟨bk, noted, life⟩ := toReset_pcr t
  refine ⟨?_, fun j => (stores j).trans ?_, bk, ?_, ?_⟩
  · rw [(demoteSlots_only _).st.resolve_left (by decide), toReset_lc, st]
  · rw [← entered j]
    exact demoteSlots_contents ..
  · rw [(demoteSlots_only _).pcr.resolve_left (by decide), noted, pcr]
  · rw [life, pcr]

/-- What a store shows after a system reset: its contents, sound or failed, and readable. -/
def Store.readied (x : Store) : Store := { x with st := x.st.reset, readable := true }

theorem applySystem_store (s : State) (j : Side) : (applySystem s).store j = (s.resetting.store j).readied := Two.get_map _ _ j

theorem applySystem_stores (s : State) (j : Side) : (s.store j).sameContents ((applySystem s).store j) := by
  obtain ⟨-, stores, -⟩ := resetting_keeps s
  rw [applySystem_store]
  exact stores j

theorem applySystem_lc (s : State) : (applySystem s).st.lc = s.st.lc := (resetting_keeps s).1

theorem applySystem_pcr (s : State) : ∃ bk, (applySystem s).pcr =
    { s.pcr with bk := bk }.systemReset ∧ bk.a.life = s.pcr.bk.a.life := by
  obtain ⟨-, -, bk, pcr, life⟩ := resetting_keeps s
  exact ⟨bk, congrArg Pcr.systemReset pcr, life⟩

theorem reset_linesStopped (d : Side) : (Output.reset.recv.get d).stopSince.isSome = true := by cases d <;> rfl

theorem applySystem_linesStopped (s : State) : (applySystem s).linesStopped := fun k d => by
  show ((State.reset.os.out[k] : Output).recv.get d).stopSince.isSome = true
  rw [reset_out]
  exact reset_linesStopped d

/-! ## A source that stands alone (R417, R420) -/

/-- The state a level is applied to: the reset counted, its cause and its level noted. -/
def State.counted (level : ResetLevel) (cause : Nat) (s : State) : State :=
  (histStep cause satInc (modBackup (fun h => { h with life := satInc h.life }) s)).modPcr (fun p => { p with
    cause := BitVec.ofNat 8 cause, level := level,
    since := if level = .powerOn then 1 else s.pcr.since ||| BitVec.ofNat 9 (2 ^ (cause - 1)),
    counted := BitVec.ofNat 8 cause, armed := none, phase := .held, failCounted := false })

theorem counted_rest (level : ResetLevel) (cause : Nat) (s : State) :
    s.counted level cause = { s with pcr := (s.counted level cause).pcr } := rfl

theorem counted_life (level : ResetLevel) (cause : Nat) (s : State) : (s.counted level cause).pcr.bk.a.life = satInc s.pcr.bk.a.life :=
  rfl

theorem assertReset_settled_eq {s : State} (settled : s.settled) (level : ResetLevel) (cause : Nat) : ∃ data16 data32,
    assertReset level cause s = logEvent 5 Block.pcr.id data16 data32
      ((applyLevel level (s.counted level cause)).modPcr (fun p => { p with asserted := some level, fresh := true })) := by
  obtain ⟨asserted, phase⟩ := settled
  have notPll : (s.pcr.phase == .pll) = false := by simp [phase]
  unfold assertReset
  simp only [notPll, asserted, Option.isSome_none, Bool.or_self, Bool.false_and, Bool.false_eq_true, if_false]
  exact ⟨_, _, rfl⟩

/-- What a system reset keeps of PCR that its sources look at. -/
def Pcr.pins (p : Pcr) : Bool × Two Bool := (p.resetNLow, p.extest)

theorem assertReset_system {s : State} (settled : s.settled) (cause : Nat) :
    systemReset cause s (assertReset .system cause s) ∧ (assertReset .system cause s).pcr.pins = s.pcr.pins := by
  obtain ⟨data16, data32, eq⟩ := assertReset_settled_eq settled .system cause
  obtain ⟨bk, pcr, life⟩ := applySystem_pcr (s.counted .system cause)
  have pending : (assertReset .system cause s).pending = s.pending := (assertReset_only ..).pending.resolve_left (by decide)
  rw [eq] at pending ⊢
  refine ⟨⟨?_, ?_, ?_, ?_, ?_, ?_, ?_, ?_, ?_, fun b => ?_, fun c => ?_, ?_, fun j => ?_, pending⟩, ?_⟩
  · rw [logEvent_f_dev]
    rfl
  · rw [logEvent_f_pcr]
    rfl
  · rw [logEvent_f_pcr, modPcr_pcr, applyLevel, pcr]
    rfl
  · rw [logEvent_f_pcr, modPcr_pcr, applyLevel, pcr]
    rfl
  · rw [logEvent_f_pcr, modPcr_pcr, applyLevel, pcr]
    rfl
  · rw [logEvent_f_pcr, modPcr_pcr, applyLevel, pcr]
    exact life.trans (counted_life ..)
  · rw [logEvent_f_os]
    rfl
  · simp only [State.linesStopped, logEvent_f_os]
    exact applySystem_linesStopped _
  · rw [logEvent_f_tb]
    rfl
  · rw [logEvent, logPush_insts]
    exact congrArg FaultRecord.insts (Vector.getElem_replicate ..)
  · rw [core_of_ev logEvent_f_ev]
    cases c <;> rfl
  · rw [logEvent_f_st]
    exact applySystem_lc _
  · rw [store_logEvent]
    exact applySystem_stores (s.counted .system cause) j
  · rw [logEvent_f_pcr, modPcr_pcr, applyLevel, pcr]
    rfl

/-! ## The sources of a system reset (R413 to R415, R418, R419, R447) -/

/-- A source may change on its way to the reset what a system reset does not look at. -/
theorem systemReset_from {cause : Nat} {s u t : State} (since : u.pcr.since = s.pcr.since) (life : u.pcr.bk.a.life = s.pcr.bk.a.life)
    (lc : u.st.lc = s.st.lc) (stores : u.ms.store = s.ms.store) (pending : u.pending = s.pending) (reset : systemReset cause u t) :
    systemReset cause s t := by
  have same (j : Side) : u.store j = s.store j := congrArg (Two.get · j) stores
  simp only [systemReset, since, life, lc, same, pending] at reset ⊢
  exact reset

theorem exec_soscWdog {s : State} (settled : s.settled) (tb : s.pcr.clk.tb = true) (d : Side) :
    exec (.soscWdog d) s = .next (assertReset .system 3 s) :=
  congrArg Host.Outcome.next (if_pos (by simp [tb, State.records, settled.1]))

/-- What a clock monitor shows of the clock it has lost. -/
def State.lost (m : MonClock) (s : State) : State :=
  match m with
  | .refclk => (s.modPcr (fun p => { p with refOk := false })).modTb (fun t => { t with lock := ⟨false, false⟩ })
  | .tbMaster => s.modTb (fun t => { t with lock := { t.lock with a := false } })
  | .tbChecking => s.modTb (fun t => { t with lock := { t.lock with b := false } })

theorem lost_only (m : MonClock) (s : State) : Only 192 s (s.lost m) := by
  unfold State.lost
  cases m
  case refclk => exact modTb_nx ((modPcr_only ..).weaken rfl) rfl
  case tbMaster => exact (modTb_only ..).weaken rfl
  case tbChecking => exact (modTb_only ..).weaken rfl

theorem lost_pcr (m : MonClock) (s : State) : ∃ ok, (s.lost m).pcr = { s.pcr with refOk := ok } := by
  cases m
  case refclk => exact ⟨false, rfl⟩
  case tbMaster => exact ⟨_, rfl⟩
  case tbChecking => exact ⟨_, rfl⟩

theorem exec_clkMon {s : State} (started : s.dev ≠ .start) (released : s.dev ≠ .reset) (m : MonClock) :
    exec (.clkMon m) s = .next (assertReset .system 4 (s.lost m)) := by
  show execClkMon m s = _
  unfold execClkMon
  dsimp only
  split
  · next start => exact absurd start started
  · next reset => exact absurd reset released
  · cases m <;> rfl

theorem exec_pcrRstReset_system {s : State} {p : Side} {u : Tick} (r : s.reaches p .pcr (.pcrRstReset p 2))
    (owner : s.hp.owner = some p)
    (armed : s.pcr.armed = some (p, u)) (inside : elapsed s.tb.now u ≤ 100000) (dev : s.dev ≠ .recovery) :
    exec (.pcrRstReset p 2) s = .next { s with pcr := { s.pcr with armed := none, rstDue := some (p, .system) } } := by
  have own : rstArmed p s = true := by
    unfold rstArmed
    rw [armed]
    exact (Bool.and_eq_true _ _).mpr ⟨beq_self_eq_true p, decide_eq_true inside⟩
  have reached : inOrder (.pcrRstReset p 2) s = pcrRstReset p 2 s := inOrder_reaches rfl r
  have written : pcrRstReset p 2 s = { s with pcr := { s.pcr with armed := none, rstDue := some (p, .system) } } := by
    unfold pcrRstReset
    dsimp only
    rw [if_neg (by simp [own, owner]), if_neg (by decide), if_pos rfl, if_neg dev]
    rfl
  exact congrArg Host.Outcome.next (reached.trans written)

/-- The reset of a key sequence that is due is all the end of the tick brings. -/
theorem tick_dueReset {s : State} {p : Side} (due : s.pcr.rstDue = some (p, .system))
    (alone : State.nothingDue { s with pcr := { s.pcr with rstDue := none } }) : ∃ u, Only 16576 s u ∧
      u.pcr = { s.pcr with fresh := false, rstDue := none } ∧ tick s = assertReset .system 7 u := by
  obtain ⟨mode, held, -, hold, posts⟩ := alone
  have asserts (t : State) (only : Only 16576 s t) (pcr : t.pcr = { s.pcr with fresh := false }) : ∃ u, Only 16576 s u ∧
      u.pcr = { s.pcr with fresh := false, rstDue := none } ∧ assertDue t = assertReset .system 7 u := by
    have rst : t.pcr.rstDue = some (p, .system) := by rw [pcr]; exact due
    refine ⟨t.modPcr (fun p => { p with rstDue := none }), modPcr_nx only rfl, by rw [modPcr_pcr, pcr], ?_⟩
    simp only [assertDue, rst]
    rfl
  rw [tick_edge (s := s) mode held hold posts]
  split
  · exact asserts _ (nextEdge_only s) rfl
  · exact asserts _ ((modHp_nx (modPcr_nx (.refl _ _) rfl) rfl).step (keepHlink_only _) rfl) rfl

theorem exec_debugSysreset {s : State} (avail : s.dbgAvail = true) (free : s.pcr.extest = ⟨false, false⟩) (up : s.pcr.trstN = true) :
    exec .debugSysreset s = .next (assertReset .system 8 (s.viaTap 0x21 0)) := by
  have through : (!s.pcr.trstN || s.pcr.extest.a) = false := by simp [up, free]
  have taken : throughDebug 0 debugSysreset s = debugSysreset (s.viaTap 0x21 0) := if_neg (ne_true_of_eq_false through)
  exact congrArg Host.Outcome.next (taken.trans (if_pos avail))

/-- The state with EXTEST in the register of a TAP. -/
def State.inExtest (s : State) (tap : Side) : State :=
  s.modPcr (fun p => { p with trstN := true, ir := p.ir.set tap 0, extest := p.extest.set tap true })

theorem exec_extestLoad {s : State} (avail : s.dbgAvail = true) (free : s.pcr.extest = ⟨false, false⟩) (tap : Side) :
    exec (.extestLoad tap true) s = .next (assertReset .system 8 (s.inExtest tap)) := by
  show execExtestLoad tap true s = _
  unfold execExtestLoad
  simp only [avail, free]
  rfl

/-! ## The power-on reset (R404, R416, R417) -/

/-- Both logic supplies are outside. -/
def State.unpowered (s : State) : State :=
  s.modPcr (fun p => { p with vl := p.vl.map (fun v => if v = .good then .under else v), vlOk := ⟨false, false⟩ })

theorem exec_powerOnReset {s : State} (settled : s.settled) : exec .powerOnReset s = .next (assertReset .powerOn 1 s.unpowered) :=
  congrArg Host.Outcome.next (if_neg (fun on : s.pcr.asserted = some .powerOn => by rw [settled.1] at on; cases on))

theorem unpowered_vl (s : State) (d : Side) : s.unpowered.pcr.vl.get d ≠ .good := by
  have supply : s.unpowered.pcr.vl.get d = if s.pcr.vl.get d = .good then .under else s.pcr.vl.get d := Two.get_map ..
  rw [supply]
  split
  · simp
  · next bad => exact bad

theorem applyPowerOn_stores (s : State) (j : Side) : (s.store j).sameContents ((applyPowerOn s).store j) := by
  have wear : (applyPowerOn s).store j = { (applySystem s).store j with wear := ((applySystem s).store j).identity.wear } :=
      Two.get_map ..
  rw [wear]
  exact applySystem_stores s j

theorem applyPowerOn_pcr (s : State) : ∃ bk, (applyPowerOn s).pcr =
    { ({ s.pcr with bk := bk } : Pcr).systemReset with soscStop := ⟨false, false⟩, dbgAddr := 0, tdo := none } := by
  obtain ⟨bk, pcr, -⟩ := applySystem_pcr s
  exact ⟨bk, congrArg (fun p : Pcr => { p with soscStop := ⟨false, false⟩, dbgAddr := 0, tdo := none }) pcr⟩

theorem assertReset_powerOn {s : State} (settled : s.settled) (outside : ∀ d, s.pcr.vl.get d ≠ .good) :
    let t := assertReset .powerOn 1 s
    t.dev = .reset ∧ t.pcr.asserted = some .powerOn ∧ t.pcr.cause = 1 ∧ t.pcr.since = 1 ∧ t.os.inhib = ⟨true, true⟩ ∧ t.linesStopped ∧
      t.tb = Tb.reset ∧ t.pcr.vl.a ≠ .good ∧ t.pcr.vl.b ≠ .good ∧ t.st.lc = s.st.lc ∧ ∀ i, (s.store i).sameContents (t.store i) := by
  dsimp only
  obtain ⟨data16, data32, eq⟩ := assertReset_settled_eq settled .powerOn 1
  obtain ⟨bk, pcr⟩ := applyPowerOn_pcr (s.counted .powerOn 1)
  rw [eq]
  refine ⟨?_, ?_, ?_, ?_, ?_, fun k d => ?_, ?_, ?_, ?_, ?_, fun j => ?_⟩
  · rw [logEvent_f_dev]
    rfl
  · rw [logEvent_f_pcr]
    rfl
  · rw [logEvent_f_pcr, modPcr_pcr, applyLevel, pcr]
    rfl
  · rw [logEvent_f_pcr, modPcr_pcr, applyLevel, pcr]
    rfl
  · rw [logEvent_f_os]
    rfl
  · rw [logEvent_f_os]
    show ((State.reset.os.out[k] : Output).recv.get d).stopSince.isSome = true
    rw [reset_out]
    exact reset_linesStopped d
  · rw [logEvent_f_tb]
    rfl
  · rw [logEvent_f_pcr, modPcr_pcr, applyLevel, pcr]
    exact outside .a
  · rw [logEvent_f_pcr, modPcr_pcr, applyLevel, pcr]
    exact outside .b
  · rw [logEvent_f_st]
    exact applySystem_lc _
  · rw [store_logEvent]
    exact applyPowerOn_stores (s.counted .powerOn 1) j

/-- Settles O44: each source stands alone when the reset is asserted, from a state the reset does not tell from its own. -/
theorem resetSourcesAssertTheirLevel : Obligations.ResetSourcesAssertTheirLevel := by
  refine ⟨fun s x y settled high => ?pin, fun s d settled tb => ?watchdog, fun s m settled started released => ?monitor,
    fun s settled hold nonzero over_ => ?quiet, fun s p u r owner armed inside dev => exec_pcrRstReset_system r owner armed inside dev,
    fun s p settled empty due alone => ?key, fun s settled avail free => ⟨fun up => ?debug, fun tap => ?extest⟩, fun s settled => ?power⟩
  case pin =>
    have low : ((tearJournals x y s).modPcr (fun p => { p with resetNLow := true })).settled := by
      simpa only [State.settled, modPcr_pcr, tearJournals_f_pcr] using settled
    obtain ⟨reset, pins⟩ := assertReset_system low 2
    exact ⟨_, congrArg Host.Outcome.next (if_neg (ne_true_of_eq_false high)), systemReset_from rfl rfl rfl rfl rfl reset,
      (congrArg Prod.fst pins :)⟩
  case watchdog => exact ⟨_, exec_soscWdog settled tb d, (assertReset_system settled 3).1⟩
  case monitor =>
    have only := lost_only m s
    obtain ⟨ok, pcr⟩ := lost_pcr m s
    have alone : (s.lost m).settled := by
      simp only [State.settled, pcr]
      exact settled
    exact ⟨_, exec_clkMon started released m, systemReset_from (by rw [pcr]) (by rw [pcr])
      (congrArg St.lc (only.st.resolve_left (by decide))) (congrArg Ms.store (only.ms.resolve_left (by decide)))
      (only.pending.resolve_left (by decide)) (assertReset_system alone 4).1⟩
  case quiet => exact ⟨_, congrArg Host.Outcome.next (if_pos ⟨hold, nonzero, over_⟩), (assertReset_system settled 5).1⟩
  case key =>
    obtain ⟨u, only, pcr, eq⟩ := tick_dueReset due alone
    have stands : u.settled := by
      simp only [State.settled, pcr]
      exact settled
    have ends : step s = .next (assertReset .system 7 u) := by simp only [step, empty, eq]
    exact ⟨_, ends, systemReset_from (by rw [pcr]) (by rw [pcr])
      (congrArg St.lc (only.st.resolve_left (by decide))) (congrArg Ms.store (only.ms.resolve_left (by decide)))
      (only.pending.resolve_left (by decide)) (assertReset_system stands 7).1⟩
  case debug =>
    exact ⟨_, exec_debugSysreset avail free up,
      systemReset_from rfl rfl rfl rfl rfl (assertReset_system (s := s.viaTap 0x21 0) settled 8).1⟩
  case extest =>
    obtain ⟨reset, pins⟩ := assertReset_system (s := s.inExtest tap) settled 8
    exact ⟨_, exec_extestLoad avail free tap, systemReset_from rfl rfl rfl rfl rfl reset,
      (congrArg (Two.get ·.2 tap) pins).trans (Two.get_set ..)⟩
  case power => exact ⟨_, exec_powerOnReset settled, assertReset_powerOn (s := s.unpowered) settled (unpowered_vl s)⟩

end Sys2Proof.Machine
end

section
/-!
PROOFS about one side's supply and the release of a reset: that no recorded fault takes a host port out of its reset, what a lost
supply leaves of its side, the key of PCR_RST, and the entry to START. They settle O45.
-/
namespace Sys2Proof.Machine

/-! ## A host port held in reset stays in it (R299, R301) -/

/-- No host port enters or leaves its reset. -/
structure State.PortsHeld (s t : State) : Prop where
  inReset : ∀ p, (t.hport p).inReset = (s.hport p).inReset

theorem State.PortsHeld.of_hp {s t : State} (h : t.hp = s.hp) : s.PortsHeld t := ⟨fun p => by rw [hport_of_hp h]⟩

theorem State.PortsHeld.trans {s t u : State} (h : s.PortsHeld t) (k : t.PortsHeld u) : s.PortsHeld u :=
  ⟨fun p => (k.inReset p).trans (h.inReset p)⟩

theorem State.PortsHeld.foldl {α : Type} {g : State → α → State} (each : ∀ t x, State.PortsHeld t (g t x)) (xs : List α) (s : State) :
    s.PortsHeld (xs.foldl g s) :=
  List.foldlRecOn xs g (motive := s.PortsHeld) (.of_hp rfl) fun t h x _ => h.trans (each t x)

theorem modHport_held (p : Side) {f : HpPort → HpPort} (keeps : ∀ h, (f h).inReset = h.inReset) (s : State) :
    s.PortsHeld (s.modHport p f) :=
  ⟨fun q => by
    by_cases e : q = p
    · rw [e, hport_modHport]
      exact keeps _
    · rw [hport_modHport_ne _ _ e]⟩

theorem sendVector_held (p : Side) (v : Fin 32) (s : State) : s.PortsHeld (sendVector p v s) :=
  modHport_held p (fun h => by dsimp only; split <;> rfl) s

theorem raiseFaultIrq_held (b : Block) (s : State) : s.PortsHeld (raiseFaultIrq b s) :=
  .foldl (fun t p => by dsimp only; split; exacts [sendVector_held .., .of_hp rfl]) _ s

theorem raiseEventIrq_held (b : Block) (s : State) : s.PortsHeld (raiseEventIrq b s) :=
  .foldl (fun t p => by dsimp only; split; exacts [sendVector_held .., .of_hp rfl]) _ s

theorem recordPlain_held (f : FaultRep) (s : State) : s.PortsHeld (recordPlain f s) := by
  unfold recordPlain
  extract_lets t
  have recorded : s.PortsHeld t := .of_hp (modRec_hp ..)
  clear_value t
  split
  · exact recorded.trans (raiseFaultIrq_held ..)
  · exact recorded

theorem logPush_held (e : LogEntry) (s : State) : s.PortsHeld (logPush e s) := by
  unfold logPush
  split
  · exact .of_hp (modMs_hp ..)
  · extract_lets t
    have dropped : s.PortsHeld t := .of_hp (modMs_hp ..)
    clear_value t
    exact dropped.trans (recordPlain_held ..)

theorem plState_held (n : Fin 4) (st : PlState) (s : State) : s.PortsHeld (plState n st s) := by
  unfold plState
  split
  · exact .of_hp rfl
  · extract_lets t u
    have noted : s.PortsHeld u := .of_hp ((modPl_hp ..).trans ((modPlPort_hp ..).trans keepImage_f_hp))
    clear_value u
    split
    · exact noted.trans (raiseEventIrq_held ..)
    · exact noted

theorem plOff_held (n : Fin 4) (s : State) : s.PortsHeld (plOff n s) :=
  ((State.PortsHeld.of_hp keepImage_f_hp).trans (plState_held n .off _)).trans (.of_hp (modPlPort_hp ..))

theorem plAllOff_held (s : State) : s.PortsHeld (plAllOff s) := .foldl (fun t n => plOff_held n t) _ s

theorem changing_held (new : DevState) (s : State) : s.PortsHeld (s.changing new) := by
  have logged : s.PortsHeld (logEvent 4 Block.st.id s.dev.code new.code (modeDrop s)) :=
    (State.PortsHeld.of_hp modeDrop_f_hp).trans (logPush_held ..)
  unfold State.changing
  exact logged.trans (.of_hp (cruiseInterrupt_f_hp.trans backupState_f_hp))

theorem setDev_hold_held (s : State) : s.PortsHeld (setDev .hold s) := by
  rw [setDev_hold_eq]
  exact ((changing_held .hold s).trans (.of_hp (t := sourcesOff (idleCells (stopCores (cruiseStop (inhibitBoth (s.changing .hold))))))
    (by simp))).trans ((plAllOff_held _).trans (.of_hp ackCheck_f_hp))

theorem setDev_idle_held (s : State) : s.PortsHeld (setDev .idle s) := by
  obtain ⟨f, idle⟩ := setDev_idle s
  rw [idle]
  exact (changing_held .idle s).trans (.of_hp (by simp))

theorem asksNone_held (s : State) :
    s.PortsHeld (s.modHp (fun h => { h with port := h.port.map (fun p => { p with hreset := [] }) })) :=
  ⟨fun p => (congrArg HpPort.inReset (Two.get_map _ s.hp.port p) :)⟩

theorem enterHold_held (s : State) : s.PortsHeld (enterHold s) := by
  unfold enterHold
  extract_lets u v w x y z a b c
  have begun : s.PortsHeld v := .of_hp (by
    show (if u.dev = .start then countFailedStart u else u).hp = s.hp
    split
    · exact countFailedStart_f_hp.trans modeDrop_f_hp
    · exact modeDrop_f_hp)
  clear_value v
  have dropped : s.PortsHeld x := begun.trans (.of_hp (ackDrop_f_hp.trans abortBegun_f_hp))
  clear_value x
  have cut : s.PortsHeld z := (dropped.trans (.of_hp (modSt_hp ..))).trans (.foldl (fun _ _ => .of_hp (modPlPort_hp ..)) _ y)
  clear_value z
  have asked : s.PortsHeld a := cut.trans (asksNone_held z)
  clear_value a
  have done : s.PortsHeld c := asked.trans (.of_hp ((modDbg_hp ..).trans (modPcr_hp ..)))
  clear_value c
  exact done.trans (setDev_hold_held c)

theorem fatalAction_held (s : State) : s.PortsHeld (fatalAction s) := by
  unfold fatalAction
  extract_lets t
  have stopped : s.PortsHeld t := .of_hp inhibitBoth_f_hp
  clear_value t
  split
  case h_4 => exact (stopped.trans (.of_hp ((modDbg_hp ..).trans (modEv_hp ..)))).trans (setDev_idle_held _)
  case h_5 | h_6 | h_7 => exact stopped
  all_goals exact stopped.trans (enterHold_held _)

theorem recordCore_contained_held {f : FaultRep} (contained : f.cls = .contained) (s : State) : s.PortsHeld (recordCore f s) := by
  have stays (b : Bool) : (if b = true then FaultClass.contained else f.cls) = .contained := by simp [contained]
  unfold recordCore
  simp only [stays]
  split
  · exact .of_hp (modRec_hp ..)
  · refine State.PortsHeld.trans ?_ ((logPush_held _ _).trans (.of_hp (scopeAborts_f_hp.trans markRearm_f_hp)))
    exact .of_hp (modRec_hp ..)

theorem recordCore_fatal_held {f : FaultRep} (fatal : f.cls = .fatal) (s : State) : s.PortsHeld (recordCore f s) := by
  rcases recordCore_fatal_cases fatal s with contained | ⟨e, g, acts, -⟩
  · rw [contained]
    exact recordCore_contained_held rfl s
  · have logged : s.PortsHeld (logFault 1 e f.block (s.modRec f.block g)) := (State.PortsHeld.of_hp (modRec_hp ..)).trans
        (logPush_held _ _)
    rw [acts]
    exact logged.trans (fatalAction_held _)

/-! ## A side that loses its supply (R296, R299, R404) -/

/-- The state in which the other die records that a supply has left its thresholds: the side is in its reset. -/
def State.sideLost (d : Side) (lv : VlLevel) (mv : BitVec 16) (s : State) : State :=
  let t := s.modPcr (fun p => { p with
    vl := p.vl.set d lv, vlMv := p.vlMv.set d mv, vlOk := p.vlOk.set d false, sideReset := p.sideReset.set d true })
  ((portReset d (inhibitSide d t)).modHport d (fun h => { h with inReset := true, link := .down })).modPcr (fun p => { p with
    clk := { p.clk with hp := p.clk.hp.set d false } })

theorem sideLost_pcr (d : Side) (lv : VlLevel) (mv : BitVec 16) (s : State) : ∃ vl vlOk clk, (s.sideLost d lv mv).pcr = { s.pcr with
    vl := vl, vlMv := s.pcr.vlMv.set d mv, vlOk := vlOk, sideReset := s.pcr.sideReset.set d true, clk := clk } := by
  unfold State.sideLost
  dsimp only
  rw [modPcr_pcr, modHport_pcr, (portReset_only ..).pcr.resolve_left (by decide), inhibitSide_f_pcr, modPcr_pcr]
  exact ⟨_, _, _, rfl⟩

theorem sideLost_inhib (d : Side) (lv : VlLevel) (mv : BitVec 16) (s : State) : (s.sideLost d lv mv).os.inhib.get d = true := by
  unfold State.sideLost
  dsimp only
  rw [modPcr_os, modHport_os, (portReset_only ..).os.resolve_left (by decide)]
  exact Two.get_set ..

theorem sideLost_inReset (d : Side) (lv : VlLevel) (mv : BitVec 16) (s : State) : ((s.sideLost d lv mv).hport d).inReset = true :=
  (congrArg HpPort.inReset (hport_modHport _ d _) :)

theorem vlOutside_one {s : State} {d : Side} {lv : VlLevel} {cause : Nat} {mv : BitVec 16} (free : s.pcr.asserted = none)
    (other : s.pcr.vl.get d.other = .good) : vlOutside d lv cause mv s = pcrFatal d.other cause d.num 0xD (s.sideLost d lv mv) := by
  have good : ¬ (s.pcr.vl.set d lv).get d.other ≠ .good := by rw [Two.get_set_other]; exact not_not_intro other
  have records : (s.sideLost d lv mv).records = true := by
    obtain ⟨vl, vlOk, clk, pcr⟩ := sideLost_pcr d lv mv s
    simp [State.records, pcr, free]
  exact (if_neg good).trans (if_pos records)

theorem untouched_side : Pcr.Untouched (fun p => (p.sideReset, p.vlMv)) :=
  ⟨fun _ _ => rfl, fun _ _ => rfl, fun _ _ => rfl, fun _ _ => rfl⟩

/-- One supply outside its thresholds: the side is in power-on reset and the fault recorded. -/
theorem vlOutside_side {s : State} {d : Side} {lv : VlLevel} {cause : Nat} {mv : BitVec 16} (loss : cause ≠ 5) (excess : cause ≠ 6)
    (free : s.pcr.asserted = none) (other : s.pcr.vl.get d.other = .good) :
    let t := vlOutside d lv cause mv s
    t.pcr.sideReset.get d = true ∧ t.pcr.vlMv.get d = mv ∧ t.os.inhib.get d = true ∧ (t.hport d).inReset = true ∧
      t.uncleared .pcr cause d.num = true := by
  dsimp only
  obtain ⟨vl, vlOk, clk, pcr⟩ := sideLost_pcr d lv mv s
  have unshared : resourceOf .pcr cause d.num = none := by simp [resourceOf, loss, excess]
  have recorded : vlOutside d lv cause mv s = recordCore (pcrReport d.other cause d.num 0xD) (s.sideLost d lv mv) :=
    (vlOutside_one free other).trans
      (recordFault_unshared (f := pcrReport d.other cause d.num 0xD) (by simp [pcrReport]) unshared _)
  have side := recordCore_fatal_untouched untouched_side (f := pcrReport d.other cause d.num 0xD) rfl (s.sideLost d lv mv)
  have taken := recordCore_fatal_taken (f := pcrReport d.other cause d.num 0xD) rfl (s.sideLost d lv mv)
  have held := recordCore_fatal_held (f := pcrReport d.other cause d.num 0xD) rfl (s.sideLost d lv mv)
  rw [← recorded, pcr] at side
  rw [← recorded] at taken held
  obtain ⟨reset, voltage⟩ := Prod.mk.inj side
  exact ⟨by rw [reset, Two.get_set], by rw [voltage, Two.get_set], taken.inhib d (sideLost_inhib ..),
    (held.inReset d).trans (sideLost_inReset ..), taken.uncleared⟩

/-! ## PCR_RST is armed, and let go (R419) -/

theorem exec_pcrRstArm {s : State} {p : Side} (r : s.reaches p .pcr (.pcrRstArm p)) (owner : s.hp.owner = some p)
    (unarmed : s.pcr.armed = none) :
    exec (.pcrRstArm p) s = .next { s with pcr := { s.pcr with armed := some (p, s.tb.now) } } := by
  have reached : inOrder (.pcrRstArm p) s = pcrRstArm p s := inOrder_reaches rfl r
  exact congrArg Host.Outcome.next (reached.trans (if_pos ⟨owner, unarmed⟩))

theorem exec_pcrRstArmTimeout {s : State} {p : Side} {u : Tick} (armed : s.pcr.armed = some (p, u))
    (ended : 100000 ≤ elapsed s.tb.now u) : exec .pcrRstArmTimeout s = .next (rstRefuse p s) := by
  show execPcrRstArmTimeout s = _
  unfold execPcrRstArmTimeout
  rw [armed]
  exact congrArg Host.Outcome.next (if_pos ended)

/-! ## The release of a reset (R405, R421, R445) -/

theorem setDev_start_eq (s : State) : setDev .start s =
    ackCheck (stopModulePgs (idleCells (startTerminals (cruiseStop ((inhibitBoth (s.changing .start)).modPl (fun p => { p with
      port := p.port.map (fun x => { x with subst := false, losses := 0 }), posted := ⟨[], []⟩, agreed := [],
      differed := false })))))) := rfl

theorem ackRefuse_strap (s : State) : (ackRefuse s).st.strap = s.st.strap := by
  unfold ackRefuse
  split
  · exact (congrArg St.strap endItem_f_st :)
  · rfl

theorem ackCheck_strap (s : State) : (ackCheck s).st.strap = s.st.strap := by
  unfold ackCheck
  split
  · exact (apply_ite (fun t : State => t.st.strap) _ _ _).trans (by rw [ackRefuse_strap, ite_self])
  · rfl

theorem startTerminals_inhib (s : State) : (startTerminals s).os.inhib = s.os.inhib := rfl

theorem cruiseStop_strap (s : State) : (cruiseStop s).st.strap = s.st.strap :=
  (congrArg St.strap (katRelease_f_st.trans thrRejoin_f_st) :)

theorem changing_strap (new : DevState) (s : State) : (s.changing new).st.strap = s.st.strap := by
  have interrupted (t : State) : (cruiseInterrupt t).st.strap = t.st.strap := by
    show (if _ then _ else _ : St).strap = _
    split
    · exact (congrArg St.strap (katRelease_f_st.trans thrRejoin_f_st) :)
    · exact (congrArg St.strap (katRelease_f_st.trans thrRejoin_f_st) :)
  rw [State.changing, interrupted, backupState_f_st]
  exact (congrArg St.strap (logEvent_f_st.trans modeDrop_f_st) :)

theorem changing_dev (new : DevState) (s : State) : (s.changing new).dev = new := by
  rw [State.changing, cruiseInterrupt_f_dev, backupState_f_dev]

/-- START is entered with the drivers inhibited and the strap as it was sampled. -/
theorem setDev_start_enters (s : State) : (setDev .start s).dev = .start ∧ (setDev .start s).os.inhib = ⟨true, true⟩ ∧
    (setDev .start s).st.strap = s.st.strap := by
  rw [setDev_start_eq]
  refine ⟨?_, ?_, ?_⟩
  · rw [ackCheck_f_dev, stopModulePgs_f_dev, idleCells_f_dev, startTerminals_f_dev, cruiseStop_f_dev, modPl_dev, inhibitBoth_f_dev,
      changing_dev]
  · rw [ackCheck_f_os, stopModulePgs_f_os, idleCells_f_os, startTerminals_inhib, cruiseStop_f_os, modPl_os, inhibitBoth_inhib]
  · rw [ackCheck_strap, stopModulePgs_f_st, idleCells_f_st, startTerminals_f_st, cruiseStop_strap, modPl_st, inhibitBoth_f_st,
      changing_strap]

/-- Nothing but the reset itself holds a system or power-on reset. -/
structure Pcr.Unheld (p : Pcr) : Prop where
  supplies : p.vl = ⟨.good, .good⟩
  pin : p.resetNLow = false
  extest : p.extest = ⟨false, false⟩
  oscillators : p.soscStop = ⟨false, false⟩

theorem canRelease_unheld {s : State} (unheld : s.pcr.Unheld) : canRelease s = true := by
  obtain ⟨supplies, pin, extest, oscillators⟩ := unheld
  simp [canRelease, supplies, pin, extest, oscillators]

/-- What the release of a system or power-on reset leaves: START, with the PLLs locking. -/
structure State.Released (s t : State) : Prop where
  dev : t.dev = .start
  asserted : t.pcr.asserted = none
  phase : t.pcr.phase = .pll
  inhib : t.os.inhib = ⟨true, true⟩
  strap : t.st.strap = s.st.strap
  pins : t.pcr.pins = s.pcr.pins

theorem releaseReset_released {s : State} {level : ResetLevel} (asserted : s.pcr.asserted = some level) (deep : level ≠ .core)
    (unheld : s.pcr.Unheld) : s.Released (releaseReset s) := by
  have eq : releaseReset s = setDev .start (s.modPcr (fun p => { p with
      asserted := none, fresh := false, startAt := s.now, failCounted := false,
      phase := if level = .core then .select else .pll, sideReset := if level = .core then p.sideReset else ⟨false, false⟩ })) := by
    unfold releaseReset
    rw [asserted]
    exact if_pos (canRelease_unheld unheld)
  rw [eq]
  obtain ⟨dev, inhib, strap⟩ := setDev_start_enters (s.modPcr (fun p => { p with
      asserted := none, fresh := false, startAt := s.now, failCounted := false,
      phase := if level = .core then .select else .pll, sideReset := if level = .core then p.sideReset else ⟨false, false⟩ }))
  refine ⟨dev, ?_, ?_, inhib, strap, ?_⟩
  · rw [setDev_pcr]
    rfl
  · rw [setDev_pcr]
    exact if_neg deep
  · rw [setDev_pcr]
    rfl

theorem exec_porRelease {s : State} (asserted : s.pcr.asserted = some .powerOn) (unheld : s.pcr.Unheld) (strap : Bool) :
    exec (.porRelease strap) s = .next (releaseReset (s.modSt (fun c => { c with strap := strap }))) := by
  obtain ⟨supplies, -⟩ := id unheld
  have good : s.pcr.asserted = some .powerOn ∧ s.pcr.vl.a = .good ∧ s.pcr.vl.b = .good := by simp [asserted, supplies]
  exact congrArg Host.Outcome.next ((if_pos good).trans
    (if_pos (canRelease_unheld (s := s.modSt (fun c => { c with strap := strap })) unheld)))

theorem exec_resetNRelease {s : State} (asserted : s.pcr.asserted = some .system) :
    exec .resetNRelease s = .next (releaseReset (s.modPcr (fun p => { p with resetNLow := false }))) :=
  congrArg Host.Outcome.next (if_neg (fun on : s.pcr.asserted = some .powerOn => by rw [asserted] at on; cases on))

/-- The registers of both TAPs after another instruction has been loaded, or TRST_N has gone low. -/
def State.leftExtest (ir : Two (BitVec 8)) (trstN : Bool) (s : State) : State :=
  s.modPcr (fun p => { p with trstN := trstN, ir := ir, extest := ⟨p.extest.a && ir.a == 0, p.extest.b && ir.b == 0⟩ })

theorem leaveExtest_releases {s : State} {ir : Two (BitVec 8)} {trstN : Bool} {tap : Side} (asserted : s.pcr.asserted = some .system)
    (held : s.pcr.extest.get tap = true) (free : s.pcr.extest.get tap.other = false) (loaded : ir.get tap ≠ 0) :
    leaveExtest ir (s.modPcr (fun p => { p with trstN := trstN })) = releaseReset (s.leftExtest ir trstN) ∧
    (s.leftExtest ir trstN).pcr.extest = ⟨false, false⟩ := by
  have left : (s.leftExtest ir trstN).pcr.extest = ⟨false, false⟩ := by
    show (⟨s.pcr.extest.a && ir.a == 0, s.pcr.extest.b && ir.b == 0⟩ : Two Bool) = _
    cases tap
    case a =>
      have loaded : (ir.a == 0) = false := beq_eq_false_iff_ne.mpr loaded
      have free : s.pcr.extest.b = false := free
      rw [loaded, free, Bool.and_false, Bool.false_and]
    case b =>
      have loaded : (ir.b == 0) = false := beq_eq_false_iff_ne.mpr loaded
      have free : s.pcr.extest.a = false := free
      rw [loaded, free, Bool.and_false, Bool.false_and]
  have one : (s.pcr.extest.a || s.pcr.extest.b) = true := by
    cases tap
    case a => exact (Bool.or_eq_true _ _).mpr (.inl held)
    case b => exact (Bool.or_eq_true _ _).mpr (.inr held)
  refine ⟨if_pos ?_, left⟩
  show ((s.pcr.extest.a || s.pcr.extest.b) && !(s.leftExtest ir trstN).pcr.extest.a && !(s.leftExtest ir trstN).pcr.extest.b &&
    s.pcr.asserted == some .system) = true
  rw [one, left, asserted]
  rfl

/-- Whether an instruction is loaded or TRST_N goes low, EXTEST has left the TAP that alone held it. -/
theorem exec_extestExit {s : State} {tap : Side} {ir : BitVec 8} {trstN : Bool} (asserted : s.pcr.asserted = some .system)
    (held : s.pcr.extest.get tap = true) (free : s.pcr.extest.get tap.other = false) (leaves : ir ≠ 0 ∨ trstN = false) :
    ∃ irs, exec (.extestExit tap ir trstN) s = .next (releaseReset (s.leftExtest irs trstN)) ∧
      (s.leftExtest irs trstN).pcr.extest = ⟨false, false⟩ := by
  cases trstN
  case false =>
    obtain ⟨eq, left⟩ := leaveExtest_releases (ir := ⟨1, 1⟩) (trstN := false) asserted held free
        (by cases tap <;> exact (by decide : (1 : BitVec 8) ≠ 0))
    exact ⟨⟨1, 1⟩, congrArg Host.Outcome.next eq, left⟩
  case true =>
    have loaded : ir ≠ 0 := leaves.resolve_right (by decide)
    obtain ⟨eq, left⟩ := leaveExtest_releases (ir := s.pcr.ir.set tap ir) (trstN := true) asserted held free (by rwa [Two.get_set])
    exact ⟨s.pcr.ir.set tap ir, congrArg Host.Outcome.next ((if_neg loaded).trans eq), left⟩

/-- Settles O45: one side alone is reset, the key arms and lets go, and each release ends in START. -/
theorem sideResetArmingAndRelease : Obligations.SideResetArmingAndRelease := by
  refine ⟨fun s d mv free other => ⟨fun x y => ?under, ?over_⟩, fun s p r owner unarmed => exec_pcrRstArm r owner unarmed,
    fun s p u armed ended => ?timeout, fun s strap asserted supplies pin extest oscillators => ?por,
    fun s asserted supplies extest oscillators => ?pin, fun s tap ir trstN asserted supplies pin oscillators held free leaves => ?extest⟩
  case under =>
    have eq : exec (.vlUndervoltage d mv x y) s = .next (loseBackup (vlOutside d .under 1 mv s)) :=
      congrArg (fun u => Host.Outcome.next (loseBackup (vlOutside d .under 1 mv u))) (if_pos other)
    exact ⟨_, eq, vlOutside_side (cause := 1) (by decide) (by decide) free other⟩
  case over_ => exact ⟨_, rfl, vlOutside_side (cause := 2) (by decide) (by decide) free other⟩
  case timeout =>
    exact ⟨_, exec_pcrRstArmTimeout armed ended, rfl, (congrArg HpPort.refused (hport_modHport _ p _) :), rfl⟩
  case por =>
    obtain ⟨dev, released, phase, inhib, sampled, -⟩ := releaseReset_released (s := s.modSt (fun c => { c with strap := strap }))
      asserted (by decide) ⟨supplies, pin, extest, oscillators⟩
    exact ⟨_, exec_porRelease asserted ⟨supplies, pin, extest, oscillators⟩ strap, dev, released, phase, sampled, inhib⟩
  case pin =>
    obtain ⟨dev, released, phase, inhib, -, pins⟩ := releaseReset_released (s := s.modPcr (fun p => { p with resetNLow := false }))
      asserted (by decide) ⟨supplies, rfl, extest, oscillators⟩
    exact ⟨_, exec_resetNRelease asserted, dev, released, phase, (congrArg Prod.fst pins :), inhib⟩
  case extest =>
    obtain ⟨irs, eq, left⟩ := exec_extestExit asserted held free leaves
    obtain ⟨dev, released, -, -, -, pins⟩ := releaseReset_released (s := s.leftExtest irs trstN) asserted (by decide)
      ⟨supplies, pin, left, oscillators⟩
    exact ⟨_, eq, dev, released, (congrArg Prod.snd pins).trans left⟩

end Sys2Proof.Machine
end

section
/-!
PROOFS about the cruise engine and the debugger: how a slice starts, is deferred, interrupted or judged, the late and the stalled
round, and what each command of the debugger does in and outside HALT. They settle O60.
-/
namespace Sys2Proof.Machine

/-! ## A slice starts, or is deferred (R430, R436) -/

theorem fullOverdue_none {s : State} (alone : s.st.full = none) : s.fullOverdue = false := by rw [State.fullOverdue, alone]

theorem slicePos_none {s : State} (alone : s.st.full = none) : s.slicePos = s.st.pos := by rw [State.slicePos, alone]; rfl

theorem slice_of_sliceDue {s : State} (due : s.sliceDue = true) : s.st.slice = none := by
  unfold State.sliceDue at due
  simp only [Bool.and_eq_true] at due
  exact Option.isNone_iff_eq_none.mp due.1.2

/-- The state as the start of a slice leaves it. -/
def State.slicing (s : State) : State :=
  (heldEnd (takePlace s)).modSt (fun x => { x with slice := some (s.st.pos, s.now, x.full.isSome) })

theorem heldEnd_st (s : State) : ∃ heldFor heldSince, (heldEnd s).st = { s.st with heldFor := heldFor, heldSince := heldSince } := by
  unfold heldEnd State.modSt
  dsimp only
  split
  · exact ⟨_, _, rfl⟩
  · exact ⟨_, _, rfl⟩

theorem takePlace_st {s : State} (alone : s.st.full = none) : ∃ batch, (takePlace s).st = { s.st with batch := batch } := by
  refine ⟨_, if_neg ?_⟩
  rw [alone]
  exact Bool.false_ne_true

theorem slicing_st {s : State} (alone : s.st.full = none) : s.slicing.st.slice = some (s.st.pos, s.tb.now, false) ∧
    s.slicing.st.pos = s.st.pos := by
  obtain ⟨batch, placed⟩ := takePlace_st alone
  obtain ⟨heldFor, heldSince, ended⟩ := heldEnd_st (takePlace s)
  have st : s.slicing.st = { (heldEnd (takePlace s)).st with
    slice := some (s.st.pos, s.tb.now, (heldEnd (takePlace s)).st.full.isSome) } := rfl
  rw [st, ended, placed, alone]
  exact ⟨rfl, rfl⟩

theorem katHold_cv (c k : Nat) (s : State) : katHold c k s = { s with cv := (katHold c k s).cv } := by
  unfold katHold
  split
  · rfl
  · rfl

theorem exec_cruiseSliceStart_starts {s : State} (due : s.sliceDue = true) (alone : s.st.full = none) (may : s.cruiseMay = true)
    (free : s.katHeld (sliceAt s.marchSlices s.st.pos).1 (sliceAt s.marchSlices s.st.pos).2 = false)
    (still : s.pslWaits (sliceAt s.marchSlices s.st.pos).1 (sliceAt s.marchSlices s.st.pos).2 = false) :
    exec .cruiseSliceStart s =
      .next (katHold (sliceAt s.marchSlices s.st.pos).1 (sliceAt s.marchSlices s.st.pos).2 s.slicing) := by
  have kat : (takePlace s).katHeld (sliceAt s.marchSlices s.st.pos).1 (sliceAt s.marchSlices s.st.pos).2 = false := free
  show execCruiseSliceStart s = _
  unfold execCruiseSliceStart
  simp only [due, fullOverdue_none alone, may, slicePos_none alone, still, kat, Bool.not_true, Bool.false_eq_true, if_false]
  rfl

theorem exec_cruiseSliceStart_defers {s : State} (due : s.sliceDue = true) (alone : s.st.full = none) (may : s.cruiseMay = false) :
    exec .cruiseSliceStart s =
      .next ((heldBegin (takePlace s)).modSt (fun c => { c with deferCnt := satInc c.deferCnt, batch := none })) := by
  obtain ⟨batch, placed⟩ := takePlace_st alone
  show execCruiseSliceStart s = _
  unfold execCruiseSliceStart
  simp only [due, fullOverdue_none alone, may, placed, alone, Bool.not_true, Bool.not_false, Bool.false_eq_true, if_false, if_true,
    Option.isSome_none]

/-! ## A slice ends (R431, R433, R434) -/

/-- The supplies as the end of a slice measures them. -/
def State.metered (r : SliceResult) (s : State) : State :=
  s.modPcr (fun p => { p with vlMv := ⟨r.vl.1, r.vl.2⟩, vlOk := ⟨inRange 4750 5250 r.vl.1, inRange 4750 5250 r.vl.2⟩ })

/-- An interrupted slice is counted, and its position stays. -/
theorem cruiseInterrupt_slice {s : State} {x : Nat × Tick × Bool} (running : s.st.slice = some x) : (cruiseInterrupt s).st =
    { s.st with slice := none, intrCnt := satInc s.st.intrCnt, batch := none } := by
  rw [cruiseInterrupt, modSt_st, katRelease_f_st, thrRejoin_f_st]
  exact if_pos (by rw [running]; rfl)

section
variable {s : State} {r : SliceResult} {k : Nat} {u : Tick} (running : s.st.slice = some (k, u, false))
  (least : 50 ≤ elapsed s.tb.now u) (most : elapsed s.tb.now u ≤ 500)
include running least most

theorem exec_cruiseSliceEnd_interrupts (lost : inRange 4850 5250 r.vl.1 = false) :
    exec (.cruiseSliceEnd r) s = .next (heldBegin (cruiseInterrupt (s.metered r))) := by
  have may : (s.metered r).cruiseMay = false := by
    show (s.pcr.tbfOk && inRange 4850 5250 r.vl.1 && inRange 4850 5250 r.vl.2) = false
    rw [lost, Bool.and_false, Bool.false_and]
  have inside : (decide (50 ≤ elapsed s.now u) && decide (elapsed s.now u ≤ 500)) = true :=
    (Bool.and_eq_true _ _).mpr ⟨decide_eq_true least, decide_eq_true most⟩
  show execCruiseSliceEnd r s = _
  unfold execCruiseSliceEnd
  simp only [running, inside, Bool.not_true, Bool.false_eq_true, if_false]
  exact congrArg Host.Outcome.next (if_pos (by rw [← State.metered, may]; rfl))

/-- The state in which the slice of a source has passed its verdict. -/
def State.passed (i : Nat) (r : SliceResult) (s : State) : State :=
  causeAbsent .st 7 i ((katRelease (s.metered r)).modSt (fun x => { x with slice := none, pos := x.pos + 1, failCur :=
      x.failCur ||| 0 }))

theorem exec_cruiseSliceEnd_passes (locked : s.pcr.tbfOk = true) (one : inRange 4850 5250 r.vl.1 = true)
    (two : inRange 4850 5250 r.vl.2 = true) (source : (sliceAt s.marchSlices k).1 = 2) (read : allRead 5 r.readings = true)
    (more : s.st.pos + 1 < s.sliceCounts.sum) : exec (.cruiseSliceEnd r) s = .next (
      if sigOk 2 r then s.passed (sliceAt s.marchSlices k).2 r
      else stFault 1 .fatal 0 0 k 6 none (s.passed (sliceAt s.marchSlices k).2 r)) := by
  have may : (s.metered r).cruiseMay = true := by
    show (s.pcr.tbfOk && inRange 4850 5250 r.vl.1 && inRange 4850 5250 r.vl.2) = true
    rw [locked, one, two]
    rfl
  have inside : (decide (50 ≤ elapsed s.now u) && decide (elapsed s.now u ≤ 500)) = true :=
    (Bool.and_eq_true _ _).mpr ⟨decide_eq_true least, decide_eq_true most⟩
  show execCruiseSliceEnd r s = _
  unfold execCruiseSliceEnd
  simp only [running, inside, Bool.not_true, Bool.false_eq_true, if_false]
  refine congrArg Host.Outcome.next ((if_neg (by rw [← State.metered, may]; exact Bool.false_ne_true)).trans ?_)
  have place : sliceAt (katRelease (s.metered r)).marchSlices k = (2, (sliceAt s.marchSlices k).2) := Prod.ext source rfl
  have judged : judgeSlice 2 (sliceAt s.marchSlices k).2 r (sliceDone false (sliceFails 2 (sliceAt s.marchSlices k).2 r
      (katRelease (s.metered r))) 2 (katRelease (s.metered r))) = s.passed (sliceAt s.marchSlices k).2 r := by
    have fine : sliceFails 2 (sliceAt s.marchSlices k).2 r (katRelease (s.metered r)) = false := by
      simp only [sliceFails, read, Bool.not_true]
    rw [fine]
    refine (if_pos read).trans (congrArg (causeAbsent .st 7 _) (if_neg ?_))
    exact Nat.not_le.mpr more
  rw [← State.metered]
  simp only [place]
  rw [judged]

end

/-! ## A round that is late, or has stalled (R437) -/

/-- What the cruise engine reports of a round or a slice (R458). -/
def cruiseReport (cause : Nat) (cls : FaultClass) (scope addr : Nat) : FaultRep :=
  { block := .st, cause := cause, cls := cls, scope := scope, item := 0, addr := addr, init := 8, acc := 6 }

theorem exec_cruiseLate_late {s : State} (cruise : s.st.cruise = true) (first : s.st.lateRec = false)
    (late : 60000000000 ≤ elapsed s.tb.now s.st.roundAt) : exec .cruiseLate s =
      .next (recordFault (cruiseReport 8 .corrected 7 s.st.pos) (s.modSt (fun c => { c with late := true, lateRec := true }))) :=
  congrArg Host.Outcome.next (if_pos ⟨cruise, by simp [first], late⟩)

theorem exec_cruiseStall_stalls {s : State} (cruise : s.st.cruise = true) (first : s.st.stallRec = false)
    (stalled : 420000000000 + s.heldTime ≤ elapsed s.tb.now s.st.roundAt) : exec .cruiseStall s =
      .next (recordFault (cruiseReport 2 .fatal 0 s.st.pos) (s.modSt (fun c => { c with stallRec := true }))) :=
  congrArg Host.Outcome.next (if_pos ⟨cruise, by simp [first], stalled⟩)

/-- A fatal report of the cruise engine in IDLE or RUN enters HOLD and stands uncleared. -/
theorem cruiseReport_holds {cause addr : Nat} {s : State} (sound : s.bad = []) (working : s.dev = .idle ∨ s.dev = .run) :
    (recordFault (cruiseReport cause .fatal 0 addr) s).inHold ∧
    (recordFault (cruiseReport cause .fatal 0 addr) s).uncleared .st cause 0 = true :=
  ⟨(fatalFaultEntersHold (cruiseReport cause .fatal 0 addr) s rfl sound (.inr working)).1,
   (recordedFaultIsUncleared (cruiseReport cause .fatal 0 addr) s (by simp [cruiseReport])).1⟩

/-! ## The debugger's commands (R446 to R448) -/

theorem exec_debugHalt {s : State} (open_ : s.tapOpen) : exec .debugHalt s = .next (debugHalt (s.viaTap 0x21 0)) := by
  obtain ⟨up, free⟩ := open_
  exact congrArg Host.Outcome.next (if_neg (by simp [up, free]))

theorem exec_debugResume {s : State} (open_ : s.tapOpen) : exec .debugResume s = .next (debugResume (s.viaTap 0x21 0)) := by
  obtain ⟨up, free⟩ := open_
  exact congrArg Host.Outcome.next (if_neg (by simp [up, free]))

theorem exec_debugStep {s : State} (open_ : s.tapOpen) : exec .debugStep s = .next (debugStep (s.viaTap 0x21 0)) := by
  obtain ⟨up, free⟩ := open_
  exact congrArg Host.Outcome.next (if_neg (by simp [up, free]))

theorem exec_dbgOpdataWrite {s : State} (open_ : s.tapOpen) (v : BitVec 32) (err : Option Bool) :
    exec (.dbgOpdataWrite v err) s = .next (dbgOpdataWrite v err (s.viaTap 0x21 9)) := by
  obtain ⟨up, free⟩ := open_
  exact congrArg Host.Outcome.next (if_neg (by simp [up, free]))

theorem debugHalt_unavailable {s : State} (gone : s.dbgAvail = false) : debugHalt s = dbgRefuse s := by simp [debugHalt, gone]

theorem debugResume_unavailable {s : State} (gone : s.dbgAvail = false) : debugResume s = dbgRefuse s := by simp [debugResume, gone]

theorem debugStep_unavailable {s : State} (gone : s.dbgAvail = false) : debugStep s = dbgRefuse s := by simp [debugStep, gone]

theorem dbgOpdataWrite_unavailable {s : State} (gone : s.dbgAvail = false) (v : BitVec 32) (err : Option Bool) :
    dbgOpdataWrite v err s = dbgRefuse s := by simp [dbgOpdataWrite, gone]

theorem debugHalt_elsewhere {s : State} (elsewhere : s.dev = .start ∨ s.dev = .hold ∨ s.dev = .recovery)
    (unhalted : s.st.dbg.haltA = false) : debugHalt s = dbgRefuse s := by
  rcases elsewhere with dev | dev | dev <;> simp [debugHalt, dev, unhalted]

/-! ### A halt that waits for the next scan -/

/-- Cores that stand between two scans with no snapshot sealed for EB do not go on. -/
theorem tryCore_waits {s : State} (a : (s.core .a).seq = .wait) (b : (s.core .b).seq = .wait) (none : (s.core .b).sealed = none) :
    tryCore .a s = s := by
  have stays : tryA s = s := if_pos (.inl (by rw [a]; decide))
  show tryB (tryA s) = s
  rw [stays]
  unfold tryB
  have unlaunched : ¬ ((s.core .b).seq = .wait ∧ (s.core .b).sealed.isSome ∧ s.gateB 0 ∧ !s.split) := by simp [none]
  simp only [if_neg unlaunched]
  exact if_pos (.inl (by rw [b]; decide))

/-- The state in which a halt is pending. -/
def State.halting (s : State) : State := (marchYield s).modDbg (fun d => { d with pendHalt := true, brk := false, wp := false })

theorem debugHalt_running {s : State} (avail : s.dbgAvail = true) (run : s.dev = .run) (unhalted : s.st.dbg.haltA = false) :
    debugHalt s = tryCore .a s.halting := by
  simp [debugHalt, avail, run, unhalted, State.halting]

theorem marchYield_keeps (s : State) : (marchYield s).ev = s.ev ∧ (marchYield s).dev = s.dev := by
  unfold marchYield
  split
  · exact ⟨cruiseInterrupt_f_ev, cruiseInterrupt_f_dev⟩
  · exact ⟨rfl, rfl⟩

/-! ### A resume -/

/-- A core in HALT goes on from its position; one whose ranks are done goes to its close. -/
def CoreSt.resumed (x : CoreSt) : CoreSt := { x with seq := if x.ranks ≤ x.rank then .close else .scan }

/-- The state as a resume leaves it before the device state changes: both cores go on, past a breakpoint at their position. -/
def State.resuming (s : State) : State :=
  (((s.modCore .a CoreSt.resumed).modCore .b CoreSt.resumed).modDbg (fun d => { d with
    haltA := false, haltB := false, brk := false, wp := false, skip := some ((s.core .a).scan, (s.core .a).rank) }))

theorem debugResume_resumes {s : State} (avail : s.dbgAvail = true) (halt : s.dev = .halt) (a : s.st.dbg.haltA = true)
    (b : s.st.dbg.haltB = true) : debugResume s = tryCore .a (setDev .idle s.resuming) :=
  if_neg (by simp [avail, halt, a, b])

theorem changing_dbg (new : DevState) (s : State) : (s.changing new).st.dbg = s.st.dbg := by
  rw [State.changing, (cruiseInterrupt_st _).2, backupState_f_st]
  exact (congrArg St.dbg (logEvent_f_st.trans modeDrop_f_st) :)

theorem ackCheck_dbg (s : State) : (ackCheck s).st.dbg = s.st.dbg := by
  have refused : (ackRefuse s).st.dbg = s.st.dbg := by
    unfold ackRefuse
    split
    · exact (congrArg St.dbg endItem_f_st :)
    · rfl
  unfold ackCheck
  split
  · exact (apply_ite (fun t : State => t.st.dbg) _ _ _).trans (by rw [refused, ite_self])
  · rfl

/-- IDLE entered from HALT: inhibited, with the time, the cores and the debug logic as they were. -/
theorem setDev_idle_of_halt {s : State} (halt : s.dev = .halt) : (setDev .idle s).dev = .idle ∧
    (setDev .idle s).os.inhib = ⟨true, true⟩ ∧ (setDev .idle s).tb = s.tb ∧ (setDev .idle s).ev = s.ev ∧
    (setDev .idle s).st.dbg = s.st.dbg := by
  have started : s.dev ≠ .start := by simp [halt]
  have eq : setDev .idle s = ackCheck ((inhibitBoth (s.changing .idle)).modSc (fun c => { c with kok := false })) :=
    congrArg ackCheck (if_neg started)
  rw [eq, ackCheck_f_dev, ackCheck_f_os, ackCheck_f_tb, ackCheck_f_ev, ackCheck_dbg, modSc_dev, modSc_os, modSc_tb, modSc_ev, modSc_st,
    inhibitBoth_f_dev, inhibitBoth_inhib, inhibitBoth_f_tb, inhibitBoth_f_ev, inhibitBoth_f_st, changing_dev, changing_dbg]
  exact ⟨rfl, rfl, by simp [State.changing], by simp [State.changing], rfl⟩

/-- With no halt pending and its position to be skipped, EA issues its next rank or waits. -/
theorem tryA_unheld {s : State} (free : s.st.dbg.pendHalt = false)
    (skip : s.st.dbg.skip = some ((s.core .a).scan, (s.core .a).rank)) :
    Only 768 s (tryA s) ∧ (tryA s).st.dbg.haltA = s.st.dbg.haltA ∧ (tryA s).core .b = s.core .b := by
  have unbroken : (if s.mayHalt = true then s.breakAt (s.core .a).scan (s.core .a).rank else none) = none := by
    rw [State.breakAt, if_pos skip, ite_self]
  unfold tryA
  simp only [free, Bool.false_and, Bool.false_eq_true, if_false, unbroken]
  split
  · exact ⟨.refl _ _, rfl, rfl⟩
  · split
    · exact ⟨modEv_nx (modDbg_nx (modCore_nx (.refl _ _) rfl) rfl) rfl, rfl, rfl⟩
    · exact ⟨modEv_nx (.refl _ _) rfl, rfl, rfl⟩

/-- EB, not between two scans and with EA going on, issues its next rank or stays. -/
theorem tryB_unheld {s : State} (going : s.st.dbg.haltA = false) (within : (s.core .b).seq ≠ .wait) : Only 768 s (tryB s) := by
  have unlaunched : ¬ ((s.core .b).seq = .wait ∧ (s.core .b).sealed.isSome ∧ s.gateB 0 ∧ !s.split) := fun h => within h.1
  unfold tryB
  simp only [if_neg unlaunched, going, Bool.false_and, Bool.false_eq_true, if_false]
  exact .ite (.refl _ _) (.ite (modCore_nx (applyDebugWrites_nx (.refl _ _) rfl) rfl) (.refl _ _))

theorem debugResume_idle {s : State} (avail : s.dbgAvail = true) (halt : s.dev = .halt) (a : s.st.dbg.haltA = true)
    (b : s.st.dbg.haltB = true) (free : s.st.dbg.pendHalt = false) : (debugResume s).dev = .idle ∧
    (debugResume s).os.inhib = ⟨true, true⟩ ∧ (debugResume s).tb = s.tb := by
  obtain ⟨dev, inhib, tb, ev, dbg⟩ := setDev_idle_of_halt (s := s.resuming) halt
  have coreB : (setDev .idle s.resuming).core .b = (s.core .b).resumed := core_of_ev ev .b
  have coreA : (setDev .idle s.resuming).core .a = (s.core .a).resumed := core_of_ev ev .a
  obtain ⟨first, halted, other⟩ := tryA_unheld (s := setDev .idle s.resuming) (by rw [dbg]; exact free) (by rw [dbg, coreA]; rfl)
  have second : Only 768 (tryA (setDev .idle s.resuming)) (tryB (tryA (setDev .idle s.resuming))) := by
    refine tryB_unheld (by rw [halted, dbg]; rfl) ?_
    rw [other, coreB, CoreSt.resumed]
    split <;> simp
  have only := first.step second rfl
  rw [debugResume_resumes avail halt a b]
  exact ⟨(only.dev.resolve_left (by decide)).trans dev, (congrArg Os.inhib (only.os.resolve_left (by decide))).trans inhib,
    (only.tb.resolve_left (by decide)).trans tb⟩

/-! ### A step and an operand write -/

/-- The state a step leaves: EA has issued its rank, and EB goes on by its tokens. -/
def State.stepping (s : State) : State :=
  (((s.modCore .a (fun x => { x with seq := .scan, issued := true })).modCore .b (fun x => { x with seq := .scan })).modEv
    (fun e => { e with issuedA := e.issuedA + 1 })).modDbg
      (fun d => { d with haltA := false, haltB := false, step := true, brk := false, wp := false })

theorem debugStep_steps {s : State} (avail : s.dbgAvail = true) (halt : s.dev = .halt) (a : s.st.dbg.haltA = true)
    (b : s.st.dbg.haltB = true) (more : (s.core .a).rank < (s.core .a).ranks) : debugStep s = s.stepping :=
  if_neg (by simp [avail, halt, a, b, more])

/-- Of the cores a step changes the sequencers and EA's note of the rank it has issued. -/
theorem stepping_cores (s : State) : (∀ c, (s.stepping.core c).seq = .scan) ∧ (s.stepping.core .a).issued = true ∧
    ∀ c, (s.stepping.core c).opMem = (s.core c).opMem :=
  ⟨fun | .a | .b => rfl, rfl, fun | .a | .b => rfl⟩

/-- Besides the cores it changes the debug registers. -/
theorem stepping_rest (s : State) : s.stepping.st.dbg.step = true ∧ s.stepping = { s with ev := s.stepping.ev, st := s.stepping.st } :=
  ⟨rfl, rfl⟩

theorem debugStep_done {s : State} (done : (s.core .a).ranks ≤ (s.core .a).rank) : debugStep s = dbgRefuse s :=
  if_pos (.inr (.inr (.inr (.inr done))))

/-- EA's word is written at once, and the write queued for EB with EA's position. -/
def State.poking (v : Word) (s : State) : State :=
  (s.modCore .a (CoreSt.debugPoke .a s.st.dbg.opAddr.toNat v)).modDbg (fun d => { d with
    queue := d.queue ++ [((s.core .a).scan, (s.core .a).rank, s.st.dbg.opAddr, v)] })

theorem dbgOpdataWrite_pokes {s : State} (avail : s.dbgAvail = true) (a : s.st.dbg.haltA = true) (b : s.st.dbg.haltB = false)
    (room : s.st.dbg.queue.length < 16) (v : Word) : dbgOpdataWrite v none s = s.poking v := by
  have taken : ¬ ((!s.dbgAvail) = true ∨ (!s.st.dbg.haltA) = true ∨ 16 ≤ s.st.dbg.queue.length) := by
    simp [avail, a, room]
  have alone : ¬ (s.poking v).st.dbg.haltB = true := by
    show ¬ s.st.dbg.haltB = true
    rw [b]
    exact Bool.false_ne_true
  have fine : ¬ (none : Option Bool) = some true := by decide
  exact (if_neg taken).trans ((if_neg fine).trans (if_neg alone))

/-- Settles O60: slices and rounds by what the engine makes of each, and each command through an open TAP. -/
theorem cruiseAndDebug : Obligations.CruiseAndDebug := by
  refine ⟨fun s due alone => ⟨fun may free still => ?starts, fun may => ?defers⟩,
    fun s r k u running least most => ⟨fun lost => ?interrupts, fun locked one two source read more => ⟨fun sig => ?passes,
      fun sig sound working => ?signature⟩⟩,
    fun s cruise => ⟨fun first sound late => ?late, fun first stalled sound working => ?stalled⟩,
    fun s v opened => ⟨fun gone => ?unavailable, fun avail elsewhere unhalted => ?elsewhere,
      fun avail run a unhalted b unsealed => ?pending,
      fun avail halt a b noAck => ⟨fun free => ?resume, fun more => ?step, fun done => ?done⟩, fun avail a b room => ?poke⟩⟩
  case starts =>
    obtain ⟨slice, pos⟩ := slicing_st alone
    have held := katHold_cv (sliceAt s.marchSlices s.st.pos).1 (sliceAt s.marchSlices s.st.pos).2 s.slicing
    refine ⟨_, exec_cruiseSliceStart_starts due alone may free still, ?_, ?_, ?_⟩
    · rw [held]
      exact slice
    · rw [held]
      exact pos
    · rw [held]
      rfl
  case defers =>
    obtain ⟨batch, placed⟩ := takePlace_st alone
    have begun : (heldBegin (takePlace s)).st.slice = s.st.slice ∧ (heldBegin (takePlace s)).st.pos = s.st.pos ∧
        (heldBegin (takePlace s)).st.deferCnt = s.st.deferCnt := by
      show (takePlace s).st.slice = _ ∧ (takePlace s).st.pos = _ ∧ (takePlace s).st.deferCnt = _
      rw [placed]
      exact ⟨rfl, rfl, rfl⟩
    obtain ⟨slice, pos, count⟩ := begun
    exact ⟨_, exec_cruiseSliceStart_defers due alone may, slice.trans (slice_of_sliceDue due), pos, rfl, congrArg satInc count, rfl⟩
  case interrupts =>
    have st := cruiseInterrupt_slice (s := s.metered r) running
    refine ⟨_, exec_cruiseSliceEnd_interrupts running least most lost, ?_, ?_, ?_, cruiseInterrupt_f_fr, cruiseInterrupt_f_dev⟩
    · exact (congrArg St.slice st :)
    · exact (congrArg St.pos st :)
    · exact (congrArg St.intrCnt st :)
  case passes =>
    refine ⟨_, exec_cruiseSliceEnd_passes running least most locked one two source read more, ?_⟩
    rw [if_pos sig]
    exact ⟨rfl, rfl, BitVec.or_zero, rfl, rfl, rfl⟩
  case signature =>
    refine ⟨_, exec_cruiseSliceEnd_passes running least most locked one two source read more, ?_⟩
    rw [if_neg (ne_true_of_eq_false sig)]
    exact cruiseReport_holds (cause := 1) (addr := k) (s := s.passed (sliceAt s.marchSlices k).2 r) sound working
  case late =>
    have eq : recordFault (cruiseReport 8 .corrected 7 s.st.pos) (s.modSt (fun c => { c with late := true, lateRec := true })) =
        recordPlain (cruiseReport 8 .corrected 7 s.st.pos) (s.modSt (fun c => { c with late := true, lateRec := true })) :=
      recordFault_corrected rfl sound
    have rest := recordPlain_rest (cruiseReport 8 .corrected 7 s.st.pos) (s.modSt (fun c => { c with late := true, lateRec := true }))
    have count := recordPlain_cntCorr (cruiseReport 8 .corrected 7 s.st.pos)
        (s.modSt (fun c => { c with late := true, lateRec := true }))
    refine ⟨_, exec_cruiseLate_late cruise first late, ?_⟩
    rw [eq]
    refine ⟨?_, count, ?_⟩
    · rw [rest]
      rfl
    · rw [rest]
      rfl
  case stalled =>
    exact ⟨_, exec_cruiseStall_stalls cruise first stalled,
      cruiseReport_holds (cause := 2) (addr := s.st.pos) (s := s.modSt (fun c => { c with stallRec := true })) sound working⟩
  case unavailable =>
    exact ⟨(exec_debugHalt opened).trans (congrArg _ (debugHalt_unavailable (s := s.viaTap 0x21 0) gone)),
      (exec_debugResume opened).trans (congrArg _ (debugResume_unavailable (s := s.viaTap 0x21 0) gone)),
      (exec_debugStep opened).trans (congrArg _ (debugStep_unavailable (s := s.viaTap 0x21 0) gone)),
      fun e => (exec_dbgOpdataWrite opened v e).trans (congrArg _ (dbgOpdataWrite_unavailable (s := s.viaTap 0x21 9) gone v e))⟩
  case elsewhere => exact (exec_debugHalt opened).trans (congrArg _ (debugHalt_elsewhere elsewhere unhalted))
  case pending =>
    obtain ⟨ev, dev⟩ := marchYield_keeps (s.viaTap 0x21 0)
    have core (c : Side) : (s.viaTap 0x21 0).halting.core c = s.core c := core_of_ev ev c
    have eq : debugHalt (s.viaTap 0x21 0) = (s.viaTap 0x21 0).halting :=
      (debugHalt_running (s := s.viaTap 0x21 0) avail run unhalted).trans
        (tryCore_waits (by rw [core, a]) (by rw [core, b]) (by rw [core, unsealed]))
    exact ⟨_, (exec_debugHalt opened).trans (congrArg _ eq), rfl, dev.trans run, congrArg Ev.core ev⟩
  case resume =>
    obtain ⟨dev, inhib, tb⟩ := debugResume_idle (s := s.viaTap 0x21 0) avail halt a b free
    exact ⟨_, exec_debugResume opened, dev, inhib, congrArg Tb.now tb⟩
  case step =>
    obtain ⟨scans, issued, memory⟩ := stepping_cores (s.viaTap 0x21 0)
    obtain ⟨stepped, rest⟩ := stepping_rest (s.viaTap 0x21 0)
    exact ⟨_, (exec_debugStep opened).trans (congrArg _ (debugStep_steps (s := s.viaTap 0x21 0) avail halt a b more)), scans, issued,
      stepped, halt, memory, rest⟩
  case done => exact (exec_debugStep opened).trans (congrArg _ (debugStep_done (s := s.viaTap 0x21 0) done))
  case poke =>
    exact ⟨_, (exec_dbgOpdataWrite opened v none).trans (congrArg _ (dbgOpdataWrite_pokes (s := s.viaTap 0x21 9) avail a b room v)),
      rfl, rfl, rfl, rfl⟩

end Sys2Proof.Machine
end

section
/-!
PROOFS about the memory sheet: the scrubbers, a failing store and its copy, the log's writer, the tally page and the hourly steps.
They settle O59.
-/
namespace Sys2Proof.Machine

/-- What leaves all but the records, the ports and the memory sheet alone. -/
theorem Only.eq_of_fr_hp_ms {s t : State} (only : Only 278544 s t) : t = { s with fr := t.fr, hp := t.hp, ms := t.ms } := by
  cases s
  cases t
  simp only [State.mk.injEq, true_and]
  exact ⟨only.pending.resolve_left (by decide), only.dev.resolve_left (by decide), only.devAt.resolve_left (by decide),
    only.bad.resolve_left (by decide), only.sc.resolve_left (by decide), only.pcr.resolve_left (by decide),
    only.tb.resolve_left (by decide), only.st.resolve_left (by decide), only.ev.resolve_left (by decide),
    only.ib.resolve_left (by decide), only.ps.resolve_left (by decide), only.af.resolve_left (by decide),
    only.os.resolve_left (by decide), only.wq.resolve_left (by decide), only.pl.resolve_left (by decide),
    only.cv.resolve_left (by decide), only.free.resolve_left (by decide)⟩

/-! ## The scrubber (R382, R383) -/

/-- A word of a die is being scrubbed on the present tick. -/
def State.scrubbing (d : Side) (s : State) : State := s.modMs (fun m => { m with scrubAt := m.scrubAt.set d (some s.now) })

/-- What the scrubber does with what it finds. -/
def State.scrubbed (d : Side) (found : ScrubFind) (s : State) : State :=
  match found with
  | .clean => s
  | .single => scrubSingle d (s.ms.scrubPos.get d) s
  | .double => scrubDouble d (s.ms.scrubPos.get d) s

theorem exec_scrubStep {s : State} {d : Side} (tb : s.pcr.clk.tb = true) (ninth : s.tb.now.toNat % 9 = 0)
    (next : s.ms.scrubAt.get d ≠ some s.tb.now) (found : ScrubFind) :
    exec (.scrubStep d found) s = .next (scrubNext d ((s.scrubbing d).scrubbed d found)) := by
  have due : (!s.pcr.clk.tb || s.now.toNat % 9 ≠ 0 || (s.ms.scrubAt.get d) == some s.now) = false := by
    simp [tb, State.now, ninth, next]
  show execScrubStep d found s = _
  unfold execScrubStep
  refine congrArg Host.Outcome.next ((if_neg (ne_true_of_eq_false due)).trans ?_)
  cases found <;> rfl

theorem scrubNext_within {s : State} {d : Side} (within : s.ms.scrubPos.get d + 1 < 540672) :
    scrubNext d s = s.modMs (fun m => { m with scrubPos := m.scrubPos.set d (s.ms.scrubPos.get d + 1) }) := if_pos within

/-- The report of a single-bit error that the scrubber has written back. -/
def scrubReport (d : Side) (pos : Nat) : FaultRep :=
  { block := .ms, cause := 5, cls := .corrected, scope := 7, item := d.num, addr := pos + 2 ^ 31 * d.num, init := 1 + d.num, acc := 0xA }

theorem scrubSingle_sound {s : State} (sound : s.bad = []) (d : Side) (pos : Nat) : scrubSingle d pos s =
    recordPlain (scrubReport d pos) (s.modMs (fun m => { m with sramCorr := satInc m.sramCorr })) :=
  recordFault_corrected (f := scrubReport d pos) rfl sound

/-- The report of a double-bit error in operand or row memory. -/
def wordLostReport (d : Side) (pos : Nat) : FaultRep :=
  { block := .ms, cause := 2, cls := .fatal, scope := 0, item := 0, addr := pos % 8192 + 2 ^ 16 * (pos / 8192) + 2 ^ 17 * d.num,
    init := 1 + d.num, acc := 0xA }

theorem scrubDouble_core {pos : Nat} (core : pos < 16384) (d : Side) (s : State) :
    scrubDouble d pos s = recordFault (wordLostReport d pos) s := if_pos core

/-- The scrubber going on leaves HOLD and the faults of MS as they are. -/
theorem scrubNext_keeps {s : State} (d : Side) (hold : s.inHold) (cause item : Nat) (held : s.uncleared .ms cause item = true) :
    (scrubNext d s).inHold ∧ (scrubNext d s).uncleared .ms cause item = true := by
  unfold scrubNext
  dsimp only
  split
  · exact ⟨hold, held⟩
  · split
    · exact ⟨hold, held⟩
    · refine ⟨hold, ?_⟩
      rw [State.uncleared, causeAbsent, frOf_modRec_ne _ _ (by decide)]
      exact held

/-! ## Stores that fail and are copied (R386, R396, R397) -/

theorem exec_readScrub {s : State} (tb : s.pcr.clk.tb = true) (day : s.everyTicks 8640000000000 = true) :
    exec .readScrub s = .next (s.takeFree.2.modMs (fun m => { m with
      readScrub := some (s.tb.now + 1 + s.takeFree.1 % 180000000000) })) := congrArg _ (if_pos ⟨tb, day⟩)

theorem readScrub_bounded (now w : BitVec 64) : 1 ≤ (now + 1 + w % 180000000000 - now).toNat ∧
    (now + 1 + w % 180000000000 - now).toNat ≤ 180000000000 := by
  have least : (w % 180000000000).toNat < 180000000000 := by
    rw [BitVec.toNat_umod]
    exact Nat.mod_lt _ (by decide)
  generalize w % 180000000000 = x at least
  have span : now + 1 + x - now = 1 + x := by
    rw [BitVec.add_assoc, BitVec.add_comm, BitVec.add_sub_cancel]
  have one : (1 : BitVec 64).toNat = 1 := rfl
  rw [span, BitVec.toNat_add, one]
  omega

/-- The report of a store read that was corrected. -/
def storeReadReport (i : Side) (addr : Nat) : FaultRep :=
  { block := .ms, cause := 4, cls := .corrected, scope := 7, item := i.num, addr := addr, init := 0x30 + i.num, acc := 0xA }

theorem exec_storeTimeout_corrected {s : State} (tb : s.pcr.clk.tb = true) (sound : s.bad = []) (i : Side) (a : Nat) :
    exec (.storeTimeout i .corrected a) s =
      .next (recordPlain (storeReadReport i a) (s.modMs (fun m => { m with storeCorr := satInc m.storeCorr }))) :=
  congrArg Host.Outcome.next ((if_pos tb).trans (recordFault_corrected (f := storeReadReport i a) rfl sound))

/-- The report of a store that fails alone. -/
def storeFailReport (i : Side) (addr : Nat) : FaultRep :=
  { block := .ms, cause := 3, cls := .contained, scope := 0xA, item := i.num, addr := addr, init := 0x30 + i.num, acc := 0xA }

theorem exec_storeTimeout_fails {s : State} (tb : s.pcr.clk.tb = true) {i : Side} (other : s.uncleared .ms 3 i.other.num = false)
    (clocked : s.uncleared .pcr 7 i.other.num = false) (first : s.uncleared .ms 3 i.num = false) (a : Nat) :
    exec (.storeTimeout i .uncorrectable a) s = .next (logEvent 8 Block.ms.id 0 i.num
      (recordCore (storeFailReport i a) (s.modStore i (fun x => { x with st := .failed })))) := by
  have alone : storeFail i a s = logEvent 8 Block.ms.id 0 i.num
      (recordFault (storeFailReport i a) (s.modStore i (fun x => { x with st := .failed }))) := by
    unfold storeFail
    simp only [other, clocked, first, Bool.or_self, Bool.false_and, Bool.false_eq_true, if_false]
    rfl
  have recorded := recordFault_unshared (f := storeFailReport i a) (by simp [storeFailReport]) (by simp [resourceOf, storeFailReport])
    (s.modStore i (fun x => { x with st := .failed }))
  exact congrArg Host.Outcome.next ((if_pos tb).trans (alone.trans (congrArg _ recorded)))

theorem store_recordCore_contained {f : FaultRep} (contained : f.cls = .contained) (s : State) (j : Side) :
    (recordCore f s).store j = s.store j := congrArg (Two.get · j) (recordCore_contained_spares contained s).stores

theorem exec_storeResyncStart {s : State} {i : Side} (tb : s.pcr.clk.tb = true) (failed : (s.store i).st = .failed)
    (sound : (s.store i.other).st = .sound) (readable : (s.store i.other).readable = true) (clock : s.pcr.strOk.get i = true) :
    exec (.storeResyncStart i) s = .next (s.modStore i (fun x => { x with st := .resync, readable := true })) :=
  congrArg Host.Outcome.next (if_pos ⟨tb, failed, sound, readable, clock⟩)

/-- The state in which the copy of a store is complete. -/
def State.resynced (i : Side) (s : State) : State :=
  logEvent 8 Block.ms.id 1 i.num (causeAbsent .ms 3 i.num (s.modStore i (copyStore i (s.store i.other))))

theorem exec_resyncComplete {s : State} {i : Side} (copying : (s.store i).st = .resync) :
    exec (.resyncComplete i) s = .next (storeBack i (s.resynced i)) := congrArg _ (if_pos copying)

theorem resynced_only (i : Side) (s : State) : Only 278544 s (s.resynced i) :=
  logEvent_nx (causeAbsent_nx (modStore_nx (.refl _ _) rfl) rfl) rfl

theorem resynced_store (i : Side) (s : State) : (s.resynced i).store i = copyStore i (s.store i.other) (s.store i) ∧
    (s.resynced i).store i.other = s.store i.other := by
  rw [State.resynced, store_logEvent, store_logEvent, store_of_ms causeAbsent_f_ms, store_of_ms causeAbsent_f_ms, store_modStore,
    store_modStore_other]
  exact ⟨rfl, rfl⟩

theorem copyStore_eq (i : Side) (y x : Store) : ∃ wear, copyStore i y x = { y with
    st := .quiet, readable := x.readable, wear := wear,
    journal := y.journal.map (fun r => if r.sound i.other then r.seal i else { r with rcrc := r.crc i ^^^ 1 }) } := by
  unfold copyStore
  rw [wearRange_eq, wearRange_eq, wearRange_eq]
  exact ⟨_, rfl⟩

/-- A store whose copy is complete is in service again, or waits for the quiet period of its fault. -/
theorem storeBack_store {i : Side} {s : State} (quiet : (s.store i).st = .quiet) :
    (∃ st, (st = .quiet ∨ st = .sound) ∧ (storeBack i s).store i = { s.store i with st := st }) ∧
    (storeBack i s).store i.other = s.store i.other := by
  unfold storeBack
  split
  · exact ⟨⟨.quiet, .inl rfl, by rw [← quiet]⟩, rfl⟩
  · rw [store_modStore, store_modStore_other, if_pos quiet]
    exact ⟨⟨.sound, .inr rfl, rfl⟩, rfl⟩

/-! ## The log and the tally (R390, R394, R395) -/

theorem exec_logEntryWrite {s : State} {e : LogEntry} {es : List LogEntry} (tb : s.pcr.clk.tb = true)
    (buffered : s.ms.logBuf = e :: es)
    (kept : s.ms.logLost = 0) : exec .logEntryWrite s = .next ((modStores (fun _ => logPut { e with eseq := s.ms.logHead }) s).modMs
      (fun m => { m with logBuf := es, logHead := m.logHead + 1 })) := by
  have lost : (modStores (fun _ => logPut { e with eseq := s.ms.logHead }) s).ms.logLost = 0 := kept
  show execLogEntryWrite s = _
  unfold execLogEntryWrite
  simp only [tb, buffered, Bool.not_true, Bool.false_eq_true, if_false]
  exact congrArg Host.Outcome.next (if_pos lost)

theorem logPut_last (e : LogEntry) (x : Store) : (logPut e x).log.getLast? = some e := by
  simp [logPut]

/-- The page published for an assembled body: with its number and its check. -/
def tallyOf (pub : Word64) (body : List Byte) : List Byte :=
  leBytes 8 pub.toNat ++ body ++ leBytes 4 (crc32c (leBytes 8 pub.toNat ++ body)).toNat

/-- The state in which a page has been published. -/
def State.published (body : List Byte) (s : State) : State :=
  s.modMs (fun m => { m with pub := s.ms.pub + 1, tallyNew := none, tally := tallyOf (s.ms.pub + 1) body })

theorem exec_tallyPublish {s : State} {body : List Byte} (assembled : s.ms.tallyNew = some body) : exec .tallyPublish s = .next
    (if (s.ms.pub + 1).toNat % 1000 = 0 then
      modStores (fun _ => historyPut ((s.ms.pub + 1).toNat / 1000) ((tallyOf (s.ms.pub + 1) body).take 128)) (s.published body)
     else s.published body) := by
  show execTallyPublish s = _
  unfold execTallyPublish
  rw [assembled]
  rfl

theorem historyPut_last (hseq : Nat) (record : List Byte) (x : Store) :
    (historyPut hseq record x).history.getLast? = some (hseq, record) := by
  simp [historyPut]

/-! ## The hourly steps (R384, R388, R389, R392) -/

theorem Store.identIdx_cases (x : Store) :
    (x.identIdx = .b ∧ (x.ident.a.crcOk = false ∨ x.ident.b.crcOk = true ∧ x.ident.a.gen.toNat < x.ident.b.gen.toNat)) ∨
    (x.identIdx = .a ∧ x.ident.a.crcOk = true) := by
  unfold Store.identIdx
  cases a : x.ident.a.crcOk
  case false => exact .inl ⟨rfl, .inl rfl⟩
  case true =>
    cases b : x.ident.b.crcOk
    case false => exact .inr ⟨rfl, rfl⟩
    case true =>
      by_cases older : x.ident.a.gen.toNat < x.ident.b.gen.toNat
      · exact .inl ⟨if_pos older, .inr ⟨rfl, older⟩⟩
      · exact .inr ⟨if_neg older, rfl⟩

/-- The half that has been written with the next generation counts from then on, while the generations are not at their end. -/
theorem identIdx_rewritten {x : Store} (room : x.identity.gen ≠ 0xFFFFFFFF) {h : Identity} (gen : h.gen = x.identity.gen + 1)
    (ok : h.crcOk = true) (w : List (Nat × Nat)) :
    ({ x with wear := w, ident := x.ident.set x.identIdx.other h } : Store).identIdx = x.identIdx.other := by
  have next : h.gen.toNat = x.identity.gen.toNat + 1 := by
    have inside : x.identity.gen.toNat ≠ 4294967295 := fun e => room (BitVec.eq_of_toNat_eq e)
    have small := x.identity.gen.isLt
    have one : (1 : Word).toNat = 1 := rfl
    rw [gen, BitVec.toNat_add, one]
    omega
  rcases x.identIdx_cases with ⟨idx, -⟩ | ⟨idx, sound⟩
  · have cur : x.identity = x.ident.b := by rw [Store.identity, idx]; rfl
    rw [cur] at next
    have later : ¬ h.gen.toNat < x.ident.b.gen.toNat := by omega
    rw [idx]
    show (if !h.crcOk then Side.b else if !x.ident.b.crcOk then .a else if h.gen.toNat < x.ident.b.gen.toNat then .b else .a) = .a
    simp only [ok, if_neg later, ite_self, Bool.not_true, Bool.false_eq_true, if_false]
  · have cur : x.identity = x.ident.a := by rw [Store.identity, idx]; rfl
    rw [cur] at next
    have later : x.ident.a.gen.toNat < h.gen.toNat := by omega
    rw [idx]
    show (if !x.ident.a.crcOk then Side.b else if !h.crcOk then .a else if x.ident.a.gen.toNat < h.gen.toNat then .b else .a) = .b
    simp only [sound, ok, if_pos later, Bool.not_true, Bool.false_eq_true, if_false]

/-- A rewritten identity area reads as written while its generation is not at its end. -/
theorem setIdentity_identity {x : Store} (room : x.identity.gen ≠ 0xFFFFFFFF) (f : Identity → Identity) :
    ∃ gen ok, (x.setIdentity f).identity = { f x.identity with gen := gen, crcOk := ok } := by
  unfold Store.setIdentity
  dsimp only
  split
  · next same => exact ⟨_, _, same.symm⟩
  · refine ⟨x.identity.gen + 1, true, ?_⟩
    rw [wearRange_eq]
    have idx := identIdx_rewritten (x := x) room (h := { f x.identity with gen := x.identity.gen + 1, crcOk := true }) rfl rfl
      (wearRange 0x490000 1 x).wear
    rw [Store.identity]
    refine (congrArg (Two.get _) idx).trans ?_
    exact Two.get_set ..

theorem exec_wearCheckpoint {s : State} (tb : s.pcr.clk.tb = true) (hour : s.everyTicks 360000000000 = true) :
    exec .wearCheckpoint s = .next (checkpointWear s) := congrArg _ (if_pos ⟨tb, hour⟩)

/-- The wear counts and the journal's passes entered into an identity area. -/
def Store.checkpointed (x : Store) : Store :=
  x.setIdentity (fun i => { i with wear := x.wear, jpass := BitVec.ofNat 64 (x.jwritten * 3 / 131072) })

theorem checkpointWear_store {s : State} (first : s.ms.wearAt ≠ some s.tb.now) (j : Side) :
    (checkpointWear s).store j = if (s.store j).written = true then (s.store j).checkpointed else s.store j := by
  have kept := store_modStores (fun _ x => x.checkpointed) s j
  have eq : checkpointWear s = (modStores (fun _ x => x.checkpointed) s).modMs (fun m => { m with wearAt := some s.now }) := if_neg first
  rw [eq]
  exact kept

/-- The corrections of all converter pairs. -/
def State.corrections (s : State) : List Corr := (s.af.q.toList.map (fun x => x.corr.toList)).flatten

theorem exec_calibrationWrite {s : State} (tb : s.pcr.clk.tb = true) (hour : s.everyTicks 360000000000 = true) :
    exec .calibrationWrite s =
      .next (modStores (fun _ x => wearRange 0x480000 (4 * s.corrections.length) { x with cal := s.corrections }) s) :=
  congrArg Host.Outcome.next (if_pos ⟨tb, hour⟩)

/-- With nothing corrected since the last summary no entry is made. -/
theorem exec_correctedSummary_none {s : State} (tb : s.pcr.clk.tb = true) (hour : s.everyTicks 360000000000 = true)
    (same : ∀ b, (s.frOf b).cntCorr = s.ms.corrAt[b.idx]) :
    exec .correctedSummary s = .next (s.modMs (fun m => { m with corrAt := s.fr.map (fun r => r.cntCorr) })) := by
  have zero (b : Block) : s.corrDelta b = 0 := (congrArg (· - s.ms.corrAt[b.idx]) (same b)).trans (BitVec.sub_self _)
  have none (bs : List Block) (t : State) :
      (bs.map (fun b => (b, s.corrDelta b))).foldl (fun s e => if e.2 = 0 then s else logEvent 0xA e.1.id 0 e.2.toNat s) t = t := by
    induction bs with
    | nil => rfl
    | cons b bs ih => rw [List.map_cons, List.foldl_cons, if_pos (zero b), ih]
  show execCorrectedSummary s = _
  unfold execCorrectedSummary
  refine congrArg Host.Outcome.next ((if_neg (by simp [tb, hour])).trans ?_)
  exact none ..

/-- Settles O59: each row of the memory sheet by the state it leaves. -/
theorem storesLogAndTally : Obligations.StoresLogAndTally := by
  refine ⟨fun s d tb ninth next within => ⟨?clean, fun sound => ?single, fun core sound working => ?double⟩,
    fun s i a tb => ⟨fun day => ?readScrub, fun sound => ?corrected, fun sound other clocked first => ?fails,
      fun failed sound readable clock => exec_storeResyncStart tb failed sound readable clock, fun copying => ?resync⟩,
    fun s tb => ⟨fun e es buffered kept => ?log, fun body assembled => ?tally, fun hour first => ?wear, fun hour => ?calibration,
      fun hour same => ?summary⟩⟩
  case clean => exact (exec_scrubStep tb ninth next .clean).trans (congrArg Host.Outcome.next
      (scrubNext_within (s := s.scrubbing d) within))
  case single =>
    have eq := scrubSingle_sound (s := s.scrubbing d) sound d (s.ms.scrubPos.get d)
    have rest := recordPlain_rest (scrubReport d (s.ms.scrubPos.get d))
        ((s.scrubbing d).modMs (fun m => { m with sramCorr := satInc m.sramCorr }))
    have count := recordPlain_cntCorr (scrubReport d (s.ms.scrubPos.get d))
        ((s.scrubbing d).modMs (fun m => { m with sramCorr := satInc m.sramCorr }))
    have ms : (scrubSingle d (s.ms.scrubPos.get d) (s.scrubbing d)).ms =
        { s.ms with scrubAt := s.ms.scrubAt.set d (some s.tb.now), sramCorr := satInc s.ms.sramCorr } := by
      rw [eq, rest]
      rfl
    have goes := scrubNext_within (s := scrubSingle d (s.ms.scrubPos.get d) (s.scrubbing d)) (d := d) (by rw [ms]; exact within)
    refine ⟨_, (exec_scrubStep tb ninth next .single).trans (congrArg Host.Outcome.next goes), ?_, ?_, ?_, ?_⟩
    · rw [modMs_ms, ms]
    · rw [frOf_of_fr (modMs_fr _ _), eq]
      exact count
    · rw [modMs_ms, ms]
      exact Two.get_set ..
    · rw [eq, rest]
      rfl
  case double =>
    have eq := scrubDouble_core core d (s.scrubbing d)
    have hold := (fatalFaultEntersHold (wordLostReport d (s.ms.scrubPos.get d)) (s.scrubbing d) rfl sound (.inr working)).1
    have held := (recordedFaultIsUncleared (wordLostReport d (s.ms.scrubPos.get d)) (s.scrubbing d) (by simp [wordLostReport])).1
    rw [← eq] at hold held
    exact ⟨_, exec_scrubStep tb ninth next .double, scrubNext_keeps d hold 2 0 held⟩
  case readScrub =>
    obtain ⟨least, most⟩ := readScrub_bounded s.tb.now s.takeFree.1
    exact ⟨_, _, exec_readScrub tb day, rfl, least, most, rfl⟩
  case corrected =>
    have rest := recordPlain_rest (storeReadReport i a) (s.modMs (fun m => { m with storeCorr := satInc m.storeCorr }))
    have count := recordPlain_cntCorr (storeReadReport i a) (s.modMs (fun m => { m with storeCorr := satInc m.storeCorr }))
    refine ⟨_, exec_storeTimeout_corrected tb sound i a, ?_, count, ?_, ?_⟩
    all_goals
      rw [rest]
      rfl
  case fails =>
    have store (j : Side) : (logEvent 8 Block.ms.id 0 i.num (recordCore (storeFailReport i a)
        (s.modStore i (fun x => { x with st := .failed })))).store j =
        (s.modStore i (fun x => { x with st := .failed })).store j :=
      (store_logEvent ..).trans (store_recordCore_contained rfl _ j)
    refine ⟨_, exec_storeTimeout_fails tb other clocked first a, ?_, ?_, ?_, ?_, ?_⟩
    · rw [store, store_modStore]
    · rw [store, store_modStore]
    · rw [store, store_modStore_other]
    · rw [State.uncleared, logEvent, logPush_insts]
      exact recordCore_contained_uncleared (f := storeFailReport i a) rfl _
    · rw [logEvent_f_dev, recordCore_cont_f_dev rfl]
      rfl
  case resync =>
    obtain ⟨copied, other⟩ := resynced_store i s
    obtain ⟨wear, copy⟩ := copyStore_eq i (s.store i.other) (s.store i)
    obtain ⟨⟨st, served, back⟩, same⟩ := storeBack_store (s := s.resynced i) (i := i) (by rw [copied, copy])
    rw [copied, copy] at back
    refine ⟨_, exec_resyncComplete copying, ?_, ?_, ?_, same.trans other, ?_, ?_⟩
    · rw [back]
      exact .refl _
    · rw [back]
    · rw [back]
    · rw [back]
      exact served
    · exact (storeBack_nx (resynced_only i s) rfl).eq_of_fr_hp_ms
  case log =>
    have store (j : Side) := store_modStores (fun _ => logPut { e with eseq := s.ms.logHead }) s j
    refine ⟨_, exec_logEntryWrite tb buffered kept, rfl, rfl, fun j written => ?_, fun j off => ?_, rfl⟩
    · refine (congrArg (fun x : Store => x.log.getLast?) (store j)).trans ?_
      rw [if_pos written]
      exact logPut_last ..
    · exact (store j).trans (if_neg (ne_true_of_eq_false off))
  case tally =>
    refine ⟨_, exec_tallyPublish assembled, ?_⟩
    by_cases thousandth : (s.ms.pub + 1).toNat % 1000 = 0
    · have store (j : Side) := store_modStores (fun _ => historyPut ((s.ms.pub + 1).toNat / 1000)
          ((tallyOf (s.ms.pub + 1) body).take 128))
        (s.published body) j
      rw [if_pos thousandth]
      refine ⟨rfl, rfl, rfl, fun other => absurd thousandth other, fun _ j written => ?_, rfl⟩
      have written : ((s.published body).store j).written = true := written
      rw [store, if_pos written]
      exact historyPut_last ..
    · rw [if_neg thousandth]
      exact ⟨rfl, rfl, rfl, fun _ => rfl, fun whole => absurd whole thousandth, rfl⟩
  case wear =>
    refine ⟨_, exec_wearCheckpoint tb hour, fun j written room => ?_, fun j => ?_, ?_⟩
    · rw [checkpointWear_store first, if_pos written]
      obtain ⟨gen, ok, identity⟩ := setIdentity_identity room
        (fun i => { i with wear := (s.store j).wear, jpass := BitVec.ofNat 64 ((s.store j).jwritten * 3 / 131072) })
      rw [Store.checkpointed, identity]
    · rw [checkpointWear_store first]
      split
      · obtain ⟨w, ident, eq⟩ := setIdentity_eq
          (fun i => { i with wear := (s.store j).wear, jpass := BitVec.ofNat 64 ((s.store j).jwritten * 3 / 131072) }) (s.store j)
        rw [Store.checkpointed, eq]
        exact ⟨rfl, rfl, rfl⟩
      · exact ⟨rfl, rfl, rfl⟩
    · have eq := ((checkpointWear_only s).weaken (M := 278544) rfl).eq_of_fr_hp_ms
      rwa [checkpointWear_f_fr, checkpointWear_f_hp] at eq
  case calibration =>
    have store (j : Side) := store_modStores (fun _ x => wearRange 0x480000 (4 * s.corrections.length)
        { x with cal := s.corrections }) s j
    refine ⟨_, exec_calibrationWrite tb hour, fun j written => ?_, fun j => ?_, rfl⟩
    · rw [store, if_pos written, wearRange_eq]
      rfl
    · rw [store]
      split
      · rw [wearRange_eq]
        exact ⟨rfl, rfl⟩
      · exact ⟨rfl, rfl⟩
  case summary => exact ⟨_, exec_correctedSummary_none tb hour same, rfl, rfl⟩

end Sys2Proof.Machine
end

section
/-!
PROOFS about the user area: what a STORE_WRITE leaves in the stores, and a landing SRAM that lists its bytes out of order, whose data the
slice of an item does not find. They settle O57.
-/
namespace Sys2Proof.Machine

/-! ## STORE_WRITE (R384, R396) -/

/-- The state in which a STORE_WRITE of this descriptor has ended. -/
def State.userWritten (s : State) (p : Side) (n : Fin 8) (d : Desc) : State :=
  endItem p n 0 (BitVec.ofNat 32 d.len)
    (modStores (fun _ x => wearRange (0x4A0000 + d.arg0) d.len { x with user := msetList 0 x.user d.arg0 ((s.wport p).data d) })
      (beginTimed p n d true s))

theorem exec_storeWrite_ends {s : State} {p : Side} {n : Fin 8} {i : Item} (waits : s.itemWaits p n i 0x70) (arg1 : i.d.arg1 = 0)
    (arg2 : i.d.arg2 = 0) (arg3 : i.d.arg3 = 0) (aligned : i.d.arg0 % 8 = 0) (words : i.d.len % 8 = 0)
    (inside : i.d.arg0 + i.d.len ≤ 524288) (range : s.inRangeOk p i.d) (serves : s.dev ≠ .recovery)
    (free : s.marchMeets p i.d.winOff i.d.len = false) : exec (.storeWrite p n) s = .next (s.userWritten p n i.d) := by
  have begins := beginning_of_itemWaits waits
  have lenOk := lenOk_in range
  obtain ⟨-, -, -, -, -, flags, resv⟩ := waits
  obtain ⟨-, -, -, win⟩ := range
  have passes := itemCheck_passes (s := s) (p := p) (u := .in_) (args := i.d.arg1 == 0 && i.d.arg2 == 0 && i.d.arg3 == 0)
    (limits := userLimits i.d) (stateOk := s.dev != .recovery) flags resv (by simp [arg1, arg2, arg3]) lenOk
    (by simp [userLimits, aligned, words, inside]) win (by simp [serves])
  show execStoreWrite p n s = _
  simp only [execStoreWrite, begins, passes, runItem, free, Bool.false_eq_true, if_false]
  rfl

theorem userWritten_user {s : State} (p : Side) (n : Fin 8) (d : Desc) {j : Side} (written : (s.store j).written = true) :
    ((s.userWritten p n d).store j).user = msetList 0 (s.store j).user d.arg0 ((s.wport p).data d) := by
  have kept := beginItem_sameTables p n d s j
  have begun : ((beginTimed p n d true s).store j).written = true := by rw [store_beginTimed, kept.written, written]
  rw [State.userWritten, store_endItem, store_modStores, if_pos begun, wearRange_eq, store_beginTimed]
  exact congrArg (msetList 0 · d.arg0 ((s.wport p).data d)) kept.user

/-! ## A landing SRAM out of order -/

/-- A STORE_WRITE of the 8 bytes at the start of landing page 1, to the start of the user area. -/
def writeOfPage1 : Item :=
  { d := { opc := 0x70, flags := 0, resv := false, seq := 1, tag := 0, winOff := 4096, len := 8, hostAddr := 0, arg0 := 0, arg1 := 0,
           arg2 := 0, arg3 := 0 },
    skip := false, sqhd := 0, jseq := 0, stage := .accepted, mark := 0, old := false }

/-- In IDLE it waits on HP0's ring 0; of page 1, which the module owns, the landing SRAM lists byte 4097 before byte 4096, which
holds 7. -/
def landingOutOfOrder : State :=
  (({ State.reset with dev := .idle }).modWport .a (fun w => { w with landing := [(8, 0xD5), (4097, 1), (4096, 7)] })).modSq .a 0
    (fun q => { q with items := [writeOfPage1] })

theorem landingOutOfOrder_waits : landingOutOfOrder.itemWaits .a 0 writeOfPage1 0x70 := by
  unfold State.itemWaits
  decide +kernel

theorem landingOutOfOrder_range : landingOutOfOrder.inRangeOk .a writeOfPage1.d := by
  unfold State.inRangeOk
  decide +kernel

/-- Read alone byte 4096 is 7, but a slice looks for it before byte 4097 only. -/
theorem landingOutOfOrder_reads : mget 0 (landingOutOfOrder.wport .a).landing 4096 = 7 ∧
    (landingOutOfOrder.wport .a).data writeOfPage1.d = [0, 1, 0, 0, 0, 0, 0, 0] := by decide +kernel

/-- Refutes O57: its STORE_WRITE asks for a canonical user area, not for a canonical landing SRAM. Of `landingOutOfOrder` the item
writes a byte 0 where the landing byte, read alone, is 7. -/
theorem not_actingItems : ¬ Obligations.ActingItems := by
  intro holds
  obtain ⟨-, -, -, storeWrite⟩ := holds
  have serves : landingOutOfOrder.dev ≠ .recovery := by decide +kernel
  have free : landingOutOfOrder.marchMeets .a 4096 8 = false := by decide +kernel
  have sound : (landingOutOfOrder.store .a).written = true := by decide +kernel
  have user : (landingOutOfOrder.store .a).user = [] := by decide +kernel
  obtain ⟨byte, data⟩ := landingOutOfOrder_reads
  obtain ⟨t, ends, -, -, bytes, -⟩ := storeWrite landingOutOfOrder .a 0 writeOfPage1 landingOutOfOrder_waits rfl rfl rfl rfl rfl
    (by decide) landingOutOfOrder_range serves free
  have eq : t = landingOutOfOrder.userWritten .a 0 writeOfPage1.d := Host.Outcome.next.inj (ends.symm.trans
    (exec_storeWrite_ends landingOutOfOrder_waits rfl rfl rfl rfl rfl (by decide) landingOutOfOrder_range serves free))
  have copied : mget 0 (t.store .a).user 0 = 7 := (bytes .a sound (by rw [user]; rfl) 0).trans byte
  rw [eq, userWritten_user .a 0 writeOfPage1.d sound, user, data] at copied
  exact absurd copied (by decide)

end Sys2Proof.Machine
end
